-- ==== Sys2Proof/Word.lean ====
section
/-! DEFINITION. The words of the J624: bytes on the control ports, 24-bit samples, and the small index types of its numbering table (00_scope.md, Numbering). -/
namespace Sys2Proof

/-- One byte of a control port transfer (R185). -/
abbrev Byte := BitVec 8

/-- One sample: a signed 24-bit integer, held as its two's complement bits (00_scope.md, R1, R197). -/
abbrev Sample := BitVec 24

/-- One audio frame: a sample for each of the eight slots 0..7 (R161). -/
abbrev Frame := Vector Sample 8

/-- Tracks 0..5. -/
abbrev TrackId := Fin 6

/-- Input and output slots 0..7. -/
abbrev SlotId := Fin 8

/-- Switch codes 0..23. -/
abbrev SwitchCode := Fin 24

/-- The frame of eight zero samples. -/
def silence : Frame := Vector.replicate 8 0

/-- The two control ports (00_scope.md, External interfaces). -/
inductive Port where
  | a
  | b
  deriving DecidableEq, Repr

/-- The port that is not this one. -/
def Port.other : Port → Port
  | .a => .b
  | .b => .a

end Sys2Proof
end

