-- ==== Sys2Proof/Syntax.lean ====
section
/-! DEFINITION. The commands of the J624: one constructor of Instr for each row of spec/opcode_table.json, with the operands the spec gives it. The table has no fields, so the operands are read from the rule that owns the row; each docstring names it. -/
namespace Sys2Proof

/-- What the check code of one word says when the word is read (R139). The code itself is not specified, so the verdict comes with the completion that reads the word. -/
inductive WordCheck where
  /-- The stored sample is delivered. -/
  | good
  /-- One bit was flipped; the corrected sample is delivered. -/
  | corrected
  /-- The word cannot be corrected; 0 is delivered. -/
  | uncorrectable
  deriving DecidableEq, Repr

/-- The three background requesters of the arbiter (R141), in their round-robin order. -/
inductive Background where
  | fold
  | windowA
  | windowB
  deriving DecidableEq, Repr

/-- What every REQUEST transfer carries before its arguments (R187): its port, its tag (byte 2) and its declared argument length n (byte 3). -/
structure Req where
  port : Port
  tag : Byte
  len : Byte
  deriving DecidableEq, Repr

/-- How the work that meets at one frame arrival is interleaved, where the spec calls either order a valid outcome (R30, R62, R64, R91), and how a watchdog expiry lay among the bit clocks. The empty lists, `false` and 0 stand for one fixed order.
DESIGN CHOICE, log entry 4. Safe: a statement about FRAME SYNC holds for every order. -/
structure Order where
  /-- Takes the next due cue for `none`, and the wrap of a track for `some`; what is not listed follows, wraps by track number, then cues. -/
  work : List (Option TrackId)
  /-- The order in which the records in step are taken; records not listed follow by index. -/
  records : List (Fin 12)
  /-- Whether waiting bursts are handed over before the live bursts of the arrival (R64). -/
  waitingFirst : Bool
  /-- How many of the bit clocks since the previous frame sync ran before the watchdog expired, where it has since (R167, R168, log entry 25). -/
  beforeExpiry : Nat
  deriving DecidableEq, Repr

/-- The commands. A transfer other than REQUEST comes in segments: `fall` says that chip select falls before the segment's bytes, `rise` that it rises after them (R185). Request operands are the argument fields of R197's request table, one bit vector for each field; they are meaningful when the declared length is the table's. -/
inductive Instr where
  /-- RESET (R207): power-on, or the rise of RESETN. -/
  | reset
  /-- PWRLOW_ASSERT (R210). -/
  | pwrlowAssert
  /-- PWRLOW_RELEASE (R206). -/
  | pwrlowRelease
  /-- FRAME_SYNC (R163), after `clocks` bit clocks since the previous frame sync or reset, whose first 256 input bits are `adin`, bit clock 0 in the most significant bit. -/
  | frameSync (clocks : Nat) (adin : BitVec 256) (ord : Order)
  /-- WATCHDOG_EXPIRY (R168). -/
  | watchdogExpiry
  /-- HOLD_DEADLINE (R106) of one press machine. -/
  | holdDeadline (p : Port) (code : SwitchCode)
  /-- WINDOW_DEADLINE (R108): the double window of one press machine. -/
  | windowDeadline (p : Port) (code : SwitchCode)
  /-- BACKGROUND_LOCKOUT (R141) of one background requester. -/
  | backgroundLockout (who : Background)
  /-- WRITE_TIMEOUT (R144) of the burst at the head of the write-behind queue, the one queued longest. -/
  | writeTimeout
  /-- WINDOW_REQUEST_TIMEOUT (R154) of one port's window. -/
  | windowRequestTimeout (p : Port)
  /-- REFRESH_DUE (R142). -/
  | refreshDue
  /-- ARBITER_GRANT (R140). -/
  | arbiterGrant
  /-- REFRESH_COMPLETE (R142). -/
  | refreshComplete
  /-- PLAYBACK_READ_COMPLETE (R147); `checks` are the verdicts on the burst's words in offset order, good past its end. -/
  | playbackReadComplete (checks : List WordCheck)
  /-- CAPTURE_WRITE_COMPLETE (R144). -/
  | captureWriteComplete
  /-- FOLD_BURST_COMPLETE (R150), a member read with its verdicts, or a result write. -/
  | foldBurstComplete (checks : List WordCheck)
  /-- WINDOW_READ_COMPLETE (R152). -/
  | windowReadComplete (checks : List WordCheck)
  /-- WINDOW_COMMIT_COMPLETE (R153). -/
  | windowCommitComplete
  /-- WAITING_BURST_HANDOVER (R64). -/
  | waitingBurstHandover
  /-- BLOCK_TEST (R159) of the next block: how many of its words read back corrected, and whether it passed. -/
  | blockTest (corrected : Nat) (passed : Bool)
  /-- MEMORY_TEST_DONE (R159). -/
  | memoryTestDone
  /-- ENTER_SELF_REFRESH (R160). -/
  | enterSelfRefresh
  /-- REQUEST_CUT (R187); `bytes` are the bytes that arrived after the transfer code. -/
  | requestCut (p : Port) (bytes : List Byte)
  /-- UNKNOWN_REQUEST (R188), with the request code that names no request. -/
  | unknownRequest (h : Req) (code : Byte)
  /-- READ_REPLY (R190), a segment of `n` bytes. -/
  | readReply (p : Port) (fall : Bool) (n : Nat) (rise : Bool)
  /-- READ_EVENTS (R191), a segment of `n` bytes. -/
  | readEvents (p : Port) (fall : Bool) (n : Nat) (rise : Bool)
  /-- WINDOW_READ (R192), a segment of `n` bytes. -/
  | windowRead (p : Port) (fall : Bool) (n : Nat) (rise : Bool)
  /-- WINDOW_WRITE (R193), a segment of bytes in; after a fall the first of them is the transfer code. -/
  | windowWrite (p : Port) (fall : Bool) (bytes : List Byte) (rise : Bool)
  /-- STATUS (R195). -/
  | status (h : Req)
  /-- IDENTIFY (R196). -/
  | identify (h : Req)
  /-- SET INTEREST (R200). -/
  | setInterest (h : Req) (kinds : BitVec 32)
  /-- SET MASK LEVEL (R203). -/
  | setMaskLevel (h : Req) (level : Byte)
  /-- POST NOTE (R204); the note is the whole argument. -/
  | postNote (h : Req) (note : List Byte)
  /-- TAKE NOTE (R205). -/
  | takeNote (h : Req)
  /-- SET TEMPO (R10). -/
  | setTempo (h : Req) (bpm10 : BitVec 16) (beats : Byte)
  /-- SET LENGTH (R11). -/
  | setLength (h : Req) (frames : BitVec 32)
  /-- SET GRID (R13). -/
  | setGrid (h : Req) (beats : Byte) (perBar : Byte)
  /-- SET GRACE (R15). -/
  | setGrace (h : Req) (frames : BitVec 16)
  /-- TAP (R12). -/
  | tap (h : Req)
  /-- PLAY ALL (R22). -/
  | playAll (h : Req) (quantum : Byte)
  /-- STOP ALL (R21). -/
  | stopAll (h : Req) (quantum : Byte)
  /-- CLEAR ALL (R23). -/
  | clearAll (h : Req) (quantum : Byte)
  /-- RECORD (R32). -/
  | record (h : Req) (track quantum : Byte)
  /-- OVERDUB (R32). -/
  | overdub (h : Req) (track quantum : Byte)
  /-- REPLACE (R73). -/
  | replace (h : Req) (track quantum : Byte)
  /-- CLOSE (R33). -/
  | close (h : Req) (track quantum : Byte)
  /-- MUTE (R38). -/
  | mute (h : Req) (track quantum : Byte)
  /-- UNMUTE (R38). -/
  | unmute (h : Req) (track quantum : Byte)
  /-- UNDO (R35). -/
  | undo (h : Req) (track quantum : Byte)
  /-- REDO (R36). -/
  | redo (h : Req) (track quantum : Byte)
  /-- CLEAR TRACK (R37). -/
  | clearTrack (h : Req) (track quantum : Byte)
  /-- SET TRACK (R51). -/
  | setTrack (h : Req) (track : Byte) (feedback front ear : BitVec 16) (sources : Byte)
  /-- SET LAYER GAIN (R52). -/
  | setLayerGain (h : Req) (layer : Byte) (gain : BitVec 16)
  /-- READ TRACK (R53). -/
  | readTrack (h : Req) (track : Byte)
  /-- READ LAYER (R54). -/
  | readLayer (h : Req) (layer : Byte)
  /-- CANCEL CUE (R94). -/
  | cancelCue (h : Req) (cue : BitVec 16)
  /-- READ CUES (R99). -/
  | readCues (h : Req)
  /-- SET SWITCH (R103). -/
  | setSwitch (h : Req) (code tapAct holdAct doubleAct target quantum : Byte)
  /-- SET PRESS TIMING (R104). -/
  | setPressTiming (h : Req) (hold double : BitVec 16)
  /-- SWITCH DOWN (R105). -/
  | switchDown (h : Req) (code : Byte)
  /-- SWITCH UP (R107). -/
  | switchUp (h : Req) (code : Byte)
  /-- SELECT TRACK (R115). -/
  | selectTrack (h : Req) (track : Byte)
  /-- SET MONITOR (R126). -/
  | setMonitor (h : Req) (slot : Byte) (front ear : BitVec 16)
  /-- SET BUS (R131). -/
  | setBus (h : Req) (front ear : BitVec 16)
  /-- SET CLICK (R128). -/
  | setClick (h : Req) (enable : Byte) (level : BitVec 24)
  /-- SET OUTPUT (R133); the source is its kind byte and its number byte. -/
  | setOutput (h : Req) (slot kind number : Byte)
  /-- SET EDGE (R132). -/
  | setEdge (h : Req) (frames : BitVec 16)
  /-- READ CLIPS (R134). -/
  | readClips (h : Req) (clear : Byte)
  /-- OPEN WINDOW (R151). -/
  | openWindow (h : Req) (layer : Byte) (offset : BitVec 32) (direction mode : Byte)
  /-- CLOSE WINDOW (R155). -/
  | closeWindow (h : Req)
  /-- IMPORT LAYER (R156). -/
  | importLayer (h : Req) (track span : Byte) (start length : BitVec 32) (cover : Byte) (gain : BitVec 16)
  /-- SET WINDOW TIMEOUT (R154). -/
  | setWindowTimeout (h : Req) (millis : BitVec 16)
  /-- SET LINK THRESHOLD (R170). -/
  | setLinkThreshold (h : Req) (frames : BitVec 16)
  /-- CLEAR LINK COUNT (R171). -/
  | clearLinkCount (h : Req)
  /-- READ FAULTS (R182). -/
  | readFaults (h : Req)
  /-- CLEAR FAULTS (R183). -/
  | clearFaults (h : Req) (sequence : BitVec 32)
  /-- REST (R208). -/
  | rest (h : Req)
  /-- WAKE (R209). -/
  | wake (h : Req)
  /-- RESET PART (R207). -/
  | resetPart (h : Req)
  /-- RESETN_LOW (R207). -/
  | resetnLow
  deriving DecidableEq, Repr

end Sys2Proof
end

