-- ==== Sys2Proof/Decode.lean ====
section
/-! DEFINITION. Decoding. The rows of spec/opcode_table.json have no bits, so no table word spells a command. What the part does decode is the bytes of a REQUEST transfer (R187, R197): decodeRequest reads them, and encodeRequest writes them. decodeTransfer picks the transfer by its first byte (R185). -/
namespace Sys2Proof

/-- The command that a word spells by the table's bits: none, since the table gives no row any bits. -/
def decodeTableWord (_nbits _w : Nat) : Option Instr := none

/-! ### Multi-byte fields, most significant byte first (R197) -/

/-- Byte i of a list; absent bytes are 0. -/
def byteAt (l : List Byte) (i : Nat) : Byte := l.getD i 0

/-- A 16-bit field from byte i. -/
def wordAt (l : List Byte) (i : Nat) : BitVec 16 := byteAt l i ++ byteAt l (i + 1)

/-- A 24-bit field from byte i. -/
def tripleAt (l : List Byte) (i : Nat) : BitVec 24 := byteAt l i ++ byteAt l (i + 1) ++ byteAt l (i + 2)

/-- A 32-bit field from byte i. -/
def quadAt (l : List Byte) (i : Nat) : BitVec 32 := wordAt l i ++ wordAt l (i + 2)

/-- The two bytes of a 16-bit field. -/
def wordBytes (x : BitVec 16) : List Byte := [x.extractLsb' 8 8, x.extractLsb' 0 8]

/-- The three bytes of a 24-bit field. -/
def tripleBytes (x : BitVec 24) : List Byte := [x.extractLsb' 16 8, x.extractLsb' 8 8, x.extractLsb' 0 8]

/-- The four bytes of a 32-bit field. -/
def quadBytes (x : BitVec 32) : List Byte :=
  [x.extractLsb' 24 8, x.extractLsb' 16 8, x.extractLsb' 8 8, x.extractLsb' 0 8]

/-! ### The request table (R197) -/

/-- Code, table length and argument bytes of a request command; none for a command that is no request with a known code. POST NOTE's table length is that of its note. -/
def requestFields : Instr → Option (Req × Byte × Nat × List Byte)
  | .status h => some (h, 1, 0, [])
  | .identify h => some (h, 2, 0, [])
  | .setInterest h kinds => some (h, 3, 4, quadBytes kinds)
  | .setMaskLevel h level => some (h, 4, 1, [level])
  | .postNote h note => some (h, 5, note.length, note)
  | .takeNote h => some (h, 6, 0, [])
  | .setTempo h bpm10 beats => some (h, 16, 3, wordBytes bpm10 ++ [beats])
  | .setLength h frames => some (h, 17, 4, quadBytes frames)
  | .setGrid h beats perBar => some (h, 18, 2, [beats, perBar])
  | .setGrace h frames => some (h, 19, 2, wordBytes frames)
  | .tap h => some (h, 20, 0, [])
  | .playAll h quantum => some (h, 21, 1, [quantum])
  | .stopAll h quantum => some (h, 22, 1, [quantum])
  | .clearAll h quantum => some (h, 23, 1, [quantum])
  | .record h track quantum => some (h, 32, 2, [track, quantum])
  | .overdub h track quantum => some (h, 33, 2, [track, quantum])
  | .replace h track quantum => some (h, 34, 2, [track, quantum])
  | .close h track quantum => some (h, 35, 2, [track, quantum])
  | .mute h track quantum => some (h, 36, 2, [track, quantum])
  | .unmute h track quantum => some (h, 37, 2, [track, quantum])
  | .undo h track quantum => some (h, 38, 2, [track, quantum])
  | .redo h track quantum => some (h, 39, 2, [track, quantum])
  | .clearTrack h track quantum => some (h, 40, 2, [track, quantum])
  | .setTrack h track feedback front ear sources =>
    some (h, 41, 8, [track] ++ wordBytes feedback ++ wordBytes front ++ wordBytes ear ++ [sources])
  | .setLayerGain h layer gain => some (h, 42, 3, [layer] ++ wordBytes gain)
  | .readTrack h track => some (h, 43, 1, [track])
  | .readLayer h layer => some (h, 44, 1, [layer])
  | .cancelCue h cue => some (h, 48, 2, wordBytes cue)
  | .readCues h => some (h, 49, 0, [])
  | .setSwitch h code tapAct holdAct doubleAct target quantum =>
    some (h, 56, 6, [code, tapAct, holdAct, doubleAct, target, quantum])
  | .setPressTiming h hold double => some (h, 57, 4, wordBytes hold ++ wordBytes double)
  | .switchDown h code => some (h, 58, 1, [code])
  | .switchUp h code => some (h, 59, 1, [code])
  | .selectTrack h track => some (h, 60, 1, [track])
  | .setMonitor h slot front ear => some (h, 64, 5, [slot] ++ wordBytes front ++ wordBytes ear)
  | .setBus h front ear => some (h, 65, 4, wordBytes front ++ wordBytes ear)
  | .setClick h enable level => some (h, 66, 4, [enable] ++ tripleBytes level)
  | .setOutput h slot kind number => some (h, 67, 3, [slot, kind, number])
  | .setEdge h frames => some (h, 68, 2, wordBytes frames)
  | .readClips h clear => some (h, 69, 1, [clear])
  | .openWindow h layer offset direction mode =>
    some (h, 80, 7, [layer] ++ quadBytes offset ++ [direction, mode])
  | .closeWindow h => some (h, 81, 0, [])
  | .importLayer h track span start length cover gain =>
    some (h, 82, 13, [track, span] ++ quadBytes start ++ quadBytes length ++ [cover] ++ wordBytes gain)
  | .setWindowTimeout h millis => some (h, 83, 2, wordBytes millis)
  | .setLinkThreshold h frames => some (h, 88, 2, wordBytes frames)
  | .clearLinkCount h => some (h, 89, 0, [])
  | .readFaults h => some (h, 96, 0, [])
  | .clearFaults h sequence => some (h, 97, 4, quadBytes sequence)
  | .rest h => some (h, 112, 0, [])
  | .wake h => some (h, 113, 0, [])
  | .resetPart h => some (h, 114, 0, [])
  | .reset | .pwrlowAssert | .pwrlowRelease | .frameSync .. | .watchdogExpiry | .holdDeadline ..
  | .windowDeadline .. | .backgroundLockout _ | .writeTimeout | .windowRequestTimeout _ | .refreshDue
  | .arbiterGrant | .refreshComplete | .playbackReadComplete _ | .captureWriteComplete
  | .foldBurstComplete _ | .windowReadComplete _ | .windowCommitComplete | .waitingBurstHandover
  | .blockTest .. | .memoryTestDone | .enterSelfRefresh | .requestCut .. | .unknownRequest ..
  | .readReply .. | .readEvents .. | .windowRead .. | .windowWrite .. | .resetnLow => none

/-- The port of a command that is a REQUEST transfer, whole or cut short (R187); none for every other command. -/
def requestPort (i : Instr) : Option Port :=
  match i with
  | .requestCut p _ => some p
  | .unknownRequest h _ => some h.port
  | _ =>
    match requestFields i with
    | some (h, _) => some h.port
    | none => none

/-- The request that a code names, with the fields of its argument bytes (R197). -/
def requestOf (h : Req) (code : Byte) (a : List Byte) : Instr :=
  match code.toNat with
  | 1 => .status h
  | 2 => .identify h
  | 3 => .setInterest h (quadAt a 0)
  | 4 => .setMaskLevel h (byteAt a 0)
  | 5 => .postNote h a
  | 6 => .takeNote h
  | 16 => .setTempo h (wordAt a 0) (byteAt a 2)
  | 17 => .setLength h (quadAt a 0)
  | 18 => .setGrid h (byteAt a 0) (byteAt a 1)
  | 19 => .setGrace h (wordAt a 0)
  | 20 => .tap h
  | 21 => .playAll h (byteAt a 0)
  | 22 => .stopAll h (byteAt a 0)
  | 23 => .clearAll h (byteAt a 0)
  | 32 => .record h (byteAt a 0) (byteAt a 1)
  | 33 => .overdub h (byteAt a 0) (byteAt a 1)
  | 34 => .replace h (byteAt a 0) (byteAt a 1)
  | 35 => .close h (byteAt a 0) (byteAt a 1)
  | 36 => .mute h (byteAt a 0) (byteAt a 1)
  | 37 => .unmute h (byteAt a 0) (byteAt a 1)
  | 38 => .undo h (byteAt a 0) (byteAt a 1)
  | 39 => .redo h (byteAt a 0) (byteAt a 1)
  | 40 => .clearTrack h (byteAt a 0) (byteAt a 1)
  | 41 => .setTrack h (byteAt a 0) (wordAt a 1) (wordAt a 3) (wordAt a 5) (byteAt a 7)
  | 42 => .setLayerGain h (byteAt a 0) (wordAt a 1)
  | 43 => .readTrack h (byteAt a 0)
  | 44 => .readLayer h (byteAt a 0)
  | 48 => .cancelCue h (wordAt a 0)
  | 49 => .readCues h
  | 56 => .setSwitch h (byteAt a 0) (byteAt a 1) (byteAt a 2) (byteAt a 3) (byteAt a 4) (byteAt a 5)
  | 57 => .setPressTiming h (wordAt a 0) (wordAt a 2)
  | 58 => .switchDown h (byteAt a 0)
  | 59 => .switchUp h (byteAt a 0)
  | 60 => .selectTrack h (byteAt a 0)
  | 64 => .setMonitor h (byteAt a 0) (wordAt a 1) (wordAt a 3)
  | 65 => .setBus h (wordAt a 0) (wordAt a 2)
  | 66 => .setClick h (byteAt a 0) (tripleAt a 1)
  | 67 => .setOutput h (byteAt a 0) (byteAt a 1) (byteAt a 2)
  | 68 => .setEdge h (wordAt a 0)
  | 69 => .readClips h (byteAt a 0)
  | 80 => .openWindow h (byteAt a 0) (quadAt a 1) (byteAt a 5) (byteAt a 6)
  | 81 => .closeWindow h
  | 82 => .importLayer h (byteAt a 0) (byteAt a 1) (quadAt a 2) (quadAt a 6) (byteAt a 10) (wordAt a 11)
  | 83 => .setWindowTimeout h (wordAt a 0)
  | 88 => .setLinkThreshold h (wordAt a 0)
  | 89 => .clearLinkCount h
  | 96 => .readFaults h
  | 97 => .clearFaults h (quadAt a 0)
  | 112 => .rest h
  | 113 => .wake h
  | 114 => .resetPart h
  | _ => .unknownRequest h code

/-- The argument length that the request table gives a code; none for POST NOTE, which takes its own, and for a code that names no request (R197). -/
def tableLength (code : Byte) : Option Nat :=
  match code.toNat with
  | 5 => none
  | _ =>
    match requestFields (requestOf { port := .a, tag := 0, len := 0 } code []) with
    | some (_, _, n, _) => some n
    | none => none

/-- The argument bytes a request is read from: those that arrived when the length is the table's, and none otherwise, since such a request is refused before its arguments are read (R187, R188). -/
def takenBytes (code len : Byte) (arrived : List Byte) : List Byte :=
  if 60 < len.toNat then []
  else
    match tableLength code with
    | some n => if len.toNat = n then arrived.take n else []
    | none => if code.toNat = 5 then arrived.take len.toNat else []

/-- The command that a REQUEST transfer of a port is, from its bytes, the transfer code first (R187): cut short of its declared length, or whole. -/
def decodeRequest (p : Port) : List Byte → Option Instr
  | [] => none
  | c :: rest =>
    if c.toNat ≠ 1 then none
    else
      match rest with
      | code :: tag :: len :: a =>
        if len.toNat ≤ 60 ∧ a.length < len.toNat then some (.requestCut p rest)
        else some (requestOf { port := p, tag := tag, len := len } code (takenBytes code len a))
      | _ => some (.requestCut p rest)

/-! ### Transfers (R185) -/

/-- The transfers that a port can bring, by their codes (R185). -/
inductive TransferCode where
  | request
  | readReply
  | readEvents
  | windowRead
  | windowWrite
  deriving DecidableEq, Repr

/-- The transfer that a transfer code names (R185). -/
def transferCode (b : Byte) : Option TransferCode :=
  match b.toNat with
  | 1 => some .request
  | 2 => some .readReply
  | 3 => some .readEvents
  | 4 => some .windowRead
  | 5 => some .windowWrite
  | _ => none

/-- The command that a port's transfer is, from its whole bytes in, the transfer code first, up to the rise of chip select, or up to a pause when `rise` is false: byte 0 picks the transfer (R185). None for a transfer that ends before its latch point, which changes nothing, and for a REQUEST that has not ended, which is taken at the rise (R187). A transfer of an unknown code comes as WINDOW_WRITE (log entry 45). -/
def decodeTransfer (p : Port) (arrived : List Byte) (rise : Bool) : Option Instr :=
  match arrived with
  | [] => none
  | c :: _ =>
    match transferCode c with
    | some .request => if rise then decodeRequest p arrived else none
    | some .readReply => some (.readReply p true arrived.length rise)
    | some .readEvents => some (.readEvents p true arrived.length rise)
    | some .windowRead => some (.windowRead p true arrived.length rise)
    | some .windowWrite | none => some (.windowWrite p true arrived rise)

/-- The bytes of a REQUEST transfer that is a command (R187, R197); none for a command that is no REQUEST transfer. Arguments that are not read are sent as zeros. -/
def encodeRequest (i : Instr) : Option (List Byte) :=
  match i with
  | .requestCut _ arrived => some (1 :: arrived)
  | .unknownRequest h code =>
    some (1 :: code :: h.tag :: h.len :: (if 60 < h.len.toNat then [] else List.replicate h.len.toNat 0))
  | _ =>
    match requestFields i with
    | some (h, code, n, a) =>
      some (1 :: code :: h.tag :: h.len ::
        (if 60 < h.len.toNat then []
         else if h.len.toNat = n then a
         else List.replicate h.len.toNat 0))
    | none => none

end Sys2Proof
end

