-- ==== Sys2Proof/Config.lean ====
section
/-! DEFINITION. What the part fixes, and the free values: reply encodings that the manual names but does not lay out. A free value is an opaque constant, so no proof can rest on what it is. -/
namespace Sys2Proof.Config

/-- Periods of the 16.000 MHz crystal in one millisecond (08_audio_serial_port.md, 8.8). The model counts the millisecond timebase in these periods.
DESIGN CHOICE, log entry 2. Unsafe. -/
def ticksPerMs : Nat := 16000

/-- A duration of `n` milliseconds on the millisecond timebase. -/
def ms (n : Nat) : Nat := n * ticksPerMs

/-- The byte that stands for the target ALL in a reply. R99 and R111 name the value; R197 gives it no code.
Free value, log entry 5. Safe. -/
opaque targetAllCode : Byte

/-- The byte that stands for the handed-on action number `n` of a last outcome record. R111 names the values; R197 gives the list that mixes them with JOIN and CANCEL no code.
Free value, log entry 5. Safe. -/
opaque handedOnCode (n : Nat) : Byte

/-- The bytes that stand for an item a rule calls absent where R197 gives its kind no absent encoding: 0 the due or point of a last outcome record, 1 the last outcome record.
Free value, log entry 5. Safe. -/
opaque absentBytes (item : Nat) : List Byte

/-- The bytes of a folding pair in READ TRACK's stack list, from the ids of the older and newer member. R53 says that the two ids are marked as a pair; R197 does not say how.
Free value, log entry 5. Safe. -/
opaque pairBytes (older newer : Byte) : List Byte

/-- The next offset that CLOSE WINDOW reports for a REVERSE window that has taken offset 0. R152 and R155 do not say what lies past offset 0.
Free value, log entry 6. Safe. -/
opaque reversePastZero : BitVec 32

end Sys2Proof.Config
end

