-- ==== Sys2Proof/Machine/State.lean ====
section
/-! DEFINITION. The state of the J624 as plain data, block by block (00_scope.md, Blocks), the reasons a step can stop, and State.reset. -/
namespace Sys2Proof.Machine

open Sys2Proof

/-! ### Cycle timer (01, 1.1) -/

/-- The cycle state (R2). -/
inductive CycleState where
  | empty
  | defining
  | running
  | paused
  deriving DecidableEq, Repr

/-- The tap sequence (R12): its tap count 0..3, the stamp of its last tap and the sum of its intervals. Empty is count 0. -/
structure TapSeq where
  count : Nat
  last : Nat
  sum : Nat
  deriving DecidableEq, Repr

/-- The cycle timer (R2). -/
structure Cycle where
  state : CycleState
  /-- Cycle length L, absent in EMPTY and DEFINING. -/
  len : Option Nat
  pos : Nat
  /-- Origin pending. -/
  origin : Bool
  pass : Nat
  /-- Beats per cycle B. -/
  beats : Nat
  /-- Beats per bar P. -/
  perBar : Nat
  /-- Grace G. -/
  grace : Nat
  /-- The free-running frame count, which is the stamp of the most recent arrival that advanced it (R3). -/
  frameCount : Nat
  /-- Cycle generation. -/
  gen : Nat
  tap : TapSeq
  ignoredTaps : Nat
  deriving DecidableEq, Repr

/-- The time of a press or request (R17), with the millisecond timebase at that moment (R81, R109). -/
structure PressTime where
  pass : Nat
  pos : Nat
  frame : Nat
  gen : Nat
  /-- The millisecond timebase, in crystal periods. -/
  time : Nat
  deriving DecidableEq, Repr

/-! ### Track controller (02) -/

/-- The state of a track (2.2). -/
inductive TrackState where
  | empty
  | recording
  | playing
  | overdubbing
  | replacing
  deriving DecidableEq, Repr

/-- An entry of a stack (R29): one layer, or the folding pair. -/
inductive Entry where
  | single (layer : Nat)
  | pair (older newer : Nat)
  deriving DecidableEq, Repr

/-- A track record (R25). -/
structure Track where
  state : TrackState
  span : Option Nat
  heldSpan : Option Nat
  feedback : Nat
  /-- Record source mask: bit s for input slot s. -/
  sources : BitVec 8
  frontSend : Nat
  earSend : Nat
  muteTarget : Nat
  /-- Mute ramp value m. -/
  ramp : Nat
  /-- Oldest first. -/
  stack : List Entry
  /-- Newest first. -/
  redo : List Nat
  openLayer : Option Nat
  /-- Pending-close marker: (rolled-from, successor). -/
  marker : Option (Nat × Nat)
  foldClips : Nat
  deriving DecidableEq, Repr

/-- The state of a layer record (2.3). -/
inductive LayerState where
  | opened
  | closed
  | folding
  | importing
  | undone
  deriving DecidableEq, Repr

/-- The origin of a layer record (2.3). -/
inductive LayerOrigin where
  | recorded
  | rolled
  | folded
  | imported
  deriving DecidableEq, Repr

/-- Where a layer starts: a track position, or the pass and cycle position of an open first layer (2.3). -/
inductive LayerStart where
  | at (q : Nat)
  | first (pass pos : Nat)
  deriving DecidableEq, Repr

/-- A range of layer offsets (R146). -/
structure Range where
  first : Nat
  len : Nat
  deriving DecidableEq, Repr

/-- A read-ahead buffer (R147). -/
structure ReadBuf where
  aim : Nat
  fill : Nat
  data : List Sample
  /-- Whether a read is in flight. -/
  flight : Bool
  deriving DecidableEq, Repr

/-- A layer record in use (2.3), with the items the memory controller keeps for it. A free record is one that State.layers does not list. -/
structure Layer where
  track : TrackId
  state : LayerState
  origin : LayerOrigin
  start : LayerStart
  length : Nat
  cover : Bool
  head : Bool
  tail : Bool
  gain : Nat
  damaged : Bool
  /-- The hole list (R146). -/
  holes : List Range
  /-- Block numbers in offset order (R137). -/
  extents : List Nat
  /-- Block numbers within the extents that gave an uncorrectable word. -/
  suspects : List Nat
  /-- The offsets that are stored (R144), kept as the hole list is. Implied state, log entry 7. -/
  stored : List Range
  /-- The port that created an importing layer (R156). -/
  creator : Option Port
  /-- Samples committed of an import (R153). -/
  committed : Nat
  /-- The record's read-ahead buffer (R147). -/
  buf : ReadBuf
  deriving DecidableEq, Repr

/-- One member read the fold engine still owes the result burst it works on (R150). -/
structure FoldRead where
  /-- Whether the read is of the newer member. -/
  newer : Bool
  first : Nat
  len : Nat
  deriving DecidableEq, Repr

/-- The fold engine while BUSY (R43), with its progress through the result burst it works on (R150). -/
structure Fold where
  track : TrackId
  older : Nat
  newer : Nat
  result : Nat
  gainOlder : Nat
  gainNewer : Nat
  /-- The edge length R at the fold's start. -/
  edge : Nat
  /-- The pending result gain. -/
  pendingGain : Nat
  nextOff : Nat
  clips : Nat
  /-- Member reads still to make, in order. -/
  reads : List FoldRead
  /-- Samples read of each member, by member offset; an offset not listed counts as 0. -/
  gotOlder : List (Nat × Sample)
  gotNewer : List (Nat × Sample)
  /-- The result burst once its reads are done, waiting to be written. -/
  out : Option (List Sample)
  /-- Whether the request at hand has been granted. -/
  granted : Bool
  deriving DecidableEq, Repr

/-! ### Capture unit (03) -/

/-- The phase of a capture record (3.5). -/
inductive Phase where
  | inStep
  | filling
  | draining
  deriving DecidableEq, Repr

/-- A capture record in use (3.1). Stamps are values of the free-running frame count. -/
structure CapRec where
  layer : Nat
  track : TrackId
  phase : Phase
  startStamp : Nat
  readStamp : Nat
  endStamp : Option Nat
  nextOff : Nat
  buf : List Sample
  closeOrder : Option Nat
  deriving DecidableEq, Repr

/-- The capture unit (R55). The eight lookback rings are held as one list of (place, frame) pairs: a place not listed holds eight zeros, as reset leaves it. -/
structure Capture where
  rings : List (Nat × Frame)
  records : Vector (Option CapRec) 12
  closeOrder : Nat
  deriving DecidableEq, Repr

/-! ### Cue list (04) -/

/-- The actions of cue entries (4.2). -/
inductive Action where
  | record
  | overdub
  | replace
  | close
  | mute
  | unmute
  | undo
  | redo
  | stopAll
  | playAll
  deriving DecidableEq, Repr

/-- The families of actions (R80). -/
inductive Family where
  | transport
  | mute
  | stack
  | all
  deriving DecidableEq, Repr

/-- The quanta (R14, R197). -/
inductive Quantum where
  | none
  | beat
  | bar
  | cycle
  deriving DecidableEq, Repr

/-- A cue entry (4.2). -/
structure Cue where
  id : Nat
  origin : Port
  /-- Joined ports. -/
  joinedA : Bool
  joinedB : Bool
  action : Action
  /-- The target track; none is ALL. -/
  target : Option TrackId
  quantum : Quantum
  press : PressTime
  duePass : Nat
  duePos : Nat
  deriving DecidableEq, Repr

/-- The cue list (R79). -/
structure CueList where
  entries : List Cue
  nextId : Nat
  deriving DecidableEq, Repr

/-! ### Reply status codes (R194) -/

/-- The status codes of replies, in the order of their code values (R194, R197). -/
inductive Status where
  | ok
  | accepted
  | joined
  | badArg
  | badState
  | busy
  | full
  | stackFull
  | noMemory
  | notFound
  | resting
  | starting
  | stale
  | cut
  | unknown
  | mailboxFull
  | empty
  | timeout
  deriving DecidableEq, Repr

/-! ### Switch interpreter (05) -/

/-- The action list of the switch map (5.2). -/
inductive SwAction where
  | none
  | recordCycle
  | overdubToggle
  | replaceToggle
  | close
  | muteToggle
  | undo
  | redo
  | clearTrack
  | selectNext
  | selectPrevious
  | playStopAll
  | tap
  deriving DecidableEq, Repr

/-- The target of a map entry: a track, or SELECTED (5.2). -/
inductive SwTarget where
  | track (t : TrackId)
  | selected
  deriving DecidableEq, Repr

/-- A switch map entry (5.2). -/
structure MapEntry where
  tap : SwAction
  hold : Option SwAction
  double : Option SwAction
  target : SwTarget
  quantum : Quantum
  deriving DecidableEq, Repr

/-- The entry copy of a machine in AWAIT SECOND (5.3). -/
structure EntryCopy where
  tap : SwAction
  double : SwAction
  target : SwTarget
  quantum : Quantum
  deriving DecidableEq, Repr

/-- A press machine with its timing items (5.3). A hold deadline that has fallen due without a hold action (R106) is absent. -/
inductive Machine where
  | up
  | down (press : PressTime) (deadline : Option Nat)
  | held
  | awaitSecond (press : PressTime) (deadline : Nat) (copy : EntryCopy)
  deriving DecidableEq, Repr

/-- An effective point (R83). -/
structure Point where
  pass : Nat
  pos : Nat
  deriving DecidableEq, Repr

/-- A track's recent at-once record (R113). -/
structure Recent where
  port : Port
  time : Nat
  action : Action
  point : Point
  deriving DecidableEq, Repr

/-- The kinds of issue (R111). -/
inductive IssueKind where
  | tap
  | deferredTap
  | hold
  | double
  deriving DecidableEq, Repr

/-- The action of a last outcome record, as handed on (R111). -/
inductive Handed where
  | cue (a : Action)
  | clearTrack
  | tap
  | selectNext
  | selectPrevious
  | join
  | cancel
  /-- A toggle that R112 refuses: nothing was handed on. -/
  | refusedToggle
  deriving DecidableEq, Repr

/-- The target of a last outcome record (R111). -/
inductive OutTarget where
  | track (t : TrackId)
  | all
  | absent
  deriving DecidableEq, Repr

/-- A port's last outcome record (R111). -/
structure Outcome where
  code : SwitchCode
  kind : IssueKind
  action : Handed
  target : OutTarget
  status : Status
  cue : Option Nat
  /-- The due, or the effective point. -/
  point : Option Point
  time : Nat
  deriving DecidableEq, Repr

/-- What the switch interpreter holds for one port (5.1). -/
structure SwitchPort where
  machines : Vector Machine 24
  selected : TrackId
  last : Option Outcome
  issues : Nat
  deriving DecidableEq, Repr

/-- The switch interpreter (R102). -/
structure Switches where
  map : Vector MapEntry 24
  holdMs : Nat
  doubleMs : Nat
  portA : SwitchPort
  portB : SwitchPort
  recent : Vector (Option Recent) 6
  deriving DecidableEq, Repr

/-! ### Mixer (06) -/

/-- An output source (R133). -/
inductive Source where
  | front
  | ear
  | track (t : TrackId)
  | click
  | input (i : SlotId)
  | silent
  deriving DecidableEq, Repr

/-- A running click burst: its frame count n and half-period h (R127). -/
structure Click where
  n : Nat
  h : Nat
  deriving DecidableEq, Repr

/-- The mixer (R116). -/
structure Mixer where
  frontMonitor : Vector Nat 8
  earMonitor : Vector Nat 8
  frontBus : Nat
  earBus : Nat
  clickOn : Bool
  clickLevel : Nat
  burst : Option Click
  /-- Edge length R. -/
  edge : Nat
  outputs : Vector Source 8
  frontClips : Nat
  earClips : Nat
  /-- Clip reported, per bus. -/
  frontReported : Bool
  earReported : Bool
  deriving DecidableEq, Repr

/-! ### Memory controller (07) -/

/-- The memory mode (R136). -/
inductive MemMode where
  | test
  | serving
  | selfRefresh
  deriving DecidableEq, Repr

/-- A burst of the write-behind queue (7.5). -/
structure Burst where
  layer : Nat
  offset : Nat
  samples : List Sample
  queuedAt : Nat
  deriving DecidableEq, Repr

/-- What a granted read reads (R139, R140): the layer and track it is for, its range and block, and how the layer stood at the grant, since the read completes and is checked whatever becomes of the layer. -/
structure Reading where
  layer : Nat
  track : TrackId
  range : Range
  block : Option Nat
  /-- Whether the block was suspect for the layer. -/
  suspect : Bool
  /-- The holes of the layer. -/
  holes : List Range
  /-- Whether the layer is still there. -/
  live : Bool
  /-- Whether the layer has been truncated since the grant. -/
  cut : Bool
  deriving DecidableEq, Repr

/-- The current grant of the arbiter (R140). Reads carry what is checked and writes the block and samples they store, since both complete whatever becomes of the layer. -/
inductive Grant where
  | refresh
  | playback (rd : Reading)
  | capture (burst : Burst) (block : Option Nat) (live : Bool)
  | foldRead (rd : Reading) (newer : Bool)
  | foldWrite (block : Option Nat) (offset : Nat) (samples : List Sample)
  | windowRead (p : Port) (rd : Reading)
  | windowCommit (p : Port) (block : Option Nat) (offset : Nat) (samples : List Sample)
  deriving DecidableEq, Repr

/-- The mode of a window (R151). -/
inductive WinMode where
  | read
  | write
  deriving DecidableEq, Repr

/-- The direction of a window (R151). -/
inductive Direction where
  | forward
  | reverse
  deriving DecidableEq, Repr

/-- A window's request (R151), with the time at which it was made and the timeout in ms that governs it (R154). -/
inductive WinReq where
  | absent
  | waiting (madeAt limit : Nat)
  | granted (madeAt : Nat)
  deriving DecidableEq, Repr

/-- An OPEN window (R151). -/
structure Window where
  layer : Nat
  mode : WinMode
  dir : Direction
  next : Nat
  buf : List Sample
  req : WinReq
  timedOut : Bool
  done : Bool
  excess : Nat
  /-- A CLOSE WINDOW waits for the commit at hand (R155). Implied state, log entry 7. -/
  closing : Bool
  /-- The samples at the head of the buffer that the WINDOW READ in progress latched (R192). Implied state, log entry 7. -/
  latched : Nat
  /-- Bytes of the sample at the head of the buffer have been shifted out, and not yet all three (R192). Implied state, log entry 7. -/
  shifting : Bool
  deriving DecidableEq, Repr

/-- One background requester's wait (R141): when it started, and whether it is raised. -/
structure Wait where
  start : Option Nat
  raised : Bool
  deriving DecidableEq, Repr

/-- The memory controller (R136). -/
structure MemCtl where
  mode : MemMode
  /-- The free list, head first. -/
  free : List Nat
  /-- The bad-block list, a set kept in rising order. -/
  bad : List Nat
  /-- The write-behind queue, head first. -/
  queue : List Burst
  /-- The words of the loop memory: (block × 4,096 + place, sample), rising, without entries equal to what an unlisted word reads as. -/
  words : List (Nat × Sample)
  /-- The arbiter's current grant; none is IDLE. -/
  grant : Option Grant
  refreshWaiting : Bool
  /-- Round-robin pointer. -/
  pointer : Background
  waitFold : Wait
  waitA : Wait
  waitB : Wait
  windowA : Option Window
  windowB : Option Window
  /-- Window timeouts in ms. -/
  timeoutA : Nat
  timeoutB : Nat
  /-- The next block of the start-up test (R159). Implied state, log entry 7. -/
  testNext : Nat
  deriving DecidableEq, Repr

/-! ### Audio serial port (08) -/

/-- The frame in progress (8.2): its bit count and its first 256 input bits, bit clock 0 most significant. -/
structure FrameIn where
  count : Nat
  bits : BitVec 256
  deriving DecidableEq, Repr

/-- What the data output line carried between two frame syncs (R161, R167): its bit clocks and the bits of the first 256, bit clock 0 most significant. -/
structure FrameOut where
  count : Nat
  bits : BitVec 256
  deriving DecidableEq, Repr

/-- The audio serial port (R162). `present` is the audio state PRESENT. -/
structure Audio where
  present : Bool
  frame : Option FrameIn
  held : Frame
  pendingOut : Frame
  sending : Frame
  /-- The model's own observation of the data output line, log entry 44. -/
  out : FrameOut
  /-- The sending output that a watchdog expiry cut off, until the next frame sync, and silence otherwise: part of that observation. -/
  cutOut : Frame
  lastSync : Option Nat
  lossStart : Option Nat
  linkErrors : Nat
  passErrors : Nat
  reported : Bool
  threshold : Nat
  deriving DecidableEq, Repr

/-! ### Fault recorder (09) -/

/-- The five fault kinds (9.1), in the order of their codes. -/
inductive FaultKind where
  | corrected
  | underrun
  | uncorrectable
  | writeTimeout
  | writeOverrun
  deriving DecidableEq, Repr

/-- The requesters named in faults (R172), in the order of their codes. -/
inductive Requester where
  | playback
  | capture
  | fold
  | windowA
  | windowB
  | test
  deriving DecidableEq, Repr

/-- An occurrence (R172). -/
structure Occurrence where
  kind : FaultKind
  requester : Requester
  block : Option Nat
  layer : Option Nat
  track : Option TrackId
  pass : Nat
  pos : Nat
  deriving DecidableEq, Repr

/-- The fault recorder (R173). The fault summary is computed from the seen flags (R179). -/
structure Faults where
  /-- The held record with its sequence number at capture. -/
  record : Option (Occurrence × Nat)
  seq : Nat
  seenCorrected : Bool
  seenUnderrun : Bool
  seenUncorrectable : Bool
  seenWriteTimeout : Bool
  seenWriteOverrun : Bool
  correctedCount : Nat
  underrunCount : Nat
  second : Bool
  deriving DecidableEq, Repr

/-! ### Port controllers (10, 11) -/

/-- The event kinds (R197), in the order of their codes from 1. -/
inductive EventKind where
  | cycleDefined
  | cycleTooShort
  | cycleWrap
  | beat
  | cyclePaused
  | cycleRunning
  | trackState
  | layerClosed
  | layerRolled
  | layerRetired
  | stackFull
  | foldDone
  | foldAbandoned
  | memoryFull
  | cueDone
  | cueDropped
  | clip
  | audioLost
  | audioBack
  | linkErrors
  | fault
  | windowDone
  | windowLost
  | noteArrived
  | noteTaken
  | lost
  | ready
  | restEntered
  | runEntered
  | powerLow
  deriving DecidableEq, Repr

/-- An event record (R199). -/
structure Event where
  kind : EventKind
  urgent : Bool
  track : Option TrackId
  layer : Option Nat
  cue : Option Nat
  pass : Nat
  pos : Nat
  detail : BitVec 16
  deriving DecidableEq, Repr

/-- A reply (R189). -/
structure Reply where
  status : Status
  tag : Byte
  code : Byte
  results : List Byte
  deriving DecidableEq, Repr

/-- The reply slot (R186). -/
inductive ReplySlot where
  | empty
  | pending (tag code : Byte)
  | full (r : Reply)
  deriving DecidableEq, Repr

/-- The transfers that come in segments (R185). -/
inductive TransferKind where
  | readReply
  | readEvents
  | windowRead
  | windowWrite
  /-- A transfer of an unknown code, or one that a reset abandoned: zeros out until chip select rises. -/
  | ignored
  deriving DecidableEq, Repr

/-- What a transfer latched at its latch point (R185). -/
inductive Latch where
  | absent
  | reply (slot : ReplySlot)
  /-- The number of events the queue held, and how many entries at its head are still among them (R191). -/
  | events (n left : Nat)
  | window (n : Nat) (timedOut : Bool)
  deriving DecidableEq, Repr

/-- A transfer in progress (10.2): its kind, the port state byte formed at the fall of chip select, the bytes shifted so far, what it latched, the event in transfer, and the bytes in of the sample being shifted. -/
structure Transfer where
  kind : TransferKind
  stateByte : Byte
  count : Nat
  latch : Latch
  event : Option Event
  partIn : List Byte
  deriving DecidableEq, Repr

/-- The mask levels (R203). -/
inductive MaskLevel where
  | opened
  | urgentOnly
  | closed
  deriving DecidableEq, Repr

/-- A port controller (R186, R198). The attention line is computed from the queue and the mask level (R203). -/
structure PortCtl where
  reply : ReplySlot
  transfer : Option Transfer
  queue : List Event
  lost : Nat
  /-- Interest set: bit k for the kind of code k. -/
  interest : BitVec 32
  mask : MaskLevel
  mailbox : Option (List Byte)
  /-- What the port's most recent transfer has shifted out, oldest first. The model's own observation, log entry 8. -/
  shifted : List Byte
  deriving DecidableEq, Repr

/-! ### Power control (12) -/

/-- The part states (12). -/
inductive Part where
  | starting
  | run
  | rest
  deriving DecidableEq, Repr

/-- Power control (R206, R207), with the levels of the two pins it watches. -/
structure Power where
  part : Part
  /-- The PWRLOW latch: true is asserted. -/
  latch : Bool
  /-- The level of the PWRLOW pin. -/
  pin : Bool
  /-- Whether RESETN is held low. -/
  resetHeld : Bool
  deriving DecidableEq, Repr

/-! ### The part -/

/-- The whole state of the part, and the queue of waiting commands. -/
structure State where
  /-- The commands that are waiting, first in first out. -/
  pending : List Instr
  /-- The millisecond timebase, in crystal periods (log entry 2). -/
  now : Nat
  power : Power
  cycle : Cycle
  tracks : Vector Track 6
  /-- The layer records in use, by rising id 1..40. -/
  layers : List (Nat × Layer)
  /-- Layers whose close took effect at the next frame to arrive (R39). Implied state, log entry 7. -/
  fresh : List Nat
  /-- The fold engine; none is IDLE. -/
  fold : Option Fold
  capture : Capture
  cues : CueList
  switches : Switches
  mixer : Mixer
  mem : MemCtl
  audio : Audio
  faults : Faults
  portA : PortCtl
  portB : PortCtl
  deriving DecidableEq, Repr

/-- Reasons the machine stops with a fault. The part has none: the manual gives every command an effect, a refusal reply or no effect, so no command raises a fault. Safe. -/
inductive Fault where
  deriving DecidableEq, Repr

/-- Reasons a command has no meaning. -/
inductive Refusal where
  /-- Raised by exec for a command the model has no meaning for yet. Safe. No command of this model is refused so. -/
  | notModelled (mnemonic : String)
  deriving DecidableEq, Repr

/-! ### Reset values -/

/-- A tap sequence with no tap. -/
def TapSeq.empty : TapSeq := { count := 0, last := 0, sum := 0 }

/-- The cycle timer after reset (01, 1.1). -/
def Cycle.reset : Cycle :=
  { state := .empty, len := none, pos := 0, origin := false, pass := 0, beats := 8, perBar := 4,
    grace := 2400, frameCount := 0, gen := 0, tap := TapSeq.empty, ignoredTaps := 0 }

/-- Track record t after reset (02, 2.1). -/
def Track.reset (t : TrackId) : Track :=
  { state := .empty, span := none, heldSpan := none, feedback := 32768,
    sources := BitVec.ofNat 8 (2 ^ t.val), frontSend := 32768, earSend := 32768,
    muteTarget := 32768, ramp := 32768, stack := [], redo := [], openLayer := none,
    marker := none, foldClips := 0 }

/-- The capture unit after reset (R55). -/
def Capture.reset : Capture :=
  { rings := [], records := Vector.replicate 12 none, closeOrder := 0 }

/-- The cue list after reset (R79). -/
def CueList.reset : CueList := { entries := [], nextId := 1 }

/-- A switch map entry after reset (5.2). -/
def MapEntry.reset : MapEntry :=
  { tap := .none, hold := none, double := none, target := .track 0, quantum := .none }

/-- The switch interpreter's per-port state after reset (5.1). -/
def SwitchPort.reset : SwitchPort :=
  { machines := Vector.replicate 24 .up, selected := 0, last := none, issues := 0 }

/-- The switch interpreter after reset (R102). -/
def Switches.reset : Switches :=
  { map := Vector.replicate 24 MapEntry.reset, holdMs := 500, doubleMs := 250,
    portA := SwitchPort.reset, portB := SwitchPort.reset, recent := Vector.replicate 6 none }

/-- The mixer after reset (R116). -/
def Mixer.reset : Mixer :=
  { frontMonitor := Vector.replicate 8 0, earMonitor := Vector.replicate 8 0,
    frontBus := 32768, earBus := 32768, clickOn := false, clickLevel := 1048576, burst := none,
    edge := 96,
    outputs := #v[.front, .front, .ear, .ear, .silent, .silent, .silent, .silent],
    frontClips := 0, earClips := 0, frontReported := false, earReported := false }

/-- A background requester that does not wait. -/
def Wait.idle : Wait := { start := none, raised := false }

/-- The memory controller after reset (R136), its start-up test at block 0. -/
def MemCtl.reset : MemCtl :=
  { mode := .test, free := [], bad := [], queue := [], words := [], grant := none,
    refreshWaiting := false, pointer := .fold, waitFold := Wait.idle, waitA := Wait.idle,
    waitB := Wait.idle, windowA := none, windowB := none, timeoutA := 64, timeoutB := 64,
    testNext := 0 }

/-- The audio serial port after reset (R162). -/
def Audio.reset : Audio :=
  { present := false, frame := none, held := silence, pendingOut := silence, sending := silence,
    out := { count := 0, bits := 0 }, cutOut := silence, lastSync := none, lossStart := none, linkErrors := 0, passErrors := 0, reported := false,
    threshold := 16 }

/-- The fault recorder after reset (R173). -/
def Faults.reset : Faults :=
  { record := none, seq := 0, seenCorrected := false, seenUnderrun := false,
    seenUncorrectable := false, seenWriteTimeout := false, seenWriteOverrun := false,
    correctedCount := 0, underrunCount := 0, second := false }

/-- The interest set after reset: every kind, codes 1 to 30, except CYCLE WRAP 3 and BEAT 4 (R198). -/
def defaultInterest : BitVec 32 := 0x7FFFFFE6#32

/-- A port controller after reset (R186, R198). -/
def PortCtl.reset : PortCtl :=
  { reply := .empty, transfer := none, queue := [], lost := 0, interest := defaultInterest,
    mask := .opened, mailbox := none, shifted := [] }

/-- A transfer of which nothing but zeros goes out until chip select rises (R185). -/
def Transfer.abandoned : Transfer :=
  { kind := .ignored, stateByte := 0, count := 0, latch := .absent, event := none, partIn := [] }

/-- A port controller as a reset leaves it: at its reset values, a transfer in progress abandoned (R185, R186). -/
def PortCtl.abandon (c : PortCtl) : PortCtl :=
  { PortCtl.reset with transfer := c.transfer.map fun _ => Transfer.abandoned }

/-- The part as a reset leaves it (R207), with a given timebase, pin level, RESETN level and command queue, and no transfer in progress. The latch takes the level of the pin. -/
def State.afterReset (pending : List Instr) (now : Nat) (pin resetHeld : Bool) : State :=
  { pending := pending, now := now,
    power := { part := .starting, latch := pin, pin := pin, resetHeld := resetHeld },
    cycle := Cycle.reset, tracks := Vector.ofFn Track.reset, layers := [], fresh := [], fold := none,
    capture := Capture.reset, cues := CueList.reset, switches := Switches.reset,
    mixer := Mixer.reset, mem := MemCtl.reset, audio := Audio.reset, faults := Faults.reset,
    portA := PortCtl.reset, portB := PortCtl.reset }

/-- The part right after reset: STARTING, the start-up test at block 0, PWRLOW released and the timebase at 0 (log entries 1 and 2). -/
def State.reset : State := State.afterReset [] 0 false false

end Sys2Proof.Machine
end

