-- ==== Sys2Proof/Machine/Ops.lean ====
section
/-! DEFINITION. The shared operations: the number conventions of R1, sparse lists and ranges, the loop memory's words, access to the blocks of State, event queues, the fault recorder, block lists and the reply slot. -/
namespace Sys2Proof.Machine

open Sys2Proof

/-! ### Numbers (R1) -/

/-- A value clamped to 24 bits, as a sample (R1). -/
def clamp24 (x : Int) : Sample := BitVec.ofInt 24 (max (-8388608) (min 8388607 x))

/-- Whether the clamp to 24 bits changes a value (R130). -/
def clamps24 (x : Int) : Bool := decide (x < -8388608) || decide (8388607 < x)

/-- Scaling by a gain: multiply, add 16,384, divide by 32,768, take the floor (R1). -/
def scale (x : Int) (g : Nat) : Int := (x * (g : Int) + 16384) / 32768

/-- Scaling of one gain by another, as decay does (R39). -/
def scaleGain (g f : Nat) : Nat := (g * f + 16384) / 32768

/-- One step of a saturating count (R1). -/
def satInc (top n : Nat) : Nat := min top (n + 1)

/-- A number clamped to a range (R1). -/
def clampNat (lo hi n : Nat) : Nat := max lo (min hi n)

/-- A 16-bit detail or count that saturates at 65,535 (R197). -/
def sat16 (n : Nat) : Nat := min 65535 n

/-- The number of frame-count stamps (R3). -/
def stampMod : Nat := 4294967296

/-- The distance forward from stamp `a` to stamp `b`, modulo 2^32 (3.1). -/
def stampSub (b a : Nat) : Nat := (b + stampMod - a % stampMod) % stampMod

/-- A stamp moved forward. -/
def stampAdd (a n : Nat) : Nat := (a + n) % stampMod

/-- The least number of pieces of `size` that hold `n` (R137). -/
def ceilDiv (n size : Nat) : Nat := (n + size - 1) / size

/-! ### Sparse lists: (key, value) pairs by rising key -/

/-- The value listed at a key. -/
def assocFind {α : Type} (k : Nat) : List (Nat × α) → Option α
  | [] => none
  | (j, v) :: l => if j = k then some v else assocFind k l

/-- The list with a key's value replaced or added in order. -/
def assocInsert {α : Type} (k : Nat) (v : α) : List (Nat × α) → List (Nat × α)
  | [] => [(k, v)]
  | (j, w) :: l =>
    if k < j then (k, v) :: (j, w) :: l
    else if k = j then (k, v) :: l
    else (j, w) :: assocInsert k v l

/-- The list without a key. -/
def assocErase {α : Type} (k : Nat) : List (Nat × α) → List (Nat × α)
  | [] => []
  | (j, w) :: l => if j = k then l else (j, w) :: assocErase k l

/-- Write of a sparse array whose unlisted entries read as `d`: writing `d` removes the entry. -/
def sparsePut {α : Type} [DecidableEq α] (d : α) (k : Nat) (v : α) (l : List (Nat × α)) :
    List (Nat × α) :=
  if v = d then assocErase k l else assocInsert k v l

/-- Read of a sparse array whose unlisted entries read as `d`. -/
def sparseGet {α : Type} (d : α) (k : Nat) (l : List (Nat × α)) : α := (assocFind k l).getD d

/-- The canonical form of a sparse array: keys strictly rising, no entry equal to what an unlisted one reads as. -/
abbrev sparseWf {α : Type} (d : α) (l : List (Nat × α)) : Prop :=
  l.Pairwise (fun e f => e.1 < f.1) ∧ ∀ e ∈ l, e.2 ≠ d

/-! ### The loop memory's words (7.2) -/

/-- What a word that nothing has written reads as. The manual gives the test's second pattern no value.
DESIGN CHOICE, log entry 3. Unsafe. -/
def unwrittenWord : Sample := 0

/-- The address of a place in a block. -/
def wordAddr (block place : Nat) : Nat := block * 4096 + place

/-- One word of the loop memory. -/
def MemCtl.readWord (m : MemCtl) (addr : Nat) : Sample := sparseGet unwrittenWord addr m.words

/-- The canonical form of the loop memory's words. -/
abbrev Memory.wf (m : MemCtl) : Prop := sparseWf unwrittenWord m.words

/-- Consecutive words written from an address on. -/
def writeWords (addr : Nat) : List Sample → List (Nat × Sample) → List (Nat × Sample)
  | [], l => l
  | x :: xs, l => writeWords (addr + 1) xs (sparsePut unwrittenWord addr x l)

/-- A burst stored in a block, at the place of its offset; a burst without a block stores nothing (R144). -/
def MemCtl.storeBurst (m : MemCtl) (block : Option Nat) (offset : Nat) (xs : List Sample) : MemCtl :=
  match block with
  | none => m
  | some b => { m with words := writeWords (wordAddr b (offset % 4096)) xs m.words }

/-! ### Ranges of layer offsets (R146) -/

/-- The first offset past a range. -/
def Range.stop (r : Range) : Nat := r.first + r.len

/-- Whether two ranges overlap or touch. -/
def Range.meets (a b : Range) : Bool := decide (a.first ≤ b.stop) && decide (b.first ≤ a.stop)

/-- The least range that holds both. -/
def Range.hull (a b : Range) : Range :=
  { first := min a.first b.first, len := max a.stop b.stop - min a.first b.first }

/-- A range added to an ordered list of ranges, merged with every range it reaches (R146 step 1). -/
def insertRange (r : Range) : List Range → List Range
  | [] => [r]
  | x :: xs =>
    if r.meets x then insertRange (r.hull x) xs
    else if r.first < x.first then r :: x :: xs
    else x :: insertRange r xs

/-- A hole added to a hole list: merged, listed, or taken into the fourth range (R146). An empty range is no hole. -/
def addHole (r : Range) (l : List Range) : List Range :=
  if r.len = 0 then l
  else if l.any (fun x => r.meets x) || decide (l.length < 4) then insertRange r l
  else
    match l.getLast? with
    | some w => insertRange (w.hull r) l.dropLast
    | none => [r]

/-- Whether an offset lies in a list of ranges. -/
def inRanges (o : Nat) (l : List Range) : Bool :=
  l.any (fun r => decide (r.first ≤ o) && decide (o < r.stop))

/-- The ranges below a new length: those at or beyond it are removed, one that straddles it is shortened (R69). -/
def cutRanges (n : Nat) (l : List Range) : List Range :=
  l.filterMap fun r =>
    if n ≤ r.first then none else some { r with len := min r.len (n - r.first) }

/-! ### Access to the blocks of State -/

/-- A port controller. -/
def State.port (s : State) : Port → PortCtl
  | .a => s.portA
  | .b => s.portB

/-- The state with a port controller replaced. -/
def State.setPort (p : Port) (c : PortCtl) (s : State) : State :=
  match p with
  | .a => { s with portA := c }
  | .b => { s with portB := c }

/-- A track record. -/
def State.track (s : State) (t : TrackId) : Track := s.tracks[t]

/-- The state with a track record replaced. -/
def State.setTrack (t : TrackId) (tr : Track) (s : State) : State :=
  { s with tracks := s.tracks.set t.val tr t.isLt }

/-- The state with a track record changed. -/
def State.modTrack (t : TrackId) (f : Track → Track) (s : State) : State :=
  s.setTrack t (f (s.track t))

/-- A layer record in use. -/
def State.layer? (s : State) (id : Nat) : Option Layer := assocFind id s.layers

/-- The state with a layer record set. -/
def State.setLayer (id : Nat) (l : Layer) (s : State) : State :=
  { s with layers := assocInsert id l s.layers }

/-- The state with a layer record in use changed; a free record is left as it is. -/
def State.modLayer (id : Nat) (f : Layer → Layer) (s : State) : State :=
  match s.layer? id with
  | some l => s.setLayer id (f l)
  | none => s

/-- A port's window. -/
def State.window (s : State) : Port → Option Window
  | .a => s.mem.windowA
  | .b => s.mem.windowB

/-- The state with a port's window replaced. -/
def State.setWindow (p : Port) (w : Option Window) (s : State) : State :=
  match p with
  | .a => { s with mem := { s.mem with windowA := w } }
  | .b => { s with mem := { s.mem with windowB := w } }

/-- A port's window timeout in ms (R154). -/
def State.windowTimeout (s : State) : Port → Nat
  | .a => s.mem.timeoutA
  | .b => s.mem.timeoutB

/-- A port's part of the switch interpreter. -/
def State.switchPort (s : State) : Port → SwitchPort
  | .a => s.switches.portA
  | .b => s.switches.portB

/-- The state with a port's part of the switch interpreter replaced. -/
def State.setSwitchPort (p : Port) (c : SwitchPort) (s : State) : State :=
  match p with
  | .a => { s with switches := { s.switches with portA := c } }
  | .b => { s with switches := { s.switches with portB := c } }

/-- The lowest id 1..40 of a free layer record (R27). -/
def State.freeId (s : State) : Option Nat :=
  ((List.range 40).map (· + 1)).find? fun id => (s.layer? id).isNone

/-- The ids of a stack, oldest first, a folding pair as its older member and then its newer (R121). -/
def stackIds : List Entry → List Nat
  | [] => []
  | .single i :: l => i :: stackIds l
  | .pair o n :: l => o :: n :: stackIds l

/-- Whether a command has any effect: while RESETN is held low every block stays at its reset values (R207). -/
def State.whenLive (f : State → State) (s : State) : State := if s.power.resetHeld then s else f s

/-! ### Positions as reported -/

/-- The position as STATUS reports it: 0 while origin pending is true (R2). -/
def Cycle.shownPos (c : Cycle) : Nat := if c.origin then 0 else c.pos

/-- The current pass and position (R172, R199). -/
def Cycle.here (c : Cycle) : Point := { pass := c.pass, pos := c.shownPos }

/-- L as STATUS reports it: 0 while absent (R2). -/
def Cycle.shownLen (c : Cycle) : Nat := c.len.getD 0

/-! ### Events (11) -/

/-- The code of an event kind (R197). -/
def EventKind.code (k : EventKind) : Nat := k.ctorIdx + 1

/-- The fixed priority of a kind; FAULT's is the occurrence's class and is set where it is raised (R199). -/
def EventKind.urgent : EventKind → Bool
  | .cycleTooShort | .stackFull | .memoryFull | .audioLost | .powerLow => true
  | _ => false

/-- An event with the default stamp (R199): the pass and position STATUS would report. -/
def State.event (s : State) (k : EventKind) (track : Option TrackId) (layer cue : Option Nat)
    (detail : Nat) : Event :=
  { kind := k, urgent := k.urgent, track := track, layer := layer, cue := cue,
    pass := s.cycle.pass, pos := s.cycle.shownPos, detail := BitVec.ofNat 16 detail }

/-- Whether a port's head entry is in transfer (R191, R201). -/
def PortCtl.headInTransfer (c : PortCtl) : Bool :=
  match c.transfer with
  | some t => t.event.isSome
  | none => false

/-- The place of the newest ROUTINE entry of a list of events. -/
def newestRoutine : List Event → Option Nat
  | [] => none
  | e :: l =>
    match newestRoutine l with
    | some i => some (i + 1)
    | none => if e.urgent then none else some 0

/-- The place of the entry that an urgent event displaces: the newest ROUTINE one other than the entry in transfer (R201). -/
def PortCtl.displaced (c : PortCtl) : Option Nat :=
  if c.headInTransfer then (newestRoutine c.queue.tail).map (· + 1) else newestRoutine c.queue

/-- A transfer whose port's queue loses entry i: an entry it latched is one fewer to give (R191). -/
def Transfer.lose (i : Nat) (t : Transfer) : Transfer :=
  match t.latch with
  | .events n left => if i < left then { t with latch := .events n (left - 1) } else t
  | .absent | .reply _ | .window .. => t

/-- A queue that takes an event which passed the interest set (R201). -/
def PortCtl.enqueue (e : Event) (c : PortCtl) : PortCtl :=
  if c.queue.length < 32 then { c with queue := c.queue ++ [e] }
  else if e.urgent then
    match c.displaced with
    | some i =>
      { c with
        queue := c.queue.eraseIdx i ++ [e], lost := satInc 255 c.lost
        transfer := c.transfer.map (Transfer.lose i) }
    | none => { c with lost := satInc 255 c.lost }
  else { c with lost := satInc 255 c.lost }

/-- An event offered to one port (R200): dropped without trace when its kind is not in the interest set. -/
def PortCtl.offer (e : Event) (c : PortCtl) : PortCtl :=
  if c.interest.getLsbD e.kind.code then c.enqueue e else c

/-- An event offered to one port alone. -/
def State.offerTo (p : Port) (e : Event) (s : State) : State := s.setPort p ((s.port p).offer e)

/-- An event offered to both ports (R199), which therefore receive all events in one and the same order. DESIGN CHOICE, log entry 49. -/
def State.raiseEvent (e : Event) (s : State) : State :=
  { s with portA := s.portA.offer e, portB := s.portB.offer e }

/-- An event raised with the default stamp. -/
def State.raise (k : EventKind) (track : Option TrackId) (layer : Option Nat) (detail : Nat)
    (s : State) : State :=
  s.raiseEvent (s.event k track layer none detail)

/-! ### The fault recorder (09) -/

/-- The class of a kind: true is hard (9.1). -/
def FaultKind.hard : FaultKind → Bool
  | .corrected | .underrun => false
  | .uncorrectable | .writeTimeout | .writeOverrun => true

/-- The seen flag of a kind. -/
def Faults.seen (f : Faults) : FaultKind → Bool
  | .corrected => f.seenCorrected
  | .underrun => f.seenUnderrun
  | .uncorrectable => f.seenUncorrectable
  | .writeTimeout => f.seenWriteTimeout
  | .writeOverrun => f.seenWriteOverrun

/-- The recorder with a kind's seen flag set and the occurrence counted (R174). -/
def Faults.note (k : FaultKind) (f : Faults) : Faults :=
  match k with
  | .corrected => { f with seenCorrected := true, correctedCount := satInc 65535 f.correctedCount }
  | .underrun => { f with seenUnderrun := true, underrunCount := satInc 65535 f.underrunCount }
  | .uncorrectable => { f with seenUncorrectable := true }
  | .writeTimeout => { f with seenWriteTimeout := true }
  | .writeOverrun => { f with seenWriteOverrun := true }

/-- What the record did with an occurrence (R180), in the order of the codes. -/
inductive Captured where
  | captured
  | replaced
  | second
  | notCaptured
  deriving DecidableEq, Repr

/-- What the record does with an occurrence (R175 to R177). -/
def Faults.outcome (f : Faults) (k : FaultKind) : Captured :=
  match f.record with
  | none => .captured
  | some (o, _) =>
    if o.kind.hard then (if k.hard then .second else .notCaptured)
    else (if k.hard then .replaced else .notCaptured)

/-- The record's part of taking an occurrence (R175 to R178). -/
def Faults.capture (o : Occurrence) (f : Faults) : Faults :=
  match f.outcome o.kind with
  | .captured | .replaced =>
    { f with record := some (o, (f.seq + 1) % 65536), seq := (f.seq + 1) % 65536 }
  | .second => { f with second := true }
  | .notCaptured => f

/-- The detail of a FAULT event (R180, R197). -/
def faultDetail (o : Occurrence) (c : Captured) : Nat :=
  o.kind.ctorIdx + 16 * o.requester.ctorIdx + 256 * c.ctorIdx

/-- One occurrence taken whole: flag and count, record, event (R174 to R180). -/
def State.takeFault (o : Occurrence) (s : State) : State :=
  let before := s.faults.seen o.kind
  let out := s.faults.outcome o.kind
  let s' := { s with faults := (s.faults.note o.kind).capture o }
  if o.kind.hard || !before then
    s'.raiseEvent
      { kind := .fault, urgent := o.kind.hard, track := o.track, layer := o.layer, cue := none,
        pass := o.pass, pos := o.pos, detail := BitVec.ofNat 16 (faultDetail o out) }
  else s'

/-- An occurrence for a layer, met at a given pass and position (R172). -/
def Occurrence.met (place : Point) (k : FaultKind) (r : Requester) (block : Option Nat) (layer : Nat)
    (track : TrackId) : Occurrence :=
  { kind := k, requester := r, block := block, layer := some layer, track := some track,
    pass := place.pass, pos := place.pos }

/-- The fault summary: at least one seen flag is set (R179). -/
def Faults.summary (f : Faults) : Bool :=
  f.seenCorrected || f.seenUnderrun || f.seenUncorrectable || f.seenWriteTimeout || f.seenWriteOverrun

/-! ### Blocks (R137, R138) -/

/-- A block added to the bad-block list, a set in rising order. -/
def addBad (b : Nat) : List Nat → List Nat
  | [] => [b]
  | x :: l => if b < x then b :: x :: l else if b = x then x :: l else x :: addBad b l

/-- Blocks given back: those listed as suspect to the bad-block list, the others to the tail of the free list in order (R28). -/
def MemCtl.giveBack (blocks suspects : List Nat) (m : MemCtl) : MemCtl :=
  { m with
    free := m.free ++ blocks.filter (fun b => !suspects.contains b)
    bad := (blocks.filter (fun b => suspects.contains b)).foldl (fun l b => addBad b l) m.bad }

/-- The head of the free list appended to a layer's extent list; none when the free list is empty (R138). -/
def State.allocate (id : Nat) (s : State) : Option State :=
  match s.layer? id, s.mem.free with
  | some l, b :: rest =>
    some ({ s with mem := { s.mem with free := rest } }.setLayer id { l with extents := l.extents ++ [b] })
  | _, _ => none

/-- The block of a layer that holds an offset (R137). -/
def Layer.blockOf (l : Layer) (offset : Nat) : Option Nat := l.extents[offset / 4096]?

/-- One word of a layer, by offset. -/
def State.layerWord (s : State) (l : Layer) (offset : Nat) : Sample :=
  match l.blockOf offset with
  | some b => s.mem.readWord (wordAddr b (offset % 4096))
  | none => unwrittenWord

/-- A hole added to a layer, which marks it damaged (R146). -/
def Layer.addHole (r : Range) (l : Layer) : Layer :=
  { l with holes := Sys2Proof.Machine.addHole r l.holes, damaged := true }

/-- Whether an offset of a layer is ready: stored, or in a hole (R146). -/
def Layer.readyAt (l : Layer) (o : Nat) : Bool := inRanges o l.stored || inRanges o l.holes

/-- Whether every offset of a range is ready. -/
def Layer.ready (l : Layer) (r : Range) : Bool :=
  (List.range r.len).all fun i => l.readyAt (r.first + i)

/-- Whether a range lies wholly in holes. -/
def Layer.inHoles (l : Layer) (r : Range) : Bool :=
  (List.range r.len).all fun i => inRanges (r.first + i) l.holes

/-- The track position of a layer's first sample; for an open first layer it is not used. -/
def Layer.startQ (l : Layer) : Nat :=
  match l.start with
  | .at q => q
  | .first _ p => p

/-! ### Replies (R189) -/

/-- The state with a port's reply slot full. -/
def State.fillReply (p : Port) (st : Status) (tag code : Byte) (results : List Byte) (s : State) :
    State :=
  s.setPort p { s.port p with reply := .full { status := st, tag := tag, code := code, results := results } }

/-- A completion's reply: it fills the slot when the slot still awaits one, and is discarded otherwise (R189). -/
def State.completeReply (p : Port) (st : Status) (results : List Byte) (s : State) : State :=
  match (s.port p).reply with
  | .pending tag code => s.fillReply p st tag code results
  | _ => s

end Sys2Proof.Machine
end

