-- ==== Sys2Proof/Machine/Operands.lean ====
section
/-! DEFINITION. The encodings of arguments, results and event records on the control ports (R197): every operand form a request takes, and every kind of value a reply carries. -/
namespace Sys2Proof.Machine

open Sys2Proof

/-! ### Numbers and flags -/

/-- A number in `w` bytes, most significant first (R197). -/
def bytes (w n : Nat) : List Byte :=
  (List.range w).map fun i => BitVec.ofNat 8 (n >>> (8 * (w - 1 - i)))

/-- A flag byte: 0 false, 1 true (R197). -/
def flagByte (b : Bool) : List Byte := if b then [1] else [0]

/-- A one-byte code. -/
def codeByte (n : Nat) : List Byte := [BitVec.ofNat 8 n]

/-- The millisecond count of a moment, in four bytes (R197). -/
def millisBytes (t : Nat) : List Byte := bytes 4 (t / Config.ticksPerMs)

/-- A pass and a position (R197). -/
def pointBytes (pass pos : Nat) : List Byte := bytes 1 pass ++ bytes 3 pos

/-! ### Arguments -/

/-- A track argument: above 5 is none (R194). -/
def argTrack (b : Byte) : Option TrackId :=
  if h : b.toNat < 6 then some ⟨b.toNat, h⟩ else none

/-- An input or output slot argument: above 7 is none (R194). -/
def argSlot (b : Byte) : Option SlotId :=
  if h : b.toNat < 8 then some ⟨b.toNat, h⟩ else none

/-- A switch code argument: above 23 is none (R103, R115). -/
def argSwitch (b : Byte) : Option SwitchCode :=
  if h : b.toNat < 24 then some ⟨b.toNat, h⟩ else none

/-- A quantum argument: NONE 0, BEAT 1, BAR 2, CYCLE 3 (R197). -/
def argQuantum (b : Byte) : Option Quantum :=
  match b.toNat with
  | 0 => some .none
  | 1 => some .beat
  | 2 => some .bar
  | 3 => some .cycle
  | _ => none

/-- A flag argument: neither 0 nor 1 is none. -/
def argFlag (b : Byte) : Option Bool :=
  match b.toNat with
  | 0 => some false
  | 1 => some true
  | _ => none

/-- The click enable: ON 0, OFF 1, in the order in which 6.1 lists the two values (R197). DEDUCED, log entry 9. Unsafe. -/
def argClick (b : Byte) : Option Bool :=
  match b.toNat with
  | 0 => some true
  | 1 => some false
  | _ => none

/-- A mask level argument (R203). -/
def argMask (b : Byte) : Option MaskLevel :=
  match b.toNat with
  | 0 => some .opened
  | 1 => some .urgentOnly
  | 2 => some .closed
  | _ => none

/-- A switch action argument: the codes follow the action list, NONE being 0 (R197). -/
def argSwAction (b : Byte) : Option SwAction :=
  match b.toNat with
  | 0 => some .none
  | 1 => some .recordCycle
  | 2 => some .overdubToggle
  | 3 => some .replaceToggle
  | 4 => some .close
  | 5 => some .muteToggle
  | 6 => some .undo
  | 7 => some .redo
  | 8 => some .clearTrack
  | 9 => some .selectNext
  | 10 => some .selectPrevious
  | 11 => some .playStopAll
  | 12 => some .tap
  | _ => none

/-- A switch target argument: a track, or SELECTED 6 (R197). -/
def argSwTarget (b : Byte) : Option SwTarget :=
  if h : b.toNat < 6 then some (.track ⟨b.toNat, h⟩)
  else if b.toNat = 6 then some .selected else none

/-- An output source argument: kind and number (R133, R197). The number beside a kind that takes none is ignored. DESIGN CHOICE, log entry 42. -/
def argSource (kind number : Byte) : Option Source :=
  match kind.toNat with
  | 0 => some .front
  | 1 => some .ear
  | 2 => (argTrack number).map .track
  | 3 => some .click
  | 4 => (argSlot number).map .input
  | 5 => some .silent
  | _ => none

/-- A window direction argument (R151). -/
def argDirection (b : Byte) : Option Direction :=
  match b.toNat with
  | 0 => some .forward
  | 1 => some .reverse
  | _ => none

/-- A window mode argument (R151). -/
def argMode (b : Byte) : Option WinMode :=
  match b.toNat with
  | 0 => some .read
  | 1 => some .write
  | _ => none

/-- A span argument: 1, 2, 4 or 8 (R156). -/
def argSpan (b : Byte) : Option Nat :=
  if b.toNat = 1 ∨ b.toNat = 2 ∨ b.toNat = 4 ∨ b.toNat = 8 then some b.toNat else none

/-! ### Results -/

/-- A track, or 255 when absent (R197). -/
def trackByte (t : Option TrackId) : List Byte :=
  match t with
  | some t => codeByte t.val
  | none => [255]

/-- A layer id, or 0 when absent (R197). -/
def layerByte (id : Option Nat) : List Byte := codeByte (id.getD 0)

/-- A block number, or 65,535 when absent (R197). -/
def blockBytes (b : Option Nat) : List Byte := bytes 2 (b.getD 65535)

/-- A span, or 0 when absent (R197). -/
def spanByte (s : Option Nat) : List Byte := codeByte (s.getD 0)

/-- A cue id, or 0 when absent (R197). -/
def cueBytes (c : Option Nat) : List Byte := bytes 2 (c.getD 0)

/-- The code of a part state, a cycle state and so on: the place of the value in the order in which its chapter first lists it (R197). -/
def Part.code (p : Part) : Nat := p.ctorIdx

/-- A list: its number of items, then the items (R197). -/
def listBytes (items : List (List Byte)) : List Byte := codeByte items.length ++ items.flatten

/-- An output source: kind, then track or input number, 0 where none (R197). -/
def sourceBytes : Source → List Byte
  | .front => [0, 0]
  | .ear => [1, 0]
  | .track t => [2, BitVec.ofNat 8 t.val]
  | .click => [3, 0]
  | .input i => [4, BitVec.ofNat 8 i.val]
  | .silent => [5, 0]

/-- A switch target (R197). -/
def targetByte : SwTarget → List Byte
  | .track t => codeByte t.val
  | .selected => [6]

/-- A map entry as written (R103). -/
def mapEntryBytes (e : MapEntry) : List Byte :=
  codeByte e.tap.ctorIdx ++ codeByte (e.hold.getD .none).ctorIdx
    ++ codeByte (e.double.getD .none).ctorIdx ++ targetByte e.target ++ codeByte e.quantum.ctorIdx

/-- A set of ports: bit 0 for A, bit 1 for B (R197). -/
def portSetCode (a b : Bool) : Nat := (if a then 1 else 0) + (if b then 2 else 0)

/-- A cue target; ALL has no stated code (log entry 5). -/
def cueTargetByte (t : Option TrackId) : List Byte :=
  match t with
  | some t => codeByte t.val
  | none => [Config.targetAllCode]

/-- A stack entry in READ TRACK: a layer id, or the two ids of a folding pair marked as a pair (R53, log entry 5). -/
def entryBytes : Entry → List Byte
  | .single i => codeByte i
  | .pair o n => Config.pairBytes (BitVec.ofNat 8 o) (BitVec.ofNat 8 n)

/-- A sample in three bytes, two's complement (R197). -/
def sampleBytes (x : Sample) : List Byte := bytes 3 x.toNat

/-- A sample from three bytes. -/
def sampleOf (a b c : Byte) : Sample := a ++ b ++ c

/-- The number that stands for a handed-on action. -/
def Handed.index : Handed → Nat
  | .cue a => a.ctorIdx
  | .clearTrack => 10
  | .tap => 11
  | .selectNext => 12
  | .selectPrevious => 13
  | .join => 14
  | .cancel => 15
  | .refusedToggle => 16

/-- A last outcome record, or the free bytes of its absence (R111, R115, log entry 5). -/
def outcomeBytes (o : Option Outcome) : List Byte :=
  match o with
  | none => Config.absentBytes 1
  | some o =>
    codeByte o.code.val ++ codeByte o.kind.ctorIdx ++ [Config.handedOnCode o.action.index]
      ++ (match o.target with
          | .track t => codeByte t.val
          | .all => [Config.targetAllCode]
          | .absent => [255])
      ++ codeByte o.status.ctorIdx ++ cueBytes o.cue
      ++ (match o.point with
          | some q => pointBytes q.pass q.pos
          | none => Config.absentBytes 0)
      ++ millisBytes o.time

/-- The twelve bytes of an event record (R197). -/
def eventBytes (e : Event) : List Byte :=
  codeByte e.kind.code
    ++ codeByte ((if e.urgent then 128 else 0) + (if e.track.isSome then 4 else 0)
        + (if e.layer.isSome then 2 else 0) + (if e.cue.isSome then 1 else 0))
    ++ codeByte (match e.track with | some t => t.val | none => 0)
    ++ codeByte (e.layer.getD 0) ++ bytes 2 (e.cue.getD 0)
    ++ bytes 1 e.pass ++ bytes 3 e.pos ++ bytes 2 e.detail.toNat

/-- A reply as READ REPLY shifts it out after the marker (R197). -/
def replyBytes (r : Reply) : List Byte :=
  codeByte r.status.ctorIdx ++ [r.tag, r.code] ++ bytes 2 r.results.length ++ r.results

/-- The samples of an audio frame: slot s holds the bits of bit clocks 32 s to 32 s + 23, most significant first (R161, R164). -/
def frameSamples (bits : BitVec 256) : Frame :=
  Vector.ofFn fun s : Fin 8 => bits.extractLsb' (232 - 32 * s.val) 24

/-- The output line over one frame: the same layout, the last eight bit clocks of each slot driven 0 (R161, R167). -/
def frameBits (f : Frame) : BitVec 256 :=
  (List.finRange 8).foldl (fun acc s => acc ||| BitVec.ofNat 256 ((f[s]).toNat <<< (232 - 32 * s.val))) 0#256

/-- The first n bits of a frame as the output line carries them: bits not shifted are dropped, and those past 256 are 0 (R167). -/
def shiftedBits (n : Nat) (f : Frame) : BitVec 256 := frameBits f &&& (BitVec.allOnes 256 <<< (256 - min 256 n))

end Sys2Proof.Machine
end

