-- ==== Sys2Proof/Machine/Flags.lean ====
section
/-! DEFINITION. Every flag the part computes from its state: the attention lines, the port state byte, the per-pass flags of the mixer and the audio port, and the cycle generation that clears them. -/
namespace Sys2Proof.Machine

open Sys2Proof

/-- Whether a mask level passes an event's priority (R203). -/
def MaskLevel.passes : MaskLevel → Bool → Bool
  | .opened, _ => true
  | .urgentOnly, urgent => urgent
  | .closed, _ => false

/-- A port's attention line: asserted exactly while the queue holds an event whose priority the mask level passes (R203). -/
def PortCtl.attention (c : PortCtl) : Bool := c.queue.any fun e => c.mask.passes e.urgent

/-- The window field of the port state byte: CLOSED 0, OPEN READ 1, OPEN WRITE 2, READ at its end 3 (R197). -/
def windowCode : Option Window → Nat
  | none => 0
  | some w =>
    match w.mode with
    | .read => if w.done then 3 else 1
    | .write => 2

/-- The port state byte, formed at the fall of chip select (R185, R197). -/
def State.stateByte (p : Port) (s : State) : Byte :=
  let c := s.port p
  BitVec.ofNat 8 (s.power.part.ctorIdx + 4 * windowCode (s.window p)
    + (if c.attention then 16 else 0) + (if c.queue.isEmpty then 0 else 32)
    + (match c.reply with | .empty => 0 | .pending .. => 64 | .full _ => 128))

/-- The clip-reported flags cleared (R130). -/
def Mixer.clearReported (m : Mixer) : Mixer := { m with frontReported := false, earReported := false }

/-- The pass error count and link reported cleared (R166). -/
def Audio.clearPass (a : Audio) : Audio := { a with passErrors := 0, reported := false }

/-- What a cycle wrap and a change of cycle generation clear (R130, R166). -/
def State.clearPassFlags (s : State) : State :=
  { s with mixer := s.mixer.clearReported, audio := s.audio.clearPass }

/-- The cycle timer changed; when its state moves from one of its four values to another, the generation increments and the per-pass flags clear (R2, R130, R166). -/
def State.setCycle (c : Cycle) (s : State) : State :=
  if c.state = s.cycle.state then { s with cycle := { c with gen := s.cycle.gen } }
  else ({ s with cycle := { c with gen := (s.cycle.gen + 1) % 65536 } }).clearPassFlags

/-- Whether any track is RECORDING, OVERDUBBING or REPLACING (R208). -/
def State.anyOpen (s : State) : Bool :=
  s.tracks.toList.any fun t =>
    t.state == .recording || t.state == .overdubbing || t.state == .replacing

/-- Whether any layer is IMPORTING (R208). -/
def State.anyImporting (s : State) : Bool := s.layers.any fun e => e.2.state == .importing

end Sys2Proof.Machine
end

