-- ==== Sys2Proof/Machine/Cycle.lean ====
section
/-! DEFINITION. The cycle timer's operations: fixing the cycle, the grid, frame arrivals and due computation (01_the_loop_cycle_and_its_grid.md). -/
namespace Sys2Proof.Machine

open Sys2Proof

/-! ### Fixing the cycle length -/

/-- The limits of L (R10 to R12). -/
def clampLen (n : Nat) : Nat := clampNat 9600 2880000 n

/-- The details of CYCLE DEFINED, in the order in which chapter 1 first lists them (R8, R10 to R12). DEDUCED, log entry 9. -/
inductive DefinedBy where
  | recording
  | tempo
  | length
  | tap
  deriving DecidableEq, Repr

/-- L fixed and the cycle RUNNING from position 0 of pass 0 with origin pending true (R10 to R12). -/
def State.startCycle (len : Nat) (by_ : DefinedBy) (s : State) : State :=
  ((s.setCycle
      { s.cycle with
        state := .running, len := some len, pos := 0, pass := 0, origin := true,
        tap := TapSeq.empty }).raise .cycleDefined none none by_.ctorIdx).raise .cycleRunning none none 0

/-- The cycle back to EMPTY with position 0 and pass 0 (R8, R9, R23). -/
def State.emptyCycle (s : State) : State :=
  s.setCycle { s.cycle with state := .empty, len := none, pos := 0, pass := 0, origin := false }

/-- The close of the defining recording with length n; `stop` says that STOP ALL closed it (R8, R21). -/
def State.closeDefining (n : Nat) (stop : Bool) (s : State) : State :=
  if n < 9600 then s.emptyCycle.raise .cycleTooShort none none n
  else
    ((s.setCycle
        { s.cycle with
          state := if stop then .paused else .running
          len := some n, pos := 0, pass := 0, origin := !stop }).raise
        .cycleDefined none none DefinedBy.recording.ctorIdx).raise
      (if stop then .cyclePaused else .cycleRunning) none none 0

/-- L from a tempo in tenths of a beat per minute and a number of beats (R10). -/
def tempoLen (bpm10 beats : Nat) : Nat := clampLen ((57600000 * beats + bpm10) / (2 * bpm10))

/-- What a tap does to the tap sequence (R12): the new sequence, the tap's number in it, and L when the tap is the fourth. -/
def TapSeq.tapAt (stamp beats : Nat) (t : TapSeq) : TapSeq × Nat × Option Nat :=
  let interval := stampSub stamp t.last
  if t.count = 0 ∨ interval < 12000 ∨ 72000 < interval then
    ({ count := 1, last := stamp, sum := 0 }, 1, none)
  else if t.count + 1 < 4 then
    ({ count := t.count + 1, last := stamp, sum := t.sum + interval }, t.count + 1, none)
  else
    (TapSeq.empty, 4, some (clampLen ((2 * (t.sum + interval) + 3) / 6 * beats)))

/-! ### The grid (R14) -/

/-- The boundary positions of a quantum on a cycle of length `len` (R14). -/
def Cycle.boundaries (c : Cycle) (len : Nat) : Quantum → List Nat
  | .none => []
  | .cycle => [0]
  | .beat => (List.range c.beats).map fun j => j * len / c.beats
  | .bar => ((List.range c.beats).filter fun j => j % c.perBar == 0).map fun j => j * len / c.beats

/-- The greatest boundary at or below a position; each set holds position 0 (R14). -/
def Cycle.lastBoundary (c : Cycle) (len : Nat) (q : Quantum) (p : Nat) : Nat :=
  ((c.boundaries len q).filter (fun b => decide (b ≤ p))).foldl max 0

/-- The least boundary above b, or L (R14). -/
def Cycle.nextBoundary (c : Cycle) (len : Nat) (q : Quantum) (b : Nat) : Nat :=
  ((c.boundaries len q).filter (fun x => decide (b < x))).foldl min len

/-- The effective grace after b (R14). -/
def Cycle.effGrace (c : Cycle) (len : Nat) (q : Quantum) (b : Nat) : Nat :=
  min c.grace ((c.nextBoundary len q b - b) / 2)

/-- The beat number whose boundary is at a position, if any (R6). -/
def Cycle.beatAt (c : Cycle) (len p : Nat) : Option Nat :=
  (List.range c.beats).find? fun j => j * len / c.beats == p

/-! ### Places of frames -/

/-- A track position (R16). -/
def trackPos (span len pass pos : Nat) : Nat := pass % span * len + pos

/-- The pass and position of the next frame to arrive on the running cycle (R4). -/
def Cycle.nextPlace (c : Cycle) : Nat × Nat :=
  if c.origin then (c.pass, 0)
  else if c.pos + 1 = c.shownLen then ((c.pass + 1) % 256, 0)
  else (c.pass, c.pos + 1)

/-- Where an action cuts (R59): before the next frame to arrive, before the arriving frame, or before the frame `age` arrivals before the most recent one, back-dated to an effective point. -/
inductive Cut where
  | next
  | arriving
  | back (age : Nat) (point : Point)
  deriving DecidableEq, Repr

/-- The stamp of a cut (R59). -/
def Cycle.cutStamp (c : Cycle) : Cut → Nat
  | .next => stampAdd c.frameCount 1
  | .arriving => c.frameCount
  | .back age _ => stampSub c.frameCount age

/-- The samples a recording that started at `start` keeps when it closes at a cut, reckoned so that a cut before its start keeps none (R59, R68). -/
def Cycle.keptAt (c : Cycle) (start : Nat) (k : Cut) : Nat :=
  let taken := stampSub (stampAdd c.frameCount 1) start
  match k with
  | .next => taken
  | .arriving => taken - 1
  | .back age _ => taken - 1 - age

/-- How many frames before a recording's start a cut lies (R42). -/
def Cycle.cutBefore (c : Cycle) (start : Nat) (k : Cut) : Nat :=
  let taken := stampSub (stampAdd c.frameCount 1) start
  match k with
  | .next | .arriving => 0
  | .back age _ => age - (taken - 1)

/-! ### Frame arrivals (R3 to R6) -/

/-- What an arrival reached (R6). -/
structure Reached where
  pass : Nat
  pos : Nat
  /-- The beat reached and whether it is a bar. -/
  beat : Option (Nat × Bool)
  wrap : Bool
  deriving DecidableEq, Repr

/-- One more frame on the free-running count (R3). -/
def State.countFrame (s : State) : State :=
  { s with cycle := { s.cycle with frameCount := stampAdd s.cycle.frameCount 1 } }

/-- The cycle timer with the position moved on a RUNNING cycle of length `len` (R4): the new timer, and whether the arrival is a cycle wrap. -/
def Cycle.move (c : Cycle) (len : Nat) : Cycle × Bool :=
  if c.origin then ({ c with origin := false, pos := 0 }, false)
  else if c.pos + 1 = len then ({ c with pos := 0, pass := (c.pass + 1) % 256 }, true)
  else ({ c with pos := c.pos + 1 }, false)

/-- The beat boundary a running cycle has reached, and whether it is a bar (R6). -/
def Cycle.reachedBeat (c : Cycle) (len : Nat) : Option (Nat × Bool) :=
  (c.beatAt len c.pos).map fun j => (j, j % c.perBar == 0)

/-- The events of an arrival's boundaries, CYCLE WRAP before the BEAT of beat 0 (R6). -/
def State.announce (r : Reached) (s : State) : State :=
  let s := if r.wrap then s.raise .cycleWrap none none r.pass else s
  match r.beat with
  | some (j, bar) => s.raise .beat none none (j + if bar then 32768 else 0)
  | none => s

/-- The cycle timer's work at an arrival in RUN (R4 to R6): what was reached, when the cycle is RUNNING. The position stands at 2,880,000 at most while DEFINING (1.1); the arrival that reaches it closes the recording (R5). -/
def State.advance (s : State) : State × Option Reached :=
  match s.cycle.state, s.cycle.len with
  | .running, some len =>
    let (c, wrap) := s.cycle.move len
    let s := { s with cycle := c }
    let s := if wrap then s.clearPassFlags else s
    let r := { pass := c.pass, pos := c.pos, beat := c.reachedBeat len, wrap := wrap }
    (s.announce r, some r)
  | .defining, _ => ({ s with cycle := { s.cycle with pos := min 2880000 (s.cycle.pos + 1) } }, none)
  | _, _ => (s, none)

/-! ### Due computation (R17 to R20) -/

/-- An action that acts at once: its effective point, where it cuts, and whether it is back-dated (R83). -/
structure Eff where
  point : Point
  cut : Cut
  back : Bool
  deriving DecidableEq, Repr

/-- The result of the due computation (R81). -/
inductive Due where
  | refused (st : Status)
  | atOnce (e : Eff)
  | due (pass pos : Nat)
  deriving DecidableEq, Repr

/-- The press time of an action taken now (R17, R109). -/
def State.pressNow (s : State) : PressTime :=
  { pass := s.cycle.pass, pos := s.cycle.shownPos, frame := s.cycle.frameCount, gen := s.cycle.gen,
    time := s.now }

/-- Acting at the current frame, not back-dated (R18, R20): the effective point is the current pass and position, and a layer is cut at the next frame to arrive (R59). DEDUCED, log entry 46. -/
def Cycle.current (c : Cycle) : Eff :=
  { point := { pass := c.pass, pos := c.shownPos }, cut := .next, back := false }

/-- The transport actions (R80). -/
def Action.isTransport : Action → Bool
  | .record | .overdub | .replace | .close => true
  | .mute | .unmute | .undo | .redo | .stopAll | .playAll => false

/-- The actions on the whole cycle (R80). -/
def Action.isAll : Action → Bool
  | .stopAll | .playAll => true
  | .record | .overdub | .replace | .close | .mute | .unmute | .undo | .redo => false

/-- Acting at once at a passed point of a given age: a transport action is back-dated to it, any other acts at the current frame (R18, R19). -/
def Cycle.passed (c : Cycle) (a : Action) (pass pos age : Nat) : Eff :=
  if a.isTransport then
    let point : Point := { pass := pass, pos := pos }
    { point := point, cut := .back age point, back := true }
  else c.current

/-- R18 and R19 from a press time of age E on a cycle of length `len`; none when the point passed is more than 8,000 frames old (R19.5). -/
def Cycle.dueFrom (c : Cycle) (len : Nat) (a : Action) (q : Quantum) (press : PressTime) (age : Nat) :
    Option Due :=
  let b := c.lastBoundary len q press.pos
  let b' := c.nextBoundary len q b
  let due : Point :=
    if b' = len then { pass := (press.pass + 1) % 256, pos := 0 } else { pass := press.pass, pos := b' }
  let d := b' - press.pos
  if press.pos - b ≤ c.effGrace len q b then
    if c.origin then some (.atOnce c.current)
    else if age + (press.pos - b) ≤ 8000 then
      some (.atOnce (c.passed a press.pass b (age + (press.pos - b))))
    else none
  else if age < d then some (.due due.pass due.pos)
  else if age - d ≤ 8000 then some (.atOnce (c.passed a due.pass due.pos (age - d)))
  else none

/-- The due computation (R18 to R20). -/
def State.dueOf (a : Action) (q : Quantum) (press : PressTime) (s : State) : Due :=
  let c := s.cycle
  if s.power.part = .rest then
    if a.isTransport || a.isAll then .refused .resting else .atOnce c.current
  else
    match c.state, c.len with
    | .paused, _ => if a.isTransport then .refused .badState else .atOnce c.current
    | .running, some len =>
      if q = .none then .atOnce c.current
      else
        let age := stampSub c.frameCount press.frame
        let afresh := (c.dueFrom len a q s.pressNow 0).getD (.atOnce c.current)
        if press.gen = c.gen then (c.dueFrom len a q press age).getD afresh else afresh
    | _, _ => .atOnce c.current

/-- Frames from the current position forward to a due (R85). -/
def Cycle.forwardDistance (c : Cycle) (pass pos : Nat) : Nat :=
  (pass + 256 - c.pass % 256) % 256 * c.shownLen + pos - c.pos

end Sys2Proof.Machine
end

