-- ==== Sys2Proof/Machine/LoopMemory.lean ====
section
/-! DEFINITION. The memory controller's operations on layers: read-ahead buffers, windows, freeing and truncation, and the checking of words read (07_loop_memory.md). -/
namespace Sys2Proof.Machine

open Sys2Proof

/-! ### Layers as the capture unit and the track controller see them -/

/-- The capture record of a layer, if one is in use (R60). -/
def State.recordOf (s : State) (id : Nat) : Option CapRec :=
  s.capture.records.toList.findSome? fun r =>
    match r with
    | some r => if r.layer = id then some r else none
    | none => none

/-- The samples an open layer has taken so far (R59). -/
def State.taken (s : State) (id : Nat) : Nat :=
  match s.recordOf id with
  | some r => stampSub (stampAdd s.cycle.frameCount 1) r.startStamp
  | none => 0

/-- A layer's length as READ LAYER reports it: for an open layer, the samples taken so far (R54, R59). -/
def State.lengthOf (s : State) (id : Nat) (l : Layer) : Nat :=
  if l.state = .opened then s.taken id else l.length

/-- Whether a layer is the fold result in the fold result slot (R27). -/
def State.isFoldResult (s : State) (id : Nat) : Bool :=
  match s.fold with
  | some f => decide (f.result = id)
  | none => false

/-! ### Read-ahead buffers (R147 to R149) -/

/-- An empty buffer aimed at an offset. -/
def ReadBuf.aimed (offset : Nat) : ReadBuf := { aim := offset, fill := offset, data := [], flight := false }

/-- Whether a layer's buffer is in use (R147). -/
def State.bufInUse (s : State) (id : Nat) (l : Layer) : Bool :=
  match l.state with
  | .closed => true
  | .folding => !s.isFoldResult id
  | .opened => (s.track l.track).span.isSome
  | .importing | .undone => false

/-- The offset of the next sample to place, and the end that bounds it: a closed layer's offsets are taken in cyclic order, an open layer's end at the samples taken so far (R147). -/
def ReadBuf.nextFill (b : ReadBuf) (limit : Nat) (cyclic : Bool) : Nat :=
  if cyclic && decide (limit ≤ b.fill) then 0 else b.fill

/-- The next range of a buffer: to the end of the fill offset's burst range, within the layer (R147). -/
def ReadBuf.nextRange (b : ReadBuf) (limit : Nat) (cyclic : Bool) : Option Range :=
  let f := b.nextFill limit cyclic
  if limit ≤ f then none else some { first := f, len := min (64 - f % 64) (limit - f) }

/-- Samples placed in a buffer, the fill offset moved past their range (R147). -/
def ReadBuf.place (b : ReadBuf) (r : Range) (xs : List Sample) (limit : Nat) (cyclic : Bool) : ReadBuf :=
  { b with
    data := b.data ++ xs
    fill := if cyclic && decide (limit ≤ r.stop) then 0 else r.stop
    flight := false }

/-- Zeros placed at once for ranges wholly in holes, while the buffer holds 64 samples or fewer (R147). -/
def ReadBuf.placeHoles (l : Layer) (limit : Nat) (cyclic : Bool) : Nat → ReadBuf → ReadBuf
  | 0, b => b
  | n + 1, b =>
    if b.data.length ≤ 64 && !b.flight then
      match b.nextRange limit cyclic with
      | some r =>
        if l.inHoles r then
          ReadBuf.placeHoles l limit cyclic n (b.place r (List.replicate r.len 0) limit cyclic)
        else b
      | none => b
    else b

/-- The range a layer's buffer waits for as a PLAYBACK requester (R147). -/
def State.playbackRange (s : State) (id : Nat) (l : Layer) : Option Range :=
  if s.bufInUse id l && decide (l.buf.data.length ≤ 64) && !l.buf.flight then
    match l.buf.nextRange (s.lengthOf id l) (l.state != .opened) with
    | some r => if l.ready r && !l.inHoles r then some r else none
    | none => none
  else none

/-- Every buffer in use topped up with the zeros of its holes (R147). -/
def State.settleBuffers (s : State) : State :=
  { s with
    layers := s.layers.map fun e =>
      if s.bufInUse e.1 e.2 then
        (e.1, { e.2 with buf := e.2.buf.placeHoles e.2 (s.lengthOf e.1 e.2) (e.2.state != .opened) 65 })
      else e }

/-- Where a buffer is aimed when its layer comes into use or is cut: at the next track position to arrive when the cycle is RUNNING and that lies within the layer, at 0 otherwise (R149). A layer that comes into use at an arrival's own cue or limit is mixed at that arrival too, where this buffer holds nothing for it. DESIGN CHOICE, log entry 54. -/
def State.aimOf (s : State) (l : Layer) : Nat :=
  match s.cycle.state, (s.track l.track).span with
  | .running, some span =>
    let (pass, pos) := s.cycle.nextPlace
    let q := trackPos span s.cycle.shownLen pass pos
    if l.startQ ≤ q ∧ q - l.startQ < l.length then q - l.startQ else 0
  | _, _ => 0

/-- A layer's buffer re-aimed by R149. -/
def State.reaim (id : Nat) (s : State) : State :=
  s.modLayer id fun l => { l with buf := ReadBuf.aimed (s.aimOf l) }

/-- Every buffer in use re-aimed at 0, as the pause of the cycle does (R149). -/
def State.reaimAllZero (s : State) : State :=
  { s with
    layers := s.layers.map fun e =>
      if s.bufInUse e.1 e.2 then (e.1, { e.2 with buf := ReadBuf.aimed 0 }) else e }

/-- The next offset in cyclic order. -/
def nextOffset (k length : Nat) : Nat := if length ≤ k + 1 then 0 else k + 1

/-- One sample taken by the mixer at offset k, or none on an underrun, which discards the buffer and refills it from the offset after k (R148). -/
def ReadBuf.take (b : ReadBuf) (k length : Nat) : ReadBuf × Option Sample :=
  match b.data with
  | x :: xs =>
    if b.aim = k then ({ b with aim := nextOffset k length, data := xs }, some x)
    else (ReadBuf.aimed (nextOffset k length), none)
  | [] => (ReadBuf.aimed (nextOffset k length), none)

/-! ### Windows lost and freed layers (R28, R155) -/

/-- The causes of WINDOW LOST, in the order of R155's table. -/
inductive LostCause where
  | undone
  | cleared
  | retired
  | folded
  | discarded
  | noMemory
  | powerLow
  | rest
  deriving DecidableEq, Repr

/-- The code of a port in event details (R197). -/
def portCode : Port → Nat
  | .a => 0
  | .b => 1

/-- The results of a reply to CLOSE WINDOW on a WRITE window: samples committed, excess count, timeout flag (R155). -/
def Window.writeResults (w : Window) : List Byte :=
  bytes 4 (w.next - w.buf.length) ++ bytes 2 w.excess ++ flagByte w.timedOut

/-- The background wait of a port's window. -/
def State.setWait (who : Background) (w : Wait) (s : State) : State :=
  match who with
  | .fold => { s with mem := { s.mem with waitFold := w } }
  | .windowA => { s with mem := { s.mem with waitA := w } }
  | .windowB => { s with mem := { s.mem with waitB := w } }

/-- The background requester of a port's window. -/
def portBackground : Port → Background
  | .a => .windowA
  | .b => .windowB

/-- A port's window lost: CLOSED at once with WINDOW LOST, and a CLOSE WINDOW that waits on it answered (R155). -/
def State.loseWindow (p : Port) (cause : LostCause) (s : State) : State :=
  match s.window p with
  | none => s
  | some w =>
    let s := (s.setWindow p none).setWait (portBackground p) Wait.idle
    let s := s.raise .windowLost none (some w.layer) (portCode p + 16 * cause.ctorIdx)
    if w.closing then
      s.completeReply p (if cause = .noMemory then .noMemory else .badState) w.writeResults
    else s

/-- A port's window lost when it is open on a layer. -/
def State.loseWindowOn (id : Nat) (cause : LostCause) (p : Port) (s : State) : State :=
  match s.window p with
  | some w => if w.layer = id then s.loseWindow p cause else s
  | none => s

/-- The windows open on a layer lost, port A's before port B's (R28). The order is a DESIGN CHOICE, log entry 37. -/
def State.loseWindowsOn (id : Nat) (cause : LostCause) (s : State) : State :=
  (s.loseWindowOn id cause .a).loseWindowOn id cause .b

/-- The capture records of a layer freed, their buffers and unread frames dropped (R71). -/
def State.dropRecord (id : Nat) (s : State) : State :=
  { s with
    capture := { s.capture with
      records := s.capture.records.map fun r =>
        match r with
        | some r => if r.layer = id then none else some r
        | none => none } }

/-- A granted read whose layer may have gone. -/
def Reading.orphan (id : Nat) (rd : Reading) : Reading := { rd with live := rd.live && decide (rd.layer ≠ id) }

/-- A granted read whose layer may have been truncated. -/
def Reading.truncated (id : Nat) (rd : Reading) : Reading := { rd with cut := rd.cut || decide (rd.layer = id) }

/-- A grant with its reading changed, when it is of a read. -/
def Grant.onReading (f : Reading → Reading) : Grant → Grant
  | .playback rd => .playback (f rd)
  | .foldRead rd newer => .foldRead (f rd) newer
  | .windowRead p rd => .windowRead p (f rd)
  | .refresh => .refresh
  | .capture b blk live => .capture b blk live
  | .foldWrite blk o xs => .foldWrite blk o xs
  | .windowCommit p blk o xs => .windowCommit p blk o xs

/-- A granted burst whose layer is gone: it completes, its words are checked, and its samples belong to no layer (R139, R140, R145). -/
def Grant.orphan (id : Nat) : Grant → Grant
  | .capture b blk live => .capture b blk (live && decide (b.layer ≠ id))
  | g => g.onReading (Reading.orphan id)

/-- A layer freed (R28): its blocks given back, its queued bursts withdrawn, its window lost, its capture record freed, its record returned to the pool. -/
def State.freeLayer (cause : LostCause) (id : Nat) (s : State) : State :=
  match s.layer? id with
  | none => s
  | some l =>
    let s := (s.loseWindowsOn id cause).dropRecord id
    let m := s.mem.giveBack l.extents l.suspects
    { s with
      layers := assocErase id s.layers
      fresh := s.fresh.filter (fun i => i != id)
      mem := { m with queue := m.queue.filter (fun b => b.layer != id), grant := m.grant.map (Grant.orphan id) } }

/-! ### Truncation (R69, R76, R145, R152) -/

/-- A READ window on a layer that is cut to length n: samples at or beyond n leave its buffer (R152), and latched ones among them leave the transfer, the one being shifted too (R192, log entry 50). A REVERSE window goes on from n − 1. DEDUCED, log entry 10. -/
def Window.cutTo (n : Nat) (w : Window) : Window :=
  let shifting := w.shifting && decide (w.next < n)
  match w.mode, w.dir with
  | .read, .forward =>
    { w with buf := w.buf.take (n - w.next), latched := min w.latched (n - w.next), shifting := shifting }
  | .read, .reverse =>
    { w with
      buf := w.buf.drop (w.next + 1 - n), next := min w.next (n - 1)
      latched := w.latched - (w.next + 1 - n), shifting := shifting }
  | .write, _ => w

/-- The state with the window of a port on a layer cut. -/
def State.cutWindow (id n : Nat) (p : Port) (s : State) : State :=
  match s.window p with
  | some w => if w.layer = id then s.setWindow p (some (w.cutTo n)) else s
  | none => s

/-- A layer record cut to length n (R69 steps 3 and 4). -/
def Layer.cutTo (n : Nat) (l : Layer) : Layer :=
  let kept := l.extents.take (ceilDiv n 4096)
  { l with
    length := n
    extents := kept
    suspects := l.suspects.filter (fun b => kept.contains b)
    holes := cutRanges n l.holes
    stored := cutRanges n l.stored }

/-- Whether ending a layer at length n truncates it: n lies below the length it has, or below the frames that its capture record has taken (R69, R76). -/
def State.truncates (id n : Nat) (s : State) : Bool :=
  match s.layer? id with
  | none => false
  | some l =>
    (l.state != .opened && decide (n < l.length))
      || (s.recordOf id).any fun r => decide (n < stampSub r.readStamp r.startStamp)

/-- A granted read marked where ending its layer at length n truncates the layer: its samples will be discarded (R140). -/
def State.cutReads (id n : Nat) (s : State) : State :=
  if s.truncates id n then
    { s with mem := { s.mem with grant := s.mem.grant.map (Grant.onReading (Reading.truncated id)) } }
  else s

/-- A layer's memory cut to length n: queued bursts at or beyond it withdrawn, blocks wholly beyond it given back, holes and windows cut (R69 steps 2 to 4, R145, R152). -/
def State.truncate (id n : Nat) (s : State) : State :=
  match s.layer? id with
  | none => s
  | some l =>
    let m := s.mem.giveBack (l.extents.drop (ceilDiv n 4096)) l.suspects
    let s := { s with
      mem := { m with queue := m.queue.filter (fun b => b.layer != id || decide (b.offset < n)) } }
    ((s.setLayer id (l.cutTo n)).cutWindow id n .a).cutWindow id n .b

/-! ### Reading words (R139) -/

/-- The verdict on word i of a burst. -/
def checkAt (checks : List WordCheck) (i : Nat) : WordCheck := checks.getD i .good

/-- The reading of a range of a layer, as its grant finds the layer (R139, R140). -/
def Layer.reading (id : Nat) (r : Range) (l : Layer) : Reading :=
  { layer := id, track := l.track, range := r, block := l.blockOf r.first
    suspect := (l.blockOf r.first).any l.suspects.contains, holes := l.holes, live := true, cut := false }

/-- The layer that a reading is for, while it is there. -/
def State.readFor (rd : Reading) (s : State) : Option Layer := if rd.live then s.layer? rd.layer else none

/-- The sample delivered at an offset of a reading: the stored one, 0 at an offset that has become a hole (R139, R147). -/
def State.delivered (rd : Reading) (o : Nat) (s : State) : Sample :=
  if ((s.readFor rd).map fun l => inRanges o l.holes).getD false then 0
  else
    match rd.block with
    | some b => s.mem.readWord (wordAddr b (o % 4096))
    | none => unwrittenWord

/-- A block that gave an uncorrectable word: it joins the suspect blocks of the layer that holds it, and the layer is damaged (R139). A layer freed since the grant is not there to mark, and a block that has left the layer's extents since does not join its suspect blocks. DESIGN CHOICE, log entry 43. -/
def State.suspectBlock (rd : Reading) (b : Nat) (s : State) : State :=
  match s.readFor rd with
  | none => s
  | some l =>
    s.setLayer rd.layer
      { l with
        damaged := true
        suspects := if l.extents.contains b && !l.suspects.contains b then l.suspects ++ [b] else l.suspects }

/-- One word of a reading, checked (R139): the state with its fault taken, the reading, whose block may have become suspect, and the sample delivered. A hole offset is delivered as 0 and is not checked. -/
def State.readChecked (who : Requester) (o : Nat) (chk : WordCheck) (rd : Reading) (s : State) :
    State × Reading × Sample :=
  if inRanges o rd.holes then (s, rd, 0)
  else
    match chk with
    | .good => (s, rd, s.delivered rd o)
    | .corrected =>
      (s.takeFault (.met s.cycle.here .corrected who rd.block rd.layer rd.track), rd, s.delivered rd o)
    | .uncorrectable =>
      match rd.block with
      | none => (s, rd, 0)
      | some b =>
        if rd.suspect then (s, rd, 0)
        else
          ((s.suspectBlock rd b).takeFault
              (.met s.cycle.here .uncorrectable who (some b) rd.layer rd.track),
            { rd with suspect := true }, 0)

/-- The words of a reading from its i-th on, each checked (R139). Their faults are handed over in offset order. DESIGN CHOICE, log entry 37. -/
def State.readFrom (who : Requester) (checks : List WordCheck) : List Nat → Reading → State → State × List Sample
  | [], _, s => (s, [])
  | i :: is, rd, s =>
    let (s, rd, x) := s.readChecked who (rd.range.first + i) (checkAt checks i) rd
    let (s, xs) := State.readFrom who checks is rd s
    (s, x :: xs)

/-- A granted read at its completion: every word checked, whatever becomes of its samples (R139, R140). -/
def State.readRun (who : Requester) (checks : List WordCheck) (rd : Reading) (s : State) : State × List Sample :=
  s.readFrom who checks (List.range rd.range.len) rd

/-- Whether any word of a reading is uncorrectable outside the layer's holes (R44). -/
def Reading.bad (checks : List WordCheck) (rd : Reading) : Bool :=
  (List.range rd.range.len).any fun i =>
    checkAt checks i == .uncorrectable && !inRanges (rd.range.first + i) rd.holes

/-! ### READ windows (R152) -/

/-- The range a READ window asks for next, on a layer whose end is at `limit`, none while it is OPEN (R152). -/
def Window.nextRange (w : Window) (limit : Option Nat) : Option Range :=
  match w.dir with
  | .forward =>
    let stop := (w.next / 64 + 1) * 64
    let stop := match limit with | some n => min stop n | none => stop
    if stop ≤ w.next then none else some { first := w.next, len := stop - w.next }
  | .reverse => some { first := w.next / 64 * 64, len := w.next % 64 + 1 }

/-- Where a layer ends for a window: an OPEN layer has no end yet (R152). -/
def Layer.windowEnd (l : Layer) : Option Nat := if l.state = .opened then none else some l.length

/-- A READ window at its end: done, with WINDOW DONE (R152). -/
def State.windowDone (p : Port) (w : Window) (s : State) : State :=
  (s.setWindow p (some { w with done := true, req := .absent })).raise .windowDone none (some w.layer) (portCode p)

/-- A READ window that has emptied its buffer: at its end it is done, a range wholly in holes is placed as zeros, and otherwise it makes its request unless one stands or an unreported timeout holds it (R152, R154). -/
def State.settleRead (p : Port) (s : State) : State :=
  match s.window p with
  | none => s
  | some w =>
    match s.layer? w.layer with
    | none => s
    | some l =>
      if w.mode = .write || w.done || !w.buf.isEmpty then s
      else if w.dir = .forward && l.state != .opened && decide (l.length ≤ w.next) then s.windowDone p w
      else
        match w.req, w.nextRange l.windowEnd with
        | .granted _, _ => s
        | _, none => s
        | .waiting .., some r =>
          if l.inHoles r then
            s.setWindow p (some { w with buf := List.replicate r.len 0, req := .absent })
          else s
        | .absent, some r =>
          if l.inHoles r then s.setWindow p (some { w with buf := List.replicate r.len 0 })
          else if w.timedOut then s
          else s.setWindow p (some { w with req := .waiting s.now (s.windowTimeout p) })

/-- One sample taken from a READ window's buffer: the next offset moves past it, and the last in its direction ends the window (R152, R192). A sample placed before a hole came over its offset is given as it was read. DESIGN CHOICE, log entry 47. -/
def State.takeSample (p : Port) (s : State) : State :=
  match s.window p with
  | none => s
  | some w =>
    let w' := { w with buf := w.buf.tail, latched := w.latched - 1, shifting := false }
    match w.dir with
    | .forward => (s.setWindow p (some { w' with next := w.next + 1 })).settleRead p
    | .reverse =>
      if w.next = 0 then s.windowDone p w'
      else (s.setWindow p (some { w' with next := w.next - 1 })).settleRead p

end Sys2Proof.Machine
end

