-- ==== Sys2Proof/Machine/CueList.lean ====
section
/-! DEFINITION. The cue list's own operations: slots, order, ids, joining, superseding and dropping (04_the_cue_list.md). -/
namespace Sys2Proof.Machine

open Sys2Proof

/-- The family of an action (R80). -/
def Action.family : Action → Family
  | .record | .overdub | .replace | .close => .transport
  | .mute | .unmute => .mute
  | .undo | .redo => .stack
  | .stopAll | .playAll => .all

/-- The drop reasons, in the order of their codes (R197). -/
inductive DropReason where
  | superseded
  | cancelled
  | invalid
  | stackFull
  | stopped
  | rest
  | cleared
  | noMemory
  deriving DecidableEq, Repr

/-- The part of the detail that CUE DONE and CUE DROPPED share: action, origin port, joined ports (R92, R197). -/
def Cue.detail (c : Cue) : Nat :=
  c.action.ctorIdx + 16 * portCode c.origin + 32 * portSetCode c.joinedA c.joinedB

/-- The event that ends a cue, with the default stamp (R92). -/
def State.cueEvent (s : State) (k : EventKind) (c : Cue) (detail : Nat) : Event :=
  s.event k c.target none (some c.id) detail

/-- CUE DROPPED for an entry that has left the list (R92). -/
def State.reportDrop (r : DropReason) (c : Cue) (s : State) : State :=
  s.raiseEvent (s.cueEvent .cueDropped c (c.detail + 256 * r.ctorIdx))

/-- Whether an entry stands in the slot of a target and family (R80). -/
def Cue.inSlot (target : Option TrackId) (f : Family) (c : Cue) : Bool :=
  decide (c.target = target) && decide (c.action.family = f)

/-- The entry of a slot. -/
def State.slot (s : State) (target : Option TrackId) (f : Family) : Option Cue :=
  s.cues.entries.find? (Cue.inSlot target f)

/-- The list with the entries of an id removed. -/
def State.removeCue (id : Nat) (s : State) : State :=
  { s with cues := { s.cues with entries := s.cues.entries.filter (fun c => c.id != id) } }

/-- An entry removed from the list and dropped with a reason. -/
def State.dropCue (r : DropReason) (c : Cue) (s : State) : State := (s.removeCue c.id).reportDrop r c

/-- The entries a cause drops, head first (4.7). -/
def State.dropCues (r : DropReason) : List Cue → State → State
  | [], s => s
  | c :: cs, s => State.dropCues r cs (s.dropCue r c)

/-- Every entry dropped with a reason (R96 to R98). -/
def State.dropAllCues (r : DropReason) (s : State) : State := s.dropCues r s.cues.entries

/-- The entries of one track dropped with reason CLEARED (R97). -/
def State.dropTrackCues (t : TrackId) (s : State) : State :=
  s.dropCues .cleared (s.cues.entries.filter (fun c => c.target == some t))

/-- The value after a cue id: 65,535 is followed by 1 (R86). -/
def nextCueId (n : Nat) : Nat := if 65535 ≤ n then 1 else n + 1

/-- The first id not in use from a value on; at most 16 entries are in the way (R86). -/
def pickCueId (used : List Nat) : Nat → Nat → Nat
  | 0, n => n
  | k + 1, n => if used.contains n then pickCueId used k (nextCueId n) else n

/-- A new entry placed after every entry whose due is nearer or equal (R85). -/
def insertCue (c : Cycle) (e : Cue) : List Cue → List Cue
  | [] => [e]
  | x :: l =>
    if c.forwardDistance e.duePass e.duePos < c.forwardDistance x.duePass x.duePos then e :: x :: l
    else x :: insertCue c e l

/-- An entry made with the next cue id not in use (R86, R89). -/
def State.makeCue (origin : Port) (a : Action) (target : Option TrackId) (q : Quantum)
    (press : PressTime) (pass pos : Nat) (s : State) : State × Nat :=
  let id := pickCueId (s.cues.entries.map Cue.id) 17 s.cues.nextId
  let e : Cue :=
    { id := id, origin := origin, joinedA := false, joinedB := false, action := a, target := target,
      quantum := q, press := press, duePass := pass, duePos := pos }
  ({ s with cues := { entries := insertCue s.cycle e s.cues.entries, nextId := nextCueId id } }, id)

/-- A port added to an entry's joined ports (R87, R95). -/
def Cue.join (p : Port) (c : Cue) : Cue :=
  match p with
  | .a => { c with joinedA := true }
  | .b => { c with joinedB := true }

/-- The entry of an id joined by a port (R87, R95). -/
def State.joinCue (id : Nat) (p : Port) (s : State) : State :=
  { s with
    cues := { s.cues with entries := s.cues.entries.map fun c => if c.id = id then c.join p else c } }

/-- What the quantised path answers (R90): a status, with the cue id, the due, or the effective point. -/
structure Answer where
  status : Status
  cue : Option Nat
  point : Option Point
  /-- Present for an action that acted at once: whether it was back-dated. -/
  back : Option Bool
  deriving DecidableEq, Repr

/-- An answer that carries nothing but its status. -/
def Answer.of (st : Status) : Answer := { status := st, cue := none, point := none, back := none }

/-- The results of a reply to a quantised request (R83, R90). -/
def Answer.results (a : Answer) : List Byte :=
  match a.cue, a.point, a.back with
  | some id, some q, _ => bytes 2 id ++ pointBytes q.pass q.pos
  | none, some q, some b => pointBytes q.pass q.pos ++ flagByte b
  | _, _, _ => []

/-- An action due ahead placed in the list: joined, superseding, new, or refused with FULL (R87 to R89). -/
def State.placeCue (p : Port) (a : Action) (target : Option TrackId) (q : Quantum)
    (press : PressTime) (pass pos : Nat) (s : State) : State × Answer :=
  let made := fun (s : State) =>
    let (s, id) := s.makeCue p a target q press pass pos
    (s, { status := Status.accepted, cue := some id, point := some ⟨pass, pos⟩, back := none : Answer })
  match s.slot target a.family with
  | some e =>
    if e.action = a ∧ e.duePass = pass ∧ e.duePos = pos then
      (s.joinCue e.id p, { status := .joined, cue := some e.id, point := some ⟨pass, pos⟩, back := none })
    else made (s.dropCue .superseded e)
  | none => if s.cues.entries.length < 16 then made s else (s, Answer.of .full)

/-- The slot's entry dropped as an action that acts at once is accepted (R84). -/
def State.supersedeSlot (target : Option TrackId) (f : Family) (s : State) : State :=
  match s.slot target f with
  | some e => s.dropCue .superseded e
  | none => s

end Sys2Proof.Machine
end

