-- ==== Sys2Proof/Machine/Stacks.lean ====
section
/-! DEFINITION. The track controller's operations: layer weights, stacks and admission, the fold engine, closing, undo, redo and clearing (02_tracks_and_layer_stacks.md, 06 sections 6.3 and 6.4). -/
namespace Sys2Proof.Machine

open Sys2Proof

/-! ### Weights and contributions (R120, R121, R123) -/

/-- The edge weight of a layer at offset k, for the edge length R in force (R120). -/
def edgeWeight (edge k length : Nat) (head tail : Bool) : Nat :=
  min (if head && decide (k < edge) then 32768 * (k + 1) / (edge + 1) else 32768)
    (if tail && decide (length - edge ≤ k) then 32768 * (length - k) / (edge + 1) else 32768)

/-- The cover weight of a covering layer of length `length` at track position q (R121). -/
def coverWeight (edge q start length : Nat) (head tail : Bool) : Nat :=
  if start ≤ q ∧ q - start < length then 32768 - edgeWeight edge (q - start) length head tail
  else 32768

/-- A sample edged, covered by each weight in turn, and scaled by a gain (R120, R121, R123). -/
def contribution (x : Sample) (edge : Nat) (covers : List Nat) (gain : Nat) : Int :=
  scale (covers.foldl scale (scale x.toInt edge)) gain

/-! ### Track records -/

/-- The detail of TRACK STATE (R26, R197). -/
def Track.detail (tr : Track) : Nat := tr.state.ctorIdx + if tr.muteTarget = 0 then 32768 else 0

/-- TRACK STATE raised for a track (R26). -/
def State.raiseTrack (t : TrackId) (s : State) : State :=
  s.raise .trackState (some t) none (s.track t).detail

/-- TRACK STATE raised when a track's state or mute target differs from an earlier record's (R26). -/
def State.noteTrack (t : TrackId) (old : Track) (s : State) : State :=
  if (s.track t).state = old.state ∧ (s.track t).muteTarget = old.muteTarget then s
  else s.raiseTrack t

/-- A layer id taken out of a track's stack, redo list, open layer and marker (R42, R48). -/
def Track.dropLayer (id : Nat) (tr : Track) : Track :=
  { tr with
    stack := tr.stack.filter (fun e => e != .single id)
    redo := tr.redo.filter (fun i => i != id)
    openLayer := if tr.openLayer = some id then none else tr.openLayer
    marker :=
      match tr.marker with
      | some (r, n) => if r = id ∨ n = id then none else some (r, n)
      | none => none }

/-- Whether a layer id is of an importing layer. -/
def State.isImporting (s : State) (id : Nat) : Bool :=
  match s.layer? id with
  | some l => l.state == .importing
  | none => false

/-- Whether a track's stack holds an importing layer (R26). -/
def State.holdsImport (s : State) (t : TrackId) : Bool :=
  (stackIds (s.track t).stack).any s.isImporting

/-- A track whose stack holds no layer other than importing layers is EMPTY, and keeps a held span while its redo list or an importing layer needs one; any other track stands (2.2, R26). -/
def State.settleTrack (t : TrackId) (s : State) : State :=
  let tr := s.track t
  if (stackIds tr.stack).any (fun id => !s.isImporting id) then s
  else
    s.setTrack t
      { tr with
        state := .empty
        span := none
        heldSpan :=
          if !tr.redo.isEmpty || s.holdsImport t then tr.span.orElse (fun _ => tr.heldSpan) else none
        openLayer := none
        marker := none }

/-! ### The fold engine (2.8, R150) -/

/-- The causes of FOLD ABANDONED, in the order of their codes (R197). -/
inductive FoldCause where
  | undone
  | cleared
  | retired
  | noMemory
  | powerLow
  deriving DecidableEq, Repr

/-- The folding pair of a stack split into single entries of the members kept. -/
def splitPair (keep : List Nat) : List Entry → List Entry
  | [] => []
  | .pair o n :: l =>
    ([o, n].filter (fun i => keep.contains i)).map Entry.single ++ splitPair keep l
  | .single i :: l => .single i :: splitPair keep l

/-- A member that stays single becomes CLOSED (R48). -/
def State.unfoldMember (id : Nat) (s : State) : State :=
  s.modLayer id fun l => { l with state := .closed }

/-- A fold abandoned (R48): the result freed, the engine IDLE, the members kept as single CLOSED entries, and the older retired when the split would hold 9 entries. For cause CLEARED the pair is left for the caller to free. -/
def State.abandonFold (cause : FoldCause) (keep : List Nat) (s : State) : State :=
  match s.fold with
  | none => s
  | some f =>
    let s := ({ s with fold := none }).setWait .fold Wait.idle
    let s := s.freeLayer .cleared f.result
    let s : State :=
      if cause = .cleared then s
      else
        keep.foldl (fun s id => State.unfoldMember id s)
          (s.modTrack f.track fun tr => { tr with stack := splitPair keep tr.stack })
    let s := s.raise .foldAbandoned (some f.track) (some f.result) cause.ctorIdx
    if (s.track f.track).stack.length ≤ 8 then s
    else
      let gain := ((s.layer? f.older).map Layer.gain).getD 0
      let s := (s.freeLayer .retired f.older).modTrack f.track (Track.dropLayer f.older)
      s.raise .layerRetired none (some f.older) gain

/-- The reads of one member that a result range at track positions lo to hi needs: the offsets that lie within the member, split at its burst ranges (R150). -/
def memberReads (newer : Bool) (l : Layer) (lo hi : Nat) : List FoldRead :=
  let x := max lo l.startQ - l.startQ
  let y := min hi (l.startQ + l.length) - l.startQ
  if y ≤ x then []
  else if x / 64 = (y - 1) / 64 then [{ newer := newer, first := x, len := y - x }]
  else
    let b := (x / 64 + 1) * 64
    [{ newer := newer, first := x, len := b - x }, { newer := newer, first := b, len := y - b }]

/-- The number of samples of the result burst at the next result offset (R45). -/
def Fold.burstLen (f : Fold) (result : Layer) : Nat := min 64 (result.length - f.nextOff)

/-- A result burst begun: a block taken first at a multiple of 4,096, or the fold abandoned with NO_MEMORY (R45); then the member reads it needs (R150). The first burst begins within the admission that starts the fold and each later one at the completion of the write before it. DESIGN CHOICE, log entry 39. -/
def State.beginFoldBurst (s : State) : State :=
  match s.fold with
  | none => s
  | some f =>
    let s' := if f.nextOff % 4096 = 0 then s.allocate f.result else some s
    match s' with
    | none => s.abandonFold .noMemory [f.older, f.newer]
    | some s =>
      match s.layer? f.result, s.layer? f.older, s.layer? f.newer with
      | some r, some lo, some ln =>
        let q := r.startQ + f.nextOff
        let q' := q + f.burstLen r
        { s with
          fold := some
            { f with
              reads := memberReads false lo q q' ++ memberReads true ln q q'
              gotOlder := [], gotNewer := [], out := none, granted := false } }
      | _, _, _ => s

/-- A member's sample at track position q: as read, 0 where the member was not read or ends before it (R44, R76). A sample read before a hole came over its offset counts as it was read. DESIGN CHOICE, log entry 47. -/
def foldSample (l : Layer) (got : List (Nat × Sample)) (q : Nat) : Sample :=
  if l.startQ ≤ q ∧ q - l.startQ < l.length then (assocFind (q - l.startQ) got).getD 0 else 0

/-- A member's contribution at track position q, covered by the weights given (R44). -/
def memberPart (edge q : Nat) (l : Layer) (got : List (Nat × Sample)) (covers : List Nat) (gain : Nat) :
    Int :=
  contribution (foldSample l got q)
    (edgeWeight edge (q - l.startQ) l.length l.head l.tail) covers gain

/-- The sum of the two members' contributions at track position q (R44). -/
def Fold.sumAt (f : Fold) (older newer : Layer) (q : Nat) : Int :=
  memberPart f.edge q older f.gotOlder
      (if newer.cover then [coverWeight f.edge q newer.startQ newer.length newer.head newer.tail] else [])
      f.gainOlder
    + memberPart f.edge q newer f.gotNewer [] f.gainNewer

/-- The reads a fold still has to wait for: a read wholly in holes, or past a member's end, is skipped (R150, R76), also one that came to lie there while it waited for its grant. DESIGN CHOICE, log entry 56. -/
def State.pendingReads (s : State) (f : Fold) : List FoldRead :=
  f.reads.dropWhile fun r =>
    match s.layer? (if r.newer then f.newer else f.older) with
    | some l => decide (l.length ≤ r.first) || l.inHoles { first := r.first, len := min r.len (l.length - r.first) }
    | none => true

/-- The fold engine brought forward: reads that need no grant skipped, and the result burst formed once no read is left, its clamps counted (R44, R150). -/
def State.settleFold (s : State) : State :=
  match s.fold with
  | none => s
  | some f =>
    if f.granted || f.out.isSome then s
    else
      let reads := s.pendingReads f
      if !reads.isEmpty then { s with fold := some { f with reads := reads } }
      else
        match s.layer? f.result, s.layer? f.older, s.layer? f.newer with
        | some r, some lo, some ln =>
          let sums := (List.range (f.burstLen r)).map fun i => f.sumAt lo ln (r.startQ + f.nextOff + i)
          let n := (sums.filter clamps24).length
          let s := s.modTrack f.track fun tr => { tr with foldClips := min 65535 (tr.foldClips + n) }
          { s with
            fold := some
              { f with reads := [], out := some (sums.map clamp24), clips := min 65535 (f.clips + n) } }
        | _, _, _ => s

/-- Whether the fold's request at hand can be granted: a write, or a read of a ready range (R141, R150). -/
def State.foldWaiting (s : State) : Bool :=
  match s.fold with
  | none => false
  | some f =>
    if f.granted then false
    else if f.out.isSome then true
    else
      match f.reads with
      | [] => false
      | r :: _ =>
        match s.layer? (if r.newer then f.newer else f.older) with
        | some l => l.ready { first := r.first, len := min r.len (l.length - r.first) }
        | none => false

/-- A fold started on the two oldest entries of a track, with the result record's id (R30 step 3, R43). -/
def State.startFold (t : TrackId) (a b rid : Nat) (rest : List Entry) (s : State) : State :=
  match s.layer? a, s.layer? b with
  | some la, some lb =>
    let start := min la.startQ lb.startQ
    let result : Layer :=
      { track := t, state := .folding, origin := .folded, start := .at start,
        length := max (la.startQ + la.length) (lb.startQ + lb.length) - start,
        cover := false, head := false, tail := false, gain := 32768,
        damaged := la.damaged || lb.damaged, holes := [], extents := [], suspects := [],
        stored := [], creator := none, committed := 0, buf := ReadBuf.aimed 0 }
    let s := (s.setLayer a { la with state := .folding }).setLayer b { lb with state := .folding }
    let s := (s.setLayer rid result).modTrack t fun tr => { tr with stack := .pair a b :: rest }
    ({ s with
      fold := some
        { track := t, older := a, newer := b, result := rid, gainOlder := la.gain, gainNewer := lb.gain,
          edge := s.mixer.edge, pendingGain := 32768, nextOff := 0, clips := 0, reads := [],
          gotOlder := [], gotNewer := [], out := none, granted := false } }).beginFoldBurst
  | _, _ => s

/-- Whether a layer is CLOSED. -/
def State.isClosed (s : State) (id : Nat) : Bool :=
  match s.layer? id with
  | some l => l.state == .closed
  | none => false

/-- Stack admission (R30): the state with any fold started and the id of the new layer's record, or the status of the step that failed. -/
def State.takeRoom (t : TrackId) (s : State) : Except Status (State × Nat) :=
  match s.freeId with
  | none => .error .noMemory
  | some id =>
    let stack := (s.track t).stack
    if stack.length < 8 then .ok (s, id)
    else
      match stack with
      | .single a :: .single b :: rest =>
        if s.fold.isNone && s.isClosed a && s.isClosed b && !s.mem.free.isEmpty
            && decide (2 ≤ 40 - s.layers.length) then
          let s := s.startFold t a b id rest
          match s.freeId with
          | some id' => .ok (s, id')
          | none => .error .stackFull
        else .error .stackFull
      | _ => .error .stackFull

/-- A completed fold (R47): the result CLOSED in the pair's place, the members freed, the engine IDLE. The older member is freed before the newer. DESIGN CHOICE, log entry 37. -/
def State.completeFold (s : State) : State :=
  match s.fold with
  | none => s
  | some f =>
    let damaged := [f.older, f.newer].any fun id => ((s.layer? id).map Layer.damaged).getD false
    let s := ({ s with fold := none }).setWait .fold Wait.idle
    let s := s.modLayer f.result fun l =>
      { l with state := .closed, gain := f.pendingGain, damaged := l.damaged || damaged }
    let s := s.modTrack f.track fun tr =>
      { tr with stack := tr.stack.map fun e => if e = .pair f.older f.newer then .single f.result else e }
    let s := ((s.freeLayer .folded f.older).freeLayer .folded f.newer).reaim f.result
    s.raise .foldDone (some f.track) (some f.result) f.clips

/-! ### Closing the capture side of a layer (R68, R69) -/

/-- A capture record ended at the layer's length n: samples beyond it leave the buffer, and the record drains, or is free when nothing remains to be handed over (R68, R69). -/
def CapRec.endAt (n order : Nat) (r : CapRec) : Option CapRec :=
  let stop := stampAdd r.startStamp n
  let cut := decide (n < r.nextOff + r.buf.length)
  let r' : CapRec :=
    { r with
      phase := .draining
      endStamp := some stop
      buf := if cut then r.buf.take (n - r.nextOff) else r.buf
      readStamp := if n < stampSub r.readStamp r.startStamp then stop else r.readStamp
      closeOrder := some (r.closeOrder.getD order) }
  if r'.buf.isEmpty && decide (r'.readStamp = stop) then none else some r'

/-- A layer's capture record ended at length n; a record not yet closed takes the next close order (R67, R68). -/
def State.endCapture (id n : Nat) (s : State) : State :=
  match s.recordOf id with
  | none => s
  | some r =>
    let order := if r.closeOrder.isSome then s.capture.closeOrder else (s.capture.closeOrder + 1) % 65536
    { s with
      capture := { s.capture with
        closeOrder := order
        records := s.capture.records.map fun q =>
          match q with
          | some q => if q.layer = id then q.endAt n order else some q
          | none => none } }

/-- A layer ended at length n: a read granted for it loses its samples where this truncates it, its capture record ends, and its memory is cut (R68, R69, R140). -/
def State.endAt (id n : Nat) (s : State) : State := ((s.cutReads id n).endCapture id n).truncate id n

/-! ### Closing layers (R33, R34, R42) -/

/-- The span, start and length of a first layer of N samples that began at pass n and cycle position p0 (R34). -/
def fixSpan (len n p0 samples : Nat) : Nat × Nat × Nat :=
  let c := clampNat 1 8 (ceilDiv samples len)
  let spans := [1, 2, 4, 8].filter fun x => decide (c ≤ x)
  match spans.find? fun x => decide (n % x * len + p0 + samples ≤ x * len) with
  | some x => (x, n % x * len + p0, samples)
  | none =>
    match spans.find? fun x => decide (p0 + samples ≤ x * len) with
    | some x => (x, p0, samples)
    | none => (8, p0, 8 * len - p0)

/-- LAYER CLOSED with the track's span as detail (R33, R34). -/
def State.raiseClosed (t : TrackId) (id : Nat) (s : State) : State :=
  s.raise .layerClosed none (some id) ((s.track t).span.getD 0)

/-- A layer whose close takes effect at the next frame to arrive, its cut, and which does not decay at a wrap of that frame (R39). DEDUCED, log entry 52. -/
def State.markFresh (fresh : Bool) (id : Nat) (s : State) : State :=
  if fresh then { s with fresh := id :: s.fresh } else s

/-- An open layer discarded at its close: freed, and the track goes on by what its stack holds (R33, R34). -/
def State.discardOpen (t : TrackId) (id : Nat) (s : State) : State :=
  let s := s.freeLayer .discarded id
  let s := s.modTrack t fun tr => { tr.dropLayer id with state := .playing, marker := none }
  (s.settleTrack t).raiseTrack t

/-- The close of a first layer with n samples kept (R34), after R8 where it is the defining recording, whose length is the position or less. The cycle timer's part of the close goes first, so the events of the track controller are stamped with the cycle as it leaves it. DESIGN CHOICE, log entry 37. -/
def State.closeFirst (t : TrackId) (id n : Nat) (fresh stop : Bool) (s : State) : State :=
  let defining := decide (s.cycle.state = .defining)
  let n := if defining then min n s.cycle.pos else n
  let s := if defining then s.closeDefining n stop else s
  match s.layer? id with
  | none => s
  | some l =>
    if n = 0 ∨ (defining ∧ n < 9600) then s.discardOpen t id
    else
      let (pass, pos) := match l.start with | .first a b => (a, b) | .at q => (0, q)
      let (span, start, length) := fixSpan s.cycle.shownLen pass pos n
      let s := s.endAt id length
      let s := s.modLayer id fun l => { l with state := .closed, start := .at start, tail := true }
      let s := s.modTrack t fun tr =>
        { tr with state := .playing, span := some span, heldSpan := none, openLayer := none, marker := none }
      let s := (s.markFresh (fresh && decide (length = n)) id).reaim id
      (s.raiseClosed t id).raiseTrack t

/-- The close of an overdub or replace layer with n > 0 samples kept (R33). -/
def State.closeLayered (t : TrackId) (id n : Nat) (fresh : Bool) (s : State) : State :=
  let s := s.endAt id n
  let s := s.modLayer id fun l => { l with state := .closed, tail := true }
  let s := s.modTrack t fun tr => { tr with state := .playing, openLayer := none, marker := none }
  let s := (s.markFresh fresh id).reaim id
  (s.raiseClosed t id).raiseTrack t

/-- The length that leaves a rolled-from layer ending `before` frames before its roll, at S × L − start − before; one that is shorter already keeps its length (R42). -/
def State.rolledLength (t : TrackId) (before : Nat) (l : Layer) (s : State) : Nat :=
  if before = 0 then l.length
  else min l.length ((s.track t).span.getD 0 * s.cycle.shownLen - l.startQ - before)

/-- A rolled-from layer closed with n samples kept: its tail edge set and LAYER CLOSED, or discarded when it keeps none (R42). -/
def State.closeRolled (t : TrackId) (id n : Nat) (l : Layer) (s : State) : State :=
  if n = 0 then (s.freeLayer .discarded id).modTrack t (Track.dropLayer id)
  else
    let s := if n = l.length then s else (s.endAt id n).reaim id
    (s.modLayer id fun l => { l with tail := true }).raiseClosed t id

/-- A close at or before the roll frame: the successor is discarded, and the rolled-from layer keeps its length or is cut to end `before` frames before the roll (R42). -/
def State.closeAtRoll (t : TrackId) (rolled successor before : Nat) (s : State) : State :=
  let s := (s.freeLayer .discarded successor).modTrack t fun tr =>
    { tr.dropLayer successor with state := .playing, openLayer := none, marker := none }
  let s := match s.layer? rolled with
    | some l => s.closeRolled t rolled (s.rolledLength t before l) l
    | none => s
  (s.settleTrack t).raiseTrack t

/-- The open layer of a track closed with n samples kept, its cut `before` frames before its start (R33, R34, R42). -/
def State.closeOpen (t : TrackId) (n before : Nat) (fresh stop : Bool) (s : State) : State :=
  match (s.track t).openLayer with
  | none => s
  | some id =>
    if (s.track t).state = .recording then s.closeFirst t id n fresh stop
    else if n = 0 then
      match (s.track t).marker with
      | some (rolled, successor) =>
        if successor = id then s.closeAtRoll t rolled successor before else s.discardOpen t id
      | none => s.discardOpen t id
    else s.closeLayered t id n fresh

/-- The open layer of a track closed at a cut (R59, R68). -/
def State.closeAtCut (t : TrackId) (k : Cut) (stop : Bool) (s : State) : State :=
  match (s.track t).openLayer with
  | none => s
  | some id =>
    let start := ((s.recordOf id).map CapRec.startStamp).getD (stampAdd s.cycle.frameCount 1)
    s.closeOpen t (s.cycle.keptAt start k) (s.cycle.cutBefore start k)
      (decide (k = .next ∨ k = .arriving)) stop

/-! ### Actions on one track (R33, R35 to R38) -/

/-- CLOSE acting on a track (R31, R33). -/
def State.actClose (t : TrackId) (k : Cut) (s : State) : Except Status State :=
  match (s.track t).state with
  | .recording | .overdubbing | .replacing => .ok (s.closeAtCut t k false)
  | .empty | .playing => .error .badState

/-- MUTE or UNMUTE acting on a track (R38). -/
def State.actMute (t : TrackId) (target : Nat) (s : State) : State :=
  let old := s.track t
  (s.modTrack t fun tr => { tr with muteTarget := target }).noteTrack t old

/-- A CLOSED layer taken out of the stack to the head of the redo list, whose oldest layer is freed when it held 4 (R35). -/
def State.toRedo (t : TrackId) (id : Nat) (s : State) : State :=
  let s := s.loseWindowsOn id .undone
  let s := s.modLayer id fun l => { l with state := .undone, buf := ReadBuf.aimed 0 }
  let redo := (s.track t).redo
  let s := match redo.drop 3 with
    | oldest :: _ => s.freeLayer .undone oldest
    | [] => s
  s.modTrack t fun tr => { tr.dropLayer id with redo := id :: redo.take 3 }

/-- UNDO acting on a track (R35). Of the defining recording the layer is freed first, then the cycle is emptied (R9), and TRACK STATE is raised last, with pass 0 and position 0. DESIGN CHOICE, log entry 37. -/
def State.actUndo (t : TrackId) (s : State) : Except Status State :=
  let old := s.track t
  match old.stack.getLast? with
  | none => .error .badState
  | some (.pair older newer) =>
    let s := (s.abandonFold .undone [older]).toRedo t newer
    .ok ((s.settleTrack t).noteTrack t old)
  | some (.single id) =>
    match s.layer? id with
    | none => .error .badState
    | some l =>
      match l.state with
      | .opened =>
        let s := s.freeLayer .undone id
        let s := s.modTrack t fun tr => { tr.dropLayer id with state := .playing, marker := none }
        let s :=
          if old.state = .recording ∧ s.cycle.state = .defining then s.emptyCycle else s
        .ok ((s.settleTrack t).noteTrack t old)
      | .importing =>
        let s := (s.freeLayer .undone id).modTrack t (Track.dropLayer id)
        .ok ((s.settleTrack t).noteTrack t old)
      | .closed | .folding | .undone => .ok (((s.toRedo t id).settleTrack t).noteTrack t old)

/-- REDO acting on a track (R36). A stack of 8 entries is refused first, as the full stack of R93 shows with its open layer and emptied redo list. DEDUCED, log entry 38. A layer that a REDO cue returns at an arrival is mixed at that arrival. DESIGN CHOICE, log entry 54. -/
def State.actRedo (t : TrackId) (s : State) : Except Status State :=
  let old := s.track t
  if 8 ≤ old.stack.length then .error .stackFull
  else if old.openLayer.isSome then .error .badState
  else
    match old.redo with
    | [] => .error .badState
    | id :: rest =>
        let s := s.modLayer id fun l => { l with state := .closed }
        let s := s.setTrack t
          { old with
            stack := old.stack ++ [.single id]
            redo := rest
            state := .playing
            span := old.span.orElse (fun _ => old.heldSpan)
            heldSpan := none }
        .ok ((s.reaim id).noteTrack t old)

/-- A list of layers freed one after the other with one cause. -/
def State.freeAll (cause : LostCause) : List Nat → State → State
  | [], s => s
  | id :: ids, s => State.freeAll cause ids (s.freeLayer cause id)

/-- A track record emptied, its settings kept (R37, R50). -/
def Track.cleared (tr : Track) : Track :=
  { tr with
    state := .empty, span := none, heldSpan := none, stack := [], redo := [], openLayer := none,
    marker := none, foldClips := 0 }

/-- Every layer of a track freed, newest first, the redo list after the stack (R37 steps 1 to 3). The order across the two lists is a DESIGN CHOICE, log entry 11. -/
def State.emptyTrack (t : TrackId) (s : State) : State :=
  let s := match s.fold with
    | some f => if f.track = t then s.abandonFold .cleared [] else s
    | none => s
  let tr := s.track t
  (s.freeAll .cleared ((stackIds tr.stack).reverse ++ tr.redo)).modTrack t Track.cleared

/-- The recent at-once record of a track made absent (R102). -/
def State.forgetTrack (t : TrackId) (s : State) : State :=
  { s with switches := { s.switches with recent := s.switches.recent.set t.val none t.isLt } }

/-- The track controller's part of CLEAR TRACK and R9, which change nothing on an EMPTY track with nothing in its stack or redo list (R37 steps 1 to 3). -/
def State.clearTrack (t : TrackId) (s : State) : State :=
  let old := s.track t
  if old.state = .empty ∧ old.stack = [] ∧ old.redo = [] then s
  else
    let s := s.emptyTrack t
    if old.state = .recording ∧ s.cycle.state = .defining then s.emptyCycle else s

/-- CLEAR TRACK acting: the track cleared, its cues and its recent record gone whatever the track held, TRACK STATE on a change (R37, R97, R102). That the cues and the record go on a track with nothing to clear is DEDUCED, log entry 15. -/
def State.actClearTrack (t : TrackId) (s : State) : State :=
  (((s.clearTrack t).dropTrackCues t).forgetTrack t).noteTrack t (s.track t)

end Sys2Proof.Machine
end

