-- ==== Sys2Proof/Machine/Gather.lean ====
section
/-! DEFINITION. The capture unit's operations: rings, record samples, moves, hand-over, forced cuts, openings, rolls and track wraps (03_capture_recording_overdub_and_replace.md, 02 sections 2.5 and 2.7). -/
namespace Sys2Proof.Machine

open Sys2Proof

/-! ### Lookback rings and record samples (R56 to R58) -/

/-- The frame of a stamp in the lookback rings; a place never written holds zeros (R57). -/
def Capture.ringAt (c : Capture) (stamp : Nat) : Frame := sparseGet silence (stamp % 8192) c.rings

/-- The arriving frame written into the rings at the place of its stamp (R56). -/
def State.writeRing (f : Frame) (s : State) : State :=
  { s with
    capture := { s.capture with
      rings := sparsePut silence (s.cycle.frameCount % 8192) f s.capture.rings } }

/-- A record sample: the sum of the slots in a source mask, clamped to 24 bits (R58). -/
def recordSample (mask : BitVec 8) (f : Frame) : Sample :=
  clamp24 ((List.finRange 8).foldl (fun acc i => if mask.getLsbD i.val then acc + (f[i]).toInt else acc) 0)

/-! ### Capture records -/

/-- The state with a capture record replaced. -/
def State.setRecord (i : Fin 12) (r : Option CapRec) (s : State) : State :=
  { s with capture := { s.capture with records := s.capture.records.set i.val r i.isLt } }

/-- How many frames a record may move into its buffer now (R63). -/
def CapRec.movable (frameCount : Nat) (r : CapRec) : Nat :=
  let room := 64 - r.buf.length
  let arrived := stampSub (stampAdd frameCount 1) r.readStamp
  match r.phase, r.endStamp with
  | .inStep, _ => 0
  | .draining, some e => min room (min arrived (stampSub e r.readStamp))
  | _, _ => min room arrived

/-- A FILLING or DRAINING record with its moves made (R63): a FILLING record that reaches the live stream is IN STEP, a DRAINING record with nothing left is free. -/
def CapRec.refill (c : Capture) (mask : BitVec 8) (frameCount : Nat) (r : CapRec) : Option CapRec :=
  let n := r.movable frameCount
  let xs := (List.range n).map fun i => recordSample mask (c.ringAt (stampAdd r.readStamp i))
  let r' := { r with buf := r.buf ++ xs, readStamp := stampAdd r.readStamp n }
  match r.phase with
  | .inStep => some r
  | .filling =>
    if r'.readStamp = stampAdd frameCount 1 ∧ r'.buf.length < 64 then some { r' with phase := .inStep }
    else some r'
  | .draining => if r'.buf.isEmpty && decide (r'.endStamp = some r'.readStamp) then none else some r'

/-- Every record refilled (R63). -/
def State.refillAll (s : State) : State :=
  { s with
    capture := { s.capture with
      records := s.capture.records.map fun r =>
        match r with
        | some r => r.refill s.capture (s.track r.track).sources s.cycle.frameCount
        | none => none } }

/-- Whether a record holds a waiting burst (R63). -/
def CapRec.waiting (r : CapRec) : Bool :=
  match r.phase with
  | .inStep => false
  | .filling => decide (64 ≤ r.buf.length)
  | .draining =>
    decide (64 ≤ r.buf.length) || (!r.buf.isEmpty && decide (r.endStamp = some r.readStamp))

/-! ### Losing samples (R65 to R67, R76, R143) -/

/-- A range of a layer lost: a hole, and a hard fault WRITE OVERRUN with the block of its first offset and the place at which it was lost (R65, R143). An empty range is no loss. -/
def State.overrun (place : Point) (id : Nat) (r : Range) (s : State) : State :=
  match s.layer? id with
  | none => s
  | some l =>
    if r.len = 0 then s
    else
      (s.setLayer id (l.addHole r)).takeFault
        (.met place .writeOverrun .capture (l.blockOf r.first) id l.track)

/-- A closed layer whose unhanded end is refused for memory, cut to n samples: gone when none is kept (R76). -/
def State.cutClosed (id n : Nat) (s : State) : State :=
  match s.layer? id with
  | none => s
  | some l =>
    if n = 0 then
      let s := match s.fold with
        | some f =>
          if f.older = id ∨ f.newer = id then s.abandonFold .noMemory [f.older, f.newer] else s
        | none => s
      let old := s.track l.track
      let s := (s.freeLayer .discarded id).modTrack l.track (Track.dropLayer id)
      (s.settleTrack l.track).noteTrack l.track old
    else
      let s := (s.endAt id n).modLayer id fun l => { l with tail := true }
      if l.state = .undone then s else s.reaim id

/-- A recording cut at an offset for want of a block, with MEMORY FULL (R76). -/
def State.exhaust (id n : Nat) (s : State) : State :=
  match s.layer? id with
  | none => s
  | some l =>
    let s := s.raise .memoryFull (some l.track) (some id) (sat16 (n / 64))
    if l.state = .opened then s.closeOpen l.track n 0 false false else s.cutClosed id n

/-- The multiples of 4,096 in a range of offsets, in order: where it begins a 4,096-sample range (R143). -/
def blockStarts (r : Range) : List Nat :=
  ((List.range (ceilDiv r.stop 4096)).map (· * 4096)).filter fun o => decide (r.first ≤ o)

/-- Where a range of a layer begins a 4,096-sample range that has no block yet: one given up before has its block (R65, R66). -/
def State.blocksNeeded (id : Nat) (r : Range) (s : State) : List Nat :=
  match s.layer? id with
  | some l => (blockStarts r).filter fun o => decide (l.extents.length ≤ o / 4096)
  | none => []

/-- A block taken for each offset of a list; the first offset for which none was free (R143). -/
def State.allocateEach (id : Nat) : List Nat → State → State × Option Nat
  | [], s => (s, none)
  | o :: os, s =>
    match s.allocate id with
    | some s => State.allocateEach id os s
    | none => (s, some o)

/-- A range given up at a place (R65, R67, R143): its blocks taken, the range a hole with WRITE OVERRUN, and the layer cut where a block could not be had. -/
def State.giveUp (place : Point) (id : Nat) (r : Range) (s : State) : State :=
  match s.allocateEach id (s.blocksNeeded id r) with
  | (s, none) => s.overrun place id r
  | (s, some o) => (s.overrun place id { r with len := o - r.first }).exhaust id o

/-! ### Handing over (R62, R64, R66, R143) -/

/-- A record's buffer handed over as a burst (R66, R143): its block taken, then queued, or discarded as a hole when the queue is full, or refused for memory. -/
def State.handOver (i : Fin 12) (s : State) : State :=
  match s.capture.records[i] with
  | none => s
  | some r =>
    match (if r.nextOff % 4096 = 0 then s.allocate r.layer else some s) with
    | none => s.exhaust r.layer r.nextOff
    | some s =>
      let next := { r with buf := [], nextOff := stampSub r.readStamp r.startStamp }
      let s := s.setRecord i
        (if r.phase = .draining ∧ r.endStamp = some r.readStamp then none else some next)
      if s.mem.queue.length < 8 then
        { s with mem := { s.mem with
            queue := s.mem.queue ++
              [{ layer := r.layer, offset := r.nextOff, samples := r.buf, queuedAt := s.now }] } }
      else s.overrun s.cycle.here r.layer { first := r.nextOff, len := r.buf.length }

/-- Whether waiting record j goes before waiting record i: older read stamp, then lower track (R64). -/
def handsFirst (frameCount : Nat) (a b : CapRec) : Bool :=
  let age := fun (r : CapRec) => stampSub (stampAdd frameCount 1) r.readStamp
  decide (age b < age a) || (decide (age a = age b) && decide (a.track < b.track))

/-- The record whose waiting burst is handed over next (R64). Of two records of one track with equal read stamps the lower index goes first. DESIGN CHOICE, log entry 37. -/
def State.nextWaiting (s : State) : Option (Fin 12) :=
  (List.finRange 12).foldl
    (fun best i =>
      match s.capture.records[i] with
      | none => best
      | some r =>
        if r.waiting then
          match best with
          | none => some i
          | some j =>
            match s.capture.records[j] with
            | some q => if handsFirst s.cycle.frameCount r q then some i else best
            | none => some i
        else best)
    none

/-- Refill and hand over, again and again, while the queue holds fewer than 4 bursts and a burst is waiting (R64). -/
def State.settleCapture : Nat → State → State
  | 0, s => s.refillAll
  | n + 1, s =>
    let s := s.refillAll
    if s.mem.queue.length < 4 then
      match s.nextWaiting with
      | some i => State.settleCapture n (s.handOver i)
      | none => s
    else s

/-- Rounds that always suffice for settleCapture: at most 4 bursts join the queue and at most 12 records are refused. -/
def handOverRounds : Nat := 16

/-! ### Overtaken records (R65) -/

/-- The burst range an overtaken record gives up: the one of its read stamp, cut short at the end stamp when DRAINING (R65). -/
def CapRec.lostRange (r : CapRec) : Range :=
  let o := stampSub r.readStamp r.startStamp
  let first := if 64 ≤ r.buf.length then o else r.nextOff
  let stop := (o / 64 + 1) * 64
  let stop := match r.endStamp with
    | some e => min stop (stampSub e r.startStamp)
    | none => stop
  { first := first, len := stop - first }

/-- Whether a record is overtaken by the arriving frame (R65). A DRAINING record that has read every frame up to its end stamp has no next unread frame to lose. DEDUCED, log entry 40. -/
def CapRec.overtaken (stamp : Nat) (r : CapRec) : Bool :=
  r.phase != .inStep && decide (stampAdd r.readStamp 8192 = stamp) && decide (r.endStamp ≠ some r.readStamp)

/-- Record i given up in part when it is overtaken, with the place of the arrival (R65). A waiting burst stays, with its next offset. -/
def State.overtake (place : Point) (i : Fin 12) (s : State) : State :=
  match s.capture.records[i] with
  | none => s
  | some r =>
    if r.overtaken s.cycle.frameCount then
      let g := r.lostRange
      let read := stampAdd r.startStamp g.stop
      let r' : CapRec :=
        if 64 ≤ r.buf.length then { r with readStamp := read }
        else { r with readStamp := read, buf := [], nextOff := g.stop }
      (s.setRecord i (some r')).giveUp place r.layer g
    else s

/-! ### Taking a capture record (R67) -/

/-- The lowest free record index (R67). -/
def State.freeRecord (s : State) : Option (Fin 12) :=
  (List.finRange 12).find? fun i => (s.capture.records[i]).isNone

/-- How long ago a DRAINING record's layer closed, by close order (R67). -/
def State.closeAge (s : State) (i : Fin 12) : Option Nat :=
  match s.capture.records[i] with
  | some r =>
    if r.phase = .draining then
      some ((s.capture.closeOrder + 65536 - r.closeOrder.getD s.capture.closeOrder % 65536) % 65536)
    else none
  | none => none

/-- The DRAINING record whose layer closed earliest (R67). -/
def State.oldestDraining (s : State) : Option (Fin 12) :=
  (List.finRange 12).foldl
    (fun best i =>
      match s.closeAge i, best with
      | none, _ => best
      | some _, none => some i
      | some a, some j => if (s.closeAge j).getD 0 < a then some i else best)
    none

/-- A DRAINING record freed, its unhanded remainder given up (R67). -/
def State.stealRecord (i : Fin 12) (s : State) : State :=
  match s.capture.records[i] with
  | none => s
  | some r =>
    let stop := match r.endStamp with
      | some e => stampSub e r.startStamp
      | none => r.nextOff
    (s.setRecord i none).giveUp s.cycle.here r.layer { first := r.nextOff, len := stop - r.nextOff }

/-- A capture record put in use for a layer: the lowest free one, or one taken from the layer closed earliest, where the loss that this brings has not taken the layer with it (R67). -/
def State.placeRecord (r : CapRec) (s : State) : State :=
  match s.freeRecord with
  | some i => s.setRecord i (some r)
  | none =>
    match s.oldestDraining with
    | some i =>
      let s := s.stealRecord i
      if (s.layer? r.layer).isSome then s.setRecord i (some r) else s
    | none => s

/-! ### Opening layers (R32, R60, R61) -/

/-- A fresh layer record (2.3). -/
def Layer.fresh (t : TrackId) (st : LayerState) (o : LayerOrigin) (start : LayerStart)
    (cover head : Bool) : Layer :=
  { track := t, state := st, origin := o, start := start, length := 0, cover := cover, head := head,
    tail := false, gain := 32768, damaged := false, holes := [], extents := [], suspects := [],
    stored := [], creator := none, committed := 0, buf := ReadBuf.aimed 0 }

/-- Start and start stamp of a first layer: the place of the effective point, which is that of the frame at the cut (R32, R60, R74). A press taken while origin pending and issued after the frame at position 0 starts at its effective point, position 0, with the age that R19 gives it, one frame before. DEDUCED, log entry 51. -/
def Cycle.firstStart (c : Cycle) (k : Cut) : LayerStart × Nat :=
  let (pass, pos) :=
    if c.state = .defining then (0, 0)
    else
      match k with
      | .next => c.nextPlace
      | .arriving => (c.pass, c.pos)
      | .back _ point => (point.pass, point.pos)
  (.first pass pos, c.cutStamp k)

/-- Start and start stamp of an overdub or replace layer: the track position of the frame at the cut, not before the track's most recent wrap (R32, R60). -/
def Cycle.layerStart (c : Cycle) (span : Nat) (k : Cut) : LayerStart × Nat :=
  match k with
  | .next =>
    let (pass, pos) := c.nextPlace
    (.at (trackPos span c.shownLen pass pos), c.cutStamp .next)
  | .arriving => (.at (trackPos span c.shownLen c.pass c.pos), c.cutStamp .arriving)
  | .back age point =>
    let q := trackPos span c.shownLen c.pass c.pos
    (.at (q - min age q), c.cutStamp (.back (min age q) point))

/-- An admitted layer opened on a track: its record, the stack and the track state, and its capture record, IN STEP when its first frame is the next to arrive and FILLING otherwise (R32, R60). -/
def State.openLayer (t : TrackId) (id : Nat) (l : Layer) (startStamp : Nat) (phase : Phase)
    (dest : TrackState) (s : State) : State :=
  let s := (s.setLayer id l).modTrack t fun tr =>
    { tr with stack := tr.stack ++ [.single id], openLayer := some id, state := dest }
  s.placeRecord
    { layer := id, track := t, phase := phase, startStamp := startStamp, readStamp := startStamp,
      endStamp := none, nextOff := 0, buf := [], closeOrder := none }

/-- A track's redo list freed, oldest first, with the held span that only it needed (R32). -/
def State.freeRedo (t : TrackId) (s : State) : State :=
  let s := s.freeAll .undone (s.track t).redo.reverse
  s.modTrack t fun tr => { tr with redo := [], heldSpan := if s.holdsImport t then tr.heldSpan else none }

/-- The phase a punch-in's capture record starts in (R60). -/
def Cut.phase : Cut → Phase
  | .next => .inStep
  | .arriving | .back .. => .filling

/-- A RECORD on an EMPTY cycle makes it DEFINING (R7). -/
def State.startDefining (s : State) : State :=
  if s.cycle.state = .empty then
    s.setCycle { s.cycle with state := .defining, pos := 0, pass := 0, tap := TapSeq.empty }
  else s

/-- RECORD acting on a track (R7, R26, R31, R32). -/
def State.actRecord (t : TrackId) (k : Cut) (s : State) : Except Status State :=
  if s.cycle.state = .defining ∨ (s.track t).state ≠ .empty ∨ s.holdsImport t then .error .badState
  else
    match s.takeRoom t with
    | .error st => .error st
    | .ok (s, id) =>
      let s := (s.freeRedo t).startDefining
      let (start, stamp) := s.cycle.firstStart k
      let s := s.openLayer t id (Layer.fresh t .opened .recorded start false true) stamp k.phase .recording
      .ok (s.raiseTrack t)

/-- OVERDUB or REPLACE acting on a track (R31, R32, R73). -/
def State.actLayer (t : TrackId) (cover : Bool) (k : Cut) (s : State) : Except Status State :=
  match (s.track t).state, (s.track t).span with
  | .playing, some span =>
    match s.takeRoom t with
    | .error st => .error st
    | .ok (s, id) =>
      let s := s.freeRedo t
      let (start, stamp) := s.cycle.layerStart span k
      let s := s.openLayer t id (Layer.fresh t .opened .recorded start cover true) stamp k.phase
        (if cover then .replacing else .overdubbing)
      .ok (s.raiseTrack t)
  | _, _ => .error .badState

/-! ### Track wraps (R39 to R41, R46, R61, R72) -/

/-- The layers of a track that decay at its wrap: CLOSED or FOLDING, and not closed at the frame of the wrap (R39). -/
def State.decaying (s : State) (t : TrackId) : List Nat :=
  (stackIds (s.track t).stack).filter fun id =>
    match s.layer? id with
    | some l => (l.state == .closed || l.state == .folding) && !s.fresh.contains id
    | none => false

/-- A list of layers decayed by a feedback (R39). -/
def State.decayAll (f : Nat) : List Nat → State → State
  | [], s => s
  | id :: ids, s => State.decayAll f ids (s.modLayer id fun l => { l with gain := scaleGain l.gain f })

/-- The pending result gain of a fold on this track decayed, at least 64 (R46). -/
def State.decayFold (t : TrackId) (f : Nat) (s : State) : State :=
  match s.fold with
  | some fd =>
    if fd.track = t then
      { s with fold := some { fd with pendingGain := max 64 (scaleGain fd.pendingGain f) } }
    else s
  | none => s

/-- Whether a layer's gain is below 64 (R40). -/
def State.faded (s : State) (id : Nat) : Bool :=
  match s.layer? id with
  | some l => decide (l.gain < 64)
  | none => false

/-- A layer retired: freed, with LAYER RETIRED (R40). -/
def State.retire (t : TrackId) (id : Nat) (s : State) : State :=
  let gain := ((s.layer? id).map Layer.gain).getD 0
  ((s.freeLayer .retired id).modTrack t (Track.dropLayer id)).raise .layerRetired none (some id) gain

/-- A list of layers retired. -/
def State.retireAll (t : TrackId) : List Nat → State → State
  | [], s => s
  | id :: ids, s => State.retireAll t ids (s.retire t id)

/-- Decay and retirement at a track wrap (R39, R40, R46). Of the layers retired at one wrap the members of the fold are freed and reported first, then FOLD ABANDONED, then the others, oldest first. DESIGN CHOICE, log entry 37. -/
def State.decayTrack (t : TrackId) (s : State) : State :=
  let old := s.track t
  let ids := s.decaying t
  let s := (s.decayAll old.feedback ids).decayFold t old.feedback
  let gone := ids.filter s.faded
  let members := match s.fold with
    | some f => if f.track = t then [f.older, f.newer] else []
    | none => []
  let s := s.retireAll t (gone.filter members.contains)
  let s :=
    if gone.any members.contains then
      s.abandonFold .retired (members.filter fun i => !gone.contains i)
    else s
  let s := s.retireAll t (gone.filter fun i => !members.contains i)
  if gone.isEmpty then s else (s.settleTrack t).noteTrack t old

/-- STACK FULL's details, in the order in which chapter 2 first lists them (R30). DEDUCED, log entry 9. -/
def stackFullDetail : Status → Nat
  | .noMemory => 0
  | _ => 1

/-- The open layer of a track rolled at its wrap (R41, R72); one whose first frame is the arriving frame takes no part (R61). -/
def State.roll (t : TrackId) (s : State) : State :=
  let tr := s.track t
  match tr.openLayer, tr.span with
  | some id, some span =>
    match s.recordOf id, s.layer? id with
    | some r, some l =>
      if tr.state = .recording ∨ r.startStamp = s.cycle.frameCount then s
      else
        let length := span * s.cycle.shownLen - l.startQ
        let s := (s.endCapture id length).modLayer id fun l => { l with state := .closed, length := length }
        let s := s.modTrack t fun tr => { tr with openLayer := none, marker := none }
        match s.takeRoom t with
        | .ok (s, id') =>
          let s := s.openLayer t id' (Layer.fresh t .opened .rolled (.at 0) l.cover false)
            s.cycle.frameCount (if r.phase = .inStep then .inStep else .filling) tr.state
          let s := s.modTrack t fun tr => { tr with marker := some (id, id') }
          s.raise .layerRolled none (some id) id'
        | .error st =>
          let s := s.modTrack t fun tr => { tr with state := .playing }
          let s := s.raiseClosed t id
          let s := s.raise .stackFull (some t) none (stackFullDetail st)
          s.raiseTrack t
    | _, _ => s
  | _, _ => s

/-- A track's wrap: decay, retirement, roll (2.7). -/
def State.wrapTrack (t : TrackId) (s : State) : State := (s.decayTrack t).roll t

/-- The tracks that wrap at a cycle wrap reaching a pass: those whose span divides it (R6, R16). -/
def State.wrapping (s : State) (pass : Nat) : List TrackId :=
  (List.finRange 6).filter fun t =>
    match (s.track t).span with
    | some span => pass % span == 0
    | none => false

/-! ### The capture unit at an arrival (R62, R65) -/

/-- One IN STEP record takes the arriving frame, and hands its buffer over as a live burst when it is full (R62). -/
def State.liveOne (f : Frame) (i : Fin 12) (s : State) : State :=
  match s.capture.records[i] with
  | some r =>
    if r.phase = .inStep ∧ r.readStamp = s.cycle.frameCount then
      let r' := { r with
        buf := r.buf ++ [recordSample (s.track r.track).sources f]
        readStamp := stampAdd r.readStamp 1 }
      let s := s.setRecord i (some r')
      if 64 ≤ r'.buf.length then s.handOver i else s
    else s
  | none => s

/-- A list of records taken one after the other. -/
def State.liveAll (f : Frame) : List (Fin 12) → State → State
  | [], s => s
  | i :: is, s => State.liveAll f is (s.liveOne f i)

/-- A list of records checked for being overtaken (R65). -/
def State.overtakeAll (place : Point) : List (Fin 12) → State → State
  | [], s => s
  | i :: is, s => State.overtakeAll place is (s.overtake place i)

/-- The records in the order an arrival takes them: those listed first, then the others by index. -/
def recordOrder (l : List (Fin 12)) : List (Fin 12) :=
  l ++ (List.finRange 12).filter fun i => !l.contains i

/-- The capture unit's work at an arrival in RUN that reached a place: overtaken records, the rings, live bursts, and waiting bursts before or after them (R56, R62, R64, R65). Several records overtaken at one arrival are given up by rising index. DESIGN CHOICE, log entry 37. -/
def State.captureArrival (place : Point) (f : Frame) (ord : Order) (s : State) : State :=
  let s := (s.overtakeAll place (List.finRange 12)).writeRing f
  let s := if ord.waitingFirst then s.settleCapture handOverRounds else s
  (s.liveAll f (recordOrder ord.records)).settleCapture handOverRounds

/-- Whether the recording of a track has reached its limit: 2,880,000 frames while DEFINING, 8 × L otherwise (R5, R75). -/
def State.atLimit (s : State) (t : TrackId) : Bool :=
  match (s.track t).state, (s.track t).openLayer with
  | .recording, some id =>
    match s.cycle.state with
    | .defining => decide (2880000 ≤ s.cycle.pos)
    | .running => decide (8 * s.cycle.shownLen ≤ s.taken id)
    | .empty | .paused => false
  | _, _ => false

/-- The recordings at their limits closed with the arriving frame as their last sample (R5, R74, R75), by rising track number where several reach theirs at one arrival. DESIGN CHOICE, log entry 37. Their cut is the next frame to arrive, so one that closes just before its track's wrap does not decay at it. DEDUCED, log entry 52. The mixer takes it as closed at the limit's own arrival. DESIGN CHOICE, log entry 54. -/
def State.closeLimits : List TrackId → State → State
  | [], s => s
  | t :: ts, s => State.closeLimits ts (if s.atLimit t then s.closeAtCut t .next false else s)

end Sys2Proof.Machine
end

