-- ==== Sys2Proof/Machine/Cueing.lean ====
section
/-! DEFINITION. Actions handed to their owners, the quantised path, and cues taking effect (04_the_cue_list.md, 01 section 1.6). -/
namespace Sys2Proof.Machine

open Sys2Proof

/-! ### STOP ALL and PLAY ALL (R21, R22) -/

/-- The open layers of a list of tracks closed at a cut. -/
def State.closeTracks (k : Cut) (stop : Bool) : List TrackId → State → State
  | [], s => s
  | t :: ts, s => State.closeTracks k stop ts (s.closeAtCut t k stop)

/-- The cycle PAUSED at position 0 of pass 0, every buffer aimed at 0 (R21, R149). -/
def State.pauseCycle (s : State) : State :=
  ((s.setCycle { s.cycle with state := .paused, pos := 0, pass := 0, origin := false }).raise
    .cyclePaused none none 0).reaimAllZero

/-- STOP ALL acting (R21, R77, R96). -/
def State.actStopAll (k : Cut) (s : State) : State :=
  match s.cycle.state with
  | .running => ((s.closeTracks k false (List.finRange 6)).dropAllCues .stopped).pauseCycle
  | .defining => (s.closeTracks k true (List.finRange 6)).dropAllCues .stopped
  | .empty | .paused => s

/-- PLAY ALL acting (R22). -/
def State.actPlayAll (s : State) : Except Status State :=
  match s.cycle.state with
  | .paused =>
    .ok ((s.setCycle { s.cycle with state := .running, pos := 0, pass := 0, origin := true }).raise
      .cycleRunning none none 0)
  | .running => .ok s
  | .empty | .defining => .error .badState

/-! ### Owners (R83, R92) -/

/-- An action handed to its owner, which checks it against the state of its target and accepts or refuses it (R83, R92). -/
def State.act (a : Action) (target : Option TrackId) (k : Cut) (s : State) : Except Status State :=
  match a, target with
  | .record, some t => s.actRecord t k
  | .overdub, some t => s.actLayer t false k
  | .replace, some t => s.actLayer t true k
  | .close, some t => s.actClose t k
  | .mute, some t => .ok (s.actMute t 0)
  | .unmute, some t => .ok (s.actMute t 32768)
  | .undo, some t => s.actUndo t
  | .redo, some t => s.actRedo t
  | .stopAll, _ => .ok (s.actStopAll k)
  | .playAll, _ => s.actPlayAll
  | _, none => .error .badArg

/-- An action that acts at once (R83, R84): on acceptance the slot's pending entry is superseded, for the family ALL before the action takes place. -/
def State.actAtOnce (a : Action) (target : Option TrackId) (e : Eff) (s : State) : State × Answer :=
  let before := if a.isAll then s.supersedeSlot target a.family else s
  match before.act a target e.cut with
  | .error st => (s, Answer.of st)
  | .ok s' =>
    (if a.isAll then s' else s'.supersedeSlot target a.family,
      { status := .ok, cue := none, point := some e.point, back := some e.back })

/-- The quantised path (R81, R83, R87 to R90). -/
def State.quantised (p : Port) (a : Action) (target : Option TrackId) (q : Quantum)
    (press : PressTime) (s : State) : State × Answer :=
  match s.dueOf a q press with
  | .refused st => (s, Answer.of st)
  | .atOnce e => s.actAtOnce a target e
  | .due pass pos => s.placeCue p a target q press pass pos

/-! ### Taking effect (R91, R92) -/

/-- The drop reason of an owner's refusal (R92). -/
def dropReasonOf : Status → DropReason
  | .stackFull => .stackFull
  | .noMemory => .noMemory
  | _ => .invalid

/-- The head entry taken when its due is the place reached: its action acts, and CUE DONE or CUE DROPPED follows, stamped with the arriving frame (R91, R92). -/
def State.takeCue (r : Reached) (s : State) : State :=
  match s.cues.entries with
  | [] => s
  | c :: rest =>
    if c.duePass = r.pass ∧ c.duePos = r.pos then
      let s := { s with cues := { s.cues with entries := rest } }
      match s.act c.action c.target .arriving with
      | .ok s => s.raiseEvent { s.cueEvent .cueDone c c.detail with pass := r.pass, pos := r.pos }
      | .error st =>
        s.raiseEvent
          { s.cueEvent .cueDropped c (c.detail + 256 * (dropReasonOf st).ctorIdx) with
            pass := r.pass, pos := r.pos }
    else s

/-- The head entry taken again and again while its due is the place reached (R91). -/
def State.takeCues (r : Reached) : Nat → State → State
  | 0, s => s
  | n + 1, s => State.takeCues r n (s.takeCue r)

/-- The wraps of a list of tracks. -/
def State.wrapAll : List TrackId → State → State
  | [], s => s
  | t :: ts, s => State.wrapAll ts (s.wrapTrack t)

/-- The track wraps and cues of one arrival in the order given: what the order does not name follows, wraps first (R30, R91). -/
def State.boundaryWork (r : Reached) : List (Option TrackId) → List TrackId → State → State
  | [], wraps, s =>
    let s := s.wrapAll wraps
    s.takeCues r s.cues.entries.length
  | none :: w, wraps, s => State.boundaryWork r w wraps (s.takeCue r)
  | some t :: w, wraps, s =>
    if wraps.contains t then State.boundaryWork r w (wraps.erase t) (s.wrapTrack t)
    else State.boundaryWork r w wraps s

end Sys2Proof.Machine
end

