-- ==== Sys2Proof/Machine/Pressing.lean ====
section
/-! DEFINITION. The switch interpreter's operations: taps, toggles, joins and issues (05_switch_map_and_press_timing.md). -/
namespace Sys2Proof.Machine

open Sys2Proof

/-- TAP with a given stamp (R12): the state, the status, the tap's number and L after a fourth tap. -/
def State.actTap (stamp : Nat) (s : State) : State × Status × Nat × Option Nat :=
  if s.power.part = .rest then (s, .resting, 0, none)
  else if s.cycle.state = .empty then
    match s.cycle.tap.tapAt stamp s.cycle.beats with
    | (_, n, some len) => (s.startCycle len .tap, .ok, n, some len)
    | (t, n, none) => ({ s with cycle := { s.cycle with tap := t } }, .ok, n, none)
  else
    ({ s with cycle := { s.cycle with ignoredTaps := satInc 255 s.cycle.ignoredTaps } }, .ok, 0, none)

/-- Whether two moments differ by less than 100 ms, either way round (R113). -/
def joinClose (a b : Nat) : Bool := decide (a < b + Config.ms 100) && decide (b < a + Config.ms 100)

/-- The projected state of a track (R112). -/
def State.projected (s : State) (t : TrackId) : TrackState :=
  match s.slot (some t) .transport with
  | none => (s.track t).state
  | some e =>
    match e.action with
    | .record => .recording
    | .overdub => .overdubbing
    | .replace => .replacing
    | .close => .playing
    | .mute | .unmute | .undo | .redo | .stopAll | .playAll => (s.track t).state

/-- What a toggle resolves to in a projected state; none is refused (R112). -/
def resolveToggle (a : SwAction) : TrackState → Option Action
  | .empty => if a = .recordCycle then some .record else none
  | .playing => if a = .replaceToggle then some .replace else some .overdub
  | .recording | .overdubbing | .replacing => some .close

/-- Whether a resolved action contradicts a pending transport entry (R114). -/
def contradicts (pending resolved : Action) : Bool :=
  match pending, resolved with
  | .record, .close | .overdub, .close | .replace, .close => true
  | .close, .record | .close, .overdub | .close, .replace => true
  | _, _ => false

/-- The recent at-once record of a track written when a toggle acted at once and was accepted (R113). -/
def State.noteRecent (p : Port) (t : TrackId) (a : Action) (press : PressTime) (ans : Answer)
    (s : State) : State :=
  match ans.back, ans.point with
  | some _, some q =>
    { s with switches := { s.switches with
        recent := s.switches.recent.set t.val
          (some { port := p, time := press.time, action := a, point := q }) t.isLt } }
  | _, _ => s

/-- A toggle once no join was found: refused, a cancel by name, or handed on (R112, R114). -/
def State.resolved (p : Port) (t : TrackId) (act : SwAction) (q : Quantum) (press : PressTime)
    (s : State) : State × Handed × Answer :=
  match resolveToggle act (s.projected t) with
  | none => (s, .refusedToggle, Answer.of .badState)
  | some a =>
    let handOn := fun (_ : Unit) =>
      let (s, ans) := s.quantised p a (some t) q press
      (s.noteRecent p t a press ans, Handed.cue a, ans)
    match s.slot (some t) .transport with
    | some e =>
      if e.origin = p ∧ contradicts e.action a then
        (s.dropCue .cancelled e, .cancel,
          { status := .ok, cue := some e.id, point := none, back := none })
      else handOn ()
    | none => handOn ()

/-- A transport toggle: joined to the other port's entry or recent action, or resolved (R112 to R114). -/
def State.toggle (p : Port) (t : TrackId) (act : SwAction) (q : Quantum) (press : PressTime)
    (s : State) : State × Handed × Answer :=
  match s.slot (some t) .transport with
  | some e =>
    if e.origin = p.other ∧ joinClose e.press.time press.time then
      (s.joinCue e.id p, .join,
        { status := .joined, cue := some e.id, point := some ⟨e.duePass, e.duePos⟩, back := none })
    else s.resolved p t act q press
  | none =>
    match s.switches.recent[t] with
    | some r =>
      if r.port = p.other ∧ joinClose r.time press.time then
        (s, .cue r.action, { status := .joined, cue := none, point := some r.point, back := none })
      else s.resolved p t act q press
    | none => s.resolved p t act q press

/-- One family action of a press handed to the quantised path (R110). -/
def State.handCue (p : Port) (a : Action) (target : Option TrackId) (q : Quantum) (press : PressTime)
    (s : State) : State × Handed × Answer :=
  let (s, ans) := s.quantised p a target q press
  (s, .cue a, ans)

/-- A port's selected track moved (R114). -/
def State.selectTo (p : Port) (t : TrackId) (s : State) : State :=
  s.setSwitchPort p { s.switchPort p with selected := t }

/-- What an issued action hands on, with its resolved target (R110). -/
def State.handOn (p : Port) (act : SwAction) (t : TrackId) (q : Quantum) (press : PressTime)
    (s : State) : (State × Handed × Answer) × OutTarget :=
  match act with
  | .none => ((s, .refusedToggle, Answer.of .ok), .absent)
  | .recordCycle | .overdubToggle | .replaceToggle => (s.toggle p t act q press, .track t)
  | .close => (s.handCue p .close (some t) q press, .track t)
  | .muteToggle =>
    (s.handCue p (if (s.track t).muteTarget = 0 then .unmute else .mute) (some t) q press, .track t)
  | .undo => (s.handCue p .undo (some t) q press, .track t)
  | .redo => (s.handCue p .redo (some t) q press, .track t)
  | .playStopAll =>
    (s.handCue p (if s.cycle.state = .paused then .playAll else .stopAll) none q press, .all)
  | .clearTrack => ((s.actClearTrack t, .clearTrack, Answer.of .ok), .track t)
  | .tap =>
    let (s, st, _) := s.actTap press.frame
    ((s, .tap, Answer.of st), .absent)
  | .selectNext => ((s.selectTo p ((s.switchPort p).selected + 1), .selectNext, Answer.of .ok), .absent)
  | .selectPrevious =>
    ((s.selectTo p ((s.switchPort p).selected - 1), .selectPrevious, Answer.of .ok), .absent)

/-- A machine's issue (R110, R111): the target resolved, the action handed on, the port's last outcome record and issue count updated. A tap action NONE is no issue. -/
def State.issue (p : Port) (code : SwitchCode) (kind : IssueKind) (act : SwAction) (target : SwTarget)
    (q : Quantum) (press : PressTime) (s : State) : State :=
  if act = .none then s
  else
    let t := match target with
      | .track t => t
      | .selected => (s.switchPort p).selected
    let ((s, handed, ans), out) := s.handOn p act t q press
    let c := s.switchPort p
    s.setSwitchPort p
      { c with
        issues := (c.issues + 1) % 256
        last := some
          { code := code, kind := kind, action := handed, target := out, status := ans.status,
            cue := ans.cue, point := ans.point, time := s.now } }

/-- A press machine of a port. -/
def State.machine (s : State) (p : Port) (code : SwitchCode) : Machine := (s.switchPort p).machines[code]

/-- The state with a press machine replaced. -/
def State.setMachine (p : Port) (code : SwitchCode) (m : Machine) (s : State) : State :=
  s.setSwitchPort p
    { s.switchPort p with machines := (s.switchPort p).machines.set code.val m code.isLt }

/-- SWITCH DOWN on a machine: the state and whether the report was ignored (R105, R108). -/
def State.switchDown (p : Port) (code : SwitchCode) (s : State) : State × Bool :=
  match s.machine p code with
  | .up =>
    (s.setMachine p code (.down s.pressNow (some (s.now + Config.ms s.switches.holdMs))), false)
  | .awaitSecond _ _ copy =>
    ((s.setMachine p code .held).issue p code .double copy.double copy.target copy.quantum s.pressNow,
      false)
  | .down .. | .held => (s, true)

/-- SWITCH UP on a machine: the state and whether the report was ignored (R107). -/
def State.switchUp (p : Port) (code : SwitchCode) (s : State) : State × Bool :=
  match s.machine p code with
  | .down press _ =>
    let e := s.switches.map[code]
    match e.double with
    | none => ((s.setMachine p code .up).issue p code .tap e.tap e.target e.quantum press, false)
    | some d =>
      (s.setMachine p code
        (.awaitSecond press (s.now + Config.ms s.switches.doubleMs)
          { tap := e.tap, double := d, target := e.target, quantum := e.quantum }), false)
  | .held => (s.setMachine p code .up, false)
  | .up | .awaitSecond .. => (s, true)

/-- The hold deadline of a machine in DOWN, once it is due (R106). -/
def State.holdDue (p : Port) (code : SwitchCode) (s : State) : State :=
  match s.machine p code with
  | .down press (some d) =>
    if s.now < d then s
    else
      let e := s.switches.map[code]
      match e.hold with
      | some a => (s.setMachine p code .held).issue p code .hold a e.target e.quantum s.pressNow
      | none => s.setMachine p code (.down press none)
  | _ => s

/-- The window deadline of a machine in AWAIT SECOND, once it is due: the deferred tap (R108). -/
def State.windowDue (p : Port) (code : SwitchCode) (s : State) : State :=
  match s.machine p code with
  | .awaitSecond press d copy =>
    if s.now < d then s
    else (s.setMachine p code .up).issue p code .deferredTap copy.tap copy.target copy.quantum press
  | _ => s

/-- The code of a press machine's state (R115, R197). -/
def Machine.code : Machine → Nat
  | .up => 0
  | .down .. => 1
  | .held => 2
  | .awaitSecond .. => 3

/-- The results of a reply to SWITCH DOWN or SWITCH UP (R115). -/
def State.switchResults (p : Port) (code : SwitchCode) (ignored : Bool) (s : State) : List Byte :=
  let c := s.switchPort p
  codeByte (s.machine p code).code ++ flagByte ignored ++ codeByte c.selected.val ++ codeByte c.issues
    ++ outcomeBytes c.last

end Sys2Proof.Machine
end

