-- ==== Sys2Proof/Machine/Mixing.lean ====
section
/-! DEFINITION. The mixer's work at a frame arrival: layer samples, cover, track sums, mute ramps, sends, monitors, click, buses and output slots (06_mixing_arithmetic_and_output_slots.md). -/
namespace Sys2Proof.Machine

open Sys2Proof

/-! ### Layers (R118 to R123) -/

/-- The track position at which a track's layers sound, if any do: the cycle RUNNING at a position that has been reached, and a track with a span (R118). -/
def State.soundingAt (s : State) (t : TrackId) : Option Nat :=
  match s.cycle.state, (s.track t).span with
  | .running, some span =>
    if s.cycle.origin then none else some (trackPos span s.cycle.shownLen s.cycle.pass s.cycle.pos)
  | _, _ => none

/-- Whether a layer of a stack sounds (R118). -/
def Layer.sounds (l : Layer) : Bool := l.state == .closed || l.state == .folding

/-- The cover weight of a layer at track position q, where it is a covering layer: a sounding one over its range, or the open layer of a REPLACING track over its covered span (R121, R122). A layer that a REDO or UNDO cue moves at an arrival covers or not in that arrival's own frame. DESIGN CHOICE, log entry 54. -/
def State.coverOf (s : State) (t : TrackId) (q id : Nat) : Option Nat :=
  match s.layer? id with
  | none => none
  | some l =>
    if !l.cover then none
    else if l.sounds then some (coverWeight s.mixer.edge q l.startQ l.length l.head l.tail)
    else if l.state = .opened ∧ (s.track t).state = .replacing ∧ l.startQ ≤ q then
      some (coverWeight s.mixer.edge q l.startQ (q + 1 - l.startQ) l.head false)
    else none

/-- The sample of a layer at offset k from its read-ahead buffer: 0 in a hole, and 0 with a soft fault on an underrun (R119, R148). -/
def State.layerSample (id k : Nat) (s : State) : State × Sample :=
  match s.layer? id with
  | none => (s, 0)
  | some l =>
    match l.buf.take k l.length with
    | (b, some x) => (s.setLayer id { l with buf := b }, if inRanges k l.holes then 0 else x)
    | (b, none) =>
      let s := s.setLayer id { l with buf := b }
      (s.takeFault (.met s.cycle.here .underrun .playback (l.blockOf k) id l.track), 0)

/-- The contribution of one layer at track position q under the covers given (R119, R120, R123). -/
def State.layerPart (q id : Nat) (covers : List Nat) (s : State) : State × Int :=
  match s.layer? id with
  | none => (s, 0)
  | some l =>
    if l.sounds && decide (l.startQ ≤ q) && decide (q - l.startQ < l.length) then
      let k := q - l.startQ
      let (s, x) := s.layerSample id k
      (s, contribution x (edgeWeight s.mixer.edge k l.length l.head l.tail) covers l.gain)
    else (s, 0)

/-- The sum of the contributions of a stack's layers, oldest first, each covered by the covering layers after it, newest first (R121, R123). That underruns of one arrival are handed over in this order is a DESIGN CHOICE (R181), log entry 37. -/
def State.sumLayers (t : TrackId) (q : Nat) : List Nat → State → State × Int
  | [], s => (s, 0)
  | id :: newer, s =>
    let (s, c) := s.layerPart q id (newer.reverse.filterMap (s.coverOf t q))
    let (s, rest) := State.sumLayers t q newer s
    (s, c + rest)

/-- The track sum T of a track; 0 with no sounding layer (R123). -/
def State.trackSum (t : TrackId) (s : State) : State × Int :=
  match s.soundingAt t with
  | some q => s.sumLayers t q (stackIds (s.track t).stack)
  | none => (s, 0)

/-- The track sums of a list of tracks, in order. That underruns of one arrival are handed over by rising track is a DESIGN CHOICE (R181), log entry 37. -/
def State.trackSums : List TrackId → State → State × List Int
  | [], s => (s, [])
  | t :: ts, s =>
    let (s, x) := s.trackSum t
    let (s, xs) := State.trackSums ts s
    (s, x :: xs)

/-! ### Mute ramps, click and buses (R124 to R130) -/

/-- A mute ramp value one step nearer its target (R124). -/
def rampStep (m target : Nat) : Nat := if m < target then min target (m + 128) else max target (m - 128)

/-- Every track's mute ramp value moved (R124). -/
def State.moveRamps (s : State) : State :=
  { s with tracks := s.tracks.map fun tr => { tr with ramp := rampStep tr.ramp tr.muteTarget } }

/-- The value of the click at frame n of a burst (R127). -/
def Click.value (c : Click) (level : Nat) : Int := if c.n / c.h % 2 = 0 then level else -level

/-- The burst after one more frame; it ends at 240 (R127). -/
def Click.next (c : Click) : Option Click := if c.n + 1 < 240 then some { c with n := c.n + 1 } else none

/-- The burst that sounds at an arrival: one begun at the beat reached, or the one that runs; none while the cycle is not RUNNING (R127). -/
def Mixer.clickAt (m : Mixer) (running : Bool) (beat : Option (Nat × Bool)) : Option Click :=
  if !running then none
  else
    match beat with
    | some (_, bar) => some { n := 0, h := if bar then 12 else 24 }
    | none => m.burst

/-- A bus that clips: counted, with CLIP at the first of the pass, stamped with the place of the frame (R130). The detail is FRONT 0, EAR 1. -/
def State.clip (ear : Bool) (place : Point) (s : State) : State :=
  let reported := if ear then s.mixer.earReported else s.mixer.frontReported
  let m :=
    if ear then { s.mixer with earClips := satInc 65535 s.mixer.earClips, earReported := true }
    else { s.mixer with frontClips := satInc 65535 s.mixer.frontClips, frontReported := true }
  let s := { s with mixer := m }
  if reported then s
  else
    s.raiseEvent
      { s.event .clip none none none (if ear then 1 else 0) with pass := place.pass, pos := place.pos }

/-- A bus output: the scaled sum clamped, and whether the clamp changed it (R129, R130). -/
def busOut (sum : Int) (gain : Nat) : Sample × Bool := (clamp24 (scale sum gain), clamps24 (scale sum gain))

/-- The sum of the eight monitor contributions of a frame (R126). -/
def monitorSum (gains : Vector Nat 8) (f : Frame) : Int :=
  (List.finRange 8).foldl (fun acc i => acc + scale (f[i]).toInt gains[i]) 0

/-- The sum of a send over the six tracks (R125). -/
def sendSum (send : Track → Nat) (tracks : Vector Track 6) (ys : List Int) : Int :=
  (tracks.toList.zip ys).foldl (fun acc p => acc + scale p.2 (send p.1)) 0

/-- The post-mute samples of the six tracks (R124). -/
def postMute (tracks : Vector Track 6) (sums : List Int) : List Int :=
  (tracks.toList.zip sums).map fun p => scale p.2 p.1.ramp

/-- The signals of one frame that output slots can take (R133). -/
structure Signals where
  front : Sample
  ear : Sample
  direct : List Sample
  click : Sample
  input : Frame
  deriving DecidableEq, Repr

/-- The signal of an output source (R133). -/
def Signals.pick (g : Signals) : Source → Sample
  | .front => g.front
  | .ear => g.ear
  | .track t => g.direct.getD t.val 0
  | .click => g.click
  | .input i => g.input[i]
  | .silent => 0

/-- The output frame formed at an arrival in RUN, with the place and the beat it reached (R117). A clip of FRONT is taken before one of EAR. DESIGN CHOICE, log entry 37. -/
def State.mix (input : Frame) (place : Point) (beat : Option (Nat × Bool)) (s : State) : State :=
  let (s, sums) := s.moveRamps.trackSums (List.finRange 6)
  let ys := postMute s.tracks sums
  let burst := s.mixer.clickAt (s.cycle.state == .running) beat
  let click := (burst.map fun c => c.value s.mixer.clickLevel).getD 0
  let s := { s with mixer := { s.mixer with burst := burst.bind Click.next } }
  let m := s.mixer
  let (front, frontClip) :=
    busOut (sendSum Track.frontSend s.tracks ys + monitorSum m.frontMonitor input) m.frontBus
  let (ear, earClip) :=
    busOut (sendSum Track.earSend s.tracks ys + monitorSum m.earMonitor input
      + if m.clickOn then click else 0) m.earBus
  let s := if frontClip then s.clip false place else s
  let s := if earClip then s.clip true place else s
  let g : Signals :=
    { front := front, ear := ear, direct := ys.map clamp24, click := clamp24 click, input := input }
  { s with audio := { s.audio with pendingOut := m.outputs.map g.pick } }

/-- The output frame formed in STARTING and in REST: eight zeros (R117). -/
def State.mixSilence (s : State) : State := { s with audio := { s.audio with pendingOut := silence } }

end Sys2Proof.Machine
end

