-- ==== Sys2Proof/Machine/Settle.lean ====
section
/-! DEFINITION. What follows at once from a change of state: waiting bursts, fold and window requests, read-ahead zeros and the waits of the background requesters (R64, R141, R147, R150, R152, R153). -/
namespace Sys2Proof.Machine

open Sys2Proof

/-! ### WRITE windows (R153) -/

/-- The end of the range a WRITE window's buffer fills: the end of its burst range, stopping at the import length (R153). -/
def Window.rangeEnd (w : Window) (length : Nat) : Nat :=
  min length (((w.next - w.buf.length) / 64 + 1) * 64)

/-- The space of a port's window: 0 unless it is OPEN in WRITE mode with no commit at hand (R153, R193). A full buffer whose commit timed out leaves no space. DESIGN CHOICE, log entry 48. -/
def State.windowSpace (p : Port) (s : State) : Nat :=
  match s.window p with
  | some w =>
    match w.mode, w.req, s.layer? w.layer with
    | .write, .absent, some l => w.rangeEnd l.length - w.next
    | _, _, _ => 0
  | none => 0

/-- An importing layer discarded and freed, with the window on it lost (R158). -/
def State.discardImport (id : Nat) (cause : LostCause) (s : State) : State :=
  match s.layer? id with
  | none => s
  | some l =>
    let old := s.track l.track
    (((s.freeLayer cause id).modTrack l.track (Track.dropLayer id)).settleTrack l.track).noteTrack l.track old

/-- The commit request of a WRITE window: a block is taken first where the range has none, and an empty free list discards the import (R153, R158). -/
def State.requestCommit (p : Port) (s : State) : State :=
  match s.window p with
  | none => s
  | some w =>
    match s.layer? w.layer with
    | none => s
    | some l =>
      let request := fun (s : State) =>
        s.setWindow p (some { w with req := .waiting s.now (s.windowTimeout p) })
      if l.extents.length ≤ (w.next - w.buf.length) / 4096 then
        match s.allocate w.layer with
        | some s => request s
        | none => s.discardImport w.layer .noMemory
      else request s

/-- A WRITE window whose buffer holds its whole range makes its commit request, unless an unreported timeout holds it (R153, R154). The partial commit of a CLOSE WINDOW that timed out is not made afresh. DESIGN CHOICE, log entry 55. -/
def State.settleWrite (p : Port) (s : State) : State :=
  match s.window p with
  | none => s
  | some w =>
    match w.mode, w.req, s.layer? w.layer with
    | .write, .absent, some l =>
      if w.timedOut || w.buf.isEmpty || decide (w.next < w.rangeEnd l.length) then s
      else s.requestCommit p
    | _, _, _ => s

/-! ### The waits of the background requesters (R141) -/

/-- The range of a READ window's request, once it is ready (R152). -/
def State.windowReady (p : Port) (s : State) : Option Range :=
  match s.window p with
  | none => none
  | some w =>
    match w.mode, w.req, s.layer? w.layer with
    | .read, .waiting .., some l =>
      match w.nextRange l.windowEnd with
      | some r => if l.ready r then some r else none
      | none => none
    | _, _, _ => none

/-- Whether a WRITE window waits for its commit (R153). -/
def State.commitWaiting (p : Port) (s : State) : Bool :=
  match s.window p with
  | some w =>
    match w.mode, w.req with
    | .write, .waiting .. => true
    | _, _ => false
  | none => false

/-- Whether a port's window waits for a grant. -/
def State.windowWaiting (p : Port) (s : State) : Bool := (s.windowReady p).isSome || s.commitWaiting p

/-- Whether a background requester waits (R141). -/
def State.backgroundWaiting (s : State) : Background → Bool
  | .fold => s.foldWaiting
  | .windowA => s.windowWaiting .a
  | .windowB => s.windowWaiting .b

/-- The wait of a background requester. -/
def State.waitOf (s : State) : Background → Wait
  | .fold => s.mem.waitFold
  | .windowA => s.mem.waitA
  | .windowB => s.mem.waitB

/-- The wait of one background requester brought up to date: it starts when the requester comes to wait, and ends when it no longer does (R141). A read of the fold that is skipped while it waits leaves the wait to the request that follows it. DESIGN CHOICE, log entry 56. -/
def State.settleWait (who : Background) (s : State) : State :=
  if s.backgroundWaiting who then
    match (s.waitOf who).start with
    | some _ => s
    | none => s.setWait who { start := some s.now, raised := false }
  else s.setWait who Wait.idle

/-! ### Settling -/

/-- Everything that follows at once from a change of the layers, the queue, the fold or the windows. Where one close or cut brings both windows to their end, port A's WINDOW DONE is raised before port B's. DESIGN CHOICE, log entry 37. -/
def State.settle (s : State) : State :=
  let s := (s.settleCapture handOverRounds).settleFold
  let s := ((s.settleRead .a).settleRead .b).settleBuffers
  ((s.settleWait .fold).settleWait .windowA).settleWait .windowB

end Sys2Proof.Machine
end

