-- ==== Sys2Proof/Machine/PowerControl.lean ====
section
/-! DEFINITION. Power control: entry to REST, the power-low sequence, waking, CLEAR ALL and resets (12_start_up_rest_and_power_low.md, R23, R49, R50). -/
namespace Sys2Proof.Machine

open Sys2Proof

/-- The details of REST ENTERED, in the order in which chapter 12 first lists them (R208, R210). DEDUCED, log entry 9. -/
inductive RestDetail where
  | request
  | powerLow
  deriving DecidableEq, Repr

/-- Entry to REST (R208 steps 1 to 5, R24, R98, R135, R160): the part state, the tap sequence, the cues, the windows, the click burst and REST ENTERED. Window A is lost before window B. DESIGN CHOICE, log entry 37. -/
def State.enterRest (cause : LostCause) (detail : RestDetail) (s : State) : State :=
  let s := { s with
    power := { s.power with part := .rest }
    cycle := { s.cycle with tap := TapSeq.empty } }
  let s := ((s.dropAllCues .rest).loseWindow .a cause).loseWindow .b cause
  { s with mixer := { s.mixer with burst := none } }.raise .restEntered none none detail.ctorIdx

/-- The ids of the importing layers, rising, which is the order in which power-low discards them (R49). The order is a DESIGN CHOICE, log entry 37. -/
def State.importing (s : State) : List Nat :=
  (s.layers.filter fun e => e.2.state == .importing).map Prod.fst

/-- A list of importing layers discarded (R158). -/
def State.discardImports (cause : LostCause) : List Nat → State → State
  | [], s => s
  | id :: ids, s => State.discardImports cause ids (s.discardImport id cause)

/-- A running fold abandoned with both members kept (R48). -/
def State.abandonRunningFold (cause : FoldCause) (s : State) : State :=
  match s.fold with
  | some f => s.abandonFold cause [f.older, f.newer]
  | none => s

/-- The power-low sequence in RUN (R210, R49). Window A is lost before window B. DESIGN CHOICE, log entry 37. A window that the close of its layer brings to its end is lost without WINDOW DONE. DESIGN CHOICE, log entry 53. -/
def State.powerLow (s : State) : State :=
  let s := (s.closeTracks .next false (List.finRange 6)).abandonRunningFold .powerLow
  let s := s.discardImports .powerLow s.importing
  let s := (s.loseWindow .a .powerLow).loseWindow .b .powerLow
  ((s.raise .powerLow none none 0).enterRest .powerLow .powerLow).settle

/-- The PWRLOW pin asserted or released, with the latch that follows it (R206). -/
def State.setPin (level : Bool) (s : State) : State :=
  { s with power := { s.power with pin := level, latch := level } }

/-- An assertion of PWRLOW (R210). -/
def State.pinAsserted (s : State) : State :=
  let s := s.setPin true
  match s.power.part with
  | .run => s.powerLow
  | .rest => s.raise .powerLow none none 1
  | .starting => s

/-- Whether REST is allowed (R208). -/
def State.mayRest (s : State) : Bool := !s.anyOpen && !s.anyImporting && s.fold.isNone

/-- WAKE taken in REST with PWRLOW released (R209). -/
def State.wakeUp (s : State) : State :=
  ({ s with
    power := { s.power with part := .run }
    mem := { s.mem with mode := .serving } }.raise .runEntered none none 0).settle

/-- The end of the start-up test: SERVING, RUN, READY, and the power-low sequence when the latch is asserted (R159, R207). -/
def State.testDone (s : State) : State :=
  let s := { s with
    mem := { s.mem with mode := .serving }
    power := { s.power with part := .run } }
  let s := s.raiseEvent
    { s.event .ready none none none s.mem.free.length with pass := 0, pos := 0 }
  if s.power.latch then s.powerLow else s

/-- The part reset (R207): every block at its reset values, STARTING, the latch at the level of the pin, transfers in progress abandoned (R185). The timebase runs on (log entry 2). -/
def State.resetTo (held : Bool) (s : State) : State :=
  { State.afterReset s.pending s.now s.power.pin held with
    portA := s.portA.abandon, portB := s.portB.abandon }

/-- The tracks of a list emptied, their layers freed (R50 steps 2 and 3). -/
def State.emptyTracks : List TrackId → State → State
  | [], s => s
  | t :: ts, s => State.emptyTracks ts (s.emptyTrack t)

/-- TRACK STATE raised for each track of a list that an earlier record array has not EMPTY (R50). -/
def State.raiseEmptied (old : Vector Track 6) : List TrackId → State → State
  | [], s => s
  | t :: ts, s =>
    State.raiseEmptied old ts (if (old[t]).state = .empty then s else s.raiseTrack t)

/-- The track controller's part of CLEAR ALL (R50): the fold abandoned, every layer freed, every track EMPTY. -/
def State.clearTracks (s : State) : State :=
  let s' := match s.fold with
    | some _ => s.abandonFold .cleared []
    | none => s
  (s'.emptyTracks (List.finRange 6)).raiseEmptied s.tracks (List.finRange 6)

/-- The recent at-once records of every track absent (R102). -/
def State.forgetRecent (s : State) : State :=
  { s with switches := { s.switches with recent := Vector.replicate 6 none } }

/-- The parts of CLEAR ALL outside layers and cues (R23, R55, R102, R116, R136, R162). The cycle timer goes first. DESIGN CHOICE, log entry 11. -/
def State.clearCycle (s : State) : State :=
  let s := s.setCycle
    { s.cycle with
      state := .empty, len := none, pos := 0, pass := 0, origin := false, tap := TapSeq.empty,
      ignoredTaps := 0 }
  { s with mixer := { s.mixer.clearReported with burst := none }, audio := s.audio.clearPass }

/-- CLEAR ALL acting (R23, R50, R97, R102, R116, R136, R162). The cue list drops its entries last, on the emptied cycle. DESIGN CHOICE, log entry 11. -/
def State.actClearAll (s : State) : State :=
  let s := s.clearCycle.clearTracks.dropAllCues .cleared
  { s.forgetRecent with fresh := [] }

end Sys2Proof.Machine
end

