-- ==== Sys2Proof/Machine/Arbiter.lean ====
section
/-! DEFINITION. The arbiter: grants by its order of classes, completions, deadlines, the start-up test and self-refresh (07_loop_memory.md, sections 7.4 to 7.11). -/
namespace Sys2Proof.Machine

open Sys2Proof

/-! ### Grants (R140, R141) -/

/-- The state with the arbiter's current grant set. -/
def State.setGrant (g : Option Grant) (s : State) : State := { s with mem := { s.mem with grant := g } }

/-- The background requester after this one, in round-robin order (R141). -/
def nextBackground : Background → Background
  | .fold => .windowA
  | .windowA => .windowB
  | .windowB => .fold

/-- The three background requesters from one on, in cyclic order. -/
def backgroundsFrom (b : Background) : List Background :=
  [b, nextBackground b, nextBackground (nextBackground b)]

/-- The buffer that PLAYBACK is granted to: the fewest samples, then the lowest id (R140). -/
def bestBuffer : List (Nat × Nat × Range) → Option (Nat × Nat × Range)
  | [] => none
  | x :: xs =>
    match bestBuffer xs with
    | none => some x
    | some y => if x.1 ≤ y.1 then some x else some y

/-- The layers whose buffers wait as PLAYBACK requesters, by rising id: samples held, id and range (R147). -/
def State.playbackWaiting (s : State) : List (Nat × Nat × Range) :=
  s.layers.filterMap fun e =>
    (s.playbackRange e.1 e.2).map fun r => (e.2.buf.data.length, e.1, r)

/-- The first raised background requester that waits, at or after the pointer (R141). -/
def State.raisedWaiting (s : State) : Option Background :=
  (backgroundsFrom s.mem.pointer).find? fun b => s.backgroundWaiting b && (s.waitOf b).raised

/-- The first background requester that waits, at or after the pointer (R141). -/
def State.anyWaiting (s : State) : Option Background :=
  (backgroundsFrom s.mem.pointer).find? fun b => s.backgroundWaiting b

/-- A PLAYBACK grant: the read is in flight (R147). -/
def State.grantPlayback (id : Nat) (r : Range) (s : State) : State :=
  match s.layer? id with
  | none => s
  | some l =>
    (s.setGrant (some (.playback (l.reading id r)))).setLayer id { l with buf := { l.buf with flight := true } }

/-- A CAPTURE grant of the burst at the head of the queue, which leaves it (R144). -/
def State.grantCapture (b : Burst) (rest : List Burst) (s : State) : State :=
  let l := s.layer? b.layer
  { s with
    mem := { s.mem with
      queue := rest
      grant := some (.capture b (l.bind fun l => l.blockOf b.offset) l.isSome) } }

/-- A FOLD grant of the read or write at hand (R150). -/
def State.grantFold (s : State) : State :=
  match s.fold with
  | none => s
  | some f =>
    match f.out, f.reads with
    | some xs, _ =>
      { s with fold := some { f with granted := true } }.setGrant
        (some (.foldWrite ((s.layer? f.result).bind fun l => l.blockOf f.nextOff) f.nextOff xs))
    | none, r :: _ =>
      let id := if r.newer then f.newer else f.older
      match s.layer? id with
      | none => s
      | some l =>
        { s with fold := some { f with granted := true } }.setGrant
          (some (.foldRead (l.reading id { first := r.first, len := min r.len (l.length - r.first) }) r.newer))
    | none, [] => s

/-- A window's grant of its read or commit (R152, R153). -/
def State.grantWindow (p : Port) (s : State) : State :=
  match s.window p with
  | none => s
  | some w =>
    match w.req with
    | .waiting t _ =>
      let granted := s.setWindow p (some { w with req := .granted t })
      match w.mode, s.windowReady p, s.layer? w.layer with
      | .read, some r, some l => granted.setGrant (some (.windowRead p (l.reading w.layer r)))
      | .read, _, _ => s
      | .write, _, _ =>
        let o := w.next - w.buf.length
        granted.setGrant
          (some (.windowCommit p ((s.layer? w.layer).bind fun l => l.blockOf o) o w.buf))
    | .absent | .granted _ => s

/-- A background grant: the requester is lowered and the pointer moves past it (R141). -/
def State.grantBackground (b : Background) (s : State) : State :=
  let s := match b with
    | .fold => s.grantFold
    | .windowA => s.grantWindow .a
    | .windowB => s.grantWindow .b
  { s.setWait b Wait.idle with mem := { (s.setWait b Wait.idle).mem with pointer := nextBackground b } }

/-- The grant the arbiter makes, by its order of classes; none while no requester waits (R140). -/
def State.grantNext (s : State) : State :=
  if s.mem.refreshWaiting then
    { s with mem := { s.mem with refreshWaiting := false, grant := some .refresh } }
  else
    match bestBuffer s.playbackWaiting with
    | some (_, id, r) => s.grantPlayback id r
    | none =>
      match s.raisedWaiting with
      | some b => s.grantBackground b
      | none =>
        match s.mem.queue with
        | b :: rest => s.grantCapture b rest
        | [] =>
          match s.anyWaiting with
          | some b => s.grantBackground b
          | none => s

/-- ARBITER GRANT: with the memory free and served, the next grant (R140). -/
def State.arbitrate (s : State) : State :=
  if s.mem.mode = .serving ∧ s.mem.grant = none then s.grantNext.settle else s

/-! ### Completions (R140) -/

/-- Offsets stored in a layer (R144); those at or beyond the length of a layer that is not open are not part of it (R145). -/
def Layer.store (o n : Nat) (l : Layer) : Layer :=
  let n := if l.state = .opened then n else min n (l.length - o)
  if n = 0 then l else { l with stored := insertRange { first := o, len := n } l.stored }

/-- The completion of a PLAYBACK read: its words checked, its samples placed, or discarded when the buffer, re-aimed since, no longer has it in flight (R139, R140, R147, R149). -/
def State.playbackDone (rd : Reading) (checks : List WordCheck) (s : State) : State :=
  let (s, xs) := s.readRun .playback checks rd
  match s.readFor rd with
  | none => s
  | some l =>
    if l.buf.flight then
      s.setLayer rd.layer
        { l with buf := l.buf.place rd.range xs (s.lengthOf rd.layer l) (l.state != .opened) }
    else s

/-- The completion of a CAPTURE write: the words are stored, and the offsets while the layer is there (R144, R145). -/
def State.captureDone (b : Burst) (block : Option Nat) (live : Bool) (s : State) : State :=
  let s := { s with mem := s.mem.storeBurst block b.offset b.samples }
  if live then s.modLayer b.layer (Layer.store b.offset b.samples.length) else s

/-- The fold engine at the end of a member read: the samples kept, an uncorrectable word damaging the result (R44, R150). -/
def Fold.took (f : Fold) (newer : Bool) (first : Nat) (xs : List Sample) : Fold :=
  let got := ((List.range xs.length).map (first + ·)).zip xs
  if newer then { f with gotNewer := f.gotNewer ++ got, reads := f.reads.tail, granted := false }
  else { f with gotOlder := f.gotOlder ++ got, reads := f.reads.tail, granted := false }

/-- The completion of a member read: its words checked, its samples discarded when the fold no longer waits for it, and when the member was truncated, which the fold then reads again as far as it still needs it (R139, R140, R150). An uncorrectable word that the fold has read damages the result in either case (R44). -/
def State.foldReadDone (rd : Reading) (newer : Bool) (checks : List WordCheck) (s : State) : State :=
  let (s, xs) := s.readRun .fold checks rd
  match s.fold with
  | none => s
  | some f =>
    if f.granted && f.out.isNone then
      let s := { s with
        fold := some (if rd.cut then { f with granted := false } else f.took newer rd.range.first xs) }
      if rd.bad checks then s.modLayer f.result fun l => { l with damaged := true } else s
    else s

/-- The completion of a result write: the words are stored; the fold goes on to its next burst or completes (R45, R47, R150). -/
def State.foldWriteDone (block : Option Nat) (o : Nat) (xs : List Sample) (s : State) : State :=
  let s := { s with mem := s.mem.storeBurst block o xs }
  match s.fold with
  | none => s
  | some f =>
    if f.granted && f.out.isSome then
      let s := s.modLayer f.result (Layer.store o xs.length)
      let s := { s with fold := some { f with nextOff := o + xs.length, out := none, granted := false } }
      if ((s.layer? f.result).map Layer.length).getD 0 ≤ o + xs.length then s.completeFold
      else s.beginFoldBurst
    else s

/-- The completion of a window read: its words checked, its samples placed in the window's direction, or discarded when the window has gone or the layer was truncated, and then the window asks again (R139, R140, R152). -/
def State.windowReadDone (p : Port) (rd : Reading) (checks : List WordCheck) (s : State) : State :=
  let (s, xs) := s.readRun (match p with | .a => .windowA | .b => .windowB) checks rd
  match s.window p with
  | none => s
  | some w =>
    match w.mode, w.req with
    | .read, .granted _ =>
      let xs := if rd.cut then [] else xs
      s.setWindow p
        (some { w with buf := (match w.dir with | .forward => xs | .reverse => xs.reverse), req := .absent })
    | _, _ => s

/-- A completed import (R157): the layer CLOSED, the window CLOSED with WINDOW DONE, an EMPTY track PLAYING over its held span, and the buffer aimed. -/
def State.importDone (p : Port) (id : Nat) (s : State) : State :=
  match s.layer? id with
  | none => s
  | some l =>
    let old := s.track l.track
    let s := (s.setLayer id { l with state := .closed }).setWindow p none
    let s := (s.setWait (portBackground p) Wait.idle).raise .windowDone none (some id) (portCode p)
    let s := s.modTrack l.track fun tr =>
      if tr.state = .empty then { tr with state := .playing, span := tr.heldSpan, heldSpan := none } else tr
    (s.reaim id).noteTrack l.track old

/-- The completion of a commit: the samples stored and committed, the import completed with its last, and a CLOSE WINDOW that waited answered (R153, R155, R157). -/
def State.commitDone (p : Port) (block : Option Nat) (o : Nat) (xs : List Sample) (s : State) : State :=
  let s := { s with mem := s.mem.storeBurst block o xs }
  match s.window p with
  | none => s
  | some w =>
    match w.mode, w.req, s.layer? w.layer with
    | .write, .granted _, some l =>
      let w' := { w with buf := [], req := .absent }
      let s := (s.setLayer w.layer { l.store o xs.length with committed := o + xs.length }).setWindow p (some w')
      let reply := fun (s : State) => if w.closing then s.completeReply p .ok w'.writeResults else s
      if l.length ≤ o + xs.length then reply (s.importDone p w.layer)
      else if w.closing then reply ((s.setWindow p none).setWait (portBackground p) Wait.idle)
      else s
    | _, _, _ => s

/-- REFRESH COMPLETE (R142). -/
def State.completeRefresh (s : State) : State :=
  match s.mem.grant with
  | some .refresh => s.setGrant none
  | _ => s

/-- PLAYBACK READ COMPLETE (R147). -/
def State.completePlayback (checks : List WordCheck) (s : State) : State :=
  match s.mem.grant with
  | some (.playback rd) => ((s.setGrant none).playbackDone rd checks).settle
  | _ => s

/-- CAPTURE WRITE COMPLETE (R144). -/
def State.completeCapture (s : State) : State :=
  match s.mem.grant with
  | some (.capture b block live) => ((s.setGrant none).captureDone b block live).settle
  | _ => s

/-- FOLD BURST COMPLETE (R150). -/
def State.completeFoldBurst (checks : List WordCheck) (s : State) : State :=
  match s.mem.grant with
  | some (.foldRead rd newer) => ((s.setGrant none).foldReadDone rd newer checks).settle
  | some (.foldWrite block o xs) => ((s.setGrant none).foldWriteDone block o xs).settle
  | _ => s

/-- WINDOW READ COMPLETE (R152). -/
def State.completeWindowRead (checks : List WordCheck) (s : State) : State :=
  match s.mem.grant with
  | some (.windowRead p rd) => ((s.setGrant none).windowReadDone p rd checks).settle
  | _ => s

/-- WINDOW COMMIT COMPLETE (R153). -/
def State.completeCommit (s : State) : State :=
  match s.mem.grant with
  | some (.windowCommit p block o xs) => ((s.setGrant none).commitDone p block o xs).settle
  | _ => s

/-! ### Deadlines (R141, R142, R144, R154) -/

/-- BACKGROUND LOCKOUT: a requester that has waited 2 ms is raised (R141). -/
def State.lockout (who : Background) (s : State) : State :=
  match (s.waitOf who).start with
  | some t =>
    if s.backgroundWaiting who && decide (t + Config.ms 2 ≤ s.now) then
      s.setWait who { start := some t, raised := true }
    else s
  | none => s

/-- WRITE TIMEOUT: the head of the queue removed once it has been queued for 20 ms, its offsets a hole with a hard fault (R144). -/
def State.writeDeadline (s : State) : State :=
  match s.mem.queue with
  | [] => s
  | b :: rest =>
    if b.queuedAt + Config.ms 20 ≤ s.now then
      let s := { s with mem := { s.mem with queue := rest } }
      match s.layer? b.layer with
      | none => s.settle
      | some l =>
        let n := if l.state = .opened then b.samples.length else min b.samples.length (l.length - b.offset)
        ((s.setLayer b.layer (l.addHole { first := b.offset, len := n })).takeFault
          (.met s.cycle.here .writeTimeout .capture (l.blockOf b.offset) b.layer l.track)).settle
    else s

/-- WINDOW REQUEST TIMEOUT: a request not granted within its timeout is withdrawn and sets the flag; a CLOSE WINDOW that waits for it is answered TIMEOUT (R154, R155). -/
def State.windowTimedOut (p : Port) (s : State) : State :=
  match s.window p with
  | none => s
  | some w =>
    match w.req with
    | .waiting t limit =>
      if t + Config.ms limit ≤ s.now then
        let s := s.setWindow p (some { w with req := .absent, timedOut := true, closing := false })
        (if w.closing then s.completeReply p .timeout [] else s).settle
      else s
    | .absent | .granted _ => s

/-- REFRESH DUE: while SERVING a refresh waits, merged with one that already does (R142). -/
def State.refreshFallsDue (s : State) : State :=
  if s.mem.mode = .serving then { s with mem := { s.mem with refreshWaiting := true } } else s

/-! ### The start-up test and self-refresh (R159, R160) -/

/-- An occurrence of the start-up test, at pass 0 and position 0 (R159, R172). -/
def testOccurrence (k : FaultKind) (block : Nat) : Occurrence :=
  { kind := k, requester := .test, block := some block, layer := none, track := none, pass := 0, pos := 0 }

/-- Corrected words of a block under test reported one by one (R159). -/
def State.testCorrected (block : Nat) : Nat → State → State
  | 0, s => s
  | n + 1, s => State.testCorrected block n (s.takeFault (testOccurrence .corrected block))

/-- BLOCK TEST of the next block: its corrected words reported, then the block listed free, or bad with a hard fault (R159). -/
def State.testBlock (corrected : Nat) (passed : Bool) (s : State) : State :=
  if s.mem.mode = .test ∧ s.mem.testNext < 4096 then
    let block := s.mem.testNext
    let s := s.testCorrected block corrected
    let s := { s with mem := { s.mem with testNext := block + 1 } }
    if passed then { s with mem := { s.mem with free := s.mem.free ++ [block] } }
    else
      { s with mem := { s.mem with bad := addBad block s.mem.bad } }.takeFault
        (testOccurrence .uncorrectable block)
  else s

/-- MEMORY TEST DONE, once block 4,095 has been tested (R159). -/
def State.finishTest (s : State) : State :=
  if s.mem.mode = .test ∧ s.mem.testNext = 4096 then s.testDone else s

/-- Whether a burst is in progress; a refresh is none (R140, R160). -/
def State.burstInProgress (s : State) : Bool :=
  match s.mem.grant with
  | none | some .refresh => false
  | some _ => true

/-- ENTER SELF REFRESH, once the drains are done (R160). -/
def State.selfRefresh (s : State) : State :=
  if s.power.part = .rest ∧ s.mem.mode = .serving ∧ s.capture.records.toList.all Option.isNone = true
      ∧ s.mem.queue = [] ∧ s.burstInProgress = false then
    { s with mem := { s.mem with mode := .selfRefresh } }
  else s

end Sys2Proof.Machine
end

