-- ==== Sys2Proof/Machine/Framing.lean ====
section
/-! DEFINITION. The audio serial port: frame syncs, frame arrivals and the blocks' work at an arrival, link errors and the watchdog (08_audio_serial_port.md). -/
namespace Sys2Proof.Machine

open Sys2Proof

/-! ### A frame arrival at the blocks (R3 to R6, R56, R91, R117, R164) -/

/-- The boundary work of an arrival that reached a place: cues and track wraps (R6, R91). -/
def State.atBoundary (ord : Order) (at_ : Option Reached) (s : State) : State :=
  match at_ with
  | some r => s.boundaryWork r ord.work (if r.wrap then s.wrapping r.pass else [])
  | none => s

/-- The work of an arrival in RUN once the cycle timer has moved: the cues and wraps of the place reached, the end of the closes that took effect at this frame, the capture unit, the limits of first layers, and the mixer (R39, R91, R164). The order of the blocks' work is fixed. DESIGN CHOICE, log entry 13. A first layer closed by its limit is mixed from this arrival on (R117, R118), though R68 lets a closed layer sound from the next, and so is a layer that a REDO cue returns at it, though R36 and R122 name the next. DESIGN CHOICE, log entry 54. -/
def State.arrivalWork (ord : Order) (f : Frame) (at_ : Option Reached) (s : State) : State :=
  let s' := { s.atBoundary ord at_ with fresh := [] }
  (((s'.captureArrival s.cycle.here f ord).closeLimits (List.finRange 6)).mix f s.cycle.here
    (at_.bind Reached.beat)).settle

/-- A frame arrival in RUN (R3 to R6, R164), and the pass and position it reached. -/
def State.arriveRun (ord : Order) (f : Frame) (s : State) : State × Point :=
  let (s, at_) := s.countFrame.advance
  (s.arrivalWork ord f at_, s.cycle.here)

/-- A frame arrival by part state: what each block does with it, and the pass and position reached (R3, R56, R117). -/
def State.arrive (ord : Order) (f : Frame) (s : State) : State × Point :=
  match s.power.part with
  | .run => s.arriveRun ord f
  | .starting => ((s.countFrame.writeRing f).mixSilence, s.cycle.here)
  | .rest => (s.mixSilence, s.cycle.here)

/-! ### Frame syncs (R163 to R169) -/

/-- An event of the audio port, stamped with the pass and position an arrival reached (R165, R169). -/
def State.raiseAt (k : EventKind) (detail : Nat) (place : Point) (s : State) : State :=
  s.raiseEvent { s.event k none none none detail with pass := place.pass, pos := place.pos }

/-- The audio state made PRESENT by the first arrival after a loss or reset, with AUDIO BACK (R169). -/
def State.audioBack (place : Point) (s : State) : State :=
  if s.audio.present then s
  else
    let lost := match s.audio.lossStart with
      | some t => (s.now - t) / Config.ticksPerMs
      | none => 0
    { s with audio := { s.audio with present := true, lossStart := none } }.raiseAt .audioBack (sat16 lost) place

/-- A malformed frame counted, with LINK ERRORS once per pass at the threshold (R165). -/
def State.linkError (place : Point) (s : State) : State :=
  let a := { s.audio with
    linkErrors := satInc 65535 s.audio.linkErrors
    passErrors := satInc 255 s.audio.passErrors }
  if a.threshold ≤ a.passErrors ∧ a.reported = false then
    { s with audio := { a with reported := true } }.raiseAt .linkErrors a.linkErrors place
  else { s with audio := a }

/-- The close of the frame in progress with its bit count and bits: a well-formed frame of 256 bit clocks replaces the held input, and either kind is a frame arrival (R163 to R165). AUDIO BACK is raised before LINK ERRORS. DESIGN CHOICE, log entry 37. -/
def State.closeFrame (count : Nat) (bits : BitVec 256) (ord : Order) (s : State) : State :=
  let wellFormed := decide (count = 256)
  let s := if wellFormed then { s with audio := { s.audio with held := frameSamples bits } } else s
  let (s, place) := s.arrive ord s.audio.held
  let s := s.audioBack place
  if wellFormed then s else s.linkError place

/-- What the data output line carried over the bit clocks since the last frame sync: in a frame the sending output, and with no frame in progress zeros, after the output that a watchdog expiry cut off `before` bit clocks into its frame (R161, R167, R168). DESIGN CHOICE, log entry 44. -/
def Audio.carried (clocks before : Nat) (a : Audio) : FrameOut :=
  { count := min 4095 clocks
    bits :=
      if a.frame.isSome then shiftedBits clocks a.sending else shiftedBits (min before clocks) a.cutOut }

/-- What every frame sync after `clocks` bit clocks does, `before` of them before a watchdog expiry: what the output line carried, the time of the last frame sync, the pending output moved to the sending output, and a new frame opened (R163, R167). -/
def Audio.sync (now clocks before : Nat) (a : Audio) : Audio :=
  { a with
    out := a.carried clocks before, cutOut := silence, lastSync := some now, sending := a.pendingOut
    frame := some { count := 0, bits := 0 } }

/-- FRAME SYNC after `clocks` bit clocks (R163): an opening sync, or the close of the frame in progress. -/
def State.frameSync (clocks : Nat) (adin : BitVec 256) (ord : Order) (s : State) : State :=
  let synced := { s with audio := s.audio.sync s.now clocks ord.beforeExpiry }
  match s.audio.frame with
  | none => synced
  | some f => synced.closeFrame (min 4095 (f.count + clocks)) (f.bits ||| adin) ord

/-! ### The watchdog (R168) -/

/-- The link declared LOST, and the output that this cuts off held for the observation of the line (R168, log entry 44). -/
def Audio.lose (now : Nat) (a : Audio) : Audio :=
  { a with
    cutOut := if a.frame.isSome then a.sending else silence
    present := false, lossStart := some now, frame := none, held := silence, pendingOut := silence,
    sending := silence }

/-- WATCHDOG EXPIRY: 2 ms without a frame sync while PRESENT make the link LOST, with AUDIO LOST (R168). -/
def State.watchdog (s : State) : State :=
  match s.audio.lastSync with
  | some t =>
    if s.audio.present && decide (t + Config.ms 2 ≤ s.now) then
      { s with audio := s.audio.lose s.now }.raise .audioLost none none s.audio.linkErrors
    else s
  | none => s

end Sys2Proof.Machine
end

