-- ==== Sys2Proof/Machine/Serving.lean ====
section
/-! DEFINITION. The port controllers: requests and their screening, and the segments of the other transfers, byte by byte (10_control_ports_and_requests.md). -/
namespace Sys2Proof.Machine

open Sys2Proof

/-! ### Requests (R187 to R189) -/

/-- What an owner answers: the state, and a status with results, or none when the reply waits for a completion (R188, R189). -/
abbrev Owner := State → State × Option (Status × List Byte)

/-- The port state byte of a REQUEST transfer: the one formed at the fall of chip select where the fall came as a segment of its own, of no byte yet, and the one that stands otherwise (R185). DESIGN CHOICE, log entry 34. -/
def State.requestByte (p : Port) (s : State) : Byte :=
  match (s.port p).transfer with
  | some t => if t.kind ≠ .ignored ∧ t.count = 0 then t.stateByte else s.stateByte p
  | none => s.stateByte p

/-- The REQUEST transfer of a port on the wire: the port state byte formed at its fall, then `n` zeros (R185, R187). -/
def State.shiftRequest (p : Port) (n : Nat) (s : State) : State :=
  s.setPort p { s.port p with transfer := none, shifted := s.requestByte p :: List.replicate n 0 }

/-- A request refused: the reply slot alone changes (R188, R194). -/
def State.refuse (h : Req) (code : Nat) (st : Status) (s : State) : State :=
  s.fillReply h.port st h.tag (BitVec.ofNat 8 code) []

/-- A request handed on: the slot takes its tag and code, and is FULL once the owner answers (R188, R189). -/
def State.takeRequest (h : Req) (code : Nat) (owner : Owner) (s : State) : State :=
  match owner (s.setPort h.port { s.port h.port with reply := .pending h.tag (BitVec.ofNat 8 code) }) with
  | (s, some (st, results)) => s.fillReply h.port st h.tag (BitVec.ofNat 8 code) results
  | (s, none) => s

/-- A request screened and handed on (R187, R188): n above 60 first, then STARTING unless the request is served there, then the argument length. -/
def State.screen (always lenOk : Bool) (h : Req) (code : Nat) (owner : Owner) (s : State) : State :=
  if 60 < h.len.toNat then s.refuse h code .badArg
  else if !always && s.power.part == .starting then s.refuse h code .starting
  else if lenOk then s.takeRequest h code owner
  else s.refuse h code .badArg

/-- A REQUEST transfer taken whole, whose argument length the request table gives as `argLen` (R187, R188, R197). -/
def State.request (h : Req) (code argLen : Nat) (owner : Owner) (s : State) : State :=
  s.whenLive fun s =>
    (s.shiftRequest h.port (3 + h.len.toNat)).screen false (decide (h.len.toNat = argLen)) h code owner

/-- STATUS and IDENTIFY, which are served in STARTING too (R188). -/
def State.requestAlways (h : Req) (code : Nat) (owner : Owner) (s : State) : State :=
  s.whenLive fun s =>
    (s.shiftRequest h.port (3 + h.len.toNat)).screen true (decide (h.len.toNat = 0)) h code owner

/-- An owner that refuses or answers without changing anything. -/
def State.answer (s : State) (st : Status) (results : List Byte) : State × Option (Status × List Byte) :=
  (s, some (st, results))

/-- A request whose code names no request: n above 60 first, then UNKNOWN (R187, R188). -/
def State.unknown (h : Req) (code : Byte) (s : State) : State :=
  s.whenLive fun s =>
    let s := s.shiftRequest h.port (3 + h.len.toNat)
    if 60 < h.len.toNat then s.refuse h code.toNat .badArg else s.refuse h code.toNat .unknown

/-- A REQUEST transfer cut short after the bytes given, its transfer code not counted (R187): CUT, or BAD_ARG when byte 3 arrived above 60. -/
def State.cut (p : Port) (arrived : List Byte) (s : State) : State :=
  s.whenLive fun s =>
    let s := s.shiftRequest p arrived.length
    let st := match arrived[2]? with
      | some n => if 60 < n.toNat then Status.badArg else Status.cut
      | none => Status.cut
    s.fillReply p st (arrived.getD 1 0) (arrived.getD 0 0) []

/-! ### Transfers in segments (R185) -/

/-- A fresh transfer at the fall of chip select, with its port state byte (R185). -/
def State.beginTransfer (p : Port) (k : TransferKind) (s : State) : State :=
  s.setPort p
    { s.port p with
      transfer := some
        { kind := k, stateByte := s.stateByte p, count := 0, latch := .absent, event := none, partIn := [] }
      shifted := [] }

/-- The rise of chip select: what was not shifted whole is dropped (R185, R191). -/
def State.endTransfer (p : Port) (s : State) : State :=
  s.setPort p { s.port p with transfer := none }

/-- One byte shifted out, and the transfer brought forward. -/
def State.shiftOut (p : Port) (t : Transfer) (b : Byte) (s : State) : State :=
  let c := s.port p
  s.setPort p { c with transfer := some { t with count := t.count + 1 }, shifted := c.shifted ++ [b] }

/-- A step repeated. -/
def repeatStep (f : State → State) : Nat → State → State
  | 0, s => s
  | n + 1, s => repeatStep f n (f s)

/-- The port's transfer in progress, when it is of a kind. -/
def State.transferOf (p : Port) (k : TransferKind) (s : State) : Option Transfer :=
  match (s.port p).transfer with
  | some t => if t.kind = k then some t else none
  | none => none

/-- Zeros shifted out of an ignored transfer, for the bytes of a segment (R185). -/
def State.shiftZeros (p : Port) (n : Nat) (s : State) : State :=
  s.setPort p { s.port p with shifted := (s.port p).shifted ++ List.replicate n 0 }

/-- The end of a segment: the rise of chip select, where it comes. -/
def State.riseIf (p : Port) (rise : Bool) (s : State) : State := if rise then s.endTransfer p else s

/-- One segment of a transfer, of `n` bytes: its fall, its bytes, its rise. An ignored transfer shifts zeros out; bytes of no transfer in progress are ignored (R185). -/
def State.segment (p : Port) (k : TransferKind) (fall : Bool) (n : Nat) (rise : Bool) (body : State → State)
    (s : State) : State :=
  s.whenLive fun s =>
    let s := if fall then s.beginTransfer p k else s
    if (s.transferOf p k).isSome then (body s).riseIf p rise
    else if (s.transferOf p .ignored).isSome then (s.shiftZeros p n).riseIf p rise
    else s

/-! ### READ REPLY (R190) -/

/-- The bytes of READ REPLY after the port state byte, as latched: the marker, and the reply (R190, R197). -/
def latchedReply : Latch → List Byte
  | .reply .empty => [0]
  | .reply (.pending ..) => [1]
  | .reply (.full r) => 2 :: replyBytes r
  | _ => []

/-- A FULL slot emptied once every byte of the latched reply is out and it still holds that reply (R190). -/
def PortCtl.emptied (l : Latch) (c : PortCtl) : PortCtl :=
  match l with
  | .reply (.full r) => if c.reply = .full r then { c with reply := .empty } else c
  | _ => c

/-- One byte of READ REPLY (R190). -/
def State.replyByte (p : Port) (s : State) : State :=
  match s.transferOf p .readReply with
  | none => s
  | some t =>
    if t.count = 0 then s.shiftOut p { t with latch := .reply (s.port p).reply } t.stateByte
    else
      let out := latchedReply t.latch
      let s := s.shiftOut p t (out.getD (t.count - 1) 0)
      if t.count = out.length then s.setPort p ((s.port p).emptied t.latch) else s

/-! ### READ EVENTS (R191, R202) -/

/-- The LOST marker of a departure (R202). -/
def State.lostMarker (p : Port) (s : State) : Event := s.event .lost none none none (s.port p).lost

/-- The head entry leaves its queue, one fewer of the latched ones, and a LOST marker takes the room when entries were lost (R191, R202). -/
def State.departHead (p : Port) (s : State) : State :=
  let c := { s.port p with
    queue := (s.port p).queue.tail, transfer := (s.port p).transfer.map (Transfer.lose 0) }
  s.setPort p
    (if c.lost = 0 then c else { c with queue := c.queue ++ [s.lostMarker p], lost := 0 })

/-- The event that byte j of an event belongs to: at its first byte the head of the queue while it is one of the entries latched, and then the copy in transfer (R191). -/
def State.eventAt (p : Port) (t : Transfer) (left j : Nat) (s : State) : Option Event :=
  if j = 0 then (if left = 0 then none else (s.port p).queue.head?) else t.event

/-- Byte j of an event of a READ EVENTS transfer with `left` latched entries still queued; zeros where there is none (R191). -/
def State.eventByte (p : Port) (t : Transfer) (left j : Nat) (s : State) : State :=
  match s.eventAt p t left j with
  | none => s.shiftOut p { t with event := none } 0
  | some e =>
    let b := (eventBytes e).getD j 0
    if j = 11 then (s.shiftOut p { t with event := none } b).departHead p
    else s.shiftOut p { t with event := some e } b

/-- One byte of READ EVENTS (R191). -/
def State.eventsByte (p : Port) (s : State) : State :=
  match s.transferOf p .readEvents with
  | none => s
  | some t =>
    if t.count = 0 then
      let n := (s.port p).queue.length
      s.shiftOut p { t with latch := .events n n } t.stateByte
    else
      match t.latch with
      | .events n left =>
        if t.count = 1 then s.shiftOut p t (BitVec.ofNat 8 n)
        else s.eventByte p t left ((t.count - 2) % 12)
      | _ => s.shiftOut p t 0

/-! ### Window transfers (R192, R193) -/

/-- The samples a port's window offers: those in the buffer of a READ window (R192). -/
def State.windowOffered (p : Port) (s : State) : List Sample :=
  match s.window p with
  | some w => if w.mode = .read then w.buf else []
  | none => []

/-- The offered samples that the transfer in progress latched; samples placed since wait (R192). -/
def State.windowLatched (p : Port) (s : State) : List Sample :=
  (s.windowOffered p).take (((s.window p).map Window.latched).getD 0)

/-- The latch point of a WINDOW READ: every sample in the buffer is latched, none of them shifted (R192). -/
def State.latchWindow (p : Port) (s : State) : State :=
  match s.window p with
  | some w => s.setWindow p (some { w with latched := (s.windowOffered p).length, shifting := false })
  | none => s

/-- A port's window timeout flag, false while it is CLOSED. -/
def State.windowFlag (p : Port) (s : State) : Bool :=
  match s.window p with
  | some w => w.timedOut
  | none => false

/-- Byte 1 of a window transfer: the count, and the timeout flag in bit 7 (R192, R193). -/
def windowHeader (n : Nat) (timedOut : Bool) : Byte := BitVec.ofNat 8 (n + if timedOut then 128 else 0)

/-- The timeout flag reported: it clears, and the window makes its request afresh if it still needs one (R154, R192). -/
def State.reportFlag (p : Port) (timedOut : Bool) (s : State) : State :=
  if timedOut then
    match s.window p with
    | some w => ((s.setWindow p (some { w with timedOut := false })).settleRead p).settleWrite p
    | none => s
  else s

/-- Whether bytes of the sample at the head of a port's window are out, and not yet all three (R192). -/
def State.windowShifting (p : Port) (s : State) : Bool := ((s.window p).map Window.shifting).getD false

/-- The sample that byte j of a sample belongs to: the latched head, which for a later byte must be the one whose first byte went out. The rest of a sample that a cut took is zeros (R192). DESIGN CHOICE, log entry 50. -/
def State.sampleAt (p : Port) (j : Nat) (s : State) : Option Sample :=
  if j = 0 ∨ s.windowShifting p = true then (s.windowLatched p).head? else none

/-- The head of a port's window's buffer marked as being shifted out (R192). -/
def State.markShifting (p : Port) (s : State) : State :=
  match s.window p with
  | some w => s.setWindow p (some { w with shifting := true })
  | none => s

/-- Byte j of a sample of a WINDOW READ transfer, whose third takes the sample; zeros where there is none (R192). -/
def State.sampleByte (p : Port) (t : Transfer) (j : Nat) (s : State) : State :=
  match s.sampleAt p j with
  | none => s.shiftOut p t 0
  | some x =>
    let s := s.shiftOut p t ((sampleBytes x).getD j 0)
    if j = 2 then s.takeSample p else s.markShifting p

/-- One byte of WINDOW READ (R192). -/
def State.windowReadByte (p : Port) (s : State) : State :=
  match s.transferOf p .windowRead with
  | none => s
  | some t =>
    if t.count = 0 then
      (s.shiftOut p { t with latch := .window (s.windowOffered p).length (s.windowFlag p) }
        t.stateByte).latchWindow p
    else
      match t.latch with
      | .window n timedOut =>
        if t.count = 1 then (s.shiftOut p t (windowHeader n timedOut)).reportFlag p timedOut
        else s.sampleByte p t ((t.count - 2) % 3)
      | _ => s.shiftOut p t 0

/-- A sample in: added to the buffer of an OPEN WRITE window within the space, or counted as excess beyond it (R193). -/
def State.sampleIn (p : Port) (x : Sample) (within : Bool) (s : State) : State :=
  match s.window p with
  | none => s
  | some w =>
    if w.mode = .read then s
    else if within then
      (s.setWindow p (some { w with buf := w.buf ++ [x], next := w.next + 1 })).settleWrite p
    else s.setWindow p (some { w with excess := satInc 65535 w.excess })

/-- One byte of WINDOW WRITE, with the byte that comes in (R193). A first byte that is no transfer code makes it an ignored transfer (R185, log entry 45). -/
def State.windowWriteByte (p : Port) (b : Byte) (s : State) : State :=
  match s.transferOf p .windowWrite with
  | none => if (s.transferOf p .ignored).isSome then s.shiftZeros p 1 else s
  | some t =>
    if t.count = 0 ∧ b ≠ 5 then s.shiftOut p { t with kind := .ignored } t.stateByte
    else if t.count = 0 then
      s.shiftOut p { t with latch := .window (s.windowSpace p) (s.windowFlag p) } t.stateByte
    else
      match t.latch with
      | .window n timedOut =>
        if t.count = 1 then (s.shiftOut p t (windowHeader n timedOut)).reportFlag p timedOut
        else
          match t.partIn with
          | [b0, b1] =>
            (s.shiftOut p { t with partIn := [] } 0).sampleIn p (sampleOf b0 b1 b)
              (decide ((t.count - 2) / 3 < n))
          | bs => s.shiftOut p { t with partIn := bs ++ [b] } 0
      | _ => s.shiftOut p t 0

/-- The bytes of a WINDOW WRITE segment, one after the other. -/
def State.windowWriteBytes (p : Port) : List Byte → State → State
  | [], s => s
  | b :: bs, s => State.windowWriteBytes p bs (s.windowWriteByte p b)

end Sys2Proof.Machine
end

