-- ==== Sys2Proof/Machine/PinCommands.lean ====
section
/-! DEFINITION. The commands that pins and the audio serial port bring: resets, PWRLOW, frame syncs and the watchdog. -/
namespace Sys2Proof.Machine

open Sys2Proof

/-- What a command answers. -/
abbrev Out := Host.Outcome State Fault Refusal

/-- RESET (R207). -/
def execReset (s : State) : Out := .next (s.resetTo false)

/-- RESETN_LOW (R207): every block held at its reset values until RESET. -/
def execResetnLow (s : State) : Out := .next (s.resetTo true)

/-- PWRLOW_ASSERT (R210). A pin already asserted is no assertion (log entry 12). -/
def execPwrlowAssert (s : State) : Out := .next (if s.power.pin then s else s.pinAsserted)

/-- PWRLOW_RELEASE (R206, R210). -/
def execPwrlowRelease (s : State) : Out := .next (s.setPin false)

/-- FRAME_SYNC (R163). -/
def execFrameSync (clocks : Nat) (adin : BitVec 256) (ord : Order) (s : State) : Out :=
  .next (s.whenLive (State.frameSync clocks adin ord))

/-- WATCHDOG_EXPIRY (R168). -/
def execWatchdogExpiry (s : State) : Out := .next (s.whenLive State.watchdog)

end Sys2Proof.Machine
end

