-- ==== Sys2Proof/Machine/ExpiryCommands.lean ====
section
/-! DEFINITION. The commands that the millisecond timebase brings. One whose moment has not come has no effect (log entry 12). -/
namespace Sys2Proof.Machine

open Sys2Proof

/-- HOLD_DEADLINE (R106). -/
def execHoldDeadline (p : Port) (code : SwitchCode) (s : State) : Out :=
  .next (s.whenLive fun s => (s.holdDue p code).settle)

/-- WINDOW_DEADLINE (R108). -/
def execWindowDeadline (p : Port) (code : SwitchCode) (s : State) : Out :=
  .next (s.whenLive fun s => (s.windowDue p code).settle)

/-- BACKGROUND_LOCKOUT (R141). -/
def execBackgroundLockout (who : Background) (s : State) : Out := .next (s.whenLive (State.lockout who))

/-- WRITE_TIMEOUT (R144). -/
def execWriteTimeout (s : State) : Out := .next (s.whenLive State.writeDeadline)

/-- WINDOW_REQUEST_TIMEOUT (R154). -/
def execWindowRequestTimeout (p : Port) (s : State) : Out := .next (s.whenLive (State.windowTimedOut p))

/-- REFRESH_DUE (R142). -/
def execRefreshDue (s : State) : Out := .next (s.whenLive State.refreshFallsDue)

end Sys2Proof.Machine
end

