-- ==== Sys2Proof/Machine/LinkRequests.lean ====
section
/-! DEFINITION. The requests that the audio serial port and the fault recorder own (08, 09). -/
namespace Sys2Proof.Machine

open Sys2Proof

/-- SET LINK THRESHOLD as its owner takes it (R170). -/
def ownSetLinkThreshold (frames : Nat) : Owner := fun s =>
  if frames = 0 ∨ 255 < frames then s.answer .badArg []
  else
    { s with audio := { s.audio with threshold := frames } }.answer .ok
      (bytes 2 frames ++ bytes 1 s.audio.passErrors ++ bytes 2 s.audio.linkErrors)

/-- SET LINK THRESHOLD (R170). -/
def execSetLinkThreshold (h : Req) (frames : BitVec 16) (s : State) : Out :=
  .next (s.request h 88 2 (ownSetLinkThreshold frames.toNat))

/-- CLEAR LINK COUNT as its owner takes it (R171). -/
def ownClearLinkCount : Owner := fun s =>
  { s with audio := { s.audio with linkErrors := 0, passErrors := 0 } }.answer .ok
    (bytes 2 s.audio.linkErrors ++ bytes 1 s.audio.passErrors)

/-- CLEAR LINK COUNT (R171). -/
def execClearLinkCount (h : Req) (s : State) : Out := .next (s.request h 89 0 ownClearLinkCount)

/-- A held fault record as reported: kind, class (soft 0, hard 1), requester, block, layer, track, pass, position and sequence number (R182). -/
def recordBytes (r : Occurrence × Nat) : List Byte :=
  codeByte r.1.kind.ctorIdx ++ codeByte (if r.1.kind.hard then 1 else 0) ++ codeByte r.1.requester.ctorIdx
    ++ blockBytes r.1.block ++ layerByte r.1.layer ++ trackByte r.1.track ++ pointBytes r.1.pass r.1.pos
    ++ bytes 2 r.2

/-- The results of READ FAULTS (R182). -/
def Faults.bytes (f : Faults) : List Byte :=
  (match f.record with
   | some r => flagByte true ++ recordBytes r
   | none => flagByte false)
    ++ Machine.bytes 2 f.seq ++ flagByte f.seenCorrected ++ flagByte f.seenUnderrun
    ++ flagByte f.seenUncorrectable ++ flagByte f.seenWriteTimeout ++ flagByte f.seenWriteOverrun
    ++ Machine.bytes 2 f.correctedCount ++ Machine.bytes 2 f.underrunCount ++ flagByte f.second
    ++ flagByte f.summary

/-- READ FAULTS (R182). -/
def execReadFaults (h : Req) (s : State) : Out :=
  .next (s.request h 96 0 fun s => s.answer .ok s.faults.bytes)

/-- The fault recorder cleared; the sequence number keeps its value (R183). -/
def Faults.clear (f : Faults) : Faults := { Faults.reset with seq := f.seq }

/-- CLEAR FAULTS as its owner takes it (R183). -/
def ownClearFaults (sequence : Nat) : Owner := fun s =>
  if 65535 < sequence then s.answer .badArg []
  else if sequence = s.faults.seq then { s with faults := s.faults.clear }.answer .ok s.faults.bytes
  else s.answer .stale (bytes 2 s.faults.seq)

/-- CLEAR FAULTS (R183). -/
def execClearFaults (h : Req) (sequence : BitVec 32) (s : State) : Out :=
  .next (s.request h 97 4 (ownClearFaults sequence.toNat))

end Sys2Proof.Machine
end

