-- ==== Sys2Proof/Machine/MemoryCommands.lean ====
section
/-! DEFINITION. The commands of the memory's own work: grants, completions, hand-over, the start-up test and self-refresh. A completion of another kind than the current grant has no effect (log entry 12). -/
namespace Sys2Proof.Machine

open Sys2Proof

/-- ARBITER_GRANT (R140). -/
def execArbiterGrant (s : State) : Out := .next (s.whenLive State.arbitrate)

/-- REFRESH_COMPLETE (R142). -/
def execRefreshComplete (s : State) : Out := .next (s.whenLive State.completeRefresh)

/-- PLAYBACK_READ_COMPLETE (R147). -/
def execPlaybackReadComplete (checks : List WordCheck) (s : State) : Out :=
  .next (s.whenLive (State.completePlayback checks))

/-- CAPTURE_WRITE_COMPLETE (R144). -/
def execCaptureWriteComplete (s : State) : Out := .next (s.whenLive State.completeCapture)

/-- FOLD_BURST_COMPLETE (R150). -/
def execFoldBurstComplete (checks : List WordCheck) (s : State) : Out :=
  .next (s.whenLive (State.completeFoldBurst checks))

/-- WINDOW_READ_COMPLETE (R152). -/
def execWindowReadComplete (checks : List WordCheck) (s : State) : Out :=
  .next (s.whenLive (State.completeWindowRead checks))

/-- WINDOW_COMMIT_COMPLETE (R153). -/
def execWindowCommitComplete (s : State) : Out := .next (s.whenLive State.completeCommit)

/-- WAITING_BURST_HANDOVER (R64). -/
def execWaitingBurstHandover (s : State) : Out := .next (s.whenLive State.settle)

/-- BLOCK_TEST (R159). -/
def execBlockTest (corrected : Nat) (passed : Bool) (s : State) : Out :=
  .next (s.whenLive (State.testBlock corrected passed))

/-- MEMORY_TEST_DONE (R159). -/
def execMemoryTestDone (s : State) : Out := .next (s.whenLive State.finishTest)

/-- ENTER_SELF_REFRESH (R160). -/
def execEnterSelfRefresh (s : State) : Out := .next (s.whenLive State.selfRefresh)

end Sys2Proof.Machine
end

