-- ==== Sys2Proof/Machine/MixRequests.lean ====
section
/-! DEFINITION. The requests that the mixer owns (06). -/
namespace Sys2Proof.Machine

open Sys2Proof

/-- The two monitor gains of an input slot written (R126). -/
def Mixer.setMonitor (i : SlotId) (front ear : Nat) (m : Mixer) : Mixer :=
  { m with
    frontMonitor := m.frontMonitor.set i.val front i.isLt
    earMonitor := m.earMonitor.set i.val ear i.isLt }

/-- SET MONITOR as its owner takes it (R126). -/
def ownSetMonitor (slot : Byte) (front ear : Nat) : Owner := fun s =>
  match argSlot slot with
  | some i =>
    { s with mixer := s.mixer.setMonitor i front ear }.answer .ok
      (codeByte i.val ++ bytes 2 front ++ bytes 2 ear)
  | none => s.answer .badArg []

/-- SET MONITOR (R126). -/
def execSetMonitor (h : Req) (slot : Byte) (front ear : BitVec 16) (s : State) : Out :=
  .next (s.request h 64 5 (ownSetMonitor slot front.toNat ear.toNat))

/-- SET BUS as its owner takes it (R131). -/
def ownSetBus (front ear : Nat) : Owner := fun s =>
  { s with mixer := { s.mixer with frontBus := front, earBus := ear } }.answer .ok
    (bytes 2 front ++ bytes 2 ear)

/-- SET BUS (R131). -/
def execSetBus (h : Req) (front ear : BitVec 16) (s : State) : Out :=
  .next (s.request h 65 4 (ownSetBus front.toNat ear.toNat))

/-- SET CLICK as its owner takes it (R128). -/
def ownSetClick (enable : Byte) (level : Nat) : Owner := fun s =>
  match argClick enable with
  | some on =>
    { s with mixer := { s.mixer with clickOn := on, clickLevel := min 8388607 level } }.answer .ok
      ([enable] ++ bytes 3 (min 8388607 level))
  | none => s.answer .badArg []

/-- SET CLICK (R128). -/
def execSetClick (h : Req) (enable : Byte) (level : BitVec 24) (s : State) : Out :=
  .next (s.request h 66 4 (ownSetClick enable level.toNat))

/-- SET OUTPUT as its owner takes it (R133). -/
def ownSetOutput (slot : Byte) (source : Option Source) : Owner := fun s =>
  match argSlot slot, source with
  | some i, some src =>
    { s with mixer := { s.mixer with outputs := s.mixer.outputs.set i.val src i.isLt } }.answer .ok
      (codeByte i.val ++ sourceBytes src)
  | _, _ => s.answer .badArg []

/-- SET OUTPUT (R133). -/
def execSetOutput (h : Req) (slot kind number : Byte) (s : State) : Out :=
  .next (s.request h 67 3 (ownSetOutput slot (argSource kind number)))

/-- SET EDGE as its owner takes it (R132). -/
def ownSetEdge (frames : Nat) : Owner := fun s =>
  { s with mixer := { s.mixer with edge := min 1023 frames } }.answer .ok (bytes 2 (min 1023 frames))

/-- SET EDGE (R132). -/
def execSetEdge (h : Req) (frames : BitVec 16) (s : State) : Out :=
  .next (s.request h 68 2 (ownSetEdge frames.toNat))

/-- The results of READ CLIPS (R134). -/
def State.clipBytes (s : State) : List Byte :=
  bytes 2 s.mixer.frontClips ++ bytes 2 s.mixer.earClips ++ flagByte s.mixer.frontReported
    ++ flagByte s.mixer.earReported ++ bytes 1 s.cycle.pass

/-- READ CLIPS as its owner takes it: the counts go to 0 after the reply when clear is true (R134). -/
def ownReadClips (clear : Byte) : Owner := fun s =>
  match argFlag clear with
  | some true =>
    { s with mixer := { s.mixer with frontClips := 0, earClips := 0 } }.answer .ok s.clipBytes
  | some false => s.answer .ok s.clipBytes
  | none => s.answer .badArg []

/-- READ CLIPS (R134). -/
def execReadClips (h : Req) (clear : Byte) (s : State) : Out :=
  .next (s.request h 69 1 (ownReadClips clear))

end Sys2Proof.Machine
end

