-- ==== Sys2Proof/Machine/PortRequests.lean ====
section
/-! DEFINITION. The requests that the port controllers own: STATUS, IDENTIFY, the interest set, the mask level and the notes (10.6, 11). -/
namespace Sys2Proof.Machine

open Sys2Proof

/-- One track's part of STATUS: state, whether its mute target is 0, stack depth (R195). -/
def Track.statusBytes (tr : Track) : List Byte :=
  codeByte tr.state.ctorIdx ++ flagByte (decide (tr.muteTarget = 0)) ++ bytes 1 tr.stack.length

/-- The 38 bytes of STATUS (R195). -/
def State.statusBytes (s : State) : List Byte :=
  codeByte s.power.part.ctorIdx ++ codeByte s.cycle.state.ctorIdx ++ bytes 3 s.cycle.shownLen
    ++ bytes 3 s.cycle.shownPos ++ bytes 1 s.cycle.pass ++ bytes 1 s.cycle.beats ++ bytes 1 s.cycle.perBar
    ++ (s.tracks.toList.map Track.statusBytes).flatten
    ++ bytes 2 s.mem.free.length ++ bytes 2 s.mem.bad.length ++ bytes 1 s.cues.entries.length
    ++ flagByte s.faults.summary ++ codeByte (if s.audio.present then 0 else 1)
    ++ bytes 2 s.audio.linkErrors

/-- STATUS (R195). -/
def execStatus (h : Req) (s : State) : Out :=
  .next (s.requestAlways h 1 fun s => s.answer .ok s.statusBytes)

/-- IDENTIFY (R196). -/
def execIdentify (h : Req) (s : State) : Out :=
  .next (s.requestAlways h 2 fun s => s.answer .ok (bytes 2 624 ++ bytes 1 1))

/-- SET INTEREST as its owner takes it (R200). -/
def ownSetInterest (p : Port) (kinds : BitVec 32) : Owner := fun s =>
  if kinds.getLsbD 0 || kinds.getLsbD 31 then s.answer .badArg []
  else (s.setPort p { s.port p with interest := kinds }).answer .ok (bytes 4 kinds.toNat)

/-- SET INTEREST (R200). -/
def execSetInterest (h : Req) (kinds : BitVec 32) (s : State) : Out :=
  .next (s.request h 3 4 (ownSetInterest h.port kinds))

/-- SET MASK LEVEL as its owner takes it (R203). -/
def ownSetMaskLevel (p : Port) (level : Byte) : Owner := fun s =>
  match argMask level with
  | some m => (s.setPort p { s.port p with mask := m }).answer .ok (codeByte m.ctorIdx)
  | none => s.answer .badArg []

/-- SET MASK LEVEL (R203). -/
def execSetMaskLevel (h : Req) (level : Byte) (s : State) : Out :=
  .next (s.request h 4 1 (ownSetMaskLevel h.port level))

/-- The state with a port's mailbox replaced. -/
def State.setMailbox (p : Port) (note : Option (List Byte)) (s : State) : State :=
  s.setPort p { s.port p with mailbox := note }

/-- POST NOTE as its owner takes it: the other port's mailbox, and NOTE ARRIVED to that port alone (R204). -/
def ownPostNote (p : Port) (note : List Byte) : Owner := fun s =>
  match (s.port p.other).mailbox with
  | some _ => s.answer .mailboxFull []
  | none =>
    let s := s.setMailbox p.other (some note)
    (s.offerTo p.other (s.event .noteArrived none none none note.length)).answer .ok []

/-- POST NOTE (R204), with 1 to 16 bytes of argument (R188). -/
def execPostNote (h : Req) (note : List Byte) (s : State) : Out :=
  .next (s.whenLive fun s =>
    (s.shiftRequest h.port (3 + h.len.toNat)).screen false
      (decide (1 ≤ h.len.toNat) && decide (h.len.toNat ≤ 16)) h 5 (ownPostNote h.port note))

/-- TAKE NOTE as its owner takes it: the port's own mailbox, and NOTE TAKEN to the other port alone (R205). -/
def ownTakeNote (p : Port) : Owner := fun s =>
  match (s.port p).mailbox with
  | none => s.answer .empty []
  | some note =>
    let s := s.setMailbox p none
    (s.offerTo p.other (s.event .noteTaken none none none note.length)).answer .ok
      (listBytes (note.map fun b => [b]))

/-- TAKE NOTE (R205). -/
def execTakeNote (h : Req) (s : State) : Out := .next (s.request h 6 0 (ownTakeNote h.port))

end Sys2Proof.Machine
end

