-- ==== Sys2Proof/Machine/PowerRequests.lean ====
section
/-! DEFINITION. The requests that power control owns (12). -/
namespace Sys2Proof.Machine

open Sys2Proof

/-- REST as its owner takes it (R208). -/
def ownRest : Owner := fun s =>
  if s.power.part = .rest then s.answer .resting []
  else if s.mayRest then (s.enterRest .rest .request).settle.answer .ok []
  else s.answer .busy []

/-- REST (R208). -/
def execRest (h : Req) (s : State) : Out := .next (s.request h 112 0 ownRest)

/-- WAKE as its owner takes it (R209). -/
def ownWake : Owner := fun s =>
  if s.power.part = .rest ∧ s.power.latch = false then s.wakeUp.answer .ok []
  else s.answer .badState []

/-- WAKE (R209). -/
def execWake (h : Req) (s : State) : Out := .next (s.request h 113 0 ownWake)

/-- RESET PART as it is taken: the reset, whose reply is never read (R186, R207). -/
def ownResetPart : Owner := fun s => (s.resetTo false, none)

/-- RESET PART (R207). -/
def execResetPart (h : Req) (s : State) : Out := .next (s.request h 114 0 ownResetPart)

end Sys2Proof.Machine
end

