-- ==== Sys2Proof/Machine/SwitchRequests.lean ====
section
/-! DEFINITION. The requests that the switch interpreter owns (05). -/
namespace Sys2Proof.Machine

open Sys2Proof

/-- A hold or double action as the map holds it: NONE is absent (R103). -/
def SwAction.present (a : SwAction) : Option SwAction := if a = .none then Option.none else some a

/-- A map entry from the arguments of SET SWITCH (R103). -/
def argEntry (tap hold double target quantum : Byte) : Option MapEntry :=
  match argSwAction tap, argSwAction hold, argSwAction double, argSwTarget target, argQuantum quantum with
  | some t, some h, some d, some g, some q =>
    some { tap := t, hold := h.present, double := d.present, target := g, quantum := q }
  | _, _, _, _, _ => none

/-- The state with a map entry written. -/
def State.setEntry (code : SwitchCode) (e : MapEntry) (s : State) : State :=
  { s with switches := { s.switches with map := s.switches.map.set code.val e code.isLt } }

/-- SET SWITCH as its owner takes it (R103). -/
def ownSetSwitch (code : Byte) (entry : Option MapEntry) : Owner := fun s =>
  match argSwitch code, entry with
  | some c, some e => (s.setEntry c e).answer .ok (mapEntryBytes e)
  | _, _ => s.answer .badArg []

/-- SET SWITCH (R103). -/
def execSetSwitch (h : Req) (code tapAct holdAct doubleAct target quantum : Byte) (s : State) : Out :=
  .next (s.request h 56 6 (ownSetSwitch code (argEntry tapAct holdAct doubleAct target quantum)))

/-- SET PRESS TIMING as its owner takes it (R104). -/
def ownSetPressTiming (hold double : Nat) : Owner := fun s =>
  { s with switches := { s.switches with
      holdMs := clampNat 150 2000 hold, doubleMs := clampNat 100 600 double } }.answer .ok
    (bytes 2 (clampNat 150 2000 hold) ++ bytes 2 (clampNat 100 600 double))

/-- SET PRESS TIMING (R104). -/
def execSetPressTiming (h : Req) (hold double : BitVec 16) (s : State) : Out :=
  .next (s.request h 57 4 (ownSetPressTiming hold.toNat double.toNat))

/-- A switch report as its owner takes it (R105, R107, R115). -/
def ownSwitch (report : Port → SwitchCode → State → State × Bool) (p : Port) (code : Byte) : Owner := fun s =>
  match argSwitch code with
  | some c =>
    let (s', ignored) := report p c s
    s'.settle.answer .ok (s'.settle.switchResults p c ignored)
  | none => s.answer .badArg []

/-- SWITCH DOWN (R105). -/
def execSwitchDown (h : Req) (code : Byte) (s : State) : Out :=
  .next (s.request h 58 1 (ownSwitch State.switchDown h.port code))

/-- SWITCH UP (R107). -/
def execSwitchUp (h : Req) (code : Byte) (s : State) : Out :=
  .next (s.request h 59 1 (ownSwitch State.switchUp h.port code))

/-- SELECT TRACK as its owner takes it (R115). -/
def ownSelectTrack (p : Port) (track : Byte) : Owner := fun s =>
  match argTrack track with
  | some t => (s.selectTo p t).answer .ok (codeByte t.val)
  | none => s.answer .badArg []

/-- SELECT TRACK (R115). -/
def execSelectTrack (h : Req) (track : Byte) (s : State) : Out :=
  .next (s.request h 60 1 (ownSelectTrack h.port track))

end Sys2Proof.Machine
end

