-- ==== Sys2Proof/Machine/CycleRequests.lean ====
section
/-! DEFINITION. The requests that the cycle timer owns (01), and the cue list's path for the whole cycle. -/
namespace Sys2Proof.Machine

open Sys2Proof

/-- SET TEMPO as its owner takes it (R10). -/
def ownSetTempo (bpm10 beats : Nat) : Owner := fun s =>
  if s.power.part = .rest then s.answer .resting []
  else if s.cycle.state ≠ .empty then s.answer .badState []
  else if beats = 0 then s.answer .badArg []
  else
    let b := min 64 beats
    let len := tempoLen (clampNat 400 2400 bpm10) b
    ({ s with cycle := { s.cycle with beats := b } }.startCycle len .tempo).answer .ok (bytes 3 len ++ bytes 1 b)

/-- SET TEMPO (R10). -/
def execSetTempo (h : Req) (bpm10 : BitVec 16) (beats : Byte) (s : State) : Out :=
  .next (s.request h 16 3 (ownSetTempo bpm10.toNat beats.toNat))

/-- SET LENGTH as its owner takes it (R11). -/
def ownSetLength (frames : Nat) : Owner := fun s =>
  if s.power.part = .rest then s.answer .resting []
  else if s.cycle.state ≠ .empty then s.answer .badState []
  else (s.startCycle (clampLen frames) .length).answer .ok (bytes 3 (clampLen frames))

/-- SET LENGTH (R11). -/
def execSetLength (h : Req) (frames : BitVec 32) (s : State) : Out :=
  .next (s.request h 17 4 (ownSetLength frames.toNat))

/-- SET GRID as its owner takes it (R13). -/
def ownSetGrid (b p : Nat) : Owner := fun s =>
  if b = 0 ∨ p = 0 then s.answer .badArg []
  else
    { s with cycle := { s.cycle with beats := min 64 b, perBar := min 16 p } }.answer .ok
      (bytes 1 (min 64 b) ++ bytes 1 (min 16 p))

/-- SET GRID (R13). -/
def execSetGrid (h : Req) (beats perBar : Byte) (s : State) : Out :=
  .next (s.request h 18 2 (ownSetGrid beats.toNat perBar.toNat))

/-- SET GRACE as its owner takes it (R15). -/
def ownSetGrace (frames : Nat) : Owner := fun s =>
  { s with cycle := { s.cycle with grace := min 4800 frames } }.answer .ok (bytes 2 (min 4800 frames))

/-- SET GRACE (R15). -/
def execSetGrace (h : Req) (frames : BitVec 16) (s : State) : Out :=
  .next (s.request h 19 2 (ownSetGrace frames.toNat))

/-- TAP as its owner takes it: the tap's number, the ignored-tap count, and L after a fourth tap alone (R12). -/
def ownTap : Owner := fun s =>
  match s.actTap s.cycle.frameCount with
  | (s, .ok, n, len) =>
    s.answer .ok (bytes 1 n ++ bytes 1 s.cycle.ignoredTaps
      ++ (match len with | some l => bytes 3 l | none => []))
  | (s, st, _, _) => s.answer st []

/-- TAP (R12). -/
def execTap (h : Req) (s : State) : Out := .next (s.request h 20 0 ownTap)

/-- A quantised request handed to the cue list at its taking (R17, R81, R90); what follows from an action that acted is settled. -/
def State.handQuantised (p : Port) (a : Action) (target : Option TrackId) (q : Quantum) (s : State) :
    State × Option (Status × List Byte) :=
  let (s', ans) := s.quantised p a target q s.pressNow
  (if ans.status = .ok then s'.settle else s').answer ans.status ans.results

/-- An ALL request as the cue list takes it: the quantum checked first (R82). -/
def ownAll (p : Port) (a : Action) (quantum : Byte) : Owner := fun s =>
  match argQuantum quantum with
  | some q => s.handQuantised p a none q
  | none => s.answer .badArg []

/-- PLAY ALL (R22). -/
def execPlayAll (h : Req) (quantum : Byte) (s : State) : Out :=
  .next (s.request h 21 1 (ownAll h.port .playAll quantum))

/-- STOP ALL (R21). -/
def execStopAll (h : Req) (quantum : Byte) (s : State) : Out :=
  .next (s.request h 22 1 (ownAll h.port .stopAll quantum))

/-- CLEAR ALL as its owner takes it: at once, whatever quantum accompanies it (R23, R80, R194). -/
def ownClearAll (quantum : Byte) : Owner := fun s =>
  match argQuantum quantum with
  | some _ => s.actClearAll.settle.answer .ok []
  | none => s.answer .badArg []

/-- CLEAR ALL (R23). -/
def execClearAll (h : Req) (quantum : Byte) (s : State) : Out :=
  .next (s.request h 23 1 (ownClearAll quantum))

end Sys2Proof.Machine
end

