-- ==== Sys2Proof/Machine/TrackRequests.lean ====
section
/-! DEFINITION. The requests on tracks, layers and cues (02, 03, 04). -/
namespace Sys2Proof.Machine

open Sys2Proof

/-- A track request as the cue list takes it: track and quantum checked first (R82). -/
def ownTrack (p : Port) (a : Action) (track quantum : Byte) : Owner := fun s =>
  match argTrack track, argQuantum quantum with
  | some t, some q => s.handQuantised p a (some t) q
  | _, _ => s.answer .badArg []

/-- RECORD (R32). -/
def execRecord (h : Req) (track quantum : Byte) (s : State) : Out :=
  .next (s.request h 32 2 (ownTrack h.port .record track quantum))

/-- OVERDUB (R32). -/
def execOverdub (h : Req) (track quantum : Byte) (s : State) : Out :=
  .next (s.request h 33 2 (ownTrack h.port .overdub track quantum))

/-- REPLACE (R73). -/
def execReplace (h : Req) (track quantum : Byte) (s : State) : Out :=
  .next (s.request h 34 2 (ownTrack h.port .replace track quantum))

/-- CLOSE (R33). -/
def execClose (h : Req) (track quantum : Byte) (s : State) : Out :=
  .next (s.request h 35 2 (ownTrack h.port .close track quantum))

/-- MUTE (R38). -/
def execMute (h : Req) (track quantum : Byte) (s : State) : Out :=
  .next (s.request h 36 2 (ownTrack h.port .mute track quantum))

/-- UNMUTE (R38). -/
def execUnmute (h : Req) (track quantum : Byte) (s : State) : Out :=
  .next (s.request h 37 2 (ownTrack h.port .unmute track quantum))

/-- UNDO (R35). -/
def execUndo (h : Req) (track quantum : Byte) (s : State) : Out :=
  .next (s.request h 38 2 (ownTrack h.port .undo track quantum))

/-- REDO (R36). -/
def execRedo (h : Req) (track quantum : Byte) (s : State) : Out :=
  .next (s.request h 39 2 (ownTrack h.port .redo track quantum))

/-- CLEAR TRACK as its owner takes it: at once, whatever quantum accompanies it (R37, R80, R194). -/
def ownClearTrack (track quantum : Byte) : Owner := fun s =>
  match argTrack track, argQuantum quantum with
  | some t, some _ => (s.actClearTrack t).settle.answer .ok []
  | _, _ => s.answer .badArg []

/-- CLEAR TRACK (R37). -/
def execClearTrack (h : Req) (track quantum : Byte) (s : State) : Out :=
  .next (s.request h 40 2 (ownClearTrack track quantum))

/-- The settings of a track record written (R51). -/
def Track.configure (feedback front ear : Nat) (sources : Byte) (tr : Track) : Track :=
  { tr with feedback := min 32768 feedback, frontSend := front, earSend := ear, sources := sources }

/-- SET TRACK as its owner takes it (R51). -/
def ownSetTrack (track : Byte) (feedback front ear : Nat) (sources : Byte) : Owner := fun s =>
  match argTrack track with
  | some t =>
    (s.modTrack t (Track.configure feedback front ear sources)).answer .ok
      (bytes 2 (min 32768 feedback) ++ bytes 2 front ++ bytes 2 ear ++ [sources])
  | none => s.answer .badArg []

/-- SET TRACK (R51). -/
def execSetTrack (h : Req) (track : Byte) (feedback front ear : BitVec 16) (sources : Byte) (s : State) : Out :=
  .next (s.request h 41 8 (ownSetTrack track feedback.toNat front.toNat ear.toNat sources))

/-- SET LAYER GAIN as its owner takes it (R52). -/
def ownSetLayerGain (id gain : Nat) : Owner := fun s =>
  match s.layer? id with
  | none => s.answer .notFound []
  | some l =>
    if l.state = .folding then s.answer .busy []
    else (s.setLayer id { l with gain := max 64 gain }).answer .ok (bytes 2 (max 64 gain))

/-- SET LAYER GAIN (R52). -/
def execSetLayerGain (h : Req) (layer : Byte) (gain : BitVec 16) (s : State) : Out :=
  .next (s.request h 42 3 (ownSetLayerGain layer.toNat gain.toNat))

/-- The fold's part of READ TRACK: result id, next result offset, pending result gain (R53). -/
def State.foldBytes (s : State) (t : TrackId) : List Byte :=
  match s.fold with
  | some f =>
    if f.track = t then codeByte f.result ++ bytes 4 f.nextOff ++ bytes 2 f.pendingGain else []
  | none => []

/-- The results of READ TRACK (R53). The mute target and the mute ramp value, for which R197 names no kind, are sent in two bytes each. DEDUCED, log entry 29. -/
def State.trackBytes (s : State) (t : TrackId) : List Byte :=
  let tr := s.track t
  codeByte tr.state.ctorIdx ++ spanByte tr.span ++ spanByte tr.heldSpan ++ bytes 2 tr.feedback
    ++ bytes 2 tr.frontSend ++ bytes 2 tr.earSend ++ [tr.sources] ++ bytes 2 tr.muteTarget
    ++ bytes 2 tr.ramp ++ bytes 1 tr.stack.length ++ listBytes (tr.stack.map entryBytes)
    ++ layerByte tr.openLayer ++ listBytes (tr.redo.map fun i => codeByte i)
    ++ layerByte (tr.marker.map Prod.fst) ++ layerByte (tr.marker.map Prod.snd)
    ++ bytes 2 tr.foldClips ++ s.foldBytes t

/-- READ TRACK as its owner takes it (R53). -/
def ownReadTrack (track : Byte) : Owner := fun s =>
  match argTrack track with
  | some t => s.answer .ok (s.trackBytes t)
  | none => s.answer .badArg []

/-- READ TRACK (R53). -/
def execReadTrack (h : Req) (track : Byte) (s : State) : Out :=
  .next (s.request h 43 1 (ownReadTrack track))

/-- A start as reported (R54, R197). -/
def startBytes : LayerStart → List Byte
  | .at q => bytes 4 q
  | .first pass pos => pointBytes pass pos

/-- The results of READ LAYER (R54): the suspect blocks are listed in extent order, 255 of them at most. -/
def State.layerBytes (s : State) (id : Nat) (l : Layer) : List Byte :=
  let suspects := l.extents.filter l.suspects.contains
  codeByte id ++ codeByte l.track.val ++ codeByte l.state.ctorIdx ++ codeByte l.origin.ctorIdx
    ++ startBytes l.start ++ bytes 4 (s.lengthOf id l) ++ flagByte l.cover ++ flagByte l.head
    ++ flagByte l.tail ++ bytes 2 l.gain ++ flagByte l.damaged
    ++ listBytes (l.holes.map fun r => bytes 4 r.first ++ bytes 4 r.len)
    ++ bytes 2 l.extents.length ++ bytes 2 suspects.length
    ++ listBytes ((suspects.take 255).map fun b => bytes 2 b)

/-- READ LAYER as its owner takes it (R54). -/
def ownReadLayer (id : Nat) : Owner := fun s =>
  match s.layer? id with
  | some l => s.answer .ok (s.layerBytes id l)
  | none => s.answer .notFound []

/-- READ LAYER (R54). -/
def execReadLayer (h : Req) (layer : Byte) (s : State) : Out :=
  .next (s.request h 44 1 (ownReadLayer layer.toNat))

/-- CANCEL CUE as its owner takes it (R94). -/
def ownCancelCue (id : Nat) : Owner := fun s =>
  match s.cues.entries.find? (fun c => c.id == id) with
  | some c => (s.dropCue .cancelled c).answer .ok (bytes 2 id)
  | none => s.answer .notFound []

/-- CANCEL CUE (R94). -/
def execCancelCue (h : Req) (cue : BitVec 16) (s : State) : Out :=
  .next (s.request h 48 2 (ownCancelCue cue.toNat))

/-- One entry of READ CUES (R99). The forward distance takes four bytes, as a frame count does. DEDUCED, log entry 41. -/
def Cue.bytes (c : Cue) (cycle : Cycle) : List Byte :=
  Machine.bytes 2 c.id ++ codeByte (portCode c.origin) ++ codeByte (portSetCode c.joinedA c.joinedB)
    ++ codeByte c.action.ctorIdx ++ codeByte c.action.family.ctorIdx ++ cueTargetByte c.target
    ++ codeByte c.quantum.ctorIdx ++ pointBytes c.press.pass c.press.pos ++ millisBytes c.press.time
    ++ pointBytes c.duePass c.duePos ++ Machine.bytes 4 (cycle.forwardDistance c.duePass c.duePos)

/-- The results of READ CUES (R99). -/
def State.cuesBytes (s : State) : List Byte :=
  bytes 1 s.cues.entries.length ++ bytes 2 s.cues.nextId ++ pointBytes s.cycle.pass s.cycle.shownPos
    ++ listBytes (s.cues.entries.map fun c => c.bytes s.cycle)

/-- READ CUES (R99). -/
def execReadCues (h : Req) (s : State) : Out :=
  .next (s.request h 49 0 fun s => s.answer .ok s.cuesBytes)

end Sys2Proof.Machine
end

