-- ==== Sys2Proof/Machine/TransferCommands.lean ====
section
/-! DEFINITION. The transfers of the control ports: READ REPLY, READ EVENTS, the window transfers, and REQUEST transfers that reach no owner. -/
namespace Sys2Proof.Machine

open Sys2Proof

/-- REQUEST_CUT (R187). -/
def execRequestCut (p : Port) (arrived : List Byte) (s : State) : Out := .next (s.cut p arrived)

/-- UNKNOWN_REQUEST (R188). -/
def execUnknownRequest (h : Req) (code : Byte) (s : State) : Out := .next (s.unknown h code)

/-- READ_REPLY (R190). -/
def execReadReply (p : Port) (fall : Bool) (n : Nat) (rise : Bool) (s : State) : Out :=
  .next (s.segment p .readReply fall n rise (repeatStep (State.replyByte p) n))

/-- READ_EVENTS (R191). -/
def execReadEvents (p : Port) (fall : Bool) (n : Nat) (rise : Bool) (s : State) : Out :=
  .next (s.segment p .readEvents fall n rise (repeatStep (State.eventsByte p) n))

/-- WINDOW_READ (R192). -/
def execWindowRead (p : Port) (fall : Bool) (n : Nat) (rise : Bool) (s : State) : Out :=
  .next (s.segment p .windowRead fall n rise fun s => (repeatStep (State.windowReadByte p) n s).settle)

/-- WINDOW_WRITE (R193). -/
def execWindowWrite (p : Port) (fall : Bool) (arrived : List Byte) (rise : Bool) (s : State) : Out :=
  .next (s.segment p .windowWrite fall arrived.length rise fun s => (s.windowWriteBytes p arrived).settle)

end Sys2Proof.Machine
end

