-- ==== Sys2Proof/Machine/WindowRequests.lean ====
section
/-! DEFINITION. The requests that the memory controller owns: windows, imports and timeouts (07, sections 7.8 and 7.9). -/
namespace Sys2Proof.Machine

open Sys2Proof

/-- A window just opened (R151). -/
def Window.opened (layer : Nat) (mode : WinMode) (dir : Direction) (offset : Nat) : Window :=
  { layer := layer, mode := mode, dir := dir, next := offset, buf := [], req := .absent,
    timedOut := false, done := false, excess := 0, closing := false, latched := 0, shifting := false }

/-- What refuses an OPEN WINDOW on a layer in use, by the order of R151's table. -/
def State.openRefusal (s : State) (p : Port) (id : Nat) (l : Layer) (offset : Nat) (dir : Direction)
    (mode : WinMode) : Option Status :=
  match mode with
  | .read =>
    if l.state = .importing ∨ l.state = .undone ∨ s.isFoldResult id then some .badState
    else if s.lengthOf id l ≤ offset then some .badArg
    else none
  | .write =>
    if l.state ≠ .importing ∨ l.creator ≠ some p then some .badState
    else if dir = .reverse ∨ offset ≠ l.committed then some .badArg
    else none

/-- OPEN WINDOW as its owner takes it (R151). -/
def ownOpenWindow (p : Port) (id offset : Nat) (direction mode : Byte) : Owner := fun s =>
  if s.power.part = .rest then s.answer .resting []
  else if (s.window p).isSome then s.answer .busy []
  else
    match argDirection direction, argMode mode with
    | some dir, some m =>
      match s.layer? id with
      | none => s.answer .notFound []
      | some l =>
        match s.openRefusal p id l offset dir m with
        | some st => s.answer st []
        | none =>
          (s.setWindow p (some (Window.opened id m dir offset))).settle.answer .ok
            (bytes 4 (s.lengthOf id l) ++ bytes 4 offset)
    | _, _ => s.answer .badArg []

/-- OPEN WINDOW (R151). -/
def execOpenWindow (h : Req) (layer : Byte) (offset : BitVec 32) (direction mode : Byte) (s : State) : Out :=
  .next (s.request h 80 7 (ownOpenWindow h.port layer.toNat offset.toNat direction mode))

/-- The results of a reply to CLOSE WINDOW on a READ window (R155). What the next offset of a REVERSE window is past offset 0 is free (log entry 6). -/
def Window.readResults (w : Window) : List Byte :=
  bytes 4 (if w.dir = .reverse ∧ w.done = true then Config.reversePastZero.toNat else w.next)
    ++ flagByte w.timedOut

/-- A port's window CLOSED by its port. -/
def State.shutWindow (p : Port) (s : State) : State :=
  (s.setWindow p none).setWait (portBackground p) Wait.idle

/-- The partial commit of CLOSE WINDOW: the request made unless one stands (R155). -/
def State.closeCommit (p : Port) (w : Window) (s : State) : State :=
  let s := s.setWindow p (some { w with closing := true })
  match w.req with
  | .absent => s.requestCommit p
  | .waiting .. | .granted _ => s

/-- CLOSE WINDOW as its owner takes it (R155). -/
def ownCloseWindow (p : Port) : Owner := fun s =>
  if s.power.part = .rest then s.answer .resting []
  else
    match s.window p with
    | none => s.answer .badState []
    | some w =>
      match w.mode, w.buf with
      | .read, _ => (s.shutWindow p).settle.answer .ok w.readResults
      | .write, [] => (s.shutWindow p).settle.answer .ok w.writeResults
      | .write, _ :: _ => ((s.closeCommit p w).settle, none)

/-- CLOSE WINDOW (R155). -/
def execCloseWindow (h : Req) (s : State) : Out :=
  .next (s.request h 81 0 (ownCloseWindow h.port))

/-- The arguments of IMPORT LAYER after their own check (R156). -/
structure Import where
  track : TrackId
  span : Nat
  start : Nat
  length : Nat
  cover : Bool
  gain : Nat
  deriving DecidableEq, Repr

/-- The arguments of IMPORT LAYER checked (R156): a track, a span, a length above 0, a flag. -/
def argImport (track span : Byte) (start length : Nat) (cover : Byte) (gain : Nat) : Option Import :=
  match argTrack track, argSpan span, argFlag cover with
  | some t, some s, some c =>
    if length = 0 then none
    else some { track := t, span := s, start := start, length := length, cover := c, gain := max 64 gain }
  | _, _, _ => none

/-- What refuses an IMPORT LAYER before admission, by the order of R156's table. -/
def State.importRefusal (s : State) (p : Port) (i : Import) : Option Status :=
  let tr := s.track i.track
  let span := if tr.state = .empty then i.span else tr.span.getD i.span
  if s.cycle.state = .empty ∨ s.cycle.state = .defining then some .badState
  else if tr.state ≠ .empty ∧ tr.state ≠ .playing then some .badState
  else if (s.window p).isSome then some .busy
  else if tr.state = .empty ∧ s.holdsImport i.track = true ∧ tr.heldSpan ≠ some i.span then some .badArg
  else if span * s.cycle.shownLen < i.start + i.length then some .badArg
  else none

/-- An admitted import: the layer, the redo list freed, the track and the port's window (R156). -/
def State.placeImport (p : Port) (id : Nat) (i : Import) (s : State) : State :=
  let s := s.freeRedo i.track
  let l := { Layer.fresh i.track .importing .imported (.at i.start) i.cover false with
    length := i.length, gain := i.gain, creator := some p }
  let s := (s.setLayer id l).modTrack i.track fun tr =>
    { tr with
      stack := tr.stack ++ [.single id]
      heldSpan := if tr.state = .empty then some i.span else tr.heldSpan }
  s.setWindow p (some (Window.opened id .write .forward 0))

/-- IMPORT LAYER as its owner takes it (R156). -/
def ownImportLayer (p : Port) (arg : Option Import) : Owner := fun s =>
  if s.power.part = .rest then s.answer .resting []
  else
    match arg with
    | none => s.answer .badArg []
    | some i =>
      match s.importRefusal p i with
      | some st => s.answer st []
      | none =>
        match s.takeRoom i.track with
        | .error st => s.answer st []
        | .ok (s', id) => (s'.placeImport p id i).settle.answer .ok (codeByte id)

/-- IMPORT LAYER (R156). -/
def execImportLayer (h : Req) (track span : Byte) (start length : BitVec 32) (cover : Byte)
    (gain : BitVec 16) (s : State) : Out :=
  .next (s.request h 82 13
    (ownImportLayer h.port (argImport track span start.toNat length.toNat cover gain.toNat)))

/-- The state with a port's window timeout set. -/
def State.setTimeout (p : Port) (millis : Nat) (s : State) : State :=
  match p with
  | .a => { s with mem := { s.mem with timeoutA := millis } }
  | .b => { s with mem := { s.mem with timeoutB := millis } }

/-- SET WINDOW TIMEOUT as its owner takes it (R154). -/
def ownSetWindowTimeout (p : Port) (millis : Nat) : Owner := fun s =>
  if millis = 4 ∨ millis = 16 ∨ millis = 64 ∨ millis = 256 then
    (s.setTimeout p millis).answer .ok (bytes 2 millis)
  else s.answer .badArg []

/-- SET WINDOW TIMEOUT (R154). -/
def execSetWindowTimeout (h : Req) (millis : BitVec 16) (s : State) : Out :=
  .next (s.request h 83 2 (ownSetWindowTimeout h.port millis.toNat))

end Sys2Proof.Machine
end

