-- ==== Sys2Proof/Machine/Dispatch.lean ====
section
/-! DEFINITION. The meaning of every command: one arm for each row of spec/opcode_table.json. -/
namespace Sys2Proof.Machine

open Sys2Proof

/-- The effect of a command on everything but the queue. -/
def exec (i : Instr) (s : State) : Host.Outcome State Fault Refusal :=
  match i with
  | .reset => Sys2Proof.Machine.execReset s
  | .pwrlowAssert => Sys2Proof.Machine.execPwrlowAssert s
  | .pwrlowRelease => Sys2Proof.Machine.execPwrlowRelease s
  | .frameSync clocks adin ord => Sys2Proof.Machine.execFrameSync clocks adin ord s
  | .watchdogExpiry => Sys2Proof.Machine.execWatchdogExpiry s
  | .holdDeadline p code => Sys2Proof.Machine.execHoldDeadline p code s
  | .windowDeadline p code => Sys2Proof.Machine.execWindowDeadline p code s
  | .backgroundLockout who => Sys2Proof.Machine.execBackgroundLockout who s
  | .writeTimeout => Sys2Proof.Machine.execWriteTimeout s
  | .windowRequestTimeout p => Sys2Proof.Machine.execWindowRequestTimeout p s
  | .refreshDue => Sys2Proof.Machine.execRefreshDue s
  | .arbiterGrant => Sys2Proof.Machine.execArbiterGrant s
  | .refreshComplete => Sys2Proof.Machine.execRefreshComplete s
  | .playbackReadComplete checks => Sys2Proof.Machine.execPlaybackReadComplete checks s
  | .captureWriteComplete => Sys2Proof.Machine.execCaptureWriteComplete s
  | .foldBurstComplete checks => Sys2Proof.Machine.execFoldBurstComplete checks s
  | .windowReadComplete checks => Sys2Proof.Machine.execWindowReadComplete checks s
  | .windowCommitComplete => Sys2Proof.Machine.execWindowCommitComplete s
  | .waitingBurstHandover => Sys2Proof.Machine.execWaitingBurstHandover s
  | .blockTest corrected passed => Sys2Proof.Machine.execBlockTest corrected passed s
  | .memoryTestDone => Sys2Proof.Machine.execMemoryTestDone s
  | .enterSelfRefresh => Sys2Proof.Machine.execEnterSelfRefresh s
  | .requestCut p bytes => Sys2Proof.Machine.execRequestCut p bytes s
  | .unknownRequest h code => Sys2Proof.Machine.execUnknownRequest h code s
  | .readReply p fall n rise => Sys2Proof.Machine.execReadReply p fall n rise s
  | .readEvents p fall n rise => Sys2Proof.Machine.execReadEvents p fall n rise s
  | .windowRead p fall n rise => Sys2Proof.Machine.execWindowRead p fall n rise s
  | .windowWrite p fall bytes rise => Sys2Proof.Machine.execWindowWrite p fall bytes rise s
  | .status h => Sys2Proof.Machine.execStatus h s
  | .identify h => Sys2Proof.Machine.execIdentify h s
  | .setInterest h kinds => Sys2Proof.Machine.execSetInterest h kinds s
  | .setMaskLevel h level => Sys2Proof.Machine.execSetMaskLevel h level s
  | .postNote h note => Sys2Proof.Machine.execPostNote h note s
  | .takeNote h => Sys2Proof.Machine.execTakeNote h s
  | .setTempo h bpm10 beats => Sys2Proof.Machine.execSetTempo h bpm10 beats s
  | .setLength h frames => Sys2Proof.Machine.execSetLength h frames s
  | .setGrid h beats perBar => Sys2Proof.Machine.execSetGrid h beats perBar s
  | .setGrace h frames => Sys2Proof.Machine.execSetGrace h frames s
  | .tap h => Sys2Proof.Machine.execTap h s
  | .playAll h quantum => Sys2Proof.Machine.execPlayAll h quantum s
  | .stopAll h quantum => Sys2Proof.Machine.execStopAll h quantum s
  | .clearAll h quantum => Sys2Proof.Machine.execClearAll h quantum s
  | .record h track quantum => Sys2Proof.Machine.execRecord h track quantum s
  | .overdub h track quantum => Sys2Proof.Machine.execOverdub h track quantum s
  | .replace h track quantum => Sys2Proof.Machine.execReplace h track quantum s
  | .close h track quantum => Sys2Proof.Machine.execClose h track quantum s
  | .mute h track quantum => Sys2Proof.Machine.execMute h track quantum s
  | .unmute h track quantum => Sys2Proof.Machine.execUnmute h track quantum s
  | .undo h track quantum => Sys2Proof.Machine.execUndo h track quantum s
  | .redo h track quantum => Sys2Proof.Machine.execRedo h track quantum s
  | .clearTrack h track quantum => Sys2Proof.Machine.execClearTrack h track quantum s
  | .setTrack h track feedback front ear sources => Sys2Proof.Machine.execSetTrack h track feedback front ear sources s
  | .setLayerGain h layer gain => Sys2Proof.Machine.execSetLayerGain h layer gain s
  | .readTrack h track => Sys2Proof.Machine.execReadTrack h track s
  | .readLayer h layer => Sys2Proof.Machine.execReadLayer h layer s
  | .cancelCue h cue => Sys2Proof.Machine.execCancelCue h cue s
  | .readCues h => Sys2Proof.Machine.execReadCues h s
  | .setSwitch h code tapAct holdAct doubleAct target quantum => Sys2Proof.Machine.execSetSwitch h code tapAct holdAct doubleAct target quantum s
  | .setPressTiming h hold double => Sys2Proof.Machine.execSetPressTiming h hold double s
  | .switchDown h code => Sys2Proof.Machine.execSwitchDown h code s
  | .switchUp h code => Sys2Proof.Machine.execSwitchUp h code s
  | .selectTrack h track => Sys2Proof.Machine.execSelectTrack h track s
  | .setMonitor h slot front ear => Sys2Proof.Machine.execSetMonitor h slot front ear s
  | .setBus h front ear => Sys2Proof.Machine.execSetBus h front ear s
  | .setClick h enable level => Sys2Proof.Machine.execSetClick h enable level s
  | .setOutput h slot kind number => Sys2Proof.Machine.execSetOutput h slot kind number s
  | .setEdge h frames => Sys2Proof.Machine.execSetEdge h frames s
  | .readClips h clear => Sys2Proof.Machine.execReadClips h clear s
  | .openWindow h layer offset direction mode => Sys2Proof.Machine.execOpenWindow h layer offset direction mode s
  | .closeWindow h => Sys2Proof.Machine.execCloseWindow h s
  | .importLayer h track span start length cover gain => Sys2Proof.Machine.execImportLayer h track span start length cover gain s
  | .setWindowTimeout h millis => Sys2Proof.Machine.execSetWindowTimeout h millis s
  | .setLinkThreshold h frames => Sys2Proof.Machine.execSetLinkThreshold h frames s
  | .clearLinkCount h => Sys2Proof.Machine.execClearLinkCount h s
  | .readFaults h => Sys2Proof.Machine.execReadFaults h s
  | .clearFaults h sequence => Sys2Proof.Machine.execClearFaults h sequence s
  | .rest h => Sys2Proof.Machine.execRest h s
  | .wake h => Sys2Proof.Machine.execWake h s
  | .resetPart h => Sys2Proof.Machine.execResetPart h s
  | .resetnLow => Sys2Proof.Machine.execResetnLow s

end Sys2Proof.Machine
end

