-- ==== Sys2Proof/Machine/Step.lean ====
section
/-! DEFINITION. One step: the command at the front of the queue, or one crystal period of the millisecond timebase when the queue is empty. -/
namespace Sys2Proof.Machine

open Sys2Proof

/-- One crystal period goes by: the millisecond timebase alone moves (log entry 2). -/
def State.idle (s : State) : State := { s with now := s.now + 1 }

/-- The step: the command at the front of the queue runs on the state with the queue's rest. On an empty queue the block idles for one crystal period. DESIGN CHOICE, log entry 2. -/
def step (s : State) : Host.Outcome State Fault Refusal :=
  match s.pending with
  | [] => .next s.idle
  | c :: rest => exec c { s with pending := rest }

/-- The state with the command that a table word spells put at the front of its queue. The table gives no row any bits, so no word spells one and the state is unchanged. -/
def State.withFetchWord (s : State) (nbits w : Nat) : State :=
  match decodeTableWord nbits w with
  | some c => { s with pending := c :: s.pending }
  | none => s

end Sys2Proof.Machine
end

