-- ==== Sys2Proof/Safety.lean ====
section
/-! DEFINITION. What counts as a safe run, the invariants, and the vocabulary that statements use. -/
namespace Sys2Proof.Machine

open Sys2Proof

/-! ### Runs -/

/-- A step that goes on: it answers a next state, neither a fault nor a refusal. -/
def goesOn (s : State) : Prop := ∃ t, step s = .next t

/-- The states that steps reach from a state, with commands appended to the queue between steps by the outside. -/
inductive Reaches : State → State → Prop where
  | here (s : State) : Reaches s s
  | step {s t u : State} (h : Reaches s t) (hs : Sys2Proof.Machine.step t = .next u) : Reaches s u
  | command {s t : State} (c : Instr) (h : Reaches s t) : Reaches s { t with pending := t.pending ++ [c] }

/-! ### Invariants -/

/-- An event queue and its lost count within their ranges (R201, 11.1). -/
def PortCtl.bounded (c : PortCtl) : Prop := c.queue.length ≤ 32 ∧ c.lost ≤ 255

/-- Both event queues and lost counts within their ranges (R201, 11.1). -/
def QueuesBounded (a b : PortCtl) : Prop := a.bounded ∧ b.bounded

/-- The cycle timer within its ranges (1.1), with what its state says of L, position and origin pending: L is present exactly in RUNNING and PAUSED, is 9,600 to 2,880,000 and lies above the position, EMPTY stands at 0, DEFINING at 2,880,000 or below, and origin is pending only in RUNNING. -/
structure CycleInRange (c : Cycle) : Prop where
  beats : 1 ≤ c.beats ∧ c.beats ≤ 64
  perBar : 1 ≤ c.perBar ∧ c.perBar ≤ 16
  grace : c.grace ≤ 4800
  pass : c.pass < 256
  frameCount : c.frameCount < 4294967296
  gen : c.gen < 65536
  taps : c.tap.count ≤ 3
  ignored : c.ignoredTaps ≤ 255
  length : ∀ len, c.len = some len → 9600 ≤ len ∧ len ≤ 2880000 ∧ c.pos < len
  present : c.len.isSome = true ↔ c.state = .running ∨ c.state = .paused
  empty : c.state = .empty → c.pos = 0
  origin : c.origin = true → c.state = .running
  defining : c.state = .defining → c.pos ≤ 2880000

/-- A write-behind queue of at most 8 bursts (7.5). -/
def BurstsWithin (l : List Burst) : Prop := l.length ≤ 8

/-- The folding pairs of a stack. -/
def stackPairs : List Entry → List (Nat × Nat)
  | [] => []
  | .pair o n :: l => (o, n) :: stackPairs l
  | .single _ :: l => stackPairs l

/-- The folding pair of the fold engine on a track: older and newer member, or none (R43). -/
def State.foldPair (t : TrackId) (s : State) : List (Nat × Nat) :=
  match s.fold with
  | some f => if f.track = t then [(f.older, f.newer)] else []
  | none => []

/-- Whether a layer id stands in a track's stack, in a redo list or in the fold result slot (R27). -/
def State.placed (id : Nat) (s : State) : Prop :=
  (∃ t, id ∈ stackIds (s.track t).stack ∨ id ∈ (s.track t).redo) ∨ ∃ f, s.fold = some f ∧ f.result = id

/-- The layer pool, the stacks and the cue list within their bounds (R27, R29, R43, R85): layer records of ids 1 to 40, each listed once and placed in a stack, a redo list or the fold result slot; at most 8 entries in a stack, one folding pair in the stack of the fold's track and none in another, at most 4 layers in a redo list; at most 16 cues, one for each slot; capture records and windows of layers in use alone. -/
structure PoolsWithin (s : State) : Prop where
  ids : s.layers.Pairwise (fun e f => e.1 < f.1)
  range : ∀ e ∈ s.layers, 1 ≤ e.1 ∧ e.1 ≤ 40
  placed : ∀ e ∈ s.layers, s.placed e.1
  stack : ∀ t, (s.track t).stack.length ≤ 8
  redo : ∀ t, (s.track t).redo.length ≤ 4
  pairs : ∀ t, stackPairs (s.track t).stack = s.foldPair t
  records : ∀ (i : Fin 12) (r : CapRec), s.capture.records[i] = some r → (s.layer? r.layer).isSome = true
  windows : ∀ (p : Port) (w : Window), s.window p = some w → (s.layer? w.layer).isSome = true
  cues : s.cues.entries.length ≤ 16
  slots : s.cues.entries.Pairwise (fun c d => ¬ (c.target = d.target ∧ c.action.family = d.action.family))

/-- The blocks on the extent lists of all layers in use, layer by layer. -/
def State.extentBlocks (s : State) : List Nat := s.layers.flatMap fun e => e.2.extents

/-- Every block in one place (R137): the free list, the bad-block list and the extent lists hold each block that has been tested once, which is every one of the 4,096 once the memory mode has left TEST. The mode is TEST exactly in STARTING (R159, R207). -/
structure BlocksInOnePlace (s : State) : Prop where
  ids : s.layers.Pairwise (fun e f => e.1 < f.1)
  tested : s.mem.testNext ≤ 4096
  once : (s.mem.free ++ s.mem.bad ++ s.extentBlocks).Perm
    (List.range (if s.mem.mode = .test then s.mem.testNext else 4096))
  starting : s.power.part = .starting ↔ s.mem.mode = .test

/-- A hard fault held by the recorder, with the sequence number standing at q (R177). -/
def HardHeld (r : Occurrence × Nat) (q : Nat) (f : Faults) : Prop :=
  f.record = some r ∧ f.seq = q ∧ r.1.kind.hard = true

/-! ### Read-ahead buffers as statements see them (R147, R149) -/

/-- The buffer that R149 leaves a layer of `n` samples from track position `start` on, on a track of a span: no samples, no read in flight, aim and fill offset at the offset of the next track position to arrive where the cycle is RUNNING and that offset lies within the layer, and at 0 otherwise. -/
def Cycle.aimedBuffer (c : Cycle) (span : Option Nat) (start n : Nat) : ReadBuf :=
  let k := match c.state, c.len, span with
    | .running, some len, some x =>
      let wraps := !c.origin && c.pos + 1 == len
      let pass := if wraps then (c.pass + 1) % 256 else c.pass
      let q := pass % x * len + if c.origin || wraps then 0 else c.pos + 1
      if start ≤ q ∧ q < start + n then q - start else 0
    | _, _, _ => 0
  { aim := k, fill := k, data := [], flight := false }

/-- Whether a layer's buffer is in use: CLOSED, or FOLDING as a member of the pair, or OPEN on a track with a span (R147). -/
def State.BufferUsed (s : State) (id : Nat) (l : Layer) : Prop :=
  l.state = .closed ∨ (l.state = .folding ∧ ∀ f, s.fold = some f → f.result ≠ id)
    ∨ (l.state = .opened ∧ (s.track l.track).span ≠ none)

/-- Where the offsets of a layer end for its buffer: at the samples taken so far while it is OPEN, and at its length otherwise (R59, R147). -/
def State.bufferEnd (s : State) (id : Nat) (l : Layer) : Nat :=
  if l.state = .opened then
    match s.recordOf id with
    | some r => stampSub (stampAdd s.cycle.frameCount 1) r.startStamp
    | none => 0
  else l.length

/-- Whether a buffer of a layer that ends at `stop` looks at a range: it holds 64 samples or fewer with no read in flight, and the range goes from the fill offset, 0 past the end of a layer that is not OPEN, to the end of its burst range or of the layer (R147). -/
def ReadBuf.LooksAt (b : ReadBuf) (l : Layer) (stop : Nat) (r : Range) : Prop :=
  b.data.length ≤ 64 ∧ b.flight = false
    ∧ r.first = (if l.state ≠ .opened ∧ stop ≤ b.fill then 0 else b.fill) ∧ r.first < stop
    ∧ r.len = min (64 - r.first % 64) (stop - r.first)

/-- A buffer with the samples of a range placed: they follow those held, the fill offset moves past the range, to 0 at the end of a layer that is not OPEN, and no read is in flight (R147). -/
def ReadBuf.placed (b : ReadBuf) (l : Layer) (stop : Nat) (r : Range) (xs : List Sample) : ReadBuf :=
  { aim := b.aim
    fill := if l.state ≠ .opened ∧ stop ≤ r.first + r.len then 0 else r.first + r.len
    data := b.data ++ xs, flight := false }

/-- Whether every offset of a range lies within holes of a layer (R146). -/
def Layer.SilentOver (l : Layer) (r : Range) : Prop :=
  ∀ o, r.first ≤ o → o < r.first + r.len → inRanges o l.holes = true

/-- A buffer topped up: while the range it looks at lies wholly in holes, zeros are placed for it (R147). -/
inductive ToppedUp (l : Layer) (stop : Nat) : ReadBuf → ReadBuf → Prop where
  | done (b : ReadBuf) (h : ∀ r, b.LooksAt l stop r → ¬ l.SilentOver r) : ToppedUp l stop b b
  | more (b c : ReadBuf) (r : Range) (look : b.LooksAt l stop r) (silent : l.SilentOver r)
      (rest : ToppedUp l stop (b.placed l stop r (List.replicate r.len 0)) c) : ToppedUp l stop b c

/-! ### Capture records as statements see them (R67) -/

/-- Every capture record is in use, and record i is the DRAINING one whose layer closed earliest: its close order lies farthest back from the counter (R67). -/
def State.ClosedEarliest (s : State) (i : Fin 12) (r : CapRec) : Prop :=
  s.capture.records[i] = some r ∧ r.phase = .draining ∧ (∀ j : Fin 12, s.capture.records[j] ≠ none)
    ∧ ∃ c, r.closeOrder = some c ∧ ∀ (j : Fin 12) (q : CapRec), s.capture.records[j] = some q →
      q.phase = .draining → j ≠ i → ∃ d, q.closeOrder = some d
        ∧ (s.capture.closeOrder + 65536 - d % 65536) % 65536 < (s.capture.closeOrder + 65536 - c % 65536) % 65536

/-- A range of a layer lost to the capture unit: a hole, the layer damaged, and a hard fault WRITE OVERRUN at the current place (R65, R67). -/
def State.lostTo (id : Nat) (l : Layer) (r : Range) (s : State) : State :=
  (s.setLayer id { l with holes := addHole r l.holes, damaged := true }).takeFault
    { kind := .writeOverrun, requester := .capture, block := l.extents[r.first / 4096]?, layer := some id
      track := some l.track, pass := s.cycle.pass, pos := s.cycle.shownPos }

/-- How record i comes to be free for a layer that opens (R67): it is the free one of lowest index and nothing changes; or, with none free, it is the DRAINING one whose layer closed earliest, and the offsets it has not handed over are lost, with the blocks they still need taken from the free list. -/
def State.RecordRoom (s : State) (i : Fin 12) (w : State) : Prop :=
  (s.capture.records[i] = none ∧ (∀ j : Fin 12, j < i → s.capture.records[j] ≠ none) ∧ w = s)
  ∨ ∃ (r : CapRec) (l : Layer) (e stop k : Nat), s.ClosedEarliest i r ∧ s.layer? r.layer = some l
    ∧ r.endStamp = some e ∧ stop = stampSub e r.startStamp ∧ r.nextOff < stop
    ∧ ceilDiv r.nextOff 4096 ≤ l.extents.length ∧ k = ceilDiv stop 4096 - l.extents.length
    ∧ k ≤ s.mem.free.length
    ∧ w = ({ s with mem := { s.mem with free := s.mem.free.drop k } }).lostTo r.layer
        { l with extents := l.extents ++ s.mem.free.take k } { first := r.nextOff, len := stop - r.nextOff }

/-! ### Requests as statements see them -/

/-- The part serves a request of the table's length `len`: RESETN is high, the part is not STARTING, and the declared length is the table's (R187, R188, R207). -/
def State.serves (s : State) (h : Req) (len : Nat) : Prop :=
  s.power.resetHeld = false ∧ s.power.part ≠ .starting ∧ h.len.toNat = len

/-- The state in which an owner finds the part: the REQUEST transfer over, its bytes out shifted, and the slot taking the request's tag and code (R185, R187, R189). -/
def State.handedOn (h : Req) (code : Nat) (s : State) : State :=
  s.setPort h.port
    { s.port h.port with
      transfer := none
      shifted := s.requestByte h.port :: List.replicate (3 + h.len.toNat) 0
      reply := .pending h.tag (BitVec.ofNat 8 code) }

/-- The state once the reply to a request stands in its port's slot (R189). -/
def State.replied (h : Req) (code : Nat) (st : Status) (results : List Byte) (s : State) : State :=
  s.setPort h.port
    { s.port h.port with
      reply := .full { status := st, tag := h.tag, code := BitVec.ofNat 8 code, results := results } }

/-- The state in which a request whose length is fixed leaves the cycle timer: RUNNING at position 0 of pass 0 with origin pending, the tap sequence empty and the generation one on, the flags of the pass cleared, and CYCLE DEFINED and CYCLE RUNNING raised (R10 to R12, R2). -/
def State.fixed (len : Nat) (d : DefinedBy) (s : State) : State :=
  ({ s with
      cycle := { s.cycle with
        state := .running, len := some len, pos := 0, pass := 0, origin := true,
        gen := (s.cycle.gen + 1) % 65536, tap := { count := 0, last := 0, sum := 0 } }
      mixer := { s.mixer with frontReported := false, earReported := false }
      audio := { s.audio with passErrors := 0, reported := false } }.raise .cycleDefined none none
    d.ctorIdx).raise .cycleRunning none none 0

/-- The results of an action that acted at once at the current frame, not back-dated: pass, position and flag (R20, R83, R90). -/
def Cycle.nowBytes (c : Cycle) : List Byte := bytes 1 c.pass ++ bytes 3 c.shownPos ++ [0]

/-- The request for a quantised action, with its track byte where it has one (R80). -/
def Action.request (h : Req) (track quantum : Byte) : Action → Instr
  | .record => .record h track quantum
  | .overdub => .overdub h track quantum
  | .replace => .replace h track quantum
  | .close => .close h track quantum
  | .mute => .mute h track quantum
  | .unmute => .unmute h track quantum
  | .undo => .undo h track quantum
  | .redo => .redo h track quantum
  | .stopAll => .stopAll h quantum
  | .playAll => .playAll h quantum

/-- The code of the request for a quantised action (R197). -/
def Action.code : Action → Nat
  | .record => 32
  | .overdub => 33
  | .replace => 34
  | .close => 35
  | .mute => 36
  | .unmute => 37
  | .undo => 38
  | .redo => 39
  | .stopAll => 22
  | .playAll => 21

/-- The argument length of the request for a quantised action (R197). -/
def Action.argLen (a : Action) : Nat := if a.isAll then 1 else 2

/-- The target of the request for a quantised action: ALL for the whole cycle, and a track otherwise (R80). -/
def Action.targetOf (track : Byte) (a : Action) : Option (Option TrackId) :=
  if a.isAll then some none else (argTrack track).map some

/-- A completion whose bytes are all good words (R139). -/
def allGood (checks : List WordCheck) : Prop := ∀ i, checkAt checks i = .good

end Sys2Proof.Machine
end

