-- ==== Sys2Proof/WellFormed.lean ====
section
/-! DEFINITION. What a well-formed command is: one that the pins and ports of the part can bring, with every operand that stands for nothing at its one value. -/
namespace Sys2Proof

/-- Whether every argument field of a request is 0: what a request that is refused before its arguments are read carries. -/
def Instr.argumentsZero (i : Instr) : Bool :=
  match requestFields i with
  | some (_, _, _, a) => a.all (· == 0)
  | none => true

/-- A request's declared length is its table's, or its arguments are not read and stand as 0 (R187, R188). -/
def Instr.lengthWf (i : Instr) : Bool :=
  match i with
  | .postNote h note => if h.len.toNat ≤ 60 then decide (note.length = h.len.toNat) else note.isEmpty
  | _ =>
    match requestFields i with
    | some (h, _, n, _) => decide (h.len.toNat = n) || i.argumentsZero
    | none => true

/-- Input bits past the bit clocks of the frame are 0 (R163). -/
def bitsWithin (clocks : Nat) (adin : BitVec 256) : Bool :=
  decide (256 ≤ clocks) || adin.extractLsb' 0 (256 - clocks) == 0

/-- The tracks that an order of work names once each, and the records it names once each. -/
def Order.wf (o : Order) : Bool :=
  decide (o.records.Nodup) && decide ((o.work.filterMap id).Nodup)

/-- A REQUEST transfer that ended before its declared length (R187). -/
def cutWf (arrived : List Byte) : Bool :=
  match arrived with
  | _ :: _ :: len :: a => decide (len.toNat ≤ 60) && decide (a.length < len.toNat)
  | _ => true

/-- Whether a code names a request (R197). -/
def namesRequest (code : Byte) : Bool := code.toNat == 5 || (tableLength code).isSome

/-- Whether a byte is the transfer code of WINDOW WRITE, or no transfer code at all (R185). -/
def namesNoOther (b : Byte) : Bool := b == 5 || b == 0 || decide (5 < b.toNat)

/-- Whether a command is well formed. -/
def Instr.wf (i : Instr) : Bool :=
  match i with
  | .frameSync clocks adin ord => bitsWithin clocks adin && ord.wf
  | .playbackReadComplete checks => decide (checks.length ≤ 64)
  | .foldBurstComplete checks => decide (checks.length ≤ 64)
  | .windowReadComplete checks => decide (checks.length ≤ 64)
  | .blockTest corrected _ => decide (corrected ≤ 8192)
  | .requestCut _ arrived => cutWf arrived
  | .unknownRequest _ code => !namesRequest code
  | .windowWrite _ fall arrived _ => !fall || arrived.head?.all namesNoOther
  | _ => i.lengthWf

end Sys2Proof
end

