-- ==== Sys2Proof/Certificates/Slice0/Obligations.lean ====
section
/-! DEFINITION. The statements for the provers, each with the rules of spec/ it rests on. Requests are stated by the state handed on to their owner and the reply it leaves (Safety.lean). -/
section

open Sys2Proof Sys2Proof.Machine

/-- A step runs the command at the front of the queue. -/
def Obligations.StepRunsFrontCommand : Prop :=
  ∀ (c : Instr) (rest : List Instr) (s : State),
    step { s with pending := c :: rest } = exec c { s with pending := rest }

/-- The state right after reset holds the value that each chapter gives. (R55, R79, R102, R116, R136, R162, R173, R186, R198, R207). -/
def Obligations.ResetStateValues : Prop :=
  State.reset.power.part = .starting
    ∧ State.reset.cycle =
      { state := .empty, len := none, pos := 0, origin := false, pass := 0, beats := 8, perBar := 4,
        grace := 2400, frameCount := 0, gen := 0, tap := { count := 0, last := 0, sum := 0 }, ignoredTaps := 0 }
    ∧ (∀ t : TrackId, State.reset.track t =
        { state := .empty, span := none, heldSpan := none, feedback := 32768,
          sources := BitVec.ofNat 8 (2 ^ t.val), frontSend := 32768, earSend := 32768, muteTarget := 32768,
          ramp := 32768, stack := [], redo := [], openLayer := none, marker := none, foldClips := 0 })
    ∧ State.reset.power.latch = State.reset.power.pin
    ∧ State.reset.layers = [] ∧ State.reset.fold = none ∧ State.reset.capture.closeOrder = 0
    ∧ (∀ stamp, State.reset.capture.ringAt stamp = silence)
    ∧ (∀ i : Fin 12, State.reset.capture.records[i] = none)
    ∧ State.reset.cues = { entries := [], nextId := 1 }
    ∧ State.reset.switches.holdMs = 500 ∧ State.reset.switches.doubleMs = 250
    ∧ (∀ (p : Port) (c : SwitchCode), State.reset.machine p c = .up)
    ∧ (∀ c : SwitchCode, State.reset.switches.map[c] =
        { tap := .none, hold := none, double := none, target := .track 0, quantum := .none })
    ∧ (∀ p : Port, (State.reset.switchPort p).selected = 0 ∧ (State.reset.switchPort p).last = none
        ∧ (State.reset.switchPort p).issues = 0)
    ∧ (∀ t : TrackId, State.reset.switches.recent[t] = none)
    ∧ (∀ i : SlotId, State.reset.mixer.frontMonitor[i] = 0 ∧ State.reset.mixer.earMonitor[i] = 0)
    ∧ State.reset.mixer.frontBus = 32768 ∧ State.reset.mixer.earBus = 32768
    ∧ State.reset.mixer.clickOn = false ∧ State.reset.mixer.clickLevel = 1048576
    ∧ State.reset.mixer.edge = 96 ∧ State.reset.mixer.burst = none
    ∧ State.reset.mixer.frontClips = 0 ∧ State.reset.mixer.earClips = 0
    ∧ State.reset.mixer.frontReported = false ∧ State.reset.mixer.earReported = false
    ∧ State.reset.mixer.outputs =
        #v[.front, .front, .ear, .ear, .silent, .silent, .silent, .silent]
    ∧ State.reset.mem.mode = .test ∧ State.reset.mem.free = [] ∧ State.reset.mem.bad = []
    ∧ State.reset.mem.queue = [] ∧ State.reset.mem.grant = none
    ∧ State.reset.mem.refreshWaiting = false ∧ State.reset.mem.pointer = .fold
    ∧ (∀ who : Background, State.reset.waitOf who = { start := none, raised := false })
    ∧ (∀ p : Port, State.reset.window p = none)
    ∧ State.reset.mem.timeoutA = 64 ∧ State.reset.mem.timeoutB = 64
    ∧ State.reset.audio.present = false ∧ State.reset.audio.threshold = 16
    ∧ State.reset.audio.linkErrors = 0 ∧ State.reset.audio.passErrors = 0 ∧ State.reset.audio.reported = false
    ∧ State.reset.audio.held = silence ∧ State.reset.audio.pendingOut = silence
    ∧ State.reset.audio.sending = silence ∧ State.reset.audio.frame = none
    ∧ State.reset.audio.lastSync = none ∧ State.reset.audio.lossStart = none
    ∧ State.reset.faults.record = none ∧ State.reset.faults.seq = 0 ∧ State.reset.faults.summary = false
    ∧ (∀ k : FaultKind, State.reset.faults.seen k = false)
    ∧ State.reset.faults.correctedCount = 0 ∧ State.reset.faults.underrunCount = 0
    ∧ State.reset.faults.second = false
    ∧ (∀ p : Port, (State.reset.port p).transfer = none ∧ (State.reset.port p).reply = .empty ∧ (State.reset.port p).queue = []
        ∧ (State.reset.port p).lost = 0 ∧ (State.reset.port p).mask = .opened
        ∧ (State.reset.port p).mailbox = none
        ∧ (∀ k, (State.reset.port p).interest.getLsbD k = (decide (1 ≤ k ∧ k ≤ 30) && k != 3 && k != 4)))

/-- A refused request changes nothing but its reply slot. (R188, R194). -/
def Obligations.RefusedRequestChangesReplyOnly : Prop :=
  ∀ (i : Instr) (h : Req) (code : Byte) (n : Nat) (args : List Byte) (s t : State) (r : Reply),
    requestFields i = some (h, code, n, args) → i ≠ .closeWindow h → s.power.resetHeld = false →
    exec i s = .next t → (t.port h.port).reply = .full r →
    r.status ≠ .ok → r.status ≠ .accepted → r.status ≠ .joined →
    t = (s.handedOn h code.toNat).replied h code.toNat r.status r.results

/-- Reading the bytes of a well-formed REQUEST transfer gives the command back. (R185, R187, R197). What the spec leaves open here is the model's choice: log entry 45. -/
def Obligations.RequestBytesRoundTrip : Prop :=
  (∀ (i : Instr) (p : Port) (l : List Byte), i.wf = true → requestPort i = some p →
    encodeRequest i = some l → decodeRequest p l = some i ∧ decodeTransfer p l true = some i)
    ∧ (∀ (p : Port) (b : Byte) (l : List Byte) (rise : Bool),
      decodeTransfer p [] rise = none
      ∧ (b = 1 → decodeTransfer p (b :: l) false = none)
      ∧ (b = 2 → decodeTransfer p (b :: l) rise = some (.readReply p true (l.length + 1) rise))
      ∧ (b = 3 → decodeTransfer p (b :: l) rise = some (.readEvents p true (l.length + 1) rise))
      ∧ (b = 4 → decodeTransfer p (b :: l) rise = some (.windowRead p true (l.length + 1) rise))
      ∧ (b = 5 ∨ b = 0 ∨ 5 < b.toNat → decodeTransfer p (b :: l) rise = some (.windowWrite p true (b :: l) rise)))

/-- A number is sent in its bytes most significant first. (R197). -/
def Obligations.NumbersMostSignificantFirst : Prop :=
  ∀ w n : Nat, (bytes w n).length = w
    ∧ (bytes w n).foldl (fun acc b => acc * 256 + b.toNat) 0 = n % 256 ^ w

/-- Every step keeps the loop memory in canonical form. (R139, R144). -/
def Obligations.MemoryStaysCanonical : Prop :=
  ∀ s t : State, Memory.wf s.mem → step s = .next t → Memory.wf t.mem

/-- Every step keeps event queues within 32 entries, lost counts within 255 and the write-behind queue within 8 bursts. (R143, R201, R202). -/
def Obligations.QueuesStayWithin : Prop :=
  ∀ s t : State, step s = .next t →
    (QueuesBounded s.portA s.portB → QueuesBounded t.portA t.portB)
    ∧ (BurstsWithin s.mem.queue → BurstsWithin t.mem.queue)

/-- Every step keeps the cycle timer in its ranges. (R2, R5, R8, R13, R15). -/
def Obligations.CycleStaysInRange : Prop :=
  ∀ s t : State, CycleInRange s.cycle → step s = .next t → CycleInRange t.cycle

/-- Every step keeps the layer pool, the stacks, the redo lists and the cue list within their bounds. (R27, R28, R29, R43, R85). -/
def Obligations.PoolsAndStacksStayWithin : Prop :=
  ∀ s t : State, PoolsWithin s → step s = .next t → PoolsWithin t

/-- Every step keeps every tested block of the loop memory in one place. (R28, R137, R159). -/
def Obligations.BlocksStayInOnePlace : Prop :=
  ∀ s t : State, BlocksInOnePlace s → step s = .next t → BlocksInOnePlace t

/-- The state right after reset meets every stated invariant. (R207). -/
def Obligations.ResetMeetsInvariants : Prop :=
  Memory.wf State.reset.mem ∧ QueuesBounded State.reset.portA State.reset.portB
    ∧ CycleInRange State.reset.cycle ∧ BurstsWithin State.reset.mem.queue
    ∧ PoolsWithin State.reset ∧ BlocksInOnePlace State.reset

/-- A held hard fault stands until CLEAR FAULTS or a reset. (R177, R178). -/
def Obligations.HeldHardFaultStands : Prop :=
  ∀ (c : Instr) (s t : State) (r : Occurrence × Nat) (q : Nat), HardHeld r q s.faults →
    c ≠ .reset → c ≠ .resetnLow → (∀ h, c ≠ .resetPart h) → (∀ h n, c ≠ .clearFaults h n) →
    exec c s = .next t → HardHeld r q t.faults

/-- The frame count moves by one at each arrival in STARTING or RUN, and on a cycle not RUNNING only a defining recording moves on, up to its limit. (R3, R5, R8, R74, R149, R163). What the spec leaves open here is the model's choice: log entry 13. -/
def Obligations.FrameCountCountsArrivals : Prop :=
  (∀ (c : Instr) (s t : State), c ≠ .reset → c ≠ .resetnLow → (∀ h, c ≠ .resetPart h) →
    exec c s = .next t →
    t.cycle.frameCount =
      (match c with
       | .frameSync .. =>
         if s.power.resetHeld = false ∧ s.audio.frame.isSome = true ∧ s.power.part ≠ .rest then
           (s.cycle.frameCount + 1) % 4294967296
         else s.cycle.frameCount
       | _ => s.cycle.frameCount))
    ∧ (∀ (n : Nat) (bits : BitVec 256) (ord : Order) (f : FrameIn) (s : State),
      s.power.resetHeld = false → s.power.part = .run → s.audio.frame = some f → s.cycle.state ≠ .running →
      ∃ (v t : State), exec (.frameSync n bits ord) s = .next t
        ∧ v.cycle = { s.cycle with
            frameCount := (s.cycle.frameCount + 1) % 4294967296
            pos := if s.cycle.state = .defining then min 2880000 (s.cycle.pos + 1) else s.cycle.pos }
        ∧ v.tracks = s.tracks ∧ v.layers = s.layers ∧ v.cues = s.cues ∧ v.capture = s.capture
        ∧ v.mem = s.mem ∧ v.fold = s.fold ∧ v.switches = s.switches ∧ v.power = s.power
        ∧ v.mixer = s.mixer ∧ v.portA = s.portA ∧ v.portB = s.portB ∧ t.cues = s.cues
        ∧ (s.cycle.state ≠ .defining → t.cycle = v.cycle)
        ∧ (s.audio.present = true → f.count + n = 256 →
          t = v.arrivalWork ord (frameSamples (f.bits ||| bits)) none))
    ∧ (∀ (ts : List TrackId) (s : State), s.cycle.state = .empty ∨ s.cycle.state = .paused
      ∨ s.cycle.state = .defining ∧ s.cycle.pos < 2880000 → s.closeLimits ts = s)
    ∧ (∀ (t : TrackId) (id : Nat) (l : Layer) (r : CapRec) (s : State), s.cycle.state = .defining →
      s.cycle.pos = 2880000 → (s.track t).state = .recording → (s.track t).openLayer = some id →
      (∀ t', t' ≠ t → (s.track t').openLayer = none) → s.layer? id = some l → l.start = .first 0 0 →
      s.recordOf id = some r → stampSub (stampAdd s.cycle.frameCount 1) r.startStamp = 2880000 →
      ∃ (u : State) (l' : Layer), s.closeLimits (List.finRange 6) = u
        ∧ u.cycle = { s.cycle with
            state := .running, len := some 2880000, pos := 0, pass := 0, origin := true
            gen := (s.cycle.gen + 1) % 65536 }
        ∧ u.track t = { s.track t with
            state := .playing, span := some 1, heldSpan := none, openLayer := none, marker := none }
        ∧ (∀ t', t' ≠ t → u.track t' = s.track t')
        ∧ u.layer? id = some l' ∧ l' = { l with
            state := .closed, start := .at 0, length := 2880000, tail := true
            extents := l.extents.take 704
            suspects := l.suspects.filter (fun b => (l.extents.take 704).contains b)
            holes := cutRanges 2880000 l.holes, stored := cutRanges 2880000 l.stored
            buf := { aim := 0, fill := 0, data := [], flight := false } })

/-- Only write completions and resets change a word of the loop memory (for BLOCK TEST the model's choice, log entry 3). (R144, R150, R153, R159). What the spec leaves open here is the model's choice: log entry 3. -/
def Obligations.OnlyWritesChangeLoopMemory : Prop :=
  ∀ (c : Instr) (s t : State), c ≠ .reset → c ≠ .resetnLow → (∀ h, c ≠ .resetPart h) →
    c ≠ .captureWriteComplete → (∀ l, c ≠ .foldBurstComplete l) → c ≠ .windowCommitComplete →
    exec c s = .next t → ∀ a, t.mem.readWord a = s.mem.readWord a

/-- Only pins, the end of the test, REST, WAKE and resets change power control. (R206, R207, R208, R209, R210). -/
def Obligations.OnlyPowerCommandsMoveThePart : Prop :=
  ∀ (c : Instr) (s t : State), c ≠ .reset → c ≠ .resetnLow → (∀ h, c ≠ .resetPart h) →
    c ≠ .pwrlowAssert → c ≠ .pwrlowRelease → c ≠ .memoryTestDone → (∀ h, c ≠ .rest h) →
    (∀ h, c ≠ .wake h) → exec c s = .next t → t.power = s.power

/-- Every step goes on; on an empty queue one crystal period goes by (the model's choice, log entry 2). (R194). What the spec leaves open here is the model's choice: log entry 2. -/
def Obligations.EveryStepGoesOn : Prop :=
  ∀ s : State,
    (∀ (c : Instr) (rest : List Instr), s.pending = c :: rest →
      ∃ t, step s = .next t ∧ t.pending = rest ∧ t.now = s.now)
    ∧ (s.pending = [] → step s = .next { s with now := s.now + 1 })

/-- The three resets put every block at its reset values, and a part held in reset ignores the rest. (R185, R186, R206, R207). What the spec leaves open here is the model's choice: log entries 1, 2, 28. -/
def Obligations.ResetsAndTheHeldPart : Prop :=
  ∀ (s : State) (cut : PortCtl → PortCtl), cut = (fun c => { PortCtl.reset with
      transfer := c.transfer.map fun _ =>
        { kind := .ignored, stateByte := 0, count := 0, latch := .absent, event := none, partIn := [] } }) →
    exec .reset s = .next { State.afterReset s.pending s.now s.power.pin false with
      portA := cut s.portA, portB := cut s.portB }
    ∧ exec .resetnLow s = .next { State.afterReset s.pending s.now s.power.pin true with
      portA := cut s.portA, portB := cut s.portB }
    ∧ (∀ h : Req, s.serves h 0 →
      exec (.resetPart h) s = .next { State.afterReset s.pending s.now s.power.pin false with
        portA := cut (s.handedOn h 114).portA, portB := cut (s.handedOn h 114).portB })
    ∧ (∀ c : Instr, s.power.resetHeld = true →
      c ≠ .reset → c ≠ .resetnLow → c ≠ .pwrlowAssert → c ≠ .pwrlowRelease → exec c s = .next s)

/-- Requests are screened: code, STARTING, argument length, and cut transfers. (R185, R187, R188, R194). What the spec leaves open here is the model's choice: log entry 34. -/
def Obligations.RequestsAreScreened : Prop :=
  ∀ s : State, s.power.resetHeld = false →
    (∀ p : Port, ((s.port p).transfer = none → s.requestByte p = s.stateByte p)
      ∧ (∀ x, (s.port p).transfer = some x → x.kind ≠ .ignored → x.count = 0 → s.requestByte p = x.stateByte)
      ∧ (∀ x, (s.port p).transfer = some x → x.kind = .ignored ∨ x.count ≠ 0 →
        s.requestByte p = s.stateByte p)) ∧
    (∀ (i : Instr) (h : Req) (code : Byte) (n : Nat) (args : List Byte),
      requestFields i = some (h, code, n, args) →
      (i ≠ .status h → i ≠ .identify h → s.power.part = .starting → h.len.toNat ≤ 60 →
        exec i s = .next ((s.handedOn h code.toNat).replied h code.toNat .starting []))
      ∧ (60 < h.len.toNat
          ∨ (s.power.part ≠ .starting ∧ code ≠ 5 ∧ h.len.toNat ≠ n)
          ∨ (s.power.part ≠ .starting ∧ code = 5 ∧ (h.len.toNat = 0 ∨ 16 < h.len.toNat)) →
        exec i s = .next ((s.handedOn h code.toNat).replied h code.toNat .badArg [])))
    ∧ (∀ (p : Port) (arrived : List Byte),
      exec (.requestCut p arrived) s = .next (s.setPort p
        { s.port p with
          transfer := none
          shifted := s.requestByte p :: List.replicate arrived.length 0
          reply := .full
            { status := if (arrived.getD 2 0).toNat ≤ 60 then .cut else .badArg
              tag := arrived.getD 1 0, code := arrived.getD 0 0, results := [] } }))
    ∧ (∀ (h : Req) (code : Byte),
      exec (.unknownRequest h code) s =
        .next ((s.handedOn h code.toNat).replied h code.toNat
          (if 60 < h.len.toNat then .badArg else .unknown) []))

/-- SET TEMPO and SET LENGTH fix an EMPTY cycle, or are refused. (R10, R11). What the spec leaves open here is the model's choice: log entry 9. -/
def Obligations.SetTempoAndSetLengthFixTheCycle : Prop :=
  ∀ (h : Req) (s : State),
    (∀ (bpm10 : BitVec 16) (beats : Byte), s.serves h 3 →
      (s.power.part = .rest →
        exec (.setTempo h bpm10 beats) s = .next ((s.handedOn h 16).replied h 16 .resting []))
      ∧ (s.power.part ≠ .rest → s.cycle.state ≠ .empty →
        exec (.setTempo h bpm10 beats) s = .next ((s.handedOn h 16).replied h 16 .badState []))
      ∧ (s.power.part ≠ .rest → s.cycle.state = .empty → beats.toNat = 0 →
        exec (.setTempo h bpm10 beats) s = .next ((s.handedOn h 16).replied h 16 .badArg []))
      ∧ (s.power.part ≠ .rest → s.cycle.state = .empty → beats.toNat ≠ 0 →
        ∀ b t len : Nat, b = min 64 beats.toNat → t = max 400 (min 2400 bpm10.toNat) →
          len = max 9600 (min 2880000 ((57600000 * b + t) / (2 * t))) →
          exec (.setTempo h bpm10 beats) s =
            .next (({ s.handedOn h 16 with cycle := { s.cycle with beats := b } }.fixed len .tempo).replied
              h 16 .ok (bytes 3 len ++ bytes 1 b))))
    ∧ (∀ frames : BitVec 32, s.serves h 4 →
      (s.power.part = .rest →
        exec (.setLength h frames) s = .next ((s.handedOn h 17).replied h 17 .resting []))
      ∧ (s.power.part ≠ .rest → s.cycle.state ≠ .empty →
        exec (.setLength h frames) s = .next ((s.handedOn h 17).replied h 17 .badState []))
      ∧ (s.power.part ≠ .rest → s.cycle.state = .empty →
        exec (.setLength h frames) s =
          .next (((s.handedOn h 17).fixed (max 9600 (min 2880000 frames.toNat)) .length).replied h 17 .ok
            (bytes 3 (max 9600 (min 2880000 frames.toNat))))))

/-- TAP builds a sequence of four taps that fixes the cycle, and is ignored on a cycle that stands. (R12). What the spec leaves open here is the model's choice: log entry 9. -/
def Obligations.TapSequence : Prop :=
  ∀ (h : Req) (s : State), s.serves h 0 →
    (s.power.part = .rest → exec (.tap h) s = .next ((s.handedOn h 20).replied h 20 .resting []))
    ∧ (s.power.part ≠ .rest → s.cycle.state ≠ .empty →
      exec (.tap h) s =
        .next ({ s.handedOn h 20 with
            cycle := { s.cycle with ignoredTaps := min 255 (s.cycle.ignoredTaps + 1) } }.replied h 20 .ok
          (bytes 1 0 ++ bytes 1 (min 255 (s.cycle.ignoredTaps + 1)))))
    ∧ (s.power.part ≠ .rest → s.cycle.state = .empty →
      ∀ gap : Nat, gap = stampSub s.cycle.frameCount s.cycle.tap.last →
      (s.cycle.tap.count = 0 ∨ gap < 12000 ∨ 72000 < gap →
        exec (.tap h) s =
          .next ({ s.handedOn h 20 with
              cycle := { s.cycle with tap := { count := 1, last := s.cycle.frameCount, sum := 0 } } }.replied
            h 20 .ok (bytes 1 1 ++ bytes 1 s.cycle.ignoredTaps)))
      ∧ (s.cycle.tap.count ≠ 0 → 12000 ≤ gap → gap ≤ 72000 → s.cycle.tap.count < 3 →
        exec (.tap h) s =
          .next ({ s.handedOn h 20 with
              cycle := { s.cycle with
                tap := { count := s.cycle.tap.count + 1, last := s.cycle.frameCount,
                         sum := s.cycle.tap.sum + gap } } }.replied h 20 .ok
            (bytes 1 (s.cycle.tap.count + 1) ++ bytes 1 s.cycle.ignoredTaps)))
      ∧ (12000 ≤ gap → gap ≤ 72000 → 3 ≤ s.cycle.tap.count →
        ∀ len : Nat, len = max 9600 (min 2880000 ((2 * (s.cycle.tap.sum + gap) + 3) / 6 * s.cycle.beats)) →
        exec (.tap h) s =
          .next (((s.handedOn h 20).fixed len .tap).replied h 20 .ok
            (bytes 1 4 ++ bytes 1 s.cycle.ignoredTaps ++ bytes 3 len))))

/-- PLAY ALL starts a PAUSED cycle, STOP ALL with quantum NONE pauses a RUNNING one and closes what is open, and each does nothing on a cycle that is so. (R20, R21, R22, R33, R34, R68, R77, R84, R96, R149). What the spec leaves open here is the model's choice: log entry 46. -/
def Obligations.PlayAllAndStopAll : Prop :=
  (∀ (h : Req) (q : Byte) (s : State), s.serves h 1 → s.power.part ≠ .rest → q.toNat ≤ 3 →
      (s.cycle.state = .paused →
        ∀ v : State, v = (s.handedOn h 21).supersedeSlot none .all →
        exec (.playAll h q) s = .next
          ((({ v with
              cycle := { s.cycle with
                state := .running, pos := 0, pass := 0, origin := true, gen := (s.cycle.gen + 1) % 65536 }
              mixer := { v.mixer with frontReported := false, earReported := false }
              audio := { v.audio with passErrors := 0, reported := false } }.raise
            .cycleRunning none none 0).settle).replied h 21 .ok s.cycle.nowBytes))
      ∧ (s.cycle.state = .empty ∨ s.cycle.state = .defining →
        exec (.playAll h q) s = .next ((s.handedOn h 21).replied h 21 .badState []))
      ∧ (∀ (x : Quantum) (e : Eff), s.cycle.state = .running → argQuantum q = some x →
        s.dueOf .playAll x s.pressNow = .atOnce e →
        exec (.playAll h q) s = .next
          ((((s.handedOn h 21).supersedeSlot none .all).settle).replied h 21 .ok s.cycle.nowBytes))
      ∧ (s.cycle.state = .empty ∨ s.cycle.state = .paused →
        exec (.stopAll h q) s = .next
          ((((s.handedOn h 22).supersedeSlot none .all).settle).replied h 22 .ok s.cycle.nowBytes)))
    ∧ (∀ (h : Req) (len : Nat) (s : State), s.serves h 1 → s.power.part ≠ .rest →
      s.cycle.state = .running → s.cycle.len = some len →
      ∃ u : State, exec (.stopAll h 0) s = .next (u.settle.replied h 22 .ok s.cycle.nowBytes)
        ∧ u.cycle = { s.cycle with
            state := .paused, pos := 0, pass := 0, origin := false, gen := (s.cycle.gen + 1) % 65536 }
        ∧ u.cues.entries = [] ∧ u.power = s.power ∧ u.mem.words = s.mem.words
        ∧ (∀ t, (s.track t).openLayer = none → u.track t = s.track t)
        ∧ (∀ (t : TrackId) (id n : Nat) (l : Layer) (r : CapRec), (s.track t).openLayer = some id →
          s.layer? id = some l → s.recordOf id = some r →
          n = stampSub (stampAdd s.cycle.frameCount 1) r.startStamp →
          (∀ t', t' ≠ t → (s.track t').openLayer ≠ some id
            ∧ ∀ m, (s.track t').marker = some m → m.1 ≠ id ∧ m.2 ≠ id) →
          (n = 0 → s.layers.Pairwise (fun e f => e.1 < f.1) →
            u.layer? id = none ∧ (u.track t).openLayer = none ∧ (u.track t).marker = none)
          ∧ (n ≠ 0 → ∀ span start kept : Nat, ((s.track t).state ≠ .recording → kept = n) →
            ((s.track t).state = .recording →
              ∃ pass pos, l.start = .first pass pos ∧ fixSpan len pass pos n = (span, start, kept)) →
            u.track t = { s.track t with
              state := .playing
              span := if (s.track t).state = .recording then some span else (s.track t).span
              heldSpan := if (s.track t).state = .recording then none else (s.track t).heldSpan
              openLayer := none, marker := none }
            ∧ (∃ l', u.layer? id = some l' ∧ l' = { l with
                state := .closed
                start := if (s.track t).state = .recording then .at start else l.start
                length := kept, tail := true
                extents := l.extents.take (ceilDiv kept 4096)
                suspects := l.suspects.filter (fun b => (l.extents.take (ceilDiv kept 4096)).contains b)
                holes := cutRanges kept l.holes, stored := cutRanges kept l.stored
                buf := { aim := 0, fill := 0, data := [], flight := false } })
            ∧ (∀ (i : Fin 12) (q : CapRec), s.capture.records[i] = some q → q.layer = id →
              u.capture.records[i] = none ∨ ∃ q', u.capture.records[i] = some q' ∧ q'.phase = .draining
                ∧ q'.endStamp = some (stampAdd q.startStamp kept))))
        ∧ (∀ (id : Nat) (l : Layer), s.layer? id = some l → l.state ≠ .opened →
          (∀ t, (s.track t).openLayer ≠ some id ∧ ∀ m, (s.track t).marker = some m → m.1 ≠ id ∧ m.2 ≠ id) →
          (s.BufferUsed id l → u.layer? id = some { l with
            buf := { aim := 0, fill := 0, data := [], flight := false } })
          ∧ (¬ s.BufferUsed id l → u.layer? id = some l)))

/-- CLEAR ALL empties the cycle, every track and the cue list, and keeps the settings. (R23, R28, R50, R55, R97, R102, R116, R136, R154, R162, R166, R198). -/
def Obligations.ClearAllEmptiesThePart : Prop :=
  ∀ (h : Req) (q : Byte) (s : State), s.serves h 1 → q.toNat ≤ 3 →
    ∃ u : State, exec (.clearAll h q) s = .next (u.settle.replied h 23 .ok [])
      ∧ u.cycle = { s.cycle with
          state := .empty, len := none, pos := 0, pass := 0, origin := false,
          tap := { count := 0, last := 0, sum := 0 }, ignoredTaps := 0,
          gen := if s.cycle.state = .empty then s.cycle.gen else (s.cycle.gen + 1) % 65536 }
      ∧ (∀ t, u.track t = { s.track t with
          state := .empty, span := none, heldSpan := none, stack := [], redo := [], openLayer := none,
          marker := none, foldClips := 0 })
      ∧ u.fold = none ∧ u.cues.entries = [] ∧ u.cues.nextId = s.cues.nextId
      ∧ u.switches = { s.switches with recent := Vector.replicate 6 none }
      ∧ u.mixer = { s.mixer with burst := none, frontReported := false, earReported := false }
      ∧ u.audio = { s.audio with passErrors := 0, reported := false }
      ∧ u.mem.timeoutA = s.mem.timeoutA ∧ u.mem.timeoutB = s.mem.timeoutB
      ∧ (∀ p, (u.port p).interest = (s.port p).interest ∧ (u.port p).mask = (s.port p).mask
        ∧ (u.port p).mailbox = (s.port p).mailbox)
      ∧ u.power = s.power ∧ u.faults = s.faults ∧ u.mem.words = s.mem.words
      ∧ (PoolsWithin s → u.layers = [] ∧ (∀ i : Fin 12, u.capture.records[i] = none)
        ∧ ∀ p, u.window p = none)

/-- RECORD on an EMPTY cycle and an EMPTY track opens the defining recording. (R7, R28, R32, R60, R67, R74, R138). What the spec leaves open here is the model's choice: log entry 46. -/
def Obligations.RecordBeginsTheCycle : Prop :=
  (∀ (h : Req) (t : TrackId) (tb q : Byte) (id : Nat) (i : Fin 12) (s : State), s.serves h 2 →
    s.power.part ≠ .rest → s.cycle.state = .empty → argTrack tb = some t → q.toNat ≤ 3 →
    (s.track t).state = .empty → (s.track t).stack = [] → (s.track t).redo = [] →
    s.freeId = some id → s.freeRecord = some i →
    ∃ u : State, exec (.record h tb q) s = .next (u.settle.replied h 32 .ok s.cycle.nowBytes)
      ∧ u.cycle = { s.cycle with
          state := .defining, pos := 0, pass := 0, tap := { count := 0, last := 0, sum := 0 },
          gen := (s.cycle.gen + 1) % 65536 }
      ∧ u.track t = { s.track t with
          state := .recording, stack := [.single id], heldSpan := none, openLayer := some id }
      ∧ (∀ t', t' ≠ t → u.track t' = s.track t')
      ∧ u.layer? id = some (Layer.fresh t .opened .recorded (.first 0 0) false true)
      ∧ u.capture.records[i] = some
          { layer := id, track := t, phase := .inStep, startStamp := stampAdd s.cycle.frameCount 1,
            readStamp := stampAdd s.cycle.frameCount 1, endStamp := none, nextOff := 0, buf := [],
            closeOrder := none }
      ∧ u.mem = s.mem)
    ∧ (∀ (h : Req) (t : TrackId) (tb q : Byte) (id : Nat) (i : Fin 12) (s v w : State), s.serves h 2 →
    s.power.part ≠ .rest → s.cycle.state = .empty → argTrack tb = some t → q.toNat ≤ 3 →
    (s.track t).state = .empty → (s.track t).stack = [] → s.freeId = some id →
    v = { s.freeRedo t with cycle := { s.cycle with
      state := .defining, pos := 0, pass := 0, tap := { count := 0, last := 0, sum := 0 },
      gen := (s.cycle.gen + 1) % 65536 } } →
    v.RecordRoom i w →
    ∃ u : State, exec (.record h tb q) s = .next (u.settle.replied h 32 .ok s.cycle.nowBytes)
      ∧ u.cycle = v.cycle
      ∧ u.track t = { s.track t with
          state := .recording, stack := [.single id], redo := [], heldSpan := none, openLayer := some id }
      ∧ (∀ t', t' ≠ t → u.track t' = s.track t')
      ∧ u.layer? id = some (Layer.fresh t .opened .recorded (.first 0 0) false true)
      ∧ (∀ j, j ≠ id → u.layer? j = w.layer? j)
      ∧ u.capture.records[i] = some
          { layer := id, track := t, phase := .inStep, startStamp := stampAdd s.cycle.frameCount 1,
            readStamp := stampAdd s.cycle.frameCount 1, endStamp := none, nextOff := 0, buf := [],
            closeOrder := none }
      ∧ (∀ j, j ≠ i → u.capture.records[j] = v.capture.records[j])
      ∧ u.mem = w.mem ∧ u.faults = w.faults)

/-- RECORD, OVERDUB and REPLACE that act at once open a layer at the next frame's place, or back-dated at the boundary the press was in grace of. (R17, R18, R19, R28, R31, R32, R60, R67, R73, R76, R138, R143). What the spec leaves open here is the model's choice: log entries 19, 46. That the offsets before a refused block become a hole with WRITE OVERRUN and the layer is cut there is the reading of R66, R67 and R76 in log entry 19. -/
def Obligations.OverdubAndReplaceOpenALayer : Prop :=
  (∀ (h : Req) (cover : Bool) (t : TrackId) (tb : Byte) (span len id : Nat) (i : Fin 12) (s : State),
    s.serves h 2 → s.power.part ≠ .rest → s.cycle.state = .running → s.cycle.len = some len →
    argTrack tb = some t → (s.track t).state = .playing → (s.track t).span = some span →
    (s.track t).stack.length < 8 → (s.track t).redo = [] →
    s.freeId = some id → s.freeRecord = some i →
    ∃ u : State,
      exec (if cover then .replace h tb 0 else .overdub h tb 0) s =
        .next (u.settle.replied h (if cover then 34 else 33) .ok s.cycle.nowBytes)
      ∧ u.cycle = s.cycle
      ∧ u.track t = { s.track t with
          state := if cover then .replacing else .overdubbing
          stack := (s.track t).stack ++ [.single id]
          heldSpan := if s.holdsImport t then (s.track t).heldSpan else none
          openLayer := some id }
      ∧ (∀ t', t' ≠ t → u.track t' = s.track t')
      ∧ u.layer? id = some (Layer.fresh t .opened .recorded
          (.at (trackPos span len s.cycle.nextPlace.1 s.cycle.nextPlace.2)) cover true)
      ∧ u.capture.records[i] = some
          { layer := id, track := t, phase := .inStep, startStamp := stampAdd s.cycle.frameCount 1,
            readStamp := stampAdd s.cycle.frameCount 1, endStamp := none, nextOff := 0, buf := [],
            closeOrder := none }
      ∧ u.mem = s.mem)
    ∧ (∀ (h : Req) (a : Action) (t : TrackId) (tb qb : Byte) (q : Quantum) (len id : Nat) (i : Fin 12) (e : Eff)
      (dest : TrackState) (place : Point) (start : LayerStart) (stamp : Nat) (s v w : State),
    s.serves h 2 → s.power.part ≠ .rest → CycleInRange s.cycle → s.cycle.state = .running →
    s.cycle.len = some len → argTrack tb = some t → argQuantum qb = some q →
    (s.track t).stack.length < 8 → s.freeId = some id → v = s.freeRedo t → v.RecordRoom i w →
    s.dueOf a q s.pressNow = .atOnce e →
    place = (if e.back = true then e.point else ⟨s.cycle.nextPlace.1, s.cycle.nextPlace.2⟩) →
    stamp = (if e.back = true then stampSub s.cycle.frameCount (s.cycle.pos - e.point.pos)
      else stampAdd s.cycle.frameCount 1) →
    (a = .record ∧ (s.track t).state = .empty ∧ s.holdsImport t = false ∧ dest = .recording
        ∧ start = .first place.pass place.pos
      ∨ (∃ span, (s.track t).state = .playing ∧ (s.track t).span = some span
        ∧ start = .at (trackPos span len place.pass place.pos)
        ∧ (a = .overdub ∧ dest = .overdubbing ∨ a = .replace ∧ dest = .replacing))) →
    ∃ u : State,
      exec (a.request h tb qb) s = .next (u.settle.replied h a.code .ok
        (bytes 1 e.point.pass ++ bytes 3 e.point.pos ++ [if e.back = true then 1 else 0]))
      ∧ (e.back = true → e.point.pass = s.cycle.pass ∧ e.point.pos ≤ s.cycle.pos
        ∧ e.point.pos ∈ s.cycle.boundaries len q)
      ∧ u.cycle = s.cycle
      ∧ u.track t = { v.track t with
          state := dest, stack := (s.track t).stack ++ [.single id], openLayer := some id }
      ∧ (∀ t', t' ≠ t → u.track t' = s.track t')
      ∧ u.layer? id = some
          { track := t, state := .opened, origin := .recorded, start := start, length := 0
            cover := decide (a = .replace), head := true, tail := false, gain := 32768, damaged := false
            holes := [], extents := [], suspects := [], stored := [], creator := none, committed := 0
            buf := { aim := 0, fill := 0, data := [], flight := false } }
      ∧ (∀ j, j ≠ id → u.layer? j = w.layer? j)
      ∧ u.capture.records[i] = some
          { layer := id, track := t, phase := if e.back = true then .filling else .inStep,
            startStamp := stamp, readStamp := stamp, endStamp := none, nextOff := 0, buf := [],
            closeOrder := none }
      ∧ (∀ j, j ≠ i → u.capture.records[j] = v.capture.records[j])
      ∧ u.mem = w.mem ∧ u.faults = w.faults)
    ∧ (∀ (t : TrackId) (redo : List Nat) (s v : State), redo = (s.track t).redo → v = s.freeRedo t →
      ∀ emptied : Track, emptied = { s.track t with
        redo := [], heldSpan := if s.holdsImport t = true then (s.track t).heldSpan else none } →
      (redo = [] → v = s.setTrack t emptied)
      ∧ (s.layers.Pairwise (fun x y => x.1 < y.1) → redo.Nodup →
        (∀ j ∈ redo, ∃ l, s.layer? j = some l ∧ l.state = .undone) →
        v.track t = emptied ∧ (∀ t', t' ≠ t → v.track t' = s.track t')
        ∧ (∀ j, v.layer? j = if j ∈ redo then none else s.layer? j)
        ∧ v.mem.free = s.mem.free ++ redo.reverse.flatMap (fun j => match s.layer? j with
          | some l => l.extents.filter fun b => !l.suspects.contains b
          | none => [])
        ∧ (∀ b, b ∈ v.mem.bad ↔ b ∈ s.mem.bad
          ∨ ∃ j ∈ redo, ∃ l, s.layer? j = some l ∧ b ∈ l.extents ∧ b ∈ l.suspects)
        ∧ v.mem.queue = s.mem.queue.filter (fun b => !redo.contains b.layer) ∧ v.mem.words = s.mem.words
        ∧ (∀ i : Fin 12, v.capture.records[i] = (s.capture.records[i]).bind fun r =>
          if r.layer ∈ redo then none else some r)
        ∧ (∀ p, v.window p = (s.window p).bind fun w => if w.layer ∈ redo then none else some w)
        ∧ v.cycle = s.cycle ∧ v.fold = s.fold ∧ v.cues = s.cues ∧ v.faults = s.faults
        ∧ (s.window .a = none → s.window .b = none → ∀ p, v.port p = s.port p)))
    ∧ (∀ (i : Fin 12) (new r : CapRec) (l l' : Layer) (e stop o : Nat) (s base lost u : State),
      s.layers.Pairwise (fun x y => x.1 < y.1) → s.ClosedEarliest i r → s.layer? r.layer = some l →
      r.endStamp = some e → stop = stampSub e r.startStamp → r.nextOff < stop →
      ceilDiv r.nextOff 4096 ≤ l.extents.length →
      l.extents.length + s.mem.free.length < ceilDiv stop 4096 →
      o = (l.extents.length + s.mem.free.length) * 4096 → l' = { l with extents := l.extents ++ s.mem.free } →
      base = ({ s with mem := { s.mem with free := [] } }.setRecord i none).setLayer r.layer l' →
      lost = (if r.nextOff < o then base.lostTo r.layer l' { first := r.nextOff, len := o - r.nextOff }
        else base) →
      u = lost.exhaust r.layer o →
      s.placeRecord new = if (u.layer? new.layer).isSome = true then u.setRecord i (some new) else u)

/-- CLOSE that acts at once closes an overdub or replace layer at the samples taken, or back-dated at the boundary the press was in grace of. (R18, R19, R33, R59, R68, R149). What the spec leaves open here is the model's choice: log entry 46. -/
def Obligations.CloseEndsAnOpenLayer : Prop :=
  ∀ (h : Req) (t : TrackId) (tb : Byte) (len : Nat) (s : State), s.serves h 2 →
    s.power.part ≠ .rest → s.cycle.state = .running → s.cycle.len = some len → argTrack tb = some t →
    ((s.track t).state = .empty ∨ (s.track t).state = .playing →
      exec (.close h tb 0) s = .next ((s.handedOn h 35).replied h 35 .badState []))
    ∧ ((s.track t).state = .overdubbing ∨ (s.track t).state = .replacing →
      ∀ (id n : Nat) (l : Layer) (r : CapRec), (s.track t).openLayer = some id → s.layer? id = some l →
      s.recordOf id = some r → n = stampSub (stampAdd s.cycle.frameCount 1) r.startStamp → n ≠ 0 →
      ∃ (u : State) (l' : Layer),
        exec (.close h tb 0) s = .next (u.settle.replied h 35 .ok s.cycle.nowBytes)
        ∧ u.cycle = s.cycle
        ∧ u.track t = { s.track t with state := .playing, openLayer := none, marker := none }
        ∧ (∀ t', t' ≠ t → u.track t' = s.track t')
        ∧ u.layer? id = some l'
        ∧ l' = { l with
            state := .closed, length := n, tail := true
            extents := l.extents.take (ceilDiv n 4096)
            suspects := l.suspects.filter (fun b => (l.extents.take (ceilDiv n 4096)).contains b)
            holes := cutRanges n l.holes, stored := cutRanges n l.stored
            buf := s.cycle.aimedBuffer (u.track l.track).span l.startQ n })
    ∧ ((s.track t).state = .overdubbing ∨ (s.track t).state = .replacing →
      ∀ (qb : Byte) (q : Quantum) (e : Eff) (id n : Nat) (l : Layer) (r : CapRec), CycleInRange s.cycle →
      argQuantum qb = some q → s.dueOf .close q s.pressNow = .atOnce e → e.back = true →
      (s.track t).openLayer = some id → s.layer? id = some l → s.recordOf id = some r →
      n = stampSub (stampAdd s.cycle.frameCount 1) r.startStamp - 1 - (s.cycle.pos - e.point.pos) →
      ∃ u : State, exec (.close h tb qb) s = .next (u.settle.replied h 35 .ok
          (bytes 1 e.point.pass ++ bytes 3 e.point.pos ++ [1]))
        ∧ u.cycle = s.cycle ∧ (∀ t', t' ≠ t → u.track t' = s.track t')
        ∧ (n ≠ 0 → u.track t = { s.track t with state := .playing, openLayer := none, marker := none }
          ∧ ∃ l', u.layer? id = some l' ∧ l' = { l with
            state := .closed, length := n, tail := true
            extents := l.extents.take (ceilDiv n 4096)
            suspects := l.suspects.filter (fun b => (l.extents.take (ceilDiv n 4096)).contains b)
            holes := cutRanges n l.holes, stored := cutRanges n l.stored
            buf := s.cycle.aimedBuffer (u.track l.track).span l.startQ n })
        ∧ (n = 0 → (s.track t).marker = none → s.layers.Pairwise (fun x y => x.1 < y.1) →
          u.layer? id = none ∧ (u.track t).openLayer = none
            ∧ (u.track t).stack = (s.track t).stack.filter (fun x => x != .single id)))

/-- MUTE and UNMUTE with quantum NONE set the mute target to 0 and to unity. (R26, R38, R84). What the spec leaves open here is the model's choice: log entry 46. -/
def Obligations.MuteAndUnmuteSetTheTarget : Prop :=
  ∀ (h : Req) (mute : Bool) (t : TrackId) (tb : Byte) (s v : State) (target code : Nat), s.serves h 2 →
    argTrack tb = some t → target = (if mute then 0 else 32768) → code = (if mute then 36 else 37) →
    v = (s.handedOn h code).setTrack t { s.track t with muteTarget := target } →
    exec (if mute then .mute h tb 0 else .unmute h tb 0) s =
      .next ((((if (s.track t).muteTarget = target then v else
          v.raise .trackState (some t) none
            ((s.track t).state.ctorIdx + if mute then 32768 else 0)).supersedeSlot
        (some t) .mute).settle).replied h code .ok s.cycle.nowBytes)

/-- UNDO takes the newest layer to the redo list, or discards an OPEN or importing one, and REDO brings the head of the list back. (R9, R26, R28, R35, R36, R93, R149, R158). What the spec leaves open here is the model's choice: log entries 38, 46. -/
def Obligations.UndoAndRedoMoveTheNewestLayer : Prop :=
  ∀ (h : Req) (t : TrackId) (tb : Byte) (s : State), s.serves h 2 → argTrack tb = some t →
    ((s.track t).stack = [] → exec (.undo h tb 0) s = .next ((s.handedOn h 38).replied h 38 .badState []))
    ∧ (8 ≤ (s.track t).stack.length →
      exec (.redo h tb 0) s = .next ((s.handedOn h 39).replied h 39 .stackFull []))
    ∧ ((s.track t).stack.length < 8 → (s.track t).redo = [] ∨ (s.track t).openLayer.isSome = true →
      exec (.redo h tb 0) s = .next ((s.handedOn h 39).replied h 39 .badState []))
    ∧ (∀ (below : List Entry) (id : Nat) (l : Layer), (s.track t).stack = below ++ [.single id] →
      Entry.single id ∉ below → id ∉ (s.track t).redo.drop 3 → s.layer? id = some l → l.state = .closed →
      ∃ u : State, exec (.undo h tb 0) s = .next (u.settle.replied h 38 .ok s.cycle.nowBytes)
        ∧ (u.track t).stack = below ∧ (u.track t).redo = id :: (s.track t).redo.take 3
        ∧ u.layer? id = some { l with
            state := .undone, buf := { aim := 0, fill := 0, data := [], flight := false } }
        ∧ u.cycle = s.cycle ∧ u.mem.words = s.mem.words)
    ∧ (∀ (id : Nat) (rest : List Nat) (l : Layer), (s.track t).openLayer = none →
      (s.track t).redo = id :: rest → (s.track t).stack.length < 8 → s.layer? id = some l →
      ∃ (u : State) (l' : Layer), exec (.redo h tb 0) s = .next (u.settle.replied h 39 .ok s.cycle.nowBytes)
        ∧ u.track t = { s.track t with
            stack := (s.track t).stack ++ [.single id], redo := rest, state := .playing
            span := (s.track t).span.orElse (fun _ => (s.track t).heldSpan), heldSpan := none }
        ∧ u.layer? id = some l' ∧ l' = { l with state := .closed, buf := l'.buf }
        ∧ (CycleInRange s.cycle → l'.buf = s.cycle.aimedBuffer (u.track l.track).span l.startQ l.length)
        ∧ u.cycle = s.cycle ∧ u.mem = s.mem)
    ∧ (∀ (below : List Entry) (id : Nat) (l : Layer), (s.track t).stack = below ++ [.single id] →
      id ∉ stackIds below → id ∉ (s.track t).redo → s.layer? id = some l →
      ∀ left : Track → Track, left = (fun tr =>
        if (stackIds below).any (fun i => !s.isImporting i) = true then tr
        else { tr with
          state := .empty, span := none
          heldSpan := if tr.redo ≠ [] ∨ (stackIds below).any s.isImporting = true then
              (match tr.span with | some span => some span | none => tr.heldSpan) else none
          openLayer := none, marker := none }) →
      (l.state = .opened → (s.track t).openLayer = some id →
        ∃ u : State, exec (.undo h tb 0) s = .next (u.settle.replied h 38 .ok s.cycle.nowBytes)
          ∧ u.track t = left { s.track t with
              state := .playing, stack := below, openLayer := none, marker := none }
          ∧ (∀ t', t' ≠ t → u.track t' = s.track t')
          ∧ (s.layers.Pairwise (fun x y => x.1 < y.1) → u.layer? id = none)
          ∧ ((s.track t).state = .recording → s.cycle.state = .defining →
            u.cycle = { s.cycle with
              state := .empty, len := none, pos := 0, pass := 0, origin := false
              gen := (s.cycle.gen + 1) % 65536 })
          ∧ ((s.track t).state ≠ .recording ∨ s.cycle.state ≠ .defining → u.cycle = s.cycle))
      ∧ ((s.track t).openLayer ≠ some id → (∀ m, (s.track t).marker = some m → m.1 ≠ id ∧ m.2 ≠ id) →
        (l.state = .importing →
          ∃ u : State, exec (.undo h tb 0) s = .next (u.settle.replied h 38 .ok s.cycle.nowBytes)
            ∧ u.track t = left { s.track t with stack := below }
            ∧ (∀ t', t' ≠ t → u.track t' = s.track t')
            ∧ (s.layers.Pairwise (fun x y => x.1 < y.1) → u.layer? id = none)
            ∧ (∀ p w, s.window p = some w → w.layer = id → u.window p = none)
            ∧ u.cycle = s.cycle)
        ∧ (l.state = .closed → (∀ i ∈ (s.track t).redo, i ∉ stackIds below) →
          ∃ u : State, exec (.undo h tb 0) s = .next (u.settle.replied h 38 .ok s.cycle.nowBytes)
            ∧ u.track t = left { s.track t with stack := below, redo := id :: (s.track t).redo.take 3 }
            ∧ (∀ t', t' ≠ t → u.track t' = s.track t') ∧ u.cycle = s.cycle)))

/-- CLEAR TRACK empties one track, keeping its settings, and drops its cues and its recent record. (R9, R28, R37, R48, R71, R97, R102). What the spec leaves open here is the model's choice: log entry 15. -/
def Obligations.ClearTrackEmptiesTheTrack : Prop :=
  ∀ (h : Req) (t : TrackId) (tb q : Byte) (s : State), s.serves h 2 → argTrack tb = some t → q.toNat ≤ 3 →
    ∃ u : State, exec (.clearTrack h tb q) s = .next (u.settle.replied h 40 .ok [])
      ∧ ((s.track t).state = .empty → (s.track t).stack = [] → (s.track t).redo = [] →
        u.tracks = s.tracks ∧ u.layers = s.layers ∧ u.cycle = s.cycle ∧ u.mem = s.mem)
      ∧ ((s.track t).state ≠ .empty ∨ (s.track t).stack ≠ [] ∨ (s.track t).redo ≠ [] →
        u.track t = { s.track t with
          state := .empty, span := none, heldSpan := none, stack := [], redo := [], openLayer := none,
          marker := none, foldClips := 0 }
        ∧ (∀ t', t' ≠ t → u.track t' = s.track t')
        ∧ u.cycle = (if (s.track t).state = .recording ∧ s.cycle.state = .defining then { s.cycle with
            state := .empty, len := none, pos := 0, pass := 0, origin := false
            gen := (s.cycle.gen + 1) % 65536 } else s.cycle)
        ∧ u.fold = (match s.fold with
          | some f => if f.track = t then none else some f
          | none => none)
        ∧ (PoolsWithin s → ∀ freed : Nat → Prop, freed = (fun id =>
            id ∈ stackIds (s.track t).stack ∨ id ∈ (s.track t).redo
              ∨ ∃ f, s.fold = some f ∧ f.track = t ∧ f.result = id) →
          (∀ id, freed id → u.layer? id = none) ∧ (∀ id, ¬ freed id → u.layer? id = s.layer? id)
          ∧ (∀ (i : Fin 12) (r : CapRec), u.capture.records[i] = some r → ¬ freed r.layer)
          ∧ (∀ (p : Port) (w : Window), u.window p = some w → ¬ freed w.layer)))
      ∧ (∀ c ∈ u.cues.entries, c.target ≠ some t)
      ∧ (∀ c ∈ s.cues.entries, c.target ≠ some t →
          (∀ d ∈ s.cues.entries, d.target = some t → d.id ≠ c.id) → c ∈ u.cues.entries)
      ∧ u.switches.recent[t] = none ∧ (∀ t' : TrackId, t' ≠ t → u.switches.recent[t'] = s.switches.recent[t'])
      ∧ u.switches.map = s.switches.map ∧ u.faults = s.faults ∧ u.mem.words = s.mem.words

/-- The close of the defining recording fixes L or empties the cycle, and a first layer's close fixes its span. (R8, R21, R33, R34, R68, R74, R149). What the spec leaves open here is the model's choice: log entries 9, 46. -/
def Obligations.FirstRecordingsClose : Prop :=
  (∀ (n : Nat) (stop : Bool) (s : State), s.cycle.state = .defining →
      ∀ moved : Cycle → State, moved = (fun c => { s with
        cycle := { c with gen := (s.cycle.gen + 1) % 65536 }
        mixer := { s.mixer with frontReported := false, earReported := false }
        audio := { s.audio with passErrors := 0, reported := false } }) →
      (n < 9600 → s.closeDefining n stop =
        (moved { s.cycle with state := .empty, len := none, pos := 0, pass := 0, origin := false }).raise
          .cycleTooShort none none n)
      ∧ (9600 ≤ n → s.closeDefining n stop =
        ((moved { s.cycle with
            state := if stop then .paused else .running
            len := some n, pos := 0, pass := 0, origin := !stop }).raise .cycleDefined none none 0).raise
          (if stop then .cyclePaused else .cycleRunning) none none 0))
    ∧ (∀ (h : Req) (stop : Bool) (t : TrackId) (tb q : Byte) (id code : Nat) (l : Layer) (r : CapRec)
        (s : State), s.serves h (if stop then 1 else 2) → s.power.part ≠ .rest → s.cycle.state = .defining →
      argTrack tb = some t → q.toNat ≤ 3 → (s.track t).state = .recording → (s.track t).openLayer = some id →
      s.layer? id = some l → l.start = .first 0 0 → s.recordOf id = some r →
      stampSub (stampAdd s.cycle.frameCount 1) r.startStamp = s.cycle.pos →
      (∀ t', t' ≠ t → (s.track t').openLayer = none) → s.layers.Pairwise (fun e f => e.1 < f.1) →
      code = (if stop then 22 else 35) →
      ∃ u : State, exec (if stop then .stopAll h q else .close h tb q) s =
          .next (u.settle.replied h code .ok s.cycle.nowBytes)
        ∧ (∀ t', t' ≠ t → u.track t' = s.track t') ∧ (stop = true → u.cues.entries = [])
        ∧ (s.cycle.pos < 9600 → u.layer? id = none
          ∧ u.cycle = { s.cycle with
              state := .empty, len := none, pos := 0, pass := 0, origin := false
              gen := (s.cycle.gen + 1) % 65536 }
          ∧ ((s.track t).stack = [.single id] → (s.track t).redo = [] → u.track t = { s.track t with
              state := .empty, span := none, heldSpan := none, stack := [], openLayer := none, marker := none }))
        ∧ (9600 ≤ s.cycle.pos →
          u.cycle = { s.cycle with
              state := if stop then .paused else .running
              len := some s.cycle.pos, pos := 0, pass := 0, origin := !stop
              gen := (s.cycle.gen + 1) % 65536 }
          ∧ u.track t = { s.track t with
              state := .playing, span := some 1, heldSpan := none, openLayer := none, marker := none }
          ∧ (∃ l', u.layer? id = some l' ∧ l' = { l with
              state := .closed, start := .at 0, length := s.cycle.pos, tail := true
              extents := l.extents.take (ceilDiv s.cycle.pos 4096)
              suspects := l.suspects.filter (fun b => (l.extents.take (ceilDiv s.cycle.pos 4096)).contains b)
              holes := cutRanges s.cycle.pos l.holes, stored := cutRanges s.cycle.pos l.stored
              buf := { aim := 0, fill := 0, data := [], flight := false } })
          ∧ (∀ r', u.recordOf id = some r' → r'.phase = .draining
            ∧ r'.endStamp = some (stampAdd r'.startStamp s.cycle.pos))))
    ∧ (∀ (h : Req) (t : TrackId) (tb : Byte) (len id pass pos n : Nat) (l : Layer) (r : CapRec) (s : State),
      s.serves h 2 → s.power.part ≠ .rest → s.cycle.state = .running → s.cycle.len = some len →
      argTrack tb = some t → (s.track t).state = .recording → (s.track t).openLayer = some id →
      s.layer? id = some l → l.start = .first pass pos → s.recordOf id = some r →
      n = stampSub (stampAdd s.cycle.frameCount 1) r.startStamp →
      ∃ u : State, exec (.close h tb 0) s = .next (u.settle.replied h 35 .ok s.cycle.nowBytes)
        ∧ u.cycle = s.cycle ∧ (∀ t', t' ≠ t → u.track t' = s.track t')
        ∧ (n = 0 → s.layers.Pairwise (fun e f => e.1 < f.1) → u.layer? id = none
          ∧ ((s.track t).stack = [.single id] → (s.track t).redo = [] → (u.track t).state = .empty))
        ∧ (n ≠ 0 → ∀ span start kept, fixSpan len pass pos n = (span, start, kept) →
          u.track t = { s.track t with
            state := .playing, span := some span, heldSpan := none, openLayer := none, marker := none }
          ∧ ∃ l', u.layer? id = some l' ∧ l' = { l with
              state := .closed, start := .at start, length := kept, tail := true
              extents := l.extents.take (ceilDiv kept 4096)
              suspects := l.suspects.filter (fun b => (l.extents.take (ceilDiv kept 4096)).contains b)
              holes := cutRanges kept l.holes, stored := cutRanges kept l.stored
              buf := s.cycle.aimedBuffer (u.track l.track).span start kept }))
    ∧ (∀ len n p0 N c S0 : Nat, c = max 1 (min 8 ((N + len - 1) / len)) → S0 ∈ [1, 2, 4, 8] → c ≤ S0 →
      (∀ S ∈ [1, 2, 4, 8], c ≤ S → S0 ≤ S) →
      (∀ S ∈ [1, 2, 4, 8], S0 ≤ S → n % S * len + p0 + N ≤ S * len →
        (∀ R ∈ [1, 2, 4, 8], S0 ≤ R → R < S → R * len < n % R * len + p0 + N) →
        fixSpan len n p0 N = (S, n % S * len + p0, N))
      ∧ ((∀ R ∈ [1, 2, 4, 8], S0 ≤ R → R * len < n % R * len + p0 + N) →
        (∀ S ∈ [1, 2, 4, 8], S0 ≤ S → p0 + N ≤ S * len →
          (∀ R ∈ [1, 2, 4, 8], S0 ≤ R → R < S → R * len < p0 + N) → fixSpan len n p0 N = (S, p0, N))
        ∧ (8 * len < p0 + N → fixSpan len n p0 N = (8, p0, 8 * len - p0))))

/-- At a track wrap layers decay and retire and the open layer rolls, and a close at the roll takes the roll back. (R39, R40, R41, R42, R46, R48, R61, R72, R149). What the spec leaves open here is the model's choice: log entry 9. -/
def Obligations.TrackWrapsDecayAndRoll : Prop :=
  ∀ (t : TrackId) (s d u : State), d = s.decayTrack t → u = s.roll t →
    s.wrapTrack t = d.roll t
    ∧ (PoolsWithin s → (stackIds (s.track t).stack).Nodup →
      ∀ g : Nat → Nat, g = (fun x => (x * (s.track t).feedback + 16384) / 32768) →
      ∀ decays : Nat → Prop, decays = (fun id => id ∈ stackIds (s.track t).stack ∧ id ∉ s.fresh
        ∧ ∃ l, s.layer? id = some l ∧ (l.state = .closed ∨ l.state = .folding)) →
      (∀ (id : Nat) (l : Layer), s.layer? id = some l →
        (∀ f, s.fold = some f → f.track = t → id ≠ f.older ∧ id ≠ f.newer ∧ id ≠ f.result) →
        (¬ decays id → d.layer? id = some l)
        ∧ (decays id → 64 ≤ g l.gain → d.layer? id = some { l with gain := g l.gain }
          ∧ (Entry.single id ∈ (s.track t).stack → Entry.single id ∈ (d.track t).stack))
        ∧ (decays id → g l.gain < 64 → d.layer? id = none ∧ Entry.single id ∉ (d.track t).stack))
      ∧ (∀ (f : Fold) (lo ln : Layer), s.fold = some f → f.track = t → s.layer? f.older = some lo →
        s.layer? f.newer = some ln → decays f.older → decays f.newer → f.result ≠ f.older →
        f.result ≠ f.newer →
        (64 ≤ g lo.gain → 64 ≤ g ln.gain → d.fold = some { f with pendingGain := max 64 (g f.pendingGain) }
          ∧ d.layer? f.older = some { lo with gain := g lo.gain }
          ∧ d.layer? f.newer = some { ln with gain := g ln.gain })
        ∧ (g lo.gain < 64 ∨ g ln.gain < 64 → d.fold = none ∧ d.layer? f.result = none
          ∧ stackPairs (d.track t).stack = [])
        ∧ (g lo.gain < 64 → d.layer? f.older = none) ∧ (g ln.gain < 64 → d.layer? f.newer = none)
        ∧ (g lo.gain < 64 → 64 ≤ g ln.gain → Entry.single f.newer ∈ (d.track t).stack
          ∧ d.layer? f.newer = some { ln with state := .closed, gain := g ln.gain })
        ∧ (64 ≤ g lo.gain → g ln.gain < 64 → Entry.single f.older ∈ (d.track t).stack
          ∧ d.layer? f.older = some { lo with state := .closed, gain := g lo.gain })))
    ∧ (∀ (id span len kept : Nat) (l : Layer) (r : CapRec), (s.track t).openLayer = some id →
      (s.track t).span = some span → s.cycle.len = some len → s.layer? id = some l → s.recordOf id = some r →
      kept = span * len - l.startQ →
      ((s.track t).state = .recording ∨ r.startStamp = s.cycle.frameCount → u = s)
      ∧ ((s.track t).state ≠ .recording → r.startStamp ≠ s.cycle.frameCount →
        ∀ e : EventKind → Bool → Option TrackId → Option Nat → Nat → Event, e = (fun k urgent tr la detail =>
          { kind := k, urgent := urgent, track := tr, layer := la, cue := none, pass := s.cycle.pass
            pos := s.cycle.shownPos, detail := BitVec.ofNat 16 detail }) →
        (∀ id', s.freeId = some id' → (s.track t).stack.length < 8 → s.freeRecord.isSome = true →
          u.layer? id = some { l with state := .closed, length := kept }
          ∧ u.layer? id' = some (Layer.fresh t .opened .rolled (.at 0) l.cover false)
          ∧ u.track t = { s.track t with
              stack := (s.track t).stack ++ [.single id'], openLayer := some id', marker := some (id, id') }
          ∧ (∃ i : Fin 12, u.capture.records[i] = some
              { layer := id', track := t, phase := (if r.phase = .inStep then .inStep else .filling)
                startStamp := s.cycle.frameCount, readStamp := s.cycle.frameCount, endStamp := none
                nextOff := 0, buf := [], closeOrder := none })
          ∧ (∀ q, u.recordOf id = some q → q.phase = .draining
            ∧ q.endStamp = some (stampAdd q.startStamp kept))
          ∧ ∀ p, u.port p = (s.port p).offer (e .layerRolled false none (some id) id'))
        ∧ (∀ code : Nat, (code = 0 ∧ s.freeId = none) ∨ (code = 1 ∧ s.freeId.isSome = true
            ∧ 8 ≤ (s.track t).stack.length ∧ s.fold.isSome = true) →
          u.layer? id = some { l with state := .closed, length := kept }
          ∧ u.track t = { s.track t with state := .playing, openLayer := none, marker := none }
          ∧ ∀ p, u.port p = (((s.port p).offer (e .layerClosed false none (some id) span)).offer
              (e .stackFull true (some t) none code)).offer
              (e .trackState false (some t) none (2 + if (s.track t).muteTarget = 0 then 32768 else 0)))))
    ∧ (∀ (id rolled span len age taken before n : Nat) (point : Point) (l : Layer) (r : CapRec),
      (s.track t).state = .overdubbing ∨ (s.track t).state = .replacing → (s.track t).openLayer = some id →
      (s.track t).marker = some (rolled, id) → rolled ≠ id → (s.track t).span = some span →
      s.cycle.len = some len → s.recordOf id = some r → s.layer? rolled = some l → l.state ≠ .importing →
      Entry.single rolled ∈ (s.track t).stack → s.layers.Pairwise (fun e f => e.1 < f.1) →
      taken = stampSub (stampAdd s.cycle.frameCount 1) r.startStamp → 1 ≤ taken → taken ≤ age + 1 →
      before = age + 1 - taken →
      n = (if before = 0 then l.length else min l.length (span * len - l.startQ - before)) →
      ∀ c : State, c = s.closeAtCut t (.back age point) false →
      c.layer? id = none ∧ (c.track t).openLayer = none ∧ (c.track t).marker = none
      ∧ (n = 0 → c.layer? rolled = none)
      ∧ (n ≠ 0 → (c.track t).state = .playing ∧ ∃ l', c.layer? rolled = some l' ∧ l' =
        (if n = l.length then { l with tail := true } else { l with
          length := n, tail := true
          extents := l.extents.take (ceilDiv n 4096)
          suspects := l.suspects.filter (fun b => (l.extents.take (ceilDiv n 4096)).contains b)
          holes := cutRanges n l.holes, stored := cutRanges n l.stored, buf := l'.buf })
        ∧ (n ≠ l.length →
          l'.buf = s.cycle.aimedBuffer (s.track l.track).span l.startQ n))
      ∧ (taken = 1 → s.closeAtCut t .arriving false = s.closeAtCut t (.back 0 point) false))

/-- Admission takes a record, starts a fold on a full stack or refuses, and a fold forms its samples, completes, gives up or is undone. (R28, R30, R35, R43, R44, R45, R47, R48, R149, R150). What the spec leaves open here is the model's choice: log entries 37, 39, 46, 47. -/
def Obligations.StackAdmissionAndFolds : Prop :=
  ∀ (t : TrackId) (s : State),
    (s.freeId = none → s.takeRoom t = .error .noMemory)
    ∧ (∀ id, s.freeId = some id →
      ((s.track t).stack.length < 8 → s.takeRoom t = .ok (s, id))
      ∧ (8 ≤ (s.track t).stack.length → s.fold.isSome = true ∨ s.mem.free = [] ∨ 39 ≤ s.layers.length
          ∨ (¬ ∃ a b rest la lb, (s.track t).stack = .single a :: .single b :: rest ∧ s.layer? a = some la
              ∧ la.state = .closed ∧ s.layer? b = some lb ∧ lb.state = .closed) →
        s.takeRoom t = .error .stackFull)
      ∧ (∀ (a b blk : Nat) (rest : List Entry) (la lb : Layer) (more : List Nat),
        8 ≤ (s.track t).stack.length → (s.track t).stack = .single a :: .single b :: rest → a ≠ b →
        s.layer? a = some la → la.state = .closed → s.layer? b = some lb → lb.state = .closed →
        s.fold = none → s.mem.free = blk :: more → s.layers.length ≤ 38 →
        ∃ (u : State) (id' : Nat) (f : Fold), s.takeRoom t = .ok (u, id') ∧ u.freeId = some id' ∧ id' ≠ id
          ∧ u.track t = { s.track t with stack := .pair a b :: rest }
          ∧ (∀ t', t' ≠ t → u.track t' = s.track t')
          ∧ u.layer? a = some { la with state := .folding } ∧ u.layer? b = some { lb with state := .folding }
          ∧ u.layer? id = some
            { track := t, state := .folding, origin := .folded, start := .at (min la.startQ lb.startQ)
              length := max (la.startQ + la.length) (lb.startQ + lb.length) - min la.startQ lb.startQ
              cover := false, head := false, tail := false, gain := 32768
              damaged := la.damaged || lb.damaged, holes := [], extents := [blk], suspects := [], stored := []
              creator := none, committed := 0, buf := { aim := 0, fill := 0, data := [], flight := false } }
          ∧ u.mem.free = more ∧ u.fold = some f
          ∧ f = { track := t, older := a, newer := b, result := id, gainOlder := la.gain, gainNewer := lb.gain
                  edge := s.mixer.edge, pendingGain := 32768, nextOff := 0, clips := 0, reads := f.reads
                  gotOlder := [], gotNewer := [], out := none, granted := false }))
    ∧ (∀ (h : Req) (cover : Bool) (tb : Byte) (st : Status), s.serves h 2 → s.power.part ≠ .rest →
      s.cycle.state = .running → argTrack tb = some t → (s.track t).state = .playing →
      (s.track t).span.isSome = true → s.takeRoom t = .error st →
      exec (if cover then .replace h tb 0 else .overdub h tb 0) s =
        .next ((s.handedOn h (if cover then 34 else 33)).replied h (if cover then 34 else 33) st []))
    ∧ (∀ (f : Fold) (lo ln lr : Layer) (blk : Option Nat) (o : Nat) (xs : List Sample) (checks : List WordCheck),
      s.power.resetHeld = false → s.layers.Pairwise (fun e f => e.1 < f.1) →
      s.mem.grant = some (.foldWrite blk o xs) → s.fold = some f → f.granted = true → f.out.isSome = true →
      s.layer? f.older = some lo → s.layer? f.newer = some ln → s.layer? f.result = some lr →
      f.older ≠ f.newer → f.result ≠ f.older → f.result ≠ f.newer →
      ∀ e : EventKind → Option TrackId → Nat → Nat → Event, e = (fun k tr la detail =>
        { kind := k, urgent := false, track := tr, layer := some la, cue := none, pass := s.cycle.pass
          pos := s.cycle.shownPos, detail := BitVec.ofNat 16 detail }) →
      (lr.length ≤ o + xs.length →
        ∃ (u : State) (lr' : Layer), exec (.foldBurstComplete checks) s = .next u.settle
          ∧ u.fold = none ∧ u.mem.grant = none ∧ u.layer? f.older = none ∧ u.layer? f.newer = none
          ∧ u.layer? f.result = some lr' ∧ lr' = { lr with
              state := .closed, gain := f.pendingGain
              damaged := lr.damaged || (lo.damaged || ln.damaged), stored := lr'.stored, buf := lr'.buf }
          ∧ (CycleInRange s.cycle → lr'.buf = s.cycle.aimedBuffer (s.track lr.track).span lr.startQ lr.length)
          ∧ u.track f.track = { s.track f.track with stack := ((s.track f.track).stack.map fun x =>
              if x = .pair f.older f.newer then .single f.result else x) }
          ∧ u.mem.free = s.mem.free ++ lo.extents.filter (fun b => !lo.suspects.contains b)
              ++ ln.extents.filter (fun b => !ln.suspects.contains b)
          ∧ (s.window .a = none → s.window .b = none →
            ∀ p, u.port p = (s.port p).offer (e .foldDone (some f.track) f.result f.clips)))
      ∧ (∀ rest : List Entry, o + xs.length < lr.length → (o + xs.length) % 4096 = 0 → s.mem.free = [] →
        (s.track f.track).stack = .pair f.older f.newer :: rest → stackPairs rest = [] →
        Entry.single f.older ∉ rest → rest.length ≤ 7 →
        ∃ u : State, exec (.foldBurstComplete checks) s = .next u.settle
          ∧ u.fold = none ∧ u.layer? f.result = none
          ∧ u.layer? f.newer = some { ln with state := .closed }
          ∧ (rest.length < 7 → (u.track f.track).stack = .single f.older :: .single f.newer :: rest
            ∧ u.layer? f.older = some { lo with state := .closed })
          ∧ (rest.length = 7 → (u.track f.track).stack = .single f.newer :: rest ∧ u.layer? f.older = none)
          ∧ (s.window .a = none → s.window .b = none → ∀ p, u.port p =
            (if rest.length = 7 then
              ((s.port p).offer (e .foldAbandoned (some f.track) f.result 3)).offer
                (e .layerRetired none f.older lo.gain)
            else (s.port p).offer (e .foldAbandoned (some f.track) f.result 3)))))
    ∧ (∀ (h : Req) (tb : Byte) (f : Fold) (lo ln : Layer), s.serves h 2 → argTrack tb = some t →
      s.layers.Pairwise (fun e f => e.1 < f.1) → s.fold = some f → f.track = t →
      (s.track t).stack = [.pair f.older f.newer] → s.layer? f.older = some lo → s.layer? f.newer = some ln →
      f.older ≠ f.newer → f.result ≠ f.older → f.result ≠ f.newer → (s.track t).redo.length ≤ 4 →
      (∀ i ∈ (s.track t).redo, i ≠ f.older ∧ i ≠ f.newer) →
      ∃ u : State, exec (.undo h tb 0) s = .next (u.settle.replied h 38 .ok s.cycle.nowBytes)
        ∧ u.fold = none ∧ u.layer? f.result = none ∧ (u.track t).stack = [.single f.older]
        ∧ (u.track t).redo = f.newer :: (s.track t).redo.take 3
        ∧ u.layer? f.older = some { lo with state := .closed }
        ∧ u.layer? f.newer = some { ln with
            state := .undone, buf := { aim := 0, fill := 0, data := [], flight := false } })
    ∧ (∀ (f : Fold) (lo ln lr : Layer) (s : State), s.fold = some f → f.granted = false → f.out = none →
      f.reads = [] → s.layer? f.older = some lo → s.layer? f.newer = some ln → s.layer? f.result = some lr →
      ∀ (part : Layer → List (Nat × Sample) → List Nat → Nat → Nat → Int) (cover : Nat → List Nat)
        (sums : List Int) (clamped : Nat),
      part = (fun m got covers gain q => scale (covers.foldl scale (scale
          (if m.startQ ≤ q ∧ q < m.startQ + m.length then ((assocFind (q - m.startQ) got).getD 0).toInt else 0)
          (edgeWeight f.edge (q - m.startQ) m.length m.head m.tail))) gain) →
      cover = (fun q => if ln.cover = true then
          [if ln.startQ ≤ q ∧ q < ln.startQ + ln.length then
            32768 - edgeWeight f.edge (q - ln.startQ) ln.length ln.head ln.tail else 32768]
        else []) →
      sums = ((List.range (min 64 (lr.length - f.nextOff))).map fun i =>
        part lo f.gotOlder (cover (lr.startQ + f.nextOff + i)) f.gainOlder (lr.startQ + f.nextOff + i)
          + part ln f.gotNewer [] f.gainNewer (lr.startQ + f.nextOff + i)) →
      clamped = (sums.filter fun x => decide (x < -8388608 ∨ 8388607 < x)).length →
      s.settleFold = { s.setTrack f.track { s.track f.track with
          foldClips := min 65535 ((s.track f.track).foldClips + clamped) } with
        fold := some { f with
          out := some (sums.map fun x => BitVec.ofInt 24 (max (-8388608) (min 8388607 x)))
          clips := min 65535 (f.clips + clamped) } })

/-- An action due ahead joins, supersedes or makes a cue entry, or is refused FULL. (R85, R86, R87, R88, R89, R90). -/
def Obligations.QuantisedActionsWaitInTheCueList : Prop :=
  (∀ (h : Req) (a : Action) (tb qb : Byte) (target : Option TrackId) (q : Quantum) (pass pos : Nat) (s : State),
    s.serves h a.argLen → a.targetOf tb = some target → argQuantum qb = some q →
    s.dueOf a q s.pressNow = .due pass pos →
    (∀ e, s.slot target a.family = some e → e.action = a → e.duePass = pass → e.duePos = pos →
      exec (a.request h tb qb) s =
        .next (((s.handedOn h a.code).joinCue e.id h.port).replied h a.code .joined
          (bytes 2 e.id ++ bytes 1 pass ++ bytes 3 pos)))
    ∧ (∀ e, s.slot target a.family = some e → ¬ (e.action = a ∧ e.duePass = pass ∧ e.duePos = pos) →
      ∀ (v : State) (id : Nat), v = (s.handedOn h a.code).dropCue .superseded e →
      id = pickCueId (v.cues.entries.map Cue.id) 17 v.cues.nextId →
      exec (a.request h tb qb) s =
        .next ({ v with cues :=
            { entries := insertCue v.cycle
                { id := id, origin := h.port, joinedA := false, joinedB := false, action := a,
                  target := target, quantum := q, press := s.pressNow, duePass := pass, duePos := pos }
                v.cues.entries
              nextId := nextCueId id } }.replied h a.code .accepted (bytes 2 id ++ bytes 1 pass ++ bytes 3 pos)))
    ∧ (s.slot target a.family = none → s.cues.entries.length < 16 →
      ∀ id : Nat, id = pickCueId (s.cues.entries.map Cue.id) 17 s.cues.nextId →
      exec (a.request h tb qb) s =
        .next ({ s.handedOn h a.code with cues :=
            { entries := insertCue s.cycle
                { id := id, origin := h.port, joinedA := false, joinedB := false, action := a,
                  target := target, quantum := q, press := s.pressNow, duePass := pass, duePos := pos }
                s.cues.entries
              nextId := nextCueId id } }.replied h a.code .accepted (bytes 2 id ++ bytes 1 pass ++ bytes 3 pos)))
    ∧ (s.slot target a.family = none → 16 ≤ s.cues.entries.length →
      exec (a.request h tb qb) s = .next ((s.handedOn h a.code).replied h a.code .full [])))
    ∧ (∀ (c : Cycle) (e : Cue) (l : List Cue) (far : Cue → Nat),
      far = (fun x => ((x.duePass + 256 - c.pass) % 256) * c.shownLen + x.duePos - c.pos) →
      c.pass < 256 →
      (∃ before after, l = before ++ after ∧ insertCue c e l = before ++ e :: after
        ∧ (∀ x ∈ before, far x ≤ far e) ∧ (∀ x ∈ after.head?, far e < far x))
      ∧ (l.Pairwise (fun x y => far x ≤ far y) →
        (insertCue c e l).Pairwise (fun x y => far x ≤ far y)))
    ∧ (∀ (used : List Nat) (n : Nat), used.length ≤ 16 → 1 ≤ n → n ≤ 65535 →
      nextCueId n = (if n = 65535 then 1 else n + 1)
      ∧ ∃ k, k ≤ 16 ∧ pickCueId used 17 n = (n - 1 + k) % 65535 + 1 ∧ pickCueId used 17 n ∉ used
        ∧ ∀ j < k, (n - 1 + j) % 65535 + 1 ∈ used)
    ∧ (∀ (id : Nat) (p : Port) (s : State), s.joinCue id p = { s with cues := { s.cues with
        entries := s.cues.entries.map fun c =>
          if c.id = id then { c with
            joinedA := c.joinedA || decide (p = .a), joinedB := c.joinedB || decide (p = .b) }
          else c } })

/-- The due computation refuses, acts at once or gives a due ahead on a boundary of its quantum, and the quantised path follows it. (R14, R17, R18, R19, R20, R22, R31, R81, R82, R83, R84, R85, R90). What the spec leaves open here is the model's choice: log entries 18, 27, 46. -/
def Obligations.DuesLieAhead : Prop :=
  (∀ (s : State) (a : Action) (q : Quantum) (len pass pos : Nat), CycleInRange s.cycle →
    s.cycle.len = some len → s.dueOf a q s.pressNow = .due pass pos →
    1 ≤ s.cycle.forwardDistance pass pos ∧ s.cycle.forwardDistance pass pos ≤ len
      ∧ (pos = 0 ∨ pos ∈ s.cycle.boundaries len q))
    ∧ (∀ (s : State) (a : Action) (q : Quantum) (press : PressTime) (transport : Bool) (now : Eff),
      transport = decide (a ∈ [Action.record, .overdub, .replace, .close]) →
      now = { point := ⟨s.cycle.pass, s.cycle.shownPos⟩, cut := .next, back := false } →
      (s.power.part = .rest → s.dueOf a q press =
        if transport = true ∨ a = .stopAll ∨ a = .playAll then .refused .resting else .atOnce now)
      ∧ (s.power.part ≠ .rest →
        (s.cycle.state = .paused → s.dueOf a q press =
          if transport = true then .refused .badState else .atOnce now)
        ∧ (s.cycle.state = .empty ∨ s.cycle.state = .defining → s.dueOf a q press = .atOnce now)
        ∧ (∀ len, s.cycle.state = .running → s.cycle.len = some len →
          (q = .none → s.dueOf a q press = .atOnce now)
          ∧ (press.gen ≠ s.cycle.gen → s.dueOf a q press = s.dueOf a q s.pressNow)
          ∧ (q ≠ .none → CycleInRange s.cycle → press.gen = s.cycle.gen → press.pos < len →
            ∀ (bs : List Nat) (b b' g E : Nat) (due : Point) (passed : Point → Nat → Eff),
            bs = (match q with
              | .beat => (List.range s.cycle.beats).map fun j => j * len / s.cycle.beats
              | .bar => ((List.range s.cycle.beats).filter fun j => j % s.cycle.perBar = 0).map
                  fun j => j * len / s.cycle.beats
              | _ => [0]) →
            b ∈ bs → b ≤ press.pos → (∀ x ∈ bs, x ≤ press.pos → x ≤ b) →
            b' ∈ len :: bs → b < b' → (∀ x ∈ len :: bs, b < x → b' ≤ x) →
            g = min s.cycle.grace ((b' - b) / 2) → E = stampSub s.cycle.frameCount press.frame →
            due = (if b' = len then ⟨(press.pass + 1) % 256, 0⟩ else ⟨press.pass, b'⟩) →
            passed = (fun point age => if transport = true then
              { point := point, cut := .back age point, back := true } else now) →
            (press.pos - b ≤ g →
              (s.cycle.origin = true → s.dueOf a q press = .atOnce now)
              ∧ (s.cycle.origin = false → E + (press.pos - b) ≤ 8000 →
                s.dueOf a q press = .atOnce (passed ⟨press.pass, b⟩ (E + (press.pos - b))))
              ∧ (s.cycle.origin = false → 8000 < E + (press.pos - b) →
                s.dueOf a q press = s.dueOf a q s.pressNow))
            ∧ (g < press.pos - b →
              (E < b' - press.pos → s.dueOf a q press = .due due.pass due.pos)
              ∧ (b' - press.pos ≤ E → E - (b' - press.pos) ≤ 8000 →
                s.dueOf a q press = .atOnce (passed due (E - (b' - press.pos))))
              ∧ (b' - press.pos ≤ E → 8000 < E - (b' - press.pos) →
                s.dueOf a q press = s.dueOf a q s.pressNow))))))
    ∧ (∀ (p : Port) (a : Action) (target : Option TrackId) (q : Quantum) (press : PressTime) (s : State)
        (drop : State → State),
      drop = (fun x => match x.cues.entries.find?
          (fun c => decide (c.target = target) && decide (c.action.family = a.family)) with
        | some c => x.dropCue .superseded c
        | none => x) →
      (∀ st, s.dueOf a q press = .refused st → s.quantised p a target q press =
        (s, { status := st, cue := none, point := none, back := none }))
      ∧ (∀ pass pos, s.dueOf a q press = .due pass pos →
        s.quantised p a target q press = s.placeCue p a target q press pass pos)
      ∧ (∀ e all, s.dueOf a q press = .atOnce e → all = decide (a = .stopAll ∨ a = .playAll) →
        ∀ out, out = (if all = true then drop s else s).act a target e.cut →
        (∀ st, out = .error st → s.quantised p a target q press =
          (s, { status := st, cue := none, point := none, back := none }))
        ∧ (∀ u, out = .ok u → s.quantised p a target q press =
          (if all = true then u else drop u,
            { status := .ok, cue := none, point := some e.point, back := some e.back }))))
    ∧ (∀ (h : Req) (a : Action) (tb qb : Byte) (target : Option TrackId) (q : Quantum) (s : State),
      s.serves h a.argLen → argQuantum qb = some q → a.targetOf tb = some target →
      (∀ v ans, (s.handedOn h a.code).quantised h.port a target q s.pressNow = (v, ans) →
        exec (a.request h tb qb) s =
          .next ((if ans.status = .ok then v.settle else v).replied h a.code ans.status ans.results))
      ∧ (∀ st, s.dueOf a q s.pressNow = .refused st →
        exec (a.request h tb qb) s = .next ((s.handedOn h a.code).replied h a.code st []))
      ∧ (∀ e, s.dueOf a q s.pressNow = .atOnce e →
        (∃ t, target = some t ∧ (a = .record ∧ (s.cycle.state = .defining ∨ (s.track t).state ≠ .empty
              ∨ s.holdsImport t = true)
            ∨ (a = .overdub ∨ a = .replace) ∧ (s.track t).state ≠ .playing
            ∨ a = .close ∧ ((s.track t).state = .empty ∨ (s.track t).state = .playing)))
          ∨ a = .playAll ∧ (s.cycle.state = .empty ∨ s.cycle.state = .defining) →
        exec (a.request h tb qb) s = .next ((s.handedOn h a.code).replied h a.code .badState [])))

/-- The head cue acts at the place of its due, in the arrival's boundary work, and CANCEL CUE removes the entry of an id. (R6, R30, R91, R92, R94). What the spec leaves open here is the model's choice: log entry 4. -/
def Obligations.CuesTakeEffectOrAreCancelled : Prop :=
  ∀ s : State,
    (∀ (r : Reached) (ord : Order) (wraps : List TrackId),
      s.atBoundary ord none = s
      ∧ s.atBoundary ord (some r) = s.boundaryWork r ord.work (if r.wrap then s.wrapping r.pass else [])
      ∧ (∀ t, t ∈ s.wrapping r.pass ↔ ∃ span, (s.track t).span = some span ∧ r.pass % span = 0)
      ∧ (∀ w, s.boundaryWork r (none :: w) wraps = (s.takeCue r).boundaryWork r w wraps)
      ∧ (∀ t w, s.boundaryWork r (some t :: w) wraps =
        if t ∈ wraps then (s.wrapTrack t).boundaryWork r w (wraps.erase t) else s.boundaryWork r w wraps)
      ∧ (∀ t, s.boundaryWork r [] (t :: wraps) = (s.wrapTrack t).boundaryWork r [] wraps)
      ∧ s.boundaryWork r [] [] = (if s.cues.entries = [] then s else (s.takeCue r).takeCues r
        (s.cues.entries.length - 1))
      ∧ (∀ c rest, (s.boundaryWork r ord.work wraps).cues.entries = c :: rest →
        ¬ (c.duePass = r.pass ∧ c.duePos = r.pos))) ∧
    (∀ r : Reached,
      (s.cues.entries = [] → s.takeCue r = s)
      ∧ (∀ c rest, s.cues.entries = c :: rest → ¬ (c.duePass = r.pass ∧ c.duePos = r.pos) → s.takeCue r = s)
      ∧ (∀ c rest v, s.cues.entries = c :: rest → c.duePass = r.pass → c.duePos = r.pos →
        v = { s with cues := { s.cues with entries := rest } } →
        (∀ u, v.act c.action c.target .arriving = .ok u →
          s.takeCue r = u.raiseEvent
            { kind := .cueDone, urgent := false, track := c.target, layer := none, cue := some c.id,
              pass := r.pass, pos := r.pos, detail := BitVec.ofNat 16 c.detail })
        ∧ (∀ st, v.act c.action c.target .arriving = .error st →
          s.takeCue r = v.raiseEvent
            { kind := .cueDropped, urgent := false, track := c.target, layer := none, cue := some c.id,
              pass := r.pass, pos := r.pos
              detail := BitVec.ofNat 16 (c.detail + 256 * (dropReasonOf st).ctorIdx) })))
    ∧ (∀ (h : Req) (cue : BitVec 16), s.serves h 2 →
      (∀ c, s.cues.entries.find? (fun c => c.id == cue.toNat) = some c →
        exec (.cancelCue h cue) s =
          .next (({ s.handedOn h 48 with
              cues := { s.cues with entries := s.cues.entries.filter (fun d => d.id != c.id) } }.raiseEvent
            { kind := .cueDropped, urgent := false, track := c.target, layer := none, cue := some c.id,
              pass := s.cycle.pass, pos := s.cycle.shownPos
              detail := BitVec.ofNat 16 (c.detail + 256) }).replied
            h 48 .ok (bytes 2 cue.toNat)))
      ∧ (s.cues.entries.find? (fun c => c.id == cue.toNat) = none →
        exec (.cancelCue h cue) s = .next ((s.handedOn h 48).replied h 48 .notFound [])))

/-- SET GRID, SET GRACE, SET TRACK and SET LAYER GAIN write their fields, clamped, or are refused. (R15, R52). -/
def Obligations.GridTrackAndLayerSettings : Prop :=
  ∀ (h : Req) (s : State),
    (∀ b p : Byte, s.serves h 2 →
      exec (.setGrid h b p) s =
        (if b.toNat = 0 ∨ p.toNat = 0 then .next ((s.handedOn h 18).replied h 18 .badArg [])
         else .next ({ s.handedOn h 18 with
            cycle := { s.cycle with beats := min 64 b.toNat, perBar := min 16 p.toNat } }.replied h 18 .ok
              (bytes 1 (min 64 b.toNat) ++ bytes 1 (min 16 p.toNat)))))
    ∧ (∀ g : BitVec 16, s.serves h 2 →
      exec (.setGrace h g) s =
        .next ({ s.handedOn h 19 with cycle := { s.cycle with grace := min 4800 g.toNat } }.replied h 19 .ok
          (bytes 2 (min 4800 g.toNat))))
    ∧ (∀ (tb : Byte) (fb fr er : BitVec 16) (src : Byte), s.serves h 8 →
      (argTrack tb = none →
        exec (.setTrack h tb fb fr er src) s = .next ((s.handedOn h 41).replied h 41 .badArg []))
      ∧ (∀ t, argTrack tb = some t →
        exec (.setTrack h tb fb fr er src) s =
          .next (((s.handedOn h 41).setTrack t { s.track t with
              feedback := min 32768 fb.toNat, frontSend := fr.toNat, earSend := er.toNat
              sources := src }).replied h 41 .ok
            (bytes 2 (min 32768 fb.toNat) ++ bytes 2 fr.toNat ++ bytes 2 er.toNat ++ [src]))))
    ∧ (∀ (lb : Byte) (g : BitVec 16), s.serves h 3 →
      (s.layer? lb.toNat = none →
        exec (.setLayerGain h lb g) s = .next ((s.handedOn h 42).replied h 42 .notFound []))
      ∧ (∀ l, s.layer? lb.toNat = some l → l.state = .folding →
        exec (.setLayerGain h lb g) s = .next ((s.handedOn h 42).replied h 42 .busy []))
      ∧ (∀ l, s.layer? lb.toNat = some l → l.state ≠ .folding →
        exec (.setLayerGain h lb g) s =
          .next (((s.handedOn h 42).setLayer lb.toNat { l with gain := max 64 g.toNat }).replied h 42 .ok
            (bytes 2 (max 64 g.toNat)))))

/-- The reading requests answer from the state, field by field, and change nothing but the reply slot. (R53, R54, R99, R134, R182, R195, R196, R197). What the spec leaves open here is the model's choice: log entries 2, 5, 9, 29, 41. -/
def Obligations.ReadsChangeNothing : Prop :=
  ∀ (h : Req) (s : State),
    (s.power.resetHeld = false → h.len.toNat = 0 →
      exec (.status h) s = .next ((s.handedOn h 1).replied h 1 .ok s.statusBytes)
      ∧ exec (.identify h) s = .next ((s.handedOn h 2).replied h 2 .ok [2, 112, 1]))
    ∧ (∀ tb : Byte, s.serves h 1 → exec (.readTrack h tb) s = .next
        (match argTrack tb with
         | some t => (s.handedOn h 43).replied h 43 .ok (s.trackBytes t)
         | none => (s.handedOn h 43).replied h 43 .badArg []))
    ∧ (∀ lb : Byte, s.serves h 1 → exec (.readLayer h lb) s = .next
        (match s.layer? lb.toNat with
         | some l => (s.handedOn h 44).replied h 44 .ok (s.layerBytes lb.toNat l)
         | none => (s.handedOn h 44).replied h 44 .notFound []))
    ∧ (s.serves h 0 → exec (.readCues h) s = .next ((s.handedOn h 49).replied h 49 .ok s.cuesBytes))
    ∧ (s.serves h 0 → exec (.readFaults h) s = .next ((s.handedOn h 96).replied h 96 .ok s.faults.bytes))
    ∧ (s.serves h 1 → exec (.readClips h 0) s = .next ((s.handedOn h 69).replied h 69 .ok
        (bytes 2 s.mixer.frontClips ++ bytes 2 s.mixer.earClips ++ flagByte s.mixer.frontReported
          ++ flagByte s.mixer.earReported ++ bytes 1 s.cycle.pass)))
    ∧ s.statusBytes.length = 38
    ∧ s.statusBytes.take 11 =
        [BitVec.ofNat 8 s.power.part.ctorIdx, BitVec.ofNat 8 s.cycle.state.ctorIdx]
          ++ bytes 3 s.cycle.shownLen ++ bytes 3 s.cycle.shownPos
          ++ bytes 1 s.cycle.pass ++ bytes 1 s.cycle.beats ++ bytes 1 s.cycle.perBar
    ∧ (∀ t : TrackId, (s.statusBytes.drop (11 + 3 * t.val)).take 3 =
        [BitVec.ofNat 8 (s.track t).state.ctorIdx, if (s.track t).muteTarget = 0 then 1 else 0]
          ++ bytes 1 (s.track t).stack.length)
    ∧ s.statusBytes.drop 29 =
        bytes 2 s.mem.free.length ++ bytes 2 s.mem.bad.length ++ bytes 1 s.cues.entries.length
          ++ [if s.faults.summary then 1 else 0, if s.audio.present then 0 else 1]
          ++ bytes 2 s.audio.linkErrors
    ∧ (∀ (t : TrackId) (r : Track), r = s.track t → s.trackBytes t =
        bytes 1 r.state.ctorIdx ++ bytes 1 (r.span.getD 0) ++ bytes 1 (r.heldSpan.getD 0)
          ++ bytes 2 r.feedback ++ bytes 2 r.frontSend ++ bytes 2 r.earSend ++ [r.sources]
          ++ bytes 2 r.muteTarget ++ bytes 2 r.ramp ++ bytes 1 r.stack.length
          ++ bytes 1 r.stack.length ++ r.stack.flatMap (fun e =>
            match e with
            | .single i => bytes 1 i
            | .pair o n => Config.pairBytes (BitVec.ofNat 8 o) (BitVec.ofNat 8 n))
          ++ bytes 1 (r.openLayer.getD 0) ++ bytes 1 r.redo.length ++ r.redo.flatMap (bytes 1)
          ++ bytes 1 ((r.marker.map Prod.fst).getD 0) ++ bytes 1 ((r.marker.map Prod.snd).getD 0)
          ++ bytes 2 r.foldClips
          ++ (match s.fold with
            | some f => if f.track = t then bytes 1 f.result ++ bytes 4 f.nextOff ++ bytes 2 f.pendingGain else []
            | none => []))
    ∧ (∀ (id : Nat) (l : Layer) (sus : List Nat), sus = l.extents.filter l.suspects.contains →
        s.layerBytes id l =
        bytes 1 id ++ bytes 1 l.track.val ++ bytes 1 l.state.ctorIdx ++ bytes 1 l.origin.ctorIdx
          ++ (match l.start with
            | .at q => bytes 4 q
            | .first pass pos => bytes 1 pass ++ bytes 3 pos)
          ++ bytes 4 (if l.state = .opened then
              match s.recordOf id with
              | some r => stampSub (stampAdd s.cycle.frameCount 1) r.startStamp
              | none => 0
            else l.length)
          ++ [if l.cover then 1 else 0, if l.head then 1 else 0, if l.tail then 1 else 0]
          ++ bytes 2 l.gain ++ [if l.damaged then 1 else 0]
          ++ bytes 1 l.holes.length ++ l.holes.flatMap (fun x => bytes 4 x.first ++ bytes 4 x.len)
          ++ bytes 2 l.extents.length ++ bytes 2 sus.length
          ++ bytes 1 (sus.take 255).length ++ (sus.take 255).flatMap (bytes 2))
    ∧ s.cuesBytes =
        bytes 1 s.cues.entries.length ++ bytes 2 s.cues.nextId ++ bytes 1 s.cycle.pass
          ++ bytes 3 s.cycle.shownPos ++ bytes 1 s.cues.entries.length
          ++ s.cues.entries.flatMap (fun c =>
            bytes 2 c.id ++ [(match c.origin with | .a => 0 | .b => 1 : Byte)]
              ++ bytes 1 ((if c.joinedA then 1 else 0) + (if c.joinedB then 2 else 0))
              ++ bytes 1 c.action.ctorIdx ++ bytes 1 c.action.family.ctorIdx
              ++ [(match c.target with | some t => BitVec.ofNat 8 t.val | none => Config.targetAllCode : Byte)]
              ++ bytes 1 c.quantum.ctorIdx ++ bytes 1 c.press.pass ++ bytes 3 c.press.pos
              ++ bytes 4 (c.press.time / 16000) ++ bytes 1 c.duePass ++ bytes 3 c.duePos
              ++ bytes 4 (s.cycle.forwardDistance c.duePass c.duePos))
    ∧ (∀ f : Faults, f.bytes =
        (match f.record with
          | none => [0]
          | some (o, n) => [1] ++ bytes 1 o.kind.ctorIdx ++ [if o.kind.hard then 1 else 0]
              ++ bytes 1 o.requester.ctorIdx ++ bytes 2 (o.block.getD 65535) ++ bytes 1 (o.layer.getD 0)
              ++ bytes 1 ((o.track.map Fin.val).getD 255) ++ bytes 1 o.pass ++ bytes 3 o.pos ++ bytes 2 n)
          ++ bytes 2 f.seq
          ++ [if f.seenCorrected then 1 else 0, if f.seenUnderrun then 1 else 0
            , if f.seenUncorrectable then 1 else 0, if f.seenWriteTimeout then 1 else 0
            , if f.seenWriteOverrun then 1 else 0]
          ++ bytes 2 f.correctedCount ++ bytes 2 f.underrunCount ++ [if f.second then 1 else 0]
          ++ [if f.seenCorrected || f.seenUnderrun || f.seenUncorrectable || f.seenWriteTimeout
              || f.seenWriteOverrun then 1 else 0])
    ∧ [Machine.Part.starting, .run, .rest].map Machine.Part.ctorIdx = [0, 1, 2]
    ∧ [Machine.CycleState.empty, .defining, .running, .paused].map Machine.CycleState.ctorIdx = [0, 1, 2, 3]
    ∧ [Machine.TrackState.empty, .recording, .playing, .overdubbing, .replacing].map Machine.TrackState.ctorIdx = [0, 1, 2, 3, 4]
    ∧ [Machine.LayerState.opened, .closed, .folding, .importing, .undone].map Machine.LayerState.ctorIdx = [0, 1, 2, 3, 4]
    ∧ [Machine.LayerOrigin.recorded, .rolled, .folded, .imported].map Machine.LayerOrigin.ctorIdx = [0, 1, 2, 3]
    ∧ [Machine.Action.record, .overdub, .replace, .close, .mute, .unmute, .undo, .redo, .stopAll, .playAll].map
        Machine.Action.ctorIdx = [0, 1, 2, 3, 4, 5, 6, 7, 8, 9]
    ∧ [Machine.Family.transport, .mute, .stack, .all].map Machine.Family.ctorIdx = [0, 1, 2, 3]
    ∧ [Machine.Quantum.none, .beat, .bar, .cycle].map Machine.Quantum.ctorIdx = [0, 1, 2, 3]
    ∧ [Machine.FaultKind.corrected, .underrun, .uncorrectable, .writeTimeout, .writeOverrun].map Machine.FaultKind.ctorIdx =
        [0, 1, 2, 3, 4]
    ∧ [Machine.Requester.playback, .capture, .fold, .windowA, .windowB, .test].map Machine.Requester.ctorIdx =
        [0, 1, 2, 3, 4, 5]

/-- SET SWITCH, SET PRESS TIMING and SELECT TRACK write what their rules give, or are refused. (R104). -/
def Obligations.SwitchMapAndTiming : Prop :=
  ∀ (h : Req) (s : State),
    (∀ c t ho d g q : Byte, s.serves h 6 →
      (argSwitch c = none ∨ argSwAction t = none ∨ argSwAction ho = none ∨ argSwAction d = none
          ∨ argSwTarget g = none ∨ argQuantum q = none →
        exec (.setSwitch h c t ho d g q) s = .next ((s.handedOn h 56).replied h 56 .badArg []))
      ∧ (∀ (code : SwitchCode) (tapAct hold double : SwAction) (target : SwTarget) (quantum : Quantum),
        argSwitch c = some code → argSwAction t = some tapAct → argSwAction ho = some hold →
        argSwAction d = some double → argSwTarget g = some target → argQuantum q = some quantum →
        ∀ e : MapEntry, e =
          { tap := tapAct, hold := if hold = .none then none else some hold
            double := if double = .none then none else some double, target := target, quantum := quantum } →
        exec (.setSwitch h c t ho d g q) s =
          .next ({ s.handedOn h 56 with
              switches := { s.switches with map := s.switches.map.set code.val e code.isLt } }.replied h 56 .ok
            (mapEntryBytes e))))
    ∧ (∀ ho d : BitVec 16, s.serves h 4 →
      exec (.setPressTiming h ho d) s =
        .next ({ s.handedOn h 57 with
            switches := { s.switches with
              holdMs := max 150 (min 2000 ho.toNat), doubleMs := max 100 (min 600 d.toNat) } }.replied h 57 .ok
          (bytes 2 (max 150 (min 2000 ho.toNat)) ++ bytes 2 (max 100 (min 600 d.toNat)))))
    ∧ (∀ tb : Byte, s.serves h 1 →
      (argTrack tb = none → exec (.selectTrack h tb) s = .next ((s.handedOn h 60).replied h 60 .badArg []))
      ∧ (∀ t, argTrack tb = some t →
        exec (.selectTrack h tb) s =
          .next (((s.handedOn h 60).setSwitchPort h.port { s.switchPort h.port with selected := t }).replied h 60
            .ok (bytes 1 t.val))))

/-- SWITCH DOWN, SWITCH UP and the deadlines move the press machine of their port and code, and an issue hands its action on and is recorded. (R12, R105, R106, R107, R108, R110, R111, R114, R115). What the spec leaves open here is the model's choice: log entries 2, 5, 12. -/
def Obligations.PressMachinesMove : Prop :=
  (∀ (h : Req) (cb : Byte) (s : State), s.serves h 1 →
    (argSwitch cb = none →
      exec (.switchDown h cb) s = .next ((s.handedOn h 58).replied h 58 .badArg [])
      ∧ exec (.switchUp h cb) s = .next ((s.handedOn h 59).replied h 59 .badArg []))
    ∧ (∀ c, argSwitch cb = some c → ∀ d v : State, d = s.handedOn h 58 → v = s.handedOn h 59 →
      ∃ (down up : State) (ignoredDown ignoredUp : Bool),
        exec (.switchDown h cb) s =
          .next (down.settle.replied h 58 .ok (down.settle.switchResults h.port c ignoredDown))
        ∧ exec (.switchUp h cb) s =
          .next (up.settle.replied h 59 .ok (up.settle.switchResults h.port c ignoredUp))
        ∧ (match s.machine h.port c with
           | .up =>
             down = d.setMachine h.port c (.down s.pressNow (some (s.now + 16000 * s.switches.holdMs)))
               ∧ ignoredDown = false ∧ up = v ∧ ignoredUp = true
           | .down press _ =>
             down = d ∧ ignoredDown = true ∧ ignoredUp = false
               ∧ up = (match (s.switches.map[c]).double with
                 | none =>
                   (v.setMachine h.port c .up).issue h.port c .tap (s.switches.map[c]).tap
                     (s.switches.map[c]).target (s.switches.map[c]).quantum press
                 | some double =>
                   v.setMachine h.port c
                     (.awaitSecond press (s.now + 16000 * s.switches.doubleMs)
                       { tap := (s.switches.map[c]).tap, double := double
                         target := (s.switches.map[c]).target, quantum := (s.switches.map[c]).quantum }))
           | .held =>
             down = d ∧ ignoredDown = true ∧ up = v.setMachine h.port c .up ∧ ignoredUp = false
           | .awaitSecond _ _ copy =>
             down = (d.setMachine h.port c .held).issue h.port c .double copy.double copy.target copy.quantum
                 s.pressNow
               ∧ ignoredDown = false ∧ up = v ∧ ignoredUp = true)))
    ∧ (∀ (p : Port) (c : SwitchCode) (s : State), s.power.resetHeld = false →
    (∀ press d, s.machine p c = .down press (some d) → d ≤ s.now →
      (∀ a, (s.switches.map[c]).hold = some a →
        exec (.holdDeadline p c) s = .next ((s.setMachine p c .held).issue p c .hold a (s.switches.map[c]).target
          (s.switches.map[c]).quantum s.pressNow).settle)
      ∧ ((s.switches.map[c]).hold = none →
        exec (.holdDeadline p c) s = .next (s.setMachine p c (.down press none)).settle))
    ∧ (∀ press d copy, s.machine p c = .awaitSecond press d copy → d ≤ s.now →
      exec (.windowDeadline p c) s = .next ((s.setMachine p c .up).issue p c .deferredTap copy.tap copy.target
        copy.quantum press).settle)
    ∧ ((∀ press d, s.machine p c = .down press (some d) → s.now < d) →
      exec (.holdDeadline p c) s = .next s.settle)
    ∧ ((∀ press d copy, s.machine p c = .awaitSecond press d copy → s.now < d) →
      exec (.windowDeadline p c) s = .next s.settle))
    ∧ (∀ (p : Port) (code : SwitchCode) (kind : IssueKind) (target : SwTarget) (q : Quantum)
        (press : PressTime) (s : State) (t : TrackId) (done : State → Handed → Answer → OutTarget → State)
        (only : Status → Answer) (issued : SwAction → State),
      t = (match target with | .track t => t | .selected => (s.switchPort p).selected) →
      done = (fun v handed ans out => v.setSwitchPort p { v.switchPort p with
        issues := ((v.switchPort p).issues + 1) % 256
        last := some { code := code, kind := kind, action := handed, target := out, status := ans.status,
                       cue := ans.cue, point := ans.point, time := v.now } }) →
      only = (fun st => { status := st, cue := none, point := none, back := none }) →
      issued = (fun a => s.issue p code kind a target q press) →
      issued .none = s
      ∧ (∀ a v handed ans, a = .recordCycle ∨ a = .overdubToggle ∨ a = .replaceToggle →
        s.toggle p t a q press = (v, handed, ans) → issued a = done v handed ans (.track t))
      ∧ (∀ (a : SwAction) (x : Action) (v : State) (ans : Answer),
        a = .close ∧ x = .close ∨ a = .undo ∧ x = .undo ∨ a = .redo ∧ x = .redo
          ∨ a = .muteToggle ∧ x = (if (s.track t).muteTarget = 0 then .unmute else .mute) →
        s.quantised p x (some t) q press = (v, ans) → issued a = done v (.cue x) ans (.track t))
      ∧ (∀ (x : Action) (v : State) (ans : Answer),
        x = (if s.cycle.state = .paused then .playAll else .stopAll) →
        s.quantised p x none q press = (v, ans) → issued .playStopAll = done v (.cue x) ans .all)
      ∧ issued .clearTrack = done (s.actClearTrack t) .clearTrack (only .ok) (.track t)
      ∧ (∀ v st n len, s.actTap press.frame = (v, st, n, len) → issued .tap = done v .tap (only st) .absent)
      ∧ issued .selectNext = done (s.setSwitchPort p { s.switchPort p with
          selected := Fin.ofNat 6 ((s.switchPort p).selected.val + 1) }) .selectNext (only .ok) .absent
      ∧ issued .selectPrevious = done (s.setSwitchPort p { s.switchPort p with
          selected := Fin.ofNat 6 ((s.switchPort p).selected.val + 5) }) .selectPrevious (only .ok) .absent)

/-- A toggle of the other port within 100 ms joins; otherwise it is resolved by the projected state, or cancels its own entry. (R95, R112, R113, R114). What the spec leaves open here is the model's choice: log entries 2, 23. -/
def Obligations.MatchingPressesJoin : Prop :=
  (∀ (p : Port) (t : TrackId) (a : SwAction) (q : Quantum) (press : PressTime) (s : State) (e : Cue),
      s.slot (some t) .transport = some e → e.origin = p.other →
      e.press.time < press.time + 1600000 → press.time < e.press.time + 1600000 →
      s.toggle p t a q press = (s.joinCue e.id p, .join,
        { status := .joined, cue := some e.id, point := some ⟨e.duePass, e.duePos⟩, back := none }))
    ∧ (∀ (p : Port) (t : TrackId) (a : SwAction) (q : Quantum) (press : PressTime) (s : State) (r : Recent),
      s.slot (some t) .transport = none → s.switches.recent[t] = some r → r.port = p.other →
      r.time < press.time + 1600000 → press.time < r.time + 1600000 →
      s.toggle p t a q press = (s, .cue r.action,
        { status := .joined, cue := none, point := some r.point, back := none }))
    ∧ (∀ (p : Port) (t : TrackId) (a : SwAction) (q : Quantum) (press : PressTime) (s : State)
        (own : Option Cue) (st : TrackState), s.slot (some t) .transport = own →
      (∀ e, own = some e → e.origin = p ∨ e.press.time + 1600000 ≤ press.time
        ∨ press.time + 1600000 ≤ e.press.time) →
      (own = none → ∀ r, s.switches.recent[t] = some r → r.port = p ∨ r.time + 1600000 ≤ press.time
        ∨ press.time + 1600000 ≤ r.time) →
      st = (match own with
        | none => (s.track t).state
        | some e => match e.action with
          | .record => .recording
          | .overdub => .overdubbing
          | .replace => .replacing
          | .close => .playing
          | _ => (s.track t).state) →
      (resolveToggle a st = none → s.toggle p t a q press = (s, .refusedToggle, Answer.of .badState))
      ∧ (∀ x, resolveToggle a st = some x →
        ∀ against : Cue → Prop, against = (fun e => e.origin = p
          ∧ ((x = .close ∧ (e.action = .record ∨ e.action = .overdub ∨ e.action = .replace))
            ∨ (e.action = .close ∧ (x = .record ∨ x = .overdub ∨ x = .replace)))) →
        (∀ e, own = some e → against e → s.toggle p t a q press = (s.dropCue .cancelled e, .cancel,
          { status := .ok, cue := some e.id, point := none, back := none }))
        ∧ ((∀ e, own = some e → ¬ against e) →
          ∀ v ans, s.quantised p x (some t) q press = (v, ans) →
          s.toggle p t a q press = ((match ans.back, ans.point with
            | some _, some at_ => { v with switches := { v.switches with
                recent := (v.switches.recent.set t.val
                  (some { port := p, time := press.time, action := x, point := at_ }) t.isLt) } }
            | _, _ => v), .cue x, ans))))
    ∧ resolveToggle .recordCycle .empty = some .record
    ∧ resolveToggle .overdubToggle .empty = none ∧ resolveToggle .replaceToggle .empty = none
    ∧ resolveToggle .recordCycle .playing = some .overdub
    ∧ resolveToggle .overdubToggle .playing = some .overdub
    ∧ resolveToggle .replaceToggle .playing = some .replace
    ∧ (∀ a st, st = .recording ∨ st = .overdubbing ∨ st = .replacing → resolveToggle a st = some .close)

/-- SET MONITOR, SET BUS, SET CLICK, SET OUTPUT, SET EDGE and a clearing READ CLIPS write what they say. (R126, R128, R131, R132, R133, R134). What the spec leaves open here is the model's choice: log entries 9, 42. -/
def Obligations.MixerSettings : Prop :=
  ∀ (h : Req) (s : State),
    (∀ (sb : Byte) (f e : BitVec 16), s.serves h 5 →
      (argSlot sb = none → exec (.setMonitor h sb f e) s = .next ((s.handedOn h 64).replied h 64 .badArg []))
      ∧ (∀ i, argSlot sb = some i → exec (.setMonitor h sb f e) s =
          .next ({ s.handedOn h 64 with mixer := { s.mixer with
              frontMonitor := s.mixer.frontMonitor.set i.val f.toNat i.isLt
              earMonitor := s.mixer.earMonitor.set i.val e.toNat i.isLt } }.replied h 64 .ok
            (bytes 1 i.val ++ bytes 2 f.toNat ++ bytes 2 e.toNat))))
    ∧ (∀ f e : BitVec 16, s.serves h 4 → exec (.setBus h f e) s =
        .next ({ s.handedOn h 65 with mixer := { s.mixer with frontBus := f.toNat, earBus := e.toNat } }.replied
          h 65 .ok (bytes 2 f.toNat ++ bytes 2 e.toNat)))
    ∧ (∀ (en : Byte) (lv : BitVec 24), s.serves h 4 →
      (1 < en.toNat → exec (.setClick h en lv) s = .next ((s.handedOn h 66).replied h 66 .badArg []))
      ∧ (en.toNat ≤ 1 → exec (.setClick h en lv) s =
          .next ({ s.handedOn h 66 with mixer := { s.mixer with
              clickOn := decide (en.toNat = 0), clickLevel := min 8388607 lv.toNat } }.replied h 66 .ok
            ([en] ++ bytes 3 (min 8388607 lv.toNat)))))
    ∧ (∀ sb k n : Byte, s.serves h 3 →
      (argSlot sb = none ∨ argSource k n = none →
        exec (.setOutput h sb k n) s = .next ((s.handedOn h 67).replied h 67 .badArg []))
      ∧ (∀ i src, argSlot sb = some i → argSource k n = some src →
        exec (.setOutput h sb k n) s =
          .next ({ s.handedOn h 67 with mixer := { s.mixer with
              outputs := s.mixer.outputs.set i.val src i.isLt } }.replied h 67 .ok
            (bytes 1 i.val ++ sourceBytes src))))
    ∧ (∀ r : BitVec 16, s.serves h 2 → exec (.setEdge h r) s =
        .next ({ s.handedOn h 68 with mixer := { s.mixer with edge := min 1023 r.toNat } }.replied h 68 .ok
          (bytes 2 (min 1023 r.toNat))))
    ∧ (∀ cl : Byte, s.serves h 1 →
      (cl = 1 → exec (.readClips h cl) s =
        .next ({ s.handedOn h 69 with mixer := { s.mixer with frontClips := 0, earClips := 0 } }.replied h 69 .ok
          (bytes 2 s.mixer.frontClips ++ bytes 2 s.mixer.earClips ++ flagByte s.mixer.frontReported
            ++ flagByte s.mixer.earReported ++ bytes 1 s.cycle.pass)))
      ∧ (1 < cl.toNat → exec (.readClips h cl) s = .next ((s.handedOn h 69).replied h 69 .badArg [])))

/-- OPEN WINDOW opens the port's window or is refused by the order of its table. (R151). -/
def Obligations.OpenWindowByItsTable : Prop :=
  ∀ (h : Req) (lb : Byte) (off : BitVec 32) (db mb : Byte) (s : State), s.serves h 7 →
    (s.power.part = .rest →
      exec (.openWindow h lb off db mb) s = .next ((s.handedOn h 80).replied h 80 .resting []))
    ∧ (s.power.part ≠ .rest → (s.window h.port).isSome = true →
      exec (.openWindow h lb off db mb) s = .next ((s.handedOn h 80).replied h 80 .busy []))
    ∧ (s.power.part ≠ .rest → s.window h.port = none → argDirection db = none ∨ argMode mb = none →
      exec (.openWindow h lb off db mb) s = .next ((s.handedOn h 80).replied h 80 .badArg []))
    ∧ (s.power.part ≠ .rest → s.window h.port = none →
      ∀ (dir : Direction) (m : WinMode), argDirection db = some dir → argMode mb = some m →
      (s.layer? lb.toNat = none →
        exec (.openWindow h lb off db mb) s = .next ((s.handedOn h 80).replied h 80 .notFound []))
      ∧ (∀ l, s.layer? lb.toNat = some l →
        ∀ badState badArg : Prop,
        badState = (if m = .read then
            l.state = .importing ∨ l.state = .undone ∨ (∃ f, s.fold = some f ∧ f.result = lb.toNat)
          else l.state ≠ .importing ∨ l.creator ≠ some h.port) →
        badArg = (if m = .read then s.lengthOf lb.toNat l ≤ off.toNat
          else dir = .reverse ∨ off.toNat ≠ l.committed) →
        (badState →
          exec (.openWindow h lb off db mb) s = .next ((s.handedOn h 80).replied h 80 .badState []))
        ∧ (¬ badState → badArg →
          exec (.openWindow h lb off db mb) s = .next ((s.handedOn h 80).replied h 80 .badArg []))
        ∧ (¬ badState → ¬ badArg →
          exec (.openWindow h lb off db mb) s =
            .next ((((s.handedOn h 80).setWindow h.port (some
                { layer := lb.toNat, mode := m, dir := dir, next := off.toNat, buf := [], req := .absent,
                  timedOut := false, done := false, excess := 0, closing := false
                  latched := 0, shifting := false })).settle).replied h 80 .ok
              (bytes 4 (s.lengthOf lb.toNat l) ++ bytes 4 off.toNat)))))

/-- CLOSE WINDOW closes a window with nothing to commit, and makes or awaits the commit of what its buffer holds. (R153, R155, R158). What the spec leaves open here is the model's choice: log entries 6, 22. -/
def Obligations.CloseWindowCloses : Prop :=
  ∀ (h : Req) (s : State), s.serves h 0 →
    (s.power.part = .rest → exec (.closeWindow h) s = .next ((s.handedOn h 81).replied h 81 .resting []))
    ∧ (s.power.part ≠ .rest → s.window h.port = none →
      exec (.closeWindow h) s = .next ((s.handedOn h 81).replied h 81 .badState []))
    ∧ (∀ w : Window, s.power.part ≠ .rest → s.window h.port = some w →
      ∀ shut : State, shut = ((s.handedOn h 81).setWindow h.port none).setWait
          (match h.port with | .a => .windowA | .b => .windowB) { start := none, raised := false } →
      (w.mode = .read → ¬ (w.dir = .reverse ∧ w.done = true) →
        exec (.closeWindow h) s = .next (shut.settle.replied h 81 .ok (bytes 4 w.next ++ flagByte w.timedOut)))
      ∧ (w.mode = .read → w.dir = .reverse → w.done = true →
        exec (.closeWindow h) s = .next (shut.settle.replied h 81 .ok
          (bytes 4 Config.reversePastZero.toNat ++ flagByte w.timedOut)))
      ∧ (w.mode = .write → w.buf = [] →
        exec (.closeWindow h) s = .next (shut.settle.replied h 81 .ok
          (bytes 4 w.next ++ bytes 2 w.excess ++ flagByte w.timedOut)))
      ∧ (w.mode = .write → w.buf ≠ [] → w.req ≠ .absent →
        exec (.closeWindow h) s =
          .next ((s.handedOn h 81).setWindow h.port (some { w with closing := true })).settle)
      ∧ (∀ (l : Layer) (o : Nat) (v : State), w.mode = .write → w.buf ≠ [] → w.req = .absent →
        s.layer? w.layer = some l → o = w.next - w.buf.length →
        v = (s.handedOn h 81).setWindow h.port (some { w with
          closing := true, req := .waiting s.now (s.windowTimeout h.port) }) →
        (o / 4096 < l.extents.length → exec (.closeWindow h) s = .next v.settle)
        ∧ (∀ blk more, l.extents.length ≤ o / 4096 → s.mem.free = blk :: more →
          exec (.closeWindow h) s = .next (({ v with mem := { v.mem with free := more } }.setLayer w.layer
            { l with extents := l.extents ++ [blk] }).settle))
        ∧ (l.extents.length ≤ o / 4096 → s.mem.free = [] → s.layers.Pairwise (fun e f => e.1 < f.1) →
          ∃ u : State, exec (.closeWindow h) s = .next u.settle ∧ u.window h.port = none
            ∧ u.layer? w.layer = none ∧ u.mem.free = l.extents.filter (fun b => !l.suspects.contains b)
            ∧ (u.port h.port).reply = .full
              { status := .noMemory, tag := h.tag, code := 81
                results := bytes 4 o ++ bytes 2 w.excess ++ flagByte w.timedOut })))

/-- IMPORT LAYER makes an importing layer and opens the port's WRITE window on it, or is refused by the order of its table. (R26, R28, R30, R156). -/
def Obligations.ImportLayerOpensAWriteWindow : Prop :=
  ∀ (h : Req) (tb sb cb : Byte) (start length : BitVec 32) (g : BitVec 16) (t : TrackId) (span len id : Nat)
      (cover : Bool) (s : State), s.serves h 13 →
    (s.power.part = .rest →
      exec (.importLayer h tb sb start length cb g) s = .next ((s.handedOn h 82).replied h 82 .resting []))
    ∧ (s.power.part ≠ .rest → argTrack tb = some t → argSpan sb = some span → argFlag cb = some cover →
      length.toNat ≠ 0 → s.cycle.state = .running ∨ s.cycle.state = .paused → s.cycle.len = some len →
      (s.track t).state = .empty ∧ s.holdsImport t = false
        ∨ (s.track t).state = .playing ∧ (s.track t).span = some span →
      start.toNat + length.toNat ≤ span * len → s.window h.port = none →
      (s.track t).stack.length < 8 → (s.track t).redo = [] → s.freeId = some id →
      ∃ u : State, exec (.importLayer h tb sb start length cb g) s =
          .next (u.settle.replied h 82 .ok (bytes 1 id))
        ∧ u.layer? id = some { Layer.fresh t .importing .imported (.at start.toNat) cover false with
            length := length.toNat, gain := max 64 g.toNat, creator := some h.port }
        ∧ (u.track t).stack = (s.track t).stack ++ [.single id] ∧ (u.track t).state = (s.track t).state
        ∧ ((s.track t).state = .empty → (u.track t).heldSpan = some span)
        ∧ (∀ t', t' ≠ t → u.track t' = s.track t')
        ∧ u.window h.port = some
            { layer := id, mode := .write, dir := .forward, next := 0, buf := [], req := .absent,
              timedOut := false, done := false, excess := 0, closing := false, latched := 0, shifting := false }
        ∧ u.cycle = s.cycle ∧ u.mem.words = s.mem.words)
    ∧ (∀ (S : Nat) (refused : Status → Prop), s.power.part ≠ .rest →
      refused = (fun st => exec (.importLayer h tb sb start length cb g) s =
        .next ((s.handedOn h 82).replied h 82 st [])) →
      (6 ≤ tb.toNat ∨ sb.toNat ∉ [1, 2, 4, 8] ∨ length.toNat = 0 ∨ 1 < cb.toNat → refused .badArg)
      ∧ (tb.toNat = t.val → sb.toNat = span → span ∈ [1, 2, 4, 8] → length.toNat ≠ 0 →
        cb.toNat = (if cover = true then 1 else 0) →
        (s.cycle.state = .empty ∨ s.cycle.state = .defining → refused .badState)
        ∧ (s.cycle.state = .running ∨ s.cycle.state = .paused →
          ((s.track t).state ≠ .empty → (s.track t).state ≠ .playing → refused .badState)
          ∧ ((s.track t).state = .empty ∧ S = span
              ∨ (s.track t).state = .playing ∧ (s.track t).span = some S →
            (s.window h.port ≠ none → refused .busy)
            ∧ (s.window h.port = none →
              ∀ other : Prop, other = ((s.track t).state = .empty ∧ (s.track t).heldSpan ≠ some span
                ∧ ∃ i ∈ stackIds (s.track t).stack, ∃ l, s.layer? i = some l ∧ l.state = .importing) →
              (other → refused .badArg)
              ∧ (¬ other → s.cycle.len = some len →
                (S * len < start.toNat + length.toNat → refused .badArg)
                ∧ (start.toNat + length.toNat ≤ S * len →
                  (∀ st, (s.handedOn h 82).takeRoom t = .error st → refused st)
                  ∧ (∀ v, (s.handedOn h 82).takeRoom t = .ok (v, id) →
                    ∃ u : State, exec (.importLayer h tb sb start length cb g) s =
                        .next (u.settle.replied h 82 .ok (bytes 1 id))
                      ∧ u.layer? id = some { Layer.fresh t .importing .imported (.at start.toNat) cover false with
                          length := length.toNat, gain := max 64 g.toNat, creator := some h.port }
                      ∧ (u.track t).stack = (v.track t).stack ++ [.single id] ∧ (u.track t).redo = []
                      ∧ (u.track t).state = (s.track t).state ∧ (u.track t).span = (s.track t).span
                      ∧ ((s.track t).state = .empty → (u.track t).heldSpan = some span)
                      ∧ (s.layers.Pairwise (fun x y => x.1 < y.1) →
                        ∀ i ∈ (s.track t).redo, i ≠ id → u.layer? i = none)
                      ∧ (∀ t', t' ≠ t → u.track t' = s.track t')
                      ∧ u.window h.port = some
                          { layer := id, mode := .write, dir := .forward, next := 0, buf := [], req := .absent,
                            timedOut := false, done := false, excess := 0, closing := false, latched := 0
                            shifting := false }
                      ∧ u.cycle = s.cycle ∧ u.mem.words = s.mem.words))))))))

/-- SET WINDOW TIMEOUT, SET LINK THRESHOLD, CLEAR LINK COUNT and CLEAR FAULTS act as their rules say. (R154, R170, R171, R183). What the spec leaves open here is the model's choice: log entries 26, 29. -/
def Obligations.WindowLinkAndFaultSettings : Prop :=
  ∀ (h : Req) (s : State),
    (∀ ms : BitVec 16, s.serves h 2 →
      (ms = 4 ∨ ms = 16 ∨ ms = 64 ∨ ms = 256 → exec (.setWindowTimeout h ms) s =
        .next ((match h.port with
          | .a => { s.handedOn h 83 with mem := { s.mem with timeoutA := ms.toNat } }
          | .b => { s.handedOn h 83 with mem := { s.mem with timeoutB := ms.toNat } } : State).replied h 83 .ok
            (bytes 2 ms.toNat)))
      ∧ (ms ≠ 4 → ms ≠ 16 → ms ≠ 64 → ms ≠ 256 →
        exec (.setWindowTimeout h ms) s = .next ((s.handedOn h 83).replied h 83 .badArg [])))
    ∧ (∀ n : BitVec 16, s.serves h 2 →
      (n.toNat = 0 ∨ 255 < n.toNat →
        exec (.setLinkThreshold h n) s = .next ((s.handedOn h 88).replied h 88 .badArg []))
      ∧ (1 ≤ n.toNat → n.toNat ≤ 255 → exec (.setLinkThreshold h n) s =
        .next ({ s.handedOn h 88 with audio := { s.audio with threshold := n.toNat } }.replied h 88 .ok
          (bytes 2 n.toNat ++ bytes 1 s.audio.passErrors ++ bytes 2 s.audio.linkErrors))))
    ∧ (s.serves h 0 → exec (.clearLinkCount h) s =
        .next ({ s.handedOn h 89 with audio := { s.audio with linkErrors := 0, passErrors := 0 } }.replied h 89 .ok
          (bytes 2 s.audio.linkErrors ++ bytes 1 s.audio.passErrors)))
    ∧ (∀ n : BitVec 32, s.serves h 4 →
      (65535 < n.toNat → exec (.clearFaults h n) s = .next ((s.handedOn h 97).replied h 97 .badArg []))
      ∧ (n.toNat ≤ 65535 → n.toNat = s.faults.seq →
        exec (.clearFaults h n) s = .next ({ s.handedOn h 97 with faults :=
            { record := none, seq := s.faults.seq, seenCorrected := false, seenUnderrun := false,
              seenUncorrectable := false, seenWriteTimeout := false, seenWriteOverrun := false,
              correctedCount := 0, underrunCount := 0, second := false } }.replied h 97 .ok s.faults.bytes))
      ∧ (n.toNat ≤ 65535 → n.toNat ≠ s.faults.seq →
        exec (.clearFaults h n) s = .next ((s.handedOn h 97).replied h 97 .stale (bytes 2 s.faults.seq))))

/-- A fault sets its flag and its count, the record takes the first occurrence, a hard one over a soft one, and FAULT is raised by class. (R174, R175, R176, R180). -/
def Obligations.FaultRecordTakesTheFirstHardest : Prop :=
  ∀ (o : Occurrence) (s : State) (f : Faults), f = (s.takeFault o).faults →
    f.seen o.kind = true
    ∧ (s.faults.record = none →
      f.record = some (o, (s.faults.seq + 1) % 65536) ∧ f.seq = (s.faults.seq + 1) % 65536
        ∧ f.second = s.faults.second)
    ∧ (∀ r, s.faults.record = some r → r.1.kind.hard = false →
      (o.kind.hard = true →
        f.record = some (o, (s.faults.seq + 1) % 65536) ∧ f.seq = (s.faults.seq + 1) % 65536
          ∧ f.second = s.faults.second)
      ∧ (o.kind.hard = false →
        f.record = s.faults.record ∧ f.seq = s.faults.seq ∧ f.second = s.faults.second))
    ∧ (∀ r, s.faults.record = some r → r.1.kind.hard = true →
      f.record = s.faults.record ∧ f.seq = s.faults.seq ∧ f.second = (s.faults.second || o.kind.hard))
    ∧ (∀ k, k ≠ o.kind → f.seen k = s.faults.seen k)
    ∧ (f.correctedCount = if o.kind = .corrected then min 65535 (s.faults.correctedCount + 1)
      else s.faults.correctedCount)
    ∧ (f.underrunCount = if o.kind = .underrun then min 65535 (s.faults.underrunCount + 1)
      else s.faults.underrunCount)
    ∧ (o.kind.hard = true ↔ o.kind = .uncorrectable ∨ o.kind = .writeTimeout ∨ o.kind = .writeOverrun)
    ∧ (∀ (out : Nat) (e : Event),
      out = (match s.faults.record with
        | none => 0
        | some r => if o.kind.hard = true then (if r.1.kind.hard = true then 2 else 1) else 3) →
      e = { kind := .fault, urgent := o.kind.hard, track := o.track, layer := o.layer, cue := none,
            pass := o.pass, pos := o.pos
            detail := BitVec.ofNat 16 (o.kind.ctorIdx + 16 * o.requester.ctorIdx + 256 * out) } →
      s.takeFault o = if o.kind.hard = true ∨ s.faults.seen o.kind = false then
          { s with faults := f, portA := s.portA.offer e, portB := s.portB.offer e }
        else { s with faults := f })

/-- REST lets the part rest when nothing is open, and WAKE brings it back. (R208, R209). -/
def Obligations.RestAndWake : Prop :=
  ∀ (h : Req) (s : State), s.serves h 0 →
    (s.power.part = .rest → exec (.rest h) s = .next ((s.handedOn h 112).replied h 112 .resting []))
    ∧ (s.power.part = .run → (s.anyOpen = true ∨ s.anyImporting = true ∨ s.fold.isSome = true) →
      exec (.rest h) s = .next ((s.handedOn h 112).replied h 112 .busy []))
    ∧ (s.power.part = .run → s.anyOpen = false → s.anyImporting = false → s.fold = none →
      ∃ u : State, exec (.rest h) s = .next (u.settle.replied h 112 .ok [])
        ∧ u.power = { s.power with part := .rest }
        ∧ u.cycle = { s.cycle with tap := { count := 0, last := 0, sum := 0 } }
        ∧ u.cues.entries = [] ∧ u.mem.windowA = none ∧ u.mem.windowB = none ∧ u.mixer.burst = none
        ∧ u.tracks = s.tracks ∧ u.layers = s.layers ∧ u.mem.words = s.mem.words)
    ∧ (s.power.part = .run ∨ s.power.latch = true →
      exec (.wake h) s = .next ((s.handedOn h 113).replied h 113 .badState []))
    ∧ (s.power.part = .rest → s.power.latch = false →
      exec (.wake h) s = .next (((({ s.handedOn h 113 with
          power := { s.power with part := .run }, mem := { s.mem with mode := .serving } }).raise
        .runEntered none none 0).settle).replied h 113 .ok []))

/-- SET INTEREST and SET MASK LEVEL set the port's own, the attention line follows the queue, and a full queue sheds. (R200, R201, R203). -/
def Obligations.InterestMaskAndQueues : Prop :=
  (∀ (h : Req) (k : BitVec 32) (s : State), s.serves h 4 →
      exec (.setInterest h k) s = .next
        (if k.getLsbD 0 = true ∨ k.getLsbD 31 = true then (s.handedOn h 3).replied h 3 .badArg []
         else ((s.handedOn h 3).setPort h.port { (s.handedOn h 3).port h.port with interest := k }).replied h 3
          .ok (bytes 4 k.toNat)))
    ∧ (∀ (h : Req) (b : Byte) (s : State), s.serves h 1 →
      (2 < b.toNat → exec (.setMaskLevel h b) s = .next ((s.handedOn h 4).replied h 4 .badArg []))
      ∧ (∀ m : MaskLevel, (b.toNat = 0 ∧ m = .opened) ∨ (b.toNat = 1 ∧ m = .urgentOnly)
          ∨ (b.toNat = 2 ∧ m = .closed) →
        exec (.setMaskLevel h b) s =
          .next (((s.handedOn h 4).setPort h.port { (s.handedOn h 4).port h.port with mask := m }).replied h 4 .ok
            [b])))
    ∧ (∀ c : PortCtl, c.attention = true ↔
        ∃ e ∈ c.queue, c.mask = .opened ∨ (c.mask = .urgentOnly ∧ e.urgent = true))
    ∧ (∀ (e : Event) (c : PortCtl),
    (c.interest.getLsbD e.kind.code = false → c.offer e = c)
    ∧ (c.interest.getLsbD e.kind.code = true →
      (c.queue.length < 32 → c.offer e = { c with queue := c.queue ++ [e] })
      ∧ (32 ≤ c.queue.length → e.urgent = false → c.offer e = { c with lost := min 255 (c.lost + 1) })
      ∧ (32 ≤ c.queue.length → e.urgent = true → c.transfer = none →
        (∀ older newer x, c.queue = older ++ x :: newer → x.urgent = false → (∀ y ∈ newer, y.urgent = true) →
          c.offer e = { c with queue := older ++ newer ++ [e], lost := min 255 (c.lost + 1) })
        ∧ ((∀ y ∈ c.queue, y.urgent = true) → c.offer e = { c with lost := min 255 (c.lost + 1) }))))

/-- POST NOTE fills the other port's mailbox, and TAKE NOTE empties the own. (R204). -/
def Obligations.NotesCrossThePorts : Prop :=
  ∀ (h : Req) (s : State), s.power.resetHeld = false → s.power.part ≠ .starting →
    (∀ note : List Byte, 1 ≤ h.len.toNat → h.len.toNat ≤ 16 →
      ((s.port h.port.other).mailbox = none →
        exec (.postNote h note) s =
          .next (((s.handedOn h 5).setPort h.port.other
              ({ s.port h.port.other with mailbox := some note }.offer
                { kind := .noteArrived, urgent := false, track := none, layer := none, cue := none,
                  pass := s.cycle.pass, pos := s.cycle.shownPos
                  detail := BitVec.ofNat 16 note.length })).replied h 5 .ok []))
      ∧ (∀ old, (s.port h.port.other).mailbox = some old →
        exec (.postNote h note) s = .next ((s.handedOn h 5).replied h 5 .mailboxFull [])))
    ∧ (1 ≤ h.len.toNat ∧ h.len.toNat ≤ 16 ∨ (∀ note,
        exec (.postNote h note) s = .next ((s.handedOn h 5).replied h 5 .badArg [])))
    ∧ (h.len.toNat = 0 →
      ((s.port h.port).mailbox = none →
        exec (.takeNote h) s = .next ((s.handedOn h 6).replied h 6 .empty []))
      ∧ (∀ note, (s.port h.port).mailbox = some note →
        exec (.takeNote h) s =
          .next ((((s.handedOn h 6).setPort h.port { (s.handedOn h 6).port h.port with mailbox := none }).setPort
              h.port.other
              ((s.port h.port.other).offer
                { kind := .noteTaken, urgent := false, track := none, layer := none, cue := none,
                  pass := s.cycle.pass, pos := s.cycle.shownPos
                  detail := BitVec.ofNat 16 note.length })).replied h 6 .ok
            ([BitVec.ofNat 8 note.length] ++ note))))

/-- A frame sync opens a frame or closes one as an arrival, with AUDIO BACK and LINK ERRORS, and outside RUN it makes no music. (R3, R56, R117, R161, R163, R164, R165, R167, R169). What the spec leaves open here is the model's choice: log entries 44, 2, 37. -/
def Obligations.FrameSyncsOutsideRun : Prop :=
  ∀ (n : Nat) (bits : BitVec 256) (ord : Order) (s : State), s.power.resetHeld = false →
    ∀ a : Audio, a = { s.audio with
      out :=
        { count := min 4095 n
          bits := if s.audio.frame.isSome = true then shiftedBits n s.audio.sending
            else shiftedBits (min ord.beforeExpiry n) s.audio.cutOut }
      cutOut := silence
      lastSync := some s.now, sending := s.audio.pendingOut, frame := some { count := 0, bits := 0 } } →
    (s.audio.frame = none → exec (.frameSync n bits ord) s = .next { s with audio := a })
    ∧ (∀ f : FrameIn, s.audio.frame = some f → s.power.part = .rest → s.audio.present = true →
      (f.count + n = 256 →
        exec (.frameSync n bits ord) s = .next { s with
          audio := { a with held := frameSamples (f.bits ||| bits), pendingOut := silence } })
      ∧ (f.count + n ≠ 256 → s.audio.passErrors + 1 < s.audio.threshold → s.audio.passErrors < 255 →
        exec (.frameSync n bits ord) s = .next { s with
          audio := { a with
            pendingOut := silence, passErrors := s.audio.passErrors + 1
            linkErrors := min 65535 (s.audio.linkErrors + 1) } }))
    ∧ (∀ f : FrameIn, s.audio.frame = some f → s.power.part = .starting → s.audio.present = true →
      f.count + n = 256 →
      exec (.frameSync n bits ord) s = .next { s with
        cycle := { s.cycle with frameCount := (s.cycle.frameCount + 1) % 4294967296 }
        capture := { s.capture with
          rings := sparsePut silence ((s.cycle.frameCount + 1) % 4294967296 % 8192)
            (frameSamples (f.bits ||| bits)) s.capture.rings }
        audio := { a with held := frameSamples (f.bits ||| bits), pendingOut := silence } })
    ∧ (∀ (clocks i : Nat) (f : Frame), i < 256 → (shiftedBits clocks f).getLsbD (255 - i) =
      (decide (i < clocks) && decide (i % 32 < 24) && (f[i / 32]!).getLsbD (23 - i % 32)))
    ∧ (∀ (x : BitVec 256) (i : SlotId) (j : Nat), j < 24 →
      ((frameSamples x)[i]).getLsbD j = x.getLsbD (232 - 32 * i.val + j))
    ∧ (∀ (f : FrameIn) (w v : State) (place : Point), s.audio.frame = some f →
      w = { s with audio := { a with
        held := if f.count + n = 256 then frameSamples (f.bits ||| bits) else s.audio.held } } →
      w.arrive ord w.audio.held = (v, place) →
      ∀ (b : State) (raised : EventKind → Nat → Event), raised = (fun k detail =>
        { kind := k, urgent := false, track := none, layer := none, cue := none, pass := place.pass
          pos := place.pos, detail := BitVec.ofNat 16 detail }) →
      b = (if v.audio.present = true then v
        else { v with audio := { v.audio with present := true, lossStart := none } }.raiseEvent
          (raised .audioBack (match v.audio.lossStart with
            | some t => min 65535 ((v.now - t) / 16000)
            | none => 0))) →
      (f.count + n = 256 → exec (.frameSync n bits ord) s = .next b)
      ∧ (f.count + n ≠ 256 →
        ∀ e : Audio, e = { b.audio with
          linkErrors := min 65535 (b.audio.linkErrors + 1), passErrors := min 255 (b.audio.passErrors + 1) } →
        (e.threshold ≤ e.passErrors → b.audio.reported = false →
          exec (.frameSync n bits ord) s =
            .next ({ b with audio := { e with reported := true } }.raiseEvent (raised .linkErrors e.linkErrors)))
        ∧ (e.passErrors < e.threshold ∨ b.audio.reported = true →
          exec (.frameSync n bits ord) s = .next { b with audio := e })))
    ∧ (s.power.part = .rest → ∀ f, s.arrive ord f =
      ({ s with audio := { s.audio with pendingOut := silence } },
        { pass := s.cycle.pass, pos := s.cycle.shownPos }))

/-- An arrival in RUN moves a RUNNING cycle by one position, to the next pass at L, takes every cue due there, and the capture unit takes its frame. (R3, R4, R6, R58, R62, R65, R66, R76, R91, R164, R166). What the spec leaves open here is the model's choice: log entries 4, 13, 19, 37, 40, 54. -/
def Obligations.RunningCycleMovesAtArrivals : Prop :=
  (∀ (n : Nat) (bits : BitVec 256) (ord : Order) (f : FrameIn) (len : Nat) (s : State),
    s.power.resetHeld = false → s.power.part = .run → s.audio.frame = some f →
    s.cycle.state = .running → s.cycle.len = some len →
    ∀ (c : Cycle) (r : Reached), c = { s.cycle with
        origin := false
        frameCount := (s.cycle.frameCount + 1) % 4294967296
        pos := if s.cycle.origin = true ∨ s.cycle.pos + 1 = len then 0 else s.cycle.pos + 1
        pass := if s.cycle.origin = false ∧ s.cycle.pos + 1 = len then (s.cycle.pass + 1) % 256
          else s.cycle.pass } →
      r = { pass := c.pass, pos := c.pos
            beat := ((List.range c.beats).find? fun j => j * len / c.beats == c.pos).map fun j =>
              (j, j % c.perBar == 0)
            wrap := !s.cycle.origin && decide (s.cycle.pos + 1 = len) } →
    ∃ (v t : State), exec (.frameSync n bits ord) s = .next t
      ∧ v.cycle = c ∧ v.tracks = s.tracks ∧ v.layers = s.layers ∧ v.cues = s.cues ∧ v.capture = s.capture
      ∧ v.mem = s.mem ∧ v.fold = s.fold ∧ v.switches = s.switches ∧ v.power = s.power
      ∧ v.mixer = (if r.wrap = true then { s.mixer with frontReported := false, earReported := false }
        else s.mixer)
      ∧ v.audio.passErrors = (if r.wrap = true then 0 else s.audio.passErrors)
      ∧ v.audio.reported = (if r.wrap = true then false else s.audio.reported)
      ∧ (∀ p, v.port p =
        ((if r.wrap = true then
            [({ kind := .cycleWrap, urgent := false, track := none, layer := none, cue := none,
                pass := c.pass, pos := c.pos, detail := BitVec.ofNat 16 c.pass } : Event)] else [])
          ++ (match r.beat with
            | some (j, bar) =>
              [{ kind := .beat, urgent := false, track := none, layer := none, cue := none,
                 pass := c.pass, pos := c.pos
                 detail := BitVec.ofNat 16 (j + if bar = true then 32768 else 0) }]
            | none => [])).foldl (fun x e => x.offer e) (s.port p))
      ∧ t.cues = (v.atBoundary ord (some r)).cues
      ∧ (∀ d rest, t.cues.entries = d :: rest → ¬ (d.duePass = r.pass ∧ d.duePos = r.pos))
      ∧ (s.cues.entries = [] → t.cycle = c)
      ∧ (s.audio.present = true → f.count + n = 256 →
        t = v.arrivalWork ord (frameSamples (f.bits ||| bits)) (some r)))
    ∧ (∀ (ord : Order) (f : Frame) (r : Option Reached) (s w : State),
      w = ((({ s.atBoundary ord r with fresh := [] } : State).captureArrival s.cycle.here f ord).closeLimits
        (List.finRange 6)).mix f s.cycle.here (r.bind Reached.beat) →
      (s.arrivalWork ord f r).audio.pendingOut = w.audio.pendingOut
      ∧ (w.cycle.state ≠ .defining → (s.arrivalWork ord f r).audio = w.audio
        ∧ (s.arrivalWork ord f r).mixer = w.mixer))
    ∧ (∀ (place : Point) (f : Frame) (ord : Order) (s v w : State),
      v = (List.finRange 12).foldl (fun x i => x.overtake place i) s →
      w = { v with capture := { v.capture with
        rings := sparsePut silence (v.cycle.frameCount % 8192) f v.capture.rings } } →
      s.captureArrival place f ord =
        ((ord.records ++ (List.finRange 12).filter (fun i => !ord.records.contains i)).foldl
          (fun x i => x.liveOne f i) (if ord.waitingFirst = true then w.settleCapture 16 else w)).settleCapture 16)
    ∧ (∀ (f : Frame) (i : Fin 12) (s : State),
      ((∀ r, s.capture.records[i] = some r → r.phase ≠ .inStep ∨ r.readStamp ≠ s.cycle.frameCount) →
        s.liveOne f i = s)
      ∧ (∀ r, s.capture.records[i] = some r → r.phase = .inStep → r.readStamp = s.cycle.frameCount →
        ∀ (x : Sample) (next : Nat) (v : State), next = stampAdd r.readStamp 1 →
        x = clamp24 (((List.finRange 8).filter fun j => (s.track r.track).sources.getLsbD j.val).map
          fun j => (f[j]).toInt).sum →
        v = s.setRecord i (some { r with
          buf := [], readStamp := next, nextOff := stampSub next r.startStamp }) →
        (r.buf.length < 63 →
          s.liveOne f i = s.setRecord i (some { r with buf := r.buf ++ [x], readStamp := next }))
        ∧ (r.buf.length = 63 →
          ∀ burst : Burst, burst =
            { layer := r.layer, offset := r.nextOff, samples := r.buf ++ [x], queuedAt := s.now } →
          (r.nextOff % 4096 ≠ 0 → s.mem.queue.length < 8 →
            s.liveOne f i = { v with mem := { s.mem with queue := s.mem.queue ++ [burst] } })
          ∧ (∀ (l : Layer) (blk : Nat) (more : List Nat), r.nextOff % 4096 = 0 → s.layer? r.layer = some l →
            s.mem.free = blk :: more → s.mem.queue.length < 8 →
            s.liveOne f i = { v with mem := { s.mem with
              free := more, queue := s.mem.queue ++ [burst] } }.setLayer r.layer
                { l with extents := l.extents ++ [blk] })
          ∧ (∀ l, r.nextOff % 4096 ≠ 0 → s.layer? r.layer = some l → 8 ≤ s.mem.queue.length →
            s.liveOne f i = (v.setLayer r.layer
              { l with
                holes := addHole { first := r.nextOff, len := 64 } l.holes
                damaged := true }).takeFault
              { kind := .writeOverrun, requester := .capture, block := l.extents[r.nextOff / 4096]?
                layer := some r.layer, track := some l.track, pass := s.cycle.pass, pos := s.cycle.shownPos })
          ∧ (r.nextOff % 4096 = 0 → s.mem.free = [] →
            s.liveOne f i = (s.setRecord i (some { r with
              buf := r.buf ++ [x], readStamp := next })).exhaust r.layer r.nextOff))))
    ∧ (∀ (place : Point) (i : Fin 12) (s : State),
      ((∀ r, s.capture.records[i] = some r → r.phase = .inStep
          ∨ stampAdd r.readStamp 8192 ≠ s.cycle.frameCount ∨ r.endStamp = some r.readStamp) →
        s.overtake place i = s)
      ∧ (∀ (r : CapRec) (l : Layer), s.capture.records[i] = some r → r.phase ≠ .inStep →
        stampAdd r.readStamp 8192 = s.cycle.frameCount → r.endStamp ≠ some r.readStamp →
        s.layer? r.layer = some l →
        ∀ o first stop : Nat, o = stampSub r.readStamp r.startStamp →
        first = (if 64 ≤ r.buf.length then o else r.nextOff) →
        stop = (match r.endStamp with
          | some e => min ((o / 64 + 1) * 64) (stampSub e r.startStamp)
          | none => (o / 64 + 1) * 64) →
        first < stop → stop ≤ first + 64 →
        ∀ (v : State) (o' : Occurrence) (hole : Layer → Layer),
        v = s.setRecord i (some (if 64 ≤ r.buf.length then { r with readStamp := stampAdd r.startStamp stop }
          else { r with readStamp := stampAdd r.startStamp stop, buf := [], nextOff := stop })) →
        o' = { kind := .writeOverrun, requester := .capture, block := none, layer := some r.layer
               track := some l.track, pass := place.pass, pos := place.pos } →
        hole = (fun l => { l with
          holes := addHole { first := first, len := stop - first } l.holes, damaged := true }) →
        (l.extents.length * 4096 ≥ stop → s.overtake place i =
          (v.setLayer r.layer (hole l)).takeFault { o' with block := l.extents[first / 4096]? })
        ∧ (∀ blk more, first % 4096 = 0 → l.extents.length = first / 4096 → s.mem.free = blk :: more →
          s.overtake place i = ({ v with mem := { s.mem with free := more } }.setLayer r.layer
            (hole { l with extents := l.extents ++ [blk] })).takeFault { o' with block := some blk })
        ∧ (first % 4096 = 0 → l.extents.length = first / 4096 → s.mem.free = [] →
          s.overtake place i = v.exhaust r.layer first)))
    ∧ (∀ (id n : Nat) (l : Layer) (s u v : State), s.layer? id = some l → u = s.exhaust id n →
      v = s.raiseEvent
        { kind := .memoryFull, urgent := true, track := some l.track, layer := some id, cue := none
          pass := s.cycle.pass, pos := s.cycle.shownPos, detail := BitVec.ofNat 16 (min 65535 (n / 64)) } →
      (l.state = .opened → u = v.closeOpen l.track n 0 false false)
      ∧ (l.state = .opened → (s.track l.track).openLayer = some id →
        (s.track l.track).state = .overdubbing ∨ (s.track l.track).state = .replacing → n ≠ 0 →
        u.track l.track = { s.track l.track with state := .playing, openLayer := none, marker := none }
        ∧ ∃ l', u.layer? id = some l' ∧ l' = { l with
            state := .closed, length := n, tail := true
            extents := l.extents.take (ceilDiv n 4096)
            suspects := l.suspects.filter (fun b => (l.extents.take (ceilDiv n 4096)).contains b)
            holes := cutRanges n l.holes, stored := cutRanges n l.stored, buf := l'.buf })
      ∧ (∀ len pass pos span start kept, l.state = .opened → (s.track l.track).openLayer = some id →
        (s.track l.track).state = .recording → s.cycle.state = .running → s.cycle.len = some len →
        l.start = .first pass pos → n ≠ 0 → fixSpan len pass pos n = (span, start, kept) →
        u.track l.track = { s.track l.track with
          state := .playing, span := some span, heldSpan := none, openLayer := none, marker := none }
        ∧ ∃ l', u.layer? id = some l' ∧ l'.state = .closed ∧ l'.start = .at start ∧ l'.length = kept
          ∧ l'.tail = true)
      ∧ (l.state = .closed → n ≠ 0 → u.tracks = s.tracks ∧ ∃ l', u.layer? id = some l' ∧ l' = { l with
          length := n, tail := true
          extents := l.extents.take (ceilDiv n 4096)
          suspects := l.suspects.filter (fun b => (l.extents.take (ceilDiv n 4096)).contains b)
          holes := cutRanges n l.holes, stored := cutRanges n l.stored, buf := l'.buf })
      ∧ (l.state = .closed → n = 0 → s.layers.Pairwise (fun e f => e.1 < f.1) → s.fold = none →
        u.layer? id = none ∧ Entry.single id ∉ (u.track l.track).stack ∧ id ∉ (u.track l.track).redo))

/-- The mixer forms a frame from edged, covered and scaled layers, sends, monitors and the click, and counts clips. (R117, R118, R119, R120, R121, R122, R123, R125, R129, R130, R133). What the spec leaves open here is the model's choice: log entry 37. -/
def Obligations.MixerFormsTheOutputFrame : Prop :=
  (∀ (edge k length : Nat) (head tail : Bool), edgeWeight edge k length head tail =
      min (if head = true ∧ k < edge then 32768 * (k + 1) / (edge + 1) else 32768)
        (if tail = true ∧ length ≤ k + edge then 32768 * (length - k) / (edge + 1) else 32768))
    ∧ (∀ (t : TrackId) (s : State), s.cycle.state ≠ .running ∨ s.cycle.origin = true
        ∨ (s.track t).span = none → s.trackSum t = (s, 0))
    ∧ (∀ (t : TrackId) (span len q : Nat) (s : State), s.cycle.state = .running → s.cycle.origin = false →
      (s.track t).span = some span → s.cycle.len = some len → q = s.cycle.pass % span * len + s.cycle.pos →
      (stackIds (s.track t).stack).Nodup →
      ∀ (cover : Nat → Option Nat) (part : Nat → List Nat → Int) (total : List Nat → Int),
      cover = (fun id => match s.layer? id with
        | none => none
        | some l =>
          if l.cover = false then none
          else if l.state = .closed ∨ l.state = .folding then
            some (if l.startQ ≤ q ∧ q < l.startQ + l.length then
              32768 - edgeWeight s.mixer.edge (q - l.startQ) l.length l.head l.tail else 32768)
          else if l.state = .opened ∧ (s.track t).state = .replacing ∧ l.startQ ≤ q then
            some (32768 - edgeWeight s.mixer.edge (q - l.startQ) (q + 1 - l.startQ) l.head false)
          else none) →
      part = (fun id covers => match s.layer? id with
        | none => 0
        | some l =>
          if (l.state = .closed ∨ l.state = .folding) ∧ l.startQ ≤ q ∧ q < l.startQ + l.length then
            scale (covers.foldl scale (scale
              (match l.buf.data with
                | x :: _ => if l.buf.aim = q - l.startQ ∧ inRanges (q - l.startQ) l.holes = false then x.toInt
                  else 0
                | [] => 0)
              (edgeWeight s.mixer.edge (q - l.startQ) l.length l.head l.tail))) l.gain
          else 0) →
      total [] = 0 → (∀ id newer, total (id :: newer) = part id (newer.reverse.filterMap cover) + total newer) →
      (s.trackSum t).2 = total (stackIds (s.track t).stack))
    ∧ (∀ (id k a : Nat) (l : Layer) (s : State), s.layer? id = some l → l.buf.data = [] ∨ l.buf.aim ≠ k →
      a = (if l.length ≤ k + 1 then 0 else k + 1) →
      s.layerSample id k =
        ((s.setLayer id { l with buf := { aim := a, fill := a, data := [], flight := false } }).takeFault
          { kind := .underrun, requester := .playback, block := l.extents[k / 4096]?, layer := some id
            track := some l.track, pass := s.cycle.pass, pos := s.cycle.shownPos }, 0))
    ∧ (∀ (t : TrackId) (ts : List TrackId) (s : State), s.trackSums (t :: ts) =
      (((s.trackSum t).1.trackSums ts).1, (s.trackSum t).2 :: ((s.trackSum t).1.trackSums ts).2))
    ∧ (∀ (input : Frame) (place : Point) (beat : Option (Nat × Bool)) (s v u : State) (sums : List Int),
      s.moveRamps.trackSums (List.finRange 6) = (v, sums) → u = s.mix input place beat →
      ∀ (burst : Option Click) (click front ear : Int) (y : TrackId → Int),
      burst = (if s.cycle.state = .running then
          match beat with
          | some (_, bar) => some { n := 0, h := if bar then 12 else 24 }
          | none => s.mixer.burst
        else none) →
      click = (match burst with
        | some c => if c.n / c.h % 2 = 0 then (s.mixer.clickLevel : Int) else -(s.mixer.clickLevel : Int)
        | none => 0) →
      y = (fun t => scale (sums.getD t.val 0) (rampStep (s.track t).ramp (s.track t).muteTarget)) →
      front = scale (((List.finRange 6).map fun t => scale (y t) (s.track t).frontSend).sum
        + ((List.finRange 8).map fun i => scale (input[i]).toInt s.mixer.frontMonitor[i]).sum)
        s.mixer.frontBus →
      ear = scale (((List.finRange 6).map fun t => scale (y t) (s.track t).earSend).sum
        + ((List.finRange 8).map fun i => scale (input[i]).toInt s.mixer.earMonitor[i]).sum
        + if s.mixer.clickOn then click else 0) s.mixer.earBus →
      (∀ i : SlotId, u.audio.pendingOut[i] = (match s.mixer.outputs[i] with
        | .front => clamp24 front
        | .ear => clamp24 ear
        | .track t => clamp24 (y t)
        | .click => clamp24 click
        | .input j => input[j]
        | .silent => 0))
      ∧ (∀ t, (u.track t) = { s.track t with ramp := rampStep (s.track t).ramp (s.track t).muteTarget })
      ∧ u.mixer = { s.mixer with
          burst := burst.bind fun c => if c.n + 1 < 240 then some { c with n := c.n + 1 } else none
          frontClips := if clamps24 front then min 65535 (s.mixer.frontClips + 1) else s.mixer.frontClips
          earClips := if clamps24 ear then min 65535 (s.mixer.earClips + 1) else s.mixer.earClips
          frontReported := s.mixer.frontReported || clamps24 front
          earReported := s.mixer.earReported || clamps24 ear }
      ∧ (∀ (e : Nat → Event) (a b : PortCtl) (p : Port), e = (fun bus =>
          { kind := .clip, urgent := false, track := none, layer := none, cue := none, pass := place.pass
            pos := place.pos, detail := BitVec.ofNat 16 bus }) →
        a = (if clamps24 front && !s.mixer.frontReported then (v.port p).offer (e 0) else v.port p) →
        b = (if clamps24 ear && !s.mixer.earReported then a.offer (e 1) else a) → u.port p = b))

/-- The watchdog makes the link LOST, and PWRLOW closes what is open in a running part and brings it to REST. (R8, R33, R34, R48, R49, R149, R168, R206, R208, R210). What the spec leaves open here is the model's choice: log entries 2, 9, 12, 28, 44. -/
def Obligations.WatchdogAndPowerLow : Prop :=
  ∀ s : State,
    (∀ t, s.power.resetHeld = false → s.audio.lastSync = some t → s.audio.present = true → t + 32000 ≤ s.now →
      exec .watchdogExpiry s = .next ({ s with audio := { s.audio with
          present := false, lossStart := some s.now, frame := none, held := silence, pendingOut := silence,
          sending := silence, cutOut := if s.audio.frame.isSome = true then s.audio.sending else silence } }.raise
        .audioLost none none s.audio.linkErrors))
    ∧ (s.audio.present = false ∨ (∀ t, s.audio.lastSync = some t → s.now < t + 32000) →
      exec .watchdogExpiry s = .next s)
    ∧ exec .pwrlowRelease s = .next { s with power := { s.power with pin := false, latch := false } }
    ∧ (s.power.pin = true → exec .pwrlowAssert s = .next s)
    ∧ (s.power.pin = false → s.power.part = .starting →
      exec .pwrlowAssert s = .next { s with power := { s.power with pin := true, latch := true } })
    ∧ (s.power.pin = false → s.power.part = .rest →
      exec .pwrlowAssert s = .next ({ s with power := { s.power with pin := true, latch := true } }.raise
        .powerLow none none 1))
    ∧ (s.power.pin = false → s.power.part = .run →
      ∃ u w x y : State, exec .pwrlowAssert s = .next u.settle
        ∧ w.cues = s.cues ∧ w.mem.windowA = none ∧ w.mem.windowB = none
        ∧ x = w.raise .powerLow none none 0
        ∧ y = ({ x with
            power := { x.power with part := .rest }
            cycle := { x.cycle with tap := { count := 0, last := 0, sum := 0 } } } : State).dropCues .rest
              s.cues.entries
        ∧ u = { y with mixer := { y.mixer with burst := none } }.raise .restEntered none none 1
        ∧ u.power = { s.power with pin := true, latch := true, part := .rest }
        ∧ u.cues.entries = [] ∧ u.mem.windowA = none ∧ u.mem.windowB = none ∧ u.mixer.burst = none
        ∧ u.mem.words = s.mem.words ∧ u.fold = none
        ∧ (s.layers.Pairwise (fun e f => e.1 < f.1) →
          (∀ e ∈ u.layers, e.2.state ≠ .importing)
          ∧ (∀ f, s.fold = some f → f.result ≠ f.older → f.result ≠ f.newer → u.layer? f.result = none)
          ∧ (∀ (t : TrackId) (quiet : Prop), quiet = ((∀ f, s.fold = some f → f.track ≠ t)
              ∧ ∀ e ∈ s.layers, e.2.state = .importing → e.2.track ≠ t) →
            (quiet → (s.track t).openLayer = none → u.track t = s.track t)
            ∧ (∀ (id n : Nat) (l : Layer) (r : CapRec), quiet → (s.track t).openLayer = some id →
              s.layer? id = some l → l.state = .opened → s.recordOf id = some r →
              n = stampSub (stampAdd s.cycle.frameCount 1) r.startStamp →
              (∀ f, s.fold = some f → id ≠ f.older ∧ id ≠ f.newer ∧ id ≠ f.result) →
              (∀ t', t' ≠ t → (s.track t').openLayer ≠ some id
                ∧ ∀ m, (s.track t').marker = some m → m.1 ≠ id ∧ m.2 ≠ id) →
              ∀ closed : Nat → LayerStart → Prop, closed = (fun kept start =>
                ∃ l', u.layer? id = some l' ∧ l' = { l with
                  state := .closed, start := start, length := kept, tail := true
                  extents := l.extents.take (ceilDiv kept 4096)
                  suspects := l.suspects.filter (fun b => (l.extents.take (ceilDiv kept 4096)).contains b)
                  holes := cutRanges kept l.holes, stored := cutRanges kept l.stored, buf := l'.buf }
                ∧ (l.track = t → l'.buf = s.cycle.aimedBuffer (u.track t).span l'.startQ kept)
                ∧ ∀ r', u.recordOf id = some r' → r'.phase = .draining
                  ∧ r'.endStamp = some (stampAdd r'.startStamp kept)) →
              (∀ len, s.cycle.state = .running → s.cycle.len = some len →
                (n = 0 → u.layer? id = none ∧ (u.track t).openLayer = none ∧ (u.track t).marker = none)
                ∧ (n ≠ 0 → (s.track t).state ≠ .recording → closed n l.start
                  ∧ u.track t = { s.track t with state := .playing, openLayer := none, marker := none })
                ∧ (∀ pass pos span start kept : Nat, n ≠ 0 → (s.track t).state = .recording →
                  l.start = .first pass pos → fixSpan len pass pos n = (span, start, kept) →
                  closed kept (.at start) ∧ u.track t = { s.track t with
                    state := .playing, span := some span, heldSpan := none, openLayer := none, marker := none }))
              ∧ (s.cycle.state = .defining → (s.track t).state = .recording → l.start = .first 0 0 →
                n = s.cycle.pos → (∀ t', t' ≠ t → (s.track t').openLayer = none) →
                (n < 9600 → u.layer? id = none ∧ u.cycle = { s.cycle with
                  state := .empty, len := none, pos := 0, pass := 0, origin := false
                  gen := (s.cycle.gen + 1) % 65536, tap := { count := 0, last := 0, sum := 0 } })
                ∧ (9600 ≤ n → closed n (.at 0)
                  ∧ u.track t = { s.track t with
                      state := .playing, span := some 1, heldSpan := none, openLayer := none, marker := none }
                  ∧ u.cycle = { s.cycle with
                      state := .running, len := some n, pos := 0, pass := 0, origin := true
                      gen := (s.cycle.gen + 1) % 65536, tap := { count := 0, last := 0, sum := 0 } }))))
          ∧ (∀ (f : Fold) (lo ln : Layer) (rest : List Entry), s.fold = some f → f.older ≠ f.newer →
            f.result ≠ f.older → f.result ≠ f.newer → s.layer? f.older = some lo → s.layer? f.newer = some ln →
            lo.state ≠ .importing → ln.state ≠ .importing →
            (s.track f.track).stack = .pair f.older f.newer :: rest → rest.length ≤ 7 → stackPairs rest = [] →
            f.older ∉ stackIds rest → f.older ∉ (s.track f.track).redo →
            (s.track f.track).openLayer = none → (s.track f.track).marker = none →
            (∀ e ∈ s.layers, e.2.state = .importing → e.2.track ≠ f.track) →
            (∀ t id, id = f.older ∨ id = f.newer → (s.track t).openLayer ≠ some id
              ∧ ∀ m, (s.track t).marker = some m → m.1 ≠ id ∧ m.2 ≠ id) →
            u.layer? f.newer = some { ln with state := .closed }
            ∧ (rest.length < 7 → u.layer? f.older = some { lo with state := .closed }
              ∧ u.track f.track = { s.track f.track with
                  stack := .single f.older :: .single f.newer :: rest })
            ∧ (rest.length = 7 → u.layer? f.older = none
              ∧ u.track f.track = { s.track f.track with stack := .single f.newer :: rest })))
        ∧ ((∀ t, (s.track t).openLayer = none) → s.fold = none → (∀ e ∈ s.layers, e.2.state ≠ .importing) →
          s.mem.windowA = none → s.mem.windowB = none → s.cues.entries = [] →
          ∀ (low rest : Event),
          low = { kind := .powerLow, urgent := true, track := none, layer := none, cue := none,
                  pass := s.cycle.pass, pos := s.cycle.shownPos, detail := 0 } →
          rest = { low with kind := .restEntered, urgent := false, detail := 1 } →
          u = { s with
            power := { s.power with pin := true, latch := true, part := .rest }
            cycle := { s.cycle with tap := { count := 0, last := 0, sum := 0 } }
            mixer := { s.mixer with burst := none }
            portA := (s.portA.offer low).offer rest, portB := (s.portB.offer low).offer rest }))

/-- The memory's timers raise, withdraw and time out what has waited, and not before. (R141, R142, R144, R145, R154, R155). What the spec leaves open here is the model's choice: log entries 2, 12, 20, 22, 26, 55. -/
def Obligations.MemoryTimersAct : Prop :=
  ∀ s : State, s.power.resetHeld = false →
    (∀ (who : Background) (t : Nat), (s.waitOf who).start = some t → s.backgroundWaiting who = true →
      exec (.backgroundLockout who) s = .next
        (if t + 32000 ≤ s.now then s.setWait who { start := some t, raised := true } else s))
    ∧ (s.mem.queue = [] → exec .writeTimeout s = .next s)
    ∧ (∀ b rest, s.mem.queue = b :: rest → s.now < b.queuedAt + 320000 → exec .writeTimeout s = .next s)
    ∧ (∀ b rest l n, s.mem.queue = b :: rest → b.queuedAt + 320000 ≤ s.now → s.layer? b.layer = some l →
      l.state = .opened ∨ b.offset < l.length →
      n = (if l.state = .opened then b.samples.length else min b.samples.length (l.length - b.offset)) →
      exec .writeTimeout s = .next
        ((({ s with mem := { s.mem with queue := rest } }.setLayer b.layer
            { l with
              holes := addHole { first := b.offset, len := n } l.holes
              damaged := true }).takeFault
          { kind := .writeTimeout, requester := .capture, block := l.extents[b.offset / 4096]?
            layer := some b.layer, track := some l.track, pass := s.cycle.pass
            pos := s.cycle.shownPos }).settle))
    ∧ (∀ (p : Port) (w : Window) (t limit : Nat), s.window p = some w → w.req = .waiting t limit →
      w.closing = false →
      exec (.windowRequestTimeout p) s = .next
        (if t + 16000 * limit ≤ s.now then
          (s.setWindow p (some { w with req := .absent, timedOut := true, closing := false })).settle
        else s))
    ∧ (∀ (p : Port) (w : Window) (t limit : Nat), s.window p = some w → w.req = .waiting t limit →
      w.closing = true →
      (s.now < t + 16000 * limit → exec (.windowRequestTimeout p) s = .next s)
      ∧ (t + 16000 * limit ≤ s.now →
        ∀ v : State, v = s.setWindow p (some { w with req := .absent, timedOut := true, closing := false }) →
        (∀ tag code, (s.port p).reply = .pending tag code →
          exec (.windowRequestTimeout p) s = .next (v.setPort p { s.port p with
            reply := .full { status := .timeout, tag := tag, code := code, results := [] } }).settle)
        ∧ ((∀ tag code, (s.port p).reply ≠ .pending tag code) →
          exec (.windowRequestTimeout p) s = .next v.settle)))
    ∧ (s.mem.mode = .serving →
      exec .refreshDue s = .next { s with mem := { s.mem with refreshWaiting := true } })
    ∧ (s.mem.grant = some .refresh → exec .refreshComplete s = .next { s with mem := { s.mem with grant := none } })

/-- While fewer than 4 bursts are queued, waiting bursts join the queue, the one that goes first ahead of the others. (R63, R64, R66, R143). What the spec leaves open here is the model's choice: log entry 37. -/
def Obligations.WaitingBurstsAreHandedOver : Prop :=
  ∀ s : State, (s.power.resetHeld = false → s.refillAll = s →
    (4 ≤ s.mem.queue.length ∨ s.nextWaiting = none →
      ∃ t, exec .waitingBurstHandover s = .next t ∧ t.mem.queue = s.mem.queue ∧ t.cycle = s.cycle
        ∧ t.mem.words = s.mem.words)
    ∧ (∀ (i : Fin 12) (r : CapRec), s.mem.queue.length < 4 → s.nextWaiting = some i →
      s.capture.records[i] = some r → 4 ≤ s.mem.free.length →
      ∀ blk rest, s.mem.free = blk :: rest →
      (r.nextOff % 4096 = 0 → (s.layer? r.layer).isSome = true) →
      ∃ t more, exec .waitingBurstHandover s = .next t
        ∧ t.mem.queue = s.mem.queue ++
          { layer := r.layer, offset := r.nextOff, samples := r.buf, queuedAt := s.now } :: more
        ∧ t.mem.queue.length ≤ 4
        ∧ (r.nextOff % 4096 = 0 → ∀ l, s.layer? r.layer = some l →
          ∃ l', t.layer? r.layer = some l' ∧ l.extents ++ [blk] <+: l'.extents)
        ∧ t.cycle = s.cycle ∧ t.mem.words = s.mem.words))
    ∧ (∀ age : CapRec → Nat, age = (fun r => stampSub (stampAdd s.cycle.frameCount 1) r.readStamp) →
      (s.nextWaiting = none ↔ ∀ (i : Fin 12) (r : CapRec), s.capture.records[i] = some r → r.waiting = false)
      ∧ (∀ i, s.nextWaiting = some i → ∃ r, s.capture.records[i] = some r ∧ r.waiting = true
        ∧ ∀ (j : Fin 12) (q : CapRec), s.capture.records[j] = some q → q.waiting = true →
          age q < age r ∨ (age q = age r ∧ (r.track < q.track ∨ (r.track = q.track ∧ i ≤ j)))))
    ∧ (∀ r : CapRec, r.waiting = true ↔ r.phase ≠ .inStep ∧ (64 ≤ r.buf.length
        ∨ (r.phase = .draining ∧ r.buf ≠ [] ∧ r.endStamp = some r.readStamp)))
    ∧ (∀ (r r' : CapRec) (n : Nat), r.phase ≠ .inStep →
      n = min (64 - r.buf.length) (match r.endStamp with
        | some e => if r.phase = .draining then
            min (stampSub (stampAdd s.cycle.frameCount 1) r.readStamp) (stampSub e r.readStamp)
          else stampSub (stampAdd s.cycle.frameCount 1) r.readStamp
        | none => stampSub (stampAdd s.cycle.frameCount 1) r.readStamp) →
      r' = { r with
        buf := r.buf ++ (List.range n).map (fun k => recordSample (s.track r.track).sources
          (sparseGet silence (stampAdd r.readStamp k % 8192) s.capture.rings))
        readStamp := stampAdd r.readStamp n } →
      r.refill s.capture (s.track r.track).sources s.cycle.frameCount =
        (if r.phase = .filling then
          some (if r'.readStamp = stampAdd s.cycle.frameCount 1 ∧ r'.buf.length < 64 then
            { r' with phase := .inStep } else r')
        else if r'.buf = [] ∧ r'.endStamp = some r'.readStamp then none else some r'))
    ∧ (∀ (i : Fin 12), s.refillAll.capture.records[i] = (s.capture.records[i]).bind fun r =>
      r.refill s.capture (s.track r.track).sources s.cycle.frameCount)

/-- The start-up test lists each block free or bad, and its end makes the part RUN, or brings it to REST while the power is low. (R159, R160, R172, R174, R175, R180, R207, R210). What the spec leaves open here is the model's choice: log entries 9, 30, 31, 32. -/
def Obligations.StartUpTestAndSelfRefresh : Prop :=
  ∀ s : State, s.power.resetHeld = false →
    (s.mem.mode = .test → s.mem.testNext < 4096 →
      exec (.blockTest 0 true) s = .next { s with mem := { s.mem with
          testNext := s.mem.testNext + 1, free := s.mem.free ++ [s.mem.testNext] } }
      ∧ exec (.blockTest 0 false) s = .next ({ s with mem := { s.mem with
          testNext := s.mem.testNext + 1, bad := addBad s.mem.testNext s.mem.bad } }.takeFault
        { kind := .uncorrectable, requester := .test, block := some s.mem.testNext, layer := none
          track := none, pass := 0, pos := 0 }))
    ∧ (∀ (n : Nat) (c : Occurrence) (e : Event) (y : State), s.mem.mode = .test → s.mem.testNext < 4096 → n ≠ 0 →
      c = { kind := .corrected, requester := .test, block := some s.mem.testNext, layer := none
            track := none, pass := 0, pos := 0 } →
      e = { kind := .fault, urgent := false, track := none, layer := none, cue := none, pass := 0, pos := 0
            detail := BitVec.ofNat 16 (80 + if s.faults.record = none then 0 else 768) } →
      y = { s with
        faults := { s.faults with
          seenCorrected := true, correctedCount := min 65535 (s.faults.correctedCount + n)
          record := if s.faults.record = none then some (c, (s.faults.seq + 1) % 65536) else s.faults.record
          seq := if s.faults.record = none then (s.faults.seq + 1) % 65536 else s.faults.seq }
        portA := if s.faults.seenCorrected = true then s.portA else s.portA.offer e
        portB := if s.faults.seenCorrected = true then s.portB else s.portB.offer e } →
      exec (.blockTest n true) s = .next { y with mem := { s.mem with
          testNext := s.mem.testNext + 1, free := s.mem.free ++ [s.mem.testNext] } }
      ∧ exec (.blockTest n false) s = .next ({ y with mem := { s.mem with
          testNext := s.mem.testNext + 1, bad := addBad s.mem.testNext s.mem.bad } }.takeFault
        { c with kind := .uncorrectable }))
    ∧ (s.mem.mode = .test → s.mem.testNext = 4096 → s.power.latch = false →
      exec .memoryTestDone s = .next ({ s with
          mem := { s.mem with mode := .serving }, power := { s.power with part := .run } }.raiseEvent
        { kind := .ready, urgent := false, track := none, layer := none, cue := none, pass := 0, pos := 0
          detail := BitVec.ofNat 16 s.mem.free.length }))
    ∧ (∀ ready low rest : Event, s.mem.mode = .test → s.mem.testNext = 4096 → s.power.latch = true →
      s.layers = [] → (∀ t, (s.track t).openLayer = none) → s.fold = none → s.mem.windowA = none →
      s.mem.windowB = none → s.cues.entries = [] → (∀ i : Fin 12, s.capture.records[i] = none) →
      s.mem.waitFold = { start := none, raised := false } → s.mem.waitA = { start := none, raised := false } →
      s.mem.waitB = { start := none, raised := false } →
      ready = { kind := .ready, urgent := false, track := none, layer := none, cue := none, pass := 0, pos := 0
                detail := BitVec.ofNat 16 s.mem.free.length } →
      low = { kind := .powerLow, urgent := true, track := none, layer := none, cue := none
              pass := s.cycle.pass, pos := s.cycle.shownPos, detail := 0 } →
      rest = { low with kind := .restEntered, urgent := false, detail := 1 } →
      exec .memoryTestDone s = .next { s with
        power := { s.power with part := .rest }, mem := { s.mem with mode := .serving }
        cycle := { s.cycle with tap := { count := 0, last := 0, sum := 0 } }
        mixer := { s.mixer with burst := none }
        portA := ((s.portA.offer ready).offer low).offer rest
        portB := ((s.portB.offer ready).offer low).offer rest })
    ∧ (s.power.part = .rest → s.mem.mode = .serving → (∀ i : Fin 12, s.capture.records[i] = none) →
      s.mem.queue = [] → s.mem.grant = none →
      exec .enterSelfRefresh s = .next { s with mem := { s.mem with mode := .selfRefresh } })

/-- The arbiter grants a refresh first, then the emptiest playback buffer, then raised background, capture, background. (R59, R140, R141, R144, R146, R147, R150, R152, R153). What the spec leaves open here is the model's choice: log entry 12. -/
def Obligations.ArbiterGrantsInOrder : Prop :=
  ∀ s : State, s.power.resetHeld = false →
    ∀ (after : Background → Background) (order : List Background),
    after = (fun b => match b with
      | .fold => .windowA
      | .windowA => .windowB
      | .windowB => .fold) →
    order = [s.mem.pointer, after s.mem.pointer, after (after s.mem.pointer)] →
    (s.mem.mode ≠ .serving ∨ s.mem.grant ≠ none → exec .arbiterGrant s = .next s)
    ∧ (s.mem.mode = .serving → s.mem.grant = none →
      (s.mem.refreshWaiting = true →
        exec .arbiterGrant s = .next ({ s with mem := { s.mem with
          refreshWaiting := false, grant := some .refresh } }).settle)
      ∧ (s.mem.refreshWaiting = false → s.playbackWaiting ≠ [] →
        ∃ n id r, (n, id, r) ∈ s.playbackWaiting
          ∧ (∀ m j q, (m, j, q) ∈ s.playbackWaiting → n ≤ m)
          ∧ (s.layers.Pairwise (fun e f => e.1 < f.1) →
              ∀ m j q, (m, j, q) ∈ s.playbackWaiting → m = n → id ≤ j)
          ∧ ∃ l, s.layer? id = some l ∧ exec .arbiterGrant s = .next (({ s with mem := { s.mem with
              grant := some (.playback
                { layer := id, track := l.track, range := r, block := l.extents[r.first / 4096]?
                  suspect := (l.extents[r.first / 4096]?).any l.suspects.contains
                  holes := l.holes, live := true, cut := false }) } }.setLayer id
                { l with buf := { l.buf with flight := true } }).settle))
      ∧ (s.mem.refreshWaiting = false → s.playbackWaiting = [] →
        (∀ (who : Background) (before rest : List Background), order = before ++ who :: rest →
          s.backgroundWaiting who = true → (s.waitOf who).raised = true →
          (∀ b ∈ before, ¬ (s.backgroundWaiting b = true ∧ (s.waitOf b).raised = true)) →
          exec .arbiterGrant s = .next (s.grantBackground who).settle)
        ∧ ((∀ b, ¬ (s.backgroundWaiting b = true ∧ (s.waitOf b).raised = true)) →
          (∀ b rest, s.mem.queue = b :: rest →
            exec .arbiterGrant s = .next ({ s with mem := { s.mem with
              queue := rest
              grant := some (.capture b ((s.layer? b.layer).bind fun l => l.extents[b.offset / 4096]?)
                (s.layer? b.layer).isSome) } }).settle)
          ∧ (s.mem.queue = [] →
            (∀ (who : Background) (before rest : List Background), order = before ++ who :: rest →
              s.backgroundWaiting who = true → (∀ b ∈ before, s.backgroundWaiting b = false) →
              exec .arbiterGrant s = .next (s.grantBackground who).settle)
            ∧ ((∀ b, s.backgroundWaiting b = false) → exec .arbiterGrant s = .next s.settle)))))
    ∧ (∀ who, (s.grantBackground who).mem.pointer = after who
      ∧ (s.grantBackground who).waitOf who = { start := none, raised := false })
    ∧ (∀ f : Fold, s.fold = some f →
      (∀ xs, f.out = some xs → s.grantBackground .fold = { s with
        fold := some { f with granted := true }
        mem := { s.mem with
          grant := some (.foldWrite ((s.layer? f.result).bind fun l => l.extents[f.nextOff / 4096]?) f.nextOff xs)
          waitFold := { start := none, raised := false }, pointer := .windowA } })
      ∧ (∀ (r : FoldRead) (rest : List FoldRead) (id : Nat) (l : Layer), f.out = none → f.reads = r :: rest →
        id = (if r.newer = true then f.newer else f.older) → s.layer? id = some l →
        s.grantBackground .fold = { s with
          fold := some { f with granted := true }
          mem := { s.mem with
            grant := some (.foldRead
              { layer := id, track := l.track, range := { first := r.first, len := min r.len (l.length - r.first) }
                block := l.extents[r.first / 4096]?
                suspect := (l.extents[r.first / 4096]?).any l.suspects.contains
                holes := l.holes, live := true, cut := false } r.newer)
            waitFold := { start := none, raised := false }, pointer := .windowA } }))
    ∧ (∀ (p : Port) (who : Background) (w : Window) (t limit : Nat) (v : State),
      who = (match p with | .a => .windowA | .b => .windowB) → s.window p = some w → w.req = .waiting t limit →
      v = (s.setWindow p (some { w with req := .granted t })).setWait who { start := none, raised := false } →
      (∀ (l : Layer) (r : Range), w.mode = .read → s.layer? w.layer = some l →
        r = (match w.dir with
          | .forward => { first := w.next, len :=
              (if l.state = .opened then (w.next / 64 + 1) * 64 else min ((w.next / 64 + 1) * 64) l.length) - w.next }
          | .reverse => { first := w.next / 64 * 64, len := w.next % 64 + 1 }) →
        r.len ≠ 0 → l.ready r = true →
        s.grantBackground who = { v with mem := { v.mem with
          grant := some (.windowRead p
            { layer := w.layer, track := l.track, range := r, block := l.extents[r.first / 4096]?
              suspect := (l.extents[r.first / 4096]?).any l.suspects.contains
              holes := l.holes, live := true, cut := false })
          pointer := after who } })
      ∧ (∀ o, w.mode = .write → o = w.next - w.buf.length →
        s.grantBackground who = { v with mem := { v.mem with
          grant := some (.windowCommit p ((s.layer? w.layer).bind fun l => l.extents[o / 4096]?) o w.buf)
          pointer := after who } }))
    ∧ (∀ (n id : Nat) (r : Range), (n, id, r) ∈ s.playbackWaiting ↔
      ∃ l, (id, l) ∈ s.layers ∧ n = l.buf.data.length ∧ s.BufferUsed id l
        ∧ l.buf.LooksAt l (s.bufferEnd id l) r ∧ ¬ l.SilentOver r
        ∧ ∀ o, r.first ≤ o → o < r.first + r.len → inRanges o l.stored = true ∨ inRanges o l.holes = true)
    ∧ (∀ (id : Nat) (l : Layer), s.layer? id = some l →
      (¬ s.BufferUsed id l → s.settleBuffers.layer? id = some l)
      ∧ (s.BufferUsed id l → ∃ b, ToppedUp l (s.bufferEnd id l) l.buf b
        ∧ s.settleBuffers.layer? id = some { l with buf := b }))

/-- A write's completion stores its samples at their words alone and moves a commit on, and a read's delivers the words it checked, 0 in a hole. (R44, R76, R139, R140, R144, R145, R147, R149, R150, R152, R153, R155, R157, R172). What the spec leaves open here is the model's choice: log entry 20. -/
def Obligations.CompletionsMoveTheirSamples : Prop :=
  (∀ (s : State) (block o : Nat) (xs : List Sample), s.power.resetHeld = false → Memory.wf s.mem →
    ∀ stored : Nat → Sample, stored = (fun a =>
      if block * 4096 + o % 4096 ≤ a ∧ a < block * 4096 + o % 4096 + xs.length then
        xs.getD (a - (block * 4096 + o % 4096)) 0
      else s.mem.readWord a) →
    (∀ (b : Burst) (live : Bool), b.offset = o → b.samples = xs →
      s.mem.grant = some (.capture b (some block) live) →
      ∃ t u : State, exec .captureWriteComplete s = .next t ∧ t.mem.grant = none ∧ (∀ a, t.mem.readWord a = stored a)
        ∧ t = u.settle ∧ u = { s with layers := u.layers, mem := u.mem }
        ∧ u.mem = { s.mem with words := u.mem.words, grant := none }
        ∧ (∀ id, id ≠ b.layer ∨ live = false → u.layer? id = s.layer? id)
        ∧ (∀ l, live = true → s.layer? b.layer = some l →
          ∃ st, u.layer? b.layer = some { l with stored := st } ∧ ∀ k, inRanges k st = true ↔
            inRanges k l.stored = true ∨ (o ≤ k ∧ k < o + xs.length ∧ (l.state = .opened ∨ k < l.length))))
    ∧ (∀ checks, s.mem.grant = some (.foldWrite (some block) o xs) →
      ∃ t, exec (.foldBurstComplete checks) s = .next t ∧ t.mem.grant = none
        ∧ ∀ a, t.mem.readWord a = stored a)
    ∧ (∀ p, s.mem.grant = some (.windowCommit p (some block) o xs) →
      ∃ t, exec .windowCommitComplete s = .next t ∧ t.mem.grant = none ∧ ∀ a, t.mem.readWord a = stored a))
    ∧ (∀ (s : State) (checks : List WordCheck) (rd : Reading) (l : Layer) (xs : List Sample),
      s.power.resetHeld = false → allGood checks → rd.live = true → s.layer? rd.layer = some l →
      l.holes = rd.holes →
      xs = ((List.range rd.range.len).map fun i =>
        if inRanges (rd.range.first + i) rd.holes then 0
        else match rd.block with
          | some b => s.mem.readWord (b * 4096 + (rd.range.first + i) % 4096)
          | none => 0) →
      (s.mem.grant = some (.playback rd) →
        (l.buf.flight = true → exec (.playbackReadComplete checks) s =
          .next (({ s with mem := { s.mem with grant := none } }.setLayer rd.layer
            { l with buf := l.buf.placed l (s.bufferEnd rd.layer l) rd.range xs }).settle))
        ∧ (l.buf.flight = false → exec (.playbackReadComplete checks) s =
          .next ({ s with mem := { s.mem with grant := none } }.settle)))
      ∧ (∀ (f : Fold) (newer : Bool), s.mem.grant = some (.foldRead rd newer) → s.fold = some f →
        f.granted = true → f.out = none →
        exec (.foldBurstComplete checks) s =
          .next ({ s with
            mem := { s.mem with grant := none }
            fold := some (if rd.cut = true then { f with granted := false }
              else f.took newer rd.range.first xs) }.settle))
      ∧ (∀ (p : Port) (w : Window) (at_ : Nat), s.mem.grant = some (.windowRead p rd) → s.window p = some w →
        w.mode = .read → w.req = .granted at_ →
        exec (.windowReadComplete checks) s =
          .next (({ s with mem := { s.mem with grant := none } }.setWindow p (some { w with
            buf := if rd.cut = true then [] else
              (match w.dir with | .forward => xs | .reverse => xs.reverse)
            req := .absent })).settle)))
    ∧ (∀ (s : State) (rd : Reading) (newer : Bool) (f : Fold) (lr : Layer) (b : Nat), s.power.resetHeld = false →
      s.mem.grant = some (.foldRead rd newer) → s.fold = some f → f.granted = true → f.out = none →
      s.layer? f.result = some lr → rd.range.len = 1 → inRanges rd.range.first rd.holes = false →
      rd.block = some b → rd.suspect = true →
      exec (.foldBurstComplete [.uncorrectable]) s = .next (({ s with
        mem := { s.mem with grant := none }
        fold := some (if rd.cut = true then { f with granted := false }
          else f.took newer rd.range.first [0]) }.setLayer f.result { lr with damaged := true }).settle))
    ∧ (∀ (s : State) (id n : Nat) (l : Layer) (rd : Reading), s.layer? id = some l → l.state ≠ .opened →
      n < l.length → rd.layer = id →
      (∀ newer, s.mem.grant = some (.foldRead rd newer) →
        (s.endAt id n).mem.grant = some (.foldRead { rd with cut := true } newer))
      ∧ (∀ p, s.mem.grant = some (.windowRead p rd) →
        (s.endAt id n).mem.grant = some (.windowRead p { rd with cut := true })))
    ∧ (∀ (s : State) (id n : Nat) (l : Layer), s.layer? id = some l → l.state ≠ .opened → n ≠ 0 →
      CycleInRange s.cycle → ∃ l', (s.exhaust id n).layer? id = some l' ∧ l'.length = n
        ∧ l'.buf = (if l.state = .undone then l.buf
          else s.cycle.aimedBuffer (s.track l.track).span l.startQ n))
    ∧ (∀ (s : State) (rd : Reading) (l : Layer) (b : Nat), s.power.resetHeld = false → rd.live = true →
      s.layer? rd.layer = some l → l.buf.flight = false → rd.range.len = 1 →
      inRanges rd.range.first rd.holes = false → rd.block = some b → s.mem.grant = some (.playback rd) →
      ∀ o : FaultKind → Occurrence, o = (fun k =>
        { kind := k, requester := .playback, block := some b, layer := some rd.layer
          track := some rd.track, pass := s.cycle.pass, pos := s.cycle.shownPos }) →
      exec (.playbackReadComplete [.corrected]) s =
        .next (({ s with mem := { s.mem with grant := none } }.takeFault (o .corrected)).settle)
      ∧ (rd.suspect = false → b ∈ l.extents → b ∉ l.suspects →
        exec (.playbackReadComplete [.uncorrectable]) s =
          .next ((({ s with mem := { s.mem with grant := none } }.setLayer rd.layer
            { l with damaged := true, suspects := l.suspects ++ [b] }).takeFault (o .uncorrectable)).settle))
      ∧ (rd.suspect = true → exec (.playbackReadComplete [.uncorrectable]) s =
        .next ({ s with mem := { s.mem with grant := none } }.settle)))
    ∧ (∀ (s : State) (p : Port) (blk : Option Nat) (o : Nat) (xs : List Sample) (w : Window) (l : Layer) (at_ : Nat),
      s.power.resetHeld = false → s.mem.grant = some (.windowCommit p blk o xs) → s.window p = some w →
      w.mode = .write → w.req = .granted at_ → w.next = o + xs.length → s.layer? w.layer = some l →
      l.state = .importing → xs ≠ [] → o + xs.length ≤ l.length →
      ∀ (l' : Layer) (v : State) (results : List Byte), l' = { l with
        stored := insertRange { first := o, len := xs.length } l.stored, committed := o + xs.length } →
      v = { s with mem := { s.mem.storeBurst blk o xs with grant := none } }.setLayer w.layer l' →
      results = bytes 4 (o + xs.length) ++ bytes 2 w.excess ++ flagByte w.timedOut →
      (o + xs.length < l.length → w.closing = false →
        exec .windowCommitComplete s = .next (v.setWindow p (some { w with buf := [], req := .absent })).settle)
      ∧ (o + xs.length < l.length → w.closing = true →
        ∀ u : State, u = (v.setWindow p none).setWait (match p with | .a => .windowA | .b => .windowB)
          { start := none, raised := false } →
        (∀ tag code, (s.port p).reply = .pending tag code →
          exec .windowCommitComplete s = .next (u.setPort p { s.port p with
            reply := .full { status := .ok, tag := tag, code := code, results := results } }).settle)
        ∧ ((∀ tag code, (s.port p).reply ≠ .pending tag code) → exec .windowCommitComplete s = .next u.settle))
      ∧ (o + xs.length = l.length →
        ∃ (u : State) (l2 : Layer), exec .windowCommitComplete s = .next u.settle
          ∧ u.window p = none ∧ u.layer? w.layer = some l2 ∧ l2 = { l' with state := .closed, buf := l2.buf }
          ∧ (CycleInRange s.cycle → l2.buf = s.cycle.aimedBuffer (u.track l.track).span l.startQ l.length)
          ∧ u.mem.words = v.mem.words ∧ u.cycle = s.cycle
          ∧ (∀ t', t' ≠ l.track → u.track t' = s.track t')
          ∧ u.track l.track = (if (s.track l.track).state = .empty then { s.track l.track with
              state := .playing, span := (s.track l.track).heldSpan, heldSpan := none } else s.track l.track)
          ∧ (∀ (q : Port) (e : EventKind → Option TrackId → Option Nat → Nat → Event) (a b : PortCtl),
            e = (fun k tr la detail =>
              { kind := k, urgent := false, track := tr, layer := la, cue := none, pass := s.cycle.pass
                pos := s.cycle.shownPos, detail := BitVec.ofNat 16 detail }) →
            a = (s.port q).offer (e .windowDone none (some w.layer) (match p with | .a => 0 | .b => 1)) →
            b = (if (s.track l.track).state = .empty then a.offer (e .trackState (some l.track) none
                (2 + if (s.track l.track).muteTarget = 0 then 32768 else 0)) else a) →
            u.port q = (match b.reply with
              | .pending tag code => if q = p ∧ w.closing = true then
                  { b with reply := .full { status := .ok, tag := tag, code := code, results := results } } else b
              | _ => b))))
    ∧ (∀ (f : Fold) (newer : Bool) (first : Nat) (xs : List Sample), f.took newer first xs = { f with
      gotOlder := if newer = true then f.gotOlder else f.gotOlder ++ ((List.range xs.length).map (first + ·)).zip xs
      gotNewer := if newer = true then f.gotNewer ++ ((List.range xs.length).map (first + ·)).zip xs else f.gotNewer
      reads := f.reads.tail, granted := false })

/-- READ REPLY shifts the whole reply out and empties the slot, READ EVENTS takes the head entry, and both lay out their bytes by the table. (R185, R189, R190, R191, R197, R199, R202, R203). What the spec leaves open here is the model's choice: log entry 45. -/
def Obligations.ReplyAndEventTransfers : Prop :=
  ∀ (p : Port) (s : State), s.power.resetHeld = false →
    (∀ (r : Reply) (n : Nat), (s.port p).reply = .full r → n ≤ 2 + (replyBytes r).length →
      exec (.readReply p true n true) s = .next (s.setPort p { s.port p with
        transfer := none
        shifted := (s.stateByte p :: 2 :: replyBytes r).take n
        reply := if n = 2 + (replyBytes r).length then .empty else .full r }))
    ∧ (∀ n, ((s.port p).reply = .empty ∨ ∃ tag code, (s.port p).reply = .pending tag code) →
      exec (.readReply p true (2 + n) true) s = .next (s.setPort p { s.port p with
        transfer := none
        shifted := s.stateByte p :: (if (s.port p).reply = .empty then 0 else 1) :: List.replicate n 0 }))
    ∧ (∀ (e : Event) (rest : List Event), (s.port p).queue = e :: rest →
      exec (.readEvents p true 14 true) s = .next (s.setPort p { s.port p with
        transfer := none
        shifted := [s.stateByte p, BitVec.ofNat 8 (rest.length + 1)] ++ eventBytes e
        queue := if (s.port p).lost = 0 then rest else rest ++
          [{ kind := .lost, urgent := false, track := none, layer := none, cue := none,
             pass := s.cycle.pass, pos := s.cycle.shownPos, detail := BitVec.ofNat 16 (s.port p).lost }]
        lost := 0 }))
    ∧ (∀ (x : Transfer) (n : Nat) (l : List Byte) (rise : Bool), (s.port p).transfer = some x →
      x.kind = .ignored → l.length = n →
      ∀ t : State, t = s.setPort p { s.port p with
        shifted := (s.port p).shifted ++ List.replicate n 0
        transfer := if rise then none else some x } →
      exec (.readReply p false n rise) s = .next t ∧ exec (.readEvents p false n rise) s = .next t
        ∧ exec (.windowRead p false n rise) s = .next t ∧ exec (.windowWrite p false l rise) s = .next t)
    ∧ (∀ (b : Byte) (l : List Byte), b ≠ 5 → exec (.windowWrite p true (b :: l) true) s =
      .next ((s.setPort p { s.port p with
        shifted := s.stateByte p :: List.replicate l.length 0
        transfer := some { kind := .ignored, stateByte := s.stateByte p, count := 1, latch := .absent
                           event := none, partIn := [] } }).settle.endTransfer p))
    ∧ (∀ part window line held slot : Nat,
      part = (match s.power.part with | .starting => 0 | .run => 1 | .rest => 2) →
      window = (match s.window p with
        | none => 0
        | some w => if w.mode = .write then 2 else if w.done = true then 3 else 1) →
      line = (if (s.port p).queue.any (fun e => match (s.port p).mask with
        | .opened => true | .urgentOnly => e.urgent | .closed => false) = true then 1 else 0) →
      held = (if (s.port p).queue = [] then 0 else 1) →
      slot = (match (s.port p).reply with | .empty => 0 | .pending _ _ => 1 | .full _ => 2) →
      s.stateByte p = BitVec.ofNat 8 (part + 4 * window + 16 * line + 32 * held + 64 * slot))
    ∧ (∀ (r : Reply) (k : Nat), [Status.ok, .accepted, .joined, .badArg, .badState, .busy, .full, .stackFull,
        .noMemory, .notFound, .resting, .starting, .stale, .cut, .unknown, .mailboxFull, .empty,
        .timeout][k]? = some r.status →
      replyBytes r = [BitVec.ofNat 8 k, r.tag, r.code, BitVec.ofNat 8 (r.results.length / 256),
        BitVec.ofNat 8 r.results.length] ++ r.results)
    ∧ (∀ (e : Event) (k : Nat), [EventKind.cycleDefined, .cycleTooShort, .cycleWrap, .beat, .cyclePaused,
        .cycleRunning, .trackState, .layerClosed, .layerRolled, .layerRetired, .stackFull, .foldDone,
        .foldAbandoned, .memoryFull, .cueDone, .cueDropped, .clip, .audioLost, .audioBack, .linkErrors,
        .fault, .windowDone, .windowLost, .noteArrived, .noteTaken, .lost, .ready, .restEntered,
        .runEntered, .powerLow][k]? = some e.kind →
      eventBytes e = [BitVec.ofNat 8 (k + 1),
        BitVec.ofNat 8 ((if e.urgent = true then 128 else 0) + (if e.track = none then 0 else 4)
          + (if e.layer = none then 0 else 2) + (if e.cue = none then 0 else 1)),
        BitVec.ofNat 8 (match e.track with | some t => t.val | none => 0), BitVec.ofNat 8 (e.layer.getD 0),
        BitVec.ofNat 8 (e.cue.getD 0 / 256), BitVec.ofNat 8 (e.cue.getD 0), BitVec.ofNat 8 e.pass,
        BitVec.ofNat 8 (e.pos / 65536), BitVec.ofNat 8 (e.pos / 256), BitVec.ofNat 8 e.pos,
        e.detail.extractLsb' 8 8, e.detail.extractLsb' 0 8])
    ∧ (∀ (k : EventKind) (t : Option TrackId) (layer cue : Option Nat) (d : Nat), s.event k t layer cue d =
      { kind := k, urgent := decide (k ∈ [.cycleTooShort, .stackFull, .memoryFull, .audioLost, .powerLow]),
        track := t, layer := layer, cue := cue, pass := s.cycle.pass
        pos := if s.cycle.origin = true then 0 else s.cycle.pos, detail := BitVec.ofNat 16 d })

/-- WINDOW READ gives the buffer's next sample in its direction, WINDOW WRITE takes one or counts it as excess, and both report a timeout. (R138, R152, R153, R154, R192, R193). What the spec leaves open here is the model's choice: log entries 47, 48, 50, 55. They are a buffered sample given whatever hole came over it (47), no space in a full buffer after a timeout (48), zeros for the rest of a cut sample (50), and no request for a partial buffer once the flag is reported (55). -/
def Obligations.WindowTransfersMoveSamples : Prop :=
  (∀ (p : Port) (w : Window) (s : State), s.power.resetHeld = false → s.window p = some w →
    (∀ x xs, w.timedOut = false → w.mode = .read → w.dir = .forward → w.buf = x :: xs → w.buf.length ≤ 64 →
      exec (.windowRead p true 5 true) s = .next ((((s.setPort p { s.port p with
          transfer := some
            { kind := .windowRead, stateByte := s.stateByte p, count := 5,
              latch := .window w.buf.length false, event := none, partIn := [] }
          shifted := [s.stateByte p, BitVec.ofNat 8 w.buf.length, x.extractLsb' 16 8, x.extractLsb' 8 8,
            x.extractLsb' 0 8] }).setWindow p
            (some { w with buf := xs, next := w.next + 1, latched := w.buf.length - 1, shifting := false })).settleRead p).settle.endTransfer p))
    ∧ (∀ (l : Layer) (n : Nat) (b0 b1 b2 b3 : Byte), w.timedOut = false → w.mode = .write → w.req = .absent →
      s.layer? w.layer = some l → n = w.rangeEnd l.length - w.next → 1 ≤ n → n ≤ 64 →
      exec (.windowWrite p true [5, b0, b1, b2, b3] true) s = .next ((((s.setPort p { s.port p with
          transfer := some
            { kind := .windowWrite, stateByte := s.stateByte p, count := 5,
              latch := .window n false, event := none, partIn := [] }
          shifted := [s.stateByte p, BitVec.ofNat 8 n, 0, 0, 0] }).setWindow p
            (some { w with buf := w.buf ++ [b1 ++ b2 ++ b3], next := w.next + 1 })).settleWrite p).settle.endTransfer
          p))
    ∧ (∀ n, w.mode = .read → n ≤ w.next → (w.cutTo n).shifting = false)
    ∧ (∀ (t : Transfer) (n : Nat) (timedOut : Bool), (s.port p).transfer = some t → t.kind = .windowRead →
      t.latch = .window n timedOut → 2 ≤ t.count → (t.count - 2) % 3 ≠ 0 → w.shifting = false →
      exec (.windowRead p false 1 true) s = .next ((s.setPort p { s.port p with
        transfer := some { t with count := t.count + 1 }
        shifted := (s.port p).shifted ++ [0] }).settle.endTransfer p))
    ∧ (∀ x xs base, w.timedOut = false → w.mode = .read → w.dir = .reverse → w.buf = x :: xs →
      w.buf.length ≤ 64 →
      base = s.setPort p { s.port p with
          transfer := some { kind := .windowRead, stateByte := s.stateByte p, count := 5, latch := .window w.buf.length false,
                             event := none, partIn := [] }
          shifted := [s.stateByte p, BitVec.ofNat 8 w.buf.length, x.extractLsb' 16 8, x.extractLsb' 8 8,
            x.extractLsb' 0 8] } →
      ∀ w' : Window, w' = { w with buf := xs, latched := w.buf.length - 1, shifting := false } →
      (w.next ≠ 0 → exec (.windowRead p true 5 true) s =
        .next (((base.setWindow p (some { w' with next := w.next - 1 })).settleRead p).settle.endTransfer p))
      ∧ (w.next = 0 → exec (.windowRead p true 5 true) s =
        .next (((base.setWindow p (some { w' with done := true, req := .absent })).raise .windowDone none
          (some w.layer) (match p with | .a => 0 | .b => 1)).settle.endTransfer p)))
    ∧ (∀ base, w.timedOut = false → w.mode = .read → w.buf = [] →
      base = s.setPort p { s.port p with
          transfer := some { kind := .windowRead, stateByte := s.stateByte p, count := 5, latch := .window 0 false,
                             event := none, partIn := [] }
          shifted := [s.stateByte p, 0, 0, 0, 0] } →
      exec (.windowRead p true 5 true) s =
        .next ((base.setWindow p (some { w with latched := 0, shifting := false })).settle.endTransfer p))
    ∧ (∀ base, w.timedOut = true → w.mode = .read → w.buf.length ≤ 64 →
      base = s.setPort p { s.port p with
          transfer := some { kind := .windowRead, stateByte := s.stateByte p, count := 2, latch := .window w.buf.length true,
                             event := none, partIn := [] }
          shifted := [s.stateByte p, BitVec.ofNat 8 (128 + w.buf.length)] } →
      exec (.windowRead p true 2 true) s = .next (((base.setWindow p
        (some { w with timedOut := false, latched := w.buf.length, shifting := false })).settleRead
          p).settle.endTransfer p))
    ∧ (∀ (l : Layer) (n : Nat) (b0 : Byte) (base : State), w.timedOut = true → w.mode = .write →
      s.layer? w.layer = some l → n = (if w.req = .absent then w.rangeEnd l.length - w.next else 0) →
      base = s.setPort p { s.port p with
          transfer := some { kind := .windowWrite, stateByte := s.stateByte p, count := 2, latch := .window n true,
                             event := none, partIn := [] }
          shifted := [s.stateByte p, BitVec.ofNat 8 (128 + n)] } →
      exec (.windowWrite p true [5, b0] true) s = .next (((base.setWindow p
        (some { w with timedOut := false })).settleWrite p).settle.endTransfer p))
    ∧ (∀ (t : Transfer) (n : Nat) (timedOut : Bool) (b0 b1 b2 : Byte) (base : State),
      (s.port p).transfer = some t → t.kind = .windowWrite → t.latch = .window n timedOut →
      t.partIn = [b0, b1] → 2 ≤ t.count → n ≤ (t.count - 2) / 3 →
      base = s.setPort p { s.port p with
        transfer := some { t with count := t.count + 1, partIn := [] }, shifted := (s.port p).shifted ++ [0] } →
      (w.mode = .write → exec (.windowWrite p false [b2] false) s =
        .next (base.setWindow p (some { w with excess := min 65535 (w.excess + 1) })).settle)
      ∧ (w.mode = .read → exec (.windowWrite p false [b2] false) s = .next base.settle))
    ∧ (∀ l : Layer, s.layer? w.layer = some l → w.mode = .read →
      (w.done = true ∨ w.buf ≠ [] → s.settleRead p = s)
      ∧ (w.done = false → w.buf = [] →
        ∀ (stop : Nat) (r : Range) (ended : Prop), ended = (w.dir = .forward ∧ l.state ≠ .opened ∧ l.length ≤ w.next) →
        stop = (if l.state = .opened then (w.next / 64 + 1) * 64 else min ((w.next / 64 + 1) * 64) l.length) →
        r = (if w.dir = .forward then { first := w.next, len := stop - w.next }
          else { first := w.next / 64 * 64, len := w.next % 64 + 1 }) →
        (ended → s.settleRead p =
          (s.setWindow p (some { w with done := true, req := .absent })).raise .windowDone none (some w.layer)
            (match p with | .a => 0 | .b => 1))
        ∧ (¬ ended → (∀ k, w.req ≠ .granted k) →
          (l.inHoles r = true → s.settleRead p =
            s.setWindow p (some { w with buf := List.replicate r.len 0, req := .absent }))
          ∧ (l.inHoles r = false → w.req = .absent → w.timedOut = false → s.settleRead p =
            s.setWindow p (some { w with req := .waiting s.now (s.windowTimeout p) }))
          ∧ (l.inHoles r = false → w.req ≠ .absent ∨ w.timedOut = true → s.settleRead p = s))))
    ∧ (∀ l : Layer, s.layer? w.layer = some l → w.mode = .write → w.req = .absent →
      (w.timedOut = true ∨ w.buf = [] ∨ w.next < w.rangeEnd l.length → s.settleWrite p = s)
      ∧ (w.timedOut = false → w.buf ≠ [] → w.rangeEnd l.length ≤ w.next →
        ∀ asked : State → State, asked = (fun v =>
          v.setWindow p (some { w with req := .waiting s.now (s.windowTimeout p) })) →
        ((w.next - w.buf.length) / 4096 < l.extents.length → s.settleWrite p = asked s)
        ∧ (∀ blk more, l.extents.length ≤ (w.next - w.buf.length) / 4096 → s.mem.free = blk :: more →
          s.settleWrite p = asked ({ s with mem := { s.mem with free := more } }.setLayer w.layer
            { l with extents := l.extents ++ [blk] }))
        ∧ (l.extents.length ≤ (w.next - w.buf.length) / 4096 → s.mem.free = [] →
          (s.settleWrite p).window p = none
            ∧ (s.layers.Pairwise (fun x y => x.1 < y.1) → (s.settleWrite p).layer? w.layer = none)))))
    ∧ (∀ (p : Port) (b0 b1 b2 b3 : Byte) (s : State), s.power.resetHeld = false → s.window p = none →
      ∀ base : TransferKind → State, base = (fun k => s.setPort p { s.port p with
          transfer := some { kind := k, stateByte := s.stateByte p, count := 5, latch := .window 0 false,
                             event := none, partIn := [] }
          shifted := [s.stateByte p, 0, 0, 0, 0] }) →
      exec (.windowRead p true 5 true) s = .next ((base .windowRead).settle.endTransfer p)
        ∧ exec (.windowWrite p true [5, b0, b1, b2, b3] true) s =
          .next ((base .windowWrite).settle.endTransfer p))

/-- Edges mirror, a click sums to nothing, a mute ramp reaches its target, and hole lists keep their form. (R120, R124, R127, R146). -/
def Obligations.RampsClicksAndHoles : Prop :=
  (∀ edge k length : Nat, k < length →
      edgeWeight edge k length false true = edgeWeight edge (length - 1 - k) length true false)
    ∧ (∀ (half level : Nat), half = 12 ∨ half = 24 →
        ((List.range 240).map fun n => ({ n := n, h := half : Click }).value level).sum = 0)
    ∧ (∀ m target : Nat, m ≤ 32768 → target ≤ 32768 →
        (m ≤ target → m ≤ rampStep m target ∧ rampStep m target ≤ target ∧ rampStep m target ≤ m + 128)
        ∧ (target ≤ m → target ≤ rampStep m target ∧ rampStep m target ≤ m ∧ m ≤ rampStep m target + 128)
        ∧ (List.range 256).foldl (fun x _ => rampStep x target) m = target)
    ∧ (∀ (r : Range) (l : List Range), l.length ≤ 4 → (∀ x ∈ l, x.len ≠ 0) →
        l.Pairwise (fun x y => x.first + x.len < y.first) →
        (addHole r l).length ≤ 4 ∧ (∀ x ∈ addHole r l, x.len ≠ 0)
          ∧ (addHole r l).Pairwise (fun x y => x.first + x.len < y.first)
          ∧ (∀ o, inRanges o l = true → inRanges o (addHole r l) = true)
          ∧ (∀ o, r.first ≤ o → o < r.first + r.len → inRanges o (addHole r l) = true))

end
end

