-- ==== Sys2Proof/Laws/FrameCycle.lean ====
section
/-! SUPPORT. Frame lemmas: the operations leave the cycle timer as it is. -/
namespace Sys2Proof.Machine

open Sys2Proof

set_option linter.unusedTactic false
set_option linter.unreachableTactic false
set_option linter.unnecessarySeqFocus false

set_option linter.unusedSimpArgs false

theorem setPort_cyc (p c) (s : State) : (s.setPort p c).cycle = s.cycle := by cases p <;> rfl

theorem setTrack_cyc (t tr) (s : State) : (s.setTrack t tr).cycle = s.cycle := rfl

theorem modTrack_cyc (t f) (s : State) : (s.modTrack t f).cycle = s.cycle := rfl

theorem setLayer_cyc (id l) (s : State) : (s.setLayer id l).cycle = s.cycle := rfl

theorem modLayer_cyc (id f) (s : State) : (s.modLayer id f).cycle = s.cycle := by unfold State.modLayer; (try dsimp only); (repeat' split) <;> first | (simp [setPort_cyc, setTrack_cyc, modTrack_cyc, setLayer_cyc]; done) | rfl

theorem setWindow_cyc (p w) (s : State) : (s.setWindow p w).cycle = s.cycle := by cases p <;> rfl

theorem raiseEvent_cyc (e) (s : State) : (s.raiseEvent e).cycle = s.cycle := rfl

theorem raise_cyc (k t l d) (s : State) : (s.raise k t l d).cycle = s.cycle := rfl

theorem fillReply_cyc (p st tag code results) (s : State) : (s.fillReply p st tag code results).cycle = s.cycle := by simp [setPort_cyc, setTrack_cyc, modTrack_cyc, setLayer_cyc, modLayer_cyc, setWindow_cyc, raiseEvent_cyc, raise_cyc, State.fillReply]

theorem completeReply_cyc (p st results) (s : State) : (s.completeReply p st results).cycle = s.cycle := by unfold State.completeReply; (try dsimp only); (repeat' split) <;> first | (simp [setPort_cyc, setTrack_cyc, modTrack_cyc, setLayer_cyc, modLayer_cyc, setWindow_cyc, raiseEvent_cyc, raise_cyc, fillReply_cyc]; done) | rfl

theorem reaim_cyc (id) (s : State) : (s.reaim id).cycle = s.cycle := by unfold State.reaim; (try dsimp only); (repeat' split) <;> first | (simp [setPort_cyc, setTrack_cyc, modTrack_cyc, setLayer_cyc, modLayer_cyc, setWindow_cyc, raiseEvent_cyc, raise_cyc, fillReply_cyc, completeReply_cyc]; done) | rfl

theorem setWait_cyc (who w) (s : State) : (s.setWait who w).cycle = s.cycle := by cases who <;> rfl

theorem loseWindow_cyc (p cause) (s : State) : (s.loseWindow p cause).cycle = s.cycle := by unfold State.loseWindow; (try dsimp only); (repeat' split) <;> first | (simp [setPort_cyc, setTrack_cyc, modTrack_cyc, setLayer_cyc, modLayer_cyc, setWindow_cyc, raiseEvent_cyc, raise_cyc, fillReply_cyc, completeReply_cyc, reaim_cyc, setWait_cyc]; done) | rfl

theorem loseWindowOn_cyc (id cause p) (s : State) : (s.loseWindowOn id cause p).cycle = s.cycle := by unfold State.loseWindowOn; (try dsimp only); (repeat' split) <;> first | (simp [setPort_cyc, setTrack_cyc, modTrack_cyc, setLayer_cyc, modLayer_cyc, setWindow_cyc, raiseEvent_cyc, raise_cyc, fillReply_cyc, completeReply_cyc, reaim_cyc, setWait_cyc, loseWindow_cyc]; done) | rfl

theorem loseWindowsOn_cyc (id cause) (s : State) : (s.loseWindowsOn id cause).cycle = s.cycle := by unfold State.loseWindowsOn; (try dsimp only); (repeat' split) <;> first | (simp [setPort_cyc, setTrack_cyc, modTrack_cyc, setLayer_cyc, modLayer_cyc, setWindow_cyc, raiseEvent_cyc, raise_cyc, fillReply_cyc, completeReply_cyc, reaim_cyc, setWait_cyc, loseWindow_cyc, loseWindowOn_cyc]; done) | rfl

theorem dropRecord_cyc (id) (s : State) : (s.dropRecord id).cycle = s.cycle := rfl

theorem freeLayer_cyc (cause id) (s : State) : (s.freeLayer cause id).cycle = s.cycle := by unfold State.freeLayer; (try dsimp only); (repeat' split) <;> first | (simp [setPort_cyc, setTrack_cyc, modTrack_cyc, setLayer_cyc, modLayer_cyc, setWindow_cyc, raiseEvent_cyc, raise_cyc, fillReply_cyc, completeReply_cyc, reaim_cyc, setWait_cyc, loseWindow_cyc, loseWindowOn_cyc, loseWindowsOn_cyc, dropRecord_cyc]; done) | rfl

theorem cutWindow_cyc (id n p) (s : State) : (s.cutWindow id n p).cycle = s.cycle := by unfold State.cutWindow; (try dsimp only); (repeat' split) <;> first | (simp [setPort_cyc, setTrack_cyc, modTrack_cyc, setLayer_cyc, modLayer_cyc, setWindow_cyc, raiseEvent_cyc, raise_cyc, fillReply_cyc, completeReply_cyc, reaim_cyc, setWait_cyc, loseWindow_cyc, loseWindowOn_cyc, loseWindowsOn_cyc, dropRecord_cyc, freeLayer_cyc]; done) | rfl

theorem truncate_cyc (id n) (s : State) : (s.truncate id n).cycle = s.cycle := by unfold State.truncate; (try dsimp only); (repeat' split) <;> first | (simp [setPort_cyc, setTrack_cyc, modTrack_cyc, setLayer_cyc, modLayer_cyc, setWindow_cyc, raiseEvent_cyc, raise_cyc, fillReply_cyc, completeReply_cyc, reaim_cyc, setWait_cyc, loseWindow_cyc, loseWindowOn_cyc, loseWindowsOn_cyc, dropRecord_cyc, freeLayer_cyc, cutWindow_cyc]; done) | rfl

theorem reportDrop_cyc (r c) (s : State) : (s.reportDrop r c).cycle = s.cycle := rfl

theorem removeCue_cyc (id) (s : State) : (s.removeCue id).cycle = s.cycle := rfl

theorem dropCue_cyc (r c) (s : State) : (s.dropCue r c).cycle = s.cycle := rfl

theorem dropCues_cyc (r l) (s : State) : (s.dropCues r l).cycle = s.cycle := by
  induction l generalizing s with
  | nil => rfl
  | cons x l ih => simp [setPort_cyc, setTrack_cyc, modTrack_cyc, setLayer_cyc, modLayer_cyc, setWindow_cyc, raiseEvent_cyc, raise_cyc, fillReply_cyc, completeReply_cyc, reaim_cyc, setWait_cyc, loseWindow_cyc, loseWindowOn_cyc, loseWindowsOn_cyc, dropRecord_cyc, freeLayer_cyc, cutWindow_cyc, truncate_cyc, reportDrop_cyc, removeCue_cyc, dropCue_cyc, State.dropCues, ih]

theorem dropAllCues_cyc (r) (s : State) : (s.dropAllCues r).cycle = s.cycle := by simp [setPort_cyc, setTrack_cyc, modTrack_cyc, setLayer_cyc, modLayer_cyc, setWindow_cyc, raiseEvent_cyc, raise_cyc, fillReply_cyc, completeReply_cyc, reaim_cyc, setWait_cyc, loseWindow_cyc, loseWindowOn_cyc, loseWindowsOn_cyc, dropRecord_cyc, freeLayer_cyc, cutWindow_cyc, truncate_cyc, reportDrop_cyc, removeCue_cyc, dropCue_cyc, dropCues_cyc, State.dropAllCues]

theorem raiseTrack_cyc (t) (s : State) : (s.raiseTrack t).cycle = s.cycle := rfl

theorem noteTrack_cyc (t old) (s : State) : (s.noteTrack t old).cycle = s.cycle := by unfold State.noteTrack; (try dsimp only); (repeat' split) <;> first | (simp [setPort_cyc, setTrack_cyc, modTrack_cyc, setLayer_cyc, modLayer_cyc, setWindow_cyc, raiseEvent_cyc, raise_cyc, fillReply_cyc, completeReply_cyc, reaim_cyc, setWait_cyc, loseWindow_cyc, loseWindowOn_cyc, loseWindowsOn_cyc, dropRecord_cyc, freeLayer_cyc, cutWindow_cyc, truncate_cyc, reportDrop_cyc, removeCue_cyc, dropCue_cyc, dropCues_cyc, dropAllCues_cyc, raiseTrack_cyc]; done) | rfl

theorem settleTrack_cyc (t) (s : State) : (s.settleTrack t).cycle = s.cycle := by unfold State.settleTrack; (try dsimp only); (repeat' split) <;> first | (simp [setPort_cyc, setTrack_cyc, modTrack_cyc, setLayer_cyc, modLayer_cyc, setWindow_cyc, raiseEvent_cyc, raise_cyc, fillReply_cyc, completeReply_cyc, reaim_cyc, setWait_cyc, loseWindow_cyc, loseWindowOn_cyc, loseWindowsOn_cyc, dropRecord_cyc, freeLayer_cyc, cutWindow_cyc, truncate_cyc, reportDrop_cyc, removeCue_cyc, dropCue_cyc, dropCues_cyc, dropAllCues_cyc, raiseTrack_cyc, noteTrack_cyc]; done) | rfl

theorem endCapture_cyc (id n) (s : State) : (s.endCapture id n).cycle = s.cycle := by unfold State.endCapture; (try dsimp only); (repeat' split) <;> first | (simp [setPort_cyc, setTrack_cyc, modTrack_cyc, setLayer_cyc, modLayer_cyc, setWindow_cyc, raiseEvent_cyc, raise_cyc, fillReply_cyc, completeReply_cyc, reaim_cyc, setWait_cyc, loseWindow_cyc, loseWindowOn_cyc, loseWindowsOn_cyc, dropRecord_cyc, freeLayer_cyc, cutWindow_cyc, truncate_cyc, reportDrop_cyc, removeCue_cyc, dropCue_cyc, dropCues_cyc, dropAllCues_cyc, raiseTrack_cyc, noteTrack_cyc, settleTrack_cyc]; done) | rfl

theorem cutReads_cyc (id n) (s : State) : (s.cutReads id n).cycle = s.cycle := by unfold State.cutReads; (try dsimp only); (repeat' split) <;> first | (simp [setPort_cyc, setTrack_cyc, modTrack_cyc, setLayer_cyc, modLayer_cyc, setWindow_cyc, raiseEvent_cyc, raise_cyc, fillReply_cyc, completeReply_cyc, reaim_cyc, setWait_cyc, loseWindow_cyc, loseWindowOn_cyc, loseWindowsOn_cyc, dropRecord_cyc, freeLayer_cyc, cutWindow_cyc, truncate_cyc, reportDrop_cyc, removeCue_cyc, dropCue_cyc, dropCues_cyc, dropAllCues_cyc, raiseTrack_cyc, noteTrack_cyc, settleTrack_cyc]; done) | rfl

theorem endAt_cyc (id n) (s : State) : (s.endAt id n).cycle = s.cycle := by unfold State.endAt; (try dsimp only); (repeat' split) <;> first | (simp [setPort_cyc, setTrack_cyc, modTrack_cyc, setLayer_cyc, modLayer_cyc, setWindow_cyc, raiseEvent_cyc, raise_cyc, fillReply_cyc, completeReply_cyc, reaim_cyc, setWait_cyc, loseWindow_cyc, loseWindowOn_cyc, loseWindowsOn_cyc, dropRecord_cyc, freeLayer_cyc, cutWindow_cyc, truncate_cyc, reportDrop_cyc, removeCue_cyc, dropCue_cyc, dropCues_cyc, dropAllCues_cyc, raiseTrack_cyc, noteTrack_cyc, settleTrack_cyc, endCapture_cyc, cutReads_cyc]; done) | rfl

theorem raiseClosed_cyc (t id) (s : State) : (s.raiseClosed t id).cycle = s.cycle := rfl

theorem markFresh_cyc (b id) (s : State) : (s.markFresh b id).cycle = s.cycle := by unfold State.markFresh; (try dsimp only); (repeat' split) <;> first | (simp [setPort_cyc, setTrack_cyc, modTrack_cyc, setLayer_cyc, modLayer_cyc, setWindow_cyc, raiseEvent_cyc, raise_cyc, fillReply_cyc, completeReply_cyc, reaim_cyc, setWait_cyc, loseWindow_cyc, loseWindowOn_cyc, loseWindowsOn_cyc, dropRecord_cyc, freeLayer_cyc, cutWindow_cyc, truncate_cyc, reportDrop_cyc, removeCue_cyc, dropCue_cyc, dropCues_cyc, dropAllCues_cyc, raiseTrack_cyc, noteTrack_cyc, settleTrack_cyc, endCapture_cyc, cutReads_cyc, endAt_cyc, raiseClosed_cyc]; done) | rfl

theorem discardOpen_cyc (t id) (s : State) : (s.discardOpen t id).cycle = s.cycle := by simp [setPort_cyc, setTrack_cyc, modTrack_cyc, setLayer_cyc, modLayer_cyc, setWindow_cyc, raiseEvent_cyc, raise_cyc, fillReply_cyc, completeReply_cyc, reaim_cyc, setWait_cyc, loseWindow_cyc, loseWindowOn_cyc, loseWindowsOn_cyc, dropRecord_cyc, freeLayer_cyc, cutWindow_cyc, truncate_cyc, reportDrop_cyc, removeCue_cyc, dropCue_cyc, dropCues_cyc, dropAllCues_cyc, raiseTrack_cyc, noteTrack_cyc, settleTrack_cyc, endCapture_cyc, cutReads_cyc, endAt_cyc, raiseClosed_cyc, markFresh_cyc, State.discardOpen]

theorem closeLayered_cyc (t id n fr) (s : State) : (s.closeLayered t id n fr).cycle = s.cycle := by simp [setPort_cyc, setTrack_cyc, modTrack_cyc, setLayer_cyc, modLayer_cyc, setWindow_cyc, raiseEvent_cyc, raise_cyc, fillReply_cyc, completeReply_cyc, reaim_cyc, setWait_cyc, loseWindow_cyc, loseWindowOn_cyc, loseWindowsOn_cyc, dropRecord_cyc, freeLayer_cyc, cutWindow_cyc, truncate_cyc, reportDrop_cyc, removeCue_cyc, dropCue_cyc, dropCues_cyc, dropAllCues_cyc, raiseTrack_cyc, noteTrack_cyc, settleTrack_cyc, endCapture_cyc, cutReads_cyc, endAt_cyc, raiseClosed_cyc, markFresh_cyc, discardOpen_cyc, State.closeLayered]

theorem closeRolled_cyc (t id n l) (s : State) : (s.closeRolled t id n l).cycle = s.cycle := by unfold State.closeRolled; (try dsimp only); (repeat' split) <;> first | (simp [setPort_cyc, setTrack_cyc, modTrack_cyc, setLayer_cyc, modLayer_cyc, setWindow_cyc, raiseEvent_cyc, raise_cyc, fillReply_cyc, completeReply_cyc, reaim_cyc, setWait_cyc, loseWindow_cyc, loseWindowOn_cyc, loseWindowsOn_cyc, dropRecord_cyc, freeLayer_cyc, cutWindow_cyc, truncate_cyc, reportDrop_cyc, removeCue_cyc, dropCue_cyc, dropCues_cyc, dropAllCues_cyc, raiseTrack_cyc, noteTrack_cyc, settleTrack_cyc, endCapture_cyc, cutReads_cyc, endAt_cyc, raiseClosed_cyc, markFresh_cyc, discardOpen_cyc, closeLayered_cyc]; done) | rfl

theorem closeAtRoll_cyc (t r n b) (s : State) : (s.closeAtRoll t r n b).cycle = s.cycle := by unfold State.closeAtRoll; (try dsimp only); (repeat' split) <;> first | (simp [setPort_cyc, setTrack_cyc, modTrack_cyc, setLayer_cyc, modLayer_cyc, setWindow_cyc, raiseEvent_cyc, raise_cyc, fillReply_cyc, completeReply_cyc, reaim_cyc, setWait_cyc, loseWindow_cyc, loseWindowOn_cyc, loseWindowsOn_cyc, dropRecord_cyc, freeLayer_cyc, cutWindow_cyc, truncate_cyc, reportDrop_cyc, removeCue_cyc, dropCue_cyc, dropCues_cyc, dropAllCues_cyc, raiseTrack_cyc, noteTrack_cyc, settleTrack_cyc, endCapture_cyc, cutReads_cyc, endAt_cyc, raiseClosed_cyc, markFresh_cyc, discardOpen_cyc, closeRolled_cyc, closeLayered_cyc]; done) | rfl

/-- The close of a first layer leaves the cycle timer where it is not the defining recording (R8, R34). -/
theorem closeFirst_cyc (t id n fresh stop) (s : State) (h : s.cycle.state ≠ .defining) :
    (s.closeFirst t id n fresh stop).cycle = s.cycle := by
  unfold State.closeFirst
  simp only [h, decide_false, Bool.false_eq_true, if_false, false_and, or_false]
  (repeat' split) <;> simp [setPort_cyc, setTrack_cyc, modTrack_cyc, setLayer_cyc, modLayer_cyc, setWindow_cyc, raiseEvent_cyc, raise_cyc, fillReply_cyc, completeReply_cyc, reaim_cyc, setWait_cyc, loseWindow_cyc, loseWindowOn_cyc, loseWindowsOn_cyc, dropRecord_cyc, freeLayer_cyc, cutWindow_cyc, truncate_cyc, reportDrop_cyc, removeCue_cyc, dropCue_cyc, dropCues_cyc, dropAllCues_cyc, raiseTrack_cyc, noteTrack_cyc, settleTrack_cyc, endCapture_cyc, cutReads_cyc, endAt_cyc, raiseClosed_cyc, markFresh_cyc, discardOpen_cyc, closeLayered_cyc, closeAtRoll_cyc]

theorem closeOpen_cyc (t n b fresh stop) (s : State) (h : s.cycle.state ≠ .defining) :
    (s.closeOpen t n b fresh stop).cycle = s.cycle := by
  unfold State.closeOpen
  (repeat' split) <;> simp [setPort_cyc, setTrack_cyc, modTrack_cyc, setLayer_cyc, modLayer_cyc, setWindow_cyc, raiseEvent_cyc, raise_cyc, fillReply_cyc, completeReply_cyc, reaim_cyc, setWait_cyc, loseWindow_cyc, loseWindowOn_cyc, loseWindowsOn_cyc, dropRecord_cyc, freeLayer_cyc, cutWindow_cyc, truncate_cyc, reportDrop_cyc, removeCue_cyc, dropCue_cyc, dropCues_cyc, dropAllCues_cyc, raiseTrack_cyc, noteTrack_cyc, settleTrack_cyc, endCapture_cyc, cutReads_cyc, endAt_cyc, raiseClosed_cyc, markFresh_cyc, discardOpen_cyc, closeLayered_cyc, closeAtRoll_cyc, closeFirst_cyc, closeFirst_cyc _ _ _ _ _ _ h]

theorem closeAtCut_cyc (t k stop) (s : State) (h : s.cycle.state ≠ .defining) :
    (s.closeAtCut t k stop).cycle = s.cycle := by
  unfold State.closeAtCut
  split
  · rfl
  · exact closeOpen_cyc _ _ _ _ _ _ h

theorem closeTracks_cyc (k stop l) (s : State) (h : s.cycle.state ≠ .defining) :
    (s.closeTracks k stop l).cycle = s.cycle := by
  induction l generalizing s with
  | nil => rfl
  | cons t l ih =>
    have hc := closeAtCut_cyc t k stop s h
    rw [State.closeTracks, ih _ (by rw [hc]; exact h), hc]

end Sys2Proof.Machine
end

