-- ==== Sys2Proof/Laws/FrameNow.lean ====
section
/-! SUPPORT. Frame lemmas: the operations leave the millisecond timebase as it is. -/
namespace Sys2Proof.Machine

open Sys2Proof

set_option linter.unusedSimpArgs false
set_option linter.unusedTactic false
set_option linter.unreachableTactic false
set_option linter.unnecessarySeqFocus false

@[simp] theorem setPort_now (p c) (s : State) : (s.setPort p c).now = s.now := by cases p <;> rfl

@[simp] theorem setTrack_now (t tr) (s : State) : (s.setTrack t tr).now = s.now := rfl

@[simp] theorem modTrack_now (t f) (s : State) : (s.modTrack t f).now = s.now := rfl

@[simp] theorem setLayer_now (id l) (s : State) : (s.setLayer id l).now = s.now := rfl

@[simp] theorem modLayer_now (id f) (s : State) : (s.modLayer id f).now = s.now := by unfold State.modLayer; (try dsimp only); (repeat' split) <;> first | (simp; done) | rfl

@[simp] theorem setWindow_now (p w) (s : State) : (s.setWindow p w).now = s.now := by cases p <;> rfl

@[simp] theorem setSwitchPort_now (p c) (s : State) : (s.setSwitchPort p c).now = s.now := by cases p <;> rfl

@[simp] theorem offerTo_now (p e) (s : State) : (s.offerTo p e).now = s.now := by simp [State.offerTo]

@[simp] theorem raiseEvent_now (e) (s : State) : (s.raiseEvent e).now = s.now := rfl

@[simp] theorem raise_now (k t l d) (s : State) : (s.raise k t l d).now = s.now := rfl

@[simp] theorem takeFault_now (o) (s : State) : (s.takeFault o).now = s.now := by unfold State.takeFault; (try dsimp only); (repeat' split) <;> first | (simp; done) | rfl

theorem allocate_now (id : Nat) (s t : State) (h : s.allocate id = some t) : t.now = s.now := by
  unfold State.allocate at h
  split at h
  · injection h with h; subst h; simp
  · simp at h

@[simp] theorem fillReply_now (p st tag code results) (s : State) : (s.fillReply p st tag code results).now = s.now := by simp [State.fillReply]

@[simp] theorem completeReply_now (p st results) (s : State) : (s.completeReply p st results).now = s.now := by unfold State.completeReply; (try dsimp only); (repeat' split) <;> first | (simp; done) | rfl

@[simp] theorem clearPassFlags_now (s : State) : (s.clearPassFlags).now = s.now := rfl

@[simp] theorem setCycle_now (c) (s : State) : (s.setCycle c).now = s.now := by unfold State.setCycle; (try dsimp only); (repeat' split) <;> first | (simp; done) | rfl

@[simp] theorem startCycle_now (len d) (s : State) : (s.startCycle len d).now = s.now := by unfold State.startCycle; (try dsimp only); (repeat' split) <;> first | (simp; done) | rfl

@[simp] theorem emptyCycle_now (s : State) : (s.emptyCycle).now = s.now := by unfold State.emptyCycle; (try dsimp only); (repeat' split) <;> first | (simp; done) | rfl

@[simp] theorem closeDefining_now (n stop) (s : State) : (s.closeDefining n stop).now = s.now := by unfold State.closeDefining; (try dsimp only); (repeat' split) <;> first | (simp; done) | rfl

@[simp] theorem countFrame_now (s : State) : (s.countFrame).now = s.now := rfl

@[simp] theorem announce_now (r) (s : State) : (s.announce r).now = s.now := by unfold State.announce; (try dsimp only); (repeat' split) <;> first | (simp; done) | rfl

@[simp] theorem advance_now (s : State) : (s.advance).1.now = s.now := by unfold State.advance; (repeat' split) <;> (try split) <;> first | (simp; done) | rfl

@[simp] theorem settleBuffers_now (s : State) : (s.settleBuffers).now = s.now := rfl

@[simp] theorem reaim_now (id) (s : State) : (s.reaim id).now = s.now := by unfold State.reaim; (try dsimp only); (repeat' split) <;> first | (simp; done) | rfl

@[simp] theorem reaimAllZero_now (s : State) : (s.reaimAllZero).now = s.now := rfl

@[simp] theorem setWait_now (who w) (s : State) : (s.setWait who w).now = s.now := by cases who <;> rfl

@[simp] theorem loseWindow_now (p cause) (s : State) : (s.loseWindow p cause).now = s.now := by unfold State.loseWindow; (try dsimp only); (repeat' split) <;> first | (simp; done) | rfl

@[simp] theorem loseWindowOn_now (id cause p) (s : State) : (s.loseWindowOn id cause p).now = s.now := by unfold State.loseWindowOn; (try dsimp only); (repeat' split) <;> first | (simp; done) | rfl

@[simp] theorem loseWindowsOn_now (id cause) (s : State) : (s.loseWindowsOn id cause).now = s.now := by unfold State.loseWindowsOn; (try dsimp only); (repeat' split) <;> first | (simp; done) | rfl

@[simp] theorem dropRecord_now (id) (s : State) : (s.dropRecord id).now = s.now := rfl

@[simp] theorem freeLayer_now (cause id) (s : State) : (s.freeLayer cause id).now = s.now := by unfold State.freeLayer; (try dsimp only); (repeat' split) <;> first | (simp; done) | rfl

@[simp] theorem cutWindow_now (id n p) (s : State) : (s.cutWindow id n p).now = s.now := by unfold State.cutWindow; (try dsimp only); (repeat' split) <;> first | (simp; done) | rfl

@[simp] theorem truncate_now (id n) (s : State) : (s.truncate id n).now = s.now := by unfold State.truncate; (try dsimp only); (repeat' split) <;> first | (simp; done) | rfl

@[simp] theorem suspectBlock_now (rd b) (s : State) : (s.suspectBlock rd b).now = s.now := by unfold State.suspectBlock; (try dsimp only); (repeat' split) <;> first | (simp; done) | rfl

@[simp] theorem readChecked_now (who o chk rd) (s : State) : (s.readChecked who o chk rd).1.now = s.now := by unfold State.readChecked; (try dsimp only); (repeat' split) <;> first | (simp; done) | rfl

@[simp] theorem readFrom_now (who : Requester) (checks : List WordCheck) (l : List Nat) (rd : Reading) (s : State) :
    (State.readFrom who checks l rd s).1.now = s.now := by
  induction l generalizing rd s with
  | nil => rfl
  | cons i l ih => simp [State.readFrom, ih]

@[simp] theorem readRun_now (who checks rd) (s : State) : (s.readRun who checks rd).1.now = s.now := by unfold State.readRun; (try dsimp only); (repeat' split) <;> first | (simp; done) | rfl

@[simp] theorem windowDone_now (p w) (s : State) : (s.windowDone p w).now = s.now := by unfold State.windowDone; (try dsimp only); (repeat' split) <;> first | (simp; done) | rfl

@[simp] theorem settleRead_now (p) (s : State) : (s.settleRead p).now = s.now := by unfold State.settleRead; (try dsimp only); (repeat' split) <;> first | (simp; done) | rfl

@[simp] theorem takeSample_now (p) (s : State) : (s.takeSample p).now = s.now := by unfold State.takeSample; (try dsimp only); (repeat' split) <;> first | (simp; done) | rfl

@[simp] theorem reportDrop_now (r c) (s : State) : (s.reportDrop r c).now = s.now := rfl

@[simp] theorem removeCue_now (id) (s : State) : (s.removeCue id).now = s.now := rfl

@[simp] theorem dropCue_now (r c) (s : State) : (s.dropCue r c).now = s.now := rfl

@[simp] theorem dropCues_now (r l) (s : State) : (s.dropCues r l).now = s.now := by
  induction l generalizing s with
  | nil => rfl
  | cons x l ih => simp [State.dropCues, ih]

@[simp] theorem dropAllCues_now (r) (s : State) : (s.dropAllCues r).now = s.now := by simp [State.dropAllCues]

@[simp] theorem dropTrackCues_now (t) (s : State) : (s.dropTrackCues t).now = s.now := by simp [State.dropTrackCues]

@[simp] theorem makeCue_now (q a t u pr ps po) (s : State) : (s.makeCue q a t u pr ps po).1.now = s.now := rfl

@[simp] theorem joinCue_now (id p) (s : State) : (s.joinCue id p).now = s.now := rfl

@[simp] theorem placeCue_now (q a t u pr ps po) (s : State) : (s.placeCue q a t u pr ps po).1.now = s.now := by unfold State.placeCue; (try dsimp only); (repeat' split) <;> first | (simp; done) | rfl

@[simp] theorem supersedeSlot_now (t f) (s : State) : (s.supersedeSlot t f).now = s.now := by unfold State.supersedeSlot; (try dsimp only); (repeat' split) <;> first | (simp; done) | rfl

@[simp] theorem raiseTrack_now (t) (s : State) : (s.raiseTrack t).now = s.now := rfl

@[simp] theorem noteTrack_now (t old) (s : State) : (s.noteTrack t old).now = s.now := by unfold State.noteTrack; (try dsimp only); (repeat' split) <;> first | (simp; done) | rfl

@[simp] theorem settleTrack_now (t) (s : State) : (s.settleTrack t).now = s.now := by unfold State.settleTrack; (try dsimp only); (repeat' split) <;> first | (simp; done) | rfl

@[simp] theorem unfoldMember_now (id) (s : State) : (s.unfoldMember id).now = s.now := by simp [State.unfoldMember]

theorem foldl_unfold_now (l : List Nat) (s : State) :
    (l.foldl (fun s id => State.unfoldMember id s) s).now = s.now := by
  induction l generalizing s with
  | nil => rfl
  | cons x l ih => simp [ih]

@[simp] theorem abandonFold_now (cause keep) (s : State) : (s.abandonFold cause keep).now = s.now := by unfold State.abandonFold; (try dsimp only); (repeat' split) <;> simp [foldl_unfold_now]

@[simp] theorem beginFoldBurst_now (s : State) : (s.beginFoldBurst).now = s.now := by
  unfold State.beginFoldBurst
  split
  · rfl
  · next f hf =>
    dsimp only
    split
    · simp
    · next u hu =>
      have hu' : u.now = s.now := by
        split at hu
        · exact allocate_now _ _ _ hu
        · injection hu with hu; rw [hu]
      (repeat' split) <;> simpa using hu' 

@[simp] theorem settleFold_now (s : State) : (s.settleFold).now = s.now := by unfold State.settleFold; (try dsimp only); (repeat' split) <;> first | (simp; done) | rfl

@[simp] theorem startFold_now (t i j rid rest) (s : State) : (s.startFold t i j rid rest).now = s.now := by unfold State.startFold; (try dsimp only); (repeat' split) <;> first | (simp; done) | rfl

theorem takeRoom_now (t : TrackId) (s u : State) (id : Nat) (h : s.takeRoom t = .ok (u, id)) : u.now = s.now := by
  unfold State.takeRoom at h
  split at h
  · simp at h
  · dsimp only at h
    split at h
    · simp at h; rw [← h.1]
    · split at h
      · split at h
        · split at h
          · simp at h; rw [← h.1]; simp
          · simp at h
        · simp at h
      · simp at h

@[simp] theorem completeFold_now (s : State) : (s.completeFold).now = s.now := by unfold State.completeFold; (try dsimp only); (repeat' split) <;> first | (simp; done) | rfl

@[simp] theorem endCapture_now (id n) (s : State) : (s.endCapture id n).now = s.now := by unfold State.endCapture; (try dsimp only); (repeat' split) <;> first | (simp; done) | rfl

@[simp] theorem cutReads_now (id n) (s : State) : (s.cutReads id n).now = s.now := by unfold State.cutReads; (try dsimp only); (repeat' split) <;> first | (simp; done) | rfl

@[simp] theorem endAt_now (id n) (s : State) : (s.endAt id n).now = s.now := by unfold State.endAt; (try dsimp only); (repeat' split) <;> first | (simp; done) | rfl

@[simp] theorem raiseClosed_now (t id) (s : State) : (s.raiseClosed t id).now = s.now := rfl

@[simp] theorem markFresh_now (b id) (s : State) : (s.markFresh b id).now = s.now := by unfold State.markFresh; (try dsimp only); (repeat' split) <;> first | (simp; done) | rfl

@[simp] theorem discardOpen_now (t id) (s : State) : (s.discardOpen t id).now = s.now := by simp [State.discardOpen]

@[simp] theorem closeFirst_now (t id n fr stop) (s : State) : (s.closeFirst t id n fr stop).now = s.now := by unfold State.closeFirst; (try dsimp only); (repeat' split) <;> first | (simp; done) | rfl

@[simp] theorem closeLayered_now (t id n fr) (s : State) : (s.closeLayered t id n fr).now = s.now := by simp [State.closeLayered]

@[simp] theorem closeRolled_now (t id n l) (s : State) : (s.closeRolled t id n l).now = s.now := by unfold State.closeRolled; (try dsimp only); (repeat' split) <;> first | (simp; done) | rfl

@[simp] theorem closeAtRoll_now (t r n b) (s : State) : (s.closeAtRoll t r n b).now = s.now := by unfold State.closeAtRoll; (try dsimp only); (repeat' split) <;> first | (simp; done) | rfl

@[simp] theorem closeOpen_now (t n b fr stop) (s : State) : (s.closeOpen t n b fr stop).now = s.now := by unfold State.closeOpen; (try dsimp only); (repeat' split) <;> first | (simp; done) | rfl

@[simp] theorem closeAtCut_now (t k stop) (s : State) : (s.closeAtCut t k stop).now = s.now := by unfold State.closeAtCut; (try dsimp only); (repeat' split) <;> first | (simp; done) | rfl

theorem actClose_ok_now (t k) (s u : State) (h : s.actClose t k = .ok u) : u.now = s.now := by
  unfold State.actClose at h; (try dsimp only at h); (repeat' split at h) <;> simp at h <;> (subst h; simp)

@[simp] theorem actMute_now (t n) (s : State) : (s.actMute t n).now = s.now := by simp [State.actMute]

@[simp] theorem toRedo_now (t id) (s : State) : (s.toRedo t id).now = s.now := by unfold State.toRedo; (try dsimp only); (repeat' split) <;> first | (simp; done) | rfl

@[simp] theorem freeAll_now (cause l) (s : State) : (s.freeAll cause l).now = s.now := by
  induction l generalizing s with
  | nil => rfl
  | cons x l ih => simp [State.freeAll, ih]

theorem actUndo_ok_now (t) (s u : State) (h : s.actUndo t = .ok u) : u.now = s.now := by
  unfold State.actUndo at h
  dsimp only at h
  (repeat' split at h) <;> simp at h <;> (try (subst h; simp))
  all_goals (repeat' split) <;> simp

theorem actRedo_ok_now (t) (s u : State) (h : s.actRedo t = .ok u) : u.now = s.now := by
  unfold State.actRedo at h; (try dsimp only at h); (repeat' split at h) <;> simp at h <;> (subst h; simp)

@[simp] theorem emptyTrack_now (t) (s : State) : (s.emptyTrack t).now = s.now := by unfold State.emptyTrack; (try dsimp only); (repeat' split) <;> first | (simp; done) | rfl

@[simp] theorem forgetTrack_now (t) (s : State) : (s.forgetTrack t).now = s.now := by rfl

@[simp] theorem clearTrack_now (t) (s : State) : (s.clearTrack t).now = s.now := by unfold State.clearTrack; (try dsimp only); (repeat' split) <;> first | (simp; done) | rfl

@[simp] theorem actClearTrack_now (t) (s : State) : (s.actClearTrack t).now = s.now := by simp [State.actClearTrack]

@[simp] theorem writeRing_now (f) (s : State) : (s.writeRing f).now = s.now := rfl

@[simp] theorem setRecord_now (i r) (s : State) : (s.setRecord i r).now = s.now := rfl

@[simp] theorem refillAll_now (s : State) : (s.refillAll).now = s.now := rfl

@[simp] theorem overrun_now (pl id r) (s : State) : (s.overrun pl id r).now = s.now := by unfold State.overrun; (try dsimp only); (repeat' split) <;> first | (simp; done) | rfl

@[simp] theorem cutClosed_now (id n) (s : State) : (s.cutClosed id n).now = s.now := by unfold State.cutClosed; (try dsimp only); (repeat' split) <;> first | (simp; done) | rfl

@[simp] theorem exhaust_now (id n) (s : State) : (s.exhaust id n).now = s.now := by unfold State.exhaust; (try dsimp only); (repeat' split) <;> first | (simp; done) | rfl

theorem allocateEach_now (id : Nat) (l : List Nat) (s : State) : (State.allocateEach id l s).1.now = s.now := by
  induction l generalizing s with
  | nil => rfl
  | cons o l ih =>
    unfold State.allocateEach
    split
    · next u hu => rw [ih, allocate_now _ _ _ hu]
    · rfl

@[simp] theorem giveUp_now (pl id r) (s : State) : (s.giveUp pl id r).now = s.now := by
  unfold State.giveUp
  have h := allocateEach_now id (s.blocksNeeded id r) s
  split <;> next hu => rw [hu] at h; simpa using h

@[simp] theorem handOver_now (i) (s : State) : (s.handOver i).now = s.now := by
  unfold State.handOver
  split
  · rfl
  · split
    · simp
    · next u hu =>
      have hu' : u.now = s.now := by
        split at hu
        · exact allocate_now _ _ _ hu
        · injection hu with hu; rw [hu]
      dsimp only
      (repeat' split) <;> simpa using hu' 

@[simp] theorem settleCapture_now (n : Nat) (s : State) : (State.settleCapture n s).now = s.now := by
  induction n generalizing s with
  | zero => rfl
  | succ n ih =>
    unfold State.settleCapture
    dsimp only
    (repeat' split) <;> simp [ih]

@[simp] theorem overtake_now (pl i) (s : State) : (s.overtake pl i).now = s.now := by unfold State.overtake; (try dsimp only); (repeat' split) <;> first | (simp; done) | rfl

@[simp] theorem stealRecord_now (i) (s : State) : (s.stealRecord i).now = s.now := by unfold State.stealRecord; (try dsimp only); (repeat' split) <;> first | (simp; done) | rfl

@[simp] theorem placeRecord_now (r) (s : State) : (s.placeRecord r).now = s.now := by unfold State.placeRecord; (try dsimp only); (repeat' split) <;> first | (simp; done) | rfl

@[simp] theorem openLayer_now (t id l st ph dest) (s : State) : (s.openLayer t id l st ph dest).now = s.now := by simp [State.openLayer]

@[simp] theorem freeRedo_now (t) (s : State) : (s.freeRedo t).now = s.now := by simp [State.freeRedo]

@[simp] theorem startDefining_now (s : State) : (s.startDefining).now = s.now := by unfold State.startDefining; (try dsimp only); (repeat' split) <;> first | (simp; done) | rfl

theorem actRecord_ok_now (t k) (s u : State) (h : s.actRecord t k = .ok u) : u.now = s.now := by
  unfold State.actRecord at h
  split at h
  · simp at h
  · split at h
    · simp at h
    · next v id hv =>
      injection h with h; subst h
      simp [takeRoom_now _ _ _ _ hv]

theorem actLayer_ok_now (t cv k) (s u : State) (h : s.actLayer t cv k = .ok u) : u.now = s.now := by
  unfold State.actLayer at h
  split at h
  · split at h
    · simp at h
    · next v id hv =>
      injection h with h; subst h
      simp [takeRoom_now _ _ _ _ hv]
  · simp at h

@[simp] theorem decayAll_now (n l) (s : State) : (s.decayAll n l).now = s.now := by
  induction l generalizing s with
  | nil => rfl
  | cons x l ih => simp [State.decayAll, ih]

@[simp] theorem decayFold_now (t n) (s : State) : (s.decayFold t n).now = s.now := by unfold State.decayFold; (try dsimp only); (repeat' split) <;> first | (simp; done) | rfl

@[simp] theorem retire_now (t id) (s : State) : (s.retire t id).now = s.now := by simp [State.retire]

@[simp] theorem retireAll_now (t l) (s : State) : (s.retireAll t l).now = s.now := by
  induction l generalizing s with
  | nil => rfl
  | cons x l ih => simp [State.retireAll, ih]

@[simp] theorem decayTrack_now (t) (s : State) : (s.decayTrack t).now = s.now := by unfold State.decayTrack; (try dsimp only); (repeat' split) <;> first | (simp; done) | rfl

@[simp] theorem roll_now (t) (s : State) : (s.roll t).now = s.now := by
  unfold State.roll
  dsimp only
  split
  · split
    · split
      · rfl
      · split
        · next hv => have hu := takeRoom_now _ _ _ _ hv; simp at hu; simpa using hu
        · simp
    · rfl
  · rfl

@[simp] theorem wrapTrack_now (t) (s : State) : (s.wrapTrack t).now = s.now := by simp [State.wrapTrack]

@[simp] theorem liveOne_now (fr i) (s : State) : (s.liveOne fr i).now = s.now := by unfold State.liveOne; (try dsimp only); (repeat' split) <;> first | (simp; done) | rfl

@[simp] theorem liveAll_now (fr l) (s : State) : (s.liveAll fr l).now = s.now := by
  induction l generalizing s with
  | nil => rfl
  | cons x l ih => simp [State.liveAll, ih]

@[simp] theorem overtakeAll_now (pl l) (s : State) : (s.overtakeAll pl l).now = s.now := by
  induction l generalizing s with
  | nil => rfl
  | cons x l ih => simp [State.overtakeAll, ih]

@[simp] theorem captureArrival_now (pl fr ord) (s : State) : (s.captureArrival pl fr ord).now = s.now := by unfold State.captureArrival; (try dsimp only); (repeat' split) <;> first | (simp; done) | rfl

@[simp] theorem closeLimits_now (l) (s : State) : (s.closeLimits l).now = s.now := by
  induction l generalizing s with
  | nil => rfl
  | cons x l ih => unfold State.closeLimits; split <;> simp [ih]

@[simp] theorem closeTracks_now (k stop l) (s : State) : (s.closeTracks k stop l).now = s.now := by
  induction l generalizing s with
  | nil => rfl
  | cons x l ih => simp [State.closeTracks, ih]

@[simp] theorem pauseCycle_now (s : State) : (s.pauseCycle).now = s.now := by simp [State.pauseCycle]

@[simp] theorem actStopAll_now (k) (s : State) : (s.actStopAll k).now = s.now := by unfold State.actStopAll; (try dsimp only); (repeat' split) <;> first | (simp; done) | rfl

theorem actPlayAll_ok_now (s u : State) (h : s.actPlayAll = .ok u) : u.now = s.now := by
  unfold State.actPlayAll at h; (try dsimp only at h); (repeat' split at h) <;> simp at h <;> (subst h; simp)

theorem act_ok_now (x t k) (s u : State) (h : s.act x t k = .ok u) : u.now = s.now := by
  unfold State.act at h
  split at h
  · exact actRecord_ok_now _ _ _ _ h
  · exact actLayer_ok_now _ _ _ _ _ h
  · exact actLayer_ok_now _ _ _ _ _ h
  · exact actClose_ok_now _ _ _ _ h
  · injection h with h; subst h; simp
  · injection h with h; subst h; simp
  · exact actUndo_ok_now _ _ _ h
  · exact actRedo_ok_now _ _ _ h
  · injection h with h; subst h; simp
  · exact actPlayAll_ok_now _ _ h
  · simp at h

@[simp] theorem actAtOnce_now (x t e) (s : State) : (s.actAtOnce x t e).1.now = s.now := by
  unfold State.actAtOnce
  dsimp only
  split
  · rfl
  · next u hu =>
    have hu' := act_ok_now _ _ _ _ _ hu
    (repeat' split) <;> simp_all

@[simp] theorem quantised_now (q x t u pr) (s : State) : (s.quantised q x t u pr).1.now = s.now := by
  unfold State.quantised
  split <;> first | (simp; done) | rfl

@[simp] theorem takeCue_now (r) (s : State) : (s.takeCue r).now = s.now := by
  unfold State.takeCue
  split
  · rfl
  · split
    · dsimp only
      split
      · next u hu => have hu' := act_ok_now _ _ _ _ _ hu; simpa using hu'
      · simp
    · rfl

@[simp] theorem takeCues_now (r : Reached) (n : Nat) (s : State) : (State.takeCues r n s).now = s.now := by
  induction n generalizing s with
  | zero => rfl
  | succ n ih => simp [State.takeCues, ih]

@[simp] theorem wrapAll_now (l) (s : State) : (s.wrapAll l).now = s.now := by
  induction l generalizing s with
  | nil => rfl
  | cons x l ih => simp [State.wrapAll, ih]

@[simp] theorem boundaryWork_now (r : Reached) (l : List (Option TrackId)) (w : List TrackId) (s : State) :
    (State.boundaryWork r l w s).now = s.now := by
  induction l generalizing s w with
  | nil => simp [State.boundaryWork]
  | cons x l ih =>
    cases x with
    | none => simp [State.boundaryWork, ih]
    | some t => unfold State.boundaryWork; split <;> simp [ih]

@[simp] theorem actTap_now (stamp) (s : State) : (s.actTap stamp).1.now = s.now := by unfold State.actTap; (try dsimp only); (repeat' split) <;> first | (simp; done) | rfl

@[simp] theorem noteRecent_now (q t x pr an) (s : State) : (s.noteRecent q t x pr an).now = s.now := by unfold State.noteRecent; (try dsimp only); (repeat' split) <;> first | (simp; done) | rfl

@[simp] theorem resolved_now (q t x u pr) (s : State) : (s.resolved q t x u pr).1.now = s.now := by
  unfold State.resolved
  split
  · rfl
  · dsimp only
    (repeat' split) <;> simp

@[simp] theorem toggle_now (q t x u pr) (s : State) : (s.toggle q t x u pr).1.now = s.now := by unfold State.toggle; (try dsimp only); (repeat' split) <;> first | (simp; done) | rfl

@[simp] theorem handCue_now (q x t u pr) (s : State) : (s.handCue q x t u pr).1.now = s.now := by simp [State.handCue]

@[simp] theorem selectTo_now (q t) (s : State) : (s.selectTo q t).now = s.now := by simp [State.selectTo]

@[simp] theorem handOn_now (q : Port) (x : SwAction) (t : TrackId) (u : Quantum) (pr : PressTime) (s : State) :
    (State.handOn q x t u pr s).1.1.now = s.now := by
  cases x <;> simp [State.handOn]

@[simp] theorem issue_now (q c k x t u pr) (s : State) : (s.issue q c k x t u pr).now = s.now := by unfold State.issue; (try dsimp only); (repeat' split) <;> first | (simp; done) | rfl

@[simp] theorem setMachine_now (q c m) (s : State) : (s.setMachine q c m).now = s.now := by simp [State.setMachine]

@[simp] theorem switchDown_now (q c) (s : State) : (s.switchDown q c).1.now = s.now := by unfold State.switchDown; (try dsimp only); (repeat' split) <;> first | (simp; done) | rfl

@[simp] theorem switchUp_now (q c) (s : State) : (s.switchUp q c).1.now = s.now := by unfold State.switchUp; (try dsimp only); (repeat' split) <;> first | (simp; done) | rfl

@[simp] theorem holdDue_now (q c) (s : State) : (s.holdDue q c).now = s.now := by unfold State.holdDue; (try dsimp only); (repeat' split) <;> first | (simp; done) | rfl

@[simp] theorem windowDue_now (q c) (s : State) : (s.windowDue q c).now = s.now := by unfold State.windowDue; (try dsimp only); (repeat' split) <;> first | (simp; done) | rfl

@[simp] theorem layerSample_now (id k) (s : State) : (s.layerSample id k).1.now = s.now := by unfold State.layerSample; (try dsimp only); (repeat' split) <;> first | (simp; done) | rfl

@[simp] theorem layerPart_now (q id cs) (s : State) : (s.layerPart q id cs).1.now = s.now := by unfold State.layerPart; (try dsimp only); (repeat' split) <;> first | (simp; done) | rfl

@[simp] theorem sumLayers_now (t : TrackId) (q : Nat) (l : List Nat) (s : State) :
    (State.sumLayers t q l s).1.now = s.now := by
  induction l generalizing s with
  | nil => rfl
  | cons x l ih => simp [State.sumLayers, ih]

@[simp] theorem trackSum_now (t) (s : State) : (s.trackSum t).1.now = s.now := by unfold State.trackSum; (try dsimp only); (repeat' split) <;> first | (simp; done) | rfl

@[simp] theorem trackSums_now (l : List TrackId) (s : State) : (State.trackSums l s).1.now = s.now := by
  induction l generalizing s with
  | nil => rfl
  | cons x l ih => simp [State.trackSums, ih]

@[simp] theorem moveRamps_now (s : State) : (s.moveRamps).now = s.now := rfl

@[simp] theorem clip_now (ear r) (s : State) : (s.clip ear r).now = s.now := by unfold State.clip; (try dsimp only); (repeat' split) <;> first | (simp; done) | rfl

@[simp] theorem mix_now (fr pl b) (s : State) : (s.mix fr pl b).now = s.now := by unfold State.mix; (try dsimp only); (repeat' split) <;> first | (simp; done) | rfl

@[simp] theorem mixSilence_now (s : State) : (s.mixSilence).now = s.now := rfl

@[simp] theorem discardImport_now (id cause) (s : State) : (s.discardImport id cause).now = s.now := by unfold State.discardImport; (try dsimp only); (repeat' split) <;> first | (simp; done) | rfl

@[simp] theorem requestCommit_now (p) (s : State) : (s.requestCommit p).now = s.now := by
  unfold State.requestCommit
  split
  · rfl
  · split
    · rfl
    · dsimp only
      split
      · split
        · next u hu => have hu' := allocate_now _ _ _ hu; simpa using hu'
        · simp
      · simp

@[simp] theorem settleWrite_now (p) (s : State) : (s.settleWrite p).now = s.now := by unfold State.settleWrite; (try dsimp only); (repeat' split) <;> first | (simp; done) | rfl

@[simp] theorem settleWait_now (who) (s : State) : (s.settleWait who).now = s.now := by unfold State.settleWait; (try dsimp only); (repeat' split) <;> first | (simp; done) | rfl

@[simp] theorem settle_now (s : State) : (s.settle).now = s.now := by simp [State.settle]

@[simp] theorem discardImports_now (cause l) (s : State) : (s.discardImports cause l).now = s.now := by
  induction l generalizing s with
  | nil => rfl
  | cons x l ih => simp [State.discardImports, ih]

@[simp] theorem abandonRunningFold_now (cause) (s : State) : (s.abandonRunningFold cause).now = s.now := by unfold State.abandonRunningFold; (try dsimp only); (repeat' split) <;> first | (simp; done) | rfl

@[simp] theorem emptyTracks_now (l) (s : State) : (s.emptyTracks l).now = s.now := by
  induction l generalizing s with
  | nil => rfl
  | cons x l ih => simp [State.emptyTracks, ih]

@[simp] theorem raiseEmptied_now (old l) (s : State) : (s.raiseEmptied old l).now = s.now := by
  induction l generalizing s with
  | nil => rfl
  | cons x l ih => unfold State.raiseEmptied; split <;> simp [ih]

@[simp] theorem clearTracks_now (s : State) : (s.clearTracks).now = s.now := by unfold State.clearTracks; (try dsimp only); (repeat' split) <;> first | (simp; done) | rfl

@[simp] theorem forgetRecent_now (s : State) : (s.forgetRecent).now = s.now := rfl

@[simp] theorem clearCycle_now (s : State) : (s.clearCycle).now = s.now := by simp [State.clearCycle]

@[simp] theorem actClearAll_now (s : State) : (s.actClearAll).now = s.now := by simp [State.actClearAll]

@[simp] theorem enterRest_now (cause d) (s : State) : (s.enterRest cause d).now = s.now := by simp [State.enterRest]

@[simp] theorem powerLow_now (s : State) : (s.powerLow).now = s.now := by simp [State.powerLow]

@[simp] theorem wakeUp_now (s : State) : (s.wakeUp).now = s.now := by simp [State.wakeUp]

@[simp] theorem testDone_now (s : State) : (s.testDone).now = s.now := by unfold State.testDone; (try dsimp only); (repeat' split) <;> first | (simp; done) | rfl

@[simp] theorem setGrant_now (g) (s : State) : (s.setGrant g).now = s.now := rfl

@[simp] theorem grantPlayback_now (id r) (s : State) : (s.grantPlayback id r).now = s.now := by unfold State.grantPlayback; (repeat' split) <;> first | (simp; done) | rfl

@[simp] theorem grantCapture_now (x rest) (s : State) : (s.grantCapture x rest).now = s.now := rfl

@[simp] theorem grantFold_now (s : State) : (s.grantFold).now = s.now := by unfold State.grantFold; (try dsimp only); (repeat' split) <;> first | (simp; done) | rfl

@[simp] theorem grantWindow_now (p) (s : State) : (s.grantWindow p).now = s.now := by unfold State.grantWindow; (try dsimp only); (repeat' split) <;> first | (simp; done) | rfl

@[simp] theorem grantBackground_now (x) (s : State) : (s.grantBackground x).now = s.now := by unfold State.grantBackground; cases x <;> simp

@[simp] theorem grantNext_now (s : State) : (s.grantNext).now = s.now := by unfold State.grantNext; (try dsimp only); (repeat' split) <;> first | (simp; done) | rfl

@[simp] theorem arbitrate_now (s : State) : (s.arbitrate).now = s.now := by unfold State.arbitrate; (try dsimp only); (repeat' split) <;> first | (simp; done) | rfl

@[simp] theorem playbackDone_now (rd cs) (s : State) : (s.playbackDone rd cs).now = s.now := by unfold State.playbackDone; (try dsimp only); (repeat' split) <;> first | (simp; done) | rfl

@[simp] theorem captureDone_now (x blk live) (s : State) : (s.captureDone x blk live).now = s.now := by unfold State.captureDone; (try dsimp only); (repeat' split) <;> first | (simp; done) | rfl

@[simp] theorem foldReadDone_now (rd nw cs) (s : State) : (s.foldReadDone rd nw cs).now = s.now := by unfold State.foldReadDone; (try dsimp only); (repeat' split) <;> first | (simp; done) | rfl

@[simp] theorem foldWriteDone_now (blk o xs) (s : State) : (s.foldWriteDone blk o xs).now = s.now := by unfold State.foldWriteDone; (try dsimp only); (repeat' split) <;> first | (simp; done) | rfl

@[simp] theorem windowReadDone_now (p rd cs) (s : State) : (s.windowReadDone p rd cs).now = s.now := by unfold State.windowReadDone; (try dsimp only); (repeat' split) <;> first | (simp; done) | rfl

@[simp] theorem importDone_now (p id) (s : State) : (s.importDone p id).now = s.now := by unfold State.importDone; (try dsimp only); (repeat' split) <;> first | (simp; done) | rfl

@[simp] theorem commitDone_now (p blk o xs) (s : State) : (s.commitDone p blk o xs).now = s.now := by unfold State.commitDone; (try dsimp only); (repeat' split) <;> first | (simp; done) | rfl

@[simp] theorem completeRefresh_now (s : State) : (s.completeRefresh).now = s.now := by unfold State.completeRefresh; (try dsimp only); (repeat' split) <;> first | (simp; done) | rfl

@[simp] theorem completePlayback_now (cs) (s : State) : (s.completePlayback cs).now = s.now := by unfold State.completePlayback; (try dsimp only); (repeat' split) <;> first | (simp; done) | rfl

@[simp] theorem completeCapture_now (s : State) : (s.completeCapture).now = s.now := by unfold State.completeCapture; (try dsimp only); (repeat' split) <;> first | (simp; done) | rfl

@[simp] theorem completeFoldBurst_now (cs) (s : State) : (s.completeFoldBurst cs).now = s.now := by unfold State.completeFoldBurst; (try dsimp only); (repeat' split) <;> first | (simp; done) | rfl

@[simp] theorem completeWindowRead_now (cs) (s : State) : (s.completeWindowRead cs).now = s.now := by unfold State.completeWindowRead; (try dsimp only); (repeat' split) <;> first | (simp; done) | rfl

@[simp] theorem completeCommit_now (s : State) : (s.completeCommit).now = s.now := by unfold State.completeCommit; (try dsimp only); (repeat' split) <;> first | (simp; done) | rfl

@[simp] theorem lockout_now (who) (s : State) : (s.lockout who).now = s.now := by unfold State.lockout; (try dsimp only); (repeat' split) <;> first | (simp; done) | rfl

@[simp] theorem writeDeadline_now (s : State) : (s.writeDeadline).now = s.now := by unfold State.writeDeadline; (try dsimp only); (repeat' split) <;> first | (simp; done) | rfl

@[simp] theorem windowTimedOut_now (p) (s : State) : (s.windowTimedOut p).now = s.now := by unfold State.windowTimedOut; (try dsimp only); (repeat' split) <;> first | (simp; done) | rfl

@[simp] theorem refreshFallsDue_now (s : State) : (s.refreshFallsDue).now = s.now := by unfold State.refreshFallsDue; (try dsimp only); (repeat' split) <;> first | (simp; done) | rfl

@[simp] theorem testCorrected_now (n m : Nat) (s : State) : (State.testCorrected n m s).now = s.now := by
  induction m generalizing s with
  | zero => rfl
  | succ m ih => simp [State.testCorrected, ih]

@[simp] theorem testBlock_now (n ok) (s : State) : (s.testBlock n ok).now = s.now := by unfold State.testBlock; (try dsimp only); (repeat' split) <;> first | (simp; done) | rfl

@[simp] theorem finishTest_now (s : State) : (s.finishTest).now = s.now := by unfold State.finishTest; (try dsimp only); (repeat' split) <;> first | (simp; done) | rfl

@[simp] theorem selfRefresh_now (s : State) : (s.selfRefresh).now = s.now := by unfold State.selfRefresh; (try dsimp only); (repeat' split) <;> first | (simp; done) | rfl

@[simp] theorem atBoundary_now (ord r) (s : State) : (s.atBoundary ord r).now = s.now := by unfold State.atBoundary; (try dsimp only); (repeat' split) <;> first | (simp; done) | rfl

@[simp] theorem arrivalWork_now (ord fr r) (s : State) : (s.arrivalWork ord fr r).now = s.now := by unfold State.arrivalWork; (try dsimp only); (repeat' split) <;> first | (simp; done) | rfl

@[simp] theorem arriveRun_now (ord fr) (s : State) : (s.arriveRun ord fr).1.now = s.now := by simp [State.arriveRun]

@[simp] theorem arrive_now (ord fr) (s : State) : (s.arrive ord fr).1.now = s.now := by unfold State.arrive; (try dsimp only); (repeat' split) <;> first | (simp; done) | rfl

@[simp] theorem raiseAt_now (k d r) (s : State) : (s.raiseAt k d r).now = s.now := rfl

@[simp] theorem audioBack_now (r) (s : State) : (s.audioBack r).now = s.now := by unfold State.audioBack; (try dsimp only); (repeat' split) <;> first | (simp; done) | rfl

@[simp] theorem linkError_now (r) (s : State) : (s.linkError r).now = s.now := by unfold State.linkError; (try dsimp only); (repeat' split) <;> first | (simp; done) | rfl

@[simp] theorem closeFrame_now (n bits ord) (s : State) : (s.closeFrame n bits ord).now = s.now := by unfold State.closeFrame; (try dsimp only); (repeat' split) <;> first | (simp; done) | rfl

@[simp] theorem frameSync_now (n bits ord) (s : State) : (s.frameSync n bits ord).now = s.now := by unfold State.frameSync; (try dsimp only); (repeat' split) <;> first | (simp; done) | rfl

@[simp] theorem watchdog_now (s : State) : (s.watchdog).now = s.now := by unfold State.watchdog; (try dsimp only); (repeat' split) <;> first | (simp; done) | rfl

@[simp] theorem shiftRequest_now (p n) (s : State) : (s.shiftRequest p n).now = s.now := by simp [State.shiftRequest]

@[simp] theorem refuse_now (h code st) (s : State) : (s.refuse h code st).now = s.now := by simp [State.refuse]

@[simp] theorem beginTransfer_now (p k) (s : State) : (s.beginTransfer p k).now = s.now := by simp [State.beginTransfer]

@[simp] theorem endTransfer_now (p) (s : State) : (s.endTransfer p).now = s.now := by simp [State.endTransfer]

@[simp] theorem shiftOut_now (p t x) (s : State) : (s.shiftOut p t x).now = s.now := by simp [State.shiftOut]

@[simp] theorem departHead_now (p) (s : State) : (s.departHead p).now = s.now := by simp [State.departHead]

@[simp] theorem replyByte_now (p) (s : State) : (s.replyByte p).now = s.now := by unfold State.replyByte; (try dsimp only); (repeat' split) <;> first | (simp; done) | rfl

@[simp] theorem eventByte_now (p t left j) (s : State) : (s.eventByte p t left j).now = s.now := by unfold State.eventByte; (try dsimp only); (repeat' split) <;> first | (simp; done) | rfl

@[simp] theorem eventsByte_now (p) (s : State) : (s.eventsByte p).now = s.now := by unfold State.eventsByte; (try dsimp only); (repeat' split) <;> first | (simp; done) | rfl

@[simp] theorem reportFlag_now (p flag) (s : State) : (s.reportFlag p flag).now = s.now := by unfold State.reportFlag; (try dsimp only); (repeat' split) <;> first | (simp; done) | rfl

@[simp] theorem latchWindow_now (p) (s : State) : (s.latchWindow p).now = s.now := by unfold State.latchWindow; (try dsimp only); (repeat' split) <;> first | (simp; done) | rfl

@[simp] theorem markShifting_now (p) (s : State) : (s.markShifting p).now = s.now := by unfold State.markShifting; (try dsimp only); (repeat' split) <;> first | (simp; done) | rfl

@[simp] theorem sampleByte_now (p t j) (s : State) : (s.sampleByte p t j).now = s.now := by unfold State.sampleByte; (try dsimp only); (repeat' split) <;> first | (simp; done) | rfl

@[simp] theorem windowReadByte_now (p) (s : State) : (s.windowReadByte p).now = s.now := by unfold State.windowReadByte; (try dsimp only); (repeat' split) <;> first | (simp; done) | rfl

@[simp] theorem sampleIn_now (p x w) (s : State) : (s.sampleIn p x w).now = s.now := by unfold State.sampleIn; (try dsimp only); (repeat' split) <;> first | (simp; done) | rfl

@[simp] theorem shiftZeros_now (p n) (s : State) : (s.shiftZeros p n).now = s.now := by unfold State.shiftZeros; (try dsimp only); (repeat' split) <;> first | (simp; done) | rfl

@[simp] theorem riseIf_now (p rise) (s : State) : (s.riseIf p rise).now = s.now := by unfold State.riseIf; (try dsimp only); (repeat' split) <;> first | (simp; done) | rfl

@[simp] theorem windowWriteByte_now (p x) (s : State) : (s.windowWriteByte p x).now = s.now := by unfold State.windowWriteByte; (try dsimp only); (repeat' split) <;> first | (simp; done) | rfl

@[simp] theorem windowWriteBytes_now (p l) (s : State) : (s.windowWriteBytes p l).now = s.now := by
  induction l generalizing s with
  | nil => rfl
  | cons x l ih => simp [State.windowWriteBytes, ih]

@[simp] theorem setMailbox_now (p n) (s : State) : (s.setMailbox p n).now = s.now := by simp [State.setMailbox]

@[simp] theorem shutWindow_now (p) (s : State) : (s.shutWindow p).now = s.now := by simp [State.shutWindow]

@[simp] theorem closeCommit_now (p w) (s : State) : (s.closeCommit p w).now = s.now := by unfold State.closeCommit; (try dsimp only); (repeat' split) <;> first | (simp; done) | rfl

@[simp] theorem setEntry_now (c e) (s : State) : (s.setEntry c e).now = s.now := rfl

@[simp] theorem setTimeout_now (p n) (s : State) : (s.setTimeout p n).now = s.now := by cases p <;> rfl

@[simp] theorem placeImport_now (p id i) (s : State) : (s.placeImport p id i).now = s.now := by simp [State.placeImport]

end Sys2Proof.Machine
end

