-- ==== Sys2Proof/Laws/FramePending.lean ====
section
/-! SUPPORT. Frame lemmas: the operations leave the queue of waiting commands as it is. -/
namespace Sys2Proof.Machine

open Sys2Proof

set_option linter.unusedSimpArgs false
set_option linter.unusedTactic false
set_option linter.unreachableTactic false
set_option linter.unnecessarySeqFocus false

@[simp] theorem setPort_pending (p c) (s : State) : (s.setPort p c).pending = s.pending := by cases p <;> rfl

@[simp] theorem setTrack_pending (t tr) (s : State) : (s.setTrack t tr).pending = s.pending := rfl

@[simp] theorem modTrack_pending (t f) (s : State) : (s.modTrack t f).pending = s.pending := rfl

@[simp] theorem setLayer_pending (id l) (s : State) : (s.setLayer id l).pending = s.pending := rfl

@[simp] theorem modLayer_pending (id f) (s : State) : (s.modLayer id f).pending = s.pending := by unfold State.modLayer; (try dsimp only); (repeat' split) <;> first | (simp; done) | rfl

@[simp] theorem setWindow_pending (p w) (s : State) : (s.setWindow p w).pending = s.pending := by cases p <;> rfl

@[simp] theorem setSwitchPort_pending (p c) (s : State) : (s.setSwitchPort p c).pending = s.pending := by cases p <;> rfl

@[simp] theorem offerTo_pending (p e) (s : State) : (s.offerTo p e).pending = s.pending := by simp [State.offerTo]

@[simp] theorem raiseEvent_pending (e) (s : State) : (s.raiseEvent e).pending = s.pending := rfl

@[simp] theorem raise_pending (k t l d) (s : State) : (s.raise k t l d).pending = s.pending := rfl

@[simp] theorem takeFault_pending (o) (s : State) : (s.takeFault o).pending = s.pending := by unfold State.takeFault; (try dsimp only); (repeat' split) <;> first | (simp; done) | rfl

theorem allocate_pending (id : Nat) (s t : State) (h : s.allocate id = some t) : t.pending = s.pending := by
  unfold State.allocate at h
  split at h
  · injection h with h; subst h; simp
  · simp at h

@[simp] theorem fillReply_pending (p st tag code results) (s : State) : (s.fillReply p st tag code results).pending = s.pending := by simp [State.fillReply]

@[simp] theorem completeReply_pending (p st results) (s : State) : (s.completeReply p st results).pending = s.pending := by unfold State.completeReply; (try dsimp only); (repeat' split) <;> first | (simp; done) | rfl

@[simp] theorem clearPassFlags_pending (s : State) : (s.clearPassFlags).pending = s.pending := rfl

@[simp] theorem setCycle_pending (c) (s : State) : (s.setCycle c).pending = s.pending := by unfold State.setCycle; (try dsimp only); (repeat' split) <;> first | (simp; done) | rfl

@[simp] theorem startCycle_pending (len d) (s : State) : (s.startCycle len d).pending = s.pending := by unfold State.startCycle; (try dsimp only); (repeat' split) <;> first | (simp; done) | rfl

@[simp] theorem emptyCycle_pending (s : State) : (s.emptyCycle).pending = s.pending := by unfold State.emptyCycle; (try dsimp only); (repeat' split) <;> first | (simp; done) | rfl

@[simp] theorem closeDefining_pending (n stop) (s : State) : (s.closeDefining n stop).pending = s.pending := by unfold State.closeDefining; (try dsimp only); (repeat' split) <;> first | (simp; done) | rfl

@[simp] theorem countFrame_pending (s : State) : (s.countFrame).pending = s.pending := rfl

@[simp] theorem announce_pending (r) (s : State) : (s.announce r).pending = s.pending := by unfold State.announce; (try dsimp only); (repeat' split) <;> first | (simp; done) | rfl

@[simp] theorem advance_pending (s : State) : (s.advance).1.pending = s.pending := by unfold State.advance; (repeat' split) <;> (try split) <;> first | (simp; done) | rfl

@[simp] theorem settleBuffers_pending (s : State) : (s.settleBuffers).pending = s.pending := rfl

@[simp] theorem reaim_pending (id) (s : State) : (s.reaim id).pending = s.pending := by unfold State.reaim; (try dsimp only); (repeat' split) <;> first | (simp; done) | rfl

@[simp] theorem reaimAllZero_pending (s : State) : (s.reaimAllZero).pending = s.pending := rfl

@[simp] theorem setWait_pending (who w) (s : State) : (s.setWait who w).pending = s.pending := by cases who <;> rfl

@[simp] theorem loseWindow_pending (p cause) (s : State) : (s.loseWindow p cause).pending = s.pending := by unfold State.loseWindow; (try dsimp only); (repeat' split) <;> first | (simp; done) | rfl

@[simp] theorem loseWindowOn_pending (id cause p) (s : State) : (s.loseWindowOn id cause p).pending = s.pending := by unfold State.loseWindowOn; (try dsimp only); (repeat' split) <;> first | (simp; done) | rfl

@[simp] theorem loseWindowsOn_pending (id cause) (s : State) : (s.loseWindowsOn id cause).pending = s.pending := by unfold State.loseWindowsOn; (try dsimp only); (repeat' split) <;> first | (simp; done) | rfl

@[simp] theorem dropRecord_pending (id) (s : State) : (s.dropRecord id).pending = s.pending := rfl

@[simp] theorem freeLayer_pending (cause id) (s : State) : (s.freeLayer cause id).pending = s.pending := by unfold State.freeLayer; (try dsimp only); (repeat' split) <;> first | (simp; done) | rfl

@[simp] theorem cutWindow_pending (id n p) (s : State) : (s.cutWindow id n p).pending = s.pending := by unfold State.cutWindow; (try dsimp only); (repeat' split) <;> first | (simp; done) | rfl

@[simp] theorem truncate_pending (id n) (s : State) : (s.truncate id n).pending = s.pending := by unfold State.truncate; (try dsimp only); (repeat' split) <;> first | (simp; done) | rfl

@[simp] theorem suspectBlock_pending (rd b) (s : State) : (s.suspectBlock rd b).pending = s.pending := by unfold State.suspectBlock; (try dsimp only); (repeat' split) <;> first | (simp; done) | rfl

@[simp] theorem readChecked_pending (who o chk rd) (s : State) : (s.readChecked who o chk rd).1.pending = s.pending := by unfold State.readChecked; (try dsimp only); (repeat' split) <;> first | (simp; done) | rfl

@[simp] theorem readFrom_pending (who : Requester) (checks : List WordCheck) (l : List Nat) (rd : Reading) (s : State) :
    (State.readFrom who checks l rd s).1.pending = s.pending := by
  induction l generalizing rd s with
  | nil => rfl
  | cons i l ih => simp [State.readFrom, ih]

@[simp] theorem readRun_pending (who checks rd) (s : State) : (s.readRun who checks rd).1.pending = s.pending := by unfold State.readRun; (try dsimp only); (repeat' split) <;> first | (simp; done) | rfl

@[simp] theorem windowDone_pending (p w) (s : State) : (s.windowDone p w).pending = s.pending := by unfold State.windowDone; (try dsimp only); (repeat' split) <;> first | (simp; done) | rfl

@[simp] theorem settleRead_pending (p) (s : State) : (s.settleRead p).pending = s.pending := by unfold State.settleRead; (try dsimp only); (repeat' split) <;> first | (simp; done) | rfl

@[simp] theorem takeSample_pending (p) (s : State) : (s.takeSample p).pending = s.pending := by unfold State.takeSample; (try dsimp only); (repeat' split) <;> first | (simp; done) | rfl

@[simp] theorem reportDrop_pending (r c) (s : State) : (s.reportDrop r c).pending = s.pending := rfl

@[simp] theorem removeCue_pending (id) (s : State) : (s.removeCue id).pending = s.pending := rfl

@[simp] theorem dropCue_pending (r c) (s : State) : (s.dropCue r c).pending = s.pending := rfl

@[simp] theorem dropCues_pending (r l) (s : State) : (s.dropCues r l).pending = s.pending := by
  induction l generalizing s with
  | nil => rfl
  | cons x l ih => simp [State.dropCues, ih]

@[simp] theorem dropAllCues_pending (r) (s : State) : (s.dropAllCues r).pending = s.pending := by simp [State.dropAllCues]

@[simp] theorem dropTrackCues_pending (t) (s : State) : (s.dropTrackCues t).pending = s.pending := by simp [State.dropTrackCues]

@[simp] theorem makeCue_pending (q a t u pr ps po) (s : State) : (s.makeCue q a t u pr ps po).1.pending = s.pending := rfl

@[simp] theorem joinCue_pending (id p) (s : State) : (s.joinCue id p).pending = s.pending := rfl

@[simp] theorem placeCue_pending (q a t u pr ps po) (s : State) : (s.placeCue q a t u pr ps po).1.pending = s.pending := by unfold State.placeCue; (try dsimp only); (repeat' split) <;> first | (simp; done) | rfl

@[simp] theorem supersedeSlot_pending (t f) (s : State) : (s.supersedeSlot t f).pending = s.pending := by unfold State.supersedeSlot; (try dsimp only); (repeat' split) <;> first | (simp; done) | rfl

@[simp] theorem raiseTrack_pending (t) (s : State) : (s.raiseTrack t).pending = s.pending := rfl

@[simp] theorem noteTrack_pending (t old) (s : State) : (s.noteTrack t old).pending = s.pending := by unfold State.noteTrack; (try dsimp only); (repeat' split) <;> first | (simp; done) | rfl

@[simp] theorem settleTrack_pending (t) (s : State) : (s.settleTrack t).pending = s.pending := by unfold State.settleTrack; (try dsimp only); (repeat' split) <;> first | (simp; done) | rfl

@[simp] theorem unfoldMember_pending (id) (s : State) : (s.unfoldMember id).pending = s.pending := by simp [State.unfoldMember]

theorem foldl_unfold_pending (l : List Nat) (s : State) :
    (l.foldl (fun s id => State.unfoldMember id s) s).pending = s.pending := by
  induction l generalizing s with
  | nil => rfl
  | cons x l ih => simp [ih]

@[simp] theorem abandonFold_pending (cause keep) (s : State) : (s.abandonFold cause keep).pending = s.pending := by unfold State.abandonFold; (try dsimp only); (repeat' split) <;> simp [foldl_unfold_pending]

@[simp] theorem beginFoldBurst_pending (s : State) : (s.beginFoldBurst).pending = s.pending := by
  unfold State.beginFoldBurst
  split
  · rfl
  · next f hf =>
    dsimp only
    split
    · simp
    · next u hu =>
      have hu' : u.pending = s.pending := by
        split at hu
        · exact allocate_pending _ _ _ hu
        · injection hu with hu; rw [hu]
      (repeat' split) <;> simpa using hu' 

@[simp] theorem settleFold_pending (s : State) : (s.settleFold).pending = s.pending := by unfold State.settleFold; (try dsimp only); (repeat' split) <;> first | (simp; done) | rfl

@[simp] theorem startFold_pending (t i j rid rest) (s : State) : (s.startFold t i j rid rest).pending = s.pending := by unfold State.startFold; (try dsimp only); (repeat' split) <;> first | (simp; done) | rfl

theorem takeRoom_pending (t : TrackId) (s u : State) (id : Nat) (h : s.takeRoom t = .ok (u, id)) : u.pending = s.pending := by
  unfold State.takeRoom at h
  split at h
  · simp at h
  · dsimp only at h
    split at h
    · simp at h; rw [← h.1]
    · split at h
      · split at h
        · split at h
          · simp at h; rw [← h.1]; simp
          · simp at h
        · simp at h
      · simp at h

@[simp] theorem completeFold_pending (s : State) : (s.completeFold).pending = s.pending := by unfold State.completeFold; (try dsimp only); (repeat' split) <;> first | (simp; done) | rfl

@[simp] theorem endCapture_pending (id n) (s : State) : (s.endCapture id n).pending = s.pending := by unfold State.endCapture; (try dsimp only); (repeat' split) <;> first | (simp; done) | rfl

@[simp] theorem cutReads_pending (id n) (s : State) : (s.cutReads id n).pending = s.pending := by unfold State.cutReads; (try dsimp only); (repeat' split) <;> first | (simp; done) | rfl

@[simp] theorem endAt_pending (id n) (s : State) : (s.endAt id n).pending = s.pending := by unfold State.endAt; (try dsimp only); (repeat' split) <;> first | (simp; done) | rfl

@[simp] theorem raiseClosed_pending (t id) (s : State) : (s.raiseClosed t id).pending = s.pending := rfl

@[simp] theorem markFresh_pending (b id) (s : State) : (s.markFresh b id).pending = s.pending := by unfold State.markFresh; (try dsimp only); (repeat' split) <;> first | (simp; done) | rfl

@[simp] theorem discardOpen_pending (t id) (s : State) : (s.discardOpen t id).pending = s.pending := by simp [State.discardOpen]

@[simp] theorem closeFirst_pending (t id n fr stop) (s : State) : (s.closeFirst t id n fr stop).pending = s.pending := by unfold State.closeFirst; (try dsimp only); (repeat' split) <;> first | (simp; done) | rfl

@[simp] theorem closeLayered_pending (t id n fr) (s : State) : (s.closeLayered t id n fr).pending = s.pending := by simp [State.closeLayered]

@[simp] theorem closeRolled_pending (t id n l) (s : State) : (s.closeRolled t id n l).pending = s.pending := by unfold State.closeRolled; (try dsimp only); (repeat' split) <;> first | (simp; done) | rfl

@[simp] theorem closeAtRoll_pending (t r n b) (s : State) : (s.closeAtRoll t r n b).pending = s.pending := by unfold State.closeAtRoll; (try dsimp only); (repeat' split) <;> first | (simp; done) | rfl

@[simp] theorem closeOpen_pending (t n b fr stop) (s : State) : (s.closeOpen t n b fr stop).pending = s.pending := by unfold State.closeOpen; (try dsimp only); (repeat' split) <;> first | (simp; done) | rfl

@[simp] theorem closeAtCut_pending (t k stop) (s : State) : (s.closeAtCut t k stop).pending = s.pending := by unfold State.closeAtCut; (try dsimp only); (repeat' split) <;> first | (simp; done) | rfl

theorem actClose_ok_pending (t k) (s u : State) (h : s.actClose t k = .ok u) : u.pending = s.pending := by
  unfold State.actClose at h; (try dsimp only at h); (repeat' split at h) <;> simp at h <;> (subst h; simp)

@[simp] theorem actMute_pending (t n) (s : State) : (s.actMute t n).pending = s.pending := by simp [State.actMute]

@[simp] theorem toRedo_pending (t id) (s : State) : (s.toRedo t id).pending = s.pending := by unfold State.toRedo; (try dsimp only); (repeat' split) <;> first | (simp; done) | rfl

@[simp] theorem freeAll_pending (cause l) (s : State) : (s.freeAll cause l).pending = s.pending := by
  induction l generalizing s with
  | nil => rfl
  | cons x l ih => simp [State.freeAll, ih]

theorem actUndo_ok_pending (t) (s u : State) (h : s.actUndo t = .ok u) : u.pending = s.pending := by
  unfold State.actUndo at h
  dsimp only at h
  (repeat' split at h) <;> simp at h <;> (try (subst h; simp))
  all_goals (repeat' split) <;> simp

theorem actRedo_ok_pending (t) (s u : State) (h : s.actRedo t = .ok u) : u.pending = s.pending := by
  unfold State.actRedo at h; (try dsimp only at h); (repeat' split at h) <;> simp at h <;> (subst h; simp)

@[simp] theorem emptyTrack_pending (t) (s : State) : (s.emptyTrack t).pending = s.pending := by unfold State.emptyTrack; (try dsimp only); (repeat' split) <;> first | (simp; done) | rfl

@[simp] theorem forgetTrack_pending (t) (s : State) : (s.forgetTrack t).pending = s.pending := by rfl

@[simp] theorem clearTrack_pending (t) (s : State) : (s.clearTrack t).pending = s.pending := by unfold State.clearTrack; (try dsimp only); (repeat' split) <;> first | (simp; done) | rfl

@[simp] theorem actClearTrack_pending (t) (s : State) : (s.actClearTrack t).pending = s.pending := by simp [State.actClearTrack]

@[simp] theorem writeRing_pending (f) (s : State) : (s.writeRing f).pending = s.pending := rfl

@[simp] theorem setRecord_pending (i r) (s : State) : (s.setRecord i r).pending = s.pending := rfl

@[simp] theorem refillAll_pending (s : State) : (s.refillAll).pending = s.pending := rfl

@[simp] theorem overrun_pending (pl id r) (s : State) : (s.overrun pl id r).pending = s.pending := by unfold State.overrun; (try dsimp only); (repeat' split) <;> first | (simp; done) | rfl

@[simp] theorem cutClosed_pending (id n) (s : State) : (s.cutClosed id n).pending = s.pending := by unfold State.cutClosed; (try dsimp only); (repeat' split) <;> first | (simp; done) | rfl

@[simp] theorem exhaust_pending (id n) (s : State) : (s.exhaust id n).pending = s.pending := by unfold State.exhaust; (try dsimp only); (repeat' split) <;> first | (simp; done) | rfl

theorem allocateEach_pending (id : Nat) (l : List Nat) (s : State) : (State.allocateEach id l s).1.pending = s.pending := by
  induction l generalizing s with
  | nil => rfl
  | cons o l ih =>
    unfold State.allocateEach
    split
    · next u hu => rw [ih, allocate_pending _ _ _ hu]
    · rfl

@[simp] theorem giveUp_pending (pl id r) (s : State) : (s.giveUp pl id r).pending = s.pending := by
  unfold State.giveUp
  have h := allocateEach_pending id (s.blocksNeeded id r) s
  split <;> next hu => rw [hu] at h; simpa using h

@[simp] theorem handOver_pending (i) (s : State) : (s.handOver i).pending = s.pending := by
  unfold State.handOver
  split
  · rfl
  · split
    · simp
    · next u hu =>
      have hu' : u.pending = s.pending := by
        split at hu
        · exact allocate_pending _ _ _ hu
        · injection hu with hu; rw [hu]
      dsimp only
      (repeat' split) <;> simpa using hu' 

@[simp] theorem settleCapture_pending (n : Nat) (s : State) : (State.settleCapture n s).pending = s.pending := by
  induction n generalizing s with
  | zero => rfl
  | succ n ih =>
    unfold State.settleCapture
    dsimp only
    (repeat' split) <;> simp [ih]

@[simp] theorem overtake_pending (pl i) (s : State) : (s.overtake pl i).pending = s.pending := by unfold State.overtake; (try dsimp only); (repeat' split) <;> first | (simp; done) | rfl

@[simp] theorem stealRecord_pending (i) (s : State) : (s.stealRecord i).pending = s.pending := by unfold State.stealRecord; (try dsimp only); (repeat' split) <;> first | (simp; done) | rfl

@[simp] theorem placeRecord_pending (r) (s : State) : (s.placeRecord r).pending = s.pending := by unfold State.placeRecord; (try dsimp only); (repeat' split) <;> first | (simp; done) | rfl

@[simp] theorem openLayer_pending (t id l st ph dest) (s : State) : (s.openLayer t id l st ph dest).pending = s.pending := by simp [State.openLayer]

@[simp] theorem freeRedo_pending (t) (s : State) : (s.freeRedo t).pending = s.pending := by simp [State.freeRedo]

@[simp] theorem startDefining_pending (s : State) : (s.startDefining).pending = s.pending := by unfold State.startDefining; (try dsimp only); (repeat' split) <;> first | (simp; done) | rfl

theorem actRecord_ok_pending (t k) (s u : State) (h : s.actRecord t k = .ok u) : u.pending = s.pending := by
  unfold State.actRecord at h
  split at h
  · simp at h
  · split at h
    · simp at h
    · next v id hv =>
      injection h with h; subst h
      simp [takeRoom_pending _ _ _ _ hv]

theorem actLayer_ok_pending (t cv k) (s u : State) (h : s.actLayer t cv k = .ok u) : u.pending = s.pending := by
  unfold State.actLayer at h
  split at h
  · split at h
    · simp at h
    · next v id hv =>
      injection h with h; subst h
      simp [takeRoom_pending _ _ _ _ hv]
  · simp at h

@[simp] theorem decayAll_pending (n l) (s : State) : (s.decayAll n l).pending = s.pending := by
  induction l generalizing s with
  | nil => rfl
  | cons x l ih => simp [State.decayAll, ih]

@[simp] theorem decayFold_pending (t n) (s : State) : (s.decayFold t n).pending = s.pending := by unfold State.decayFold; (try dsimp only); (repeat' split) <;> first | (simp; done) | rfl

@[simp] theorem retire_pending (t id) (s : State) : (s.retire t id).pending = s.pending := by simp [State.retire]

@[simp] theorem retireAll_pending (t l) (s : State) : (s.retireAll t l).pending = s.pending := by
  induction l generalizing s with
  | nil => rfl
  | cons x l ih => simp [State.retireAll, ih]

@[simp] theorem decayTrack_pending (t) (s : State) : (s.decayTrack t).pending = s.pending := by unfold State.decayTrack; (try dsimp only); (repeat' split) <;> first | (simp; done) | rfl

@[simp] theorem roll_pending (t) (s : State) : (s.roll t).pending = s.pending := by
  unfold State.roll
  dsimp only
  split
  · split
    · split
      · rfl
      · split
        · next hv => have hu := takeRoom_pending _ _ _ _ hv; simp at hu; simpa using hu
        · simp
    · rfl
  · rfl

@[simp] theorem wrapTrack_pending (t) (s : State) : (s.wrapTrack t).pending = s.pending := by simp [State.wrapTrack]

@[simp] theorem liveOne_pending (fr i) (s : State) : (s.liveOne fr i).pending = s.pending := by unfold State.liveOne; (try dsimp only); (repeat' split) <;> first | (simp; done) | rfl

@[simp] theorem liveAll_pending (fr l) (s : State) : (s.liveAll fr l).pending = s.pending := by
  induction l generalizing s with
  | nil => rfl
  | cons x l ih => simp [State.liveAll, ih]

@[simp] theorem overtakeAll_pending (pl l) (s : State) : (s.overtakeAll pl l).pending = s.pending := by
  induction l generalizing s with
  | nil => rfl
  | cons x l ih => simp [State.overtakeAll, ih]

@[simp] theorem captureArrival_pending (pl fr ord) (s : State) : (s.captureArrival pl fr ord).pending = s.pending := by unfold State.captureArrival; (try dsimp only); (repeat' split) <;> first | (simp; done) | rfl

@[simp] theorem closeLimits_pending (l) (s : State) : (s.closeLimits l).pending = s.pending := by
  induction l generalizing s with
  | nil => rfl
  | cons x l ih => unfold State.closeLimits; split <;> simp [ih]

@[simp] theorem closeTracks_pending (k stop l) (s : State) : (s.closeTracks k stop l).pending = s.pending := by
  induction l generalizing s with
  | nil => rfl
  | cons x l ih => simp [State.closeTracks, ih]

@[simp] theorem pauseCycle_pending (s : State) : (s.pauseCycle).pending = s.pending := by simp [State.pauseCycle]

@[simp] theorem actStopAll_pending (k) (s : State) : (s.actStopAll k).pending = s.pending := by unfold State.actStopAll; (try dsimp only); (repeat' split) <;> first | (simp; done) | rfl

theorem actPlayAll_ok_pending (s u : State) (h : s.actPlayAll = .ok u) : u.pending = s.pending := by
  unfold State.actPlayAll at h; (try dsimp only at h); (repeat' split at h) <;> simp at h <;> (subst h; simp)

theorem act_ok_pending (x t k) (s u : State) (h : s.act x t k = .ok u) : u.pending = s.pending := by
  unfold State.act at h
  split at h
  · exact actRecord_ok_pending _ _ _ _ h
  · exact actLayer_ok_pending _ _ _ _ _ h
  · exact actLayer_ok_pending _ _ _ _ _ h
  · exact actClose_ok_pending _ _ _ _ h
  · injection h with h; subst h; simp
  · injection h with h; subst h; simp
  · exact actUndo_ok_pending _ _ _ h
  · exact actRedo_ok_pending _ _ _ h
  · injection h with h; subst h; simp
  · exact actPlayAll_ok_pending _ _ h
  · simp at h

@[simp] theorem actAtOnce_pending (x t e) (s : State) : (s.actAtOnce x t e).1.pending = s.pending := by
  unfold State.actAtOnce
  dsimp only
  split
  · rfl
  · next u hu =>
    have hu' := act_ok_pending _ _ _ _ _ hu
    (repeat' split) <;> simp_all

@[simp] theorem quantised_pending (q x t u pr) (s : State) : (s.quantised q x t u pr).1.pending = s.pending := by
  unfold State.quantised
  split <;> first | (simp; done) | rfl

@[simp] theorem takeCue_pending (r) (s : State) : (s.takeCue r).pending = s.pending := by
  unfold State.takeCue
  split
  · rfl
  · split
    · dsimp only
      split
      · next u hu => have hu' := act_ok_pending _ _ _ _ _ hu; simpa using hu'
      · simp
    · rfl

@[simp] theorem takeCues_pending (r : Reached) (n : Nat) (s : State) : (State.takeCues r n s).pending = s.pending := by
  induction n generalizing s with
  | zero => rfl
  | succ n ih => simp [State.takeCues, ih]

@[simp] theorem wrapAll_pending (l) (s : State) : (s.wrapAll l).pending = s.pending := by
  induction l generalizing s with
  | nil => rfl
  | cons x l ih => simp [State.wrapAll, ih]

@[simp] theorem boundaryWork_pending (r : Reached) (l : List (Option TrackId)) (w : List TrackId) (s : State) :
    (State.boundaryWork r l w s).pending = s.pending := by
  induction l generalizing s w with
  | nil => simp [State.boundaryWork]
  | cons x l ih =>
    cases x with
    | none => simp [State.boundaryWork, ih]
    | some t => unfold State.boundaryWork; split <;> simp [ih]

@[simp] theorem actTap_pending (stamp) (s : State) : (s.actTap stamp).1.pending = s.pending := by unfold State.actTap; (try dsimp only); (repeat' split) <;> first | (simp; done) | rfl

@[simp] theorem noteRecent_pending (q t x pr an) (s : State) : (s.noteRecent q t x pr an).pending = s.pending := by unfold State.noteRecent; (try dsimp only); (repeat' split) <;> first | (simp; done) | rfl

@[simp] theorem resolved_pending (q t x u pr) (s : State) : (s.resolved q t x u pr).1.pending = s.pending := by
  unfold State.resolved
  split
  · rfl
  · dsimp only
    (repeat' split) <;> simp

@[simp] theorem toggle_pending (q t x u pr) (s : State) : (s.toggle q t x u pr).1.pending = s.pending := by unfold State.toggle; (try dsimp only); (repeat' split) <;> first | (simp; done) | rfl

@[simp] theorem handCue_pending (q x t u pr) (s : State) : (s.handCue q x t u pr).1.pending = s.pending := by simp [State.handCue]

@[simp] theorem selectTo_pending (q t) (s : State) : (s.selectTo q t).pending = s.pending := by simp [State.selectTo]

@[simp] theorem handOn_pending (q : Port) (x : SwAction) (t : TrackId) (u : Quantum) (pr : PressTime) (s : State) :
    (State.handOn q x t u pr s).1.1.pending = s.pending := by
  cases x <;> simp [State.handOn]

@[simp] theorem issue_pending (q c k x t u pr) (s : State) : (s.issue q c k x t u pr).pending = s.pending := by unfold State.issue; (try dsimp only); (repeat' split) <;> first | (simp; done) | rfl

@[simp] theorem setMachine_pending (q c m) (s : State) : (s.setMachine q c m).pending = s.pending := by simp [State.setMachine]

@[simp] theorem switchDown_pending (q c) (s : State) : (s.switchDown q c).1.pending = s.pending := by unfold State.switchDown; (try dsimp only); (repeat' split) <;> first | (simp; done) | rfl

@[simp] theorem switchUp_pending (q c) (s : State) : (s.switchUp q c).1.pending = s.pending := by unfold State.switchUp; (try dsimp only); (repeat' split) <;> first | (simp; done) | rfl

@[simp] theorem holdDue_pending (q c) (s : State) : (s.holdDue q c).pending = s.pending := by unfold State.holdDue; (try dsimp only); (repeat' split) <;> first | (simp; done) | rfl

@[simp] theorem windowDue_pending (q c) (s : State) : (s.windowDue q c).pending = s.pending := by unfold State.windowDue; (try dsimp only); (repeat' split) <;> first | (simp; done) | rfl

@[simp] theorem layerSample_pending (id k) (s : State) : (s.layerSample id k).1.pending = s.pending := by unfold State.layerSample; (try dsimp only); (repeat' split) <;> first | (simp; done) | rfl

@[simp] theorem layerPart_pending (q id cs) (s : State) : (s.layerPart q id cs).1.pending = s.pending := by unfold State.layerPart; (try dsimp only); (repeat' split) <;> first | (simp; done) | rfl

@[simp] theorem sumLayers_pending (t : TrackId) (q : Nat) (l : List Nat) (s : State) :
    (State.sumLayers t q l s).1.pending = s.pending := by
  induction l generalizing s with
  | nil => rfl
  | cons x l ih => simp [State.sumLayers, ih]

@[simp] theorem trackSum_pending (t) (s : State) : (s.trackSum t).1.pending = s.pending := by unfold State.trackSum; (try dsimp only); (repeat' split) <;> first | (simp; done) | rfl

@[simp] theorem trackSums_pending (l : List TrackId) (s : State) : (State.trackSums l s).1.pending = s.pending := by
  induction l generalizing s with
  | nil => rfl
  | cons x l ih => simp [State.trackSums, ih]

@[simp] theorem moveRamps_pending (s : State) : (s.moveRamps).pending = s.pending := rfl

@[simp] theorem clip_pending (ear r) (s : State) : (s.clip ear r).pending = s.pending := by unfold State.clip; (try dsimp only); (repeat' split) <;> first | (simp; done) | rfl

@[simp] theorem mix_pending (fr pl b) (s : State) : (s.mix fr pl b).pending = s.pending := by unfold State.mix; (try dsimp only); (repeat' split) <;> first | (simp; done) | rfl

@[simp] theorem mixSilence_pending (s : State) : (s.mixSilence).pending = s.pending := rfl

@[simp] theorem discardImport_pending (id cause) (s : State) : (s.discardImport id cause).pending = s.pending := by unfold State.discardImport; (try dsimp only); (repeat' split) <;> first | (simp; done) | rfl

@[simp] theorem requestCommit_pending (p) (s : State) : (s.requestCommit p).pending = s.pending := by
  unfold State.requestCommit
  split
  · rfl
  · split
    · rfl
    · dsimp only
      split
      · split
        · next u hu => have hu' := allocate_pending _ _ _ hu; simpa using hu'
        · simp
      · simp

@[simp] theorem settleWrite_pending (p) (s : State) : (s.settleWrite p).pending = s.pending := by unfold State.settleWrite; (try dsimp only); (repeat' split) <;> first | (simp; done) | rfl

@[simp] theorem settleWait_pending (who) (s : State) : (s.settleWait who).pending = s.pending := by unfold State.settleWait; (try dsimp only); (repeat' split) <;> first | (simp; done) | rfl

@[simp] theorem settle_pending (s : State) : (s.settle).pending = s.pending := by simp [State.settle]

@[simp] theorem discardImports_pending (cause l) (s : State) : (s.discardImports cause l).pending = s.pending := by
  induction l generalizing s with
  | nil => rfl
  | cons x l ih => simp [State.discardImports, ih]

@[simp] theorem abandonRunningFold_pending (cause) (s : State) : (s.abandonRunningFold cause).pending = s.pending := by unfold State.abandonRunningFold; (try dsimp only); (repeat' split) <;> first | (simp; done) | rfl

@[simp] theorem emptyTracks_pending (l) (s : State) : (s.emptyTracks l).pending = s.pending := by
  induction l generalizing s with
  | nil => rfl
  | cons x l ih => simp [State.emptyTracks, ih]

@[simp] theorem raiseEmptied_pending (old l) (s : State) : (s.raiseEmptied old l).pending = s.pending := by
  induction l generalizing s with
  | nil => rfl
  | cons x l ih => unfold State.raiseEmptied; split <;> simp [ih]

@[simp] theorem clearTracks_pending (s : State) : (s.clearTracks).pending = s.pending := by unfold State.clearTracks; (try dsimp only); (repeat' split) <;> first | (simp; done) | rfl

@[simp] theorem forgetRecent_pending (s : State) : (s.forgetRecent).pending = s.pending := rfl

@[simp] theorem clearCycle_pending (s : State) : (s.clearCycle).pending = s.pending := by simp [State.clearCycle]

@[simp] theorem actClearAll_pending (s : State) : (s.actClearAll).pending = s.pending := by simp [State.actClearAll]

@[simp] theorem enterRest_pending (cause d) (s : State) : (s.enterRest cause d).pending = s.pending := by simp [State.enterRest]

@[simp] theorem powerLow_pending (s : State) : (s.powerLow).pending = s.pending := by simp [State.powerLow]

@[simp] theorem wakeUp_pending (s : State) : (s.wakeUp).pending = s.pending := by simp [State.wakeUp]

@[simp] theorem testDone_pending (s : State) : (s.testDone).pending = s.pending := by unfold State.testDone; (try dsimp only); (repeat' split) <;> first | (simp; done) | rfl

@[simp] theorem setGrant_pending (g) (s : State) : (s.setGrant g).pending = s.pending := rfl

@[simp] theorem grantPlayback_pending (id r) (s : State) : (s.grantPlayback id r).pending = s.pending := by unfold State.grantPlayback; (repeat' split) <;> first | (simp; done) | rfl

@[simp] theorem grantCapture_pending (x rest) (s : State) : (s.grantCapture x rest).pending = s.pending := rfl

@[simp] theorem grantFold_pending (s : State) : (s.grantFold).pending = s.pending := by unfold State.grantFold; (try dsimp only); (repeat' split) <;> first | (simp; done) | rfl

@[simp] theorem grantWindow_pending (p) (s : State) : (s.grantWindow p).pending = s.pending := by unfold State.grantWindow; (try dsimp only); (repeat' split) <;> first | (simp; done) | rfl

@[simp] theorem grantBackground_pending (x) (s : State) : (s.grantBackground x).pending = s.pending := by unfold State.grantBackground; cases x <;> simp

@[simp] theorem grantNext_pending (s : State) : (s.grantNext).pending = s.pending := by unfold State.grantNext; (try dsimp only); (repeat' split) <;> first | (simp; done) | rfl

@[simp] theorem arbitrate_pending (s : State) : (s.arbitrate).pending = s.pending := by unfold State.arbitrate; (try dsimp only); (repeat' split) <;> first | (simp; done) | rfl

@[simp] theorem playbackDone_pending (rd cs) (s : State) : (s.playbackDone rd cs).pending = s.pending := by unfold State.playbackDone; (try dsimp only); (repeat' split) <;> first | (simp; done) | rfl

@[simp] theorem captureDone_pending (x blk live) (s : State) : (s.captureDone x blk live).pending = s.pending := by unfold State.captureDone; (try dsimp only); (repeat' split) <;> first | (simp; done) | rfl

@[simp] theorem foldReadDone_pending (rd nw cs) (s : State) : (s.foldReadDone rd nw cs).pending = s.pending := by unfold State.foldReadDone; (try dsimp only); (repeat' split) <;> first | (simp; done) | rfl

@[simp] theorem foldWriteDone_pending (blk o xs) (s : State) : (s.foldWriteDone blk o xs).pending = s.pending := by unfold State.foldWriteDone; (try dsimp only); (repeat' split) <;> first | (simp; done) | rfl

@[simp] theorem windowReadDone_pending (p rd cs) (s : State) : (s.windowReadDone p rd cs).pending = s.pending := by unfold State.windowReadDone; (try dsimp only); (repeat' split) <;> first | (simp; done) | rfl

@[simp] theorem importDone_pending (p id) (s : State) : (s.importDone p id).pending = s.pending := by unfold State.importDone; (try dsimp only); (repeat' split) <;> first | (simp; done) | rfl

@[simp] theorem commitDone_pending (p blk o xs) (s : State) : (s.commitDone p blk o xs).pending = s.pending := by unfold State.commitDone; (try dsimp only); (repeat' split) <;> first | (simp; done) | rfl

@[simp] theorem completeRefresh_pending (s : State) : (s.completeRefresh).pending = s.pending := by unfold State.completeRefresh; (try dsimp only); (repeat' split) <;> first | (simp; done) | rfl

@[simp] theorem completePlayback_pending (cs) (s : State) : (s.completePlayback cs).pending = s.pending := by unfold State.completePlayback; (try dsimp only); (repeat' split) <;> first | (simp; done) | rfl

@[simp] theorem completeCapture_pending (s : State) : (s.completeCapture).pending = s.pending := by unfold State.completeCapture; (try dsimp only); (repeat' split) <;> first | (simp; done) | rfl

@[simp] theorem completeFoldBurst_pending (cs) (s : State) : (s.completeFoldBurst cs).pending = s.pending := by unfold State.completeFoldBurst; (try dsimp only); (repeat' split) <;> first | (simp; done) | rfl

@[simp] theorem completeWindowRead_pending (cs) (s : State) : (s.completeWindowRead cs).pending = s.pending := by unfold State.completeWindowRead; (try dsimp only); (repeat' split) <;> first | (simp; done) | rfl

@[simp] theorem completeCommit_pending (s : State) : (s.completeCommit).pending = s.pending := by unfold State.completeCommit; (try dsimp only); (repeat' split) <;> first | (simp; done) | rfl

@[simp] theorem lockout_pending (who) (s : State) : (s.lockout who).pending = s.pending := by unfold State.lockout; (try dsimp only); (repeat' split) <;> first | (simp; done) | rfl

@[simp] theorem writeDeadline_pending (s : State) : (s.writeDeadline).pending = s.pending := by unfold State.writeDeadline; (try dsimp only); (repeat' split) <;> first | (simp; done) | rfl

@[simp] theorem windowTimedOut_pending (p) (s : State) : (s.windowTimedOut p).pending = s.pending := by unfold State.windowTimedOut; (try dsimp only); (repeat' split) <;> first | (simp; done) | rfl

@[simp] theorem refreshFallsDue_pending (s : State) : (s.refreshFallsDue).pending = s.pending := by unfold State.refreshFallsDue; (try dsimp only); (repeat' split) <;> first | (simp; done) | rfl

@[simp] theorem testCorrected_pending (n m : Nat) (s : State) : (State.testCorrected n m s).pending = s.pending := by
  induction m generalizing s with
  | zero => rfl
  | succ m ih => simp [State.testCorrected, ih]

@[simp] theorem testBlock_pending (n ok) (s : State) : (s.testBlock n ok).pending = s.pending := by unfold State.testBlock; (try dsimp only); (repeat' split) <;> first | (simp; done) | rfl

@[simp] theorem finishTest_pending (s : State) : (s.finishTest).pending = s.pending := by unfold State.finishTest; (try dsimp only); (repeat' split) <;> first | (simp; done) | rfl

@[simp] theorem selfRefresh_pending (s : State) : (s.selfRefresh).pending = s.pending := by unfold State.selfRefresh; (try dsimp only); (repeat' split) <;> first | (simp; done) | rfl

@[simp] theorem atBoundary_pending (ord r) (s : State) : (s.atBoundary ord r).pending = s.pending := by unfold State.atBoundary; (try dsimp only); (repeat' split) <;> first | (simp; done) | rfl

@[simp] theorem arrivalWork_pending (ord fr r) (s : State) : (s.arrivalWork ord fr r).pending = s.pending := by unfold State.arrivalWork; (try dsimp only); (repeat' split) <;> first | (simp; done) | rfl

@[simp] theorem arriveRun_pending (ord fr) (s : State) : (s.arriveRun ord fr).1.pending = s.pending := by simp [State.arriveRun]

@[simp] theorem arrive_pending (ord fr) (s : State) : (s.arrive ord fr).1.pending = s.pending := by unfold State.arrive; (try dsimp only); (repeat' split) <;> first | (simp; done) | rfl

@[simp] theorem raiseAt_pending (k d r) (s : State) : (s.raiseAt k d r).pending = s.pending := rfl

@[simp] theorem audioBack_pending (r) (s : State) : (s.audioBack r).pending = s.pending := by unfold State.audioBack; (try dsimp only); (repeat' split) <;> first | (simp; done) | rfl

@[simp] theorem linkError_pending (r) (s : State) : (s.linkError r).pending = s.pending := by unfold State.linkError; (try dsimp only); (repeat' split) <;> first | (simp; done) | rfl

@[simp] theorem closeFrame_pending (n bits ord) (s : State) : (s.closeFrame n bits ord).pending = s.pending := by unfold State.closeFrame; (try dsimp only); (repeat' split) <;> first | (simp; done) | rfl

@[simp] theorem frameSync_pending (n bits ord) (s : State) : (s.frameSync n bits ord).pending = s.pending := by unfold State.frameSync; (try dsimp only); (repeat' split) <;> first | (simp; done) | rfl

@[simp] theorem watchdog_pending (s : State) : (s.watchdog).pending = s.pending := by unfold State.watchdog; (try dsimp only); (repeat' split) <;> first | (simp; done) | rfl

@[simp] theorem shiftRequest_pending (p n) (s : State) : (s.shiftRequest p n).pending = s.pending := by simp [State.shiftRequest]

@[simp] theorem refuse_pending (h code st) (s : State) : (s.refuse h code st).pending = s.pending := by simp [State.refuse]

@[simp] theorem beginTransfer_pending (p k) (s : State) : (s.beginTransfer p k).pending = s.pending := by simp [State.beginTransfer]

@[simp] theorem endTransfer_pending (p) (s : State) : (s.endTransfer p).pending = s.pending := by simp [State.endTransfer]

@[simp] theorem shiftOut_pending (p t x) (s : State) : (s.shiftOut p t x).pending = s.pending := by simp [State.shiftOut]

@[simp] theorem departHead_pending (p) (s : State) : (s.departHead p).pending = s.pending := by simp [State.departHead]

@[simp] theorem replyByte_pending (p) (s : State) : (s.replyByte p).pending = s.pending := by unfold State.replyByte; (try dsimp only); (repeat' split) <;> first | (simp; done) | rfl

@[simp] theorem eventByte_pending (p t left j) (s : State) : (s.eventByte p t left j).pending = s.pending := by unfold State.eventByte; (try dsimp only); (repeat' split) <;> first | (simp; done) | rfl

@[simp] theorem eventsByte_pending (p) (s : State) : (s.eventsByte p).pending = s.pending := by unfold State.eventsByte; (try dsimp only); (repeat' split) <;> first | (simp; done) | rfl

@[simp] theorem reportFlag_pending (p flag) (s : State) : (s.reportFlag p flag).pending = s.pending := by unfold State.reportFlag; (try dsimp only); (repeat' split) <;> first | (simp; done) | rfl

@[simp] theorem latchWindow_pending (p) (s : State) : (s.latchWindow p).pending = s.pending := by unfold State.latchWindow; (try dsimp only); (repeat' split) <;> first | (simp; done) | rfl

@[simp] theorem markShifting_pending (p) (s : State) : (s.markShifting p).pending = s.pending := by unfold State.markShifting; (try dsimp only); (repeat' split) <;> first | (simp; done) | rfl

@[simp] theorem sampleByte_pending (p t j) (s : State) : (s.sampleByte p t j).pending = s.pending := by unfold State.sampleByte; (try dsimp only); (repeat' split) <;> first | (simp; done) | rfl

@[simp] theorem windowReadByte_pending (p) (s : State) : (s.windowReadByte p).pending = s.pending := by unfold State.windowReadByte; (try dsimp only); (repeat' split) <;> first | (simp; done) | rfl

@[simp] theorem sampleIn_pending (p x w) (s : State) : (s.sampleIn p x w).pending = s.pending := by unfold State.sampleIn; (try dsimp only); (repeat' split) <;> first | (simp; done) | rfl

@[simp] theorem shiftZeros_pending (p n) (s : State) : (s.shiftZeros p n).pending = s.pending := by unfold State.shiftZeros; (try dsimp only); (repeat' split) <;> first | (simp; done) | rfl

@[simp] theorem riseIf_pending (p rise) (s : State) : (s.riseIf p rise).pending = s.pending := by unfold State.riseIf; (try dsimp only); (repeat' split) <;> first | (simp; done) | rfl

@[simp] theorem windowWriteByte_pending (p x) (s : State) : (s.windowWriteByte p x).pending = s.pending := by unfold State.windowWriteByte; (try dsimp only); (repeat' split) <;> first | (simp; done) | rfl

@[simp] theorem windowWriteBytes_pending (p l) (s : State) : (s.windowWriteBytes p l).pending = s.pending := by
  induction l generalizing s with
  | nil => rfl
  | cons x l ih => simp [State.windowWriteBytes, ih]

@[simp] theorem setMailbox_pending (p n) (s : State) : (s.setMailbox p n).pending = s.pending := by simp [State.setMailbox]

@[simp] theorem shutWindow_pending (p) (s : State) : (s.shutWindow p).pending = s.pending := by simp [State.shutWindow]

@[simp] theorem closeCommit_pending (p w) (s : State) : (s.closeCommit p w).pending = s.pending := by unfold State.closeCommit; (try dsimp only); (repeat' split) <;> first | (simp; done) | rfl

@[simp] theorem setEntry_pending (c e) (s : State) : (s.setEntry c e).pending = s.pending := rfl

@[simp] theorem setTimeout_pending (p n) (s : State) : (s.setTimeout p n).pending = s.pending := by cases p <;> rfl

@[simp] theorem placeImport_pending (p id i) (s : State) : (s.placeImport p id i).pending = s.pending := by simp [State.placeImport]

end Sys2Proof.Machine
end

