-- ==== Sys2Proof/Laws/FramePower.lean ====
section
/-! SUPPORT. Frame lemmas: the operations leave power control as it is. -/
namespace Sys2Proof.Machine

open Sys2Proof

set_option linter.unusedSimpArgs false
set_option linter.unusedTactic false
set_option linter.unreachableTactic false
set_option linter.unnecessarySeqFocus false

@[simp] theorem setPort_power (p c) (s : State) : (s.setPort p c).power = s.power := by cases p <;> rfl

@[simp] theorem setTrack_power (t tr) (s : State) : (s.setTrack t tr).power = s.power := rfl

@[simp] theorem modTrack_power (t f) (s : State) : (s.modTrack t f).power = s.power := rfl

@[simp] theorem setLayer_power (id l) (s : State) : (s.setLayer id l).power = s.power := rfl

@[simp] theorem modLayer_power (id f) (s : State) : (s.modLayer id f).power = s.power := by unfold State.modLayer; (try dsimp only); (repeat' split) <;> first | (simp; done) | rfl

@[simp] theorem setWindow_power (p w) (s : State) : (s.setWindow p w).power = s.power := by cases p <;> rfl

@[simp] theorem setSwitchPort_power (p c) (s : State) : (s.setSwitchPort p c).power = s.power := by cases p <;> rfl

@[simp] theorem offerTo_power (p e) (s : State) : (s.offerTo p e).power = s.power := by simp [State.offerTo]

@[simp] theorem raiseEvent_power (e) (s : State) : (s.raiseEvent e).power = s.power := rfl

@[simp] theorem raise_power (k t l d) (s : State) : (s.raise k t l d).power = s.power := rfl

@[simp] theorem takeFault_power (o) (s : State) : (s.takeFault o).power = s.power := by unfold State.takeFault; (try dsimp only); (repeat' split) <;> first | (simp; done) | rfl

theorem allocate_power (id : Nat) (s t : State) (h : s.allocate id = some t) : t.power = s.power := by
  unfold State.allocate at h
  split at h
  · injection h with h; subst h; simp
  · simp at h

@[simp] theorem fillReply_power (p st tag code results) (s : State) : (s.fillReply p st tag code results).power = s.power := by simp [State.fillReply]

@[simp] theorem completeReply_power (p st results) (s : State) : (s.completeReply p st results).power = s.power := by unfold State.completeReply; (try dsimp only); (repeat' split) <;> first | (simp; done) | rfl

@[simp] theorem clearPassFlags_power (s : State) : (s.clearPassFlags).power = s.power := rfl

@[simp] theorem setCycle_power (c) (s : State) : (s.setCycle c).power = s.power := by unfold State.setCycle; (try dsimp only); (repeat' split) <;> first | (simp; done) | rfl

@[simp] theorem startCycle_power (len d) (s : State) : (s.startCycle len d).power = s.power := by unfold State.startCycle; (try dsimp only); (repeat' split) <;> first | (simp; done) | rfl

@[simp] theorem emptyCycle_power (s : State) : (s.emptyCycle).power = s.power := by unfold State.emptyCycle; (try dsimp only); (repeat' split) <;> first | (simp; done) | rfl

@[simp] theorem closeDefining_power (n stop) (s : State) : (s.closeDefining n stop).power = s.power := by unfold State.closeDefining; (try dsimp only); (repeat' split) <;> first | (simp; done) | rfl

@[simp] theorem countFrame_power (s : State) : (s.countFrame).power = s.power := rfl

@[simp] theorem announce_power (r) (s : State) : (s.announce r).power = s.power := by unfold State.announce; (try dsimp only); (repeat' split) <;> first | (simp; done) | rfl

@[simp] theorem advance_power (s : State) : (s.advance).1.power = s.power := by unfold State.advance; (repeat' split) <;> (try split) <;> first | (simp; done) | rfl

@[simp] theorem settleBuffers_power (s : State) : (s.settleBuffers).power = s.power := rfl

@[simp] theorem reaim_power (id) (s : State) : (s.reaim id).power = s.power := by unfold State.reaim; (try dsimp only); (repeat' split) <;> first | (simp; done) | rfl

@[simp] theorem reaimAllZero_power (s : State) : (s.reaimAllZero).power = s.power := rfl

@[simp] theorem setWait_power (who w) (s : State) : (s.setWait who w).power = s.power := by cases who <;> rfl

@[simp] theorem loseWindow_power (p cause) (s : State) : (s.loseWindow p cause).power = s.power := by unfold State.loseWindow; (try dsimp only); (repeat' split) <;> first | (simp; done) | rfl

@[simp] theorem loseWindowOn_power (id cause p) (s : State) : (s.loseWindowOn id cause p).power = s.power := by unfold State.loseWindowOn; (try dsimp only); (repeat' split) <;> first | (simp; done) | rfl

@[simp] theorem loseWindowsOn_power (id cause) (s : State) : (s.loseWindowsOn id cause).power = s.power := by unfold State.loseWindowsOn; (try dsimp only); (repeat' split) <;> first | (simp; done) | rfl

@[simp] theorem dropRecord_power (id) (s : State) : (s.dropRecord id).power = s.power := rfl

@[simp] theorem freeLayer_power (cause id) (s : State) : (s.freeLayer cause id).power = s.power := by unfold State.freeLayer; (try dsimp only); (repeat' split) <;> first | (simp; done) | rfl

@[simp] theorem cutWindow_power (id n p) (s : State) : (s.cutWindow id n p).power = s.power := by unfold State.cutWindow; (try dsimp only); (repeat' split) <;> first | (simp; done) | rfl

@[simp] theorem truncate_power (id n) (s : State) : (s.truncate id n).power = s.power := by unfold State.truncate; (try dsimp only); (repeat' split) <;> first | (simp; done) | rfl

@[simp] theorem suspectBlock_power (rd b) (s : State) : (s.suspectBlock rd b).power = s.power := by unfold State.suspectBlock; (try dsimp only); (repeat' split) <;> first | (simp; done) | rfl

@[simp] theorem readChecked_power (who o chk rd) (s : State) : (s.readChecked who o chk rd).1.power = s.power := by unfold State.readChecked; (try dsimp only); (repeat' split) <;> first | (simp; done) | rfl

@[simp] theorem readFrom_power (who : Requester) (checks : List WordCheck) (l : List Nat) (rd : Reading) (s : State) :
    (State.readFrom who checks l rd s).1.power = s.power := by
  induction l generalizing rd s with
  | nil => rfl
  | cons i l ih => simp [State.readFrom, ih]

@[simp] theorem readRun_power (who checks rd) (s : State) : (s.readRun who checks rd).1.power = s.power := by unfold State.readRun; (try dsimp only); (repeat' split) <;> first | (simp; done) | rfl

@[simp] theorem windowDone_power (p w) (s : State) : (s.windowDone p w).power = s.power := by unfold State.windowDone; (try dsimp only); (repeat' split) <;> first | (simp; done) | rfl

@[simp] theorem settleRead_power (p) (s : State) : (s.settleRead p).power = s.power := by unfold State.settleRead; (try dsimp only); (repeat' split) <;> first | (simp; done) | rfl

@[simp] theorem takeSample_power (p) (s : State) : (s.takeSample p).power = s.power := by unfold State.takeSample; (try dsimp only); (repeat' split) <;> first | (simp; done) | rfl

@[simp] theorem reportDrop_power (r c) (s : State) : (s.reportDrop r c).power = s.power := rfl

@[simp] theorem removeCue_power (id) (s : State) : (s.removeCue id).power = s.power := rfl

@[simp] theorem dropCue_power (r c) (s : State) : (s.dropCue r c).power = s.power := rfl

@[simp] theorem dropCues_power (r l) (s : State) : (s.dropCues r l).power = s.power := by
  induction l generalizing s with
  | nil => rfl
  | cons x l ih => simp [State.dropCues, ih]

@[simp] theorem dropAllCues_power (r) (s : State) : (s.dropAllCues r).power = s.power := by simp [State.dropAllCues]

@[simp] theorem dropTrackCues_power (t) (s : State) : (s.dropTrackCues t).power = s.power := by simp [State.dropTrackCues]

@[simp] theorem makeCue_power (q a t u pr ps po) (s : State) : (s.makeCue q a t u pr ps po).1.power = s.power := rfl

@[simp] theorem joinCue_power (id p) (s : State) : (s.joinCue id p).power = s.power := rfl

@[simp] theorem placeCue_power (q a t u pr ps po) (s : State) : (s.placeCue q a t u pr ps po).1.power = s.power := by unfold State.placeCue; (try dsimp only); (repeat' split) <;> first | (simp; done) | rfl

@[simp] theorem supersedeSlot_power (t f) (s : State) : (s.supersedeSlot t f).power = s.power := by unfold State.supersedeSlot; (try dsimp only); (repeat' split) <;> first | (simp; done) | rfl

@[simp] theorem raiseTrack_power (t) (s : State) : (s.raiseTrack t).power = s.power := rfl

@[simp] theorem noteTrack_power (t old) (s : State) : (s.noteTrack t old).power = s.power := by unfold State.noteTrack; (try dsimp only); (repeat' split) <;> first | (simp; done) | rfl

@[simp] theorem settleTrack_power (t) (s : State) : (s.settleTrack t).power = s.power := by unfold State.settleTrack; (try dsimp only); (repeat' split) <;> first | (simp; done) | rfl

@[simp] theorem unfoldMember_power (id) (s : State) : (s.unfoldMember id).power = s.power := by simp [State.unfoldMember]

theorem foldl_unfold_power (l : List Nat) (s : State) :
    (l.foldl (fun s id => State.unfoldMember id s) s).power = s.power := by
  induction l generalizing s with
  | nil => rfl
  | cons x l ih => simp [ih]

@[simp] theorem abandonFold_power (cause keep) (s : State) : (s.abandonFold cause keep).power = s.power := by unfold State.abandonFold; (try dsimp only); (repeat' split) <;> simp [foldl_unfold_power]

@[simp] theorem beginFoldBurst_power (s : State) : (s.beginFoldBurst).power = s.power := by
  unfold State.beginFoldBurst
  split
  · rfl
  · next f hf =>
    dsimp only
    split
    · simp
    · next u hu =>
      have hu' : u.power = s.power := by
        split at hu
        · exact allocate_power _ _ _ hu
        · injection hu with hu; rw [hu]
      (repeat' split) <;> simpa using hu' 

@[simp] theorem settleFold_power (s : State) : (s.settleFold).power = s.power := by unfold State.settleFold; (try dsimp only); (repeat' split) <;> first | (simp; done) | rfl

@[simp] theorem startFold_power (t i j rid rest) (s : State) : (s.startFold t i j rid rest).power = s.power := by unfold State.startFold; (try dsimp only); (repeat' split) <;> first | (simp; done) | rfl

theorem takeRoom_power (t : TrackId) (s u : State) (id : Nat) (h : s.takeRoom t = .ok (u, id)) : u.power = s.power := by
  unfold State.takeRoom at h
  split at h
  · simp at h
  · dsimp only at h
    split at h
    · simp at h; rw [← h.1]
    · split at h
      · split at h
        · split at h
          · simp at h; rw [← h.1]; simp
          · simp at h
        · simp at h
      · simp at h

@[simp] theorem completeFold_power (s : State) : (s.completeFold).power = s.power := by unfold State.completeFold; (try dsimp only); (repeat' split) <;> first | (simp; done) | rfl

@[simp] theorem endCapture_power (id n) (s : State) : (s.endCapture id n).power = s.power := by unfold State.endCapture; (try dsimp only); (repeat' split) <;> first | (simp; done) | rfl

@[simp] theorem cutReads_power (id n) (s : State) : (s.cutReads id n).power = s.power := by unfold State.cutReads; (try dsimp only); (repeat' split) <;> first | (simp; done) | rfl

@[simp] theorem endAt_power (id n) (s : State) : (s.endAt id n).power = s.power := by unfold State.endAt; (try dsimp only); (repeat' split) <;> first | (simp; done) | rfl

@[simp] theorem raiseClosed_power (t id) (s : State) : (s.raiseClosed t id).power = s.power := rfl

@[simp] theorem markFresh_power (b id) (s : State) : (s.markFresh b id).power = s.power := by unfold State.markFresh; (try dsimp only); (repeat' split) <;> first | (simp; done) | rfl

@[simp] theorem discardOpen_power (t id) (s : State) : (s.discardOpen t id).power = s.power := by simp [State.discardOpen]

@[simp] theorem closeFirst_power (t id n fr stop) (s : State) : (s.closeFirst t id n fr stop).power = s.power := by unfold State.closeFirst; (try dsimp only); (repeat' split) <;> first | (simp; done) | rfl

@[simp] theorem closeLayered_power (t id n fr) (s : State) : (s.closeLayered t id n fr).power = s.power := by simp [State.closeLayered]

@[simp] theorem closeRolled_power (t id n l) (s : State) : (s.closeRolled t id n l).power = s.power := by unfold State.closeRolled; (try dsimp only); (repeat' split) <;> first | (simp; done) | rfl

@[simp] theorem closeAtRoll_power (t r n b) (s : State) : (s.closeAtRoll t r n b).power = s.power := by unfold State.closeAtRoll; (try dsimp only); (repeat' split) <;> first | (simp; done) | rfl

@[simp] theorem closeOpen_power (t n b fr stop) (s : State) : (s.closeOpen t n b fr stop).power = s.power := by unfold State.closeOpen; (try dsimp only); (repeat' split) <;> first | (simp; done) | rfl

@[simp] theorem closeAtCut_power (t k stop) (s : State) : (s.closeAtCut t k stop).power = s.power := by unfold State.closeAtCut; (try dsimp only); (repeat' split) <;> first | (simp; done) | rfl

theorem actClose_ok_power (t k) (s u : State) (h : s.actClose t k = .ok u) : u.power = s.power := by
  unfold State.actClose at h; (try dsimp only at h); (repeat' split at h) <;> simp at h <;> (subst h; simp)

@[simp] theorem actMute_power (t n) (s : State) : (s.actMute t n).power = s.power := by simp [State.actMute]

@[simp] theorem toRedo_power (t id) (s : State) : (s.toRedo t id).power = s.power := by unfold State.toRedo; (try dsimp only); (repeat' split) <;> first | (simp; done) | rfl

@[simp] theorem freeAll_power (cause l) (s : State) : (s.freeAll cause l).power = s.power := by
  induction l generalizing s with
  | nil => rfl
  | cons x l ih => simp [State.freeAll, ih]

theorem actUndo_ok_power (t) (s u : State) (h : s.actUndo t = .ok u) : u.power = s.power := by
  unfold State.actUndo at h
  dsimp only at h
  (repeat' split at h) <;> simp at h <;> (try (subst h; simp))
  all_goals (repeat' split) <;> simp

theorem actRedo_ok_power (t) (s u : State) (h : s.actRedo t = .ok u) : u.power = s.power := by
  unfold State.actRedo at h; (try dsimp only at h); (repeat' split at h) <;> simp at h <;> (subst h; simp)

@[simp] theorem emptyTrack_power (t) (s : State) : (s.emptyTrack t).power = s.power := by unfold State.emptyTrack; (try dsimp only); (repeat' split) <;> first | (simp; done) | rfl

@[simp] theorem forgetTrack_power (t) (s : State) : (s.forgetTrack t).power = s.power := by rfl

@[simp] theorem clearTrack_power (t) (s : State) : (s.clearTrack t).power = s.power := by unfold State.clearTrack; (try dsimp only); (repeat' split) <;> first | (simp; done) | rfl

@[simp] theorem actClearTrack_power (t) (s : State) : (s.actClearTrack t).power = s.power := by simp [State.actClearTrack]

@[simp] theorem writeRing_power (f) (s : State) : (s.writeRing f).power = s.power := rfl

@[simp] theorem setRecord_power (i r) (s : State) : (s.setRecord i r).power = s.power := rfl

@[simp] theorem refillAll_power (s : State) : (s.refillAll).power = s.power := rfl

@[simp] theorem overrun_power (pl id r) (s : State) : (s.overrun pl id r).power = s.power := by unfold State.overrun; (try dsimp only); (repeat' split) <;> first | (simp; done) | rfl

@[simp] theorem cutClosed_power (id n) (s : State) : (s.cutClosed id n).power = s.power := by unfold State.cutClosed; (try dsimp only); (repeat' split) <;> first | (simp; done) | rfl

@[simp] theorem exhaust_power (id n) (s : State) : (s.exhaust id n).power = s.power := by unfold State.exhaust; (try dsimp only); (repeat' split) <;> first | (simp; done) | rfl

theorem allocateEach_power (id : Nat) (l : List Nat) (s : State) : (State.allocateEach id l s).1.power = s.power := by
  induction l generalizing s with
  | nil => rfl
  | cons o l ih =>
    unfold State.allocateEach
    split
    · next u hu => rw [ih, allocate_power _ _ _ hu]
    · rfl

@[simp] theorem giveUp_power (pl id r) (s : State) : (s.giveUp pl id r).power = s.power := by
  unfold State.giveUp
  have h := allocateEach_power id (s.blocksNeeded id r) s
  split <;> next hu => rw [hu] at h; simpa using h

@[simp] theorem handOver_power (i) (s : State) : (s.handOver i).power = s.power := by
  unfold State.handOver
  split
  · rfl
  · split
    · simp
    · next u hu =>
      have hu' : u.power = s.power := by
        split at hu
        · exact allocate_power _ _ _ hu
        · injection hu with hu; rw [hu]
      dsimp only
      (repeat' split) <;> simpa using hu' 

@[simp] theorem settleCapture_power (n : Nat) (s : State) : (State.settleCapture n s).power = s.power := by
  induction n generalizing s with
  | zero => rfl
  | succ n ih =>
    unfold State.settleCapture
    dsimp only
    (repeat' split) <;> simp [ih]

@[simp] theorem overtake_power (pl i) (s : State) : (s.overtake pl i).power = s.power := by unfold State.overtake; (try dsimp only); (repeat' split) <;> first | (simp; done) | rfl

@[simp] theorem stealRecord_power (i) (s : State) : (s.stealRecord i).power = s.power := by unfold State.stealRecord; (try dsimp only); (repeat' split) <;> first | (simp; done) | rfl

@[simp] theorem placeRecord_power (r) (s : State) : (s.placeRecord r).power = s.power := by unfold State.placeRecord; (try dsimp only); (repeat' split) <;> first | (simp; done) | rfl

@[simp] theorem openLayer_power (t id l st ph dest) (s : State) : (s.openLayer t id l st ph dest).power = s.power := by simp [State.openLayer]

@[simp] theorem freeRedo_power (t) (s : State) : (s.freeRedo t).power = s.power := by simp [State.freeRedo]

@[simp] theorem startDefining_power (s : State) : (s.startDefining).power = s.power := by unfold State.startDefining; (try dsimp only); (repeat' split) <;> first | (simp; done) | rfl

theorem actRecord_ok_power (t k) (s u : State) (h : s.actRecord t k = .ok u) : u.power = s.power := by
  unfold State.actRecord at h
  split at h
  · simp at h
  · split at h
    · simp at h
    · next v id hv =>
      injection h with h; subst h
      simp [takeRoom_power _ _ _ _ hv]

theorem actLayer_ok_power (t cv k) (s u : State) (h : s.actLayer t cv k = .ok u) : u.power = s.power := by
  unfold State.actLayer at h
  split at h
  · split at h
    · simp at h
    · next v id hv =>
      injection h with h; subst h
      simp [takeRoom_power _ _ _ _ hv]
  · simp at h

@[simp] theorem decayAll_power (n l) (s : State) : (s.decayAll n l).power = s.power := by
  induction l generalizing s with
  | nil => rfl
  | cons x l ih => simp [State.decayAll, ih]

@[simp] theorem decayFold_power (t n) (s : State) : (s.decayFold t n).power = s.power := by unfold State.decayFold; (try dsimp only); (repeat' split) <;> first | (simp; done) | rfl

@[simp] theorem retire_power (t id) (s : State) : (s.retire t id).power = s.power := by simp [State.retire]

@[simp] theorem retireAll_power (t l) (s : State) : (s.retireAll t l).power = s.power := by
  induction l generalizing s with
  | nil => rfl
  | cons x l ih => simp [State.retireAll, ih]

@[simp] theorem decayTrack_power (t) (s : State) : (s.decayTrack t).power = s.power := by unfold State.decayTrack; (try dsimp only); (repeat' split) <;> first | (simp; done) | rfl

@[simp] theorem roll_power (t) (s : State) : (s.roll t).power = s.power := by
  unfold State.roll
  dsimp only
  split
  · split
    · split
      · rfl
      · split
        · next hv => have hu := takeRoom_power _ _ _ _ hv; simp at hu; simpa using hu
        · simp
    · rfl
  · rfl

@[simp] theorem wrapTrack_power (t) (s : State) : (s.wrapTrack t).power = s.power := by simp [State.wrapTrack]

@[simp] theorem liveOne_power (fr i) (s : State) : (s.liveOne fr i).power = s.power := by unfold State.liveOne; (try dsimp only); (repeat' split) <;> first | (simp; done) | rfl

@[simp] theorem liveAll_power (fr l) (s : State) : (s.liveAll fr l).power = s.power := by
  induction l generalizing s with
  | nil => rfl
  | cons x l ih => simp [State.liveAll, ih]

@[simp] theorem overtakeAll_power (pl l) (s : State) : (s.overtakeAll pl l).power = s.power := by
  induction l generalizing s with
  | nil => rfl
  | cons x l ih => simp [State.overtakeAll, ih]

@[simp] theorem captureArrival_power (pl fr ord) (s : State) : (s.captureArrival pl fr ord).power = s.power := by unfold State.captureArrival; (try dsimp only); (repeat' split) <;> first | (simp; done) | rfl

@[simp] theorem closeLimits_power (l) (s : State) : (s.closeLimits l).power = s.power := by
  induction l generalizing s with
  | nil => rfl
  | cons x l ih => unfold State.closeLimits; split <;> simp [ih]

@[simp] theorem closeTracks_power (k stop l) (s : State) : (s.closeTracks k stop l).power = s.power := by
  induction l generalizing s with
  | nil => rfl
  | cons x l ih => simp [State.closeTracks, ih]

@[simp] theorem pauseCycle_power (s : State) : (s.pauseCycle).power = s.power := by simp [State.pauseCycle]

@[simp] theorem actStopAll_power (k) (s : State) : (s.actStopAll k).power = s.power := by unfold State.actStopAll; (try dsimp only); (repeat' split) <;> first | (simp; done) | rfl

theorem actPlayAll_ok_power (s u : State) (h : s.actPlayAll = .ok u) : u.power = s.power := by
  unfold State.actPlayAll at h; (try dsimp only at h); (repeat' split at h) <;> simp at h <;> (subst h; simp)

theorem act_ok_power (x t k) (s u : State) (h : s.act x t k = .ok u) : u.power = s.power := by
  unfold State.act at h
  split at h
  · exact actRecord_ok_power _ _ _ _ h
  · exact actLayer_ok_power _ _ _ _ _ h
  · exact actLayer_ok_power _ _ _ _ _ h
  · exact actClose_ok_power _ _ _ _ h
  · injection h with h; subst h; simp
  · injection h with h; subst h; simp
  · exact actUndo_ok_power _ _ _ h
  · exact actRedo_ok_power _ _ _ h
  · injection h with h; subst h; simp
  · exact actPlayAll_ok_power _ _ h
  · simp at h

@[simp] theorem actAtOnce_power (x t e) (s : State) : (s.actAtOnce x t e).1.power = s.power := by
  unfold State.actAtOnce
  dsimp only
  split
  · rfl
  · next u hu =>
    have hu' := act_ok_power _ _ _ _ _ hu
    (repeat' split) <;> simp_all

@[simp] theorem quantised_power (q x t u pr) (s : State) : (s.quantised q x t u pr).1.power = s.power := by
  unfold State.quantised
  split <;> first | (simp; done) | rfl

@[simp] theorem takeCue_power (r) (s : State) : (s.takeCue r).power = s.power := by
  unfold State.takeCue
  split
  · rfl
  · split
    · dsimp only
      split
      · next u hu => have hu' := act_ok_power _ _ _ _ _ hu; simpa using hu'
      · simp
    · rfl

@[simp] theorem takeCues_power (r : Reached) (n : Nat) (s : State) : (State.takeCues r n s).power = s.power := by
  induction n generalizing s with
  | zero => rfl
  | succ n ih => simp [State.takeCues, ih]

@[simp] theorem wrapAll_power (l) (s : State) : (s.wrapAll l).power = s.power := by
  induction l generalizing s with
  | nil => rfl
  | cons x l ih => simp [State.wrapAll, ih]

@[simp] theorem boundaryWork_power (r : Reached) (l : List (Option TrackId)) (w : List TrackId) (s : State) :
    (State.boundaryWork r l w s).power = s.power := by
  induction l generalizing s w with
  | nil => simp [State.boundaryWork]
  | cons x l ih =>
    cases x with
    | none => simp [State.boundaryWork, ih]
    | some t => unfold State.boundaryWork; split <;> simp [ih]

@[simp] theorem actTap_power (stamp) (s : State) : (s.actTap stamp).1.power = s.power := by unfold State.actTap; (try dsimp only); (repeat' split) <;> first | (simp; done) | rfl

@[simp] theorem noteRecent_power (q t x pr an) (s : State) : (s.noteRecent q t x pr an).power = s.power := by unfold State.noteRecent; (try dsimp only); (repeat' split) <;> first | (simp; done) | rfl

@[simp] theorem resolved_power (q t x u pr) (s : State) : (s.resolved q t x u pr).1.power = s.power := by
  unfold State.resolved
  split
  · rfl
  · dsimp only
    (repeat' split) <;> simp

@[simp] theorem toggle_power (q t x u pr) (s : State) : (s.toggle q t x u pr).1.power = s.power := by unfold State.toggle; (try dsimp only); (repeat' split) <;> first | (simp; done) | rfl

@[simp] theorem handCue_power (q x t u pr) (s : State) : (s.handCue q x t u pr).1.power = s.power := by simp [State.handCue]

@[simp] theorem selectTo_power (q t) (s : State) : (s.selectTo q t).power = s.power := by simp [State.selectTo]

@[simp] theorem handOn_power (q : Port) (x : SwAction) (t : TrackId) (u : Quantum) (pr : PressTime) (s : State) :
    (State.handOn q x t u pr s).1.1.power = s.power := by
  cases x <;> simp [State.handOn]

@[simp] theorem issue_power (q c k x t u pr) (s : State) : (s.issue q c k x t u pr).power = s.power := by unfold State.issue; (try dsimp only); (repeat' split) <;> first | (simp; done) | rfl

@[simp] theorem setMachine_power (q c m) (s : State) : (s.setMachine q c m).power = s.power := by simp [State.setMachine]

@[simp] theorem switchDown_power (q c) (s : State) : (s.switchDown q c).1.power = s.power := by unfold State.switchDown; (try dsimp only); (repeat' split) <;> first | (simp; done) | rfl

@[simp] theorem switchUp_power (q c) (s : State) : (s.switchUp q c).1.power = s.power := by unfold State.switchUp; (try dsimp only); (repeat' split) <;> first | (simp; done) | rfl

@[simp] theorem holdDue_power (q c) (s : State) : (s.holdDue q c).power = s.power := by unfold State.holdDue; (try dsimp only); (repeat' split) <;> first | (simp; done) | rfl

@[simp] theorem windowDue_power (q c) (s : State) : (s.windowDue q c).power = s.power := by unfold State.windowDue; (try dsimp only); (repeat' split) <;> first | (simp; done) | rfl

@[simp] theorem layerSample_power (id k) (s : State) : (s.layerSample id k).1.power = s.power := by unfold State.layerSample; (try dsimp only); (repeat' split) <;> first | (simp; done) | rfl

@[simp] theorem layerPart_power (q id cs) (s : State) : (s.layerPart q id cs).1.power = s.power := by unfold State.layerPart; (try dsimp only); (repeat' split) <;> first | (simp; done) | rfl

@[simp] theorem sumLayers_power (t : TrackId) (q : Nat) (l : List Nat) (s : State) :
    (State.sumLayers t q l s).1.power = s.power := by
  induction l generalizing s with
  | nil => rfl
  | cons x l ih => simp [State.sumLayers, ih]

@[simp] theorem trackSum_power (t) (s : State) : (s.trackSum t).1.power = s.power := by unfold State.trackSum; (try dsimp only); (repeat' split) <;> first | (simp; done) | rfl

@[simp] theorem trackSums_power (l : List TrackId) (s : State) : (State.trackSums l s).1.power = s.power := by
  induction l generalizing s with
  | nil => rfl
  | cons x l ih => simp [State.trackSums, ih]

@[simp] theorem moveRamps_power (s : State) : (s.moveRamps).power = s.power := rfl

@[simp] theorem clip_power (ear r) (s : State) : (s.clip ear r).power = s.power := by unfold State.clip; (try dsimp only); (repeat' split) <;> first | (simp; done) | rfl

@[simp] theorem mix_power (fr pl b) (s : State) : (s.mix fr pl b).power = s.power := by unfold State.mix; (try dsimp only); (repeat' split) <;> first | (simp; done) | rfl

@[simp] theorem mixSilence_power (s : State) : (s.mixSilence).power = s.power := rfl

@[simp] theorem discardImport_power (id cause) (s : State) : (s.discardImport id cause).power = s.power := by unfold State.discardImport; (try dsimp only); (repeat' split) <;> first | (simp; done) | rfl

@[simp] theorem requestCommit_power (p) (s : State) : (s.requestCommit p).power = s.power := by
  unfold State.requestCommit
  split
  · rfl
  · split
    · rfl
    · dsimp only
      split
      · split
        · next u hu => have hu' := allocate_power _ _ _ hu; simpa using hu'
        · simp
      · simp

@[simp] theorem settleWrite_power (p) (s : State) : (s.settleWrite p).power = s.power := by unfold State.settleWrite; (try dsimp only); (repeat' split) <;> first | (simp; done) | rfl

@[simp] theorem settleWait_power (who) (s : State) : (s.settleWait who).power = s.power := by unfold State.settleWait; (try dsimp only); (repeat' split) <;> first | (simp; done) | rfl

@[simp] theorem settle_power (s : State) : (s.settle).power = s.power := by simp [State.settle]

@[simp] theorem discardImports_power (cause l) (s : State) : (s.discardImports cause l).power = s.power := by
  induction l generalizing s with
  | nil => rfl
  | cons x l ih => simp [State.discardImports, ih]

@[simp] theorem abandonRunningFold_power (cause) (s : State) : (s.abandonRunningFold cause).power = s.power := by unfold State.abandonRunningFold; (try dsimp only); (repeat' split) <;> first | (simp; done) | rfl

@[simp] theorem emptyTracks_power (l) (s : State) : (s.emptyTracks l).power = s.power := by
  induction l generalizing s with
  | nil => rfl
  | cons x l ih => simp [State.emptyTracks, ih]

@[simp] theorem raiseEmptied_power (old l) (s : State) : (s.raiseEmptied old l).power = s.power := by
  induction l generalizing s with
  | nil => rfl
  | cons x l ih => unfold State.raiseEmptied; split <;> simp [ih]

@[simp] theorem clearTracks_power (s : State) : (s.clearTracks).power = s.power := by unfold State.clearTracks; (try dsimp only); (repeat' split) <;> first | (simp; done) | rfl

@[simp] theorem forgetRecent_power (s : State) : (s.forgetRecent).power = s.power := rfl

@[simp] theorem clearCycle_power (s : State) : (s.clearCycle).power = s.power := by simp [State.clearCycle]

@[simp] theorem actClearAll_power (s : State) : (s.actClearAll).power = s.power := by simp [State.actClearAll]

@[simp] theorem setGrant_power (g) (s : State) : (s.setGrant g).power = s.power := rfl

@[simp] theorem grantPlayback_power (id r) (s : State) : (s.grantPlayback id r).power = s.power := by unfold State.grantPlayback; (repeat' split) <;> first | (simp; done) | rfl

@[simp] theorem grantCapture_power (x rest) (s : State) : (s.grantCapture x rest).power = s.power := rfl

@[simp] theorem grantFold_power (s : State) : (s.grantFold).power = s.power := by unfold State.grantFold; (try dsimp only); (repeat' split) <;> first | (simp; done) | rfl

@[simp] theorem grantWindow_power (p) (s : State) : (s.grantWindow p).power = s.power := by unfold State.grantWindow; (try dsimp only); (repeat' split) <;> first | (simp; done) | rfl

@[simp] theorem grantBackground_power (x) (s : State) : (s.grantBackground x).power = s.power := by unfold State.grantBackground; cases x <;> simp

@[simp] theorem grantNext_power (s : State) : (s.grantNext).power = s.power := by unfold State.grantNext; (try dsimp only); (repeat' split) <;> first | (simp; done) | rfl

@[simp] theorem arbitrate_power (s : State) : (s.arbitrate).power = s.power := by unfold State.arbitrate; (try dsimp only); (repeat' split) <;> first | (simp; done) | rfl

@[simp] theorem playbackDone_power (rd cs) (s : State) : (s.playbackDone rd cs).power = s.power := by unfold State.playbackDone; (try dsimp only); (repeat' split) <;> first | (simp; done) | rfl

@[simp] theorem captureDone_power (x blk live) (s : State) : (s.captureDone x blk live).power = s.power := by unfold State.captureDone; (try dsimp only); (repeat' split) <;> first | (simp; done) | rfl

@[simp] theorem foldReadDone_power (rd nw cs) (s : State) : (s.foldReadDone rd nw cs).power = s.power := by unfold State.foldReadDone; (try dsimp only); (repeat' split) <;> first | (simp; done) | rfl

@[simp] theorem foldWriteDone_power (blk o xs) (s : State) : (s.foldWriteDone blk o xs).power = s.power := by unfold State.foldWriteDone; (try dsimp only); (repeat' split) <;> first | (simp; done) | rfl

@[simp] theorem windowReadDone_power (p rd cs) (s : State) : (s.windowReadDone p rd cs).power = s.power := by unfold State.windowReadDone; (try dsimp only); (repeat' split) <;> first | (simp; done) | rfl

@[simp] theorem importDone_power (p id) (s : State) : (s.importDone p id).power = s.power := by unfold State.importDone; (try dsimp only); (repeat' split) <;> first | (simp; done) | rfl

@[simp] theorem commitDone_power (p blk o xs) (s : State) : (s.commitDone p blk o xs).power = s.power := by unfold State.commitDone; (try dsimp only); (repeat' split) <;> first | (simp; done) | rfl

@[simp] theorem completeRefresh_power (s : State) : (s.completeRefresh).power = s.power := by unfold State.completeRefresh; (try dsimp only); (repeat' split) <;> first | (simp; done) | rfl

@[simp] theorem completePlayback_power (cs) (s : State) : (s.completePlayback cs).power = s.power := by unfold State.completePlayback; (try dsimp only); (repeat' split) <;> first | (simp; done) | rfl

@[simp] theorem completeCapture_power (s : State) : (s.completeCapture).power = s.power := by unfold State.completeCapture; (try dsimp only); (repeat' split) <;> first | (simp; done) | rfl

@[simp] theorem completeFoldBurst_power (cs) (s : State) : (s.completeFoldBurst cs).power = s.power := by unfold State.completeFoldBurst; (try dsimp only); (repeat' split) <;> first | (simp; done) | rfl

@[simp] theorem completeWindowRead_power (cs) (s : State) : (s.completeWindowRead cs).power = s.power := by unfold State.completeWindowRead; (try dsimp only); (repeat' split) <;> first | (simp; done) | rfl

@[simp] theorem completeCommit_power (s : State) : (s.completeCommit).power = s.power := by unfold State.completeCommit; (try dsimp only); (repeat' split) <;> first | (simp; done) | rfl

@[simp] theorem lockout_power (who) (s : State) : (s.lockout who).power = s.power := by unfold State.lockout; (try dsimp only); (repeat' split) <;> first | (simp; done) | rfl

@[simp] theorem writeDeadline_power (s : State) : (s.writeDeadline).power = s.power := by unfold State.writeDeadline; (try dsimp only); (repeat' split) <;> first | (simp; done) | rfl

@[simp] theorem windowTimedOut_power (p) (s : State) : (s.windowTimedOut p).power = s.power := by unfold State.windowTimedOut; (try dsimp only); (repeat' split) <;> first | (simp; done) | rfl

@[simp] theorem refreshFallsDue_power (s : State) : (s.refreshFallsDue).power = s.power := by unfold State.refreshFallsDue; (try dsimp only); (repeat' split) <;> first | (simp; done) | rfl

@[simp] theorem testCorrected_power (n m : Nat) (s : State) : (State.testCorrected n m s).power = s.power := by
  induction m generalizing s with
  | zero => rfl
  | succ m ih => simp [State.testCorrected, ih]

@[simp] theorem testBlock_power (n ok) (s : State) : (s.testBlock n ok).power = s.power := by unfold State.testBlock; (try dsimp only); (repeat' split) <;> first | (simp; done) | rfl

@[simp] theorem selfRefresh_power (s : State) : (s.selfRefresh).power = s.power := by unfold State.selfRefresh; (try dsimp only); (repeat' split) <;> first | (simp; done) | rfl

@[simp] theorem atBoundary_power (ord r) (s : State) : (s.atBoundary ord r).power = s.power := by unfold State.atBoundary; (try dsimp only); (repeat' split) <;> first | (simp; done) | rfl

@[simp] theorem arrivalWork_power (ord fr r) (s : State) : (s.arrivalWork ord fr r).power = s.power := by unfold State.arrivalWork; (try dsimp only); (repeat' split) <;> first | (simp; done) | rfl

@[simp] theorem arriveRun_power (ord fr) (s : State) : (s.arriveRun ord fr).1.power = s.power := by simp [State.arriveRun]

@[simp] theorem arrive_power (ord fr) (s : State) : (s.arrive ord fr).1.power = s.power := by unfold State.arrive; (try dsimp only); (repeat' split) <;> first | (simp; done) | rfl

@[simp] theorem raiseAt_power (k d r) (s : State) : (s.raiseAt k d r).power = s.power := rfl

@[simp] theorem audioBack_power (r) (s : State) : (s.audioBack r).power = s.power := by unfold State.audioBack; (try dsimp only); (repeat' split) <;> first | (simp; done) | rfl

@[simp] theorem linkError_power (r) (s : State) : (s.linkError r).power = s.power := by unfold State.linkError; (try dsimp only); (repeat' split) <;> first | (simp; done) | rfl

@[simp] theorem closeFrame_power (n bits ord) (s : State) : (s.closeFrame n bits ord).power = s.power := by unfold State.closeFrame; (try dsimp only); (repeat' split) <;> first | (simp; done) | rfl

@[simp] theorem frameSync_power (n bits ord) (s : State) : (s.frameSync n bits ord).power = s.power := by unfold State.frameSync; (try dsimp only); (repeat' split) <;> first | (simp; done) | rfl

@[simp] theorem watchdog_power (s : State) : (s.watchdog).power = s.power := by unfold State.watchdog; (try dsimp only); (repeat' split) <;> first | (simp; done) | rfl

@[simp] theorem shiftRequest_power (p n) (s : State) : (s.shiftRequest p n).power = s.power := by simp [State.shiftRequest]

@[simp] theorem refuse_power (h code st) (s : State) : (s.refuse h code st).power = s.power := by simp [State.refuse]

@[simp] theorem beginTransfer_power (p k) (s : State) : (s.beginTransfer p k).power = s.power := by simp [State.beginTransfer]

@[simp] theorem endTransfer_power (p) (s : State) : (s.endTransfer p).power = s.power := by simp [State.endTransfer]

@[simp] theorem shiftOut_power (p t x) (s : State) : (s.shiftOut p t x).power = s.power := by simp [State.shiftOut]

@[simp] theorem departHead_power (p) (s : State) : (s.departHead p).power = s.power := by simp [State.departHead]

@[simp] theorem replyByte_power (p) (s : State) : (s.replyByte p).power = s.power := by unfold State.replyByte; (try dsimp only); (repeat' split) <;> first | (simp; done) | rfl

@[simp] theorem eventByte_power (p t left j) (s : State) : (s.eventByte p t left j).power = s.power := by unfold State.eventByte; (try dsimp only); (repeat' split) <;> first | (simp; done) | rfl

@[simp] theorem eventsByte_power (p) (s : State) : (s.eventsByte p).power = s.power := by unfold State.eventsByte; (try dsimp only); (repeat' split) <;> first | (simp; done) | rfl

@[simp] theorem reportFlag_power (p flag) (s : State) : (s.reportFlag p flag).power = s.power := by unfold State.reportFlag; (try dsimp only); (repeat' split) <;> first | (simp; done) | rfl

@[simp] theorem latchWindow_power (p) (s : State) : (s.latchWindow p).power = s.power := by unfold State.latchWindow; (try dsimp only); (repeat' split) <;> first | (simp; done) | rfl

@[simp] theorem markShifting_power (p) (s : State) : (s.markShifting p).power = s.power := by unfold State.markShifting; (try dsimp only); (repeat' split) <;> first | (simp; done) | rfl

@[simp] theorem sampleByte_power (p t j) (s : State) : (s.sampleByte p t j).power = s.power := by unfold State.sampleByte; (try dsimp only); (repeat' split) <;> first | (simp; done) | rfl

@[simp] theorem windowReadByte_power (p) (s : State) : (s.windowReadByte p).power = s.power := by unfold State.windowReadByte; (try dsimp only); (repeat' split) <;> first | (simp; done) | rfl

@[simp] theorem sampleIn_power (p x w) (s : State) : (s.sampleIn p x w).power = s.power := by unfold State.sampleIn; (try dsimp only); (repeat' split) <;> first | (simp; done) | rfl

@[simp] theorem shiftZeros_power (p n) (s : State) : (s.shiftZeros p n).power = s.power := by unfold State.shiftZeros; (try dsimp only); (repeat' split) <;> first | (simp; done) | rfl

@[simp] theorem riseIf_power (p rise) (s : State) : (s.riseIf p rise).power = s.power := by unfold State.riseIf; (try dsimp only); (repeat' split) <;> first | (simp; done) | rfl

@[simp] theorem windowWriteByte_power (p x) (s : State) : (s.windowWriteByte p x).power = s.power := by unfold State.windowWriteByte; (try dsimp only); (repeat' split) <;> first | (simp; done) | rfl

@[simp] theorem windowWriteBytes_power (p l) (s : State) : (s.windowWriteBytes p l).power = s.power := by
  induction l generalizing s with
  | nil => rfl
  | cons x l ih => simp [State.windowWriteBytes, ih]

@[simp] theorem setMailbox_power (p n) (s : State) : (s.setMailbox p n).power = s.power := by simp [State.setMailbox]

@[simp] theorem shutWindow_power (p) (s : State) : (s.shutWindow p).power = s.power := by simp [State.shutWindow]

@[simp] theorem closeCommit_power (p w) (s : State) : (s.closeCommit p w).power = s.power := by unfold State.closeCommit; (try dsimp only); (repeat' split) <;> first | (simp; done) | rfl

@[simp] theorem setEntry_power (c e) (s : State) : (s.setEntry c e).power = s.power := rfl

@[simp] theorem setTimeout_power (p n) (s : State) : (s.setTimeout p n).power = s.power := by cases p <;> rfl

@[simp] theorem placeImport_power (p id i) (s : State) : (s.placeImport p id i).power = s.power := by simp [State.placeImport]

end Sys2Proof.Machine
end

