-- ==== Sys2Proof/Laws/FrameWords.lean ====
section
/-! SUPPORT. Frame lemmas: the operations leave the words of the loop memory as it is. -/
namespace Sys2Proof.Machine

open Sys2Proof

set_option linter.unusedSimpArgs false
set_option linter.unusedTactic false
set_option linter.unreachableTactic false
set_option linter.unnecessarySeqFocus false

@[simp] theorem setPort_words (p c) (s : State) : (s.setPort p c).mem.words = s.mem.words := by cases p <;> rfl

@[simp] theorem setTrack_words (t tr) (s : State) : (s.setTrack t tr).mem.words = s.mem.words := rfl

@[simp] theorem modTrack_words (t f) (s : State) : (s.modTrack t f).mem.words = s.mem.words := rfl

@[simp] theorem setLayer_words (id l) (s : State) : (s.setLayer id l).mem.words = s.mem.words := rfl

@[simp] theorem modLayer_words (id f) (s : State) : (s.modLayer id f).mem.words = s.mem.words := by unfold State.modLayer; (try dsimp only); (repeat' split) <;> first | (simp; done) | rfl

@[simp] theorem setWindow_words (p w) (s : State) : (s.setWindow p w).mem.words = s.mem.words := by cases p <;> rfl

@[simp] theorem setSwitchPort_words (p c) (s : State) : (s.setSwitchPort p c).mem.words = s.mem.words := by cases p <;> rfl

@[simp] theorem offerTo_words (p e) (s : State) : (s.offerTo p e).mem.words = s.mem.words := by simp [State.offerTo]

@[simp] theorem raiseEvent_words (e) (s : State) : (s.raiseEvent e).mem.words = s.mem.words := rfl

@[simp] theorem raise_words (k t l d) (s : State) : (s.raise k t l d).mem.words = s.mem.words := rfl

@[simp] theorem takeFault_words (o) (s : State) : (s.takeFault o).mem.words = s.mem.words := by unfold State.takeFault; (try dsimp only); (repeat' split) <;> first | (simp; done) | rfl

theorem allocate_words (id : Nat) (s t : State) (h : s.allocate id = some t) : t.mem.words = s.mem.words := by
  unfold State.allocate at h
  split at h
  · injection h with h; subst h; simp
  · simp at h

@[simp] theorem fillReply_words (p st tag code results) (s : State) : (s.fillReply p st tag code results).mem.words = s.mem.words := by simp [State.fillReply]

@[simp] theorem completeReply_words (p st results) (s : State) : (s.completeReply p st results).mem.words = s.mem.words := by unfold State.completeReply; (try dsimp only); (repeat' split) <;> first | (simp; done) | rfl

@[simp] theorem clearPassFlags_words (s : State) : (s.clearPassFlags).mem.words = s.mem.words := rfl

@[simp] theorem setCycle_words (c) (s : State) : (s.setCycle c).mem.words = s.mem.words := by unfold State.setCycle; (try dsimp only); (repeat' split) <;> first | (simp; done) | rfl

@[simp] theorem startCycle_words (len d) (s : State) : (s.startCycle len d).mem.words = s.mem.words := by unfold State.startCycle; (try dsimp only); (repeat' split) <;> first | (simp; done) | rfl

@[simp] theorem emptyCycle_words (s : State) : (s.emptyCycle).mem.words = s.mem.words := by unfold State.emptyCycle; (try dsimp only); (repeat' split) <;> first | (simp; done) | rfl

@[simp] theorem closeDefining_words (n stop) (s : State) : (s.closeDefining n stop).mem.words = s.mem.words := by unfold State.closeDefining; (try dsimp only); (repeat' split) <;> first | (simp; done) | rfl

@[simp] theorem countFrame_words (s : State) : (s.countFrame).mem.words = s.mem.words := rfl

@[simp] theorem announce_words (r) (s : State) : (s.announce r).mem.words = s.mem.words := by unfold State.announce; (try dsimp only); (repeat' split) <;> first | (simp; done) | rfl

@[simp] theorem advance_words (s : State) : (s.advance).1.mem.words = s.mem.words := by unfold State.advance; (repeat' split) <;> (try split) <;> first | (simp; done) | rfl

@[simp] theorem settleBuffers_words (s : State) : (s.settleBuffers).mem.words = s.mem.words := rfl

@[simp] theorem reaim_words (id) (s : State) : (s.reaim id).mem.words = s.mem.words := by unfold State.reaim; (try dsimp only); (repeat' split) <;> first | (simp; done) | rfl

@[simp] theorem reaimAllZero_words (s : State) : (s.reaimAllZero).mem.words = s.mem.words := rfl

@[simp] theorem setWait_words (who w) (s : State) : (s.setWait who w).mem.words = s.mem.words := by cases who <;> rfl

@[simp] theorem loseWindow_words (p cause) (s : State) : (s.loseWindow p cause).mem.words = s.mem.words := by unfold State.loseWindow; (try dsimp only); (repeat' split) <;> first | (simp; done) | rfl

@[simp] theorem loseWindowOn_words (id cause p) (s : State) : (s.loseWindowOn id cause p).mem.words = s.mem.words := by unfold State.loseWindowOn; (try dsimp only); (repeat' split) <;> first | (simp; done) | rfl

@[simp] theorem loseWindowsOn_words (id cause) (s : State) : (s.loseWindowsOn id cause).mem.words = s.mem.words := by unfold State.loseWindowsOn; (try dsimp only); (repeat' split) <;> first | (simp; done) | rfl

@[simp] theorem dropRecord_words (id) (s : State) : (s.dropRecord id).mem.words = s.mem.words := rfl

@[simp] theorem giveBack_words (bs xs : List Nat) (m : MemCtl) : (m.giveBack bs xs).words = m.words := rfl

@[simp] theorem freeLayer_words (cause id) (s : State) : (s.freeLayer cause id).mem.words = s.mem.words := by unfold State.freeLayer; (try dsimp only); (repeat' split) <;> first | (simp; done) | rfl

@[simp] theorem cutWindow_words (id n p) (s : State) : (s.cutWindow id n p).mem.words = s.mem.words := by unfold State.cutWindow; (try dsimp only); (repeat' split) <;> first | (simp; done) | rfl

@[simp] theorem truncate_words (id n) (s : State) : (s.truncate id n).mem.words = s.mem.words := by unfold State.truncate; (try dsimp only); (repeat' split) <;> first | (simp; done) | rfl

@[simp] theorem suspectBlock_words (rd b) (s : State) : (s.suspectBlock rd b).mem.words = s.mem.words := by unfold State.suspectBlock; (try dsimp only); (repeat' split) <;> first | (simp; done) | rfl

@[simp] theorem readChecked_words (who o chk rd) (s : State) : (s.readChecked who o chk rd).1.mem.words = s.mem.words := by unfold State.readChecked; (try dsimp only); (repeat' split) <;> first | (simp; done) | rfl

@[simp] theorem readFrom_words (who : Requester) (checks : List WordCheck) (l : List Nat) (rd : Reading) (s : State) :
    (State.readFrom who checks l rd s).1.mem.words = s.mem.words := by
  induction l generalizing rd s with
  | nil => rfl
  | cons i l ih => simp [State.readFrom, ih]

@[simp] theorem readRun_words (who checks rd) (s : State) : (s.readRun who checks rd).1.mem.words = s.mem.words := by unfold State.readRun; (try dsimp only); (repeat' split) <;> first | (simp; done) | rfl

@[simp] theorem windowDone_words (p w) (s : State) : (s.windowDone p w).mem.words = s.mem.words := by unfold State.windowDone; (try dsimp only); (repeat' split) <;> first | (simp; done) | rfl

@[simp] theorem settleRead_words (p) (s : State) : (s.settleRead p).mem.words = s.mem.words := by unfold State.settleRead; (try dsimp only); (repeat' split) <;> first | (simp; done) | rfl

@[simp] theorem takeSample_words (p) (s : State) : (s.takeSample p).mem.words = s.mem.words := by unfold State.takeSample; (try dsimp only); (repeat' split) <;> first | (simp; done) | rfl

@[simp] theorem reportDrop_words (r c) (s : State) : (s.reportDrop r c).mem.words = s.mem.words := rfl

@[simp] theorem removeCue_words (id) (s : State) : (s.removeCue id).mem.words = s.mem.words := rfl

@[simp] theorem dropCue_words (r c) (s : State) : (s.dropCue r c).mem.words = s.mem.words := rfl

@[simp] theorem dropCues_words (r l) (s : State) : (s.dropCues r l).mem.words = s.mem.words := by
  induction l generalizing s with
  | nil => rfl
  | cons x l ih => simp [State.dropCues, ih]

@[simp] theorem dropAllCues_words (r) (s : State) : (s.dropAllCues r).mem.words = s.mem.words := by simp [State.dropAllCues]

@[simp] theorem dropTrackCues_words (t) (s : State) : (s.dropTrackCues t).mem.words = s.mem.words := by simp [State.dropTrackCues]

@[simp] theorem makeCue_words (q a t u pr ps po) (s : State) : (s.makeCue q a t u pr ps po).1.mem.words = s.mem.words := rfl

@[simp] theorem joinCue_words (id p) (s : State) : (s.joinCue id p).mem.words = s.mem.words := rfl

@[simp] theorem placeCue_words (q a t u pr ps po) (s : State) : (s.placeCue q a t u pr ps po).1.mem.words = s.mem.words := by unfold State.placeCue; (try dsimp only); (repeat' split) <;> first | (simp; done) | rfl

@[simp] theorem supersedeSlot_words (t f) (s : State) : (s.supersedeSlot t f).mem.words = s.mem.words := by unfold State.supersedeSlot; (try dsimp only); (repeat' split) <;> first | (simp; done) | rfl

@[simp] theorem raiseTrack_words (t) (s : State) : (s.raiseTrack t).mem.words = s.mem.words := rfl

@[simp] theorem noteTrack_words (t old) (s : State) : (s.noteTrack t old).mem.words = s.mem.words := by unfold State.noteTrack; (try dsimp only); (repeat' split) <;> first | (simp; done) | rfl

@[simp] theorem settleTrack_words (t) (s : State) : (s.settleTrack t).mem.words = s.mem.words := by unfold State.settleTrack; (try dsimp only); (repeat' split) <;> first | (simp; done) | rfl

@[simp] theorem unfoldMember_words (id) (s : State) : (s.unfoldMember id).mem.words = s.mem.words := by simp [State.unfoldMember]

theorem foldl_unfold_words (l : List Nat) (s : State) :
    (l.foldl (fun s id => State.unfoldMember id s) s).mem.words = s.mem.words := by
  induction l generalizing s with
  | nil => rfl
  | cons x l ih => simp [ih]

@[simp] theorem abandonFold_words (cause keep) (s : State) : (s.abandonFold cause keep).mem.words = s.mem.words := by unfold State.abandonFold; (try dsimp only); (repeat' split) <;> simp [foldl_unfold_words]

@[simp] theorem beginFoldBurst_words (s : State) : (s.beginFoldBurst).mem.words = s.mem.words := by
  unfold State.beginFoldBurst
  split
  · rfl
  · next f hf =>
    dsimp only
    split
    · simp
    · next u hu =>
      have hu' : u.mem.words = s.mem.words := by
        split at hu
        · exact allocate_words _ _ _ hu
        · injection hu with hu; rw [hu]
      (repeat' split) <;> simpa using hu' 

@[simp] theorem settleFold_words (s : State) : (s.settleFold).mem.words = s.mem.words := by unfold State.settleFold; (try dsimp only); (repeat' split) <;> first | (simp; done) | rfl

@[simp] theorem startFold_words (t i j rid rest) (s : State) : (s.startFold t i j rid rest).mem.words = s.mem.words := by unfold State.startFold; (try dsimp only); (repeat' split) <;> first | (simp; done) | rfl

theorem takeRoom_words (t : TrackId) (s u : State) (id : Nat) (h : s.takeRoom t = .ok (u, id)) : u.mem.words = s.mem.words := by
  unfold State.takeRoom at h
  split at h
  · simp at h
  · dsimp only at h
    split at h
    · simp at h; rw [← h.1]
    · split at h
      · split at h
        · split at h
          · simp at h; rw [← h.1]; simp
          · simp at h
        · simp at h
      · simp at h

@[simp] theorem completeFold_words (s : State) : (s.completeFold).mem.words = s.mem.words := by unfold State.completeFold; (try dsimp only); (repeat' split) <;> first | (simp; done) | rfl

@[simp] theorem endCapture_words (id n) (s : State) : (s.endCapture id n).mem.words = s.mem.words := by unfold State.endCapture; (try dsimp only); (repeat' split) <;> first | (simp; done) | rfl

@[simp] theorem cutReads_words (id n) (s : State) : (s.cutReads id n).mem.words = s.mem.words := by unfold State.cutReads; (try dsimp only); (repeat' split) <;> first | (simp; done) | rfl

@[simp] theorem endAt_words (id n) (s : State) : (s.endAt id n).mem.words = s.mem.words := by unfold State.endAt; (try dsimp only); (repeat' split) <;> first | (simp; done) | rfl

@[simp] theorem raiseClosed_words (t id) (s : State) : (s.raiseClosed t id).mem.words = s.mem.words := rfl

@[simp] theorem markFresh_words (b id) (s : State) : (s.markFresh b id).mem.words = s.mem.words := by unfold State.markFresh; (try dsimp only); (repeat' split) <;> first | (simp; done) | rfl

@[simp] theorem discardOpen_words (t id) (s : State) : (s.discardOpen t id).mem.words = s.mem.words := by simp [State.discardOpen]

@[simp] theorem closeFirst_words (t id n fr stop) (s : State) : (s.closeFirst t id n fr stop).mem.words = s.mem.words := by unfold State.closeFirst; (try dsimp only); (repeat' split) <;> first | (simp; done) | rfl

@[simp] theorem closeLayered_words (t id n fr) (s : State) : (s.closeLayered t id n fr).mem.words = s.mem.words := by simp [State.closeLayered]

@[simp] theorem closeRolled_words (t id n l) (s : State) : (s.closeRolled t id n l).mem.words = s.mem.words := by unfold State.closeRolled; (try dsimp only); (repeat' split) <;> first | (simp; done) | rfl

@[simp] theorem closeAtRoll_words (t r n b) (s : State) : (s.closeAtRoll t r n b).mem.words = s.mem.words := by unfold State.closeAtRoll; (try dsimp only); (repeat' split) <;> first | (simp; done) | rfl

@[simp] theorem closeOpen_words (t n b fr stop) (s : State) : (s.closeOpen t n b fr stop).mem.words = s.mem.words := by unfold State.closeOpen; (try dsimp only); (repeat' split) <;> first | (simp; done) | rfl

@[simp] theorem closeAtCut_words (t k stop) (s : State) : (s.closeAtCut t k stop).mem.words = s.mem.words := by unfold State.closeAtCut; (try dsimp only); (repeat' split) <;> first | (simp; done) | rfl

theorem actClose_ok_words (t k) (s u : State) (h : s.actClose t k = .ok u) : u.mem.words = s.mem.words := by
  unfold State.actClose at h; (try dsimp only at h); (repeat' split at h) <;> simp at h <;> (subst h; simp)

@[simp] theorem actMute_words (t n) (s : State) : (s.actMute t n).mem.words = s.mem.words := by simp [State.actMute]

@[simp] theorem toRedo_words (t id) (s : State) : (s.toRedo t id).mem.words = s.mem.words := by unfold State.toRedo; (try dsimp only); (repeat' split) <;> first | (simp; done) | rfl

@[simp] theorem freeAll_words (cause l) (s : State) : (s.freeAll cause l).mem.words = s.mem.words := by
  induction l generalizing s with
  | nil => rfl
  | cons x l ih => simp [State.freeAll, ih]

theorem actUndo_ok_words (t) (s u : State) (h : s.actUndo t = .ok u) : u.mem.words = s.mem.words := by
  unfold State.actUndo at h
  dsimp only at h
  (repeat' split at h) <;> simp at h <;> (try (subst h; simp))
  all_goals (repeat' split) <;> simp

theorem actRedo_ok_words (t) (s u : State) (h : s.actRedo t = .ok u) : u.mem.words = s.mem.words := by
  unfold State.actRedo at h; (try dsimp only at h); (repeat' split at h) <;> simp at h <;> (subst h; simp)

@[simp] theorem emptyTrack_words (t) (s : State) : (s.emptyTrack t).mem.words = s.mem.words := by unfold State.emptyTrack; (try dsimp only); (repeat' split) <;> first | (simp; done) | rfl

@[simp] theorem forgetTrack_words (t) (s : State) : (s.forgetTrack t).mem.words = s.mem.words := by rfl

@[simp] theorem clearTrack_words (t) (s : State) : (s.clearTrack t).mem.words = s.mem.words := by unfold State.clearTrack; (try dsimp only); (repeat' split) <;> first | (simp; done) | rfl

@[simp] theorem actClearTrack_words (t) (s : State) : (s.actClearTrack t).mem.words = s.mem.words := by simp [State.actClearTrack]

@[simp] theorem writeRing_words (f) (s : State) : (s.writeRing f).mem.words = s.mem.words := rfl

@[simp] theorem setRecord_words (i r) (s : State) : (s.setRecord i r).mem.words = s.mem.words := rfl

@[simp] theorem refillAll_words (s : State) : (s.refillAll).mem.words = s.mem.words := rfl

@[simp] theorem overrun_words (pl id r) (s : State) : (s.overrun pl id r).mem.words = s.mem.words := by unfold State.overrun; (try dsimp only); (repeat' split) <;> first | (simp; done) | rfl

@[simp] theorem cutClosed_words (id n) (s : State) : (s.cutClosed id n).mem.words = s.mem.words := by unfold State.cutClosed; (try dsimp only); (repeat' split) <;> first | (simp; done) | rfl

@[simp] theorem exhaust_words (id n) (s : State) : (s.exhaust id n).mem.words = s.mem.words := by unfold State.exhaust; (try dsimp only); (repeat' split) <;> first | (simp; done) | rfl

theorem allocateEach_words (id : Nat) (l : List Nat) (s : State) : (State.allocateEach id l s).1.mem.words = s.mem.words := by
  induction l generalizing s with
  | nil => rfl
  | cons o l ih =>
    unfold State.allocateEach
    split
    · next u hu => rw [ih, allocate_words _ _ _ hu]
    · rfl

@[simp] theorem giveUp_words (pl id r) (s : State) : (s.giveUp pl id r).mem.words = s.mem.words := by
  unfold State.giveUp
  have h := allocateEach_words id (s.blocksNeeded id r) s
  split <;> next hu => rw [hu] at h; simpa using h

@[simp] theorem handOver_words (i) (s : State) : (s.handOver i).mem.words = s.mem.words := by
  unfold State.handOver
  split
  · rfl
  · split
    · simp
    · next u hu =>
      have hu' : u.mem.words = s.mem.words := by
        split at hu
        · exact allocate_words _ _ _ hu
        · injection hu with hu; rw [hu]
      dsimp only
      (repeat' split) <;> simpa using hu' 

@[simp] theorem settleCapture_words (n : Nat) (s : State) : (State.settleCapture n s).mem.words = s.mem.words := by
  induction n generalizing s with
  | zero => rfl
  | succ n ih =>
    unfold State.settleCapture
    dsimp only
    (repeat' split) <;> simp [ih]

@[simp] theorem overtake_words (pl i) (s : State) : (s.overtake pl i).mem.words = s.mem.words := by unfold State.overtake; (try dsimp only); (repeat' split) <;> first | (simp; done) | rfl

@[simp] theorem stealRecord_words (i) (s : State) : (s.stealRecord i).mem.words = s.mem.words := by unfold State.stealRecord; (try dsimp only); (repeat' split) <;> first | (simp; done) | rfl

@[simp] theorem placeRecord_words (r) (s : State) : (s.placeRecord r).mem.words = s.mem.words := by unfold State.placeRecord; (try dsimp only); (repeat' split) <;> first | (simp; done) | rfl

@[simp] theorem openLayer_words (t id l st ph dest) (s : State) : (s.openLayer t id l st ph dest).mem.words = s.mem.words := by simp [State.openLayer]

@[simp] theorem freeRedo_words (t) (s : State) : (s.freeRedo t).mem.words = s.mem.words := by simp [State.freeRedo]

@[simp] theorem startDefining_words (s : State) : (s.startDefining).mem.words = s.mem.words := by unfold State.startDefining; (try dsimp only); (repeat' split) <;> first | (simp; done) | rfl

theorem actRecord_ok_words (t k) (s u : State) (h : s.actRecord t k = .ok u) : u.mem.words = s.mem.words := by
  unfold State.actRecord at h
  split at h
  · simp at h
  · split at h
    · simp at h
    · next v id hv =>
      injection h with h; subst h
      simp [takeRoom_words _ _ _ _ hv]

theorem actLayer_ok_words (t cv k) (s u : State) (h : s.actLayer t cv k = .ok u) : u.mem.words = s.mem.words := by
  unfold State.actLayer at h
  split at h
  · split at h
    · simp at h
    · next v id hv =>
      injection h with h; subst h
      simp [takeRoom_words _ _ _ _ hv]
  · simp at h

@[simp] theorem decayAll_words (n l) (s : State) : (s.decayAll n l).mem.words = s.mem.words := by
  induction l generalizing s with
  | nil => rfl
  | cons x l ih => simp [State.decayAll, ih]

@[simp] theorem decayFold_words (t n) (s : State) : (s.decayFold t n).mem.words = s.mem.words := by unfold State.decayFold; (try dsimp only); (repeat' split) <;> first | (simp; done) | rfl

@[simp] theorem retire_words (t id) (s : State) : (s.retire t id).mem.words = s.mem.words := by simp [State.retire]

@[simp] theorem retireAll_words (t l) (s : State) : (s.retireAll t l).mem.words = s.mem.words := by
  induction l generalizing s with
  | nil => rfl
  | cons x l ih => simp [State.retireAll, ih]

@[simp] theorem decayTrack_words (t) (s : State) : (s.decayTrack t).mem.words = s.mem.words := by unfold State.decayTrack; (try dsimp only); (repeat' split) <;> first | (simp; done) | rfl

@[simp] theorem roll_words (t) (s : State) : (s.roll t).mem.words = s.mem.words := by
  unfold State.roll
  dsimp only
  split
  · split
    · split
      · rfl
      · split
        · next hv => have hu := takeRoom_words _ _ _ _ hv; simp at hu; simpa using hu
        · simp
    · rfl
  · rfl

@[simp] theorem wrapTrack_words (t) (s : State) : (s.wrapTrack t).mem.words = s.mem.words := by simp [State.wrapTrack]

@[simp] theorem liveOne_words (fr i) (s : State) : (s.liveOne fr i).mem.words = s.mem.words := by unfold State.liveOne; (try dsimp only); (repeat' split) <;> first | (simp; done) | rfl

@[simp] theorem liveAll_words (fr l) (s : State) : (s.liveAll fr l).mem.words = s.mem.words := by
  induction l generalizing s with
  | nil => rfl
  | cons x l ih => simp [State.liveAll, ih]

@[simp] theorem overtakeAll_words (pl l) (s : State) : (s.overtakeAll pl l).mem.words = s.mem.words := by
  induction l generalizing s with
  | nil => rfl
  | cons x l ih => simp [State.overtakeAll, ih]

@[simp] theorem captureArrival_words (pl fr ord) (s : State) : (s.captureArrival pl fr ord).mem.words = s.mem.words := by unfold State.captureArrival; (try dsimp only); (repeat' split) <;> first | (simp; done) | rfl

@[simp] theorem closeLimits_words (l) (s : State) : (s.closeLimits l).mem.words = s.mem.words := by
  induction l generalizing s with
  | nil => rfl
  | cons x l ih => unfold State.closeLimits; split <;> simp [ih]

@[simp] theorem closeTracks_words (k stop l) (s : State) : (s.closeTracks k stop l).mem.words = s.mem.words := by
  induction l generalizing s with
  | nil => rfl
  | cons x l ih => simp [State.closeTracks, ih]

@[simp] theorem pauseCycle_words (s : State) : (s.pauseCycle).mem.words = s.mem.words := by simp [State.pauseCycle]

@[simp] theorem actStopAll_words (k) (s : State) : (s.actStopAll k).mem.words = s.mem.words := by unfold State.actStopAll; (try dsimp only); (repeat' split) <;> first | (simp; done) | rfl

theorem actPlayAll_ok_words (s u : State) (h : s.actPlayAll = .ok u) : u.mem.words = s.mem.words := by
  unfold State.actPlayAll at h; (try dsimp only at h); (repeat' split at h) <;> simp at h <;> (subst h; simp)

theorem act_ok_words (x t k) (s u : State) (h : s.act x t k = .ok u) : u.mem.words = s.mem.words := by
  unfold State.act at h
  split at h
  · exact actRecord_ok_words _ _ _ _ h
  · exact actLayer_ok_words _ _ _ _ _ h
  · exact actLayer_ok_words _ _ _ _ _ h
  · exact actClose_ok_words _ _ _ _ h
  · injection h with h; subst h; simp
  · injection h with h; subst h; simp
  · exact actUndo_ok_words _ _ _ h
  · exact actRedo_ok_words _ _ _ h
  · injection h with h; subst h; simp
  · exact actPlayAll_ok_words _ _ h
  · simp at h

@[simp] theorem actAtOnce_words (x t e) (s : State) : (s.actAtOnce x t e).1.mem.words = s.mem.words := by
  unfold State.actAtOnce
  dsimp only
  split
  · rfl
  · next u hu =>
    have hu' := act_ok_words _ _ _ _ _ hu
    (repeat' split) <;> simp_all

@[simp] theorem quantised_words (q x t u pr) (s : State) : (s.quantised q x t u pr).1.mem.words = s.mem.words := by
  unfold State.quantised
  split <;> first | (simp; done) | rfl

@[simp] theorem takeCue_words (r) (s : State) : (s.takeCue r).mem.words = s.mem.words := by
  unfold State.takeCue
  split
  · rfl
  · split
    · dsimp only
      split
      · next u hu => have hu' := act_ok_words _ _ _ _ _ hu; simpa using hu'
      · simp
    · rfl

@[simp] theorem takeCues_words (r : Reached) (n : Nat) (s : State) : (State.takeCues r n s).mem.words = s.mem.words := by
  induction n generalizing s with
  | zero => rfl
  | succ n ih => simp [State.takeCues, ih]

@[simp] theorem wrapAll_words (l) (s : State) : (s.wrapAll l).mem.words = s.mem.words := by
  induction l generalizing s with
  | nil => rfl
  | cons x l ih => simp [State.wrapAll, ih]

@[simp] theorem boundaryWork_words (r : Reached) (l : List (Option TrackId)) (w : List TrackId) (s : State) :
    (State.boundaryWork r l w s).mem.words = s.mem.words := by
  induction l generalizing s w with
  | nil => simp [State.boundaryWork]
  | cons x l ih =>
    cases x with
    | none => simp [State.boundaryWork, ih]
    | some t => unfold State.boundaryWork; split <;> simp [ih]

@[simp] theorem actTap_words (stamp) (s : State) : (s.actTap stamp).1.mem.words = s.mem.words := by unfold State.actTap; (try dsimp only); (repeat' split) <;> first | (simp; done) | rfl

@[simp] theorem noteRecent_words (q t x pr an) (s : State) : (s.noteRecent q t x pr an).mem.words = s.mem.words := by unfold State.noteRecent; (try dsimp only); (repeat' split) <;> first | (simp; done) | rfl

@[simp] theorem resolved_words (q t x u pr) (s : State) : (s.resolved q t x u pr).1.mem.words = s.mem.words := by
  unfold State.resolved
  split
  · rfl
  · dsimp only
    (repeat' split) <;> simp

@[simp] theorem toggle_words (q t x u pr) (s : State) : (s.toggle q t x u pr).1.mem.words = s.mem.words := by unfold State.toggle; (try dsimp only); (repeat' split) <;> first | (simp; done) | rfl

@[simp] theorem handCue_words (q x t u pr) (s : State) : (s.handCue q x t u pr).1.mem.words = s.mem.words := by simp [State.handCue]

@[simp] theorem selectTo_words (q t) (s : State) : (s.selectTo q t).mem.words = s.mem.words := by simp [State.selectTo]

@[simp] theorem handOn_words (q : Port) (x : SwAction) (t : TrackId) (u : Quantum) (pr : PressTime) (s : State) :
    (State.handOn q x t u pr s).1.1.mem.words = s.mem.words := by
  cases x <;> simp [State.handOn]

@[simp] theorem issue_words (q c k x t u pr) (s : State) : (s.issue q c k x t u pr).mem.words = s.mem.words := by unfold State.issue; (try dsimp only); (repeat' split) <;> first | (simp; done) | rfl

@[simp] theorem setMachine_words (q c m) (s : State) : (s.setMachine q c m).mem.words = s.mem.words := by simp [State.setMachine]

@[simp] theorem switchDown_words (q c) (s : State) : (s.switchDown q c).1.mem.words = s.mem.words := by unfold State.switchDown; (try dsimp only); (repeat' split) <;> first | (simp; done) | rfl

@[simp] theorem switchUp_words (q c) (s : State) : (s.switchUp q c).1.mem.words = s.mem.words := by unfold State.switchUp; (try dsimp only); (repeat' split) <;> first | (simp; done) | rfl

@[simp] theorem holdDue_words (q c) (s : State) : (s.holdDue q c).mem.words = s.mem.words := by unfold State.holdDue; (try dsimp only); (repeat' split) <;> first | (simp; done) | rfl

@[simp] theorem windowDue_words (q c) (s : State) : (s.windowDue q c).mem.words = s.mem.words := by unfold State.windowDue; (try dsimp only); (repeat' split) <;> first | (simp; done) | rfl

@[simp] theorem layerSample_words (id k) (s : State) : (s.layerSample id k).1.mem.words = s.mem.words := by unfold State.layerSample; (try dsimp only); (repeat' split) <;> first | (simp; done) | rfl

@[simp] theorem layerPart_words (q id cs) (s : State) : (s.layerPart q id cs).1.mem.words = s.mem.words := by unfold State.layerPart; (try dsimp only); (repeat' split) <;> first | (simp; done) | rfl

@[simp] theorem sumLayers_words (t : TrackId) (q : Nat) (l : List Nat) (s : State) :
    (State.sumLayers t q l s).1.mem.words = s.mem.words := by
  induction l generalizing s with
  | nil => rfl
  | cons x l ih => simp [State.sumLayers, ih]

@[simp] theorem trackSum_words (t) (s : State) : (s.trackSum t).1.mem.words = s.mem.words := by unfold State.trackSum; (try dsimp only); (repeat' split) <;> first | (simp; done) | rfl

@[simp] theorem trackSums_words (l : List TrackId) (s : State) : (State.trackSums l s).1.mem.words = s.mem.words := by
  induction l generalizing s with
  | nil => rfl
  | cons x l ih => simp [State.trackSums, ih]

@[simp] theorem moveRamps_words (s : State) : (s.moveRamps).mem.words = s.mem.words := rfl

@[simp] theorem clip_words (ear r) (s : State) : (s.clip ear r).mem.words = s.mem.words := by unfold State.clip; (try dsimp only); (repeat' split) <;> first | (simp; done) | rfl

@[simp] theorem mix_words (fr pl b) (s : State) : (s.mix fr pl b).mem.words = s.mem.words := by unfold State.mix; (try dsimp only); (repeat' split) <;> first | (simp; done) | rfl

@[simp] theorem mixSilence_words (s : State) : (s.mixSilence).mem.words = s.mem.words := rfl

@[simp] theorem discardImport_words (id cause) (s : State) : (s.discardImport id cause).mem.words = s.mem.words := by unfold State.discardImport; (try dsimp only); (repeat' split) <;> first | (simp; done) | rfl

@[simp] theorem requestCommit_words (p) (s : State) : (s.requestCommit p).mem.words = s.mem.words := by
  unfold State.requestCommit
  split
  · rfl
  · split
    · rfl
    · dsimp only
      split
      · split
        · next u hu => have hu' := allocate_words _ _ _ hu; simpa using hu'
        · simp
      · simp

@[simp] theorem settleWrite_words (p) (s : State) : (s.settleWrite p).mem.words = s.mem.words := by unfold State.settleWrite; (try dsimp only); (repeat' split) <;> first | (simp; done) | rfl

@[simp] theorem settleWait_words (who) (s : State) : (s.settleWait who).mem.words = s.mem.words := by unfold State.settleWait; (try dsimp only); (repeat' split) <;> first | (simp; done) | rfl

@[simp] theorem settle_words (s : State) : (s.settle).mem.words = s.mem.words := by simp [State.settle]

@[simp] theorem discardImports_words (cause l) (s : State) : (s.discardImports cause l).mem.words = s.mem.words := by
  induction l generalizing s with
  | nil => rfl
  | cons x l ih => simp [State.discardImports, ih]

@[simp] theorem abandonRunningFold_words (cause) (s : State) : (s.abandonRunningFold cause).mem.words = s.mem.words := by unfold State.abandonRunningFold; (try dsimp only); (repeat' split) <;> first | (simp; done) | rfl

@[simp] theorem emptyTracks_words (l) (s : State) : (s.emptyTracks l).mem.words = s.mem.words := by
  induction l generalizing s with
  | nil => rfl
  | cons x l ih => simp [State.emptyTracks, ih]

@[simp] theorem raiseEmptied_words (old l) (s : State) : (s.raiseEmptied old l).mem.words = s.mem.words := by
  induction l generalizing s with
  | nil => rfl
  | cons x l ih => unfold State.raiseEmptied; split <;> simp [ih]

@[simp] theorem clearTracks_words (s : State) : (s.clearTracks).mem.words = s.mem.words := by unfold State.clearTracks; (try dsimp only); (repeat' split) <;> first | (simp; done) | rfl

@[simp] theorem forgetRecent_words (s : State) : (s.forgetRecent).mem.words = s.mem.words := rfl

@[simp] theorem clearCycle_words (s : State) : (s.clearCycle).mem.words = s.mem.words := by simp [State.clearCycle]

@[simp] theorem actClearAll_words (s : State) : (s.actClearAll).mem.words = s.mem.words := by simp [State.actClearAll]

@[simp] theorem enterRest_words (cause d) (s : State) : (s.enterRest cause d).mem.words = s.mem.words := by simp [State.enterRest]

@[simp] theorem powerLow_words (s : State) : (s.powerLow).mem.words = s.mem.words := by simp [State.powerLow]

@[simp] theorem wakeUp_words (s : State) : (s.wakeUp).mem.words = s.mem.words := by simp [State.wakeUp]

@[simp] theorem testDone_words (s : State) : (s.testDone).mem.words = s.mem.words := by unfold State.testDone; (try dsimp only); (repeat' split) <;> first | (simp; done) | rfl

@[simp] theorem setGrant_words (g) (s : State) : (s.setGrant g).mem.words = s.mem.words := rfl

@[simp] theorem grantPlayback_words (id r) (s : State) : (s.grantPlayback id r).mem.words = s.mem.words := by unfold State.grantPlayback; (repeat' split) <;> first | (simp; done) | rfl

@[simp] theorem grantCapture_words (x rest) (s : State) : (s.grantCapture x rest).mem.words = s.mem.words := rfl

@[simp] theorem grantFold_words (s : State) : (s.grantFold).mem.words = s.mem.words := by unfold State.grantFold; (try dsimp only); (repeat' split) <;> first | (simp; done) | rfl

@[simp] theorem grantWindow_words (p) (s : State) : (s.grantWindow p).mem.words = s.mem.words := by unfold State.grantWindow; (try dsimp only); (repeat' split) <;> first | (simp; done) | rfl

@[simp] theorem grantBackground_words (x) (s : State) : (s.grantBackground x).mem.words = s.mem.words := by unfold State.grantBackground; cases x <;> simp

@[simp] theorem grantNext_words (s : State) : (s.grantNext).mem.words = s.mem.words := by unfold State.grantNext; (try dsimp only); (repeat' split) <;> first | (simp; done) | rfl

@[simp] theorem arbitrate_words (s : State) : (s.arbitrate).mem.words = s.mem.words := by unfold State.arbitrate; (try dsimp only); (repeat' split) <;> first | (simp; done) | rfl

@[simp] theorem playbackDone_words (rd cs) (s : State) : (s.playbackDone rd cs).mem.words = s.mem.words := by unfold State.playbackDone; (try dsimp only); (repeat' split) <;> first | (simp; done) | rfl

@[simp] theorem foldReadDone_words (rd nw cs) (s : State) : (s.foldReadDone rd nw cs).mem.words = s.mem.words := by unfold State.foldReadDone; (try dsimp only); (repeat' split) <;> first | (simp; done) | rfl

@[simp] theorem windowReadDone_words (p rd cs) (s : State) : (s.windowReadDone p rd cs).mem.words = s.mem.words := by unfold State.windowReadDone; (try dsimp only); (repeat' split) <;> first | (simp; done) | rfl

@[simp] theorem importDone_words (p id) (s : State) : (s.importDone p id).mem.words = s.mem.words := by unfold State.importDone; (try dsimp only); (repeat' split) <;> first | (simp; done) | rfl

@[simp] theorem completeRefresh_words (s : State) : (s.completeRefresh).mem.words = s.mem.words := by unfold State.completeRefresh; (try dsimp only); (repeat' split) <;> first | (simp; done) | rfl

@[simp] theorem completePlayback_words (cs) (s : State) : (s.completePlayback cs).mem.words = s.mem.words := by unfold State.completePlayback; (try dsimp only); (repeat' split) <;> first | (simp; done) | rfl

@[simp] theorem completeWindowRead_words (cs) (s : State) : (s.completeWindowRead cs).mem.words = s.mem.words := by unfold State.completeWindowRead; (try dsimp only); (repeat' split) <;> first | (simp; done) | rfl

@[simp] theorem lockout_words (who) (s : State) : (s.lockout who).mem.words = s.mem.words := by unfold State.lockout; (try dsimp only); (repeat' split) <;> first | (simp; done) | rfl

@[simp] theorem writeDeadline_words (s : State) : (s.writeDeadline).mem.words = s.mem.words := by unfold State.writeDeadline; (try dsimp only); (repeat' split) <;> first | (simp; done) | rfl

@[simp] theorem windowTimedOut_words (p) (s : State) : (s.windowTimedOut p).mem.words = s.mem.words := by unfold State.windowTimedOut; (try dsimp only); (repeat' split) <;> first | (simp; done) | rfl

@[simp] theorem refreshFallsDue_words (s : State) : (s.refreshFallsDue).mem.words = s.mem.words := by unfold State.refreshFallsDue; (try dsimp only); (repeat' split) <;> first | (simp; done) | rfl

@[simp] theorem testCorrected_words (n m : Nat) (s : State) : (State.testCorrected n m s).mem.words = s.mem.words := by
  induction m generalizing s with
  | zero => rfl
  | succ m ih => simp [State.testCorrected, ih]

@[simp] theorem testBlock_words (n ok) (s : State) : (s.testBlock n ok).mem.words = s.mem.words := by unfold State.testBlock; (try dsimp only); (repeat' split) <;> first | (simp; done) | rfl

@[simp] theorem finishTest_words (s : State) : (s.finishTest).mem.words = s.mem.words := by unfold State.finishTest; (try dsimp only); (repeat' split) <;> first | (simp; done) | rfl

@[simp] theorem selfRefresh_words (s : State) : (s.selfRefresh).mem.words = s.mem.words := by unfold State.selfRefresh; (try dsimp only); (repeat' split) <;> first | (simp; done) | rfl

@[simp] theorem atBoundary_words (ord r) (s : State) : (s.atBoundary ord r).mem.words = s.mem.words := by unfold State.atBoundary; (try dsimp only); (repeat' split) <;> first | (simp; done) | rfl

@[simp] theorem arrivalWork_words (ord fr r) (s : State) : (s.arrivalWork ord fr r).mem.words = s.mem.words := by unfold State.arrivalWork; (try dsimp only); (repeat' split) <;> first | (simp; done) | rfl

@[simp] theorem arriveRun_words (ord fr) (s : State) : (s.arriveRun ord fr).1.mem.words = s.mem.words := by simp [State.arriveRun]

@[simp] theorem arrive_words (ord fr) (s : State) : (s.arrive ord fr).1.mem.words = s.mem.words := by unfold State.arrive; (try dsimp only); (repeat' split) <;> first | (simp; done) | rfl

@[simp] theorem raiseAt_words (k d r) (s : State) : (s.raiseAt k d r).mem.words = s.mem.words := rfl

@[simp] theorem audioBack_words (r) (s : State) : (s.audioBack r).mem.words = s.mem.words := by unfold State.audioBack; (try dsimp only); (repeat' split) <;> first | (simp; done) | rfl

@[simp] theorem linkError_words (r) (s : State) : (s.linkError r).mem.words = s.mem.words := by unfold State.linkError; (try dsimp only); (repeat' split) <;> first | (simp; done) | rfl

@[simp] theorem closeFrame_words (n bits ord) (s : State) : (s.closeFrame n bits ord).mem.words = s.mem.words := by unfold State.closeFrame; (try dsimp only); (repeat' split) <;> first | (simp; done) | rfl

@[simp] theorem frameSync_words (n bits ord) (s : State) : (s.frameSync n bits ord).mem.words = s.mem.words := by unfold State.frameSync; (try dsimp only); (repeat' split) <;> first | (simp; done) | rfl

@[simp] theorem watchdog_words (s : State) : (s.watchdog).mem.words = s.mem.words := by unfold State.watchdog; (try dsimp only); (repeat' split) <;> first | (simp; done) | rfl

@[simp] theorem shiftRequest_words (p n) (s : State) : (s.shiftRequest p n).mem.words = s.mem.words := by simp [State.shiftRequest]

@[simp] theorem refuse_words (h code st) (s : State) : (s.refuse h code st).mem.words = s.mem.words := by simp [State.refuse]

@[simp] theorem beginTransfer_words (p k) (s : State) : (s.beginTransfer p k).mem.words = s.mem.words := by simp [State.beginTransfer]

@[simp] theorem endTransfer_words (p) (s : State) : (s.endTransfer p).mem.words = s.mem.words := by simp [State.endTransfer]

@[simp] theorem shiftOut_words (p t x) (s : State) : (s.shiftOut p t x).mem.words = s.mem.words := by simp [State.shiftOut]

@[simp] theorem departHead_words (p) (s : State) : (s.departHead p).mem.words = s.mem.words := by simp [State.departHead]

@[simp] theorem replyByte_words (p) (s : State) : (s.replyByte p).mem.words = s.mem.words := by unfold State.replyByte; (try dsimp only); (repeat' split) <;> first | (simp; done) | rfl

@[simp] theorem eventByte_words (p t left j) (s : State) : (s.eventByte p t left j).mem.words = s.mem.words := by unfold State.eventByte; (try dsimp only); (repeat' split) <;> first | (simp; done) | rfl

@[simp] theorem eventsByte_words (p) (s : State) : (s.eventsByte p).mem.words = s.mem.words := by unfold State.eventsByte; (try dsimp only); (repeat' split) <;> first | (simp; done) | rfl

@[simp] theorem reportFlag_words (p flag) (s : State) : (s.reportFlag p flag).mem.words = s.mem.words := by unfold State.reportFlag; (try dsimp only); (repeat' split) <;> first | (simp; done) | rfl

@[simp] theorem latchWindow_words (p) (s : State) : (s.latchWindow p).mem.words = s.mem.words := by unfold State.latchWindow; (try dsimp only); (repeat' split) <;> first | (simp; done) | rfl

@[simp] theorem markShifting_words (p) (s : State) : (s.markShifting p).mem.words = s.mem.words := by unfold State.markShifting; (try dsimp only); (repeat' split) <;> first | (simp; done) | rfl

@[simp] theorem sampleByte_words (p t j) (s : State) : (s.sampleByte p t j).mem.words = s.mem.words := by unfold State.sampleByte; (try dsimp only); (repeat' split) <;> first | (simp; done) | rfl

@[simp] theorem windowReadByte_words (p) (s : State) : (s.windowReadByte p).mem.words = s.mem.words := by unfold State.windowReadByte; (try dsimp only); (repeat' split) <;> first | (simp; done) | rfl

@[simp] theorem sampleIn_words (p x w) (s : State) : (s.sampleIn p x w).mem.words = s.mem.words := by unfold State.sampleIn; (try dsimp only); (repeat' split) <;> first | (simp; done) | rfl

@[simp] theorem shiftZeros_words (p n) (s : State) : (s.shiftZeros p n).mem.words = s.mem.words := by unfold State.shiftZeros; (try dsimp only); (repeat' split) <;> first | (simp; done) | rfl

@[simp] theorem riseIf_words (p rise) (s : State) : (s.riseIf p rise).mem.words = s.mem.words := by unfold State.riseIf; (try dsimp only); (repeat' split) <;> first | (simp; done) | rfl

@[simp] theorem windowWriteByte_words (p x) (s : State) : (s.windowWriteByte p x).mem.words = s.mem.words := by unfold State.windowWriteByte; (try dsimp only); (repeat' split) <;> first | (simp; done) | rfl

@[simp] theorem windowWriteBytes_words (p l) (s : State) : (s.windowWriteBytes p l).mem.words = s.mem.words := by
  induction l generalizing s with
  | nil => rfl
  | cons x l ih => simp [State.windowWriteBytes, ih]

@[simp] theorem setMailbox_words (p n) (s : State) : (s.setMailbox p n).mem.words = s.mem.words := by simp [State.setMailbox]

@[simp] theorem shutWindow_words (p) (s : State) : (s.shutWindow p).mem.words = s.mem.words := by simp [State.shutWindow]

@[simp] theorem closeCommit_words (p w) (s : State) : (s.closeCommit p w).mem.words = s.mem.words := by unfold State.closeCommit; (try dsimp only); (repeat' split) <;> first | (simp; done) | rfl

@[simp] theorem setEntry_words (c e) (s : State) : (s.setEntry c e).mem.words = s.mem.words := rfl

@[simp] theorem setTimeout_words (p n) (s : State) : (s.setTimeout p n).mem.words = s.mem.words := by cases p <;> rfl

@[simp] theorem placeImport_words (p id i) (s : State) : (s.placeImport p id i).mem.words = s.mem.words := by simp [State.placeImport]

end Sys2Proof.Machine
end

