-- ==== Sys2Proof/Laws/KeepBurstQueue.lean ====
section
/-! SUPPORT. The write-behind queue holds at most 8 bursts, every operation (7.5). -/
namespace Sys2Proof.Machine

open Sys2Proof

set_option linter.unusedSimpArgs false
set_option linter.unusedTactic false
set_option linter.unreachableTactic false
set_option linter.unnecessarySeqFocus false

@[simp] theorem filter_within (p : Burst → Bool) (l : List Burst) (h : BurstsWithin l) : BurstsWithin (l.filter p) :=
  Nat.le_trans (List.length_filter_le _ _) h

@[simp] theorem giveBack_queue (bs xs : List Nat) (m : MemCtl) : (m.giveBack bs xs).queue = m.queue := rfl

@[simp] theorem storeBurst_queue (b : Option Nat) (o : Nat) (xs : List Sample) (m : MemCtl) : (m.storeBurst b o xs).queue = m.queue := by
  cases b <;> rfl

theorem tail_within {b : Burst} {l : List Burst} (h : BurstsWithin (b :: l)) : BurstsWithin l := by
  unfold BurstsWithin at *; simp at h; omega

@[simp] theorem setPort_bursts (p c) (s : State) (h : BurstsWithin s.mem.queue) : BurstsWithin (s.setPort p c).mem.queue := by unfold State.setPort; (try dsimp only); (repeat' split) <;> first | with_reducible exact h | (simp (maxDischargeDepth := 20) [h]; done) | (simp_all (maxDischargeDepth := 20); done)

@[simp] theorem setTrack_bursts (t tr) (s : State) (h : BurstsWithin s.mem.queue) : BurstsWithin (s.setTrack t tr).mem.queue := by unfold State.setTrack; (try dsimp only); (repeat' split) <;> first | with_reducible exact h | (simp (maxDischargeDepth := 20) [h]; done) | (simp_all (maxDischargeDepth := 20); done)

@[simp] theorem modTrack_bursts (t f) (s : State) (h : BurstsWithin s.mem.queue) : BurstsWithin (s.modTrack t f).mem.queue := by unfold State.modTrack; (try dsimp only); (repeat' split) <;> first | with_reducible exact h | (simp (maxDischargeDepth := 20) [h]; done) | (simp_all (maxDischargeDepth := 20); done)

@[simp] theorem setLayer_bursts (id l) (s : State) (h : BurstsWithin s.mem.queue) : BurstsWithin (s.setLayer id l).mem.queue := by unfold State.setLayer; (try dsimp only); (repeat' split) <;> first | with_reducible exact h | (simp (maxDischargeDepth := 20) [h]; done) | (simp_all (maxDischargeDepth := 20); done)

@[simp] theorem modLayer_bursts (id f) (s : State) (h : BurstsWithin s.mem.queue) : BurstsWithin (s.modLayer id f).mem.queue := by unfold State.modLayer; (try dsimp only); (repeat' split) <;> first | with_reducible exact h | (simp (maxDischargeDepth := 20) [h]; done) | (simp_all (maxDischargeDepth := 20); done)

@[simp] theorem setWindow_bursts (p w) (s : State) (h : BurstsWithin s.mem.queue) : BurstsWithin (s.setWindow p w).mem.queue := by unfold State.setWindow; (try dsimp only); (repeat' split) <;> first | with_reducible exact h | (simp (maxDischargeDepth := 20) [h]; done) | (simp_all (maxDischargeDepth := 20); done)

@[simp] theorem setSwitchPort_bursts (p c) (s : State) (h : BurstsWithin s.mem.queue) : BurstsWithin (s.setSwitchPort p c).mem.queue := by unfold State.setSwitchPort; (try dsimp only); (repeat' split) <;> first | with_reducible exact h | (simp (maxDischargeDepth := 20) [h]; done) | (simp_all (maxDischargeDepth := 20); done)

@[simp] theorem offerTo_bursts (p e) (s : State) (h : BurstsWithin s.mem.queue) : BurstsWithin (s.offerTo p e).mem.queue := by unfold State.offerTo; (try dsimp only); (repeat' split) <;> first | with_reducible exact h | (simp (maxDischargeDepth := 20) [h]; done) | (simp_all (maxDischargeDepth := 20); done)

@[simp] theorem raiseEvent_bursts (e) (s : State) (h : BurstsWithin s.mem.queue) : BurstsWithin (s.raiseEvent e).mem.queue := by unfold State.raiseEvent; (try dsimp only); (repeat' split) <;> first | with_reducible exact h | (simp (maxDischargeDepth := 20) [h]; done) | (simp_all (maxDischargeDepth := 20); done)

@[simp] theorem raise_bursts (k t l d) (s : State) (h : BurstsWithin s.mem.queue) : BurstsWithin (s.raise k t l d).mem.queue := by unfold State.raise; (try dsimp only); (repeat' split) <;> first | with_reducible exact h | (simp (maxDischargeDepth := 20) [h]; done) | (simp_all (maxDischargeDepth := 20); done)

@[simp] theorem takeFault_bursts (o) (s : State) (h : BurstsWithin s.mem.queue) : BurstsWithin (s.takeFault o).mem.queue := by unfold State.takeFault; (try dsimp only); (repeat' split) <;> first | with_reducible exact h | (simp (maxDischargeDepth := 20) [h]; done) | (simp_all (maxDischargeDepth := 20); done)

theorem allocate_bursts (id : Nat) (s t : State) (h : BurstsWithin s.mem.queue) (e : s.allocate id = some t) : BurstsWithin t.mem.queue := by
  unfold State.allocate at e
  split at e
  · injection e with e; subst e; simp (maxDischargeDepth := 20) [h]
  · simp at e

@[simp] theorem fillReply_bursts (p st tag code results) (s : State) (h : BurstsWithin s.mem.queue) : BurstsWithin (s.fillReply p st tag code results).mem.queue := by unfold State.fillReply; (try dsimp only); (repeat' split) <;> first | with_reducible exact h | (simp (maxDischargeDepth := 20) [h]; done) | (simp_all (maxDischargeDepth := 20); done)

@[simp] theorem completeReply_bursts (p st results) (s : State) (h : BurstsWithin s.mem.queue) : BurstsWithin (s.completeReply p st results).mem.queue := by unfold State.completeReply; (try dsimp only); (repeat' split) <;> first | with_reducible exact h | (simp (maxDischargeDepth := 20) [h]; done) | (simp_all (maxDischargeDepth := 20); done)

@[simp] theorem clearPassFlags_bursts (s : State) (h : BurstsWithin s.mem.queue) : BurstsWithin (s.clearPassFlags).mem.queue := by unfold State.clearPassFlags; (try dsimp only); (repeat' split) <;> first | with_reducible exact h | (simp (maxDischargeDepth := 20) [h]; done) | (simp_all (maxDischargeDepth := 20); done)

@[simp] theorem setCycle_bursts (c) (s : State) (h : BurstsWithin s.mem.queue) : BurstsWithin (s.setCycle c).mem.queue := by unfold State.setCycle; (try dsimp only); (repeat' split) <;> first | with_reducible exact h | (simp (maxDischargeDepth := 20) [h]; done) | (simp_all (maxDischargeDepth := 20); done)

@[simp] theorem startCycle_bursts (len d) (s : State) (h : BurstsWithin s.mem.queue) : BurstsWithin (s.startCycle len d).mem.queue := by unfold State.startCycle; (try dsimp only); (repeat' split) <;> first | with_reducible exact h | (simp (maxDischargeDepth := 20) [h]; done) | (simp_all (maxDischargeDepth := 20); done)

@[simp] theorem emptyCycle_bursts (s : State) (h : BurstsWithin s.mem.queue) : BurstsWithin (s.emptyCycle).mem.queue := by unfold State.emptyCycle; (try dsimp only); (repeat' split) <;> first | with_reducible exact h | (simp (maxDischargeDepth := 20) [h]; done) | (simp_all (maxDischargeDepth := 20); done)

@[simp] theorem closeDefining_bursts (n stop) (s : State) (h : BurstsWithin s.mem.queue) : BurstsWithin (s.closeDefining n stop).mem.queue := by unfold State.closeDefining; (try dsimp only); (repeat' split) <;> first | with_reducible exact h | (simp (maxDischargeDepth := 20) [h]; done) | (simp_all (maxDischargeDepth := 20); done)

@[simp] theorem countFrame_bursts (s : State) (h : BurstsWithin s.mem.queue) : BurstsWithin (s.countFrame).mem.queue := by unfold State.countFrame; (try dsimp only); (repeat' split) <;> first | with_reducible exact h | (simp (maxDischargeDepth := 20) [h]; done) | (simp_all (maxDischargeDepth := 20); done)

@[simp] theorem announce_bursts (r) (s : State) (h : BurstsWithin s.mem.queue) : BurstsWithin (s.announce r).mem.queue := by unfold State.announce; (try dsimp only); (repeat' split) <;> first | with_reducible exact h | (simp (maxDischargeDepth := 20) [h]; done) | (simp_all (maxDischargeDepth := 20); done)

@[simp] theorem advance_bursts (s : State) (h : BurstsWithin s.mem.queue) : BurstsWithin (s.advance).1.mem.queue := by unfold State.advance; (try dsimp only); (repeat' split) <;> first | with_reducible exact h | (simp (maxDischargeDepth := 20) [h]; done) | (simp_all (maxDischargeDepth := 20); done)

@[simp] theorem settleBuffers_bursts (s : State) (h : BurstsWithin s.mem.queue) : BurstsWithin (s.settleBuffers).mem.queue := by unfold State.settleBuffers; (try dsimp only); (repeat' split) <;> first | with_reducible exact h | (simp (maxDischargeDepth := 20) [h]; done) | (simp_all (maxDischargeDepth := 20); done)

@[simp] theorem reaim_bursts (id) (s : State) (h : BurstsWithin s.mem.queue) : BurstsWithin (s.reaim id).mem.queue := by unfold State.reaim; (try dsimp only); (repeat' split) <;> first | with_reducible exact h | (simp (maxDischargeDepth := 20) [h]; done) | (simp_all (maxDischargeDepth := 20); done)

@[simp] theorem reaimAllZero_bursts (s : State) (h : BurstsWithin s.mem.queue) : BurstsWithin (s.reaimAllZero).mem.queue := by unfold State.reaimAllZero; (try dsimp only); (repeat' split) <;> first | with_reducible exact h | (simp (maxDischargeDepth := 20) [h]; done) | (simp_all (maxDischargeDepth := 20); done)

@[simp] theorem setWait_bursts (who w) (s : State) (h : BurstsWithin s.mem.queue) : BurstsWithin (s.setWait who w).mem.queue := by unfold State.setWait; (try dsimp only); (repeat' split) <;> first | with_reducible exact h | (simp (maxDischargeDepth := 20) [h]; done) | (simp_all (maxDischargeDepth := 20); done)

@[simp] theorem loseWindow_bursts (p cause) (s : State) (h : BurstsWithin s.mem.queue) : BurstsWithin (s.loseWindow p cause).mem.queue := by unfold State.loseWindow; (try dsimp only); (repeat' split) <;> first | with_reducible exact h | (simp (maxDischargeDepth := 20) [h]; done) | (simp_all (maxDischargeDepth := 20); done)

@[simp] theorem loseWindowOn_bursts (id cause p) (s : State) (h : BurstsWithin s.mem.queue) : BurstsWithin (s.loseWindowOn id cause p).mem.queue := by unfold State.loseWindowOn; (try dsimp only); (repeat' split) <;> first | with_reducible exact h | (simp (maxDischargeDepth := 20) [h]; done) | (simp_all (maxDischargeDepth := 20); done)

@[simp] theorem loseWindowsOn_bursts (id cause) (s : State) (h : BurstsWithin s.mem.queue) : BurstsWithin (s.loseWindowsOn id cause).mem.queue := by unfold State.loseWindowsOn; (try dsimp only); (repeat' split) <;> first | with_reducible exact h | (simp (maxDischargeDepth := 20) [h]; done) | (simp_all (maxDischargeDepth := 20); done)

@[simp] theorem dropRecord_bursts (id) (s : State) (h : BurstsWithin s.mem.queue) : BurstsWithin (s.dropRecord id).mem.queue := by unfold State.dropRecord; (try dsimp only); (repeat' split) <;> first | with_reducible exact h | (simp (maxDischargeDepth := 20) [h]; done) | (simp_all (maxDischargeDepth := 20); done)



@[simp] theorem freeLayer_bursts (cause id) (s : State) (h : BurstsWithin s.mem.queue) : BurstsWithin (s.freeLayer cause id).mem.queue := by
  unfold State.freeLayer
  split
  · exact h
  · exact filter_within _ _ (dropRecord_bursts _ _ (loseWindowsOn_bursts _ _ _ h))

@[simp] theorem cutWindow_bursts (id n p) (s : State) (h : BurstsWithin s.mem.queue) : BurstsWithin (s.cutWindow id n p).mem.queue := by unfold State.cutWindow; (try dsimp only); (repeat' split) <;> first | with_reducible exact h | (simp (maxDischargeDepth := 20) [h]; done) | (simp_all (maxDischargeDepth := 20); done)

@[simp] theorem truncate_bursts (id n) (s : State) (h : BurstsWithin s.mem.queue) : BurstsWithin (s.truncate id n).mem.queue := by
  unfold State.truncate
  split
  · exact h
  · exact cutWindow_bursts _ _ _ _ (cutWindow_bursts _ _ _ _ (setLayer_bursts _ _ _ (filter_within _ _ h)))

@[simp] theorem suspectBlock_bursts (rd b) (s : State) (h : BurstsWithin s.mem.queue) : BurstsWithin (s.suspectBlock rd b).mem.queue := by unfold State.suspectBlock; (try dsimp only); (repeat' split) <;> first | with_reducible exact h | (simp (maxDischargeDepth := 20) [h]; done) | (simp_all (maxDischargeDepth := 20); done)

@[simp] theorem readChecked_bursts (who o chk rd) (s : State) (h : BurstsWithin s.mem.queue) : BurstsWithin (s.readChecked who o chk rd).1.mem.queue := by unfold State.readChecked; (try dsimp only); (repeat' split) <;> first | with_reducible exact h | (simp (maxDischargeDepth := 20) [h]; done) | (simp_all (maxDischargeDepth := 20); done)

@[simp] theorem readFrom_bursts (who : Requester) (checks : List WordCheck) (l : List Nat) (rd : Reading) (s : State)
    (h : BurstsWithin s.mem.queue) : BurstsWithin (State.readFrom who checks l rd s).1.mem.queue := by
  induction l generalizing rd s with
  | nil => exact h
  | cons i l ih => simp (maxDischargeDepth := 20) [State.readFrom, ih, h]

@[simp] theorem readRun_bursts (who checks rd) (s : State) (h : BurstsWithin s.mem.queue) : BurstsWithin (s.readRun who checks rd).1.mem.queue := by unfold State.readRun; (try dsimp only); (repeat' split) <;> first | with_reducible exact h | (simp (maxDischargeDepth := 20) [h]; done) | (simp_all (maxDischargeDepth := 20); done)

@[simp] theorem windowDone_bursts (p w) (s : State) (h : BurstsWithin s.mem.queue) : BurstsWithin (s.windowDone p w).mem.queue := by unfold State.windowDone; (try dsimp only); (repeat' split) <;> first | with_reducible exact h | (simp (maxDischargeDepth := 20) [h]; done) | (simp_all (maxDischargeDepth := 20); done)

@[simp] theorem settleRead_bursts (p) (s : State) (h : BurstsWithin s.mem.queue) : BurstsWithin (s.settleRead p).mem.queue := by unfold State.settleRead; (try dsimp only); (repeat' split) <;> first | with_reducible exact h | (simp (maxDischargeDepth := 20) [h]; done) | (simp_all (maxDischargeDepth := 20); done)

@[simp] theorem takeSample_bursts (p) (s : State) (h : BurstsWithin s.mem.queue) : BurstsWithin (s.takeSample p).mem.queue := by unfold State.takeSample; (try dsimp only); (repeat' split) <;> first | with_reducible exact h | (simp (maxDischargeDepth := 20) [h]; done) | (simp_all (maxDischargeDepth := 20); done)

@[simp] theorem reportDrop_bursts (r c) (s : State) (h : BurstsWithin s.mem.queue) : BurstsWithin (s.reportDrop r c).mem.queue := by unfold State.reportDrop; (try dsimp only); (repeat' split) <;> first | with_reducible exact h | (simp (maxDischargeDepth := 20) [h]; done) | (simp_all (maxDischargeDepth := 20); done)

@[simp] theorem removeCue_bursts (id) (s : State) (h : BurstsWithin s.mem.queue) : BurstsWithin (s.removeCue id).mem.queue := by unfold State.removeCue; (try dsimp only); (repeat' split) <;> first | with_reducible exact h | (simp (maxDischargeDepth := 20) [h]; done) | (simp_all (maxDischargeDepth := 20); done)

@[simp] theorem dropCue_bursts (r c) (s : State) (h : BurstsWithin s.mem.queue) : BurstsWithin (s.dropCue r c).mem.queue := by unfold State.dropCue; (try dsimp only); (repeat' split) <;> first | with_reducible exact h | (simp (maxDischargeDepth := 20) [h]; done) | (simp_all (maxDischargeDepth := 20); done)

@[simp] theorem dropCues_bursts (r l) (s : State) (h : BurstsWithin s.mem.queue) : BurstsWithin (s.dropCues r l).mem.queue := by
  induction l generalizing s with
  | nil => exact h
  | cons x l ih => simp (maxDischargeDepth := 20) [State.dropCues, ih, h]

@[simp] theorem dropAllCues_bursts (r) (s : State) (h : BurstsWithin s.mem.queue) : BurstsWithin (s.dropAllCues r).mem.queue := by unfold State.dropAllCues; (try dsimp only); (repeat' split) <;> first | with_reducible exact h | (simp (maxDischargeDepth := 20) [h]; done) | (simp_all (maxDischargeDepth := 20); done)

@[simp] theorem dropTrackCues_bursts (t) (s : State) (h : BurstsWithin s.mem.queue) : BurstsWithin (s.dropTrackCues t).mem.queue := by unfold State.dropTrackCues; (try dsimp only); (repeat' split) <;> first | with_reducible exact h | (simp (maxDischargeDepth := 20) [h]; done) | (simp_all (maxDischargeDepth := 20); done)

@[simp] theorem makeCue_bursts (q a t u pr ps po) (s : State) (h : BurstsWithin s.mem.queue) : BurstsWithin (s.makeCue q a t u pr ps po).1.mem.queue := by unfold State.makeCue; (try dsimp only); (repeat' split) <;> first | with_reducible exact h | (simp (maxDischargeDepth := 20) [h]; done) | (simp_all (maxDischargeDepth := 20); done)

@[simp] theorem joinCue_bursts (id p) (s : State) (h : BurstsWithin s.mem.queue) : BurstsWithin (s.joinCue id p).mem.queue := by unfold State.joinCue; (try dsimp only); (repeat' split) <;> first | with_reducible exact h | (simp (maxDischargeDepth := 20) [h]; done) | (simp_all (maxDischargeDepth := 20); done)

@[simp] theorem placeCue_bursts (q a t u pr ps po) (s : State) (h : BurstsWithin s.mem.queue) : BurstsWithin (s.placeCue q a t u pr ps po).1.mem.queue := by unfold State.placeCue; (try dsimp only); (repeat' split) <;> first | with_reducible exact h | (simp (maxDischargeDepth := 20) [h]; done) | (simp_all (maxDischargeDepth := 20); done)

@[simp] theorem supersedeSlot_bursts (t f) (s : State) (h : BurstsWithin s.mem.queue) : BurstsWithin (s.supersedeSlot t f).mem.queue := by unfold State.supersedeSlot; (try dsimp only); (repeat' split) <;> first | with_reducible exact h | (simp (maxDischargeDepth := 20) [h]; done) | (simp_all (maxDischargeDepth := 20); done)

@[simp] theorem raiseTrack_bursts (t) (s : State) (h : BurstsWithin s.mem.queue) : BurstsWithin (s.raiseTrack t).mem.queue := by unfold State.raiseTrack; (try dsimp only); (repeat' split) <;> first | with_reducible exact h | (simp (maxDischargeDepth := 20) [h]; done) | (simp_all (maxDischargeDepth := 20); done)

@[simp] theorem noteTrack_bursts (t old) (s : State) (h : BurstsWithin s.mem.queue) : BurstsWithin (s.noteTrack t old).mem.queue := by unfold State.noteTrack; (try dsimp only); (repeat' split) <;> first | with_reducible exact h | (simp (maxDischargeDepth := 20) [h]; done) | (simp_all (maxDischargeDepth := 20); done)

@[simp] theorem settleTrack_bursts (t) (s : State) (h : BurstsWithin s.mem.queue) : BurstsWithin (s.settleTrack t).mem.queue := by unfold State.settleTrack; (try dsimp only); (repeat' split) <;> first | with_reducible exact h | (simp (maxDischargeDepth := 20) [h]; done) | (simp_all (maxDischargeDepth := 20); done)

@[simp] theorem unfoldMember_bursts (id) (s : State) (h : BurstsWithin s.mem.queue) : BurstsWithin (s.unfoldMember id).mem.queue := by unfold State.unfoldMember; (try dsimp only); (repeat' split) <;> first | with_reducible exact h | (simp (maxDischargeDepth := 20) [h]; done) | (simp_all (maxDischargeDepth := 20); done)

theorem foldl_unfold_bursts (l : List Nat) (s : State) (h : BurstsWithin s.mem.queue) :
    BurstsWithin (l.foldl (fun s id => State.unfoldMember id s) s).mem.queue := by
  induction l generalizing s with
  | nil => exact h
  | cons x l ih => simp (maxDischargeDepth := 20) [ih, h]

@[simp] theorem abandonFold_bursts (cause keep) (s : State) (h : BurstsWithin s.mem.queue) : BurstsWithin (s.abandonFold cause keep).mem.queue := by unfold State.abandonFold; (try dsimp only); (repeat' split) <;> simp (maxDischargeDepth := 20) [foldl_unfold_bursts, h]

@[simp] theorem beginFoldBurst_bursts (s : State) (h : BurstsWithin s.mem.queue) : BurstsWithin (s.beginFoldBurst).mem.queue := by
  unfold State.beginFoldBurst
  split
  · exact h
  · next f hf =>
    dsimp only
    split
    · simp (maxDischargeDepth := 20) [h]
    · next u hu =>
      have hu' : BurstsWithin u.mem.queue := by
        split at hu
        · exact allocate_bursts _ _ _ h hu
        · injection hu with hu; rw [← hu]; exact h
      (repeat' split) <;> simp (maxDischargeDepth := 20) [hu'] 

@[simp] theorem settleFold_bursts (s : State) (h : BurstsWithin s.mem.queue) : BurstsWithin (s.settleFold).mem.queue := by unfold State.settleFold; (try dsimp only); (repeat' split) <;> first | with_reducible exact h | (simp (maxDischargeDepth := 20) [h]; done) | (simp_all (maxDischargeDepth := 20); done)

@[simp] theorem startFold_bursts (t i j rid rest) (s : State) (h : BurstsWithin s.mem.queue) : BurstsWithin (s.startFold t i j rid rest).mem.queue := by unfold State.startFold; (try dsimp only); (repeat' split) <;> first | with_reducible exact h | (simp (maxDischargeDepth := 20) [h]; done) | (simp_all (maxDischargeDepth := 20); done)

theorem takeRoom_bursts (t : TrackId) (s u : State) (id : Nat) (h : BurstsWithin s.mem.queue) (e : s.takeRoom t = .ok (u, id)) : BurstsWithin u.mem.queue := by
  unfold State.takeRoom at e
  split at e
  · simp at e
  · dsimp only at e
    split at e
    · simp at e; rw [← e.1]; exact h
    · split at e
      · split at e
        · split at e
          · simp at e; rw [← e.1]; simp (maxDischargeDepth := 20) [h]
          · simp at e
        · simp at e
      · simp at e

@[simp] theorem completeFold_bursts (s : State) (h : BurstsWithin s.mem.queue) : BurstsWithin (s.completeFold).mem.queue := by unfold State.completeFold; (try dsimp only); (repeat' split) <;> first | with_reducible exact h | (simp (maxDischargeDepth := 20) [h]; done) | (simp_all (maxDischargeDepth := 20); done)

@[simp] theorem endCapture_bursts (id n) (s : State) (h : BurstsWithin s.mem.queue) : BurstsWithin (s.endCapture id n).mem.queue := by unfold State.endCapture; (try dsimp only); (repeat' split) <;> first | with_reducible exact h | (simp (maxDischargeDepth := 20) [h]; done) | (simp_all (maxDischargeDepth := 20); done)

@[simp] theorem cutReads_bursts (id n) (s : State) (h : BurstsWithin s.mem.queue) : BurstsWithin (s.cutReads id n).mem.queue := by unfold State.cutReads; (try dsimp only); (repeat' split) <;> first | with_reducible exact h | (simp (maxDischargeDepth := 20) [h]; done) | (simp_all (maxDischargeDepth := 20); done)

@[simp] theorem endAt_bursts (id n) (s : State) (h : BurstsWithin s.mem.queue) : BurstsWithin (s.endAt id n).mem.queue := by unfold State.endAt; (try dsimp only); (repeat' split) <;> first | with_reducible exact h | (simp (maxDischargeDepth := 20) [h]; done) | (simp_all (maxDischargeDepth := 20); done)

@[simp] theorem raiseClosed_bursts (t id) (s : State) (h : BurstsWithin s.mem.queue) : BurstsWithin (s.raiseClosed t id).mem.queue := by unfold State.raiseClosed; (try dsimp only); (repeat' split) <;> first | with_reducible exact h | (simp (maxDischargeDepth := 20) [h]; done) | (simp_all (maxDischargeDepth := 20); done)

@[simp] theorem markFresh_bursts (b id) (s : State) (h : BurstsWithin s.mem.queue) : BurstsWithin (s.markFresh b id).mem.queue := by unfold State.markFresh; (try dsimp only); (repeat' split) <;> first | with_reducible exact h | (simp (maxDischargeDepth := 20) [h]; done) | (simp_all (maxDischargeDepth := 20); done)

@[simp] theorem discardOpen_bursts (t id) (s : State) (h : BurstsWithin s.mem.queue) : BurstsWithin (s.discardOpen t id).mem.queue := by unfold State.discardOpen; (try dsimp only); (repeat' split) <;> first | with_reducible exact h | (simp (maxDischargeDepth := 20) [h]; done) | (simp_all (maxDischargeDepth := 20); done)

@[simp] theorem closeFirst_bursts (t id n fr stop) (s : State) (h : BurstsWithin s.mem.queue) : BurstsWithin (s.closeFirst t id n fr stop).mem.queue := by unfold State.closeFirst; (try dsimp only); (repeat' split) <;> first | with_reducible exact h | (simp (maxDischargeDepth := 20) [h]; done) | (simp_all (maxDischargeDepth := 20); done)

@[simp] theorem closeLayered_bursts (t id n fr) (s : State) (h : BurstsWithin s.mem.queue) : BurstsWithin (s.closeLayered t id n fr).mem.queue := by unfold State.closeLayered; (try dsimp only); (repeat' split) <;> first | with_reducible exact h | (simp (maxDischargeDepth := 20) [h]; done) | (simp_all (maxDischargeDepth := 20); done)

@[simp] theorem closeRolled_bursts (t id n l) (s : State) (h : BurstsWithin s.mem.queue) : BurstsWithin (s.closeRolled t id n l).mem.queue := by unfold State.closeRolled; (try dsimp only); (repeat' split) <;> first | with_reducible exact h | (simp (maxDischargeDepth := 20) [h]; done) | (simp_all (maxDischargeDepth := 20); done)

@[simp] theorem closeAtRoll_bursts (t r n b) (s : State) (h : BurstsWithin s.mem.queue) : BurstsWithin (s.closeAtRoll t r n b).mem.queue := by unfold State.closeAtRoll; (try dsimp only); (repeat' split) <;> first | with_reducible exact h | (simp (maxDischargeDepth := 20) [h]; done) | (simp_all (maxDischargeDepth := 20); done)

@[simp] theorem closeOpen_bursts (t n b fr stop) (s : State) (h : BurstsWithin s.mem.queue) : BurstsWithin (s.closeOpen t n b fr stop).mem.queue := by unfold State.closeOpen; (try dsimp only); (repeat' split) <;> first | with_reducible exact h | (simp (maxDischargeDepth := 20) [h]; done) | (simp_all (maxDischargeDepth := 20); done)

@[simp] theorem closeAtCut_bursts (t k stop) (s : State) (h : BurstsWithin s.mem.queue) : BurstsWithin (s.closeAtCut t k stop).mem.queue := by unfold State.closeAtCut; (try dsimp only); (repeat' split) <;> first | with_reducible exact h | (simp (maxDischargeDepth := 20) [h]; done) | (simp_all (maxDischargeDepth := 20); done)

theorem actClose_ok_bursts (t k) (s u : State) (h : BurstsWithin s.mem.queue) (e : s.actClose t k = .ok u) : BurstsWithin u.mem.queue := by
  unfold State.actClose at e; (try dsimp only at e); (repeat' split at e) <;> simp at e <;> (subst e; simp (maxDischargeDepth := 20) [h])

@[simp] theorem actMute_bursts (t n) (s : State) (h : BurstsWithin s.mem.queue) : BurstsWithin (s.actMute t n).mem.queue := by unfold State.actMute; (try dsimp only); (repeat' split) <;> first | with_reducible exact h | (simp (maxDischargeDepth := 20) [h]; done) | (simp_all (maxDischargeDepth := 20); done)

@[simp] theorem toRedo_bursts (t id) (s : State) (h : BurstsWithin s.mem.queue) : BurstsWithin (s.toRedo t id).mem.queue := by unfold State.toRedo; (try dsimp only); (repeat' split) <;> first | with_reducible exact h | (simp (maxDischargeDepth := 20) [h]; done) | (simp_all (maxDischargeDepth := 20); done)

@[simp] theorem freeAll_bursts (cause l) (s : State) (h : BurstsWithin s.mem.queue) : BurstsWithin (s.freeAll cause l).mem.queue := by
  induction l generalizing s with
  | nil => exact h
  | cons x l ih => simp (maxDischargeDepth := 20) [State.freeAll, ih, h]

theorem actUndo_ok_bursts (t) (s u : State) (h : BurstsWithin s.mem.queue) (e : s.actUndo t = .ok u) : BurstsWithin u.mem.queue := by
  unfold State.actUndo at e
  dsimp only at e
  (repeat' split at e) <;> simp at e <;> (try (subst e; simp (maxDischargeDepth := 20) [h]))
  all_goals (repeat' split) <;> simp (maxDischargeDepth := 20) [h]

theorem actRedo_ok_bursts (t) (s u : State) (h : BurstsWithin s.mem.queue) (e : s.actRedo t = .ok u) : BurstsWithin u.mem.queue := by
  unfold State.actRedo at e; (try dsimp only at e); (repeat' split at e) <;> simp at e <;> (subst e; simp (maxDischargeDepth := 20) [h])

@[simp] theorem emptyTrack_bursts (t) (s : State) (h : BurstsWithin s.mem.queue) : BurstsWithin (s.emptyTrack t).mem.queue := by unfold State.emptyTrack; (try dsimp only); (repeat' split) <;> first | with_reducible exact h | (simp (maxDischargeDepth := 20) [h]; done) | (simp_all (maxDischargeDepth := 20); done)

@[simp] theorem forgetTrack_bursts (t) (s : State) (h : BurstsWithin s.mem.queue) : BurstsWithin (s.forgetTrack t).mem.queue := by unfold State.forgetTrack; (try dsimp only); (repeat' split) <;> first | with_reducible exact h | (simp (maxDischargeDepth := 20) [h]; done) | (simp_all (maxDischargeDepth := 20); done)

@[simp] theorem clearTrack_bursts (t) (s : State) (h : BurstsWithin s.mem.queue) : BurstsWithin (s.clearTrack t).mem.queue := by unfold State.clearTrack; (try dsimp only); (repeat' split) <;> first | with_reducible exact h | (simp (maxDischargeDepth := 20) [h]; done) | (simp_all (maxDischargeDepth := 20); done)

@[simp] theorem actClearTrack_bursts (t) (s : State) (h : BurstsWithin s.mem.queue) : BurstsWithin (s.actClearTrack t).mem.queue := by unfold State.actClearTrack; (try dsimp only); (repeat' split) <;> first | with_reducible exact h | (simp (maxDischargeDepth := 20) [h]; done) | (simp_all (maxDischargeDepth := 20); done)

@[simp] theorem writeRing_bursts (f) (s : State) (h : BurstsWithin s.mem.queue) : BurstsWithin (s.writeRing f).mem.queue := by unfold State.writeRing; (try dsimp only); (repeat' split) <;> first | with_reducible exact h | (simp (maxDischargeDepth := 20) [h]; done) | (simp_all (maxDischargeDepth := 20); done)

@[simp] theorem setRecord_bursts (i r) (s : State) (h : BurstsWithin s.mem.queue) : BurstsWithin (s.setRecord i r).mem.queue := by unfold State.setRecord; (try dsimp only); (repeat' split) <;> first | with_reducible exact h | (simp (maxDischargeDepth := 20) [h]; done) | (simp_all (maxDischargeDepth := 20); done)

@[simp] theorem refillAll_bursts (s : State) (h : BurstsWithin s.mem.queue) : BurstsWithin (s.refillAll).mem.queue := by unfold State.refillAll; (try dsimp only); (repeat' split) <;> first | with_reducible exact h | (simp (maxDischargeDepth := 20) [h]; done) | (simp_all (maxDischargeDepth := 20); done)

@[simp] theorem overrun_bursts (pl id r) (s : State) (h : BurstsWithin s.mem.queue) : BurstsWithin (s.overrun pl id r).mem.queue := by unfold State.overrun; (try dsimp only); (repeat' split) <;> first | with_reducible exact h | (simp (maxDischargeDepth := 20) [h]; done) | (simp_all (maxDischargeDepth := 20); done)

@[simp] theorem cutClosed_bursts (id n) (s : State) (h : BurstsWithin s.mem.queue) : BurstsWithin (s.cutClosed id n).mem.queue := by unfold State.cutClosed; (try dsimp only); (repeat' split) <;> first | with_reducible exact h | (simp (maxDischargeDepth := 20) [h]; done) | (simp_all (maxDischargeDepth := 20); done)

@[simp] theorem exhaust_bursts (id n) (s : State) (h : BurstsWithin s.mem.queue) : BurstsWithin (s.exhaust id n).mem.queue := by unfold State.exhaust; (try dsimp only); (repeat' split) <;> first | with_reducible exact h | (simp (maxDischargeDepth := 20) [h]; done) | (simp_all (maxDischargeDepth := 20); done)

theorem allocateEach_bursts (id : Nat) (l : List Nat) (s : State) (h : BurstsWithin s.mem.queue) : BurstsWithin (State.allocateEach id l s).1.mem.queue := by
  induction l generalizing s with
  | nil => exact h
  | cons o l ih =>
    unfold State.allocateEach
    split
    · next u hu => exact ih _ (allocate_bursts _ _ _ h hu)
    · exact h

@[simp] theorem giveUp_bursts (pl id r) (s : State) (h : BurstsWithin s.mem.queue) : BurstsWithin (s.giveUp pl id r).mem.queue := by
  unfold State.giveUp
  have h' := allocateEach_bursts id (s.blocksNeeded id r) s h
  split <;> next hu => rw [hu] at h'; dsimp only at h'; simp (maxDischargeDepth := 20) [h']

@[simp] theorem handOver_bursts (i) (s : State) (h : BurstsWithin s.mem.queue) : BurstsWithin (s.handOver i).mem.queue := by
  unfold State.handOver
  split
  · exact h
  · next r hr0 =>
    split
    · simp (maxDischargeDepth := 20) [h]
    · next u hu =>
      have hu' : BurstsWithin u.mem.queue := by
        split at hu
        · exact allocate_bursts _ _ _ h hu
        · injection hu with hu; rw [← hu]; exact h
      dsimp only
      have hr := setRecord_bursts i (if r.phase = .draining ∧ r.endStamp = some r.readStamp then none else some { r with buf := [], nextOff := stampSub r.readStamp r.startStamp }) u hu'
      generalize (u.setRecord i _) = v at hr ⊢
      split
      · next hl => simp only [BurstsWithin, List.length_append, List.length_cons, List.length_nil]; omega
      · exact overrun_bursts _ _ _ _ hr

@[simp] theorem settleCapture_bursts (n : Nat) (s : State) (h : BurstsWithin s.mem.queue) : BurstsWithin (State.settleCapture n s).mem.queue := by
  induction n generalizing s with
  | zero => unfold State.settleCapture; simp (maxDischargeDepth := 20) [h]
  | succ n ih =>
    unfold State.settleCapture
    dsimp only
    (repeat' split) <;> simp (maxDischargeDepth := 20) [ih, h]

@[simp] theorem overtake_bursts (pl i) (s : State) (h : BurstsWithin s.mem.queue) : BurstsWithin (s.overtake pl i).mem.queue := by unfold State.overtake; (try dsimp only); (repeat' split) <;> first | with_reducible exact h | (simp (maxDischargeDepth := 20) [h]; done) | (simp_all (maxDischargeDepth := 20); done)

@[simp] theorem stealRecord_bursts (i) (s : State) (h : BurstsWithin s.mem.queue) : BurstsWithin (s.stealRecord i).mem.queue := by unfold State.stealRecord; (try dsimp only); (repeat' split) <;> first | with_reducible exact h | (simp (maxDischargeDepth := 20) [h]; done) | (simp_all (maxDischargeDepth := 20); done)

@[simp] theorem placeRecord_bursts (r) (s : State) (h : BurstsWithin s.mem.queue) : BurstsWithin (s.placeRecord r).mem.queue := by unfold State.placeRecord; (try dsimp only); (repeat' split) <;> first | with_reducible exact h | (simp (maxDischargeDepth := 20) [h]; done) | (simp_all (maxDischargeDepth := 20); done)

@[simp] theorem openLayer_bursts (t id l st ph dest) (s : State) (h : BurstsWithin s.mem.queue) : BurstsWithin (s.openLayer t id l st ph dest).mem.queue := by unfold State.openLayer; (try dsimp only); (repeat' split) <;> first | with_reducible exact h | (simp (maxDischargeDepth := 20) [h]; done) | (simp_all (maxDischargeDepth := 20); done)

@[simp] theorem freeRedo_bursts (t) (s : State) (h : BurstsWithin s.mem.queue) : BurstsWithin (s.freeRedo t).mem.queue := by unfold State.freeRedo; (try dsimp only); (repeat' split) <;> first | with_reducible exact h | (simp (maxDischargeDepth := 20) [h]; done) | (simp_all (maxDischargeDepth := 20); done)

@[simp] theorem startDefining_bursts (s : State) (h : BurstsWithin s.mem.queue) : BurstsWithin (s.startDefining).mem.queue := by unfold State.startDefining; (try dsimp only); (repeat' split) <;> first | with_reducible exact h | (simp (maxDischargeDepth := 20) [h]; done) | (simp_all (maxDischargeDepth := 20); done)

theorem actRecord_ok_bursts (t k) (s u : State) (h : BurstsWithin s.mem.queue) (e : s.actRecord t k = .ok u) : BurstsWithin u.mem.queue := by
  unfold State.actRecord at e
  split at e
  · simp at e
  · split at e
    · simp at e
    · next v id hv =>
      injection e with e; subst e
      simp (maxDischargeDepth := 20) [takeRoom_bursts _ _ _ _ h hv]

theorem actLayer_ok_bursts (t cv k) (s u : State) (h : BurstsWithin s.mem.queue) (e : s.actLayer t cv k = .ok u) : BurstsWithin u.mem.queue := by
  unfold State.actLayer at e
  split at e
  · split at e
    · simp at e
    · next v id hv =>
      injection e with e; subst e
      simp (maxDischargeDepth := 20) [takeRoom_bursts _ _ _ _ h hv]
  · simp at e

@[simp] theorem decayAll_bursts (n l) (s : State) (h : BurstsWithin s.mem.queue) : BurstsWithin (s.decayAll n l).mem.queue := by
  induction l generalizing s with
  | nil => exact h
  | cons x l ih => simp (maxDischargeDepth := 20) [State.decayAll, ih, h]

@[simp] theorem decayFold_bursts (t n) (s : State) (h : BurstsWithin s.mem.queue) : BurstsWithin (s.decayFold t n).mem.queue := by unfold State.decayFold; (try dsimp only); (repeat' split) <;> first | with_reducible exact h | (simp (maxDischargeDepth := 20) [h]; done) | (simp_all (maxDischargeDepth := 20); done)

@[simp] theorem retire_bursts (t id) (s : State) (h : BurstsWithin s.mem.queue) : BurstsWithin (s.retire t id).mem.queue := by unfold State.retire; (try dsimp only); (repeat' split) <;> first | with_reducible exact h | (simp (maxDischargeDepth := 20) [h]; done) | (simp_all (maxDischargeDepth := 20); done)

@[simp] theorem retireAll_bursts (t l) (s : State) (h : BurstsWithin s.mem.queue) : BurstsWithin (s.retireAll t l).mem.queue := by
  induction l generalizing s with
  | nil => exact h
  | cons x l ih => simp (maxDischargeDepth := 20) [State.retireAll, ih, h]

@[simp] theorem decayTrack_bursts (t) (s : State) (h : BurstsWithin s.mem.queue) : BurstsWithin (s.decayTrack t).mem.queue := by unfold State.decayTrack; (try dsimp only); (repeat' split) <;> first | with_reducible exact h | (simp (maxDischargeDepth := 20) [h]; done) | (simp_all (maxDischargeDepth := 20); done)

@[simp] theorem roll_bursts (t) (s : State) (h : BurstsWithin s.mem.queue) : BurstsWithin (s.roll t).mem.queue := by
  unfold State.roll
  dsimp only
  split
  · split
    · split
      · exact h
      · split
        · next v id' hv =>
          have hu : BurstsWithin v.mem.queue := by
            refine takeRoom_bursts _ _ _ _ ?_ hv
            simp (maxDischargeDepth := 20) [h]
          simp (maxDischargeDepth := 20) [hu]
        · simp (maxDischargeDepth := 20) [h]
    · exact h
  · exact h

@[simp] theorem wrapTrack_bursts (t) (s : State) (h : BurstsWithin s.mem.queue) : BurstsWithin (s.wrapTrack t).mem.queue := by unfold State.wrapTrack; (try dsimp only); (repeat' split) <;> first | with_reducible exact h | (simp (maxDischargeDepth := 20) [h]; done) | (simp_all (maxDischargeDepth := 20); done)

@[simp] theorem liveOne_bursts (fr i) (s : State) (h : BurstsWithin s.mem.queue) : BurstsWithin (s.liveOne fr i).mem.queue := by unfold State.liveOne; (try dsimp only); (repeat' split) <;> first | with_reducible exact h | (simp (maxDischargeDepth := 20) [h]; done) | (simp_all (maxDischargeDepth := 20); done)

@[simp] theorem liveAll_bursts (fr l) (s : State) (h : BurstsWithin s.mem.queue) : BurstsWithin (s.liveAll fr l).mem.queue := by
  induction l generalizing s with
  | nil => exact h
  | cons x l ih => simp (maxDischargeDepth := 20) [State.liveAll, ih, h]

@[simp] theorem overtakeAll_bursts (pl l) (s : State) (h : BurstsWithin s.mem.queue) : BurstsWithin (s.overtakeAll pl l).mem.queue := by
  induction l generalizing s with
  | nil => exact h
  | cons x l ih => simp (maxDischargeDepth := 20) [State.overtakeAll, ih, h]

@[simp] theorem captureArrival_bursts (pl fr ord) (s : State) (h : BurstsWithin s.mem.queue) : BurstsWithin (s.captureArrival pl fr ord).mem.queue := by unfold State.captureArrival; (try dsimp only); (repeat' split) <;> first | with_reducible exact h | (simp (maxDischargeDepth := 20) [h]; done) | (simp_all (maxDischargeDepth := 20); done)

@[simp] theorem closeLimits_bursts (l) (s : State) (h : BurstsWithin s.mem.queue) : BurstsWithin (s.closeLimits l).mem.queue := by
  induction l generalizing s with
  | nil => exact h
  | cons x l ih => unfold State.closeLimits; exact ih _ (by split <;> simp (maxDischargeDepth := 20) [h])

@[simp] theorem closeTracks_bursts (k stop l) (s : State) (h : BurstsWithin s.mem.queue) : BurstsWithin (s.closeTracks k stop l).mem.queue := by
  induction l generalizing s with
  | nil => exact h
  | cons x l ih => simp (maxDischargeDepth := 20) [State.closeTracks, ih, h]

@[simp] theorem pauseCycle_bursts (s : State) (h : BurstsWithin s.mem.queue) : BurstsWithin (s.pauseCycle).mem.queue := by unfold State.pauseCycle; (try dsimp only); (repeat' split) <;> first | with_reducible exact h | (simp (maxDischargeDepth := 20) [h]; done) | (simp_all (maxDischargeDepth := 20); done)

@[simp] theorem actStopAll_bursts (k) (s : State) (h : BurstsWithin s.mem.queue) : BurstsWithin (s.actStopAll k).mem.queue := by unfold State.actStopAll; (try dsimp only); (repeat' split) <;> first | with_reducible exact h | (simp (maxDischargeDepth := 20) [h]; done) | (simp_all (maxDischargeDepth := 20); done)

theorem actPlayAll_ok_bursts (s u : State) (h : BurstsWithin s.mem.queue) (e : s.actPlayAll = .ok u) : BurstsWithin u.mem.queue := by
  unfold State.actPlayAll at e; (try dsimp only at e); (repeat' split at e) <;> simp at e <;> (subst e; simp (maxDischargeDepth := 20) [h])

theorem act_ok_bursts (x t k) (s u : State) (h : BurstsWithin s.mem.queue) (e : s.act x t k = .ok u) : BurstsWithin u.mem.queue := by
  unfold State.act at e
  split at e
  · exact actRecord_ok_bursts _ _ _ _ h e
  · exact actLayer_ok_bursts _ _ _ _ _ h e
  · exact actLayer_ok_bursts _ _ _ _ _ h e
  · exact actClose_ok_bursts _ _ _ _ h e
  · injection e with e; subst e; simp (maxDischargeDepth := 20) [h]
  · injection e with e; subst e; simp (maxDischargeDepth := 20) [h]
  · exact actUndo_ok_bursts _ _ _ h e
  · exact actRedo_ok_bursts _ _ _ h e
  · injection e with e; subst e; simp (maxDischargeDepth := 20) [h]
  · exact actPlayAll_ok_bursts _ _ h e
  · simp at e

@[simp] theorem actAtOnce_bursts (x t e) (s : State) (h : BurstsWithin s.mem.queue) : BurstsWithin (s.actAtOnce x t e).1.mem.queue := by
  unfold State.actAtOnce
  dsimp only
  split
  · exact h
  · next u hu =>
    have hu' : BurstsWithin u.mem.queue := by
      refine act_ok_bursts _ _ _ _ _ ?_ hu
      split <;> simp (maxDischargeDepth := 20) [h]
    (repeat' split) <;> simp_all (maxDischargeDepth := 20)

@[simp] theorem quantised_bursts (q x t u pr) (s : State) (h : BurstsWithin s.mem.queue) : BurstsWithin (s.quantised q x t u pr).1.mem.queue := by
  unfold State.quantised
  split <;> simp (maxDischargeDepth := 20) [h]

@[simp] theorem takeCue_bursts (r) (s : State) (h : BurstsWithin s.mem.queue) : BurstsWithin (s.takeCue r).mem.queue := by
  unfold State.takeCue
  split
  · exact h
  · split
    · dsimp only
      split
      · next u hu =>
        have hu' : BurstsWithin u.mem.queue := by
          refine act_ok_bursts _ _ _ _ _ ?_ hu
          exact h
        simp (maxDischargeDepth := 20) [hu']
      · simp (maxDischargeDepth := 20) [h]
    · exact h

@[simp] theorem takeCues_bursts (r : Reached) (n : Nat) (s : State) (h : BurstsWithin s.mem.queue) : BurstsWithin (State.takeCues r n s).mem.queue := by
  induction n generalizing s with
  | zero => exact h
  | succ n ih => simp (maxDischargeDepth := 20) [State.takeCues, ih, h]

@[simp] theorem wrapAll_bursts (l) (s : State) (h : BurstsWithin s.mem.queue) : BurstsWithin (s.wrapAll l).mem.queue := by
  induction l generalizing s with
  | nil => exact h
  | cons x l ih => simp (maxDischargeDepth := 20) [State.wrapAll, ih, h]

@[simp] theorem boundaryWork_bursts (r : Reached) (l : List (Option TrackId)) (w : List TrackId) (s : State)
    (h : BurstsWithin s.mem.queue) : BurstsWithin (State.boundaryWork r l w s).mem.queue := by
  induction l generalizing s w with
  | nil => simp (maxDischargeDepth := 20) [State.boundaryWork, h]
  | cons x l ih =>
    cases x with
    | none => simp (maxDischargeDepth := 20) [State.boundaryWork, ih, h]
    | some t => unfold State.boundaryWork; split <;> simp (maxDischargeDepth := 20) [ih, h]

@[simp] theorem actTap_bursts (stamp) (s : State) (h : BurstsWithin s.mem.queue) : BurstsWithin (s.actTap stamp).1.mem.queue := by unfold State.actTap; (try dsimp only); (repeat' split) <;> first | with_reducible exact h | (simp (maxDischargeDepth := 20) [h]; done) | (simp_all (maxDischargeDepth := 20); done)

@[simp] theorem noteRecent_bursts (q t x pr an) (s : State) (h : BurstsWithin s.mem.queue) : BurstsWithin (s.noteRecent q t x pr an).mem.queue := by unfold State.noteRecent; (try dsimp only); (repeat' split) <;> first | with_reducible exact h | (simp (maxDischargeDepth := 20) [h]; done) | (simp_all (maxDischargeDepth := 20); done)

@[simp] theorem resolved_bursts (q t x u pr) (s : State) (h : BurstsWithin s.mem.queue) : BurstsWithin (s.resolved q t x u pr).1.mem.queue := by
  unfold State.resolved
  split
  · exact h
  · dsimp only
    (repeat' split) <;> simp (maxDischargeDepth := 20) [h]

@[simp] theorem toggle_bursts (q t x u pr) (s : State) (h : BurstsWithin s.mem.queue) : BurstsWithin (s.toggle q t x u pr).1.mem.queue := by unfold State.toggle; (try dsimp only); (repeat' split) <;> first | with_reducible exact h | (simp (maxDischargeDepth := 20) [h]; done) | (simp_all (maxDischargeDepth := 20); done)

@[simp] theorem handCue_bursts (q x t u pr) (s : State) (h : BurstsWithin s.mem.queue) : BurstsWithin (s.handCue q x t u pr).1.mem.queue := by unfold State.handCue; (try dsimp only); (repeat' split) <;> first | with_reducible exact h | (simp (maxDischargeDepth := 20) [h]; done) | (simp_all (maxDischargeDepth := 20); done)

@[simp] theorem selectTo_bursts (q t) (s : State) (h : BurstsWithin s.mem.queue) : BurstsWithin (s.selectTo q t).mem.queue := by unfold State.selectTo; (try dsimp only); (repeat' split) <;> first | with_reducible exact h | (simp (maxDischargeDepth := 20) [h]; done) | (simp_all (maxDischargeDepth := 20); done)

@[simp] theorem handOn_bursts (q : Port) (x : SwAction) (t : TrackId) (u : Quantum) (pr : PressTime) (s : State)
    (h : BurstsWithin s.mem.queue) : BurstsWithin (State.handOn q x t u pr s).1.1.mem.queue := by
  cases x <;> simp (maxDischargeDepth := 20) [State.handOn, h]

@[simp] theorem issue_bursts (q c k x t u pr) (s : State) (h : BurstsWithin s.mem.queue) : BurstsWithin (s.issue q c k x t u pr).mem.queue := by unfold State.issue; (try dsimp only); (repeat' split) <;> first | with_reducible exact h | (simp (maxDischargeDepth := 20) [h]; done) | (simp_all (maxDischargeDepth := 20); done)

@[simp] theorem setMachine_bursts (q c m) (s : State) (h : BurstsWithin s.mem.queue) : BurstsWithin (s.setMachine q c m).mem.queue := by unfold State.setMachine; (try dsimp only); (repeat' split) <;> first | with_reducible exact h | (simp (maxDischargeDepth := 20) [h]; done) | (simp_all (maxDischargeDepth := 20); done)

@[simp] theorem switchDown_bursts (q c) (s : State) (h : BurstsWithin s.mem.queue) : BurstsWithin (s.switchDown q c).1.mem.queue := by unfold State.switchDown; (try dsimp only); (repeat' split) <;> first | with_reducible exact h | (simp (maxDischargeDepth := 20) [h]; done) | (simp_all (maxDischargeDepth := 20); done)

@[simp] theorem switchUp_bursts (q c) (s : State) (h : BurstsWithin s.mem.queue) : BurstsWithin (s.switchUp q c).1.mem.queue := by unfold State.switchUp; (try dsimp only); (repeat' split) <;> first | with_reducible exact h | (simp (maxDischargeDepth := 20) [h]; done) | (simp_all (maxDischargeDepth := 20); done)

@[simp] theorem holdDue_bursts (q c) (s : State) (h : BurstsWithin s.mem.queue) : BurstsWithin (s.holdDue q c).mem.queue := by unfold State.holdDue; (try dsimp only); (repeat' split) <;> first | with_reducible exact h | (simp (maxDischargeDepth := 20) [h]; done) | (simp_all (maxDischargeDepth := 20); done)

@[simp] theorem windowDue_bursts (q c) (s : State) (h : BurstsWithin s.mem.queue) : BurstsWithin (s.windowDue q c).mem.queue := by unfold State.windowDue; (try dsimp only); (repeat' split) <;> first | with_reducible exact h | (simp (maxDischargeDepth := 20) [h]; done) | (simp_all (maxDischargeDepth := 20); done)

@[simp] theorem layerSample_bursts (id k) (s : State) (h : BurstsWithin s.mem.queue) : BurstsWithin (s.layerSample id k).1.mem.queue := by unfold State.layerSample; (try dsimp only); (repeat' split) <;> first | with_reducible exact h | (simp (maxDischargeDepth := 20) [h]; done) | (simp_all (maxDischargeDepth := 20); done)

@[simp] theorem layerPart_bursts (q id cs) (s : State) (h : BurstsWithin s.mem.queue) : BurstsWithin (s.layerPart q id cs).1.mem.queue := by unfold State.layerPart; (try dsimp only); (repeat' split) <;> first | with_reducible exact h | (simp (maxDischargeDepth := 20) [h]; done) | (simp_all (maxDischargeDepth := 20); done)

@[simp] theorem sumLayers_bursts (t : TrackId) (q : Nat) (l : List Nat) (s : State) (h : BurstsWithin s.mem.queue) :
    BurstsWithin (State.sumLayers t q l s).1.mem.queue := by
  induction l generalizing s with
  | nil => exact h
  | cons x l ih => simp (maxDischargeDepth := 20) [State.sumLayers, ih, h]

@[simp] theorem trackSum_bursts (t) (s : State) (h : BurstsWithin s.mem.queue) : BurstsWithin (s.trackSum t).1.mem.queue := by unfold State.trackSum; (try dsimp only); (repeat' split) <;> first | with_reducible exact h | (simp (maxDischargeDepth := 20) [h]; done) | (simp_all (maxDischargeDepth := 20); done)

@[simp] theorem trackSums_bursts (l : List TrackId) (s : State) (h : BurstsWithin s.mem.queue) : BurstsWithin (State.trackSums l s).1.mem.queue := by
  induction l generalizing s with
  | nil => exact h
  | cons x l ih => simp (maxDischargeDepth := 20) [State.trackSums, ih, h]

@[simp] theorem moveRamps_bursts (s : State) (h : BurstsWithin s.mem.queue) : BurstsWithin (s.moveRamps).mem.queue := by unfold State.moveRamps; (try dsimp only); (repeat' split) <;> first | with_reducible exact h | (simp (maxDischargeDepth := 20) [h]; done) | (simp_all (maxDischargeDepth := 20); done)

@[simp] theorem clip_bursts (ear r) (s : State) (h : BurstsWithin s.mem.queue) : BurstsWithin (s.clip ear r).mem.queue := by unfold State.clip; (try dsimp only); (repeat' split) <;> first | with_reducible exact h | (simp (maxDischargeDepth := 20) [h]; done) | (simp_all (maxDischargeDepth := 20); done)

@[simp] theorem mix_bursts (fr pl b) (s : State) (h : BurstsWithin s.mem.queue) : BurstsWithin (s.mix fr pl b).mem.queue := by unfold State.mix; (try dsimp only); (repeat' split) <;> first | with_reducible exact h | (simp (maxDischargeDepth := 20) [h]; done) | (simp_all (maxDischargeDepth := 20); done)

@[simp] theorem mixSilence_bursts (s : State) (h : BurstsWithin s.mem.queue) : BurstsWithin (s.mixSilence).mem.queue := by unfold State.mixSilence; (try dsimp only); (repeat' split) <;> first | with_reducible exact h | (simp (maxDischargeDepth := 20) [h]; done) | (simp_all (maxDischargeDepth := 20); done)

@[simp] theorem discardImport_bursts (id cause) (s : State) (h : BurstsWithin s.mem.queue) : BurstsWithin (s.discardImport id cause).mem.queue := by unfold State.discardImport; (try dsimp only); (repeat' split) <;> first | with_reducible exact h | (simp (maxDischargeDepth := 20) [h]; done) | (simp_all (maxDischargeDepth := 20); done)

@[simp] theorem requestCommit_bursts (p) (s : State) (h : BurstsWithin s.mem.queue) : BurstsWithin (s.requestCommit p).mem.queue := by
  unfold State.requestCommit
  split
  · exact h
  · split
    · exact h
    · dsimp only
      split
      · split
        · next u hu => have hu' := allocate_bursts _ _ _ h hu; simp (maxDischargeDepth := 20) [hu']
        · simp (maxDischargeDepth := 20) [h]
      · simp (maxDischargeDepth := 20) [h]

@[simp] theorem settleWrite_bursts (p) (s : State) (h : BurstsWithin s.mem.queue) : BurstsWithin (s.settleWrite p).mem.queue := by unfold State.settleWrite; (try dsimp only); (repeat' split) <;> first | with_reducible exact h | (simp (maxDischargeDepth := 20) [h]; done) | (simp_all (maxDischargeDepth := 20); done)

@[simp] theorem settleWait_bursts (who) (s : State) (h : BurstsWithin s.mem.queue) : BurstsWithin (s.settleWait who).mem.queue := by unfold State.settleWait; (try dsimp only); (repeat' split) <;> first | with_reducible exact h | (simp (maxDischargeDepth := 20) [h]; done) | (simp_all (maxDischargeDepth := 20); done)

@[simp] theorem settle_bursts (s : State) (h : BurstsWithin s.mem.queue) : BurstsWithin (s.settle).mem.queue := by unfold State.settle; (try dsimp only); (repeat' split) <;> first | with_reducible exact h | (simp (maxDischargeDepth := 20) [h]; done) | (simp_all (maxDischargeDepth := 20); done)

@[simp] theorem discardImports_bursts (cause l) (s : State) (h : BurstsWithin s.mem.queue) : BurstsWithin (s.discardImports cause l).mem.queue := by
  induction l generalizing s with
  | nil => exact h
  | cons x l ih => simp (maxDischargeDepth := 20) [State.discardImports, ih, h]

@[simp] theorem abandonRunningFold_bursts (cause) (s : State) (h : BurstsWithin s.mem.queue) : BurstsWithin (s.abandonRunningFold cause).mem.queue := by unfold State.abandonRunningFold; (try dsimp only); (repeat' split) <;> first | with_reducible exact h | (simp (maxDischargeDepth := 20) [h]; done) | (simp_all (maxDischargeDepth := 20); done)

@[simp] theorem emptyTracks_bursts (l) (s : State) (h : BurstsWithin s.mem.queue) : BurstsWithin (s.emptyTracks l).mem.queue := by
  induction l generalizing s with
  | nil => exact h
  | cons x l ih => simp (maxDischargeDepth := 20) [State.emptyTracks, ih, h]

@[simp] theorem raiseEmptied_bursts (old l) (s : State) (h : BurstsWithin s.mem.queue) : BurstsWithin (s.raiseEmptied old l).mem.queue := by
  induction l generalizing s with
  | nil => exact h
  | cons x l ih => unfold State.raiseEmptied; exact ih _ (by split <;> simp (maxDischargeDepth := 20) [h])

@[simp] theorem clearTracks_bursts (s : State) (h : BurstsWithin s.mem.queue) : BurstsWithin (s.clearTracks).mem.queue := by unfold State.clearTracks; (try dsimp only); (repeat' split) <;> first | with_reducible exact h | (simp (maxDischargeDepth := 20) [h]; done) | (simp_all (maxDischargeDepth := 20); done)

@[simp] theorem forgetRecent_bursts (s : State) (h : BurstsWithin s.mem.queue) : BurstsWithin (s.forgetRecent).mem.queue := by unfold State.forgetRecent; (try dsimp only); (repeat' split) <;> first | with_reducible exact h | (simp (maxDischargeDepth := 20) [h]; done) | (simp_all (maxDischargeDepth := 20); done)

@[simp] theorem clearCycle_bursts (s : State) (h : BurstsWithin s.mem.queue) : BurstsWithin (s.clearCycle).mem.queue := by unfold State.clearCycle; (try dsimp only); (repeat' split) <;> first | with_reducible exact h | (simp (maxDischargeDepth := 20) [h]; done) | (simp_all (maxDischargeDepth := 20); done)

@[simp] theorem actClearAll_bursts (s : State) (h : BurstsWithin s.mem.queue) : BurstsWithin (s.actClearAll).mem.queue := by unfold State.actClearAll; (try dsimp only); (repeat' split) <;> first | with_reducible exact h | (simp (maxDischargeDepth := 20) [h]; done) | (simp_all (maxDischargeDepth := 20); done)

@[simp] theorem enterRest_bursts (cause d) (s : State) (h : BurstsWithin s.mem.queue) : BurstsWithin (s.enterRest cause d).mem.queue := by unfold State.enterRest; (try dsimp only); (repeat' split) <;> first | with_reducible exact h | (simp (maxDischargeDepth := 20) [h]; done) | (simp_all (maxDischargeDepth := 20); done)

@[simp] theorem powerLow_bursts (s : State) (h : BurstsWithin s.mem.queue) : BurstsWithin (s.powerLow).mem.queue := by unfold State.powerLow; (try dsimp only); (repeat' split) <;> first | with_reducible exact h | (simp (maxDischargeDepth := 20) [h]; done) | (simp_all (maxDischargeDepth := 20); done)

@[simp] theorem wakeUp_bursts (s : State) (h : BurstsWithin s.mem.queue) : BurstsWithin (s.wakeUp).mem.queue := by unfold State.wakeUp; (try dsimp only); (repeat' split) <;> first | with_reducible exact h | (simp (maxDischargeDepth := 20) [h]; done) | (simp_all (maxDischargeDepth := 20); done)

@[simp] theorem testDone_bursts (s : State) (h : BurstsWithin s.mem.queue) : BurstsWithin (s.testDone).mem.queue := by unfold State.testDone; (try dsimp only); (repeat' split) <;> first | with_reducible exact h | (simp (maxDischargeDepth := 20) [h]; done) | (simp_all (maxDischargeDepth := 20); done)

@[simp] theorem setGrant_bursts (g) (s : State) (h : BurstsWithin s.mem.queue) : BurstsWithin (s.setGrant g).mem.queue := by unfold State.setGrant; (try dsimp only); (repeat' split) <;> first | with_reducible exact h | (simp (maxDischargeDepth := 20) [h]; done) | (simp_all (maxDischargeDepth := 20); done)

@[simp] theorem grantPlayback_bursts (id r) (s : State) (h : BurstsWithin s.mem.queue) : BurstsWithin (s.grantPlayback id r).mem.queue := by unfold State.grantPlayback; (try dsimp only); (repeat' split) <;> first | with_reducible exact h | (simp (maxDischargeDepth := 20) [h]; done) | (simp_all (maxDischargeDepth := 20); done)

@[simp] theorem grantFold_bursts (s : State) (h : BurstsWithin s.mem.queue) : BurstsWithin (s.grantFold).mem.queue := by unfold State.grantFold; (try dsimp only); (repeat' split) <;> first | with_reducible exact h | (simp (maxDischargeDepth := 20) [h]; done) | (simp_all (maxDischargeDepth := 20); done)

@[simp] theorem grantWindow_bursts (p) (s : State) (h : BurstsWithin s.mem.queue) : BurstsWithin (s.grantWindow p).mem.queue := by unfold State.grantWindow; (try dsimp only); (repeat' split) <;> first | with_reducible exact h | (simp (maxDischargeDepth := 20) [h]; done) | (simp_all (maxDischargeDepth := 20); done)

@[simp] theorem grantBackground_bursts (x) (s : State) (h : BurstsWithin s.mem.queue) : BurstsWithin (s.grantBackground x).mem.queue := by unfold State.grantBackground; (try dsimp only); (repeat' split) <;> first | with_reducible exact h | (simp (maxDischargeDepth := 20) [h]; done) | (simp_all (maxDischargeDepth := 20); done)

@[simp] theorem grantNext_bursts (s : State) (h : BurstsWithin s.mem.queue) : BurstsWithin (s.grantNext).mem.queue := by
  unfold State.grantNext
  split
  · exact h
  · split
    · simp [h]
    · split
      · simp [h]
      · split
        · next b rest hq => rw [hq] at h; exact tail_within h
        · split <;> simp [h]

@[simp] theorem arbitrate_bursts (s : State) (h : BurstsWithin s.mem.queue) : BurstsWithin (s.arbitrate).mem.queue := by unfold State.arbitrate; (try dsimp only); (repeat' split) <;> first | with_reducible exact h | (simp (maxDischargeDepth := 20) [h]; done) | (simp_all (maxDischargeDepth := 20); done)

@[simp] theorem playbackDone_bursts (rd cs) (s : State) (h : BurstsWithin s.mem.queue) : BurstsWithin (s.playbackDone rd cs).mem.queue := by unfold State.playbackDone; (try dsimp only); (repeat' split) <;> first | with_reducible exact h | (simp (maxDischargeDepth := 20) [h]; done) | (simp_all (maxDischargeDepth := 20); done)

@[simp] theorem captureDone_bursts (x blk live) (s : State) (h : BurstsWithin s.mem.queue) : BurstsWithin (s.captureDone x blk live).mem.queue := by unfold State.captureDone; (try dsimp only); (repeat' split) <;> first | with_reducible exact h | (simp (maxDischargeDepth := 20) [h]; done) | (simp_all (maxDischargeDepth := 20); done)

@[simp] theorem foldReadDone_bursts (rd nw cs) (s : State) (h : BurstsWithin s.mem.queue) : BurstsWithin (s.foldReadDone rd nw cs).mem.queue := by unfold State.foldReadDone; (try dsimp only); (repeat' split) <;> first | with_reducible exact h | (simp (maxDischargeDepth := 20) [h]; done) | (simp_all (maxDischargeDepth := 20); done)

@[simp] theorem foldWriteDone_bursts (blk o xs) (s : State) (h : BurstsWithin s.mem.queue) : BurstsWithin (s.foldWriteDone blk o xs).mem.queue := by unfold State.foldWriteDone; (try dsimp only); (repeat' split) <;> first | with_reducible exact h | (simp (maxDischargeDepth := 20) [h]; done) | (simp_all (maxDischargeDepth := 20); done)

@[simp] theorem windowReadDone_bursts (p rd cs) (s : State) (h : BurstsWithin s.mem.queue) : BurstsWithin (s.windowReadDone p rd cs).mem.queue := by unfold State.windowReadDone; (try dsimp only); (repeat' split) <;> first | with_reducible exact h | (simp (maxDischargeDepth := 20) [h]; done) | (simp_all (maxDischargeDepth := 20); done)

@[simp] theorem importDone_bursts (p id) (s : State) (h : BurstsWithin s.mem.queue) : BurstsWithin (s.importDone p id).mem.queue := by unfold State.importDone; (try dsimp only); (repeat' split) <;> first | with_reducible exact h | (simp (maxDischargeDepth := 20) [h]; done) | (simp_all (maxDischargeDepth := 20); done)

@[simp] theorem commitDone_bursts (p blk o xs) (s : State) (h : BurstsWithin s.mem.queue) : BurstsWithin (s.commitDone p blk o xs).mem.queue := by unfold State.commitDone; (try dsimp only); (repeat' split) <;> first | with_reducible exact h | (simp (maxDischargeDepth := 20) [h]; done) | (simp_all (maxDischargeDepth := 20); done)

@[simp] theorem completeRefresh_bursts (s : State) (h : BurstsWithin s.mem.queue) : BurstsWithin (s.completeRefresh).mem.queue := by unfold State.completeRefresh; (try dsimp only); (repeat' split) <;> first | with_reducible exact h | (simp (maxDischargeDepth := 20) [h]; done) | (simp_all (maxDischargeDepth := 20); done)

@[simp] theorem completePlayback_bursts (cs) (s : State) (h : BurstsWithin s.mem.queue) : BurstsWithin (s.completePlayback cs).mem.queue := by unfold State.completePlayback; (try dsimp only); (repeat' split) <;> first | with_reducible exact h | (simp (maxDischargeDepth := 20) [h]; done) | (simp_all (maxDischargeDepth := 20); done)

@[simp] theorem completeCapture_bursts (s : State) (h : BurstsWithin s.mem.queue) : BurstsWithin (s.completeCapture).mem.queue := by unfold State.completeCapture; (try dsimp only); (repeat' split) <;> first | with_reducible exact h | (simp (maxDischargeDepth := 20) [h]; done) | (simp_all (maxDischargeDepth := 20); done)

@[simp] theorem completeFoldBurst_bursts (cs) (s : State) (h : BurstsWithin s.mem.queue) : BurstsWithin (s.completeFoldBurst cs).mem.queue := by unfold State.completeFoldBurst; (try dsimp only); (repeat' split) <;> first | with_reducible exact h | (simp (maxDischargeDepth := 20) [h]; done) | (simp_all (maxDischargeDepth := 20); done)

@[simp] theorem completeWindowRead_bursts (cs) (s : State) (h : BurstsWithin s.mem.queue) : BurstsWithin (s.completeWindowRead cs).mem.queue := by unfold State.completeWindowRead; (try dsimp only); (repeat' split) <;> first | with_reducible exact h | (simp (maxDischargeDepth := 20) [h]; done) | (simp_all (maxDischargeDepth := 20); done)

@[simp] theorem completeCommit_bursts (s : State) (h : BurstsWithin s.mem.queue) : BurstsWithin (s.completeCommit).mem.queue := by unfold State.completeCommit; (try dsimp only); (repeat' split) <;> first | with_reducible exact h | (simp (maxDischargeDepth := 20) [h]; done) | (simp_all (maxDischargeDepth := 20); done)

@[simp] theorem lockout_bursts (who) (s : State) (h : BurstsWithin s.mem.queue) : BurstsWithin (s.lockout who).mem.queue := by unfold State.lockout; (try dsimp only); (repeat' split) <;> first | with_reducible exact h | (simp (maxDischargeDepth := 20) [h]; done) | (simp_all (maxDischargeDepth := 20); done)

@[simp] theorem writeDeadline_bursts (s : State) (h : BurstsWithin s.mem.queue) : BurstsWithin (s.writeDeadline).mem.queue := by
  unfold State.writeDeadline
  split
  · exact h
  · next b rest hq =>
    split
    · rw [hq] at h
      have ht := tail_within h
      dsimp only
      (repeat' split) <;> simp (maxDischargeDepth := 20) [ht]
    · exact h

@[simp] theorem windowTimedOut_bursts (p) (s : State) (h : BurstsWithin s.mem.queue) : BurstsWithin (s.windowTimedOut p).mem.queue := by unfold State.windowTimedOut; (try dsimp only); (repeat' split) <;> first | with_reducible exact h | (simp (maxDischargeDepth := 20) [h]; done) | (simp_all (maxDischargeDepth := 20); done)

@[simp] theorem refreshFallsDue_bursts (s : State) (h : BurstsWithin s.mem.queue) : BurstsWithin (s.refreshFallsDue).mem.queue := by unfold State.refreshFallsDue; (try dsimp only); (repeat' split) <;> first | with_reducible exact h | (simp (maxDischargeDepth := 20) [h]; done) | (simp_all (maxDischargeDepth := 20); done)

@[simp] theorem testCorrected_bursts (n m : Nat) (s : State) (h : BurstsWithin s.mem.queue) : BurstsWithin (State.testCorrected n m s).mem.queue := by
  induction m generalizing s with
  | zero => exact h
  | succ m ih => simp (maxDischargeDepth := 20) [State.testCorrected, ih, h]

@[simp] theorem testBlock_bursts (n ok) (s : State) (h : BurstsWithin s.mem.queue) : BurstsWithin (s.testBlock n ok).mem.queue := by unfold State.testBlock; (try dsimp only); (repeat' split) <;> first | with_reducible exact h | (simp (maxDischargeDepth := 20) [h]; done) | (simp_all (maxDischargeDepth := 20); done)

@[simp] theorem finishTest_bursts (s : State) (h : BurstsWithin s.mem.queue) : BurstsWithin (s.finishTest).mem.queue := by unfold State.finishTest; (try dsimp only); (repeat' split) <;> first | with_reducible exact h | (simp (maxDischargeDepth := 20) [h]; done) | (simp_all (maxDischargeDepth := 20); done)

@[simp] theorem selfRefresh_bursts (s : State) (h : BurstsWithin s.mem.queue) : BurstsWithin (s.selfRefresh).mem.queue := by unfold State.selfRefresh; (try dsimp only); (repeat' split) <;> first | with_reducible exact h | (simp (maxDischargeDepth := 20) [h]; done) | (simp_all (maxDischargeDepth := 20); done)

@[simp] theorem atBoundary_bursts (ord r) (s : State) (h : BurstsWithin s.mem.queue) : BurstsWithin (s.atBoundary ord r).mem.queue := by unfold State.atBoundary; (try dsimp only); (repeat' split) <;> first | with_reducible exact h | (simp (maxDischargeDepth := 20) [h]; done) | (simp_all (maxDischargeDepth := 20); done)

@[simp] theorem arrivalWork_bursts (ord fr r) (s : State) (h : BurstsWithin s.mem.queue) : BurstsWithin (s.arrivalWork ord fr r).mem.queue := by unfold State.arrivalWork; (try dsimp only); (repeat' split) <;> first | with_reducible exact h | (simp (maxDischargeDepth := 20) [h]; done) | (simp_all (maxDischargeDepth := 20); done)

@[simp] theorem arriveRun_bursts (ord fr) (s : State) (h : BurstsWithin s.mem.queue) : BurstsWithin (s.arriveRun ord fr).1.mem.queue := by unfold State.arriveRun; (try dsimp only); (repeat' split) <;> first | with_reducible exact h | (simp (maxDischargeDepth := 20) [h]; done) | (simp_all (maxDischargeDepth := 20); done)

@[simp] theorem arrive_bursts (ord fr) (s : State) (h : BurstsWithin s.mem.queue) : BurstsWithin (s.arrive ord fr).1.mem.queue := by unfold State.arrive; (try dsimp only); (repeat' split) <;> first | with_reducible exact h | (simp (maxDischargeDepth := 20) [h]; done) | (simp_all (maxDischargeDepth := 20); done)

@[simp] theorem raiseAt_bursts (k d r) (s : State) (h : BurstsWithin s.mem.queue) : BurstsWithin (s.raiseAt k d r).mem.queue := by unfold State.raiseAt; (try dsimp only); (repeat' split) <;> first | with_reducible exact h | (simp (maxDischargeDepth := 20) [h]; done) | (simp_all (maxDischargeDepth := 20); done)

@[simp] theorem audioBack_bursts (r) (s : State) (h : BurstsWithin s.mem.queue) : BurstsWithin (s.audioBack r).mem.queue := by unfold State.audioBack; (try dsimp only); (repeat' split) <;> first | with_reducible exact h | (simp (maxDischargeDepth := 20) [h]; done) | (simp_all (maxDischargeDepth := 20); done)

@[simp] theorem linkError_bursts (r) (s : State) (h : BurstsWithin s.mem.queue) : BurstsWithin (s.linkError r).mem.queue := by unfold State.linkError; (try dsimp only); (repeat' split) <;> first | with_reducible exact h | (simp (maxDischargeDepth := 20) [h]; done) | (simp_all (maxDischargeDepth := 20); done)

@[simp] theorem closeFrame_bursts (n bits ord) (s : State) (h : BurstsWithin s.mem.queue) : BurstsWithin (s.closeFrame n bits ord).mem.queue := by unfold State.closeFrame; (try dsimp only); (repeat' split) <;> first | with_reducible exact h | (simp (maxDischargeDepth := 20) [h]; done) | (simp_all (maxDischargeDepth := 20); done)

@[simp] theorem frameSync_bursts (n bits ord) (s : State) (h : BurstsWithin s.mem.queue) : BurstsWithin (s.frameSync n bits ord).mem.queue := by unfold State.frameSync; (try dsimp only); (repeat' split) <;> first | with_reducible exact h | (simp (maxDischargeDepth := 20) [h]; done) | (simp_all (maxDischargeDepth := 20); done)

@[simp] theorem watchdog_bursts (s : State) (h : BurstsWithin s.mem.queue) : BurstsWithin (s.watchdog).mem.queue := by unfold State.watchdog; (try dsimp only); (repeat' split) <;> first | with_reducible exact h | (simp (maxDischargeDepth := 20) [h]; done) | (simp_all (maxDischargeDepth := 20); done)

@[simp] theorem shiftRequest_bursts (p n) (s : State) (h : BurstsWithin s.mem.queue) : BurstsWithin (s.shiftRequest p n).mem.queue := by unfold State.shiftRequest; (try dsimp only); (repeat' split) <;> first | with_reducible exact h | (simp (maxDischargeDepth := 20) [h]; done) | (simp_all (maxDischargeDepth := 20); done)

@[simp] theorem refuse_bursts (rq code st) (s : State) (h : BurstsWithin s.mem.queue) : BurstsWithin (s.refuse rq code st).mem.queue := by unfold State.refuse; (try dsimp only); (repeat' split) <;> first | with_reducible exact h | (simp (maxDischargeDepth := 20) [h]; done) | (simp_all (maxDischargeDepth := 20); done)

@[simp] theorem beginTransfer_bursts (p k) (s : State) (h : BurstsWithin s.mem.queue) : BurstsWithin (s.beginTransfer p k).mem.queue := by unfold State.beginTransfer; (try dsimp only); (repeat' split) <;> first | with_reducible exact h | (simp (maxDischargeDepth := 20) [h]; done) | (simp_all (maxDischargeDepth := 20); done)

@[simp] theorem endTransfer_bursts (p) (s : State) (h : BurstsWithin s.mem.queue) : BurstsWithin (s.endTransfer p).mem.queue := by unfold State.endTransfer; (try dsimp only); (repeat' split) <;> first | with_reducible exact h | (simp (maxDischargeDepth := 20) [h]; done) | (simp_all (maxDischargeDepth := 20); done)

@[simp] theorem shiftOut_bursts (p t x) (s : State) (h : BurstsWithin s.mem.queue) : BurstsWithin (s.shiftOut p t x).mem.queue := by unfold State.shiftOut; (try dsimp only); (repeat' split) <;> first | with_reducible exact h | (simp (maxDischargeDepth := 20) [h]; done) | (simp_all (maxDischargeDepth := 20); done)

@[simp] theorem departHead_bursts (p) (s : State) (h : BurstsWithin s.mem.queue) : BurstsWithin (s.departHead p).mem.queue := by unfold State.departHead; (try dsimp only); (repeat' split) <;> first | with_reducible exact h | (simp (maxDischargeDepth := 20) [h]; done) | (simp_all (maxDischargeDepth := 20); done)

@[simp] theorem replyByte_bursts (p) (s : State) (h : BurstsWithin s.mem.queue) : BurstsWithin (s.replyByte p).mem.queue := by unfold State.replyByte; (try dsimp only); (repeat' split) <;> first | with_reducible exact h | (simp (maxDischargeDepth := 20) [h]; done) | (simp_all (maxDischargeDepth := 20); done)

@[simp] theorem eventByte_bursts (p t left j) (s : State) (h : BurstsWithin s.mem.queue) : BurstsWithin (s.eventByte p t left j).mem.queue := by unfold State.eventByte; (try dsimp only); (repeat' split) <;> first | with_reducible exact h | (simp (maxDischargeDepth := 20) [h]; done) | (simp_all (maxDischargeDepth := 20); done)

@[simp] theorem eventsByte_bursts (p) (s : State) (h : BurstsWithin s.mem.queue) : BurstsWithin (s.eventsByte p).mem.queue := by unfold State.eventsByte; (try dsimp only); (repeat' split) <;> first | with_reducible exact h | (simp (maxDischargeDepth := 20) [h]; done) | (simp_all (maxDischargeDepth := 20); done)

@[simp] theorem reportFlag_bursts (p flag) (s : State) (h : BurstsWithin s.mem.queue) : BurstsWithin (s.reportFlag p flag).mem.queue := by unfold State.reportFlag; (try dsimp only); (repeat' split) <;> first | with_reducible exact h | (simp (maxDischargeDepth := 20) [h]; done) | (simp_all (maxDischargeDepth := 20); done)

@[simp] theorem latchWindow_bursts (p) (s : State) (h : BurstsWithin s.mem.queue) : BurstsWithin (s.latchWindow p).mem.queue := by unfold State.latchWindow; (try dsimp only); (repeat' split) <;> first | with_reducible exact h | (simp (maxDischargeDepth := 20) [h]; done) | (simp_all (maxDischargeDepth := 20); done)

@[simp] theorem markShifting_bursts (p) (s : State) (h : BurstsWithin s.mem.queue) : BurstsWithin (s.markShifting p).mem.queue := by unfold State.markShifting; (try dsimp only); (repeat' split) <;> first | with_reducible exact h | (simp (maxDischargeDepth := 20) [h]; done) | (simp_all (maxDischargeDepth := 20); done)

@[simp] theorem sampleByte_bursts (p t j) (s : State) (h : BurstsWithin s.mem.queue) : BurstsWithin (s.sampleByte p t j).mem.queue := by unfold State.sampleByte; (try dsimp only); (repeat' split) <;> first | with_reducible exact h | (simp (maxDischargeDepth := 20) [h]; done) | (simp_all (maxDischargeDepth := 20); done)

@[simp] theorem windowReadByte_bursts (p) (s : State) (h : BurstsWithin s.mem.queue) : BurstsWithin (s.windowReadByte p).mem.queue := by unfold State.windowReadByte; (try dsimp only); (repeat' split) <;> first | with_reducible exact h | (simp (maxDischargeDepth := 20) [h]; done) | (simp_all (maxDischargeDepth := 20); done)

@[simp] theorem sampleIn_bursts (p x w) (s : State) (h : BurstsWithin s.mem.queue) : BurstsWithin (s.sampleIn p x w).mem.queue := by unfold State.sampleIn; (try dsimp only); (repeat' split) <;> first | with_reducible exact h | (simp (maxDischargeDepth := 20) [h]; done) | (simp_all (maxDischargeDepth := 20); done)

@[simp] theorem shiftZeros_bursts (p n) (s : State) (h : BurstsWithin s.mem.queue) : BurstsWithin (s.shiftZeros p n).mem.queue := by unfold State.shiftZeros; (try dsimp only); (repeat' split) <;> first | with_reducible exact h | (simp (maxDischargeDepth := 20) [h]; done) | (simp_all (maxDischargeDepth := 20); done)

@[simp] theorem riseIf_bursts (p rise) (s : State) (h : BurstsWithin s.mem.queue) : BurstsWithin (s.riseIf p rise).mem.queue := by unfold State.riseIf; (try dsimp only); (repeat' split) <;> first | with_reducible exact h | (simp (maxDischargeDepth := 20) [h]; done) | (simp_all (maxDischargeDepth := 20); done)

@[simp] theorem windowWriteByte_bursts (p x) (s : State) (h : BurstsWithin s.mem.queue) : BurstsWithin (s.windowWriteByte p x).mem.queue := by unfold State.windowWriteByte; (try dsimp only); (repeat' split) <;> first | with_reducible exact h | (simp (maxDischargeDepth := 20) [h]; done) | (simp_all (maxDischargeDepth := 20); done)

@[simp] theorem windowWriteBytes_bursts (p l) (s : State) (h : BurstsWithin s.mem.queue) : BurstsWithin (s.windowWriteBytes p l).mem.queue := by
  induction l generalizing s with
  | nil => exact h
  | cons x l ih => simp (maxDischargeDepth := 20) [State.windowWriteBytes, ih, h]

@[simp] theorem setMailbox_bursts (p n) (s : State) (h : BurstsWithin s.mem.queue) : BurstsWithin (s.setMailbox p n).mem.queue := by unfold State.setMailbox; (try dsimp only); (repeat' split) <;> first | with_reducible exact h | (simp (maxDischargeDepth := 20) [h]; done) | (simp_all (maxDischargeDepth := 20); done)

@[simp] theorem shutWindow_bursts (p) (s : State) (h : BurstsWithin s.mem.queue) : BurstsWithin (s.shutWindow p).mem.queue := by unfold State.shutWindow; (try dsimp only); (repeat' split) <;> first | with_reducible exact h | (simp (maxDischargeDepth := 20) [h]; done) | (simp_all (maxDischargeDepth := 20); done)

@[simp] theorem closeCommit_bursts (p w) (s : State) (h : BurstsWithin s.mem.queue) : BurstsWithin (s.closeCommit p w).mem.queue := by unfold State.closeCommit; (try dsimp only); (repeat' split) <;> first | with_reducible exact h | (simp (maxDischargeDepth := 20) [h]; done) | (simp_all (maxDischargeDepth := 20); done)

@[simp] theorem setEntry_bursts (c e) (s : State) (h : BurstsWithin s.mem.queue) : BurstsWithin (s.setEntry c e).mem.queue := by unfold State.setEntry; (try dsimp only); (repeat' split) <;> first | with_reducible exact h | (simp (maxDischargeDepth := 20) [h]; done) | (simp_all (maxDischargeDepth := 20); done)

@[simp] theorem setTimeout_bursts (p n) (s : State) (h : BurstsWithin s.mem.queue) : BurstsWithin (s.setTimeout p n).mem.queue := by unfold State.setTimeout; (try dsimp only); (repeat' split) <;> first | with_reducible exact h | (simp (maxDischargeDepth := 20) [h]; done) | (simp_all (maxDischargeDepth := 20); done)

@[simp] theorem placeImport_bursts (p id i) (s : State) (h : BurstsWithin s.mem.queue) : BurstsWithin (s.placeImport p id i).mem.queue := by unfold State.placeImport; (try dsimp only); (repeat' split) <;> first | with_reducible exact h | (simp (maxDischargeDepth := 20) [h]; done) | (simp_all (maxDischargeDepth := 20); done)

end Sys2Proof.Machine
end

