-- ==== Sys2Proof/Laws/KeepCycle.lean ====
section
/-! SUPPORT. The cycle timer stays within its ranges, every operation (1.1). -/
namespace Sys2Proof.Machine

open Sys2Proof

set_option linter.unusedTactic false
set_option linter.unreachableTactic false
set_option linter.unnecessarySeqFocus false

set_option linter.unusedSimpArgs false

theorem setCycle_cycle (c : Cycle) (s : State) (_h : CycleInRange s.cycle)
    (hc : CycleInRange { c with gen := s.cycle.gen }) : CycleInRange (s.setCycle c).cycle := by
  unfold State.setCycle
  split
  · exact hc
  · exact ⟨hc.1, hc.2, hc.3, hc.4, hc.5, Nat.mod_lt _ (by decide), hc.7, hc.8, hc.9, hc.10, hc.11, hc.12, hc.13⟩

theorem CycleInRange.noLen {c : Cycle} (h : CycleInRange c) (hs : c.state = .empty ∨ c.state = .defining) : c.len = none := by
  cases hl : c.len with
  | none => rfl
  | some n => have := h.present.mp (by simp [hl]); rcases hs with hs | hs <;> simp [hs] at this

theorem CycleInRange.noOrigin {c : Cycle} (h : CycleInRange c) (hs : c.state ≠ .running) : c.origin = false := by
  cases ho : c.origin with
  | false => rfl
  | true => exact absurd (h.origin ho) hs

theorem clampLen_le (n : Nat) : 9600 ≤ clampLen n ∧ clampLen n ≤ 2880000 := by unfold clampLen clampNat; omega

theorem tempoLen_le (a b : Nat) : 9600 ≤ tempoLen a b ∧ tempoLen a b ≤ 2880000 := clampLen_le _

theorem tapAt_count (a b : Nat) (t : TapSeq) : (t.tapAt a b).1.count ≤ 3 := by
  unfold TapSeq.tapAt
  dsimp only
  (repeat' split) <;> simp [TapSeq.empty]
  omega

theorem tapAt_len {a b l : Nat} {t : TapSeq} (h : (t.tapAt a b).2.2 = some l) : 9600 ≤ l ∧ l ≤ 2880000 := by
  unfold TapSeq.tapAt at h
  dsimp only at h
  (repeat' split at h) <;> simp at h
  rw [← h]; exact clampLen_le _

/-- A cycle fixed at a length of 9,600 to 2,880,000 (R10 to R12). -/
theorem startCycle_cycle (len d) (s : State) (hl : 9600 ≤ len ∧ len ≤ 2880000) (h : CycleInRange s.cycle) : CycleInRange (s.startCycle len d).cycle := by
  have : CycleInRange (s.setCycle { s.cycle with state := .running, len := some len, pos := 0, pass := 0, origin := true, tap := TapSeq.empty }).cycle :=
    setCycle_cycle _ _ h ⟨h.1, h.2, h.3, by simp, h.5, h.6, by simp [TapSeq.empty], h.8, by simp; omega, by simp, by simp, by simp, by simp⟩
  exact this

@[simp] theorem emptyCycle_cycle (s : State) (h : CycleInRange s.cycle) : CycleInRange s.emptyCycle.cycle :=
  setCycle_cycle _ _ h ⟨h.1, h.2, h.3, by simp, h.5, h.6, h.7, h.8, by simp, by simp, by simp, by simp, by simp⟩

/-- The pause of a cycle whose length is fixed (R21). -/
theorem pauseCycle_cycle (s : State) (h : CycleInRange s.cycle) (hl : s.cycle.len.isSome = true) : CycleInRange s.pauseCycle.cycle := by
  have : CycleInRange (s.setCycle { s.cycle with state := .paused, pos := 0, pass := 0, origin := false }).cycle :=
    setCycle_cycle _ _ h ⟨h.1, h.2, h.3, by simp, h.5, h.6, h.7, h.8,
      fun len hn => ⟨(h.length len hn).1, (h.length len hn).2.1, by have := (h.length len hn).1; simp; omega⟩, by simp [hl], by simp, by simp, by simp⟩
  exact this

theorem move_cycle {c : Cycle} {len : Nat} (h : CycleInRange c) (hs : c.state = .running) (hl : c.len = some len) : CycleInRange (c.move len).1 := by
  have hp := h.length len hl
  unfold Cycle.move
  split
  · exact ⟨h.1, h.2, h.3, h.4, h.5, h.6, h.7, h.8, by simp [hl]; omega, h.10, by simp, by simp, by simp [hs]⟩
  · split
    · exact ⟨h.1, h.2, h.3, Nat.mod_lt _ (by decide), h.5, h.6, h.7, h.8, by simp [hl]; omega, h.10, by simp, h.12, by simp [hs]⟩
    · exact ⟨h.1, h.2, h.3, h.4, h.5, h.6, h.7, h.8, by simp [hl]; omega, h.10, by simp [hs], h.12, by simp [hs]⟩

@[simp] theorem setPort_cycle (p c) (s : State) (h : CycleInRange s.cycle) : CycleInRange (s.setPort p c).cycle := by unfold State.setPort; (try dsimp only); (repeat' split) <;> first | with_reducible exact h | (simp (maxDischargeDepth := 20) [h]; done) | (simp_all (maxDischargeDepth := 20); done)

@[simp] theorem setTrack_cycle (t tr) (s : State) (h : CycleInRange s.cycle) : CycleInRange (s.setTrack t tr).cycle := by unfold State.setTrack; (try dsimp only); (repeat' split) <;> first | with_reducible exact h | (simp (maxDischargeDepth := 20) [h]; done) | (simp_all (maxDischargeDepth := 20); done)

@[simp] theorem modTrack_cycle (t f) (s : State) (h : CycleInRange s.cycle) : CycleInRange (s.modTrack t f).cycle := by unfold State.modTrack; (try dsimp only); (repeat' split) <;> first | with_reducible exact h | (simp (maxDischargeDepth := 20) [h]; done) | (simp_all (maxDischargeDepth := 20); done)

@[simp] theorem setLayer_cycle (id l) (s : State) (h : CycleInRange s.cycle) : CycleInRange (s.setLayer id l).cycle := by unfold State.setLayer; (try dsimp only); (repeat' split) <;> first | with_reducible exact h | (simp (maxDischargeDepth := 20) [h]; done) | (simp_all (maxDischargeDepth := 20); done)

@[simp] theorem modLayer_cycle (id f) (s : State) (h : CycleInRange s.cycle) : CycleInRange (s.modLayer id f).cycle := by unfold State.modLayer; (try dsimp only); (repeat' split) <;> first | with_reducible exact h | (simp (maxDischargeDepth := 20) [h]; done) | (simp_all (maxDischargeDepth := 20); done)

@[simp] theorem setWindow_cycle (p w) (s : State) (h : CycleInRange s.cycle) : CycleInRange (s.setWindow p w).cycle := by unfold State.setWindow; (try dsimp only); (repeat' split) <;> first | with_reducible exact h | (simp (maxDischargeDepth := 20) [h]; done) | (simp_all (maxDischargeDepth := 20); done)

@[simp] theorem setSwitchPort_cycle (p c) (s : State) (h : CycleInRange s.cycle) : CycleInRange (s.setSwitchPort p c).cycle := by unfold State.setSwitchPort; (try dsimp only); (repeat' split) <;> first | with_reducible exact h | (simp (maxDischargeDepth := 20) [h]; done) | (simp_all (maxDischargeDepth := 20); done)

@[simp] theorem offerTo_cycle (p e) (s : State) (h : CycleInRange s.cycle) : CycleInRange (s.offerTo p e).cycle := by unfold State.offerTo; (try dsimp only); (repeat' split) <;> first | with_reducible exact h | (simp (maxDischargeDepth := 20) [h]; done) | (simp_all (maxDischargeDepth := 20); done)

@[simp] theorem raiseEvent_cycle (e) (s : State) (h : CycleInRange s.cycle) : CycleInRange (s.raiseEvent e).cycle := by unfold State.raiseEvent; (try dsimp only); (repeat' split) <;> first | with_reducible exact h | (simp (maxDischargeDepth := 20) [h]; done) | (simp_all (maxDischargeDepth := 20); done)

@[simp] theorem raise_cycle (k t l d) (s : State) (h : CycleInRange s.cycle) : CycleInRange (s.raise k t l d).cycle := by unfold State.raise; (try dsimp only); (repeat' split) <;> first | with_reducible exact h | (simp (maxDischargeDepth := 20) [h]; done) | (simp_all (maxDischargeDepth := 20); done)

@[simp] theorem takeFault_cycle (o) (s : State) (h : CycleInRange s.cycle) : CycleInRange (s.takeFault o).cycle := by unfold State.takeFault; (try dsimp only); (repeat' split) <;> first | with_reducible exact h | (simp (maxDischargeDepth := 20) [h]; done) | (simp_all (maxDischargeDepth := 20); done)

theorem allocate_cycle (id : Nat) (s t : State) (h : CycleInRange s.cycle) (e : s.allocate id = some t) : CycleInRange t.cycle := by
  unfold State.allocate at e
  split at e
  · injection e with e; subst e; simp (maxDischargeDepth := 20) [h]
  · simp at e

@[simp] theorem fillReply_cycle (p st tag code results) (s : State) (h : CycleInRange s.cycle) : CycleInRange (s.fillReply p st tag code results).cycle := by unfold State.fillReply; (try dsimp only); (repeat' split) <;> first | with_reducible exact h | (simp (maxDischargeDepth := 20) [h]; done) | (simp_all (maxDischargeDepth := 20); done)

@[simp] theorem completeReply_cycle (p st results) (s : State) (h : CycleInRange s.cycle) : CycleInRange (s.completeReply p st results).cycle := by unfold State.completeReply; (try dsimp only); (repeat' split) <;> first | with_reducible exact h | (simp (maxDischargeDepth := 20) [h]; done) | (simp_all (maxDischargeDepth := 20); done)

@[simp] theorem clearPassFlags_cycle (s : State) (h : CycleInRange s.cycle) : CycleInRange (s.clearPassFlags).cycle := by unfold State.clearPassFlags; (try dsimp only); (repeat' split) <;> first | with_reducible exact h | (simp (maxDischargeDepth := 20) [h]; done) | (simp_all (maxDischargeDepth := 20); done)

theorem closeDefining_cycle (n stop) (s : State) (hn : n ≤ 2880000) (h : CycleInRange s.cycle) : CycleInRange (s.closeDefining n stop).cycle := by
  unfold State.closeDefining
  split
  · exact emptyCycle_cycle _ h
  · have : CycleInRange (s.setCycle { s.cycle with state := if stop then .paused else .running, len := some n, pos := 0, pass := 0, origin := !stop }).cycle :=
      setCycle_cycle _ _ h ⟨h.1, h.2, h.3, by simp, h.5, h.6, h.7, h.8, by simp; omega, by cases stop <;> simp, by cases stop <;> simp, by cases stop <;> simp, by cases stop <;> simp⟩
    exact this

@[simp] theorem countFrame_cycle (s : State) (h : CycleInRange s.cycle) : CycleInRange (s.countFrame).cycle := by exact ⟨h.1, h.2, h.3, h.4, Nat.mod_lt _ (by decide), h.6, h.7, h.8, h.9, h.10, h.11, h.12, h.13⟩

@[simp] theorem announce_cycle (r) (s : State) (h : CycleInRange s.cycle) : CycleInRange (s.announce r).cycle := by unfold State.announce; (try dsimp only); (repeat' split) <;> first | with_reducible exact h | (simp (maxDischargeDepth := 20) [h]; done) | (simp_all (maxDischargeDepth := 20); done)

@[simp] theorem advance_cycle (s : State) (h : CycleInRange s.cycle) : CycleInRange (s.advance).1.cycle := by
  unfold State.advance
  split
  · next len hs hl =>
    have hm := move_cycle h hs hl
    dsimp only
    split <;> simp only [announce_cycle, clearPassFlags_cycle, hm]
  · next hs =>
    have hn := h.noLen (Or.inr hs)
    exact ⟨h.1, h.2, h.3, h.4, h.5, h.6, h.7, h.8, by simp [hn], h.10, by simp [hs], h.12, by simp⟩
  · exact h

@[simp] theorem settleBuffers_cycle (s : State) (h : CycleInRange s.cycle) : CycleInRange (s.settleBuffers).cycle := by unfold State.settleBuffers; (try dsimp only); (repeat' split) <;> first | with_reducible exact h | (simp (maxDischargeDepth := 20) [h]; done) | (simp_all (maxDischargeDepth := 20); done)

@[simp] theorem reaim_cycle (id) (s : State) (h : CycleInRange s.cycle) : CycleInRange (s.reaim id).cycle := by unfold State.reaim; (try dsimp only); (repeat' split) <;> first | with_reducible exact h | (simp (maxDischargeDepth := 20) [h]; done) | (simp_all (maxDischargeDepth := 20); done)

@[simp] theorem reaimAllZero_cycle (s : State) (h : CycleInRange s.cycle) : CycleInRange (s.reaimAllZero).cycle := by unfold State.reaimAllZero; (try dsimp only); (repeat' split) <;> first | with_reducible exact h | (simp (maxDischargeDepth := 20) [h]; done) | (simp_all (maxDischargeDepth := 20); done)

@[simp] theorem setWait_cycle (who w) (s : State) (h : CycleInRange s.cycle) : CycleInRange (s.setWait who w).cycle := by unfold State.setWait; (try dsimp only); (repeat' split) <;> first | with_reducible exact h | (simp (maxDischargeDepth := 20) [h]; done) | (simp_all (maxDischargeDepth := 20); done)

@[simp] theorem loseWindow_cycle (p cause) (s : State) (h : CycleInRange s.cycle) : CycleInRange (s.loseWindow p cause).cycle := by unfold State.loseWindow; (try dsimp only); (repeat' split) <;> first | with_reducible exact h | (simp (maxDischargeDepth := 20) [h]; done) | (simp_all (maxDischargeDepth := 20); done)

@[simp] theorem loseWindowOn_cycle (id cause p) (s : State) (h : CycleInRange s.cycle) : CycleInRange (s.loseWindowOn id cause p).cycle := by unfold State.loseWindowOn; (try dsimp only); (repeat' split) <;> first | with_reducible exact h | (simp (maxDischargeDepth := 20) [h]; done) | (simp_all (maxDischargeDepth := 20); done)

@[simp] theorem loseWindowsOn_cycle (id cause) (s : State) (h : CycleInRange s.cycle) : CycleInRange (s.loseWindowsOn id cause).cycle := by unfold State.loseWindowsOn; (try dsimp only); (repeat' split) <;> first | with_reducible exact h | (simp (maxDischargeDepth := 20) [h]; done) | (simp_all (maxDischargeDepth := 20); done)

@[simp] theorem dropRecord_cycle (id) (s : State) (h : CycleInRange s.cycle) : CycleInRange (s.dropRecord id).cycle := by unfold State.dropRecord; (try dsimp only); (repeat' split) <;> first | with_reducible exact h | (simp (maxDischargeDepth := 20) [h]; done) | (simp_all (maxDischargeDepth := 20); done)



@[simp] theorem freeLayer_cycle (cause id) (s : State) (h : CycleInRange s.cycle) : CycleInRange (s.freeLayer cause id).cycle := by unfold State.freeLayer; (try dsimp only); (repeat' split) <;> first | with_reducible exact h | (simp (maxDischargeDepth := 20) [h]; done) | (simp_all (maxDischargeDepth := 20); done)

@[simp] theorem cutWindow_cycle (id n p) (s : State) (h : CycleInRange s.cycle) : CycleInRange (s.cutWindow id n p).cycle := by unfold State.cutWindow; (try dsimp only); (repeat' split) <;> first | with_reducible exact h | (simp (maxDischargeDepth := 20) [h]; done) | (simp_all (maxDischargeDepth := 20); done)

@[simp] theorem truncate_cycle (id n) (s : State) (h : CycleInRange s.cycle) : CycleInRange (s.truncate id n).cycle := by unfold State.truncate; (try dsimp only); (repeat' split) <;> first | with_reducible exact h | (simp (maxDischargeDepth := 20) [h]; done) | (simp_all (maxDischargeDepth := 20); done)

@[simp] theorem suspectBlock_cycle (rd b) (s : State) (h : CycleInRange s.cycle) : CycleInRange (s.suspectBlock rd b).cycle := by unfold State.suspectBlock; (try dsimp only); (repeat' split) <;> first | with_reducible exact h | (simp (maxDischargeDepth := 20) [h]; done) | (simp_all (maxDischargeDepth := 20); done)

@[simp] theorem readChecked_cycle (who o chk rd) (s : State) (h : CycleInRange s.cycle) : CycleInRange (s.readChecked who o chk rd).1.cycle := by unfold State.readChecked; (try dsimp only); (repeat' split) <;> first | with_reducible exact h | (simp (maxDischargeDepth := 20) [h]; done) | (simp_all (maxDischargeDepth := 20); done)

@[simp] theorem readFrom_cycle (who : Requester) (checks : List WordCheck) (l : List Nat) (rd : Reading) (s : State)
    (h : CycleInRange s.cycle) : CycleInRange (State.readFrom who checks l rd s).1.cycle := by
  induction l generalizing rd s with
  | nil => exact h
  | cons i l ih => simp (maxDischargeDepth := 20) [State.readFrom, ih, h]

@[simp] theorem readRun_cycle (who checks rd) (s : State) (h : CycleInRange s.cycle) : CycleInRange (s.readRun who checks rd).1.cycle := by unfold State.readRun; (try dsimp only); (repeat' split) <;> first | with_reducible exact h | (simp (maxDischargeDepth := 20) [h]; done) | (simp_all (maxDischargeDepth := 20); done)

@[simp] theorem windowDone_cycle (p w) (s : State) (h : CycleInRange s.cycle) : CycleInRange (s.windowDone p w).cycle := by unfold State.windowDone; (try dsimp only); (repeat' split) <;> first | with_reducible exact h | (simp (maxDischargeDepth := 20) [h]; done) | (simp_all (maxDischargeDepth := 20); done)

@[simp] theorem settleRead_cycle (p) (s : State) (h : CycleInRange s.cycle) : CycleInRange (s.settleRead p).cycle := by unfold State.settleRead; (try dsimp only); (repeat' split) <;> first | with_reducible exact h | (simp (maxDischargeDepth := 20) [h]; done) | (simp_all (maxDischargeDepth := 20); done)

@[simp] theorem takeSample_cycle (p) (s : State) (h : CycleInRange s.cycle) : CycleInRange (s.takeSample p).cycle := by unfold State.takeSample; (try dsimp only); (repeat' split) <;> first | with_reducible exact h | (simp (maxDischargeDepth := 20) [h]; done) | (simp_all (maxDischargeDepth := 20); done)

@[simp] theorem reportDrop_cycle (r c) (s : State) (h : CycleInRange s.cycle) : CycleInRange (s.reportDrop r c).cycle := by unfold State.reportDrop; (try dsimp only); (repeat' split) <;> first | with_reducible exact h | (simp (maxDischargeDepth := 20) [h]; done) | (simp_all (maxDischargeDepth := 20); done)

@[simp] theorem removeCue_cycle (id) (s : State) (h : CycleInRange s.cycle) : CycleInRange (s.removeCue id).cycle := by unfold State.removeCue; (try dsimp only); (repeat' split) <;> first | with_reducible exact h | (simp (maxDischargeDepth := 20) [h]; done) | (simp_all (maxDischargeDepth := 20); done)

@[simp] theorem dropCue_cycle (r c) (s : State) (h : CycleInRange s.cycle) : CycleInRange (s.dropCue r c).cycle := by unfold State.dropCue; (try dsimp only); (repeat' split) <;> first | with_reducible exact h | (simp (maxDischargeDepth := 20) [h]; done) | (simp_all (maxDischargeDepth := 20); done)

@[simp] theorem dropCues_cycle (r l) (s : State) (h : CycleInRange s.cycle) : CycleInRange (s.dropCues r l).cycle := by
  induction l generalizing s with
  | nil => exact h
  | cons x l ih => simp (maxDischargeDepth := 20) [State.dropCues, ih, h]

@[simp] theorem dropAllCues_cycle (r) (s : State) (h : CycleInRange s.cycle) : CycleInRange (s.dropAllCues r).cycle := by unfold State.dropAllCues; (try dsimp only); (repeat' split) <;> first | with_reducible exact h | (simp (maxDischargeDepth := 20) [h]; done) | (simp_all (maxDischargeDepth := 20); done)

@[simp] theorem dropTrackCues_cycle (t) (s : State) (h : CycleInRange s.cycle) : CycleInRange (s.dropTrackCues t).cycle := by unfold State.dropTrackCues; (try dsimp only); (repeat' split) <;> first | with_reducible exact h | (simp (maxDischargeDepth := 20) [h]; done) | (simp_all (maxDischargeDepth := 20); done)

@[simp] theorem makeCue_cycle (q a t u pr ps po) (s : State) (h : CycleInRange s.cycle) : CycleInRange (s.makeCue q a t u pr ps po).1.cycle := by unfold State.makeCue; (try dsimp only); (repeat' split) <;> first | with_reducible exact h | (simp (maxDischargeDepth := 20) [h]; done) | (simp_all (maxDischargeDepth := 20); done)

@[simp] theorem joinCue_cycle (id p) (s : State) (h : CycleInRange s.cycle) : CycleInRange (s.joinCue id p).cycle := by unfold State.joinCue; (try dsimp only); (repeat' split) <;> first | with_reducible exact h | (simp (maxDischargeDepth := 20) [h]; done) | (simp_all (maxDischargeDepth := 20); done)

@[simp] theorem placeCue_cycle (q a t u pr ps po) (s : State) (h : CycleInRange s.cycle) : CycleInRange (s.placeCue q a t u pr ps po).1.cycle := by unfold State.placeCue; (try dsimp only); (repeat' split) <;> first | with_reducible exact h | (simp (maxDischargeDepth := 20) [h]; done) | (simp_all (maxDischargeDepth := 20); done)

@[simp] theorem supersedeSlot_cycle (t f) (s : State) (h : CycleInRange s.cycle) : CycleInRange (s.supersedeSlot t f).cycle := by unfold State.supersedeSlot; (try dsimp only); (repeat' split) <;> first | with_reducible exact h | (simp (maxDischargeDepth := 20) [h]; done) | (simp_all (maxDischargeDepth := 20); done)

@[simp] theorem raiseTrack_cycle (t) (s : State) (h : CycleInRange s.cycle) : CycleInRange (s.raiseTrack t).cycle := by unfold State.raiseTrack; (try dsimp only); (repeat' split) <;> first | with_reducible exact h | (simp (maxDischargeDepth := 20) [h]; done) | (simp_all (maxDischargeDepth := 20); done)

@[simp] theorem noteTrack_cycle (t old) (s : State) (h : CycleInRange s.cycle) : CycleInRange (s.noteTrack t old).cycle := by unfold State.noteTrack; (try dsimp only); (repeat' split) <;> first | with_reducible exact h | (simp (maxDischargeDepth := 20) [h]; done) | (simp_all (maxDischargeDepth := 20); done)

@[simp] theorem settleTrack_cycle (t) (s : State) (h : CycleInRange s.cycle) : CycleInRange (s.settleTrack t).cycle := by unfold State.settleTrack; (try dsimp only); (repeat' split) <;> first | with_reducible exact h | (simp (maxDischargeDepth := 20) [h]; done) | (simp_all (maxDischargeDepth := 20); done)

@[simp] theorem unfoldMember_cycle (id) (s : State) (h : CycleInRange s.cycle) : CycleInRange (s.unfoldMember id).cycle := by unfold State.unfoldMember; (try dsimp only); (repeat' split) <;> first | with_reducible exact h | (simp (maxDischargeDepth := 20) [h]; done) | (simp_all (maxDischargeDepth := 20); done)

theorem foldl_unfold_cycle (l : List Nat) (s : State) (h : CycleInRange s.cycle) :
    CycleInRange (l.foldl (fun s id => State.unfoldMember id s) s).cycle := by
  induction l generalizing s with
  | nil => exact h
  | cons x l ih => simp (maxDischargeDepth := 20) [ih, h]

@[simp] theorem abandonFold_cycle (cause keep) (s : State) (h : CycleInRange s.cycle) : CycleInRange (s.abandonFold cause keep).cycle := by unfold State.abandonFold; (try dsimp only); (repeat' split) <;> simp (maxDischargeDepth := 20) [foldl_unfold_cycle, h]

@[simp] theorem beginFoldBurst_cycle (s : State) (h : CycleInRange s.cycle) : CycleInRange (s.beginFoldBurst).cycle := by
  unfold State.beginFoldBurst
  split
  · exact h
  · next f hf =>
    dsimp only
    split
    · simp (maxDischargeDepth := 20) [h]
    · next u hu =>
      have hu' : CycleInRange u.cycle := by
        split at hu
        · exact allocate_cycle _ _ _ h hu
        · injection hu with hu; rw [← hu]; exact h
      (repeat' split) <;> simp (maxDischargeDepth := 20) [hu'] 

@[simp] theorem settleFold_cycle (s : State) (h : CycleInRange s.cycle) : CycleInRange (s.settleFold).cycle := by unfold State.settleFold; (try dsimp only); (repeat' split) <;> first | with_reducible exact h | (simp (maxDischargeDepth := 20) [h]; done) | (simp_all (maxDischargeDepth := 20); done)

@[simp] theorem startFold_cycle (t i j rid rest) (s : State) (h : CycleInRange s.cycle) : CycleInRange (s.startFold t i j rid rest).cycle := by unfold State.startFold; (try dsimp only); (repeat' split) <;> first | with_reducible exact h | (simp (maxDischargeDepth := 20) [h]; done) | (simp_all (maxDischargeDepth := 20); done)

theorem takeRoom_cycle (t : TrackId) (s u : State) (id : Nat) (h : CycleInRange s.cycle) (e : s.takeRoom t = .ok (u, id)) : CycleInRange u.cycle := by
  unfold State.takeRoom at e
  split at e
  · simp at e
  · dsimp only at e
    split at e
    · simp at e; rw [← e.1]; exact h
    · split at e
      · split at e
        · split at e
          · simp at e; rw [← e.1]; simp (maxDischargeDepth := 20) [h]
          · simp at e
        · simp at e
      · simp at e

@[simp] theorem completeFold_cycle (s : State) (h : CycleInRange s.cycle) : CycleInRange (s.completeFold).cycle := by unfold State.completeFold; (try dsimp only); (repeat' split) <;> first | with_reducible exact h | (simp (maxDischargeDepth := 20) [h]; done) | (simp_all (maxDischargeDepth := 20); done)

@[simp] theorem endCapture_cycle (id n) (s : State) (h : CycleInRange s.cycle) : CycleInRange (s.endCapture id n).cycle := by unfold State.endCapture; (try dsimp only); (repeat' split) <;> first | with_reducible exact h | (simp (maxDischargeDepth := 20) [h]; done) | (simp_all (maxDischargeDepth := 20); done)

@[simp] theorem cutReads_cycle (id n) (s : State) (h : CycleInRange s.cycle) : CycleInRange (s.cutReads id n).cycle := by unfold State.cutReads; (try dsimp only); (repeat' split) <;> first | with_reducible exact h | (simp (maxDischargeDepth := 20) [h]; done) | (simp_all (maxDischargeDepth := 20); done)

@[simp] theorem endAt_cycle (id n) (s : State) (h : CycleInRange s.cycle) : CycleInRange (s.endAt id n).cycle := by unfold State.endAt; (try dsimp only); (repeat' split) <;> first | with_reducible exact h | (simp (maxDischargeDepth := 20) [h]; done) | (simp_all (maxDischargeDepth := 20); done)

@[simp] theorem raiseClosed_cycle (t id) (s : State) (h : CycleInRange s.cycle) : CycleInRange (s.raiseClosed t id).cycle := by unfold State.raiseClosed; (try dsimp only); (repeat' split) <;> first | with_reducible exact h | (simp (maxDischargeDepth := 20) [h]; done) | (simp_all (maxDischargeDepth := 20); done)

@[simp] theorem markFresh_cycle (b id) (s : State) (h : CycleInRange s.cycle) : CycleInRange (s.markFresh b id).cycle := by unfold State.markFresh; (try dsimp only); (repeat' split) <;> first | with_reducible exact h | (simp (maxDischargeDepth := 20) [h]; done) | (simp_all (maxDischargeDepth := 20); done)

@[simp] theorem discardOpen_cycle (t id) (s : State) (h : CycleInRange s.cycle) : CycleInRange (s.discardOpen t id).cycle := by unfold State.discardOpen; (try dsimp only); (repeat' split) <;> first | with_reducible exact h | (simp (maxDischargeDepth := 20) [h]; done) | (simp_all (maxDischargeDepth := 20); done)

/-- The close of a first layer fixes the cycle at the position or less (R8, R34). -/
@[simp] theorem closeFirst_cycle (t id n fr stop) (s : State) (h : CycleInRange s.cycle) : CycleInRange (s.closeFirst t id n fr stop).cycle := by
  unfold State.closeFirst
  dsimp only
  by_cases hd : s.cycle.state = .defining
  · have hp := h.defining hd
    have hc := closeDefining_cycle (min n s.cycle.pos) stop s (by omega) h
    simp only [hd, decide_true, if_true]
    (repeat' split) <;> first | with_reducible exact hc | (simp (maxDischargeDepth := 20) [hc]; done) | (simp_all (maxDischargeDepth := 20); done)
  · simp only [hd, decide_false]
    (repeat' split) <;> first | with_reducible exact h | (simp (maxDischargeDepth := 20) [h]; done) | (simp_all (maxDischargeDepth := 20); done)

@[simp] theorem closeLayered_cycle (t id n fr) (s : State) (h : CycleInRange s.cycle) : CycleInRange (s.closeLayered t id n fr).cycle := by unfold State.closeLayered; (try dsimp only); (repeat' split) <;> first | with_reducible exact h | (simp (maxDischargeDepth := 20) [h]; done) | (simp_all (maxDischargeDepth := 20); done)

@[simp] theorem closeRolled_cycle (t id n l) (s : State) (h : CycleInRange s.cycle) : CycleInRange (s.closeRolled t id n l).cycle := by unfold State.closeRolled; (try dsimp only); (repeat' split) <;> first | with_reducible exact h | (simp (maxDischargeDepth := 20) [h]; done) | (simp_all (maxDischargeDepth := 20); done)

@[simp] theorem closeAtRoll_cycle (t r n b) (s : State) (h : CycleInRange s.cycle) : CycleInRange (s.closeAtRoll t r n b).cycle := by unfold State.closeAtRoll; (try dsimp only); (repeat' split) <;> first | with_reducible exact h | (simp (maxDischargeDepth := 20) [h]; done) | (simp_all (maxDischargeDepth := 20); done)

@[simp] theorem closeOpen_cycle (t n b fr stop) (s : State) (h : CycleInRange s.cycle) : CycleInRange (s.closeOpen t n b fr stop).cycle := by unfold State.closeOpen; (try dsimp only); (repeat' split) <;> first | with_reducible exact h | (simp (maxDischargeDepth := 20) [h]; done) | (simp_all (maxDischargeDepth := 20); done)

@[simp] theorem closeAtCut_cycle (t k stop) (s : State) (h : CycleInRange s.cycle) : CycleInRange (s.closeAtCut t k stop).cycle := by unfold State.closeAtCut; (try dsimp only); (repeat' split) <;> first | with_reducible exact h | (simp (maxDischargeDepth := 20) [h]; done) | (simp_all (maxDischargeDepth := 20); done)

theorem actClose_ok_cycle (t k) (s u : State) (h : CycleInRange s.cycle) (e : s.actClose t k = .ok u) : CycleInRange u.cycle := by
  unfold State.actClose at e; (try dsimp only at e); (repeat' split at e) <;> simp at e <;> (subst e; simp (maxDischargeDepth := 20) [h])

@[simp] theorem actMute_cycle (t n) (s : State) (h : CycleInRange s.cycle) : CycleInRange (s.actMute t n).cycle := by unfold State.actMute; (try dsimp only); (repeat' split) <;> first | with_reducible exact h | (simp (maxDischargeDepth := 20) [h]; done) | (simp_all (maxDischargeDepth := 20); done)

@[simp] theorem toRedo_cycle (t id) (s : State) (h : CycleInRange s.cycle) : CycleInRange (s.toRedo t id).cycle := by unfold State.toRedo; (try dsimp only); (repeat' split) <;> first | with_reducible exact h | (simp (maxDischargeDepth := 20) [h]; done) | (simp_all (maxDischargeDepth := 20); done)

@[simp] theorem freeAll_cycle (cause l) (s : State) (h : CycleInRange s.cycle) : CycleInRange (s.freeAll cause l).cycle := by
  induction l generalizing s with
  | nil => exact h
  | cons x l ih => simp (maxDischargeDepth := 20) [State.freeAll, ih, h]

theorem actUndo_ok_cycle (t) (s u : State) (h : CycleInRange s.cycle) (e : s.actUndo t = .ok u) : CycleInRange u.cycle := by
  unfold State.actUndo at e
  dsimp only at e
  (repeat' split at e) <;> simp at e <;> (try (subst e; simp (maxDischargeDepth := 20) [h]))
  all_goals (repeat' split) <;> simp (maxDischargeDepth := 20) [h]

theorem actRedo_ok_cycle (t) (s u : State) (h : CycleInRange s.cycle) (e : s.actRedo t = .ok u) : CycleInRange u.cycle := by
  unfold State.actRedo at e; (try dsimp only at e); (repeat' split at e) <;> simp at e <;> (subst e; simp (maxDischargeDepth := 20) [h])

@[simp] theorem emptyTrack_cycle (t) (s : State) (h : CycleInRange s.cycle) : CycleInRange (s.emptyTrack t).cycle := by unfold State.emptyTrack; (try dsimp only); (repeat' split) <;> first | with_reducible exact h | (simp (maxDischargeDepth := 20) [h]; done) | (simp_all (maxDischargeDepth := 20); done)

@[simp] theorem forgetTrack_cycle (t) (s : State) (h : CycleInRange s.cycle) : CycleInRange (s.forgetTrack t).cycle := by unfold State.forgetTrack; (try dsimp only); (repeat' split) <;> first | with_reducible exact h | (simp (maxDischargeDepth := 20) [h]; done) | (simp_all (maxDischargeDepth := 20); done)

@[simp] theorem clearTrack_cycle (t) (s : State) (h : CycleInRange s.cycle) : CycleInRange (s.clearTrack t).cycle := by unfold State.clearTrack; (try dsimp only); (repeat' split) <;> first | with_reducible exact h | (simp (maxDischargeDepth := 20) [h]; done) | (simp_all (maxDischargeDepth := 20); done)

@[simp] theorem actClearTrack_cycle (t) (s : State) (h : CycleInRange s.cycle) : CycleInRange (s.actClearTrack t).cycle := by unfold State.actClearTrack; (try dsimp only); (repeat' split) <;> first | with_reducible exact h | (simp (maxDischargeDepth := 20) [h]; done) | (simp_all (maxDischargeDepth := 20); done)

@[simp] theorem writeRing_cycle (f) (s : State) (h : CycleInRange s.cycle) : CycleInRange (s.writeRing f).cycle := by unfold State.writeRing; (try dsimp only); (repeat' split) <;> first | with_reducible exact h | (simp (maxDischargeDepth := 20) [h]; done) | (simp_all (maxDischargeDepth := 20); done)

@[simp] theorem setRecord_cycle (i r) (s : State) (h : CycleInRange s.cycle) : CycleInRange (s.setRecord i r).cycle := by unfold State.setRecord; (try dsimp only); (repeat' split) <;> first | with_reducible exact h | (simp (maxDischargeDepth := 20) [h]; done) | (simp_all (maxDischargeDepth := 20); done)

@[simp] theorem refillAll_cycle (s : State) (h : CycleInRange s.cycle) : CycleInRange (s.refillAll).cycle := by unfold State.refillAll; (try dsimp only); (repeat' split) <;> first | with_reducible exact h | (simp (maxDischargeDepth := 20) [h]; done) | (simp_all (maxDischargeDepth := 20); done)

@[simp] theorem overrun_cycle (pl id r) (s : State) (h : CycleInRange s.cycle) : CycleInRange (s.overrun pl id r).cycle := by unfold State.overrun; (try dsimp only); (repeat' split) <;> first | with_reducible exact h | (simp (maxDischargeDepth := 20) [h]; done) | (simp_all (maxDischargeDepth := 20); done)

@[simp] theorem cutClosed_cycle (id n) (s : State) (h : CycleInRange s.cycle) : CycleInRange (s.cutClosed id n).cycle := by unfold State.cutClosed; (try dsimp only); (repeat' split) <;> first | with_reducible exact h | (simp (maxDischargeDepth := 20) [h]; done) | (simp_all (maxDischargeDepth := 20); done)

@[simp] theorem exhaust_cycle (id n) (s : State) (h : CycleInRange s.cycle) : CycleInRange (s.exhaust id n).cycle := by unfold State.exhaust; (try dsimp only); (repeat' split) <;> first | with_reducible exact h | (simp (maxDischargeDepth := 20) [h]; done) | (simp_all (maxDischargeDepth := 20); done)

theorem allocateEach_cycle (id : Nat) (l : List Nat) (s : State) (h : CycleInRange s.cycle) : CycleInRange (State.allocateEach id l s).1.cycle := by
  induction l generalizing s with
  | nil => exact h
  | cons o l ih =>
    unfold State.allocateEach
    split
    · next u hu => exact ih _ (allocate_cycle _ _ _ h hu)
    · exact h

@[simp] theorem giveUp_cycle (pl id r) (s : State) (h : CycleInRange s.cycle) : CycleInRange (s.giveUp pl id r).cycle := by
  unfold State.giveUp
  have h' := allocateEach_cycle id (s.blocksNeeded id r) s h
  split <;> next hu => rw [hu] at h'; dsimp only at h'; simp (maxDischargeDepth := 20) [h']

@[simp] theorem handOver_cycle (i) (s : State) (h : CycleInRange s.cycle) : CycleInRange (s.handOver i).cycle := by
  unfold State.handOver
  split
  · exact h
  · split
    · simp (maxDischargeDepth := 20) [h]
    · next u hu =>
      have hu' : CycleInRange u.cycle := by
        split at hu
        · exact allocate_cycle _ _ _ h hu
        · injection hu with hu; rw [← hu]; exact h
      dsimp only
      (repeat' split) <;> simp (maxDischargeDepth := 20) [hu'] 

@[simp] theorem settleCapture_cycle (n : Nat) (s : State) (h : CycleInRange s.cycle) : CycleInRange (State.settleCapture n s).cycle := by
  induction n generalizing s with
  | zero => unfold State.settleCapture; simp (maxDischargeDepth := 20) [h]
  | succ n ih =>
    unfold State.settleCapture
    dsimp only
    (repeat' split) <;> simp (maxDischargeDepth := 20) [ih, h]

@[simp] theorem overtake_cycle (pl i) (s : State) (h : CycleInRange s.cycle) : CycleInRange (s.overtake pl i).cycle := by unfold State.overtake; (try dsimp only); (repeat' split) <;> first | with_reducible exact h | (simp (maxDischargeDepth := 20) [h]; done) | (simp_all (maxDischargeDepth := 20); done)

@[simp] theorem stealRecord_cycle (i) (s : State) (h : CycleInRange s.cycle) : CycleInRange (s.stealRecord i).cycle := by unfold State.stealRecord; (try dsimp only); (repeat' split) <;> first | with_reducible exact h | (simp (maxDischargeDepth := 20) [h]; done) | (simp_all (maxDischargeDepth := 20); done)

@[simp] theorem placeRecord_cycle (r) (s : State) (h : CycleInRange s.cycle) : CycleInRange (s.placeRecord r).cycle := by unfold State.placeRecord; (try dsimp only); (repeat' split) <;> first | with_reducible exact h | (simp (maxDischargeDepth := 20) [h]; done) | (simp_all (maxDischargeDepth := 20); done)

@[simp] theorem openLayer_cycle (t id l st ph dest) (s : State) (h : CycleInRange s.cycle) : CycleInRange (s.openLayer t id l st ph dest).cycle := by unfold State.openLayer; (try dsimp only); (repeat' split) <;> first | with_reducible exact h | (simp (maxDischargeDepth := 20) [h]; done) | (simp_all (maxDischargeDepth := 20); done)

@[simp] theorem freeRedo_cycle (t) (s : State) (h : CycleInRange s.cycle) : CycleInRange (s.freeRedo t).cycle := by unfold State.freeRedo; (try dsimp only); (repeat' split) <;> first | with_reducible exact h | (simp (maxDischargeDepth := 20) [h]; done) | (simp_all (maxDischargeDepth := 20); done)

@[simp] theorem startDefining_cycle (s : State) (h : CycleInRange s.cycle) : CycleInRange (s.startDefining).cycle := by
  unfold State.startDefining
  split
  · next hs =>
    have hn := h.noLen (Or.inl hs)
    exact setCycle_cycle _ _ h ⟨h.1, h.2, h.3, by simp, h.5, h.6, by simp [TapSeq.empty], h.8, by simp [hn], by simp [hn], by simp, by simp [h.noOrigin (by simp [hs])], by simp⟩
  · exact h

theorem actRecord_ok_cycle (t k) (s u : State) (h : CycleInRange s.cycle) (e : s.actRecord t k = .ok u) : CycleInRange u.cycle := by
  unfold State.actRecord at e
  split at e
  · simp at e
  · split at e
    · simp at e
    · next v id hv =>
      injection e with e; subst e
      simp (maxDischargeDepth := 20) [takeRoom_cycle _ _ _ _ h hv]

theorem actLayer_ok_cycle (t cv k) (s u : State) (h : CycleInRange s.cycle) (e : s.actLayer t cv k = .ok u) : CycleInRange u.cycle := by
  unfold State.actLayer at e
  split at e
  · split at e
    · simp at e
    · next v id hv =>
      injection e with e; subst e
      simp (maxDischargeDepth := 20) [takeRoom_cycle _ _ _ _ h hv]
  · simp at e

@[simp] theorem decayAll_cycle (n l) (s : State) (h : CycleInRange s.cycle) : CycleInRange (s.decayAll n l).cycle := by
  induction l generalizing s with
  | nil => exact h
  | cons x l ih => simp (maxDischargeDepth := 20) [State.decayAll, ih, h]

@[simp] theorem decayFold_cycle (t n) (s : State) (h : CycleInRange s.cycle) : CycleInRange (s.decayFold t n).cycle := by unfold State.decayFold; (try dsimp only); (repeat' split) <;> first | with_reducible exact h | (simp (maxDischargeDepth := 20) [h]; done) | (simp_all (maxDischargeDepth := 20); done)

@[simp] theorem retire_cycle (t id) (s : State) (h : CycleInRange s.cycle) : CycleInRange (s.retire t id).cycle := by unfold State.retire; (try dsimp only); (repeat' split) <;> first | with_reducible exact h | (simp (maxDischargeDepth := 20) [h]; done) | (simp_all (maxDischargeDepth := 20); done)

@[simp] theorem retireAll_cycle (t l) (s : State) (h : CycleInRange s.cycle) : CycleInRange (s.retireAll t l).cycle := by
  induction l generalizing s with
  | nil => exact h
  | cons x l ih => simp (maxDischargeDepth := 20) [State.retireAll, ih, h]

@[simp] theorem decayTrack_cycle (t) (s : State) (h : CycleInRange s.cycle) : CycleInRange (s.decayTrack t).cycle := by unfold State.decayTrack; (try dsimp only); (repeat' split) <;> first | with_reducible exact h | (simp (maxDischargeDepth := 20) [h]; done) | (simp_all (maxDischargeDepth := 20); done)

@[simp] theorem roll_cycle (t) (s : State) (h : CycleInRange s.cycle) : CycleInRange (s.roll t).cycle := by
  unfold State.roll
  dsimp only
  split
  · split
    · split
      · exact h
      · split
        · next v id' hv =>
          have hu : CycleInRange v.cycle := by
            refine takeRoom_cycle _ _ _ _ ?_ hv
            simp (maxDischargeDepth := 20) [h]
          simp (maxDischargeDepth := 20) [hu]
        · simp (maxDischargeDepth := 20) [h]
    · exact h
  · exact h

@[simp] theorem wrapTrack_cycle (t) (s : State) (h : CycleInRange s.cycle) : CycleInRange (s.wrapTrack t).cycle := by unfold State.wrapTrack; (try dsimp only); (repeat' split) <;> first | with_reducible exact h | (simp (maxDischargeDepth := 20) [h]; done) | (simp_all (maxDischargeDepth := 20); done)

@[simp] theorem liveOne_cycle (fr i) (s : State) (h : CycleInRange s.cycle) : CycleInRange (s.liveOne fr i).cycle := by unfold State.liveOne; (try dsimp only); (repeat' split) <;> first | with_reducible exact h | (simp (maxDischargeDepth := 20) [h]; done) | (simp_all (maxDischargeDepth := 20); done)

@[simp] theorem liveAll_cycle (fr l) (s : State) (h : CycleInRange s.cycle) : CycleInRange (s.liveAll fr l).cycle := by
  induction l generalizing s with
  | nil => exact h
  | cons x l ih => simp (maxDischargeDepth := 20) [State.liveAll, ih, h]

@[simp] theorem overtakeAll_cycle (pl l) (s : State) (h : CycleInRange s.cycle) : CycleInRange (s.overtakeAll pl l).cycle := by
  induction l generalizing s with
  | nil => exact h
  | cons x l ih => simp (maxDischargeDepth := 20) [State.overtakeAll, ih, h]

@[simp] theorem captureArrival_cycle (pl fr ord) (s : State) (h : CycleInRange s.cycle) : CycleInRange (s.captureArrival pl fr ord).cycle := by unfold State.captureArrival; (try dsimp only); (repeat' split) <;> first | with_reducible exact h | (simp (maxDischargeDepth := 20) [h]; done) | (simp_all (maxDischargeDepth := 20); done)

@[simp] theorem closeLimits_cycle (l) (s : State) (h : CycleInRange s.cycle) : CycleInRange (s.closeLimits l).cycle := by
  induction l generalizing s with
  | nil => exact h
  | cons x l ih => unfold State.closeLimits; exact ih _ (by split <;> simp (maxDischargeDepth := 20) [h])

@[simp] theorem closeTracks_cycle (k stop l) (s : State) (h : CycleInRange s.cycle) : CycleInRange (s.closeTracks k stop l).cycle := by
  induction l generalizing s with
  | nil => exact h
  | cons x l ih => simp (maxDischargeDepth := 20) [State.closeTracks, ih, h]

@[simp] theorem actStopAll_cycle (k) (s : State) (h : CycleInRange s.cycle) : CycleInRange (s.actStopAll k).cycle := by
  unfold State.actStopAll
  split
  · next hs =>
    have hc : ((s.closeTracks k false (List.finRange 6)).dropAllCues .stopped).cycle = s.cycle := by
      simp [dropAllCues_cyc, closeTracks_cyc _ _ _ _ (show s.cycle.state ≠ .defining by simp [hs])]
    exact pauseCycle_cycle _ (by rw [hc]; exact h) (by rw [hc]; exact h.present.mpr (Or.inl hs))
  · simp [h]
  · exact h
  · exact h

theorem actPlayAll_ok_cycle (s u : State) (h : CycleInRange s.cycle) (e : s.actPlayAll = .ok u) : CycleInRange u.cycle := by
  unfold State.actPlayAll at e
  split at e
  · next hs =>
    injection e with e; subst e
    have hp := h.present.mpr (Or.inr hs)
    have : CycleInRange (s.setCycle { s.cycle with state := .running, pos := 0, pass := 0, origin := true }).cycle :=
      setCycle_cycle _ _ h ⟨h.1, h.2, h.3, by simp, h.5, h.6, h.7, h.8,
        fun len hl => ⟨(h.length len hl).1, (h.length len hl).2.1, by have := (h.length len hl).1; simp; omega⟩, by simp [hp], by simp, by simp, by simp⟩
    exact this
  · injection e with e; subst e; exact h
  · simp at e
  · simp at e

theorem act_ok_cycle (x t k) (s u : State) (h : CycleInRange s.cycle) (e : s.act x t k = .ok u) : CycleInRange u.cycle := by
  unfold State.act at e
  split at e
  · exact actRecord_ok_cycle _ _ _ _ h e
  · exact actLayer_ok_cycle _ _ _ _ _ h e
  · exact actLayer_ok_cycle _ _ _ _ _ h e
  · exact actClose_ok_cycle _ _ _ _ h e
  · injection e with e; subst e; simp (maxDischargeDepth := 20) [h]
  · injection e with e; subst e; simp (maxDischargeDepth := 20) [h]
  · exact actUndo_ok_cycle _ _ _ h e
  · exact actRedo_ok_cycle _ _ _ h e
  · injection e with e; subst e; simp (maxDischargeDepth := 20) [h]
  · exact actPlayAll_ok_cycle _ _ h e
  · simp at e

@[simp] theorem actAtOnce_cycle (x t e) (s : State) (h : CycleInRange s.cycle) : CycleInRange (s.actAtOnce x t e).1.cycle := by
  unfold State.actAtOnce
  dsimp only
  split
  · exact h
  · next u hu =>
    have hu' : CycleInRange u.cycle := by
      refine act_ok_cycle _ _ _ _ _ ?_ hu
      split <;> simp (maxDischargeDepth := 20) [h]
    (repeat' split) <;> simp_all (maxDischargeDepth := 20)

@[simp] theorem quantised_cycle (q x t u pr) (s : State) (h : CycleInRange s.cycle) : CycleInRange (s.quantised q x t u pr).1.cycle := by
  unfold State.quantised
  split <;> simp (maxDischargeDepth := 20) [h]

@[simp] theorem takeCue_cycle (r) (s : State) (h : CycleInRange s.cycle) : CycleInRange (s.takeCue r).cycle := by
  unfold State.takeCue
  split
  · exact h
  · split
    · dsimp only
      split
      · next u hu =>
        have hu' : CycleInRange u.cycle := by
          refine act_ok_cycle _ _ _ _ _ ?_ hu
          exact h
        simp (maxDischargeDepth := 20) [hu']
      · simp (maxDischargeDepth := 20) [h]
    · exact h

@[simp] theorem takeCues_cycle (r : Reached) (n : Nat) (s : State) (h : CycleInRange s.cycle) : CycleInRange (State.takeCues r n s).cycle := by
  induction n generalizing s with
  | zero => exact h
  | succ n ih => simp (maxDischargeDepth := 20) [State.takeCues, ih, h]

@[simp] theorem wrapAll_cycle (l) (s : State) (h : CycleInRange s.cycle) : CycleInRange (s.wrapAll l).cycle := by
  induction l generalizing s with
  | nil => exact h
  | cons x l ih => simp (maxDischargeDepth := 20) [State.wrapAll, ih, h]

@[simp] theorem boundaryWork_cycle (r : Reached) (l : List (Option TrackId)) (w : List TrackId) (s : State)
    (h : CycleInRange s.cycle) : CycleInRange (State.boundaryWork r l w s).cycle := by
  induction l generalizing s w with
  | nil => simp (maxDischargeDepth := 20) [State.boundaryWork, h]
  | cons x l ih =>
    cases x with
    | none => simp (maxDischargeDepth := 20) [State.boundaryWork, ih, h]
    | some t => unfold State.boundaryWork; split <;> simp (maxDischargeDepth := 20) [ih, h]

@[simp] theorem actTap_cycle (stamp) (s : State) (h : CycleInRange s.cycle) : CycleInRange (s.actTap stamp).1.cycle := by
  unfold State.actTap
  split
  · exact h
  · split
    · split
      · next len ht => exact startCycle_cycle _ _ _ (tapAt_len (by rw [ht])) h
      · next t n ht =>
        have hc := tapAt_count stamp s.cycle.beats s.cycle.tap
        rw [ht] at hc
        exact ⟨h.1, h.2, h.3, h.4, h.5, h.6, hc, h.8, h.9, h.10, h.11, h.12, h.13⟩
    · exact ⟨h.1, h.2, h.3, h.4, h.5, h.6, h.7, Nat.min_le_left _ _, h.9, h.10, h.11, h.12, h.13⟩

@[simp] theorem noteRecent_cycle (q t x pr an) (s : State) (h : CycleInRange s.cycle) : CycleInRange (s.noteRecent q t x pr an).cycle := by unfold State.noteRecent; (try dsimp only); (repeat' split) <;> first | with_reducible exact h | (simp (maxDischargeDepth := 20) [h]; done) | (simp_all (maxDischargeDepth := 20); done)

@[simp] theorem resolved_cycle (q t x u pr) (s : State) (h : CycleInRange s.cycle) : CycleInRange (s.resolved q t x u pr).1.cycle := by
  unfold State.resolved
  split
  · exact h
  · dsimp only
    (repeat' split) <;> simp (maxDischargeDepth := 20) [h]

@[simp] theorem toggle_cycle (q t x u pr) (s : State) (h : CycleInRange s.cycle) : CycleInRange (s.toggle q t x u pr).1.cycle := by unfold State.toggle; (try dsimp only); (repeat' split) <;> first | with_reducible exact h | (simp (maxDischargeDepth := 20) [h]; done) | (simp_all (maxDischargeDepth := 20); done)

@[simp] theorem handCue_cycle (q x t u pr) (s : State) (h : CycleInRange s.cycle) : CycleInRange (s.handCue q x t u pr).1.cycle := by unfold State.handCue; (try dsimp only); (repeat' split) <;> first | with_reducible exact h | (simp (maxDischargeDepth := 20) [h]; done) | (simp_all (maxDischargeDepth := 20); done)

@[simp] theorem selectTo_cycle (q t) (s : State) (h : CycleInRange s.cycle) : CycleInRange (s.selectTo q t).cycle := by unfold State.selectTo; (try dsimp only); (repeat' split) <;> first | with_reducible exact h | (simp (maxDischargeDepth := 20) [h]; done) | (simp_all (maxDischargeDepth := 20); done)

@[simp] theorem handOn_cycle (q : Port) (x : SwAction) (t : TrackId) (u : Quantum) (pr : PressTime) (s : State)
    (h : CycleInRange s.cycle) : CycleInRange (State.handOn q x t u pr s).1.1.cycle := by
  cases x <;> simp (maxDischargeDepth := 20) [State.handOn, h]

@[simp] theorem issue_cycle (q c k x t u pr) (s : State) (h : CycleInRange s.cycle) : CycleInRange (s.issue q c k x t u pr).cycle := by unfold State.issue; (try dsimp only); (repeat' split) <;> first | with_reducible exact h | (simp (maxDischargeDepth := 20) [h]; done) | (simp_all (maxDischargeDepth := 20); done)

@[simp] theorem setMachine_cycle (q c m) (s : State) (h : CycleInRange s.cycle) : CycleInRange (s.setMachine q c m).cycle := by unfold State.setMachine; (try dsimp only); (repeat' split) <;> first | with_reducible exact h | (simp (maxDischargeDepth := 20) [h]; done) | (simp_all (maxDischargeDepth := 20); done)

@[simp] theorem switchDown_cycle (q c) (s : State) (h : CycleInRange s.cycle) : CycleInRange (s.switchDown q c).1.cycle := by unfold State.switchDown; (try dsimp only); (repeat' split) <;> first | with_reducible exact h | (simp (maxDischargeDepth := 20) [h]; done) | (simp_all (maxDischargeDepth := 20); done)

@[simp] theorem switchUp_cycle (q c) (s : State) (h : CycleInRange s.cycle) : CycleInRange (s.switchUp q c).1.cycle := by unfold State.switchUp; (try dsimp only); (repeat' split) <;> first | with_reducible exact h | (simp (maxDischargeDepth := 20) [h]; done) | (simp_all (maxDischargeDepth := 20); done)

@[simp] theorem holdDue_cycle (q c) (s : State) (h : CycleInRange s.cycle) : CycleInRange (s.holdDue q c).cycle := by unfold State.holdDue; (try dsimp only); (repeat' split) <;> first | with_reducible exact h | (simp (maxDischargeDepth := 20) [h]; done) | (simp_all (maxDischargeDepth := 20); done)

@[simp] theorem windowDue_cycle (q c) (s : State) (h : CycleInRange s.cycle) : CycleInRange (s.windowDue q c).cycle := by unfold State.windowDue; (try dsimp only); (repeat' split) <;> first | with_reducible exact h | (simp (maxDischargeDepth := 20) [h]; done) | (simp_all (maxDischargeDepth := 20); done)

@[simp] theorem layerSample_cycle (id k) (s : State) (h : CycleInRange s.cycle) : CycleInRange (s.layerSample id k).1.cycle := by unfold State.layerSample; (try dsimp only); (repeat' split) <;> first | with_reducible exact h | (simp (maxDischargeDepth := 20) [h]; done) | (simp_all (maxDischargeDepth := 20); done)

@[simp] theorem layerPart_cycle (q id cs) (s : State) (h : CycleInRange s.cycle) : CycleInRange (s.layerPart q id cs).1.cycle := by unfold State.layerPart; (try dsimp only); (repeat' split) <;> first | with_reducible exact h | (simp (maxDischargeDepth := 20) [h]; done) | (simp_all (maxDischargeDepth := 20); done)

@[simp] theorem sumLayers_cycle (t : TrackId) (q : Nat) (l : List Nat) (s : State) (h : CycleInRange s.cycle) :
    CycleInRange (State.sumLayers t q l s).1.cycle := by
  induction l generalizing s with
  | nil => exact h
  | cons x l ih => simp (maxDischargeDepth := 20) [State.sumLayers, ih, h]

@[simp] theorem trackSum_cycle (t) (s : State) (h : CycleInRange s.cycle) : CycleInRange (s.trackSum t).1.cycle := by unfold State.trackSum; (try dsimp only); (repeat' split) <;> first | with_reducible exact h | (simp (maxDischargeDepth := 20) [h]; done) | (simp_all (maxDischargeDepth := 20); done)

@[simp] theorem trackSums_cycle (l : List TrackId) (s : State) (h : CycleInRange s.cycle) : CycleInRange (State.trackSums l s).1.cycle := by
  induction l generalizing s with
  | nil => exact h
  | cons x l ih => simp (maxDischargeDepth := 20) [State.trackSums, ih, h]

@[simp] theorem moveRamps_cycle (s : State) (h : CycleInRange s.cycle) : CycleInRange (s.moveRamps).cycle := by unfold State.moveRamps; (try dsimp only); (repeat' split) <;> first | with_reducible exact h | (simp (maxDischargeDepth := 20) [h]; done) | (simp_all (maxDischargeDepth := 20); done)

@[simp] theorem clip_cycle (ear r) (s : State) (h : CycleInRange s.cycle) : CycleInRange (s.clip ear r).cycle := by unfold State.clip; (try dsimp only); (repeat' split) <;> first | with_reducible exact h | (simp (maxDischargeDepth := 20) [h]; done) | (simp_all (maxDischargeDepth := 20); done)

@[simp] theorem mix_cycle (fr pl b) (s : State) (h : CycleInRange s.cycle) : CycleInRange (s.mix fr pl b).cycle := by unfold State.mix; (try dsimp only); (repeat' split) <;> first | with_reducible exact h | (simp (maxDischargeDepth := 20) [h]; done) | (simp_all (maxDischargeDepth := 20); done)

@[simp] theorem mixSilence_cycle (s : State) (h : CycleInRange s.cycle) : CycleInRange (s.mixSilence).cycle := by unfold State.mixSilence; (try dsimp only); (repeat' split) <;> first | with_reducible exact h | (simp (maxDischargeDepth := 20) [h]; done) | (simp_all (maxDischargeDepth := 20); done)

@[simp] theorem discardImport_cycle (id cause) (s : State) (h : CycleInRange s.cycle) : CycleInRange (s.discardImport id cause).cycle := by unfold State.discardImport; (try dsimp only); (repeat' split) <;> first | with_reducible exact h | (simp (maxDischargeDepth := 20) [h]; done) | (simp_all (maxDischargeDepth := 20); done)

@[simp] theorem requestCommit_cycle (p) (s : State) (h : CycleInRange s.cycle) : CycleInRange (s.requestCommit p).cycle := by
  unfold State.requestCommit
  split
  · exact h
  · split
    · exact h
    · dsimp only
      split
      · split
        · next u hu => have hu' := allocate_cycle _ _ _ h hu; simp (maxDischargeDepth := 20) [hu']
        · simp (maxDischargeDepth := 20) [h]
      · simp (maxDischargeDepth := 20) [h]

@[simp] theorem settleWrite_cycle (p) (s : State) (h : CycleInRange s.cycle) : CycleInRange (s.settleWrite p).cycle := by unfold State.settleWrite; (try dsimp only); (repeat' split) <;> first | with_reducible exact h | (simp (maxDischargeDepth := 20) [h]; done) | (simp_all (maxDischargeDepth := 20); done)

@[simp] theorem settleWait_cycle (who) (s : State) (h : CycleInRange s.cycle) : CycleInRange (s.settleWait who).cycle := by unfold State.settleWait; (try dsimp only); (repeat' split) <;> first | with_reducible exact h | (simp (maxDischargeDepth := 20) [h]; done) | (simp_all (maxDischargeDepth := 20); done)

@[simp] theorem settle_cycle (s : State) (h : CycleInRange s.cycle) : CycleInRange (s.settle).cycle := by unfold State.settle; (try dsimp only); (repeat' split) <;> first | with_reducible exact h | (simp (maxDischargeDepth := 20) [h]; done) | (simp_all (maxDischargeDepth := 20); done)

@[simp] theorem discardImports_cycle (cause l) (s : State) (h : CycleInRange s.cycle) : CycleInRange (s.discardImports cause l).cycle := by
  induction l generalizing s with
  | nil => exact h
  | cons x l ih => simp (maxDischargeDepth := 20) [State.discardImports, ih, h]

@[simp] theorem abandonRunningFold_cycle (cause) (s : State) (h : CycleInRange s.cycle) : CycleInRange (s.abandonRunningFold cause).cycle := by unfold State.abandonRunningFold; (try dsimp only); (repeat' split) <;> first | with_reducible exact h | (simp (maxDischargeDepth := 20) [h]; done) | (simp_all (maxDischargeDepth := 20); done)

@[simp] theorem emptyTracks_cycle (l) (s : State) (h : CycleInRange s.cycle) : CycleInRange (s.emptyTracks l).cycle := by
  induction l generalizing s with
  | nil => exact h
  | cons x l ih => simp (maxDischargeDepth := 20) [State.emptyTracks, ih, h]

@[simp] theorem raiseEmptied_cycle (old l) (s : State) (h : CycleInRange s.cycle) : CycleInRange (s.raiseEmptied old l).cycle := by
  induction l generalizing s with
  | nil => exact h
  | cons x l ih => unfold State.raiseEmptied; exact ih _ (by split <;> simp (maxDischargeDepth := 20) [h])

@[simp] theorem clearTracks_cycle (s : State) (h : CycleInRange s.cycle) : CycleInRange (s.clearTracks).cycle := by unfold State.clearTracks; (try dsimp only); (repeat' split) <;> first | with_reducible exact h | (simp (maxDischargeDepth := 20) [h]; done) | (simp_all (maxDischargeDepth := 20); done)

@[simp] theorem forgetRecent_cycle (s : State) (h : CycleInRange s.cycle) : CycleInRange (s.forgetRecent).cycle := by unfold State.forgetRecent; (try dsimp only); (repeat' split) <;> first | with_reducible exact h | (simp (maxDischargeDepth := 20) [h]; done) | (simp_all (maxDischargeDepth := 20); done)

@[simp] theorem clearCycle_cycle (s : State) (h : CycleInRange s.cycle) : CycleInRange (s.clearCycle).cycle := by
  have hs : CycleInRange (s.setCycle { s.cycle with state := .empty, len := none, pos := 0, pass := 0, origin := false, tap := TapSeq.empty, ignoredTaps := 0 }).cycle :=
    setCycle_cycle _ _ h ⟨h.1, h.2, h.3, by simp, h.5, h.6, by simp [TapSeq.empty], by simp, by simp, by simp, by simp, by simp, by simp⟩
  exact hs

@[simp] theorem actClearAll_cycle (s : State) (h : CycleInRange s.cycle) : CycleInRange (s.actClearAll).cycle := by unfold State.actClearAll; (try dsimp only); (repeat' split) <;> first | with_reducible exact h | (simp (maxDischargeDepth := 20) [h]; done) | (simp_all (maxDischargeDepth := 20); done)

@[simp] theorem enterRest_cycle (cause d) (s : State) (h : CycleInRange s.cycle) : CycleInRange (s.enterRest cause d).cycle := by
  unfold State.enterRest
  have h0 : CycleInRange { s.cycle with tap := TapSeq.empty } := ⟨h.1, h.2, h.3, h.4, h.5, h.6, by simp [TapSeq.empty], h.8, h.9, h.10, h.11, h.12, h.13⟩
  exact loseWindow_cycle _ _ _ (loseWindow_cycle _ _ _ (dropAllCues_cycle _ _ h0))

@[simp] theorem powerLow_cycle (s : State) (h : CycleInRange s.cycle) : CycleInRange (s.powerLow).cycle := by unfold State.powerLow; (try dsimp only); (repeat' split) <;> first | with_reducible exact h | (simp (maxDischargeDepth := 20) [h]; done) | (simp_all (maxDischargeDepth := 20); done)

@[simp] theorem wakeUp_cycle (s : State) (h : CycleInRange s.cycle) : CycleInRange (s.wakeUp).cycle := by unfold State.wakeUp; (try dsimp only); (repeat' split) <;> first | with_reducible exact h | (simp (maxDischargeDepth := 20) [h]; done) | (simp_all (maxDischargeDepth := 20); done)

@[simp] theorem testDone_cycle (s : State) (h : CycleInRange s.cycle) : CycleInRange (s.testDone).cycle := by unfold State.testDone; (try dsimp only); (repeat' split) <;> first | with_reducible exact h | (simp (maxDischargeDepth := 20) [h]; done) | (simp_all (maxDischargeDepth := 20); done)

@[simp] theorem setGrant_cycle (g) (s : State) (h : CycleInRange s.cycle) : CycleInRange (s.setGrant g).cycle := by unfold State.setGrant; (try dsimp only); (repeat' split) <;> first | with_reducible exact h | (simp (maxDischargeDepth := 20) [h]; done) | (simp_all (maxDischargeDepth := 20); done)

@[simp] theorem grantPlayback_cycle (id r) (s : State) (h : CycleInRange s.cycle) : CycleInRange (s.grantPlayback id r).cycle := by unfold State.grantPlayback; (try dsimp only); (repeat' split) <;> first | with_reducible exact h | (simp (maxDischargeDepth := 20) [h]; done) | (simp_all (maxDischargeDepth := 20); done)

@[simp] theorem grantCapture_cycle (x rest) (s : State) (h : CycleInRange s.cycle) : CycleInRange (s.grantCapture x rest).cycle := by unfold State.grantCapture; (try dsimp only); (repeat' split) <;> first | with_reducible exact h | (simp (maxDischargeDepth := 20) [h]; done) | (simp_all (maxDischargeDepth := 20); done)

@[simp] theorem grantFold_cycle (s : State) (h : CycleInRange s.cycle) : CycleInRange (s.grantFold).cycle := by unfold State.grantFold; (try dsimp only); (repeat' split) <;> first | with_reducible exact h | (simp (maxDischargeDepth := 20) [h]; done) | (simp_all (maxDischargeDepth := 20); done)

@[simp] theorem grantWindow_cycle (p) (s : State) (h : CycleInRange s.cycle) : CycleInRange (s.grantWindow p).cycle := by unfold State.grantWindow; (try dsimp only); (repeat' split) <;> first | with_reducible exact h | (simp (maxDischargeDepth := 20) [h]; done) | (simp_all (maxDischargeDepth := 20); done)

@[simp] theorem grantBackground_cycle (x) (s : State) (h : CycleInRange s.cycle) : CycleInRange (s.grantBackground x).cycle := by unfold State.grantBackground; (try dsimp only); (repeat' split) <;> first | with_reducible exact h | (simp (maxDischargeDepth := 20) [h]; done) | (simp_all (maxDischargeDepth := 20); done)

@[simp] theorem grantNext_cycle (s : State) (h : CycleInRange s.cycle) : CycleInRange (s.grantNext).cycle := by unfold State.grantNext; (try dsimp only); (repeat' split) <;> first | with_reducible exact h | (simp (maxDischargeDepth := 20) [h]; done) | (simp_all (maxDischargeDepth := 20); done)

@[simp] theorem arbitrate_cycle (s : State) (h : CycleInRange s.cycle) : CycleInRange (s.arbitrate).cycle := by unfold State.arbitrate; (try dsimp only); (repeat' split) <;> first | with_reducible exact h | (simp (maxDischargeDepth := 20) [h]; done) | (simp_all (maxDischargeDepth := 20); done)

@[simp] theorem playbackDone_cycle (rd cs) (s : State) (h : CycleInRange s.cycle) : CycleInRange (s.playbackDone rd cs).cycle := by unfold State.playbackDone; (try dsimp only); (repeat' split) <;> first | with_reducible exact h | (simp (maxDischargeDepth := 20) [h]; done) | (simp_all (maxDischargeDepth := 20); done)

@[simp] theorem captureDone_cycle (x blk live) (s : State) (h : CycleInRange s.cycle) : CycleInRange (s.captureDone x blk live).cycle := by unfold State.captureDone; (try dsimp only); (repeat' split) <;> first | with_reducible exact h | (simp (maxDischargeDepth := 20) [h]; done) | (simp_all (maxDischargeDepth := 20); done)

@[simp] theorem foldReadDone_cycle (rd nw cs) (s : State) (h : CycleInRange s.cycle) : CycleInRange (s.foldReadDone rd nw cs).cycle := by unfold State.foldReadDone; (try dsimp only); (repeat' split) <;> first | with_reducible exact h | (simp (maxDischargeDepth := 20) [h]; done) | (simp_all (maxDischargeDepth := 20); done)

@[simp] theorem foldWriteDone_cycle (blk o xs) (s : State) (h : CycleInRange s.cycle) : CycleInRange (s.foldWriteDone blk o xs).cycle := by unfold State.foldWriteDone; (try dsimp only); (repeat' split) <;> first | with_reducible exact h | (simp (maxDischargeDepth := 20) [h]; done) | (simp_all (maxDischargeDepth := 20); done)

@[simp] theorem windowReadDone_cycle (p rd cs) (s : State) (h : CycleInRange s.cycle) : CycleInRange (s.windowReadDone p rd cs).cycle := by unfold State.windowReadDone; (try dsimp only); (repeat' split) <;> first | with_reducible exact h | (simp (maxDischargeDepth := 20) [h]; done) | (simp_all (maxDischargeDepth := 20); done)

@[simp] theorem importDone_cycle (p id) (s : State) (h : CycleInRange s.cycle) : CycleInRange (s.importDone p id).cycle := by unfold State.importDone; (try dsimp only); (repeat' split) <;> first | with_reducible exact h | (simp (maxDischargeDepth := 20) [h]; done) | (simp_all (maxDischargeDepth := 20); done)

@[simp] theorem commitDone_cycle (p blk o xs) (s : State) (h : CycleInRange s.cycle) : CycleInRange (s.commitDone p blk o xs).cycle := by unfold State.commitDone; (try dsimp only); (repeat' split) <;> first | with_reducible exact h | (simp (maxDischargeDepth := 20) [h]; done) | (simp_all (maxDischargeDepth := 20); done)

@[simp] theorem completeRefresh_cycle (s : State) (h : CycleInRange s.cycle) : CycleInRange (s.completeRefresh).cycle := by unfold State.completeRefresh; (try dsimp only); (repeat' split) <;> first | with_reducible exact h | (simp (maxDischargeDepth := 20) [h]; done) | (simp_all (maxDischargeDepth := 20); done)

@[simp] theorem completePlayback_cycle (cs) (s : State) (h : CycleInRange s.cycle) : CycleInRange (s.completePlayback cs).cycle := by unfold State.completePlayback; (try dsimp only); (repeat' split) <;> first | with_reducible exact h | (simp (maxDischargeDepth := 20) [h]; done) | (simp_all (maxDischargeDepth := 20); done)

@[simp] theorem completeCapture_cycle (s : State) (h : CycleInRange s.cycle) : CycleInRange (s.completeCapture).cycle := by unfold State.completeCapture; (try dsimp only); (repeat' split) <;> first | with_reducible exact h | (simp (maxDischargeDepth := 20) [h]; done) | (simp_all (maxDischargeDepth := 20); done)

@[simp] theorem completeFoldBurst_cycle (cs) (s : State) (h : CycleInRange s.cycle) : CycleInRange (s.completeFoldBurst cs).cycle := by unfold State.completeFoldBurst; (try dsimp only); (repeat' split) <;> first | with_reducible exact h | (simp (maxDischargeDepth := 20) [h]; done) | (simp_all (maxDischargeDepth := 20); done)

@[simp] theorem completeWindowRead_cycle (cs) (s : State) (h : CycleInRange s.cycle) : CycleInRange (s.completeWindowRead cs).cycle := by unfold State.completeWindowRead; (try dsimp only); (repeat' split) <;> first | with_reducible exact h | (simp (maxDischargeDepth := 20) [h]; done) | (simp_all (maxDischargeDepth := 20); done)

@[simp] theorem completeCommit_cycle (s : State) (h : CycleInRange s.cycle) : CycleInRange (s.completeCommit).cycle := by unfold State.completeCommit; (try dsimp only); (repeat' split) <;> first | with_reducible exact h | (simp (maxDischargeDepth := 20) [h]; done) | (simp_all (maxDischargeDepth := 20); done)

@[simp] theorem lockout_cycle (who) (s : State) (h : CycleInRange s.cycle) : CycleInRange (s.lockout who).cycle := by unfold State.lockout; (try dsimp only); (repeat' split) <;> first | with_reducible exact h | (simp (maxDischargeDepth := 20) [h]; done) | (simp_all (maxDischargeDepth := 20); done)

@[simp] theorem writeDeadline_cycle (s : State) (h : CycleInRange s.cycle) : CycleInRange (s.writeDeadline).cycle := by unfold State.writeDeadline; (try dsimp only); (repeat' split) <;> first | with_reducible exact h | (simp (maxDischargeDepth := 20) [h]; done) | (simp_all (maxDischargeDepth := 20); done)

@[simp] theorem windowTimedOut_cycle (p) (s : State) (h : CycleInRange s.cycle) : CycleInRange (s.windowTimedOut p).cycle := by unfold State.windowTimedOut; (try dsimp only); (repeat' split) <;> first | with_reducible exact h | (simp (maxDischargeDepth := 20) [h]; done) | (simp_all (maxDischargeDepth := 20); done)

@[simp] theorem refreshFallsDue_cycle (s : State) (h : CycleInRange s.cycle) : CycleInRange (s.refreshFallsDue).cycle := by unfold State.refreshFallsDue; (try dsimp only); (repeat' split) <;> first | with_reducible exact h | (simp (maxDischargeDepth := 20) [h]; done) | (simp_all (maxDischargeDepth := 20); done)

@[simp] theorem testCorrected_cycle (n m : Nat) (s : State) (h : CycleInRange s.cycle) : CycleInRange (State.testCorrected n m s).cycle := by
  induction m generalizing s with
  | zero => exact h
  | succ m ih => simp (maxDischargeDepth := 20) [State.testCorrected, ih, h]

@[simp] theorem testBlock_cycle (n ok) (s : State) (h : CycleInRange s.cycle) : CycleInRange (s.testBlock n ok).cycle := by unfold State.testBlock; (try dsimp only); (repeat' split) <;> first | with_reducible exact h | (simp (maxDischargeDepth := 20) [h]; done) | (simp_all (maxDischargeDepth := 20); done)

@[simp] theorem finishTest_cycle (s : State) (h : CycleInRange s.cycle) : CycleInRange (s.finishTest).cycle := by unfold State.finishTest; (try dsimp only); (repeat' split) <;> first | with_reducible exact h | (simp (maxDischargeDepth := 20) [h]; done) | (simp_all (maxDischargeDepth := 20); done)

@[simp] theorem selfRefresh_cycle (s : State) (h : CycleInRange s.cycle) : CycleInRange (s.selfRefresh).cycle := by unfold State.selfRefresh; (try dsimp only); (repeat' split) <;> first | with_reducible exact h | (simp (maxDischargeDepth := 20) [h]; done) | (simp_all (maxDischargeDepth := 20); done)

@[simp] theorem atBoundary_cycle (ord r) (s : State) (h : CycleInRange s.cycle) : CycleInRange (s.atBoundary ord r).cycle := by unfold State.atBoundary; (try dsimp only); (repeat' split) <;> first | with_reducible exact h | (simp (maxDischargeDepth := 20) [h]; done) | (simp_all (maxDischargeDepth := 20); done)

@[simp] theorem arrivalWork_cycle (ord fr r) (s : State) (h : CycleInRange s.cycle) : CycleInRange (s.arrivalWork ord fr r).cycle := by unfold State.arrivalWork; (try dsimp only); (repeat' split) <;> first | with_reducible exact h | (simp (maxDischargeDepth := 20) [h]; done) | (simp_all (maxDischargeDepth := 20); done)

@[simp] theorem arriveRun_cycle (ord fr) (s : State) (h : CycleInRange s.cycle) : CycleInRange (s.arriveRun ord fr).1.cycle := by unfold State.arriveRun; (try dsimp only); (repeat' split) <;> first | with_reducible exact h | (simp (maxDischargeDepth := 20) [h]; done) | (simp_all (maxDischargeDepth := 20); done)

@[simp] theorem arrive_cycle (ord fr) (s : State) (h : CycleInRange s.cycle) : CycleInRange (s.arrive ord fr).1.cycle := by unfold State.arrive; (try dsimp only); (repeat' split) <;> first | with_reducible exact h | (simp (maxDischargeDepth := 20) [h]; done) | (simp_all (maxDischargeDepth := 20); done)

@[simp] theorem raiseAt_cycle (k d r) (s : State) (h : CycleInRange s.cycle) : CycleInRange (s.raiseAt k d r).cycle := by unfold State.raiseAt; (try dsimp only); (repeat' split) <;> first | with_reducible exact h | (simp (maxDischargeDepth := 20) [h]; done) | (simp_all (maxDischargeDepth := 20); done)

@[simp] theorem audioBack_cycle (r) (s : State) (h : CycleInRange s.cycle) : CycleInRange (s.audioBack r).cycle := by unfold State.audioBack; (try dsimp only); (repeat' split) <;> first | with_reducible exact h | (simp (maxDischargeDepth := 20) [h]; done) | (simp_all (maxDischargeDepth := 20); done)

@[simp] theorem linkError_cycle (r) (s : State) (h : CycleInRange s.cycle) : CycleInRange (s.linkError r).cycle := by unfold State.linkError; (try dsimp only); (repeat' split) <;> first | with_reducible exact h | (simp (maxDischargeDepth := 20) [h]; done) | (simp_all (maxDischargeDepth := 20); done)

@[simp] theorem closeFrame_cycle (n bits ord) (s : State) (h : CycleInRange s.cycle) : CycleInRange (s.closeFrame n bits ord).cycle := by unfold State.closeFrame; (try dsimp only); (repeat' split) <;> first | with_reducible exact h | (simp (maxDischargeDepth := 20) [h]; done) | (simp_all (maxDischargeDepth := 20); done)

@[simp] theorem frameSync_cycle (n bits ord) (s : State) (h : CycleInRange s.cycle) : CycleInRange (s.frameSync n bits ord).cycle := by unfold State.frameSync; (try dsimp only); (repeat' split) <;> first | with_reducible exact h | (simp (maxDischargeDepth := 20) [h]; done) | (simp_all (maxDischargeDepth := 20); done)

@[simp] theorem watchdog_cycle (s : State) (h : CycleInRange s.cycle) : CycleInRange (s.watchdog).cycle := by unfold State.watchdog; (try dsimp only); (repeat' split) <;> first | with_reducible exact h | (simp (maxDischargeDepth := 20) [h]; done) | (simp_all (maxDischargeDepth := 20); done)

@[simp] theorem shiftRequest_cycle (p n) (s : State) (h : CycleInRange s.cycle) : CycleInRange (s.shiftRequest p n).cycle := by unfold State.shiftRequest; (try dsimp only); (repeat' split) <;> first | with_reducible exact h | (simp (maxDischargeDepth := 20) [h]; done) | (simp_all (maxDischargeDepth := 20); done)

@[simp] theorem refuse_cycle (rq code st) (s : State) (h : CycleInRange s.cycle) : CycleInRange (s.refuse rq code st).cycle := by unfold State.refuse; (try dsimp only); (repeat' split) <;> first | with_reducible exact h | (simp (maxDischargeDepth := 20) [h]; done) | (simp_all (maxDischargeDepth := 20); done)

@[simp] theorem beginTransfer_cycle (p k) (s : State) (h : CycleInRange s.cycle) : CycleInRange (s.beginTransfer p k).cycle := by unfold State.beginTransfer; (try dsimp only); (repeat' split) <;> first | with_reducible exact h | (simp (maxDischargeDepth := 20) [h]; done) | (simp_all (maxDischargeDepth := 20); done)

@[simp] theorem endTransfer_cycle (p) (s : State) (h : CycleInRange s.cycle) : CycleInRange (s.endTransfer p).cycle := by unfold State.endTransfer; (try dsimp only); (repeat' split) <;> first | with_reducible exact h | (simp (maxDischargeDepth := 20) [h]; done) | (simp_all (maxDischargeDepth := 20); done)

@[simp] theorem shiftOut_cycle (p t x) (s : State) (h : CycleInRange s.cycle) : CycleInRange (s.shiftOut p t x).cycle := by unfold State.shiftOut; (try dsimp only); (repeat' split) <;> first | with_reducible exact h | (simp (maxDischargeDepth := 20) [h]; done) | (simp_all (maxDischargeDepth := 20); done)

@[simp] theorem departHead_cycle (p) (s : State) (h : CycleInRange s.cycle) : CycleInRange (s.departHead p).cycle := by unfold State.departHead; (try dsimp only); (repeat' split) <;> first | with_reducible exact h | (simp (maxDischargeDepth := 20) [h]; done) | (simp_all (maxDischargeDepth := 20); done)

@[simp] theorem replyByte_cycle (p) (s : State) (h : CycleInRange s.cycle) : CycleInRange (s.replyByte p).cycle := by unfold State.replyByte; (try dsimp only); (repeat' split) <;> first | with_reducible exact h | (simp (maxDischargeDepth := 20) [h]; done) | (simp_all (maxDischargeDepth := 20); done)

@[simp] theorem eventByte_cycle (p t left j) (s : State) (h : CycleInRange s.cycle) : CycleInRange (s.eventByte p t left j).cycle := by unfold State.eventByte; (try dsimp only); (repeat' split) <;> first | with_reducible exact h | (simp (maxDischargeDepth := 20) [h]; done) | (simp_all (maxDischargeDepth := 20); done)

@[simp] theorem eventsByte_cycle (p) (s : State) (h : CycleInRange s.cycle) : CycleInRange (s.eventsByte p).cycle := by unfold State.eventsByte; (try dsimp only); (repeat' split) <;> first | with_reducible exact h | (simp (maxDischargeDepth := 20) [h]; done) | (simp_all (maxDischargeDepth := 20); done)

@[simp] theorem reportFlag_cycle (p flag) (s : State) (h : CycleInRange s.cycle) : CycleInRange (s.reportFlag p flag).cycle := by unfold State.reportFlag; (try dsimp only); (repeat' split) <;> first | with_reducible exact h | (simp (maxDischargeDepth := 20) [h]; done) | (simp_all (maxDischargeDepth := 20); done)

@[simp] theorem latchWindow_cycle (p) (s : State) (h : CycleInRange s.cycle) : CycleInRange (s.latchWindow p).cycle := by unfold State.latchWindow; (try dsimp only); (repeat' split) <;> first | with_reducible exact h | (simp (maxDischargeDepth := 20) [h]; done) | (simp_all (maxDischargeDepth := 20); done)

@[simp] theorem markShifting_cycle (p) (s : State) (h : CycleInRange s.cycle) : CycleInRange (s.markShifting p).cycle := by unfold State.markShifting; (try dsimp only); (repeat' split) <;> first | with_reducible exact h | (simp (maxDischargeDepth := 20) [h]; done) | (simp_all (maxDischargeDepth := 20); done)

@[simp] theorem sampleByte_cycle (p t j) (s : State) (h : CycleInRange s.cycle) : CycleInRange (s.sampleByte p t j).cycle := by unfold State.sampleByte; (try dsimp only); (repeat' split) <;> first | with_reducible exact h | (simp (maxDischargeDepth := 20) [h]; done) | (simp_all (maxDischargeDepth := 20); done)

@[simp] theorem windowReadByte_cycle (p) (s : State) (h : CycleInRange s.cycle) : CycleInRange (s.windowReadByte p).cycle := by unfold State.windowReadByte; (try dsimp only); (repeat' split) <;> first | with_reducible exact h | (simp (maxDischargeDepth := 20) [h]; done) | (simp_all (maxDischargeDepth := 20); done)

@[simp] theorem sampleIn_cycle (p x w) (s : State) (h : CycleInRange s.cycle) : CycleInRange (s.sampleIn p x w).cycle := by unfold State.sampleIn; (try dsimp only); (repeat' split) <;> first | with_reducible exact h | (simp (maxDischargeDepth := 20) [h]; done) | (simp_all (maxDischargeDepth := 20); done)

@[simp] theorem shiftZeros_cycle (p n) (s : State) (h : CycleInRange s.cycle) : CycleInRange (s.shiftZeros p n).cycle := by unfold State.shiftZeros; (try dsimp only); (repeat' split) <;> first | with_reducible exact h | (simp (maxDischargeDepth := 20) [h]; done) | (simp_all (maxDischargeDepth := 20); done)

@[simp] theorem riseIf_cycle (p rise) (s : State) (h : CycleInRange s.cycle) : CycleInRange (s.riseIf p rise).cycle := by unfold State.riseIf; (try dsimp only); (repeat' split) <;> first | with_reducible exact h | (simp (maxDischargeDepth := 20) [h]; done) | (simp_all (maxDischargeDepth := 20); done)

@[simp] theorem windowWriteByte_cycle (p x) (s : State) (h : CycleInRange s.cycle) : CycleInRange (s.windowWriteByte p x).cycle := by unfold State.windowWriteByte; (try dsimp only); (repeat' split) <;> first | with_reducible exact h | (simp (maxDischargeDepth := 20) [h]; done) | (simp_all (maxDischargeDepth := 20); done)

@[simp] theorem windowWriteBytes_cycle (p l) (s : State) (h : CycleInRange s.cycle) : CycleInRange (s.windowWriteBytes p l).cycle := by
  induction l generalizing s with
  | nil => exact h
  | cons x l ih => simp (maxDischargeDepth := 20) [State.windowWriteBytes, ih, h]

@[simp] theorem setMailbox_cycle (p n) (s : State) (h : CycleInRange s.cycle) : CycleInRange (s.setMailbox p n).cycle := by unfold State.setMailbox; (try dsimp only); (repeat' split) <;> first | with_reducible exact h | (simp (maxDischargeDepth := 20) [h]; done) | (simp_all (maxDischargeDepth := 20); done)

@[simp] theorem shutWindow_cycle (p) (s : State) (h : CycleInRange s.cycle) : CycleInRange (s.shutWindow p).cycle := by unfold State.shutWindow; (try dsimp only); (repeat' split) <;> first | with_reducible exact h | (simp (maxDischargeDepth := 20) [h]; done) | (simp_all (maxDischargeDepth := 20); done)

@[simp] theorem closeCommit_cycle (p w) (s : State) (h : CycleInRange s.cycle) : CycleInRange (s.closeCommit p w).cycle := by unfold State.closeCommit; (try dsimp only); (repeat' split) <;> first | with_reducible exact h | (simp (maxDischargeDepth := 20) [h]; done) | (simp_all (maxDischargeDepth := 20); done)

@[simp] theorem setEntry_cycle (c e) (s : State) (h : CycleInRange s.cycle) : CycleInRange (s.setEntry c e).cycle := by unfold State.setEntry; (try dsimp only); (repeat' split) <;> first | with_reducible exact h | (simp (maxDischargeDepth := 20) [h]; done) | (simp_all (maxDischargeDepth := 20); done)

@[simp] theorem setTimeout_cycle (p n) (s : State) (h : CycleInRange s.cycle) : CycleInRange (s.setTimeout p n).cycle := by unfold State.setTimeout; (try dsimp only); (repeat' split) <;> first | with_reducible exact h | (simp (maxDischargeDepth := 20) [h]; done) | (simp_all (maxDischargeDepth := 20); done)

@[simp] theorem placeImport_cycle (p id i) (s : State) (h : CycleInRange s.cycle) : CycleInRange (s.placeImport p id i).cycle := by unfold State.placeImport; (try dsimp only); (repeat' split) <;> first | with_reducible exact h | (simp (maxDischargeDepth := 20) [h]; done) | (simp_all (maxDischargeDepth := 20); done)

end Sys2Proof.Machine
end

