-- ==== Sys2Proof/Laws/KeepFrameCount.lean ====
section
/-! SUPPORT. The free-running frame count stands, every operation but the count itself and the resets (R3). -/
namespace Sys2Proof.Machine

open Sys2Proof

set_option linter.unusedSimpArgs false
set_option linter.unusedTactic false
set_option linter.unreachableTactic false
set_option linter.unnecessarySeqFocus false

/-- The frame count stands at a value. -/
abbrev CountIs (n : Nat) (c : Cycle) : Prop := c.frameCount = n

variable {n₀ : Nat}

@[simp] theorem setCycle_count (c : Cycle) (s : State) (h : c.frameCount = n₀) : (s.setCycle c).cycle.frameCount = n₀ := by
  unfold State.setCycle; split <;> exact h

@[simp] theorem move_count (c : Cycle) (len : Nat) : (c.move len).1.frameCount = c.frameCount := by
  unfold Cycle.move; (repeat' split) <;> rfl

@[simp] theorem setPort_count (p c) (s : State) (h : s.cycle.frameCount = n₀) : (s.setPort p c).cycle.frameCount = n₀ := by unfold State.setPort; (try dsimp only); (repeat' split) <;> first | with_reducible exact h | (simp (maxDischargeDepth := 20) [h]; done) | (simp_all (maxDischargeDepth := 20); done)

@[simp] theorem setTrack_count (t tr) (s : State) (h : s.cycle.frameCount = n₀) : (s.setTrack t tr).cycle.frameCount = n₀ := by unfold State.setTrack; (try dsimp only); (repeat' split) <;> first | with_reducible exact h | (simp (maxDischargeDepth := 20) [h]; done) | (simp_all (maxDischargeDepth := 20); done)

@[simp] theorem modTrack_count (t f) (s : State) (h : s.cycle.frameCount = n₀) : (s.modTrack t f).cycle.frameCount = n₀ := by unfold State.modTrack; (try dsimp only); (repeat' split) <;> first | with_reducible exact h | (simp (maxDischargeDepth := 20) [h]; done) | (simp_all (maxDischargeDepth := 20); done)

@[simp] theorem setLayer_count (id l) (s : State) (h : s.cycle.frameCount = n₀) : (s.setLayer id l).cycle.frameCount = n₀ := by unfold State.setLayer; (try dsimp only); (repeat' split) <;> first | with_reducible exact h | (simp (maxDischargeDepth := 20) [h]; done) | (simp_all (maxDischargeDepth := 20); done)

@[simp] theorem modLayer_count (id f) (s : State) (h : s.cycle.frameCount = n₀) : (s.modLayer id f).cycle.frameCount = n₀ := by unfold State.modLayer; (try dsimp only); (repeat' split) <;> first | with_reducible exact h | (simp (maxDischargeDepth := 20) [h]; done) | (simp_all (maxDischargeDepth := 20); done)

@[simp] theorem setWindow_count (p w) (s : State) (h : s.cycle.frameCount = n₀) : (s.setWindow p w).cycle.frameCount = n₀ := by unfold State.setWindow; (try dsimp only); (repeat' split) <;> first | with_reducible exact h | (simp (maxDischargeDepth := 20) [h]; done) | (simp_all (maxDischargeDepth := 20); done)

@[simp] theorem setSwitchPort_count (p c) (s : State) (h : s.cycle.frameCount = n₀) : (s.setSwitchPort p c).cycle.frameCount = n₀ := by unfold State.setSwitchPort; (try dsimp only); (repeat' split) <;> first | with_reducible exact h | (simp (maxDischargeDepth := 20) [h]; done) | (simp_all (maxDischargeDepth := 20); done)

@[simp] theorem offerTo_count (p e) (s : State) (h : s.cycle.frameCount = n₀) : (s.offerTo p e).cycle.frameCount = n₀ := by unfold State.offerTo; (try dsimp only); (repeat' split) <;> first | with_reducible exact h | (simp (maxDischargeDepth := 20) [h]; done) | (simp_all (maxDischargeDepth := 20); done)

@[simp] theorem raiseEvent_count (e) (s : State) (h : s.cycle.frameCount = n₀) : (s.raiseEvent e).cycle.frameCount = n₀ := by unfold State.raiseEvent; (try dsimp only); (repeat' split) <;> first | with_reducible exact h | (simp (maxDischargeDepth := 20) [h]; done) | (simp_all (maxDischargeDepth := 20); done)

@[simp] theorem raise_count (k t l d) (s : State) (h : s.cycle.frameCount = n₀) : (s.raise k t l d).cycle.frameCount = n₀ := by unfold State.raise; (try dsimp only); (repeat' split) <;> first | with_reducible exact h | (simp (maxDischargeDepth := 20) [h]; done) | (simp_all (maxDischargeDepth := 20); done)

@[simp] theorem takeFault_count (o) (s : State) (h : s.cycle.frameCount = n₀) : (s.takeFault o).cycle.frameCount = n₀ := by unfold State.takeFault; (try dsimp only); (repeat' split) <;> first | with_reducible exact h | (simp (maxDischargeDepth := 20) [h]; done) | (simp_all (maxDischargeDepth := 20); done)

theorem allocate_count (id : Nat) (s t : State) (h : s.cycle.frameCount = n₀) (e : s.allocate id = some t) : t.cycle.frameCount = n₀ := by
  unfold State.allocate at e
  split at e
  · injection e with e; subst e; simp (maxDischargeDepth := 20) [h]
  · simp at e

@[simp] theorem fillReply_count (p st tag code results) (s : State) (h : s.cycle.frameCount = n₀) : (s.fillReply p st tag code results).cycle.frameCount = n₀ := by unfold State.fillReply; (try dsimp only); (repeat' split) <;> first | with_reducible exact h | (simp (maxDischargeDepth := 20) [h]; done) | (simp_all (maxDischargeDepth := 20); done)

@[simp] theorem completeReply_count (p st results) (s : State) (h : s.cycle.frameCount = n₀) : (s.completeReply p st results).cycle.frameCount = n₀ := by unfold State.completeReply; (try dsimp only); (repeat' split) <;> first | with_reducible exact h | (simp (maxDischargeDepth := 20) [h]; done) | (simp_all (maxDischargeDepth := 20); done)

@[simp] theorem clearPassFlags_count (s : State) (h : s.cycle.frameCount = n₀) : (s.clearPassFlags).cycle.frameCount = n₀ := by unfold State.clearPassFlags; (try dsimp only); (repeat' split) <;> first | with_reducible exact h | (simp (maxDischargeDepth := 20) [h]; done) | (simp_all (maxDischargeDepth := 20); done)

@[simp] theorem startCycle_count (len d) (s : State) (h : s.cycle.frameCount = n₀) : (s.startCycle len d).cycle.frameCount = n₀ := by unfold State.startCycle; (try dsimp only); (repeat' split) <;> first | with_reducible exact h | (simp (maxDischargeDepth := 20) [h]; done) | (simp_all (maxDischargeDepth := 20); done)

@[simp] theorem emptyCycle_count (s : State) (h : s.cycle.frameCount = n₀) : (s.emptyCycle).cycle.frameCount = n₀ := by unfold State.emptyCycle; (try dsimp only); (repeat' split) <;> first | with_reducible exact h | (simp (maxDischargeDepth := 20) [h]; done) | (simp_all (maxDischargeDepth := 20); done)

@[simp] theorem closeDefining_count (n stop) (s : State) (h : s.cycle.frameCount = n₀) : (s.closeDefining n stop).cycle.frameCount = n₀ := by unfold State.closeDefining; (try dsimp only); (repeat' split) <;> first | with_reducible exact h | (simp (maxDischargeDepth := 20) [h]; done) | (simp_all (maxDischargeDepth := 20); done)

@[simp] theorem announce_count (r) (s : State) (h : s.cycle.frameCount = n₀) : (s.announce r).cycle.frameCount = n₀ := by unfold State.announce; (try dsimp only); (repeat' split) <;> first | with_reducible exact h | (simp (maxDischargeDepth := 20) [h]; done) | (simp_all (maxDischargeDepth := 20); done)

@[simp] theorem advance_count (s : State) (h : s.cycle.frameCount = n₀) : (s.advance).1.cycle.frameCount = n₀ := by
  unfold State.advance
  split
  · dsimp only
    split <;> simp [h]
  · exact h
  · exact h

@[simp] theorem settleBuffers_count (s : State) (h : s.cycle.frameCount = n₀) : (s.settleBuffers).cycle.frameCount = n₀ := by unfold State.settleBuffers; (try dsimp only); (repeat' split) <;> first | with_reducible exact h | (simp (maxDischargeDepth := 20) [h]; done) | (simp_all (maxDischargeDepth := 20); done)

@[simp] theorem reaim_count (id) (s : State) (h : s.cycle.frameCount = n₀) : (s.reaim id).cycle.frameCount = n₀ := by unfold State.reaim; (try dsimp only); (repeat' split) <;> first | with_reducible exact h | (simp (maxDischargeDepth := 20) [h]; done) | (simp_all (maxDischargeDepth := 20); done)

@[simp] theorem reaimAllZero_count (s : State) (h : s.cycle.frameCount = n₀) : (s.reaimAllZero).cycle.frameCount = n₀ := by unfold State.reaimAllZero; (try dsimp only); (repeat' split) <;> first | with_reducible exact h | (simp (maxDischargeDepth := 20) [h]; done) | (simp_all (maxDischargeDepth := 20); done)

@[simp] theorem setWait_count (who w) (s : State) (h : s.cycle.frameCount = n₀) : (s.setWait who w).cycle.frameCount = n₀ := by unfold State.setWait; (try dsimp only); (repeat' split) <;> first | with_reducible exact h | (simp (maxDischargeDepth := 20) [h]; done) | (simp_all (maxDischargeDepth := 20); done)

@[simp] theorem loseWindow_count (p cause) (s : State) (h : s.cycle.frameCount = n₀) : (s.loseWindow p cause).cycle.frameCount = n₀ := by unfold State.loseWindow; (try dsimp only); (repeat' split) <;> first | with_reducible exact h | (simp (maxDischargeDepth := 20) [h]; done) | (simp_all (maxDischargeDepth := 20); done)

@[simp] theorem loseWindowOn_count (id cause p) (s : State) (h : s.cycle.frameCount = n₀) : (s.loseWindowOn id cause p).cycle.frameCount = n₀ := by unfold State.loseWindowOn; (try dsimp only); (repeat' split) <;> first | with_reducible exact h | (simp (maxDischargeDepth := 20) [h]; done) | (simp_all (maxDischargeDepth := 20); done)

@[simp] theorem loseWindowsOn_count (id cause) (s : State) (h : s.cycle.frameCount = n₀) : (s.loseWindowsOn id cause).cycle.frameCount = n₀ := by unfold State.loseWindowsOn; (try dsimp only); (repeat' split) <;> first | with_reducible exact h | (simp (maxDischargeDepth := 20) [h]; done) | (simp_all (maxDischargeDepth := 20); done)

@[simp] theorem dropRecord_count (id) (s : State) (h : s.cycle.frameCount = n₀) : (s.dropRecord id).cycle.frameCount = n₀ := by unfold State.dropRecord; (try dsimp only); (repeat' split) <;> first | with_reducible exact h | (simp (maxDischargeDepth := 20) [h]; done) | (simp_all (maxDischargeDepth := 20); done)



@[simp] theorem freeLayer_count (cause id) (s : State) (h : s.cycle.frameCount = n₀) : (s.freeLayer cause id).cycle.frameCount = n₀ := by unfold State.freeLayer; (try dsimp only); (repeat' split) <;> first | with_reducible exact h | (simp (maxDischargeDepth := 20) [h]; done) | (simp_all (maxDischargeDepth := 20); done)

@[simp] theorem cutWindow_count (id n p) (s : State) (h : s.cycle.frameCount = n₀) : (s.cutWindow id n p).cycle.frameCount = n₀ := by unfold State.cutWindow; (try dsimp only); (repeat' split) <;> first | with_reducible exact h | (simp (maxDischargeDepth := 20) [h]; done) | (simp_all (maxDischargeDepth := 20); done)

@[simp] theorem truncate_count (id n) (s : State) (h : s.cycle.frameCount = n₀) : (s.truncate id n).cycle.frameCount = n₀ := by unfold State.truncate; (try dsimp only); (repeat' split) <;> first | with_reducible exact h | (simp (maxDischargeDepth := 20) [h]; done) | (simp_all (maxDischargeDepth := 20); done)

@[simp] theorem suspectBlock_count (rd b) (s : State) (h : s.cycle.frameCount = n₀) : (s.suspectBlock rd b).cycle.frameCount = n₀ := by unfold State.suspectBlock; (try dsimp only); (repeat' split) <;> first | with_reducible exact h | (simp (maxDischargeDepth := 20) [h]; done) | (simp_all (maxDischargeDepth := 20); done)

@[simp] theorem readChecked_count (who o chk rd) (s : State) (h : s.cycle.frameCount = n₀) : (s.readChecked who o chk rd).1.cycle.frameCount = n₀ := by unfold State.readChecked; (try dsimp only); (repeat' split) <;> first | with_reducible exact h | (simp (maxDischargeDepth := 20) [h]; done) | (simp_all (maxDischargeDepth := 20); done)

@[simp] theorem readFrom_count (who : Requester) (checks : List WordCheck) (l : List Nat) (rd : Reading) (s : State)
    (h : s.cycle.frameCount = n₀) : (State.readFrom who checks l rd s).1.cycle.frameCount = n₀ := by
  induction l generalizing rd s with
  | nil => exact h
  | cons i l ih => simp (maxDischargeDepth := 20) [State.readFrom, ih, h]

@[simp] theorem readRun_count (who checks rd) (s : State) (h : s.cycle.frameCount = n₀) : (s.readRun who checks rd).1.cycle.frameCount = n₀ := by unfold State.readRun; (try dsimp only); (repeat' split) <;> first | with_reducible exact h | (simp (maxDischargeDepth := 20) [h]; done) | (simp_all (maxDischargeDepth := 20); done)

@[simp] theorem windowDone_count (p w) (s : State) (h : s.cycle.frameCount = n₀) : (s.windowDone p w).cycle.frameCount = n₀ := by unfold State.windowDone; (try dsimp only); (repeat' split) <;> first | with_reducible exact h | (simp (maxDischargeDepth := 20) [h]; done) | (simp_all (maxDischargeDepth := 20); done)

@[simp] theorem settleRead_count (p) (s : State) (h : s.cycle.frameCount = n₀) : (s.settleRead p).cycle.frameCount = n₀ := by unfold State.settleRead; (try dsimp only); (repeat' split) <;> first | with_reducible exact h | (simp (maxDischargeDepth := 20) [h]; done) | (simp_all (maxDischargeDepth := 20); done)

@[simp] theorem takeSample_count (p) (s : State) (h : s.cycle.frameCount = n₀) : (s.takeSample p).cycle.frameCount = n₀ := by unfold State.takeSample; (try dsimp only); (repeat' split) <;> first | with_reducible exact h | (simp (maxDischargeDepth := 20) [h]; done) | (simp_all (maxDischargeDepth := 20); done)

@[simp] theorem reportDrop_count (r c) (s : State) (h : s.cycle.frameCount = n₀) : (s.reportDrop r c).cycle.frameCount = n₀ := by unfold State.reportDrop; (try dsimp only); (repeat' split) <;> first | with_reducible exact h | (simp (maxDischargeDepth := 20) [h]; done) | (simp_all (maxDischargeDepth := 20); done)

@[simp] theorem removeCue_count (id) (s : State) (h : s.cycle.frameCount = n₀) : (s.removeCue id).cycle.frameCount = n₀ := by unfold State.removeCue; (try dsimp only); (repeat' split) <;> first | with_reducible exact h | (simp (maxDischargeDepth := 20) [h]; done) | (simp_all (maxDischargeDepth := 20); done)

@[simp] theorem dropCue_count (r c) (s : State) (h : s.cycle.frameCount = n₀) : (s.dropCue r c).cycle.frameCount = n₀ := by unfold State.dropCue; (try dsimp only); (repeat' split) <;> first | with_reducible exact h | (simp (maxDischargeDepth := 20) [h]; done) | (simp_all (maxDischargeDepth := 20); done)

@[simp] theorem dropCues_count (r l) (s : State) (h : s.cycle.frameCount = n₀) : (s.dropCues r l).cycle.frameCount = n₀ := by
  induction l generalizing s with
  | nil => exact h
  | cons x l ih => simp (maxDischargeDepth := 20) [State.dropCues, ih, h]

@[simp] theorem dropAllCues_count (r) (s : State) (h : s.cycle.frameCount = n₀) : (s.dropAllCues r).cycle.frameCount = n₀ := by unfold State.dropAllCues; (try dsimp only); (repeat' split) <;> first | with_reducible exact h | (simp (maxDischargeDepth := 20) [h]; done) | (simp_all (maxDischargeDepth := 20); done)

@[simp] theorem dropTrackCues_count (t) (s : State) (h : s.cycle.frameCount = n₀) : (s.dropTrackCues t).cycle.frameCount = n₀ := by unfold State.dropTrackCues; (try dsimp only); (repeat' split) <;> first | with_reducible exact h | (simp (maxDischargeDepth := 20) [h]; done) | (simp_all (maxDischargeDepth := 20); done)

@[simp] theorem makeCue_count (q a t u pr ps po) (s : State) (h : s.cycle.frameCount = n₀) : (s.makeCue q a t u pr ps po).1.cycle.frameCount = n₀ := by unfold State.makeCue; (try dsimp only); (repeat' split) <;> first | with_reducible exact h | (simp (maxDischargeDepth := 20) [h]; done) | (simp_all (maxDischargeDepth := 20); done)

@[simp] theorem joinCue_count (id p) (s : State) (h : s.cycle.frameCount = n₀) : (s.joinCue id p).cycle.frameCount = n₀ := by unfold State.joinCue; (try dsimp only); (repeat' split) <;> first | with_reducible exact h | (simp (maxDischargeDepth := 20) [h]; done) | (simp_all (maxDischargeDepth := 20); done)

@[simp] theorem placeCue_count (q a t u pr ps po) (s : State) (h : s.cycle.frameCount = n₀) : (s.placeCue q a t u pr ps po).1.cycle.frameCount = n₀ := by unfold State.placeCue; (try dsimp only); (repeat' split) <;> first | with_reducible exact h | (simp (maxDischargeDepth := 20) [h]; done) | (simp_all (maxDischargeDepth := 20); done)

@[simp] theorem supersedeSlot_count (t f) (s : State) (h : s.cycle.frameCount = n₀) : (s.supersedeSlot t f).cycle.frameCount = n₀ := by unfold State.supersedeSlot; (try dsimp only); (repeat' split) <;> first | with_reducible exact h | (simp (maxDischargeDepth := 20) [h]; done) | (simp_all (maxDischargeDepth := 20); done)

@[simp] theorem raiseTrack_count (t) (s : State) (h : s.cycle.frameCount = n₀) : (s.raiseTrack t).cycle.frameCount = n₀ := by unfold State.raiseTrack; (try dsimp only); (repeat' split) <;> first | with_reducible exact h | (simp (maxDischargeDepth := 20) [h]; done) | (simp_all (maxDischargeDepth := 20); done)

@[simp] theorem noteTrack_count (t old) (s : State) (h : s.cycle.frameCount = n₀) : (s.noteTrack t old).cycle.frameCount = n₀ := by unfold State.noteTrack; (try dsimp only); (repeat' split) <;> first | with_reducible exact h | (simp (maxDischargeDepth := 20) [h]; done) | (simp_all (maxDischargeDepth := 20); done)

@[simp] theorem settleTrack_count (t) (s : State) (h : s.cycle.frameCount = n₀) : (s.settleTrack t).cycle.frameCount = n₀ := by unfold State.settleTrack; (try dsimp only); (repeat' split) <;> first | with_reducible exact h | (simp (maxDischargeDepth := 20) [h]; done) | (simp_all (maxDischargeDepth := 20); done)

@[simp] theorem unfoldMember_count (id) (s : State) (h : s.cycle.frameCount = n₀) : (s.unfoldMember id).cycle.frameCount = n₀ := by unfold State.unfoldMember; (try dsimp only); (repeat' split) <;> first | with_reducible exact h | (simp (maxDischargeDepth := 20) [h]; done) | (simp_all (maxDischargeDepth := 20); done)

theorem foldl_unfold_count (l : List Nat) (s : State) (h : s.cycle.frameCount = n₀) :
    (l.foldl (fun s id => State.unfoldMember id s) s).cycle.frameCount = n₀ := by
  induction l generalizing s with
  | nil => exact h
  | cons x l ih => simp (maxDischargeDepth := 20) [ih, h]

@[simp] theorem abandonFold_count (cause keep) (s : State) (h : s.cycle.frameCount = n₀) : (s.abandonFold cause keep).cycle.frameCount = n₀ := by unfold State.abandonFold; (try dsimp only); (repeat' split) <;> simp (maxDischargeDepth := 20) [foldl_unfold_count, h]

@[simp] theorem beginFoldBurst_count (s : State) (h : s.cycle.frameCount = n₀) : (s.beginFoldBurst).cycle.frameCount = n₀ := by
  unfold State.beginFoldBurst
  split
  · exact h
  · next f hf =>
    dsimp only
    split
    · simp (maxDischargeDepth := 20) [h]
    · next u hu =>
      have hu' : u.cycle.frameCount = n₀ := by
        split at hu
        · exact allocate_count _ _ _ h hu
        · injection hu with hu; rw [← hu]; exact h
      (repeat' split) <;> simp (maxDischargeDepth := 20) [hu'] 

@[simp] theorem settleFold_count (s : State) (h : s.cycle.frameCount = n₀) : (s.settleFold).cycle.frameCount = n₀ := by unfold State.settleFold; (try dsimp only); (repeat' split) <;> first | with_reducible exact h | (simp (maxDischargeDepth := 20) [h]; done) | (simp_all (maxDischargeDepth := 20); done)

@[simp] theorem startFold_count (t i j rid rest) (s : State) (h : s.cycle.frameCount = n₀) : (s.startFold t i j rid rest).cycle.frameCount = n₀ := by unfold State.startFold; (try dsimp only); (repeat' split) <;> first | with_reducible exact h | (simp (maxDischargeDepth := 20) [h]; done) | (simp_all (maxDischargeDepth := 20); done)

theorem takeRoom_count (t : TrackId) (s u : State) (id : Nat) (h : s.cycle.frameCount = n₀) (e : s.takeRoom t = .ok (u, id)) : u.cycle.frameCount = n₀ := by
  unfold State.takeRoom at e
  split at e
  · simp at e
  · dsimp only at e
    split at e
    · simp at e; rw [← e.1]; exact h
    · split at e
      · split at e
        · split at e
          · simp at e; rw [← e.1]; simp (maxDischargeDepth := 20) [h]
          · simp at e
        · simp at e
      · simp at e

@[simp] theorem completeFold_count (s : State) (h : s.cycle.frameCount = n₀) : (s.completeFold).cycle.frameCount = n₀ := by unfold State.completeFold; (try dsimp only); (repeat' split) <;> first | with_reducible exact h | (simp (maxDischargeDepth := 20) [h]; done) | (simp_all (maxDischargeDepth := 20); done)

@[simp] theorem endCapture_count (id n) (s : State) (h : s.cycle.frameCount = n₀) : (s.endCapture id n).cycle.frameCount = n₀ := by unfold State.endCapture; (try dsimp only); (repeat' split) <;> first | with_reducible exact h | (simp (maxDischargeDepth := 20) [h]; done) | (simp_all (maxDischargeDepth := 20); done)

@[simp] theorem cutReads_count (id n) (s : State) (h : s.cycle.frameCount = n₀) : (s.cutReads id n).cycle.frameCount = n₀ := by unfold State.cutReads; (try dsimp only); (repeat' split) <;> first | with_reducible exact h | (simp (maxDischargeDepth := 20) [h]; done) | (simp_all (maxDischargeDepth := 20); done)

@[simp] theorem endAt_count (id n) (s : State) (h : s.cycle.frameCount = n₀) : (s.endAt id n).cycle.frameCount = n₀ := by unfold State.endAt; (try dsimp only); (repeat' split) <;> first | with_reducible exact h | (simp (maxDischargeDepth := 20) [h]; done) | (simp_all (maxDischargeDepth := 20); done)

@[simp] theorem raiseClosed_count (t id) (s : State) (h : s.cycle.frameCount = n₀) : (s.raiseClosed t id).cycle.frameCount = n₀ := by unfold State.raiseClosed; (try dsimp only); (repeat' split) <;> first | with_reducible exact h | (simp (maxDischargeDepth := 20) [h]; done) | (simp_all (maxDischargeDepth := 20); done)

@[simp] theorem markFresh_count (b id) (s : State) (h : s.cycle.frameCount = n₀) : (s.markFresh b id).cycle.frameCount = n₀ := by unfold State.markFresh; (try dsimp only); (repeat' split) <;> first | with_reducible exact h | (simp (maxDischargeDepth := 20) [h]; done) | (simp_all (maxDischargeDepth := 20); done)

@[simp] theorem discardOpen_count (t id) (s : State) (h : s.cycle.frameCount = n₀) : (s.discardOpen t id).cycle.frameCount = n₀ := by unfold State.discardOpen; (try dsimp only); (repeat' split) <;> first | with_reducible exact h | (simp (maxDischargeDepth := 20) [h]; done) | (simp_all (maxDischargeDepth := 20); done)

@[simp] theorem closeFirst_count (t id n fr stop) (s : State) (h : s.cycle.frameCount = n₀) : (s.closeFirst t id n fr stop).cycle.frameCount = n₀ := by unfold State.closeFirst; (try dsimp only); (repeat' split) <;> first | with_reducible exact h | (simp (maxDischargeDepth := 20) [h]; done) | (simp_all (maxDischargeDepth := 20); done)

@[simp] theorem closeLayered_count (t id n fr) (s : State) (h : s.cycle.frameCount = n₀) : (s.closeLayered t id n fr).cycle.frameCount = n₀ := by unfold State.closeLayered; (try dsimp only); (repeat' split) <;> first | with_reducible exact h | (simp (maxDischargeDepth := 20) [h]; done) | (simp_all (maxDischargeDepth := 20); done)

@[simp] theorem closeRolled_count (t id n l) (s : State) (h : s.cycle.frameCount = n₀) : (s.closeRolled t id n l).cycle.frameCount = n₀ := by unfold State.closeRolled; (try dsimp only); (repeat' split) <;> first | with_reducible exact h | (simp (maxDischargeDepth := 20) [h]; done) | (simp_all (maxDischargeDepth := 20); done)

@[simp] theorem closeAtRoll_count (t r n b) (s : State) (h : s.cycle.frameCount = n₀) : (s.closeAtRoll t r n b).cycle.frameCount = n₀ := by unfold State.closeAtRoll; (try dsimp only); (repeat' split) <;> first | with_reducible exact h | (simp (maxDischargeDepth := 20) [h]; done) | (simp_all (maxDischargeDepth := 20); done)

@[simp] theorem closeOpen_count (t n b fr stop) (s : State) (h : s.cycle.frameCount = n₀) : (s.closeOpen t n b fr stop).cycle.frameCount = n₀ := by unfold State.closeOpen; (try dsimp only); (repeat' split) <;> first | with_reducible exact h | (simp (maxDischargeDepth := 20) [h]; done) | (simp_all (maxDischargeDepth := 20); done)

@[simp] theorem closeAtCut_count (t k stop) (s : State) (h : s.cycle.frameCount = n₀) : (s.closeAtCut t k stop).cycle.frameCount = n₀ := by unfold State.closeAtCut; (try dsimp only); (repeat' split) <;> first | with_reducible exact h | (simp (maxDischargeDepth := 20) [h]; done) | (simp_all (maxDischargeDepth := 20); done)

theorem actClose_ok_count (t k) (s u : State) (h : s.cycle.frameCount = n₀) (e : s.actClose t k = .ok u) : u.cycle.frameCount = n₀ := by
  unfold State.actClose at e; (try dsimp only at e); (repeat' split at e) <;> simp at e <;> (subst e; simp (maxDischargeDepth := 20) [h])

@[simp] theorem actMute_count (t n) (s : State) (h : s.cycle.frameCount = n₀) : (s.actMute t n).cycle.frameCount = n₀ := by unfold State.actMute; (try dsimp only); (repeat' split) <;> first | with_reducible exact h | (simp (maxDischargeDepth := 20) [h]; done) | (simp_all (maxDischargeDepth := 20); done)

@[simp] theorem toRedo_count (t id) (s : State) (h : s.cycle.frameCount = n₀) : (s.toRedo t id).cycle.frameCount = n₀ := by unfold State.toRedo; (try dsimp only); (repeat' split) <;> first | with_reducible exact h | (simp (maxDischargeDepth := 20) [h]; done) | (simp_all (maxDischargeDepth := 20); done)

@[simp] theorem freeAll_count (cause l) (s : State) (h : s.cycle.frameCount = n₀) : (s.freeAll cause l).cycle.frameCount = n₀ := by
  induction l generalizing s with
  | nil => exact h
  | cons x l ih => simp (maxDischargeDepth := 20) [State.freeAll, ih, h]

theorem actUndo_ok_count (t) (s u : State) (h : s.cycle.frameCount = n₀) (e : s.actUndo t = .ok u) : u.cycle.frameCount = n₀ := by
  unfold State.actUndo at e
  dsimp only at e
  (repeat' split at e) <;> simp at e <;> (try (subst e; simp (maxDischargeDepth := 20) [h]))
  all_goals (repeat' split) <;> simp (maxDischargeDepth := 20) [h]

theorem actRedo_ok_count (t) (s u : State) (h : s.cycle.frameCount = n₀) (e : s.actRedo t = .ok u) : u.cycle.frameCount = n₀ := by
  unfold State.actRedo at e; (try dsimp only at e); (repeat' split at e) <;> simp at e <;> (subst e; simp (maxDischargeDepth := 20) [h])

@[simp] theorem emptyTrack_count (t) (s : State) (h : s.cycle.frameCount = n₀) : (s.emptyTrack t).cycle.frameCount = n₀ := by unfold State.emptyTrack; (try dsimp only); (repeat' split) <;> first | with_reducible exact h | (simp (maxDischargeDepth := 20) [h]; done) | (simp_all (maxDischargeDepth := 20); done)

@[simp] theorem forgetTrack_count (t) (s : State) (h : s.cycle.frameCount = n₀) : (s.forgetTrack t).cycle.frameCount = n₀ := by unfold State.forgetTrack; (try dsimp only); (repeat' split) <;> first | with_reducible exact h | (simp (maxDischargeDepth := 20) [h]; done) | (simp_all (maxDischargeDepth := 20); done)

@[simp] theorem clearTrack_count (t) (s : State) (h : s.cycle.frameCount = n₀) : (s.clearTrack t).cycle.frameCount = n₀ := by unfold State.clearTrack; (try dsimp only); (repeat' split) <;> first | with_reducible exact h | (simp (maxDischargeDepth := 20) [h]; done) | (simp_all (maxDischargeDepth := 20); done)

@[simp] theorem actClearTrack_count (t) (s : State) (h : s.cycle.frameCount = n₀) : (s.actClearTrack t).cycle.frameCount = n₀ := by unfold State.actClearTrack; (try dsimp only); (repeat' split) <;> first | with_reducible exact h | (simp (maxDischargeDepth := 20) [h]; done) | (simp_all (maxDischargeDepth := 20); done)

@[simp] theorem writeRing_count (f) (s : State) (h : s.cycle.frameCount = n₀) : (s.writeRing f).cycle.frameCount = n₀ := by unfold State.writeRing; (try dsimp only); (repeat' split) <;> first | with_reducible exact h | (simp (maxDischargeDepth := 20) [h]; done) | (simp_all (maxDischargeDepth := 20); done)

@[simp] theorem setRecord_count (i r) (s : State) (h : s.cycle.frameCount = n₀) : (s.setRecord i r).cycle.frameCount = n₀ := by unfold State.setRecord; (try dsimp only); (repeat' split) <;> first | with_reducible exact h | (simp (maxDischargeDepth := 20) [h]; done) | (simp_all (maxDischargeDepth := 20); done)

@[simp] theorem refillAll_count (s : State) (h : s.cycle.frameCount = n₀) : (s.refillAll).cycle.frameCount = n₀ := by unfold State.refillAll; (try dsimp only); (repeat' split) <;> first | with_reducible exact h | (simp (maxDischargeDepth := 20) [h]; done) | (simp_all (maxDischargeDepth := 20); done)

@[simp] theorem overrun_count (pl id r) (s : State) (h : s.cycle.frameCount = n₀) : (s.overrun pl id r).cycle.frameCount = n₀ := by unfold State.overrun; (try dsimp only); (repeat' split) <;> first | with_reducible exact h | (simp (maxDischargeDepth := 20) [h]; done) | (simp_all (maxDischargeDepth := 20); done)

@[simp] theorem cutClosed_count (id n) (s : State) (h : s.cycle.frameCount = n₀) : (s.cutClosed id n).cycle.frameCount = n₀ := by unfold State.cutClosed; (try dsimp only); (repeat' split) <;> first | with_reducible exact h | (simp (maxDischargeDepth := 20) [h]; done) | (simp_all (maxDischargeDepth := 20); done)

@[simp] theorem exhaust_count (id n) (s : State) (h : s.cycle.frameCount = n₀) : (s.exhaust id n).cycle.frameCount = n₀ := by unfold State.exhaust; (try dsimp only); (repeat' split) <;> first | with_reducible exact h | (simp (maxDischargeDepth := 20) [h]; done) | (simp_all (maxDischargeDepth := 20); done)

theorem allocateEach_count (id : Nat) (l : List Nat) (s : State) (h : s.cycle.frameCount = n₀) : (State.allocateEach id l s).1.cycle.frameCount = n₀ := by
  induction l generalizing s with
  | nil => exact h
  | cons o l ih =>
    unfold State.allocateEach
    split
    · next u hu => exact ih _ (allocate_count _ _ _ h hu)
    · exact h

@[simp] theorem giveUp_count (pl id r) (s : State) (h : s.cycle.frameCount = n₀) : (s.giveUp pl id r).cycle.frameCount = n₀ := by
  unfold State.giveUp
  have h' := allocateEach_count id (s.blocksNeeded id r) s h
  split <;> next hu => rw [hu] at h'; dsimp only at h'; simp (maxDischargeDepth := 20) [h']

@[simp] theorem handOver_count (i) (s : State) (h : s.cycle.frameCount = n₀) : (s.handOver i).cycle.frameCount = n₀ := by
  unfold State.handOver
  split
  · exact h
  · split
    · simp (maxDischargeDepth := 20) [h]
    · next u hu =>
      have hu' : u.cycle.frameCount = n₀ := by
        split at hu
        · exact allocate_count _ _ _ h hu
        · injection hu with hu; rw [← hu]; exact h
      dsimp only
      (repeat' split) <;> simp (maxDischargeDepth := 20) [hu'] 

@[simp] theorem settleCapture_count (n : Nat) (s : State) (h : s.cycle.frameCount = n₀) : (State.settleCapture n s).cycle.frameCount = n₀ := by
  induction n generalizing s with
  | zero => unfold State.settleCapture; simp (maxDischargeDepth := 20) [h]
  | succ n ih =>
    unfold State.settleCapture
    dsimp only
    (repeat' split) <;> simp (maxDischargeDepth := 20) [ih, h]

@[simp] theorem overtake_count (pl i) (s : State) (h : s.cycle.frameCount = n₀) : (s.overtake pl i).cycle.frameCount = n₀ := by unfold State.overtake; (try dsimp only); (repeat' split) <;> first | with_reducible exact h | (simp (maxDischargeDepth := 20) [h]; done) | (simp_all (maxDischargeDepth := 20); done)

@[simp] theorem stealRecord_count (i) (s : State) (h : s.cycle.frameCount = n₀) : (s.stealRecord i).cycle.frameCount = n₀ := by unfold State.stealRecord; (try dsimp only); (repeat' split) <;> first | with_reducible exact h | (simp (maxDischargeDepth := 20) [h]; done) | (simp_all (maxDischargeDepth := 20); done)

@[simp] theorem placeRecord_count (r) (s : State) (h : s.cycle.frameCount = n₀) : (s.placeRecord r).cycle.frameCount = n₀ := by unfold State.placeRecord; (try dsimp only); (repeat' split) <;> first | with_reducible exact h | (simp (maxDischargeDepth := 20) [h]; done) | (simp_all (maxDischargeDepth := 20); done)

@[simp] theorem openLayer_count (t id l st ph dest) (s : State) (h : s.cycle.frameCount = n₀) : (s.openLayer t id l st ph dest).cycle.frameCount = n₀ := by unfold State.openLayer; (try dsimp only); (repeat' split) <;> first | with_reducible exact h | (simp (maxDischargeDepth := 20) [h]; done) | (simp_all (maxDischargeDepth := 20); done)

@[simp] theorem freeRedo_count (t) (s : State) (h : s.cycle.frameCount = n₀) : (s.freeRedo t).cycle.frameCount = n₀ := by unfold State.freeRedo; (try dsimp only); (repeat' split) <;> first | with_reducible exact h | (simp (maxDischargeDepth := 20) [h]; done) | (simp_all (maxDischargeDepth := 20); done)

@[simp] theorem startDefining_count (s : State) (h : s.cycle.frameCount = n₀) : (s.startDefining).cycle.frameCount = n₀ := by unfold State.startDefining; (try dsimp only); (repeat' split) <;> first | with_reducible exact h | (simp (maxDischargeDepth := 20) [h]; done) | (simp_all (maxDischargeDepth := 20); done)

theorem actRecord_ok_count (t k) (s u : State) (h : s.cycle.frameCount = n₀) (e : s.actRecord t k = .ok u) : u.cycle.frameCount = n₀ := by
  unfold State.actRecord at e
  split at e
  · simp at e
  · split at e
    · simp at e
    · next v id hv =>
      injection e with e; subst e
      simp (maxDischargeDepth := 20) [takeRoom_count _ _ _ _ h hv]

theorem actLayer_ok_count (t cv k) (s u : State) (h : s.cycle.frameCount = n₀) (e : s.actLayer t cv k = .ok u) : u.cycle.frameCount = n₀ := by
  unfold State.actLayer at e
  split at e
  · split at e
    · simp at e
    · next v id hv =>
      injection e with e; subst e
      simp (maxDischargeDepth := 20) [takeRoom_count _ _ _ _ h hv]
  · simp at e

@[simp] theorem decayAll_count (n l) (s : State) (h : s.cycle.frameCount = n₀) : (s.decayAll n l).cycle.frameCount = n₀ := by
  induction l generalizing s with
  | nil => exact h
  | cons x l ih => simp (maxDischargeDepth := 20) [State.decayAll, ih, h]

@[simp] theorem decayFold_count (t n) (s : State) (h : s.cycle.frameCount = n₀) : (s.decayFold t n).cycle.frameCount = n₀ := by unfold State.decayFold; (try dsimp only); (repeat' split) <;> first | with_reducible exact h | (simp (maxDischargeDepth := 20) [h]; done) | (simp_all (maxDischargeDepth := 20); done)

@[simp] theorem retire_count (t id) (s : State) (h : s.cycle.frameCount = n₀) : (s.retire t id).cycle.frameCount = n₀ := by unfold State.retire; (try dsimp only); (repeat' split) <;> first | with_reducible exact h | (simp (maxDischargeDepth := 20) [h]; done) | (simp_all (maxDischargeDepth := 20); done)

@[simp] theorem retireAll_count (t l) (s : State) (h : s.cycle.frameCount = n₀) : (s.retireAll t l).cycle.frameCount = n₀ := by
  induction l generalizing s with
  | nil => exact h
  | cons x l ih => simp (maxDischargeDepth := 20) [State.retireAll, ih, h]

@[simp] theorem decayTrack_count (t) (s : State) (h : s.cycle.frameCount = n₀) : (s.decayTrack t).cycle.frameCount = n₀ := by unfold State.decayTrack; (try dsimp only); (repeat' split) <;> first | with_reducible exact h | (simp (maxDischargeDepth := 20) [h]; done) | (simp_all (maxDischargeDepth := 20); done)

@[simp] theorem roll_count (t) (s : State) (h : s.cycle.frameCount = n₀) : (s.roll t).cycle.frameCount = n₀ := by
  unfold State.roll
  dsimp only
  split
  · split
    · split
      · exact h
      · split
        · next v id' hv =>
          have hu : v.cycle.frameCount = n₀ := by
            refine takeRoom_count _ _ _ _ ?_ hv
            simp (maxDischargeDepth := 20) [h]
          simp (maxDischargeDepth := 20) [hu]
        · simp (maxDischargeDepth := 20) [h]
    · exact h
  · exact h

@[simp] theorem wrapTrack_count (t) (s : State) (h : s.cycle.frameCount = n₀) : (s.wrapTrack t).cycle.frameCount = n₀ := by unfold State.wrapTrack; (try dsimp only); (repeat' split) <;> first | with_reducible exact h | (simp (maxDischargeDepth := 20) [h]; done) | (simp_all (maxDischargeDepth := 20); done)

@[simp] theorem liveOne_count (fr i) (s : State) (h : s.cycle.frameCount = n₀) : (s.liveOne fr i).cycle.frameCount = n₀ := by unfold State.liveOne; (try dsimp only); (repeat' split) <;> first | with_reducible exact h | (simp (maxDischargeDepth := 20) [h]; done) | (simp_all (maxDischargeDepth := 20); done)

@[simp] theorem liveAll_count (fr l) (s : State) (h : s.cycle.frameCount = n₀) : (s.liveAll fr l).cycle.frameCount = n₀ := by
  induction l generalizing s with
  | nil => exact h
  | cons x l ih => simp (maxDischargeDepth := 20) [State.liveAll, ih, h]

@[simp] theorem overtakeAll_count (pl l) (s : State) (h : s.cycle.frameCount = n₀) : (s.overtakeAll pl l).cycle.frameCount = n₀ := by
  induction l generalizing s with
  | nil => exact h
  | cons x l ih => simp (maxDischargeDepth := 20) [State.overtakeAll, ih, h]

@[simp] theorem captureArrival_count (pl fr ord) (s : State) (h : s.cycle.frameCount = n₀) : (s.captureArrival pl fr ord).cycle.frameCount = n₀ := by unfold State.captureArrival; (try dsimp only); (repeat' split) <;> first | with_reducible exact h | (simp (maxDischargeDepth := 20) [h]; done) | (simp_all (maxDischargeDepth := 20); done)

@[simp] theorem closeLimits_count (l) (s : State) (h : s.cycle.frameCount = n₀) : (s.closeLimits l).cycle.frameCount = n₀ := by
  induction l generalizing s with
  | nil => exact h
  | cons x l ih => unfold State.closeLimits; exact ih _ (by split <;> simp (maxDischargeDepth := 20) [h])

@[simp] theorem closeTracks_count (k stop l) (s : State) (h : s.cycle.frameCount = n₀) : (s.closeTracks k stop l).cycle.frameCount = n₀ := by
  induction l generalizing s with
  | nil => exact h
  | cons x l ih => simp (maxDischargeDepth := 20) [State.closeTracks, ih, h]

@[simp] theorem pauseCycle_count (s : State) (h : s.cycle.frameCount = n₀) : (s.pauseCycle).cycle.frameCount = n₀ := by unfold State.pauseCycle; (try dsimp only); (repeat' split) <;> first | with_reducible exact h | (simp (maxDischargeDepth := 20) [h]; done) | (simp_all (maxDischargeDepth := 20); done)

@[simp] theorem actStopAll_count (k) (s : State) (h : s.cycle.frameCount = n₀) : (s.actStopAll k).cycle.frameCount = n₀ := by unfold State.actStopAll; (try dsimp only); (repeat' split) <;> first | with_reducible exact h | (simp (maxDischargeDepth := 20) [h]; done) | (simp_all (maxDischargeDepth := 20); done)

theorem actPlayAll_ok_count (s u : State) (h : s.cycle.frameCount = n₀) (e : s.actPlayAll = .ok u) : u.cycle.frameCount = n₀ := by
  unfold State.actPlayAll at e; (try dsimp only at e); (repeat' split at e) <;> simp at e <;> (subst e; simp (maxDischargeDepth := 20) [h])

theorem act_ok_count (x t k) (s u : State) (h : s.cycle.frameCount = n₀) (e : s.act x t k = .ok u) : u.cycle.frameCount = n₀ := by
  unfold State.act at e
  split at e
  · exact actRecord_ok_count _ _ _ _ h e
  · exact actLayer_ok_count _ _ _ _ _ h e
  · exact actLayer_ok_count _ _ _ _ _ h e
  · exact actClose_ok_count _ _ _ _ h e
  · injection e with e; subst e; simp (maxDischargeDepth := 20) [h]
  · injection e with e; subst e; simp (maxDischargeDepth := 20) [h]
  · exact actUndo_ok_count _ _ _ h e
  · exact actRedo_ok_count _ _ _ h e
  · injection e with e; subst e; simp (maxDischargeDepth := 20) [h]
  · exact actPlayAll_ok_count _ _ h e
  · simp at e

@[simp] theorem actAtOnce_count (x t e) (s : State) (h : s.cycle.frameCount = n₀) : (s.actAtOnce x t e).1.cycle.frameCount = n₀ := by
  unfold State.actAtOnce
  dsimp only
  split
  · exact h
  · next u hu =>
    have hu' : u.cycle.frameCount = n₀ := by
      refine act_ok_count _ _ _ _ _ ?_ hu
      split <;> simp (maxDischargeDepth := 20) [h]
    (repeat' split) <;> simp_all (maxDischargeDepth := 20)

@[simp] theorem quantised_count (q x t u pr) (s : State) (h : s.cycle.frameCount = n₀) : (s.quantised q x t u pr).1.cycle.frameCount = n₀ := by
  unfold State.quantised
  split <;> simp (maxDischargeDepth := 20) [h]

@[simp] theorem takeCue_count (r) (s : State) (h : s.cycle.frameCount = n₀) : (s.takeCue r).cycle.frameCount = n₀ := by
  unfold State.takeCue
  split
  · exact h
  · split
    · dsimp only
      split
      · next u hu =>
        have hu' : u.cycle.frameCount = n₀ := by
          refine act_ok_count _ _ _ _ _ ?_ hu
          exact h
        simp (maxDischargeDepth := 20) [hu']
      · simp (maxDischargeDepth := 20) [h]
    · exact h

@[simp] theorem takeCues_count (r : Reached) (n : Nat) (s : State) (h : s.cycle.frameCount = n₀) : (State.takeCues r n s).cycle.frameCount = n₀ := by
  induction n generalizing s with
  | zero => exact h
  | succ n ih => simp (maxDischargeDepth := 20) [State.takeCues, ih, h]

@[simp] theorem wrapAll_count (l) (s : State) (h : s.cycle.frameCount = n₀) : (s.wrapAll l).cycle.frameCount = n₀ := by
  induction l generalizing s with
  | nil => exact h
  | cons x l ih => simp (maxDischargeDepth := 20) [State.wrapAll, ih, h]

@[simp] theorem boundaryWork_count (r : Reached) (l : List (Option TrackId)) (w : List TrackId) (s : State)
    (h : s.cycle.frameCount = n₀) : (State.boundaryWork r l w s).cycle.frameCount = n₀ := by
  induction l generalizing s w with
  | nil => simp (maxDischargeDepth := 20) [State.boundaryWork, h]
  | cons x l ih =>
    cases x with
    | none => simp (maxDischargeDepth := 20) [State.boundaryWork, ih, h]
    | some t => unfold State.boundaryWork; split <;> simp (maxDischargeDepth := 20) [ih, h]

@[simp] theorem actTap_count (stamp) (s : State) (h : s.cycle.frameCount = n₀) : (s.actTap stamp).1.cycle.frameCount = n₀ := by unfold State.actTap; (try dsimp only); (repeat' split) <;> first | with_reducible exact h | (simp (maxDischargeDepth := 20) [h]; done) | (simp_all (maxDischargeDepth := 20); done)

@[simp] theorem noteRecent_count (q t x pr an) (s : State) (h : s.cycle.frameCount = n₀) : (s.noteRecent q t x pr an).cycle.frameCount = n₀ := by unfold State.noteRecent; (try dsimp only); (repeat' split) <;> first | with_reducible exact h | (simp (maxDischargeDepth := 20) [h]; done) | (simp_all (maxDischargeDepth := 20); done)

@[simp] theorem resolved_count (q t x u pr) (s : State) (h : s.cycle.frameCount = n₀) : (s.resolved q t x u pr).1.cycle.frameCount = n₀ := by
  unfold State.resolved
  split
  · exact h
  · dsimp only
    (repeat' split) <;> simp (maxDischargeDepth := 20) [h]

@[simp] theorem toggle_count (q t x u pr) (s : State) (h : s.cycle.frameCount = n₀) : (s.toggle q t x u pr).1.cycle.frameCount = n₀ := by unfold State.toggle; (try dsimp only); (repeat' split) <;> first | with_reducible exact h | (simp (maxDischargeDepth := 20) [h]; done) | (simp_all (maxDischargeDepth := 20); done)

@[simp] theorem handCue_count (q x t u pr) (s : State) (h : s.cycle.frameCount = n₀) : (s.handCue q x t u pr).1.cycle.frameCount = n₀ := by unfold State.handCue; (try dsimp only); (repeat' split) <;> first | with_reducible exact h | (simp (maxDischargeDepth := 20) [h]; done) | (simp_all (maxDischargeDepth := 20); done)

@[simp] theorem selectTo_count (q t) (s : State) (h : s.cycle.frameCount = n₀) : (s.selectTo q t).cycle.frameCount = n₀ := by unfold State.selectTo; (try dsimp only); (repeat' split) <;> first | with_reducible exact h | (simp (maxDischargeDepth := 20) [h]; done) | (simp_all (maxDischargeDepth := 20); done)

@[simp] theorem handOn_count (q : Port) (x : SwAction) (t : TrackId) (u : Quantum) (pr : PressTime) (s : State)
    (h : s.cycle.frameCount = n₀) : (State.handOn q x t u pr s).1.1.cycle.frameCount = n₀ := by
  cases x <;> simp (maxDischargeDepth := 20) [State.handOn, h]

@[simp] theorem issue_count (q c k x t u pr) (s : State) (h : s.cycle.frameCount = n₀) : (s.issue q c k x t u pr).cycle.frameCount = n₀ := by unfold State.issue; (try dsimp only); (repeat' split) <;> first | with_reducible exact h | (simp (maxDischargeDepth := 20) [h]; done) | (simp_all (maxDischargeDepth := 20); done)

@[simp] theorem setMachine_count (q c m) (s : State) (h : s.cycle.frameCount = n₀) : (s.setMachine q c m).cycle.frameCount = n₀ := by unfold State.setMachine; (try dsimp only); (repeat' split) <;> first | with_reducible exact h | (simp (maxDischargeDepth := 20) [h]; done) | (simp_all (maxDischargeDepth := 20); done)

@[simp] theorem switchDown_count (q c) (s : State) (h : s.cycle.frameCount = n₀) : (s.switchDown q c).1.cycle.frameCount = n₀ := by unfold State.switchDown; (try dsimp only); (repeat' split) <;> first | with_reducible exact h | (simp (maxDischargeDepth := 20) [h]; done) | (simp_all (maxDischargeDepth := 20); done)

@[simp] theorem switchUp_count (q c) (s : State) (h : s.cycle.frameCount = n₀) : (s.switchUp q c).1.cycle.frameCount = n₀ := by unfold State.switchUp; (try dsimp only); (repeat' split) <;> first | with_reducible exact h | (simp (maxDischargeDepth := 20) [h]; done) | (simp_all (maxDischargeDepth := 20); done)

@[simp] theorem holdDue_count (q c) (s : State) (h : s.cycle.frameCount = n₀) : (s.holdDue q c).cycle.frameCount = n₀ := by unfold State.holdDue; (try dsimp only); (repeat' split) <;> first | with_reducible exact h | (simp (maxDischargeDepth := 20) [h]; done) | (simp_all (maxDischargeDepth := 20); done)

@[simp] theorem windowDue_count (q c) (s : State) (h : s.cycle.frameCount = n₀) : (s.windowDue q c).cycle.frameCount = n₀ := by unfold State.windowDue; (try dsimp only); (repeat' split) <;> first | with_reducible exact h | (simp (maxDischargeDepth := 20) [h]; done) | (simp_all (maxDischargeDepth := 20); done)

@[simp] theorem layerSample_count (id k) (s : State) (h : s.cycle.frameCount = n₀) : (s.layerSample id k).1.cycle.frameCount = n₀ := by unfold State.layerSample; (try dsimp only); (repeat' split) <;> first | with_reducible exact h | (simp (maxDischargeDepth := 20) [h]; done) | (simp_all (maxDischargeDepth := 20); done)

@[simp] theorem layerPart_count (q id cs) (s : State) (h : s.cycle.frameCount = n₀) : (s.layerPart q id cs).1.cycle.frameCount = n₀ := by unfold State.layerPart; (try dsimp only); (repeat' split) <;> first | with_reducible exact h | (simp (maxDischargeDepth := 20) [h]; done) | (simp_all (maxDischargeDepth := 20); done)

@[simp] theorem sumLayers_count (t : TrackId) (q : Nat) (l : List Nat) (s : State) (h : s.cycle.frameCount = n₀) :
    (State.sumLayers t q l s).1.cycle.frameCount = n₀ := by
  induction l generalizing s with
  | nil => exact h
  | cons x l ih => simp (maxDischargeDepth := 20) [State.sumLayers, ih, h]

@[simp] theorem trackSum_count (t) (s : State) (h : s.cycle.frameCount = n₀) : (s.trackSum t).1.cycle.frameCount = n₀ := by unfold State.trackSum; (try dsimp only); (repeat' split) <;> first | with_reducible exact h | (simp (maxDischargeDepth := 20) [h]; done) | (simp_all (maxDischargeDepth := 20); done)

@[simp] theorem trackSums_count (l : List TrackId) (s : State) (h : s.cycle.frameCount = n₀) : (State.trackSums l s).1.cycle.frameCount = n₀ := by
  induction l generalizing s with
  | nil => exact h
  | cons x l ih => simp (maxDischargeDepth := 20) [State.trackSums, ih, h]

@[simp] theorem moveRamps_count (s : State) (h : s.cycle.frameCount = n₀) : (s.moveRamps).cycle.frameCount = n₀ := by unfold State.moveRamps; (try dsimp only); (repeat' split) <;> first | with_reducible exact h | (simp (maxDischargeDepth := 20) [h]; done) | (simp_all (maxDischargeDepth := 20); done)

@[simp] theorem clip_count (ear r) (s : State) (h : s.cycle.frameCount = n₀) : (s.clip ear r).cycle.frameCount = n₀ := by unfold State.clip; (try dsimp only); (repeat' split) <;> first | with_reducible exact h | (simp (maxDischargeDepth := 20) [h]; done) | (simp_all (maxDischargeDepth := 20); done)

@[simp] theorem mix_count (fr pl b) (s : State) (h : s.cycle.frameCount = n₀) : (s.mix fr pl b).cycle.frameCount = n₀ := by unfold State.mix; (try dsimp only); (repeat' split) <;> first | with_reducible exact h | (simp (maxDischargeDepth := 20) [h]; done) | (simp_all (maxDischargeDepth := 20); done)

@[simp] theorem mixSilence_count (s : State) (h : s.cycle.frameCount = n₀) : (s.mixSilence).cycle.frameCount = n₀ := by unfold State.mixSilence; (try dsimp only); (repeat' split) <;> first | with_reducible exact h | (simp (maxDischargeDepth := 20) [h]; done) | (simp_all (maxDischargeDepth := 20); done)

@[simp] theorem discardImport_count (id cause) (s : State) (h : s.cycle.frameCount = n₀) : (s.discardImport id cause).cycle.frameCount = n₀ := by unfold State.discardImport; (try dsimp only); (repeat' split) <;> first | with_reducible exact h | (simp (maxDischargeDepth := 20) [h]; done) | (simp_all (maxDischargeDepth := 20); done)

@[simp] theorem requestCommit_count (p) (s : State) (h : s.cycle.frameCount = n₀) : (s.requestCommit p).cycle.frameCount = n₀ := by
  unfold State.requestCommit
  split
  · exact h
  · split
    · exact h
    · dsimp only
      split
      · split
        · next u hu => have hu' := allocate_count _ _ _ h hu; simp (maxDischargeDepth := 20) [hu']
        · simp (maxDischargeDepth := 20) [h]
      · simp (maxDischargeDepth := 20) [h]

@[simp] theorem settleWrite_count (p) (s : State) (h : s.cycle.frameCount = n₀) : (s.settleWrite p).cycle.frameCount = n₀ := by unfold State.settleWrite; (try dsimp only); (repeat' split) <;> first | with_reducible exact h | (simp (maxDischargeDepth := 20) [h]; done) | (simp_all (maxDischargeDepth := 20); done)

@[simp] theorem settleWait_count (who) (s : State) (h : s.cycle.frameCount = n₀) : (s.settleWait who).cycle.frameCount = n₀ := by unfold State.settleWait; (try dsimp only); (repeat' split) <;> first | with_reducible exact h | (simp (maxDischargeDepth := 20) [h]; done) | (simp_all (maxDischargeDepth := 20); done)

@[simp] theorem settle_count (s : State) (h : s.cycle.frameCount = n₀) : (s.settle).cycle.frameCount = n₀ := by unfold State.settle; (try dsimp only); (repeat' split) <;> first | with_reducible exact h | (simp (maxDischargeDepth := 20) [h]; done) | (simp_all (maxDischargeDepth := 20); done)

@[simp] theorem discardImports_count (cause l) (s : State) (h : s.cycle.frameCount = n₀) : (s.discardImports cause l).cycle.frameCount = n₀ := by
  induction l generalizing s with
  | nil => exact h
  | cons x l ih => simp (maxDischargeDepth := 20) [State.discardImports, ih, h]

@[simp] theorem abandonRunningFold_count (cause) (s : State) (h : s.cycle.frameCount = n₀) : (s.abandonRunningFold cause).cycle.frameCount = n₀ := by unfold State.abandonRunningFold; (try dsimp only); (repeat' split) <;> first | with_reducible exact h | (simp (maxDischargeDepth := 20) [h]; done) | (simp_all (maxDischargeDepth := 20); done)

@[simp] theorem emptyTracks_count (l) (s : State) (h : s.cycle.frameCount = n₀) : (s.emptyTracks l).cycle.frameCount = n₀ := by
  induction l generalizing s with
  | nil => exact h
  | cons x l ih => simp (maxDischargeDepth := 20) [State.emptyTracks, ih, h]

@[simp] theorem raiseEmptied_count (old l) (s : State) (h : s.cycle.frameCount = n₀) : (s.raiseEmptied old l).cycle.frameCount = n₀ := by
  induction l generalizing s with
  | nil => exact h
  | cons x l ih => unfold State.raiseEmptied; exact ih _ (by split <;> simp (maxDischargeDepth := 20) [h])

@[simp] theorem clearTracks_count (s : State) (h : s.cycle.frameCount = n₀) : (s.clearTracks).cycle.frameCount = n₀ := by unfold State.clearTracks; (try dsimp only); (repeat' split) <;> first | with_reducible exact h | (simp (maxDischargeDepth := 20) [h]; done) | (simp_all (maxDischargeDepth := 20); done)

@[simp] theorem forgetRecent_count (s : State) (h : s.cycle.frameCount = n₀) : (s.forgetRecent).cycle.frameCount = n₀ := by unfold State.forgetRecent; (try dsimp only); (repeat' split) <;> first | with_reducible exact h | (simp (maxDischargeDepth := 20) [h]; done) | (simp_all (maxDischargeDepth := 20); done)

@[simp] theorem clearCycle_count (s : State) (h : s.cycle.frameCount = n₀) : (s.clearCycle).cycle.frameCount = n₀ := by exact setCycle_count _ _ h

@[simp] theorem actClearAll_count (s : State) (h : s.cycle.frameCount = n₀) : (s.actClearAll).cycle.frameCount = n₀ := by unfold State.actClearAll; (try dsimp only); (repeat' split) <;> first | with_reducible exact h | (simp (maxDischargeDepth := 20) [h]; done) | (simp_all (maxDischargeDepth := 20); done)

@[simp] theorem enterRest_count (cause d) (s : State) (h : s.cycle.frameCount = n₀) : (s.enterRest cause d).cycle.frameCount = n₀ := by exact loseWindow_count _ _ _ (loseWindow_count _ _ _ (dropAllCues_count _ _ h))

@[simp] theorem powerLow_count (s : State) (h : s.cycle.frameCount = n₀) : (s.powerLow).cycle.frameCount = n₀ := by unfold State.powerLow; (try dsimp only); (repeat' split) <;> first | with_reducible exact h | (simp (maxDischargeDepth := 20) [h]; done) | (simp_all (maxDischargeDepth := 20); done)

@[simp] theorem wakeUp_count (s : State) (h : s.cycle.frameCount = n₀) : (s.wakeUp).cycle.frameCount = n₀ := by unfold State.wakeUp; (try dsimp only); (repeat' split) <;> first | with_reducible exact h | (simp (maxDischargeDepth := 20) [h]; done) | (simp_all (maxDischargeDepth := 20); done)

@[simp] theorem testDone_count (s : State) (h : s.cycle.frameCount = n₀) : (s.testDone).cycle.frameCount = n₀ := by unfold State.testDone; (try dsimp only); (repeat' split) <;> first | with_reducible exact h | (simp (maxDischargeDepth := 20) [h]; done) | (simp_all (maxDischargeDepth := 20); done)

@[simp] theorem setGrant_count (g) (s : State) (h : s.cycle.frameCount = n₀) : (s.setGrant g).cycle.frameCount = n₀ := by unfold State.setGrant; (try dsimp only); (repeat' split) <;> first | with_reducible exact h | (simp (maxDischargeDepth := 20) [h]; done) | (simp_all (maxDischargeDepth := 20); done)

@[simp] theorem grantPlayback_count (id r) (s : State) (h : s.cycle.frameCount = n₀) : (s.grantPlayback id r).cycle.frameCount = n₀ := by unfold State.grantPlayback; (try dsimp only); (repeat' split) <;> first | with_reducible exact h | (simp (maxDischargeDepth := 20) [h]; done) | (simp_all (maxDischargeDepth := 20); done)

@[simp] theorem grantCapture_count (x rest) (s : State) (h : s.cycle.frameCount = n₀) : (s.grantCapture x rest).cycle.frameCount = n₀ := by unfold State.grantCapture; (try dsimp only); (repeat' split) <;> first | with_reducible exact h | (simp (maxDischargeDepth := 20) [h]; done) | (simp_all (maxDischargeDepth := 20); done)

@[simp] theorem grantFold_count (s : State) (h : s.cycle.frameCount = n₀) : (s.grantFold).cycle.frameCount = n₀ := by unfold State.grantFold; (try dsimp only); (repeat' split) <;> first | with_reducible exact h | (simp (maxDischargeDepth := 20) [h]; done) | (simp_all (maxDischargeDepth := 20); done)

@[simp] theorem grantWindow_count (p) (s : State) (h : s.cycle.frameCount = n₀) : (s.grantWindow p).cycle.frameCount = n₀ := by unfold State.grantWindow; (try dsimp only); (repeat' split) <;> first | with_reducible exact h | (simp (maxDischargeDepth := 20) [h]; done) | (simp_all (maxDischargeDepth := 20); done)

@[simp] theorem grantBackground_count (x) (s : State) (h : s.cycle.frameCount = n₀) : (s.grantBackground x).cycle.frameCount = n₀ := by unfold State.grantBackground; (try dsimp only); (repeat' split) <;> first | with_reducible exact h | (simp (maxDischargeDepth := 20) [h]; done) | (simp_all (maxDischargeDepth := 20); done)

@[simp] theorem grantNext_count (s : State) (h : s.cycle.frameCount = n₀) : (s.grantNext).cycle.frameCount = n₀ := by unfold State.grantNext; (try dsimp only); (repeat' split) <;> first | with_reducible exact h | (simp (maxDischargeDepth := 20) [h]; done) | (simp_all (maxDischargeDepth := 20); done)

@[simp] theorem arbitrate_count (s : State) (h : s.cycle.frameCount = n₀) : (s.arbitrate).cycle.frameCount = n₀ := by unfold State.arbitrate; (try dsimp only); (repeat' split) <;> first | with_reducible exact h | (simp (maxDischargeDepth := 20) [h]; done) | (simp_all (maxDischargeDepth := 20); done)

@[simp] theorem playbackDone_count (rd cs) (s : State) (h : s.cycle.frameCount = n₀) : (s.playbackDone rd cs).cycle.frameCount = n₀ := by unfold State.playbackDone; (try dsimp only); (repeat' split) <;> first | with_reducible exact h | (simp (maxDischargeDepth := 20) [h]; done) | (simp_all (maxDischargeDepth := 20); done)

@[simp] theorem captureDone_count (x blk live) (s : State) (h : s.cycle.frameCount = n₀) : (s.captureDone x blk live).cycle.frameCount = n₀ := by unfold State.captureDone; (try dsimp only); (repeat' split) <;> first | with_reducible exact h | (simp (maxDischargeDepth := 20) [h]; done) | (simp_all (maxDischargeDepth := 20); done)

@[simp] theorem foldReadDone_count (rd nw cs) (s : State) (h : s.cycle.frameCount = n₀) : (s.foldReadDone rd nw cs).cycle.frameCount = n₀ := by unfold State.foldReadDone; (try dsimp only); (repeat' split) <;> first | with_reducible exact h | (simp (maxDischargeDepth := 20) [h]; done) | (simp_all (maxDischargeDepth := 20); done)

@[simp] theorem foldWriteDone_count (blk o xs) (s : State) (h : s.cycle.frameCount = n₀) : (s.foldWriteDone blk o xs).cycle.frameCount = n₀ := by unfold State.foldWriteDone; (try dsimp only); (repeat' split) <;> first | with_reducible exact h | (simp (maxDischargeDepth := 20) [h]; done) | (simp_all (maxDischargeDepth := 20); done)

@[simp] theorem windowReadDone_count (p rd cs) (s : State) (h : s.cycle.frameCount = n₀) : (s.windowReadDone p rd cs).cycle.frameCount = n₀ := by unfold State.windowReadDone; (try dsimp only); (repeat' split) <;> first | with_reducible exact h | (simp (maxDischargeDepth := 20) [h]; done) | (simp_all (maxDischargeDepth := 20); done)

@[simp] theorem importDone_count (p id) (s : State) (h : s.cycle.frameCount = n₀) : (s.importDone p id).cycle.frameCount = n₀ := by unfold State.importDone; (try dsimp only); (repeat' split) <;> first | with_reducible exact h | (simp (maxDischargeDepth := 20) [h]; done) | (simp_all (maxDischargeDepth := 20); done)

@[simp] theorem commitDone_count (p blk o xs) (s : State) (h : s.cycle.frameCount = n₀) : (s.commitDone p blk o xs).cycle.frameCount = n₀ := by unfold State.commitDone; (try dsimp only); (repeat' split) <;> first | with_reducible exact h | (simp (maxDischargeDepth := 20) [h]; done) | (simp_all (maxDischargeDepth := 20); done)

@[simp] theorem completeRefresh_count (s : State) (h : s.cycle.frameCount = n₀) : (s.completeRefresh).cycle.frameCount = n₀ := by unfold State.completeRefresh; (try dsimp only); (repeat' split) <;> first | with_reducible exact h | (simp (maxDischargeDepth := 20) [h]; done) | (simp_all (maxDischargeDepth := 20); done)

@[simp] theorem completePlayback_count (cs) (s : State) (h : s.cycle.frameCount = n₀) : (s.completePlayback cs).cycle.frameCount = n₀ := by unfold State.completePlayback; (try dsimp only); (repeat' split) <;> first | with_reducible exact h | (simp (maxDischargeDepth := 20) [h]; done) | (simp_all (maxDischargeDepth := 20); done)

@[simp] theorem completeCapture_count (s : State) (h : s.cycle.frameCount = n₀) : (s.completeCapture).cycle.frameCount = n₀ := by unfold State.completeCapture; (try dsimp only); (repeat' split) <;> first | with_reducible exact h | (simp (maxDischargeDepth := 20) [h]; done) | (simp_all (maxDischargeDepth := 20); done)

@[simp] theorem completeFoldBurst_count (cs) (s : State) (h : s.cycle.frameCount = n₀) : (s.completeFoldBurst cs).cycle.frameCount = n₀ := by unfold State.completeFoldBurst; (try dsimp only); (repeat' split) <;> first | with_reducible exact h | (simp (maxDischargeDepth := 20) [h]; done) | (simp_all (maxDischargeDepth := 20); done)

@[simp] theorem completeWindowRead_count (cs) (s : State) (h : s.cycle.frameCount = n₀) : (s.completeWindowRead cs).cycle.frameCount = n₀ := by unfold State.completeWindowRead; (try dsimp only); (repeat' split) <;> first | with_reducible exact h | (simp (maxDischargeDepth := 20) [h]; done) | (simp_all (maxDischargeDepth := 20); done)

@[simp] theorem completeCommit_count (s : State) (h : s.cycle.frameCount = n₀) : (s.completeCommit).cycle.frameCount = n₀ := by unfold State.completeCommit; (try dsimp only); (repeat' split) <;> first | with_reducible exact h | (simp (maxDischargeDepth := 20) [h]; done) | (simp_all (maxDischargeDepth := 20); done)

@[simp] theorem lockout_count (who) (s : State) (h : s.cycle.frameCount = n₀) : (s.lockout who).cycle.frameCount = n₀ := by unfold State.lockout; (try dsimp only); (repeat' split) <;> first | with_reducible exact h | (simp (maxDischargeDepth := 20) [h]; done) | (simp_all (maxDischargeDepth := 20); done)

@[simp] theorem writeDeadline_count (s : State) (h : s.cycle.frameCount = n₀) : (s.writeDeadline).cycle.frameCount = n₀ := by unfold State.writeDeadline; (try dsimp only); (repeat' split) <;> first | with_reducible exact h | (simp (maxDischargeDepth := 20) [h]; done) | (simp_all (maxDischargeDepth := 20); done)

@[simp] theorem windowTimedOut_count (p) (s : State) (h : s.cycle.frameCount = n₀) : (s.windowTimedOut p).cycle.frameCount = n₀ := by unfold State.windowTimedOut; (try dsimp only); (repeat' split) <;> first | with_reducible exact h | (simp (maxDischargeDepth := 20) [h]; done) | (simp_all (maxDischargeDepth := 20); done)

@[simp] theorem refreshFallsDue_count (s : State) (h : s.cycle.frameCount = n₀) : (s.refreshFallsDue).cycle.frameCount = n₀ := by unfold State.refreshFallsDue; (try dsimp only); (repeat' split) <;> first | with_reducible exact h | (simp (maxDischargeDepth := 20) [h]; done) | (simp_all (maxDischargeDepth := 20); done)

@[simp] theorem testCorrected_count (n m : Nat) (s : State) (h : s.cycle.frameCount = n₀) : (State.testCorrected n m s).cycle.frameCount = n₀ := by
  induction m generalizing s with
  | zero => exact h
  | succ m ih => simp (maxDischargeDepth := 20) [State.testCorrected, ih, h]

@[simp] theorem testBlock_count (n ok) (s : State) (h : s.cycle.frameCount = n₀) : (s.testBlock n ok).cycle.frameCount = n₀ := by unfold State.testBlock; (try dsimp only); (repeat' split) <;> first | with_reducible exact h | (simp (maxDischargeDepth := 20) [h]; done) | (simp_all (maxDischargeDepth := 20); done)

@[simp] theorem finishTest_count (s : State) (h : s.cycle.frameCount = n₀) : (s.finishTest).cycle.frameCount = n₀ := by unfold State.finishTest; (try dsimp only); (repeat' split) <;> first | with_reducible exact h | (simp (maxDischargeDepth := 20) [h]; done) | (simp_all (maxDischargeDepth := 20); done)

@[simp] theorem selfRefresh_count (s : State) (h : s.cycle.frameCount = n₀) : (s.selfRefresh).cycle.frameCount = n₀ := by unfold State.selfRefresh; (try dsimp only); (repeat' split) <;> first | with_reducible exact h | (simp (maxDischargeDepth := 20) [h]; done) | (simp_all (maxDischargeDepth := 20); done)

@[simp] theorem atBoundary_count (ord r) (s : State) (h : s.cycle.frameCount = n₀) : (s.atBoundary ord r).cycle.frameCount = n₀ := by unfold State.atBoundary; (try dsimp only); (repeat' split) <;> first | with_reducible exact h | (simp (maxDischargeDepth := 20) [h]; done) | (simp_all (maxDischargeDepth := 20); done)

@[simp] theorem raiseAt_count (k d r) (s : State) (h : s.cycle.frameCount = n₀) : (s.raiseAt k d r).cycle.frameCount = n₀ := by unfold State.raiseAt; (try dsimp only); (repeat' split) <;> first | with_reducible exact h | (simp (maxDischargeDepth := 20) [h]; done) | (simp_all (maxDischargeDepth := 20); done)

@[simp] theorem audioBack_count (r) (s : State) (h : s.cycle.frameCount = n₀) : (s.audioBack r).cycle.frameCount = n₀ := by unfold State.audioBack; (try dsimp only); (repeat' split) <;> first | with_reducible exact h | (simp (maxDischargeDepth := 20) [h]; done) | (simp_all (maxDischargeDepth := 20); done)

@[simp] theorem linkError_count (r) (s : State) (h : s.cycle.frameCount = n₀) : (s.linkError r).cycle.frameCount = n₀ := by unfold State.linkError; (try dsimp only); (repeat' split) <;> first | with_reducible exact h | (simp (maxDischargeDepth := 20) [h]; done) | (simp_all (maxDischargeDepth := 20); done)

@[simp] theorem watchdog_count (s : State) (h : s.cycle.frameCount = n₀) : (s.watchdog).cycle.frameCount = n₀ := by unfold State.watchdog; (try dsimp only); (repeat' split) <;> first | with_reducible exact h | (simp (maxDischargeDepth := 20) [h]; done) | (simp_all (maxDischargeDepth := 20); done)

@[simp] theorem shiftRequest_count (p n) (s : State) (h : s.cycle.frameCount = n₀) : (s.shiftRequest p n).cycle.frameCount = n₀ := by unfold State.shiftRequest; (try dsimp only); (repeat' split) <;> first | with_reducible exact h | (simp (maxDischargeDepth := 20) [h]; done) | (simp_all (maxDischargeDepth := 20); done)

@[simp] theorem refuse_count (rq code st) (s : State) (h : s.cycle.frameCount = n₀) : (s.refuse rq code st).cycle.frameCount = n₀ := by unfold State.refuse; (try dsimp only); (repeat' split) <;> first | with_reducible exact h | (simp (maxDischargeDepth := 20) [h]; done) | (simp_all (maxDischargeDepth := 20); done)

@[simp] theorem beginTransfer_count (p k) (s : State) (h : s.cycle.frameCount = n₀) : (s.beginTransfer p k).cycle.frameCount = n₀ := by unfold State.beginTransfer; (try dsimp only); (repeat' split) <;> first | with_reducible exact h | (simp (maxDischargeDepth := 20) [h]; done) | (simp_all (maxDischargeDepth := 20); done)

@[simp] theorem endTransfer_count (p) (s : State) (h : s.cycle.frameCount = n₀) : (s.endTransfer p).cycle.frameCount = n₀ := by unfold State.endTransfer; (try dsimp only); (repeat' split) <;> first | with_reducible exact h | (simp (maxDischargeDepth := 20) [h]; done) | (simp_all (maxDischargeDepth := 20); done)

@[simp] theorem shiftOut_count (p t x) (s : State) (h : s.cycle.frameCount = n₀) : (s.shiftOut p t x).cycle.frameCount = n₀ := by unfold State.shiftOut; (try dsimp only); (repeat' split) <;> first | with_reducible exact h | (simp (maxDischargeDepth := 20) [h]; done) | (simp_all (maxDischargeDepth := 20); done)

@[simp] theorem departHead_count (p) (s : State) (h : s.cycle.frameCount = n₀) : (s.departHead p).cycle.frameCount = n₀ := by unfold State.departHead; (try dsimp only); (repeat' split) <;> first | with_reducible exact h | (simp (maxDischargeDepth := 20) [h]; done) | (simp_all (maxDischargeDepth := 20); done)

@[simp] theorem replyByte_count (p) (s : State) (h : s.cycle.frameCount = n₀) : (s.replyByte p).cycle.frameCount = n₀ := by unfold State.replyByte; (try dsimp only); (repeat' split) <;> first | with_reducible exact h | (simp (maxDischargeDepth := 20) [h]; done) | (simp_all (maxDischargeDepth := 20); done)

@[simp] theorem eventByte_count (p t left j) (s : State) (h : s.cycle.frameCount = n₀) : (s.eventByte p t left j).cycle.frameCount = n₀ := by unfold State.eventByte; (try dsimp only); (repeat' split) <;> first | with_reducible exact h | (simp (maxDischargeDepth := 20) [h]; done) | (simp_all (maxDischargeDepth := 20); done)

@[simp] theorem eventsByte_count (p) (s : State) (h : s.cycle.frameCount = n₀) : (s.eventsByte p).cycle.frameCount = n₀ := by unfold State.eventsByte; (try dsimp only); (repeat' split) <;> first | with_reducible exact h | (simp (maxDischargeDepth := 20) [h]; done) | (simp_all (maxDischargeDepth := 20); done)

@[simp] theorem reportFlag_count (p flag) (s : State) (h : s.cycle.frameCount = n₀) : (s.reportFlag p flag).cycle.frameCount = n₀ := by unfold State.reportFlag; (try dsimp only); (repeat' split) <;> first | with_reducible exact h | (simp (maxDischargeDepth := 20) [h]; done) | (simp_all (maxDischargeDepth := 20); done)

@[simp] theorem latchWindow_count (p) (s : State) (h : s.cycle.frameCount = n₀) : (s.latchWindow p).cycle.frameCount = n₀ := by unfold State.latchWindow; (try dsimp only); (repeat' split) <;> first | with_reducible exact h | (simp (maxDischargeDepth := 20) [h]; done) | (simp_all (maxDischargeDepth := 20); done)

@[simp] theorem markShifting_count (p) (s : State) (h : s.cycle.frameCount = n₀) : (s.markShifting p).cycle.frameCount = n₀ := by unfold State.markShifting; (try dsimp only); (repeat' split) <;> first | with_reducible exact h | (simp (maxDischargeDepth := 20) [h]; done) | (simp_all (maxDischargeDepth := 20); done)

@[simp] theorem sampleByte_count (p t j) (s : State) (h : s.cycle.frameCount = n₀) : (s.sampleByte p t j).cycle.frameCount = n₀ := by unfold State.sampleByte; (try dsimp only); (repeat' split) <;> first | with_reducible exact h | (simp (maxDischargeDepth := 20) [h]; done) | (simp_all (maxDischargeDepth := 20); done)

@[simp] theorem windowReadByte_count (p) (s : State) (h : s.cycle.frameCount = n₀) : (s.windowReadByte p).cycle.frameCount = n₀ := by unfold State.windowReadByte; (try dsimp only); (repeat' split) <;> first | with_reducible exact h | (simp (maxDischargeDepth := 20) [h]; done) | (simp_all (maxDischargeDepth := 20); done)

@[simp] theorem sampleIn_count (p x w) (s : State) (h : s.cycle.frameCount = n₀) : (s.sampleIn p x w).cycle.frameCount = n₀ := by unfold State.sampleIn; (try dsimp only); (repeat' split) <;> first | with_reducible exact h | (simp (maxDischargeDepth := 20) [h]; done) | (simp_all (maxDischargeDepth := 20); done)

@[simp] theorem shiftZeros_count (p n) (s : State) (h : s.cycle.frameCount = n₀) : (s.shiftZeros p n).cycle.frameCount = n₀ := by unfold State.shiftZeros; (try dsimp only); (repeat' split) <;> first | with_reducible exact h | (simp (maxDischargeDepth := 20) [h]; done) | (simp_all (maxDischargeDepth := 20); done)

@[simp] theorem riseIf_count (p rise) (s : State) (h : s.cycle.frameCount = n₀) : (s.riseIf p rise).cycle.frameCount = n₀ := by unfold State.riseIf; (try dsimp only); (repeat' split) <;> first | with_reducible exact h | (simp (maxDischargeDepth := 20) [h]; done) | (simp_all (maxDischargeDepth := 20); done)

@[simp] theorem windowWriteByte_count (p x) (s : State) (h : s.cycle.frameCount = n₀) : (s.windowWriteByte p x).cycle.frameCount = n₀ := by unfold State.windowWriteByte; (try dsimp only); (repeat' split) <;> first | with_reducible exact h | (simp (maxDischargeDepth := 20) [h]; done) | (simp_all (maxDischargeDepth := 20); done)

@[simp] theorem windowWriteBytes_count (p l) (s : State) (h : s.cycle.frameCount = n₀) : (s.windowWriteBytes p l).cycle.frameCount = n₀ := by
  induction l generalizing s with
  | nil => exact h
  | cons x l ih => simp (maxDischargeDepth := 20) [State.windowWriteBytes, ih, h]

@[simp] theorem setMailbox_count (p n) (s : State) (h : s.cycle.frameCount = n₀) : (s.setMailbox p n).cycle.frameCount = n₀ := by unfold State.setMailbox; (try dsimp only); (repeat' split) <;> first | with_reducible exact h | (simp (maxDischargeDepth := 20) [h]; done) | (simp_all (maxDischargeDepth := 20); done)

@[simp] theorem shutWindow_count (p) (s : State) (h : s.cycle.frameCount = n₀) : (s.shutWindow p).cycle.frameCount = n₀ := by unfold State.shutWindow; (try dsimp only); (repeat' split) <;> first | with_reducible exact h | (simp (maxDischargeDepth := 20) [h]; done) | (simp_all (maxDischargeDepth := 20); done)

@[simp] theorem closeCommit_count (p w) (s : State) (h : s.cycle.frameCount = n₀) : (s.closeCommit p w).cycle.frameCount = n₀ := by unfold State.closeCommit; (try dsimp only); (repeat' split) <;> first | with_reducible exact h | (simp (maxDischargeDepth := 20) [h]; done) | (simp_all (maxDischargeDepth := 20); done)

@[simp] theorem setEntry_count (c e) (s : State) (h : s.cycle.frameCount = n₀) : (s.setEntry c e).cycle.frameCount = n₀ := by unfold State.setEntry; (try dsimp only); (repeat' split) <;> first | with_reducible exact h | (simp (maxDischargeDepth := 20) [h]; done) | (simp_all (maxDischargeDepth := 20); done)

@[simp] theorem setTimeout_count (p n) (s : State) (h : s.cycle.frameCount = n₀) : (s.setTimeout p n).cycle.frameCount = n₀ := by unfold State.setTimeout; (try dsimp only); (repeat' split) <;> first | with_reducible exact h | (simp (maxDischargeDepth := 20) [h]; done) | (simp_all (maxDischargeDepth := 20); done)

@[simp] theorem placeImport_count (p id i) (s : State) (h : s.cycle.frameCount = n₀) : (s.placeImport p id i).cycle.frameCount = n₀ := by unfold State.placeImport; (try dsimp only); (repeat' split) <;> first | with_reducible exact h | (simp (maxDischargeDepth := 20) [h]; done) | (simp_all (maxDischargeDepth := 20); done)

end Sys2Proof.Machine
end

