-- ==== Sys2Proof/Laws/KeepHardFault.lean ====
section
/-! SUPPORT. A held hard fault stands: every operation but CLEAR FAULTS and the resets leaves it (R177). -/
namespace Sys2Proof.Machine

open Sys2Proof

set_option linter.unusedSimpArgs false
set_option linter.unusedTactic false
set_option linter.unreachableTactic false
set_option linter.unnecessarySeqFocus false

variable {held : Occurrence × Nat} {seq : Nat}

theorem note_hard {k : FaultKind} {f : Faults} (h : HardHeld held seq f) : HardHeld held seq (f.note k) := by
  obtain ⟨h1, h2, h3⟩ := h
  cases k <;> exact ⟨h1, h2, h3⟩

/-- Taking an occurrence leaves a held hard fault and the sequence number (R177). -/
theorem capture_hard {o : Occurrence} {f : Faults} (h : HardHeld held seq f) : HardHeld held seq (f.capture o) := by
  obtain ⟨h1, h2, h3⟩ := h
  unfold Faults.capture Faults.outcome
  rw [h1]
  refine ⟨?_, ?_, h3⟩ <;> cases o.kind.hard <;> simp (maxDischargeDepth := 20) [h1, h2, h3]

@[simp] theorem setPort_hard (p c) (s : State) (h : HardHeld held seq s.faults) : HardHeld held seq (s.setPort p c).faults := by unfold State.setPort; (try dsimp only); (repeat' split) <;> first | with_reducible exact h | (simp (maxDischargeDepth := 20) [h]; done) | (simp_all (maxDischargeDepth := 20); done)

@[simp] theorem setTrack_hard (t tr) (s : State) (h : HardHeld held seq s.faults) : HardHeld held seq (s.setTrack t tr).faults := by unfold State.setTrack; (try dsimp only); (repeat' split) <;> first | with_reducible exact h | (simp (maxDischargeDepth := 20) [h]; done) | (simp_all (maxDischargeDepth := 20); done)

@[simp] theorem modTrack_hard (t f) (s : State) (h : HardHeld held seq s.faults) : HardHeld held seq (s.modTrack t f).faults := by unfold State.modTrack; (try dsimp only); (repeat' split) <;> first | with_reducible exact h | (simp (maxDischargeDepth := 20) [h]; done) | (simp_all (maxDischargeDepth := 20); done)

@[simp] theorem setLayer_hard (id l) (s : State) (h : HardHeld held seq s.faults) : HardHeld held seq (s.setLayer id l).faults := by unfold State.setLayer; (try dsimp only); (repeat' split) <;> first | with_reducible exact h | (simp (maxDischargeDepth := 20) [h]; done) | (simp_all (maxDischargeDepth := 20); done)

@[simp] theorem modLayer_hard (id f) (s : State) (h : HardHeld held seq s.faults) : HardHeld held seq (s.modLayer id f).faults := by unfold State.modLayer; (try dsimp only); (repeat' split) <;> first | with_reducible exact h | (simp (maxDischargeDepth := 20) [h]; done) | (simp_all (maxDischargeDepth := 20); done)

@[simp] theorem setWindow_hard (p w) (s : State) (h : HardHeld held seq s.faults) : HardHeld held seq (s.setWindow p w).faults := by unfold State.setWindow; (try dsimp only); (repeat' split) <;> first | with_reducible exact h | (simp (maxDischargeDepth := 20) [h]; done) | (simp_all (maxDischargeDepth := 20); done)

@[simp] theorem setSwitchPort_hard (p c) (s : State) (h : HardHeld held seq s.faults) : HardHeld held seq (s.setSwitchPort p c).faults := by unfold State.setSwitchPort; (try dsimp only); (repeat' split) <;> first | with_reducible exact h | (simp (maxDischargeDepth := 20) [h]; done) | (simp_all (maxDischargeDepth := 20); done)

@[simp] theorem offerTo_hard (p e) (s : State) (h : HardHeld held seq s.faults) : HardHeld held seq (s.offerTo p e).faults := by unfold State.offerTo; (try dsimp only); (repeat' split) <;> first | with_reducible exact h | (simp (maxDischargeDepth := 20) [h]; done) | (simp_all (maxDischargeDepth := 20); done)

@[simp] theorem raiseEvent_hard (e) (s : State) (h : HardHeld held seq s.faults) : HardHeld held seq (s.raiseEvent e).faults := by unfold State.raiseEvent; (try dsimp only); (repeat' split) <;> first | with_reducible exact h | (simp (maxDischargeDepth := 20) [h]; done) | (simp_all (maxDischargeDepth := 20); done)

@[simp] theorem raise_hard (k t l d) (s : State) (h : HardHeld held seq s.faults) : HardHeld held seq (s.raise k t l d).faults := by unfold State.raise; (try dsimp only); (repeat' split) <;> first | with_reducible exact h | (simp (maxDischargeDepth := 20) [h]; done) | (simp_all (maxDischargeDepth := 20); done)

@[simp] theorem takeFault_hard (o) (s : State) (h : HardHeld held seq s.faults) : HardHeld held seq (s.takeFault o).faults := by
  unfold State.takeFault
  have hc := capture_hard (o := o) (note_hard (k := o.kind) h)
  dsimp only
  split <;> exact hc

theorem allocate_hard (id : Nat) (s t : State) (h : HardHeld held seq s.faults) (e : s.allocate id = some t) : HardHeld held seq t.faults := by
  unfold State.allocate at e
  split at e
  · injection e with e; subst e; simp (maxDischargeDepth := 20) [h]
  · simp at e

@[simp] theorem fillReply_hard (p st tag code results) (s : State) (h : HardHeld held seq s.faults) : HardHeld held seq (s.fillReply p st tag code results).faults := by unfold State.fillReply; (try dsimp only); (repeat' split) <;> first | with_reducible exact h | (simp (maxDischargeDepth := 20) [h]; done) | (simp_all (maxDischargeDepth := 20); done)

@[simp] theorem completeReply_hard (p st results) (s : State) (h : HardHeld held seq s.faults) : HardHeld held seq (s.completeReply p st results).faults := by unfold State.completeReply; (try dsimp only); (repeat' split) <;> first | with_reducible exact h | (simp (maxDischargeDepth := 20) [h]; done) | (simp_all (maxDischargeDepth := 20); done)

@[simp] theorem clearPassFlags_hard (s : State) (h : HardHeld held seq s.faults) : HardHeld held seq (s.clearPassFlags).faults := by unfold State.clearPassFlags; (try dsimp only); (repeat' split) <;> first | with_reducible exact h | (simp (maxDischargeDepth := 20) [h]; done) | (simp_all (maxDischargeDepth := 20); done)

@[simp] theorem setCycle_hard (c) (s : State) (h : HardHeld held seq s.faults) : HardHeld held seq (s.setCycle c).faults := by unfold State.setCycle; (try dsimp only); (repeat' split) <;> first | with_reducible exact h | (simp (maxDischargeDepth := 20) [h]; done) | (simp_all (maxDischargeDepth := 20); done)

@[simp] theorem startCycle_hard (len d) (s : State) (h : HardHeld held seq s.faults) : HardHeld held seq (s.startCycle len d).faults := by unfold State.startCycle; (try dsimp only); (repeat' split) <;> first | with_reducible exact h | (simp (maxDischargeDepth := 20) [h]; done) | (simp_all (maxDischargeDepth := 20); done)

@[simp] theorem emptyCycle_hard (s : State) (h : HardHeld held seq s.faults) : HardHeld held seq (s.emptyCycle).faults := by unfold State.emptyCycle; (try dsimp only); (repeat' split) <;> first | with_reducible exact h | (simp (maxDischargeDepth := 20) [h]; done) | (simp_all (maxDischargeDepth := 20); done)

@[simp] theorem closeDefining_hard (n stop) (s : State) (h : HardHeld held seq s.faults) : HardHeld held seq (s.closeDefining n stop).faults := by unfold State.closeDefining; (try dsimp only); (repeat' split) <;> first | with_reducible exact h | (simp (maxDischargeDepth := 20) [h]; done) | (simp_all (maxDischargeDepth := 20); done)

@[simp] theorem countFrame_hard (s : State) (h : HardHeld held seq s.faults) : HardHeld held seq (s.countFrame).faults := by unfold State.countFrame; (try dsimp only); (repeat' split) <;> first | with_reducible exact h | (simp (maxDischargeDepth := 20) [h]; done) | (simp_all (maxDischargeDepth := 20); done)

@[simp] theorem announce_hard (r) (s : State) (h : HardHeld held seq s.faults) : HardHeld held seq (s.announce r).faults := by unfold State.announce; (try dsimp only); (repeat' split) <;> first | with_reducible exact h | (simp (maxDischargeDepth := 20) [h]; done) | (simp_all (maxDischargeDepth := 20); done)

@[simp] theorem advance_hard (s : State) (h : HardHeld held seq s.faults) : HardHeld held seq (s.advance).1.faults := by unfold State.advance; (try dsimp only); (repeat' split) <;> first | with_reducible exact h | (simp (maxDischargeDepth := 20) [h]; done) | (simp_all (maxDischargeDepth := 20); done)

@[simp] theorem settleBuffers_hard (s : State) (h : HardHeld held seq s.faults) : HardHeld held seq (s.settleBuffers).faults := by unfold State.settleBuffers; (try dsimp only); (repeat' split) <;> first | with_reducible exact h | (simp (maxDischargeDepth := 20) [h]; done) | (simp_all (maxDischargeDepth := 20); done)

@[simp] theorem reaim_hard (id) (s : State) (h : HardHeld held seq s.faults) : HardHeld held seq (s.reaim id).faults := by unfold State.reaim; (try dsimp only); (repeat' split) <;> first | with_reducible exact h | (simp (maxDischargeDepth := 20) [h]; done) | (simp_all (maxDischargeDepth := 20); done)

@[simp] theorem reaimAllZero_hard (s : State) (h : HardHeld held seq s.faults) : HardHeld held seq (s.reaimAllZero).faults := by unfold State.reaimAllZero; (try dsimp only); (repeat' split) <;> first | with_reducible exact h | (simp (maxDischargeDepth := 20) [h]; done) | (simp_all (maxDischargeDepth := 20); done)

@[simp] theorem setWait_hard (who w) (s : State) (h : HardHeld held seq s.faults) : HardHeld held seq (s.setWait who w).faults := by unfold State.setWait; (try dsimp only); (repeat' split) <;> first | with_reducible exact h | (simp (maxDischargeDepth := 20) [h]; done) | (simp_all (maxDischargeDepth := 20); done)

@[simp] theorem loseWindow_hard (p cause) (s : State) (h : HardHeld held seq s.faults) : HardHeld held seq (s.loseWindow p cause).faults := by unfold State.loseWindow; (try dsimp only); (repeat' split) <;> first | with_reducible exact h | (simp (maxDischargeDepth := 20) [h]; done) | (simp_all (maxDischargeDepth := 20); done)

@[simp] theorem loseWindowOn_hard (id cause p) (s : State) (h : HardHeld held seq s.faults) : HardHeld held seq (s.loseWindowOn id cause p).faults := by unfold State.loseWindowOn; (try dsimp only); (repeat' split) <;> first | with_reducible exact h | (simp (maxDischargeDepth := 20) [h]; done) | (simp_all (maxDischargeDepth := 20); done)

@[simp] theorem loseWindowsOn_hard (id cause) (s : State) (h : HardHeld held seq s.faults) : HardHeld held seq (s.loseWindowsOn id cause).faults := by unfold State.loseWindowsOn; (try dsimp only); (repeat' split) <;> first | with_reducible exact h | (simp (maxDischargeDepth := 20) [h]; done) | (simp_all (maxDischargeDepth := 20); done)

@[simp] theorem dropRecord_hard (id) (s : State) (h : HardHeld held seq s.faults) : HardHeld held seq (s.dropRecord id).faults := by unfold State.dropRecord; (try dsimp only); (repeat' split) <;> first | with_reducible exact h | (simp (maxDischargeDepth := 20) [h]; done) | (simp_all (maxDischargeDepth := 20); done)



@[simp] theorem freeLayer_hard (cause id) (s : State) (h : HardHeld held seq s.faults) : HardHeld held seq (s.freeLayer cause id).faults := by unfold State.freeLayer; (try dsimp only); (repeat' split) <;> first | with_reducible exact h | (simp (maxDischargeDepth := 20) [h]; done) | (simp_all (maxDischargeDepth := 20); done)

@[simp] theorem cutWindow_hard (id n p) (s : State) (h : HardHeld held seq s.faults) : HardHeld held seq (s.cutWindow id n p).faults := by unfold State.cutWindow; (try dsimp only); (repeat' split) <;> first | with_reducible exact h | (simp (maxDischargeDepth := 20) [h]; done) | (simp_all (maxDischargeDepth := 20); done)

@[simp] theorem truncate_hard (id n) (s : State) (h : HardHeld held seq s.faults) : HardHeld held seq (s.truncate id n).faults := by unfold State.truncate; (try dsimp only); (repeat' split) <;> first | with_reducible exact h | (simp (maxDischargeDepth := 20) [h]; done) | (simp_all (maxDischargeDepth := 20); done)

@[simp] theorem suspectBlock_hard (rd b) (s : State) (h : HardHeld held seq s.faults) : HardHeld held seq (s.suspectBlock rd b).faults := by unfold State.suspectBlock; (try dsimp only); (repeat' split) <;> first | with_reducible exact h | (simp (maxDischargeDepth := 20) [h]; done) | (simp_all (maxDischargeDepth := 20); done)

@[simp] theorem readChecked_hard (who o chk rd) (s : State) (h : HardHeld held seq s.faults) : HardHeld held seq (s.readChecked who o chk rd).1.faults := by unfold State.readChecked; (try dsimp only); (repeat' split) <;> first | with_reducible exact h | (simp (maxDischargeDepth := 20) [h]; done) | (simp_all (maxDischargeDepth := 20); done)

@[simp] theorem readFrom_hard (who : Requester) (checks : List WordCheck) (l : List Nat) (rd : Reading) (s : State)
    (h : HardHeld held seq s.faults) : HardHeld held seq (State.readFrom who checks l rd s).1.faults := by
  induction l generalizing rd s with
  | nil => exact h
  | cons i l ih => simp (maxDischargeDepth := 20) [State.readFrom, ih, h]

@[simp] theorem readRun_hard (who checks rd) (s : State) (h : HardHeld held seq s.faults) : HardHeld held seq (s.readRun who checks rd).1.faults := by unfold State.readRun; (try dsimp only); (repeat' split) <;> first | with_reducible exact h | (simp (maxDischargeDepth := 20) [h]; done) | (simp_all (maxDischargeDepth := 20); done)

@[simp] theorem windowDone_hard (p w) (s : State) (h : HardHeld held seq s.faults) : HardHeld held seq (s.windowDone p w).faults := by unfold State.windowDone; (try dsimp only); (repeat' split) <;> first | with_reducible exact h | (simp (maxDischargeDepth := 20) [h]; done) | (simp_all (maxDischargeDepth := 20); done)

@[simp] theorem settleRead_hard (p) (s : State) (h : HardHeld held seq s.faults) : HardHeld held seq (s.settleRead p).faults := by unfold State.settleRead; (try dsimp only); (repeat' split) <;> first | with_reducible exact h | (simp (maxDischargeDepth := 20) [h]; done) | (simp_all (maxDischargeDepth := 20); done)

@[simp] theorem takeSample_hard (p) (s : State) (h : HardHeld held seq s.faults) : HardHeld held seq (s.takeSample p).faults := by unfold State.takeSample; (try dsimp only); (repeat' split) <;> first | with_reducible exact h | (simp (maxDischargeDepth := 20) [h]; done) | (simp_all (maxDischargeDepth := 20); done)

@[simp] theorem reportDrop_hard (r c) (s : State) (h : HardHeld held seq s.faults) : HardHeld held seq (s.reportDrop r c).faults := by unfold State.reportDrop; (try dsimp only); (repeat' split) <;> first | with_reducible exact h | (simp (maxDischargeDepth := 20) [h]; done) | (simp_all (maxDischargeDepth := 20); done)

@[simp] theorem removeCue_hard (id) (s : State) (h : HardHeld held seq s.faults) : HardHeld held seq (s.removeCue id).faults := by unfold State.removeCue; (try dsimp only); (repeat' split) <;> first | with_reducible exact h | (simp (maxDischargeDepth := 20) [h]; done) | (simp_all (maxDischargeDepth := 20); done)

@[simp] theorem dropCue_hard (r c) (s : State) (h : HardHeld held seq s.faults) : HardHeld held seq (s.dropCue r c).faults := by unfold State.dropCue; (try dsimp only); (repeat' split) <;> first | with_reducible exact h | (simp (maxDischargeDepth := 20) [h]; done) | (simp_all (maxDischargeDepth := 20); done)

@[simp] theorem dropCues_hard (r l) (s : State) (h : HardHeld held seq s.faults) : HardHeld held seq (s.dropCues r l).faults := by
  induction l generalizing s with
  | nil => exact h
  | cons x l ih => simp (maxDischargeDepth := 20) [State.dropCues, ih, h]

@[simp] theorem dropAllCues_hard (r) (s : State) (h : HardHeld held seq s.faults) : HardHeld held seq (s.dropAllCues r).faults := by unfold State.dropAllCues; (try dsimp only); (repeat' split) <;> first | with_reducible exact h | (simp (maxDischargeDepth := 20) [h]; done) | (simp_all (maxDischargeDepth := 20); done)

@[simp] theorem dropTrackCues_hard (t) (s : State) (h : HardHeld held seq s.faults) : HardHeld held seq (s.dropTrackCues t).faults := by unfold State.dropTrackCues; (try dsimp only); (repeat' split) <;> first | with_reducible exact h | (simp (maxDischargeDepth := 20) [h]; done) | (simp_all (maxDischargeDepth := 20); done)

@[simp] theorem makeCue_hard (q a t u pr ps po) (s : State) (h : HardHeld held seq s.faults) : HardHeld held seq (s.makeCue q a t u pr ps po).1.faults := by unfold State.makeCue; (try dsimp only); (repeat' split) <;> first | with_reducible exact h | (simp (maxDischargeDepth := 20) [h]; done) | (simp_all (maxDischargeDepth := 20); done)

@[simp] theorem joinCue_hard (id p) (s : State) (h : HardHeld held seq s.faults) : HardHeld held seq (s.joinCue id p).faults := by unfold State.joinCue; (try dsimp only); (repeat' split) <;> first | with_reducible exact h | (simp (maxDischargeDepth := 20) [h]; done) | (simp_all (maxDischargeDepth := 20); done)

@[simp] theorem placeCue_hard (q a t u pr ps po) (s : State) (h : HardHeld held seq s.faults) : HardHeld held seq (s.placeCue q a t u pr ps po).1.faults := by unfold State.placeCue; (try dsimp only); (repeat' split) <;> first | with_reducible exact h | (simp (maxDischargeDepth := 20) [h]; done) | (simp_all (maxDischargeDepth := 20); done)

@[simp] theorem supersedeSlot_hard (t f) (s : State) (h : HardHeld held seq s.faults) : HardHeld held seq (s.supersedeSlot t f).faults := by unfold State.supersedeSlot; (try dsimp only); (repeat' split) <;> first | with_reducible exact h | (simp (maxDischargeDepth := 20) [h]; done) | (simp_all (maxDischargeDepth := 20); done)

@[simp] theorem raiseTrack_hard (t) (s : State) (h : HardHeld held seq s.faults) : HardHeld held seq (s.raiseTrack t).faults := by unfold State.raiseTrack; (try dsimp only); (repeat' split) <;> first | with_reducible exact h | (simp (maxDischargeDepth := 20) [h]; done) | (simp_all (maxDischargeDepth := 20); done)

@[simp] theorem noteTrack_hard (t old) (s : State) (h : HardHeld held seq s.faults) : HardHeld held seq (s.noteTrack t old).faults := by unfold State.noteTrack; (try dsimp only); (repeat' split) <;> first | with_reducible exact h | (simp (maxDischargeDepth := 20) [h]; done) | (simp_all (maxDischargeDepth := 20); done)

@[simp] theorem settleTrack_hard (t) (s : State) (h : HardHeld held seq s.faults) : HardHeld held seq (s.settleTrack t).faults := by unfold State.settleTrack; (try dsimp only); (repeat' split) <;> first | with_reducible exact h | (simp (maxDischargeDepth := 20) [h]; done) | (simp_all (maxDischargeDepth := 20); done)

@[simp] theorem unfoldMember_hard (id) (s : State) (h : HardHeld held seq s.faults) : HardHeld held seq (s.unfoldMember id).faults := by unfold State.unfoldMember; (try dsimp only); (repeat' split) <;> first | with_reducible exact h | (simp (maxDischargeDepth := 20) [h]; done) | (simp_all (maxDischargeDepth := 20); done)

theorem foldl_unfold_hard (l : List Nat) (s : State) (h : HardHeld held seq s.faults) :
    HardHeld held seq (l.foldl (fun s id => State.unfoldMember id s) s).faults := by
  induction l generalizing s with
  | nil => exact h
  | cons x l ih => simp (maxDischargeDepth := 20) [ih, h]

@[simp] theorem abandonFold_hard (cause keep) (s : State) (h : HardHeld held seq s.faults) : HardHeld held seq (s.abandonFold cause keep).faults := by unfold State.abandonFold; (try dsimp only); (repeat' split) <;> simp (maxDischargeDepth := 20) [foldl_unfold_hard, h]

@[simp] theorem beginFoldBurst_hard (s : State) (h : HardHeld held seq s.faults) : HardHeld held seq (s.beginFoldBurst).faults := by
  unfold State.beginFoldBurst
  split
  · exact h
  · next f hf =>
    dsimp only
    split
    · simp (maxDischargeDepth := 20) [h]
    · next u hu =>
      have hu' : HardHeld held seq u.faults := by
        split at hu
        · exact allocate_hard _ _ _ h hu
        · injection hu with hu; rw [← hu]; exact h
      (repeat' split) <;> simp (maxDischargeDepth := 20) [hu'] 

@[simp] theorem settleFold_hard (s : State) (h : HardHeld held seq s.faults) : HardHeld held seq (s.settleFold).faults := by unfold State.settleFold; (try dsimp only); (repeat' split) <;> first | with_reducible exact h | (simp (maxDischargeDepth := 20) [h]; done) | (simp_all (maxDischargeDepth := 20); done)

@[simp] theorem startFold_hard (t i j rid rest) (s : State) (h : HardHeld held seq s.faults) : HardHeld held seq (s.startFold t i j rid rest).faults := by unfold State.startFold; (try dsimp only); (repeat' split) <;> first | with_reducible exact h | (simp (maxDischargeDepth := 20) [h]; done) | (simp_all (maxDischargeDepth := 20); done)

theorem takeRoom_hard (t : TrackId) (s u : State) (id : Nat) (h : HardHeld held seq s.faults) (e : s.takeRoom t = .ok (u, id)) : HardHeld held seq u.faults := by
  unfold State.takeRoom at e
  split at e
  · simp at e
  · dsimp only at e
    split at e
    · simp at e; rw [← e.1]; exact h
    · split at e
      · split at e
        · split at e
          · simp at e; rw [← e.1]; simp (maxDischargeDepth := 20) [h]
          · simp at e
        · simp at e
      · simp at e

@[simp] theorem completeFold_hard (s : State) (h : HardHeld held seq s.faults) : HardHeld held seq (s.completeFold).faults := by unfold State.completeFold; (try dsimp only); (repeat' split) <;> first | with_reducible exact h | (simp (maxDischargeDepth := 20) [h]; done) | (simp_all (maxDischargeDepth := 20); done)

@[simp] theorem endCapture_hard (id n) (s : State) (h : HardHeld held seq s.faults) : HardHeld held seq (s.endCapture id n).faults := by unfold State.endCapture; (try dsimp only); (repeat' split) <;> first | with_reducible exact h | (simp (maxDischargeDepth := 20) [h]; done) | (simp_all (maxDischargeDepth := 20); done)

@[simp] theorem cutReads_hard (id n) (s : State) (h : HardHeld held seq s.faults) : HardHeld held seq (s.cutReads id n).faults := by unfold State.cutReads; (try dsimp only); (repeat' split) <;> first | with_reducible exact h | (simp (maxDischargeDepth := 20) [h]; done) | (simp_all (maxDischargeDepth := 20); done)

@[simp] theorem endAt_hard (id n) (s : State) (h : HardHeld held seq s.faults) : HardHeld held seq (s.endAt id n).faults := by unfold State.endAt; (try dsimp only); (repeat' split) <;> first | with_reducible exact h | (simp (maxDischargeDepth := 20) [h]; done) | (simp_all (maxDischargeDepth := 20); done)

@[simp] theorem raiseClosed_hard (t id) (s : State) (h : HardHeld held seq s.faults) : HardHeld held seq (s.raiseClosed t id).faults := by unfold State.raiseClosed; (try dsimp only); (repeat' split) <;> first | with_reducible exact h | (simp (maxDischargeDepth := 20) [h]; done) | (simp_all (maxDischargeDepth := 20); done)

@[simp] theorem markFresh_hard (b id) (s : State) (h : HardHeld held seq s.faults) : HardHeld held seq (s.markFresh b id).faults := by unfold State.markFresh; (try dsimp only); (repeat' split) <;> first | with_reducible exact h | (simp (maxDischargeDepth := 20) [h]; done) | (simp_all (maxDischargeDepth := 20); done)

@[simp] theorem discardOpen_hard (t id) (s : State) (h : HardHeld held seq s.faults) : HardHeld held seq (s.discardOpen t id).faults := by unfold State.discardOpen; (try dsimp only); (repeat' split) <;> first | with_reducible exact h | (simp (maxDischargeDepth := 20) [h]; done) | (simp_all (maxDischargeDepth := 20); done)

@[simp] theorem closeFirst_hard (t id n fr stop) (s : State) (h : HardHeld held seq s.faults) : HardHeld held seq (s.closeFirst t id n fr stop).faults := by unfold State.closeFirst; (try dsimp only); (repeat' split) <;> first | with_reducible exact h | (simp (maxDischargeDepth := 20) [h]; done) | (simp_all (maxDischargeDepth := 20); done)

@[simp] theorem closeLayered_hard (t id n fr) (s : State) (h : HardHeld held seq s.faults) : HardHeld held seq (s.closeLayered t id n fr).faults := by unfold State.closeLayered; (try dsimp only); (repeat' split) <;> first | with_reducible exact h | (simp (maxDischargeDepth := 20) [h]; done) | (simp_all (maxDischargeDepth := 20); done)

@[simp] theorem closeRolled_hard (t id n l) (s : State) (h : HardHeld held seq s.faults) : HardHeld held seq (s.closeRolled t id n l).faults := by unfold State.closeRolled; (try dsimp only); (repeat' split) <;> first | with_reducible exact h | (simp (maxDischargeDepth := 20) [h]; done) | (simp_all (maxDischargeDepth := 20); done)

@[simp] theorem closeAtRoll_hard (t r n b) (s : State) (h : HardHeld held seq s.faults) : HardHeld held seq (s.closeAtRoll t r n b).faults := by unfold State.closeAtRoll; (try dsimp only); (repeat' split) <;> first | with_reducible exact h | (simp (maxDischargeDepth := 20) [h]; done) | (simp_all (maxDischargeDepth := 20); done)

@[simp] theorem closeOpen_hard (t n b fr stop) (s : State) (h : HardHeld held seq s.faults) : HardHeld held seq (s.closeOpen t n b fr stop).faults := by unfold State.closeOpen; (try dsimp only); (repeat' split) <;> first | with_reducible exact h | (simp (maxDischargeDepth := 20) [h]; done) | (simp_all (maxDischargeDepth := 20); done)

@[simp] theorem closeAtCut_hard (t k stop) (s : State) (h : HardHeld held seq s.faults) : HardHeld held seq (s.closeAtCut t k stop).faults := by unfold State.closeAtCut; (try dsimp only); (repeat' split) <;> first | with_reducible exact h | (simp (maxDischargeDepth := 20) [h]; done) | (simp_all (maxDischargeDepth := 20); done)

theorem actClose_ok_hard (t k) (s u : State) (h : HardHeld held seq s.faults) (e : s.actClose t k = .ok u) : HardHeld held seq u.faults := by
  unfold State.actClose at e; (try dsimp only at e); (repeat' split at e) <;> simp at e <;> (subst e; simp (maxDischargeDepth := 20) [h])

@[simp] theorem actMute_hard (t n) (s : State) (h : HardHeld held seq s.faults) : HardHeld held seq (s.actMute t n).faults := by unfold State.actMute; (try dsimp only); (repeat' split) <;> first | with_reducible exact h | (simp (maxDischargeDepth := 20) [h]; done) | (simp_all (maxDischargeDepth := 20); done)

@[simp] theorem toRedo_hard (t id) (s : State) (h : HardHeld held seq s.faults) : HardHeld held seq (s.toRedo t id).faults := by unfold State.toRedo; (try dsimp only); (repeat' split) <;> first | with_reducible exact h | (simp (maxDischargeDepth := 20) [h]; done) | (simp_all (maxDischargeDepth := 20); done)

@[simp] theorem freeAll_hard (cause l) (s : State) (h : HardHeld held seq s.faults) : HardHeld held seq (s.freeAll cause l).faults := by
  induction l generalizing s with
  | nil => exact h
  | cons x l ih => simp (maxDischargeDepth := 20) [State.freeAll, ih, h]

theorem actUndo_ok_hard (t) (s u : State) (h : HardHeld held seq s.faults) (e : s.actUndo t = .ok u) : HardHeld held seq u.faults := by
  unfold State.actUndo at e
  dsimp only at e
  (repeat' split at e) <;> simp at e <;> (try (subst e; simp (maxDischargeDepth := 20) [h]))
  all_goals (repeat' split) <;> simp (maxDischargeDepth := 20) [h]

theorem actRedo_ok_hard (t) (s u : State) (h : HardHeld held seq s.faults) (e : s.actRedo t = .ok u) : HardHeld held seq u.faults := by
  unfold State.actRedo at e; (try dsimp only at e); (repeat' split at e) <;> simp at e <;> (subst e; simp (maxDischargeDepth := 20) [h])

@[simp] theorem emptyTrack_hard (t) (s : State) (h : HardHeld held seq s.faults) : HardHeld held seq (s.emptyTrack t).faults := by unfold State.emptyTrack; (try dsimp only); (repeat' split) <;> first | with_reducible exact h | (simp (maxDischargeDepth := 20) [h]; done) | (simp_all (maxDischargeDepth := 20); done)

@[simp] theorem forgetTrack_hard (t) (s : State) (h : HardHeld held seq s.faults) : HardHeld held seq (s.forgetTrack t).faults := by unfold State.forgetTrack; (try dsimp only); (repeat' split) <;> first | with_reducible exact h | (simp (maxDischargeDepth := 20) [h]; done) | (simp_all (maxDischargeDepth := 20); done)

@[simp] theorem clearTrack_hard (t) (s : State) (h : HardHeld held seq s.faults) : HardHeld held seq (s.clearTrack t).faults := by unfold State.clearTrack; (try dsimp only); (repeat' split) <;> first | with_reducible exact h | (simp (maxDischargeDepth := 20) [h]; done) | (simp_all (maxDischargeDepth := 20); done)

@[simp] theorem actClearTrack_hard (t) (s : State) (h : HardHeld held seq s.faults) : HardHeld held seq (s.actClearTrack t).faults := by unfold State.actClearTrack; (try dsimp only); (repeat' split) <;> first | with_reducible exact h | (simp (maxDischargeDepth := 20) [h]; done) | (simp_all (maxDischargeDepth := 20); done)

@[simp] theorem writeRing_hard (f) (s : State) (h : HardHeld held seq s.faults) : HardHeld held seq (s.writeRing f).faults := by unfold State.writeRing; (try dsimp only); (repeat' split) <;> first | with_reducible exact h | (simp (maxDischargeDepth := 20) [h]; done) | (simp_all (maxDischargeDepth := 20); done)

@[simp] theorem setRecord_hard (i r) (s : State) (h : HardHeld held seq s.faults) : HardHeld held seq (s.setRecord i r).faults := by unfold State.setRecord; (try dsimp only); (repeat' split) <;> first | with_reducible exact h | (simp (maxDischargeDepth := 20) [h]; done) | (simp_all (maxDischargeDepth := 20); done)

@[simp] theorem refillAll_hard (s : State) (h : HardHeld held seq s.faults) : HardHeld held seq (s.refillAll).faults := by unfold State.refillAll; (try dsimp only); (repeat' split) <;> first | with_reducible exact h | (simp (maxDischargeDepth := 20) [h]; done) | (simp_all (maxDischargeDepth := 20); done)

@[simp] theorem overrun_hard (pl id r) (s : State) (h : HardHeld held seq s.faults) : HardHeld held seq (s.overrun pl id r).faults := by unfold State.overrun; (try dsimp only); (repeat' split) <;> first | with_reducible exact h | (simp (maxDischargeDepth := 20) [h]; done) | (simp_all (maxDischargeDepth := 20); done)

@[simp] theorem cutClosed_hard (id n) (s : State) (h : HardHeld held seq s.faults) : HardHeld held seq (s.cutClosed id n).faults := by unfold State.cutClosed; (try dsimp only); (repeat' split) <;> first | with_reducible exact h | (simp (maxDischargeDepth := 20) [h]; done) | (simp_all (maxDischargeDepth := 20); done)

@[simp] theorem exhaust_hard (id n) (s : State) (h : HardHeld held seq s.faults) : HardHeld held seq (s.exhaust id n).faults := by unfold State.exhaust; (try dsimp only); (repeat' split) <;> first | with_reducible exact h | (simp (maxDischargeDepth := 20) [h]; done) | (simp_all (maxDischargeDepth := 20); done)

theorem allocateEach_hard (id : Nat) (l : List Nat) (s : State) (h : HardHeld held seq s.faults) : HardHeld held seq (State.allocateEach id l s).1.faults := by
  induction l generalizing s with
  | nil => exact h
  | cons o l ih =>
    unfold State.allocateEach
    split
    · next u hu => exact ih _ (allocate_hard _ _ _ h hu)
    · exact h

@[simp] theorem giveUp_hard (pl id r) (s : State) (h : HardHeld held seq s.faults) : HardHeld held seq (s.giveUp pl id r).faults := by
  unfold State.giveUp
  have h' := allocateEach_hard id (s.blocksNeeded id r) s h
  split <;> next hu => rw [hu] at h'; dsimp only at h'; simp (maxDischargeDepth := 20) [h']

@[simp] theorem handOver_hard (i) (s : State) (h : HardHeld held seq s.faults) : HardHeld held seq (s.handOver i).faults := by
  unfold State.handOver
  split
  · exact h
  · split
    · simp (maxDischargeDepth := 20) [h]
    · next u hu =>
      have hu' : HardHeld held seq u.faults := by
        split at hu
        · exact allocate_hard _ _ _ h hu
        · injection hu with hu; rw [← hu]; exact h
      dsimp only
      (repeat' split) <;> simp (maxDischargeDepth := 20) [hu'] 

@[simp] theorem settleCapture_hard (n : Nat) (s : State) (h : HardHeld held seq s.faults) : HardHeld held seq (State.settleCapture n s).faults := by
  induction n generalizing s with
  | zero => unfold State.settleCapture; simp (maxDischargeDepth := 20) [h]
  | succ n ih =>
    unfold State.settleCapture
    dsimp only
    (repeat' split) <;> simp (maxDischargeDepth := 20) [ih, h]

@[simp] theorem overtake_hard (pl i) (s : State) (h : HardHeld held seq s.faults) : HardHeld held seq (s.overtake pl i).faults := by unfold State.overtake; (try dsimp only); (repeat' split) <;> first | with_reducible exact h | (simp (maxDischargeDepth := 20) [h]; done) | (simp_all (maxDischargeDepth := 20); done)

@[simp] theorem stealRecord_hard (i) (s : State) (h : HardHeld held seq s.faults) : HardHeld held seq (s.stealRecord i).faults := by unfold State.stealRecord; (try dsimp only); (repeat' split) <;> first | with_reducible exact h | (simp (maxDischargeDepth := 20) [h]; done) | (simp_all (maxDischargeDepth := 20); done)

@[simp] theorem placeRecord_hard (r) (s : State) (h : HardHeld held seq s.faults) : HardHeld held seq (s.placeRecord r).faults := by unfold State.placeRecord; (try dsimp only); (repeat' split) <;> first | with_reducible exact h | (simp (maxDischargeDepth := 20) [h]; done) | (simp_all (maxDischargeDepth := 20); done)

@[simp] theorem openLayer_hard (t id l st ph dest) (s : State) (h : HardHeld held seq s.faults) : HardHeld held seq (s.openLayer t id l st ph dest).faults := by unfold State.openLayer; (try dsimp only); (repeat' split) <;> first | with_reducible exact h | (simp (maxDischargeDepth := 20) [h]; done) | (simp_all (maxDischargeDepth := 20); done)

@[simp] theorem freeRedo_hard (t) (s : State) (h : HardHeld held seq s.faults) : HardHeld held seq (s.freeRedo t).faults := by unfold State.freeRedo; (try dsimp only); (repeat' split) <;> first | with_reducible exact h | (simp (maxDischargeDepth := 20) [h]; done) | (simp_all (maxDischargeDepth := 20); done)

@[simp] theorem startDefining_hard (s : State) (h : HardHeld held seq s.faults) : HardHeld held seq (s.startDefining).faults := by unfold State.startDefining; (try dsimp only); (repeat' split) <;> first | with_reducible exact h | (simp (maxDischargeDepth := 20) [h]; done) | (simp_all (maxDischargeDepth := 20); done)

theorem actRecord_ok_hard (t k) (s u : State) (h : HardHeld held seq s.faults) (e : s.actRecord t k = .ok u) : HardHeld held seq u.faults := by
  unfold State.actRecord at e
  split at e
  · simp at e
  · split at e
    · simp at e
    · next v id hv =>
      injection e with e; subst e
      simp (maxDischargeDepth := 20) [takeRoom_hard _ _ _ _ h hv]

theorem actLayer_ok_hard (t cv k) (s u : State) (h : HardHeld held seq s.faults) (e : s.actLayer t cv k = .ok u) : HardHeld held seq u.faults := by
  unfold State.actLayer at e
  split at e
  · split at e
    · simp at e
    · next v id hv =>
      injection e with e; subst e
      simp (maxDischargeDepth := 20) [takeRoom_hard _ _ _ _ h hv]
  · simp at e

@[simp] theorem decayAll_hard (n l) (s : State) (h : HardHeld held seq s.faults) : HardHeld held seq (s.decayAll n l).faults := by
  induction l generalizing s with
  | nil => exact h
  | cons x l ih => simp (maxDischargeDepth := 20) [State.decayAll, ih, h]

@[simp] theorem decayFold_hard (t n) (s : State) (h : HardHeld held seq s.faults) : HardHeld held seq (s.decayFold t n).faults := by unfold State.decayFold; (try dsimp only); (repeat' split) <;> first | with_reducible exact h | (simp (maxDischargeDepth := 20) [h]; done) | (simp_all (maxDischargeDepth := 20); done)

@[simp] theorem retire_hard (t id) (s : State) (h : HardHeld held seq s.faults) : HardHeld held seq (s.retire t id).faults := by unfold State.retire; (try dsimp only); (repeat' split) <;> first | with_reducible exact h | (simp (maxDischargeDepth := 20) [h]; done) | (simp_all (maxDischargeDepth := 20); done)

@[simp] theorem retireAll_hard (t l) (s : State) (h : HardHeld held seq s.faults) : HardHeld held seq (s.retireAll t l).faults := by
  induction l generalizing s with
  | nil => exact h
  | cons x l ih => simp (maxDischargeDepth := 20) [State.retireAll, ih, h]

@[simp] theorem decayTrack_hard (t) (s : State) (h : HardHeld held seq s.faults) : HardHeld held seq (s.decayTrack t).faults := by unfold State.decayTrack; (try dsimp only); (repeat' split) <;> first | with_reducible exact h | (simp (maxDischargeDepth := 20) [h]; done) | (simp_all (maxDischargeDepth := 20); done)

@[simp] theorem roll_hard (t) (s : State) (h : HardHeld held seq s.faults) : HardHeld held seq (s.roll t).faults := by
  unfold State.roll
  dsimp only
  split
  · split
    · split
      · exact h
      · split
        · next v id' hv =>
          have hu : HardHeld held seq v.faults := by
            refine takeRoom_hard _ _ _ _ ?_ hv
            simp (maxDischargeDepth := 20) [h]
          simp (maxDischargeDepth := 20) [hu]
        · simp (maxDischargeDepth := 20) [h]
    · exact h
  · exact h

@[simp] theorem wrapTrack_hard (t) (s : State) (h : HardHeld held seq s.faults) : HardHeld held seq (s.wrapTrack t).faults := by unfold State.wrapTrack; (try dsimp only); (repeat' split) <;> first | with_reducible exact h | (simp (maxDischargeDepth := 20) [h]; done) | (simp_all (maxDischargeDepth := 20); done)

@[simp] theorem liveOne_hard (fr i) (s : State) (h : HardHeld held seq s.faults) : HardHeld held seq (s.liveOne fr i).faults := by unfold State.liveOne; (try dsimp only); (repeat' split) <;> first | with_reducible exact h | (simp (maxDischargeDepth := 20) [h]; done) | (simp_all (maxDischargeDepth := 20); done)

@[simp] theorem liveAll_hard (fr l) (s : State) (h : HardHeld held seq s.faults) : HardHeld held seq (s.liveAll fr l).faults := by
  induction l generalizing s with
  | nil => exact h
  | cons x l ih => simp (maxDischargeDepth := 20) [State.liveAll, ih, h]

@[simp] theorem overtakeAll_hard (pl l) (s : State) (h : HardHeld held seq s.faults) : HardHeld held seq (s.overtakeAll pl l).faults := by
  induction l generalizing s with
  | nil => exact h
  | cons x l ih => simp (maxDischargeDepth := 20) [State.overtakeAll, ih, h]

@[simp] theorem captureArrival_hard (pl fr ord) (s : State) (h : HardHeld held seq s.faults) : HardHeld held seq (s.captureArrival pl fr ord).faults := by unfold State.captureArrival; (try dsimp only); (repeat' split) <;> first | with_reducible exact h | (simp (maxDischargeDepth := 20) [h]; done) | (simp_all (maxDischargeDepth := 20); done)

@[simp] theorem closeLimits_hard (l) (s : State) (h : HardHeld held seq s.faults) : HardHeld held seq (s.closeLimits l).faults := by
  induction l generalizing s with
  | nil => exact h
  | cons x l ih => unfold State.closeLimits; exact ih _ (by split <;> simp (maxDischargeDepth := 20) [h])

@[simp] theorem closeTracks_hard (k stop l) (s : State) (h : HardHeld held seq s.faults) : HardHeld held seq (s.closeTracks k stop l).faults := by
  induction l generalizing s with
  | nil => exact h
  | cons x l ih => simp (maxDischargeDepth := 20) [State.closeTracks, ih, h]

@[simp] theorem pauseCycle_hard (s : State) (h : HardHeld held seq s.faults) : HardHeld held seq (s.pauseCycle).faults := by unfold State.pauseCycle; (try dsimp only); (repeat' split) <;> first | with_reducible exact h | (simp (maxDischargeDepth := 20) [h]; done) | (simp_all (maxDischargeDepth := 20); done)

@[simp] theorem actStopAll_hard (k) (s : State) (h : HardHeld held seq s.faults) : HardHeld held seq (s.actStopAll k).faults := by unfold State.actStopAll; (try dsimp only); (repeat' split) <;> first | with_reducible exact h | (simp (maxDischargeDepth := 20) [h]; done) | (simp_all (maxDischargeDepth := 20); done)

theorem actPlayAll_ok_hard (s u : State) (h : HardHeld held seq s.faults) (e : s.actPlayAll = .ok u) : HardHeld held seq u.faults := by
  unfold State.actPlayAll at e; (try dsimp only at e); (repeat' split at e) <;> simp at e <;> (subst e; simp (maxDischargeDepth := 20) [h])

theorem act_ok_hard (x t k) (s u : State) (h : HardHeld held seq s.faults) (e : s.act x t k = .ok u) : HardHeld held seq u.faults := by
  unfold State.act at e
  split at e
  · exact actRecord_ok_hard _ _ _ _ h e
  · exact actLayer_ok_hard _ _ _ _ _ h e
  · exact actLayer_ok_hard _ _ _ _ _ h e
  · exact actClose_ok_hard _ _ _ _ h e
  · injection e with e; subst e; simp (maxDischargeDepth := 20) [h]
  · injection e with e; subst e; simp (maxDischargeDepth := 20) [h]
  · exact actUndo_ok_hard _ _ _ h e
  · exact actRedo_ok_hard _ _ _ h e
  · injection e with e; subst e; simp (maxDischargeDepth := 20) [h]
  · exact actPlayAll_ok_hard _ _ h e
  · simp at e

@[simp] theorem actAtOnce_hard (x t e) (s : State) (h : HardHeld held seq s.faults) : HardHeld held seq (s.actAtOnce x t e).1.faults := by
  unfold State.actAtOnce
  dsimp only
  split
  · exact h
  · next u hu =>
    have hu' : HardHeld held seq u.faults := by
      refine act_ok_hard _ _ _ _ _ ?_ hu
      split <;> simp (maxDischargeDepth := 20) [h]
    (repeat' split) <;> simp_all (maxDischargeDepth := 20)

@[simp] theorem quantised_hard (q x t u pr) (s : State) (h : HardHeld held seq s.faults) : HardHeld held seq (s.quantised q x t u pr).1.faults := by
  unfold State.quantised
  split <;> simp (maxDischargeDepth := 20) [h]

@[simp] theorem takeCue_hard (r) (s : State) (h : HardHeld held seq s.faults) : HardHeld held seq (s.takeCue r).faults := by
  unfold State.takeCue
  split
  · exact h
  · split
    · dsimp only
      split
      · next u hu =>
        have hu' : HardHeld held seq u.faults := by
          refine act_ok_hard _ _ _ _ _ ?_ hu
          exact h
        simp (maxDischargeDepth := 20) [hu']
      · simp (maxDischargeDepth := 20) [h]
    · exact h

@[simp] theorem takeCues_hard (r : Reached) (n : Nat) (s : State) (h : HardHeld held seq s.faults) : HardHeld held seq (State.takeCues r n s).faults := by
  induction n generalizing s with
  | zero => exact h
  | succ n ih => simp (maxDischargeDepth := 20) [State.takeCues, ih, h]

@[simp] theorem wrapAll_hard (l) (s : State) (h : HardHeld held seq s.faults) : HardHeld held seq (s.wrapAll l).faults := by
  induction l generalizing s with
  | nil => exact h
  | cons x l ih => simp (maxDischargeDepth := 20) [State.wrapAll, ih, h]

@[simp] theorem boundaryWork_hard (r : Reached) (l : List (Option TrackId)) (w : List TrackId) (s : State)
    (h : HardHeld held seq s.faults) : HardHeld held seq (State.boundaryWork r l w s).faults := by
  induction l generalizing s w with
  | nil => simp (maxDischargeDepth := 20) [State.boundaryWork, h]
  | cons x l ih =>
    cases x with
    | none => simp (maxDischargeDepth := 20) [State.boundaryWork, ih, h]
    | some t => unfold State.boundaryWork; split <;> simp (maxDischargeDepth := 20) [ih, h]

@[simp] theorem actTap_hard (stamp) (s : State) (h : HardHeld held seq s.faults) : HardHeld held seq (s.actTap stamp).1.faults := by unfold State.actTap; (try dsimp only); (repeat' split) <;> first | with_reducible exact h | (simp (maxDischargeDepth := 20) [h]; done) | (simp_all (maxDischargeDepth := 20); done)

@[simp] theorem noteRecent_hard (q t x pr an) (s : State) (h : HardHeld held seq s.faults) : HardHeld held seq (s.noteRecent q t x pr an).faults := by unfold State.noteRecent; (try dsimp only); (repeat' split) <;> first | with_reducible exact h | (simp (maxDischargeDepth := 20) [h]; done) | (simp_all (maxDischargeDepth := 20); done)

@[simp] theorem resolved_hard (q t x u pr) (s : State) (h : HardHeld held seq s.faults) : HardHeld held seq (s.resolved q t x u pr).1.faults := by
  unfold State.resolved
  split
  · exact h
  · dsimp only
    (repeat' split) <;> simp (maxDischargeDepth := 20) [h]

@[simp] theorem toggle_hard (q t x u pr) (s : State) (h : HardHeld held seq s.faults) : HardHeld held seq (s.toggle q t x u pr).1.faults := by unfold State.toggle; (try dsimp only); (repeat' split) <;> first | with_reducible exact h | (simp (maxDischargeDepth := 20) [h]; done) | (simp_all (maxDischargeDepth := 20); done)

@[simp] theorem handCue_hard (q x t u pr) (s : State) (h : HardHeld held seq s.faults) : HardHeld held seq (s.handCue q x t u pr).1.faults := by unfold State.handCue; (try dsimp only); (repeat' split) <;> first | with_reducible exact h | (simp (maxDischargeDepth := 20) [h]; done) | (simp_all (maxDischargeDepth := 20); done)

@[simp] theorem selectTo_hard (q t) (s : State) (h : HardHeld held seq s.faults) : HardHeld held seq (s.selectTo q t).faults := by unfold State.selectTo; (try dsimp only); (repeat' split) <;> first | with_reducible exact h | (simp (maxDischargeDepth := 20) [h]; done) | (simp_all (maxDischargeDepth := 20); done)

@[simp] theorem handOn_hard (q : Port) (x : SwAction) (t : TrackId) (u : Quantum) (pr : PressTime) (s : State)
    (h : HardHeld held seq s.faults) : HardHeld held seq (State.handOn q x t u pr s).1.1.faults := by
  cases x <;> simp (maxDischargeDepth := 20) [State.handOn, h]

@[simp] theorem issue_hard (q c k x t u pr) (s : State) (h : HardHeld held seq s.faults) : HardHeld held seq (s.issue q c k x t u pr).faults := by unfold State.issue; (try dsimp only); (repeat' split) <;> first | with_reducible exact h | (simp (maxDischargeDepth := 20) [h]; done) | (simp_all (maxDischargeDepth := 20); done)

@[simp] theorem setMachine_hard (q c m) (s : State) (h : HardHeld held seq s.faults) : HardHeld held seq (s.setMachine q c m).faults := by unfold State.setMachine; (try dsimp only); (repeat' split) <;> first | with_reducible exact h | (simp (maxDischargeDepth := 20) [h]; done) | (simp_all (maxDischargeDepth := 20); done)

@[simp] theorem switchDown_hard (q c) (s : State) (h : HardHeld held seq s.faults) : HardHeld held seq (s.switchDown q c).1.faults := by unfold State.switchDown; (try dsimp only); (repeat' split) <;> first | with_reducible exact h | (simp (maxDischargeDepth := 20) [h]; done) | (simp_all (maxDischargeDepth := 20); done)

@[simp] theorem switchUp_hard (q c) (s : State) (h : HardHeld held seq s.faults) : HardHeld held seq (s.switchUp q c).1.faults := by unfold State.switchUp; (try dsimp only); (repeat' split) <;> first | with_reducible exact h | (simp (maxDischargeDepth := 20) [h]; done) | (simp_all (maxDischargeDepth := 20); done)

@[simp] theorem holdDue_hard (q c) (s : State) (h : HardHeld held seq s.faults) : HardHeld held seq (s.holdDue q c).faults := by unfold State.holdDue; (try dsimp only); (repeat' split) <;> first | with_reducible exact h | (simp (maxDischargeDepth := 20) [h]; done) | (simp_all (maxDischargeDepth := 20); done)

@[simp] theorem windowDue_hard (q c) (s : State) (h : HardHeld held seq s.faults) : HardHeld held seq (s.windowDue q c).faults := by unfold State.windowDue; (try dsimp only); (repeat' split) <;> first | with_reducible exact h | (simp (maxDischargeDepth := 20) [h]; done) | (simp_all (maxDischargeDepth := 20); done)

@[simp] theorem layerSample_hard (id k) (s : State) (h : HardHeld held seq s.faults) : HardHeld held seq (s.layerSample id k).1.faults := by unfold State.layerSample; (try dsimp only); (repeat' split) <;> first | with_reducible exact h | (simp (maxDischargeDepth := 20) [h]; done) | (simp_all (maxDischargeDepth := 20); done)

@[simp] theorem layerPart_hard (q id cs) (s : State) (h : HardHeld held seq s.faults) : HardHeld held seq (s.layerPart q id cs).1.faults := by unfold State.layerPart; (try dsimp only); (repeat' split) <;> first | with_reducible exact h | (simp (maxDischargeDepth := 20) [h]; done) | (simp_all (maxDischargeDepth := 20); done)

@[simp] theorem sumLayers_hard (t : TrackId) (q : Nat) (l : List Nat) (s : State) (h : HardHeld held seq s.faults) :
    HardHeld held seq (State.sumLayers t q l s).1.faults := by
  induction l generalizing s with
  | nil => exact h
  | cons x l ih => simp (maxDischargeDepth := 20) [State.sumLayers, ih, h]

@[simp] theorem trackSum_hard (t) (s : State) (h : HardHeld held seq s.faults) : HardHeld held seq (s.trackSum t).1.faults := by unfold State.trackSum; (try dsimp only); (repeat' split) <;> first | with_reducible exact h | (simp (maxDischargeDepth := 20) [h]; done) | (simp_all (maxDischargeDepth := 20); done)

@[simp] theorem trackSums_hard (l : List TrackId) (s : State) (h : HardHeld held seq s.faults) : HardHeld held seq (State.trackSums l s).1.faults := by
  induction l generalizing s with
  | nil => exact h
  | cons x l ih => simp (maxDischargeDepth := 20) [State.trackSums, ih, h]

@[simp] theorem moveRamps_hard (s : State) (h : HardHeld held seq s.faults) : HardHeld held seq (s.moveRamps).faults := by unfold State.moveRamps; (try dsimp only); (repeat' split) <;> first | with_reducible exact h | (simp (maxDischargeDepth := 20) [h]; done) | (simp_all (maxDischargeDepth := 20); done)

@[simp] theorem clip_hard (ear r) (s : State) (h : HardHeld held seq s.faults) : HardHeld held seq (s.clip ear r).faults := by unfold State.clip; (try dsimp only); (repeat' split) <;> first | with_reducible exact h | (simp (maxDischargeDepth := 20) [h]; done) | (simp_all (maxDischargeDepth := 20); done)

@[simp] theorem mix_hard (fr pl b) (s : State) (h : HardHeld held seq s.faults) : HardHeld held seq (s.mix fr pl b).faults := by unfold State.mix; (try dsimp only); (repeat' split) <;> first | with_reducible exact h | (simp (maxDischargeDepth := 20) [h]; done) | (simp_all (maxDischargeDepth := 20); done)

@[simp] theorem mixSilence_hard (s : State) (h : HardHeld held seq s.faults) : HardHeld held seq (s.mixSilence).faults := by unfold State.mixSilence; (try dsimp only); (repeat' split) <;> first | with_reducible exact h | (simp (maxDischargeDepth := 20) [h]; done) | (simp_all (maxDischargeDepth := 20); done)

@[simp] theorem discardImport_hard (id cause) (s : State) (h : HardHeld held seq s.faults) : HardHeld held seq (s.discardImport id cause).faults := by unfold State.discardImport; (try dsimp only); (repeat' split) <;> first | with_reducible exact h | (simp (maxDischargeDepth := 20) [h]; done) | (simp_all (maxDischargeDepth := 20); done)

@[simp] theorem requestCommit_hard (p) (s : State) (h : HardHeld held seq s.faults) : HardHeld held seq (s.requestCommit p).faults := by
  unfold State.requestCommit
  split
  · exact h
  · split
    · exact h
    · dsimp only
      split
      · split
        · next u hu => have hu' := allocate_hard _ _ _ h hu; simp (maxDischargeDepth := 20) [hu']
        · simp (maxDischargeDepth := 20) [h]
      · simp (maxDischargeDepth := 20) [h]

@[simp] theorem settleWrite_hard (p) (s : State) (h : HardHeld held seq s.faults) : HardHeld held seq (s.settleWrite p).faults := by unfold State.settleWrite; (try dsimp only); (repeat' split) <;> first | with_reducible exact h | (simp (maxDischargeDepth := 20) [h]; done) | (simp_all (maxDischargeDepth := 20); done)

@[simp] theorem settleWait_hard (who) (s : State) (h : HardHeld held seq s.faults) : HardHeld held seq (s.settleWait who).faults := by unfold State.settleWait; (try dsimp only); (repeat' split) <;> first | with_reducible exact h | (simp (maxDischargeDepth := 20) [h]; done) | (simp_all (maxDischargeDepth := 20); done)

@[simp] theorem settle_hard (s : State) (h : HardHeld held seq s.faults) : HardHeld held seq (s.settle).faults := by unfold State.settle; (try dsimp only); (repeat' split) <;> first | with_reducible exact h | (simp (maxDischargeDepth := 20) [h]; done) | (simp_all (maxDischargeDepth := 20); done)

@[simp] theorem discardImports_hard (cause l) (s : State) (h : HardHeld held seq s.faults) : HardHeld held seq (s.discardImports cause l).faults := by
  induction l generalizing s with
  | nil => exact h
  | cons x l ih => simp (maxDischargeDepth := 20) [State.discardImports, ih, h]

@[simp] theorem abandonRunningFold_hard (cause) (s : State) (h : HardHeld held seq s.faults) : HardHeld held seq (s.abandonRunningFold cause).faults := by unfold State.abandonRunningFold; (try dsimp only); (repeat' split) <;> first | with_reducible exact h | (simp (maxDischargeDepth := 20) [h]; done) | (simp_all (maxDischargeDepth := 20); done)

@[simp] theorem emptyTracks_hard (l) (s : State) (h : HardHeld held seq s.faults) : HardHeld held seq (s.emptyTracks l).faults := by
  induction l generalizing s with
  | nil => exact h
  | cons x l ih => simp (maxDischargeDepth := 20) [State.emptyTracks, ih, h]

@[simp] theorem raiseEmptied_hard (old l) (s : State) (h : HardHeld held seq s.faults) : HardHeld held seq (s.raiseEmptied old l).faults := by
  induction l generalizing s with
  | nil => exact h
  | cons x l ih => unfold State.raiseEmptied; exact ih _ (by split <;> simp (maxDischargeDepth := 20) [h])

@[simp] theorem clearTracks_hard (s : State) (h : HardHeld held seq s.faults) : HardHeld held seq (s.clearTracks).faults := by unfold State.clearTracks; (try dsimp only); (repeat' split) <;> first | with_reducible exact h | (simp (maxDischargeDepth := 20) [h]; done) | (simp_all (maxDischargeDepth := 20); done)

@[simp] theorem forgetRecent_hard (s : State) (h : HardHeld held seq s.faults) : HardHeld held seq (s.forgetRecent).faults := by unfold State.forgetRecent; (try dsimp only); (repeat' split) <;> first | with_reducible exact h | (simp (maxDischargeDepth := 20) [h]; done) | (simp_all (maxDischargeDepth := 20); done)

@[simp] theorem clearCycle_hard (s : State) (h : HardHeld held seq s.faults) : HardHeld held seq (s.clearCycle).faults := by unfold State.clearCycle; (try dsimp only); (repeat' split) <;> first | with_reducible exact h | (simp (maxDischargeDepth := 20) [h]; done) | (simp_all (maxDischargeDepth := 20); done)

@[simp] theorem actClearAll_hard (s : State) (h : HardHeld held seq s.faults) : HardHeld held seq (s.actClearAll).faults := by unfold State.actClearAll; (try dsimp only); (repeat' split) <;> first | with_reducible exact h | (simp (maxDischargeDepth := 20) [h]; done) | (simp_all (maxDischargeDepth := 20); done)

@[simp] theorem enterRest_hard (cause d) (s : State) (h : HardHeld held seq s.faults) : HardHeld held seq (s.enterRest cause d).faults := by unfold State.enterRest; (try dsimp only); (repeat' split) <;> first | with_reducible exact h | (simp (maxDischargeDepth := 20) [h]; done) | (simp_all (maxDischargeDepth := 20); done)

@[simp] theorem powerLow_hard (s : State) (h : HardHeld held seq s.faults) : HardHeld held seq (s.powerLow).faults := by unfold State.powerLow; (try dsimp only); (repeat' split) <;> first | with_reducible exact h | (simp (maxDischargeDepth := 20) [h]; done) | (simp_all (maxDischargeDepth := 20); done)

@[simp] theorem wakeUp_hard (s : State) (h : HardHeld held seq s.faults) : HardHeld held seq (s.wakeUp).faults := by unfold State.wakeUp; (try dsimp only); (repeat' split) <;> first | with_reducible exact h | (simp (maxDischargeDepth := 20) [h]; done) | (simp_all (maxDischargeDepth := 20); done)

@[simp] theorem testDone_hard (s : State) (h : HardHeld held seq s.faults) : HardHeld held seq (s.testDone).faults := by unfold State.testDone; (try dsimp only); (repeat' split) <;> first | with_reducible exact h | (simp (maxDischargeDepth := 20) [h]; done) | (simp_all (maxDischargeDepth := 20); done)

@[simp] theorem setGrant_hard (g) (s : State) (h : HardHeld held seq s.faults) : HardHeld held seq (s.setGrant g).faults := by unfold State.setGrant; (try dsimp only); (repeat' split) <;> first | with_reducible exact h | (simp (maxDischargeDepth := 20) [h]; done) | (simp_all (maxDischargeDepth := 20); done)

@[simp] theorem grantPlayback_hard (id r) (s : State) (h : HardHeld held seq s.faults) : HardHeld held seq (s.grantPlayback id r).faults := by unfold State.grantPlayback; (try dsimp only); (repeat' split) <;> first | with_reducible exact h | (simp (maxDischargeDepth := 20) [h]; done) | (simp_all (maxDischargeDepth := 20); done)

@[simp] theorem grantCapture_hard (x rest) (s : State) (h : HardHeld held seq s.faults) : HardHeld held seq (s.grantCapture x rest).faults := by unfold State.grantCapture; (try dsimp only); (repeat' split) <;> first | with_reducible exact h | (simp (maxDischargeDepth := 20) [h]; done) | (simp_all (maxDischargeDepth := 20); done)

@[simp] theorem grantFold_hard (s : State) (h : HardHeld held seq s.faults) : HardHeld held seq (s.grantFold).faults := by unfold State.grantFold; (try dsimp only); (repeat' split) <;> first | with_reducible exact h | (simp (maxDischargeDepth := 20) [h]; done) | (simp_all (maxDischargeDepth := 20); done)

@[simp] theorem grantWindow_hard (p) (s : State) (h : HardHeld held seq s.faults) : HardHeld held seq (s.grantWindow p).faults := by unfold State.grantWindow; (try dsimp only); (repeat' split) <;> first | with_reducible exact h | (simp (maxDischargeDepth := 20) [h]; done) | (simp_all (maxDischargeDepth := 20); done)

@[simp] theorem grantBackground_hard (x) (s : State) (h : HardHeld held seq s.faults) : HardHeld held seq (s.grantBackground x).faults := by unfold State.grantBackground; (try dsimp only); (repeat' split) <;> first | with_reducible exact h | (simp (maxDischargeDepth := 20) [h]; done) | (simp_all (maxDischargeDepth := 20); done)

@[simp] theorem grantNext_hard (s : State) (h : HardHeld held seq s.faults) : HardHeld held seq (s.grantNext).faults := by unfold State.grantNext; (try dsimp only); (repeat' split) <;> first | with_reducible exact h | (simp (maxDischargeDepth := 20) [h]; done) | (simp_all (maxDischargeDepth := 20); done)

@[simp] theorem arbitrate_hard (s : State) (h : HardHeld held seq s.faults) : HardHeld held seq (s.arbitrate).faults := by unfold State.arbitrate; (try dsimp only); (repeat' split) <;> first | with_reducible exact h | (simp (maxDischargeDepth := 20) [h]; done) | (simp_all (maxDischargeDepth := 20); done)

@[simp] theorem playbackDone_hard (rd cs) (s : State) (h : HardHeld held seq s.faults) : HardHeld held seq (s.playbackDone rd cs).faults := by unfold State.playbackDone; (try dsimp only); (repeat' split) <;> first | with_reducible exact h | (simp (maxDischargeDepth := 20) [h]; done) | (simp_all (maxDischargeDepth := 20); done)

@[simp] theorem captureDone_hard (x blk live) (s : State) (h : HardHeld held seq s.faults) : HardHeld held seq (s.captureDone x blk live).faults := by unfold State.captureDone; (try dsimp only); (repeat' split) <;> first | with_reducible exact h | (simp (maxDischargeDepth := 20) [h]; done) | (simp_all (maxDischargeDepth := 20); done)

@[simp] theorem foldReadDone_hard (rd nw cs) (s : State) (h : HardHeld held seq s.faults) : HardHeld held seq (s.foldReadDone rd nw cs).faults := by unfold State.foldReadDone; (try dsimp only); (repeat' split) <;> first | with_reducible exact h | (simp (maxDischargeDepth := 20) [h]; done) | (simp_all (maxDischargeDepth := 20); done)

@[simp] theorem foldWriteDone_hard (blk o xs) (s : State) (h : HardHeld held seq s.faults) : HardHeld held seq (s.foldWriteDone blk o xs).faults := by unfold State.foldWriteDone; (try dsimp only); (repeat' split) <;> first | with_reducible exact h | (simp (maxDischargeDepth := 20) [h]; done) | (simp_all (maxDischargeDepth := 20); done)

@[simp] theorem windowReadDone_hard (p rd cs) (s : State) (h : HardHeld held seq s.faults) : HardHeld held seq (s.windowReadDone p rd cs).faults := by unfold State.windowReadDone; (try dsimp only); (repeat' split) <;> first | with_reducible exact h | (simp (maxDischargeDepth := 20) [h]; done) | (simp_all (maxDischargeDepth := 20); done)

@[simp] theorem importDone_hard (p id) (s : State) (h : HardHeld held seq s.faults) : HardHeld held seq (s.importDone p id).faults := by unfold State.importDone; (try dsimp only); (repeat' split) <;> first | with_reducible exact h | (simp (maxDischargeDepth := 20) [h]; done) | (simp_all (maxDischargeDepth := 20); done)

@[simp] theorem commitDone_hard (p blk o xs) (s : State) (h : HardHeld held seq s.faults) : HardHeld held seq (s.commitDone p blk o xs).faults := by unfold State.commitDone; (try dsimp only); (repeat' split) <;> first | with_reducible exact h | (simp (maxDischargeDepth := 20) [h]; done) | (simp_all (maxDischargeDepth := 20); done)

@[simp] theorem completeRefresh_hard (s : State) (h : HardHeld held seq s.faults) : HardHeld held seq (s.completeRefresh).faults := by unfold State.completeRefresh; (try dsimp only); (repeat' split) <;> first | with_reducible exact h | (simp (maxDischargeDepth := 20) [h]; done) | (simp_all (maxDischargeDepth := 20); done)

@[simp] theorem completePlayback_hard (cs) (s : State) (h : HardHeld held seq s.faults) : HardHeld held seq (s.completePlayback cs).faults := by unfold State.completePlayback; (try dsimp only); (repeat' split) <;> first | with_reducible exact h | (simp (maxDischargeDepth := 20) [h]; done) | (simp_all (maxDischargeDepth := 20); done)

@[simp] theorem completeCapture_hard (s : State) (h : HardHeld held seq s.faults) : HardHeld held seq (s.completeCapture).faults := by unfold State.completeCapture; (try dsimp only); (repeat' split) <;> first | with_reducible exact h | (simp (maxDischargeDepth := 20) [h]; done) | (simp_all (maxDischargeDepth := 20); done)

@[simp] theorem completeFoldBurst_hard (cs) (s : State) (h : HardHeld held seq s.faults) : HardHeld held seq (s.completeFoldBurst cs).faults := by unfold State.completeFoldBurst; (try dsimp only); (repeat' split) <;> first | with_reducible exact h | (simp (maxDischargeDepth := 20) [h]; done) | (simp_all (maxDischargeDepth := 20); done)

@[simp] theorem completeWindowRead_hard (cs) (s : State) (h : HardHeld held seq s.faults) : HardHeld held seq (s.completeWindowRead cs).faults := by unfold State.completeWindowRead; (try dsimp only); (repeat' split) <;> first | with_reducible exact h | (simp (maxDischargeDepth := 20) [h]; done) | (simp_all (maxDischargeDepth := 20); done)

@[simp] theorem completeCommit_hard (s : State) (h : HardHeld held seq s.faults) : HardHeld held seq (s.completeCommit).faults := by unfold State.completeCommit; (try dsimp only); (repeat' split) <;> first | with_reducible exact h | (simp (maxDischargeDepth := 20) [h]; done) | (simp_all (maxDischargeDepth := 20); done)

@[simp] theorem lockout_hard (who) (s : State) (h : HardHeld held seq s.faults) : HardHeld held seq (s.lockout who).faults := by unfold State.lockout; (try dsimp only); (repeat' split) <;> first | with_reducible exact h | (simp (maxDischargeDepth := 20) [h]; done) | (simp_all (maxDischargeDepth := 20); done)

@[simp] theorem writeDeadline_hard (s : State) (h : HardHeld held seq s.faults) : HardHeld held seq (s.writeDeadline).faults := by unfold State.writeDeadline; (try dsimp only); (repeat' split) <;> first | with_reducible exact h | (simp (maxDischargeDepth := 20) [h]; done) | (simp_all (maxDischargeDepth := 20); done)

@[simp] theorem windowTimedOut_hard (p) (s : State) (h : HardHeld held seq s.faults) : HardHeld held seq (s.windowTimedOut p).faults := by unfold State.windowTimedOut; (try dsimp only); (repeat' split) <;> first | with_reducible exact h | (simp (maxDischargeDepth := 20) [h]; done) | (simp_all (maxDischargeDepth := 20); done)

@[simp] theorem refreshFallsDue_hard (s : State) (h : HardHeld held seq s.faults) : HardHeld held seq (s.refreshFallsDue).faults := by unfold State.refreshFallsDue; (try dsimp only); (repeat' split) <;> first | with_reducible exact h | (simp (maxDischargeDepth := 20) [h]; done) | (simp_all (maxDischargeDepth := 20); done)

@[simp] theorem testCorrected_hard (n m : Nat) (s : State) (h : HardHeld held seq s.faults) : HardHeld held seq (State.testCorrected n m s).faults := by
  induction m generalizing s with
  | zero => exact h
  | succ m ih => simp (maxDischargeDepth := 20) [State.testCorrected, ih, h]

@[simp] theorem testBlock_hard (n ok) (s : State) (h : HardHeld held seq s.faults) : HardHeld held seq (s.testBlock n ok).faults := by unfold State.testBlock; (try dsimp only); (repeat' split) <;> first | with_reducible exact h | (simp (maxDischargeDepth := 20) [h]; done) | (simp_all (maxDischargeDepth := 20); done)

@[simp] theorem finishTest_hard (s : State) (h : HardHeld held seq s.faults) : HardHeld held seq (s.finishTest).faults := by unfold State.finishTest; (try dsimp only); (repeat' split) <;> first | with_reducible exact h | (simp (maxDischargeDepth := 20) [h]; done) | (simp_all (maxDischargeDepth := 20); done)

@[simp] theorem selfRefresh_hard (s : State) (h : HardHeld held seq s.faults) : HardHeld held seq (s.selfRefresh).faults := by unfold State.selfRefresh; (try dsimp only); (repeat' split) <;> first | with_reducible exact h | (simp (maxDischargeDepth := 20) [h]; done) | (simp_all (maxDischargeDepth := 20); done)

@[simp] theorem atBoundary_hard (ord r) (s : State) (h : HardHeld held seq s.faults) : HardHeld held seq (s.atBoundary ord r).faults := by unfold State.atBoundary; (try dsimp only); (repeat' split) <;> first | with_reducible exact h | (simp (maxDischargeDepth := 20) [h]; done) | (simp_all (maxDischargeDepth := 20); done)

@[simp] theorem arrivalWork_hard (ord fr r) (s : State) (h : HardHeld held seq s.faults) : HardHeld held seq (s.arrivalWork ord fr r).faults := by unfold State.arrivalWork; (try dsimp only); (repeat' split) <;> first | with_reducible exact h | (simp (maxDischargeDepth := 20) [h]; done) | (simp_all (maxDischargeDepth := 20); done)

@[simp] theorem arriveRun_hard (ord fr) (s : State) (h : HardHeld held seq s.faults) : HardHeld held seq (s.arriveRun ord fr).1.faults := by unfold State.arriveRun; (try dsimp only); (repeat' split) <;> first | with_reducible exact h | (simp (maxDischargeDepth := 20) [h]; done) | (simp_all (maxDischargeDepth := 20); done)

@[simp] theorem arrive_hard (ord fr) (s : State) (h : HardHeld held seq s.faults) : HardHeld held seq (s.arrive ord fr).1.faults := by unfold State.arrive; (try dsimp only); (repeat' split) <;> first | with_reducible exact h | (simp (maxDischargeDepth := 20) [h]; done) | (simp_all (maxDischargeDepth := 20); done)

@[simp] theorem raiseAt_hard (k d r) (s : State) (h : HardHeld held seq s.faults) : HardHeld held seq (s.raiseAt k d r).faults := by unfold State.raiseAt; (try dsimp only); (repeat' split) <;> first | with_reducible exact h | (simp (maxDischargeDepth := 20) [h]; done) | (simp_all (maxDischargeDepth := 20); done)

@[simp] theorem audioBack_hard (r) (s : State) (h : HardHeld held seq s.faults) : HardHeld held seq (s.audioBack r).faults := by unfold State.audioBack; (try dsimp only); (repeat' split) <;> first | with_reducible exact h | (simp (maxDischargeDepth := 20) [h]; done) | (simp_all (maxDischargeDepth := 20); done)

@[simp] theorem linkError_hard (r) (s : State) (h : HardHeld held seq s.faults) : HardHeld held seq (s.linkError r).faults := by unfold State.linkError; (try dsimp only); (repeat' split) <;> first | with_reducible exact h | (simp (maxDischargeDepth := 20) [h]; done) | (simp_all (maxDischargeDepth := 20); done)

@[simp] theorem closeFrame_hard (n bits ord) (s : State) (h : HardHeld held seq s.faults) : HardHeld held seq (s.closeFrame n bits ord).faults := by unfold State.closeFrame; (try dsimp only); (repeat' split) <;> first | with_reducible exact h | (simp (maxDischargeDepth := 20) [h]; done) | (simp_all (maxDischargeDepth := 20); done)

@[simp] theorem frameSync_hard (n bits ord) (s : State) (h : HardHeld held seq s.faults) : HardHeld held seq (s.frameSync n bits ord).faults := by unfold State.frameSync; (try dsimp only); (repeat' split) <;> first | with_reducible exact h | (simp (maxDischargeDepth := 20) [h]; done) | (simp_all (maxDischargeDepth := 20); done)

@[simp] theorem watchdog_hard (s : State) (h : HardHeld held seq s.faults) : HardHeld held seq (s.watchdog).faults := by unfold State.watchdog; (try dsimp only); (repeat' split) <;> first | with_reducible exact h | (simp (maxDischargeDepth := 20) [h]; done) | (simp_all (maxDischargeDepth := 20); done)

@[simp] theorem shiftRequest_hard (p n) (s : State) (h : HardHeld held seq s.faults) : HardHeld held seq (s.shiftRequest p n).faults := by unfold State.shiftRequest; (try dsimp only); (repeat' split) <;> first | with_reducible exact h | (simp (maxDischargeDepth := 20) [h]; done) | (simp_all (maxDischargeDepth := 20); done)

@[simp] theorem refuse_hard (rq code st) (s : State) (h : HardHeld held seq s.faults) : HardHeld held seq (s.refuse rq code st).faults := by unfold State.refuse; (try dsimp only); (repeat' split) <;> first | with_reducible exact h | (simp (maxDischargeDepth := 20) [h]; done) | (simp_all (maxDischargeDepth := 20); done)

@[simp] theorem beginTransfer_hard (p k) (s : State) (h : HardHeld held seq s.faults) : HardHeld held seq (s.beginTransfer p k).faults := by unfold State.beginTransfer; (try dsimp only); (repeat' split) <;> first | with_reducible exact h | (simp (maxDischargeDepth := 20) [h]; done) | (simp_all (maxDischargeDepth := 20); done)

@[simp] theorem endTransfer_hard (p) (s : State) (h : HardHeld held seq s.faults) : HardHeld held seq (s.endTransfer p).faults := by unfold State.endTransfer; (try dsimp only); (repeat' split) <;> first | with_reducible exact h | (simp (maxDischargeDepth := 20) [h]; done) | (simp_all (maxDischargeDepth := 20); done)

@[simp] theorem shiftOut_hard (p t x) (s : State) (h : HardHeld held seq s.faults) : HardHeld held seq (s.shiftOut p t x).faults := by unfold State.shiftOut; (try dsimp only); (repeat' split) <;> first | with_reducible exact h | (simp (maxDischargeDepth := 20) [h]; done) | (simp_all (maxDischargeDepth := 20); done)

@[simp] theorem departHead_hard (p) (s : State) (h : HardHeld held seq s.faults) : HardHeld held seq (s.departHead p).faults := by unfold State.departHead; (try dsimp only); (repeat' split) <;> first | with_reducible exact h | (simp (maxDischargeDepth := 20) [h]; done) | (simp_all (maxDischargeDepth := 20); done)

@[simp] theorem replyByte_hard (p) (s : State) (h : HardHeld held seq s.faults) : HardHeld held seq (s.replyByte p).faults := by unfold State.replyByte; (try dsimp only); (repeat' split) <;> first | with_reducible exact h | (simp (maxDischargeDepth := 20) [h]; done) | (simp_all (maxDischargeDepth := 20); done)

@[simp] theorem eventByte_hard (p t left j) (s : State) (h : HardHeld held seq s.faults) : HardHeld held seq (s.eventByte p t left j).faults := by unfold State.eventByte; (try dsimp only); (repeat' split) <;> first | with_reducible exact h | (simp (maxDischargeDepth := 20) [h]; done) | (simp_all (maxDischargeDepth := 20); done)

@[simp] theorem eventsByte_hard (p) (s : State) (h : HardHeld held seq s.faults) : HardHeld held seq (s.eventsByte p).faults := by unfold State.eventsByte; (try dsimp only); (repeat' split) <;> first | with_reducible exact h | (simp (maxDischargeDepth := 20) [h]; done) | (simp_all (maxDischargeDepth := 20); done)

@[simp] theorem reportFlag_hard (p flag) (s : State) (h : HardHeld held seq s.faults) : HardHeld held seq (s.reportFlag p flag).faults := by unfold State.reportFlag; (try dsimp only); (repeat' split) <;> first | with_reducible exact h | (simp (maxDischargeDepth := 20) [h]; done) | (simp_all (maxDischargeDepth := 20); done)

@[simp] theorem latchWindow_hard (p) (s : State) (h : HardHeld held seq s.faults) : HardHeld held seq (s.latchWindow p).faults := by unfold State.latchWindow; (try dsimp only); (repeat' split) <;> first | with_reducible exact h | (simp (maxDischargeDepth := 20) [h]; done) | (simp_all (maxDischargeDepth := 20); done)

@[simp] theorem markShifting_hard (p) (s : State) (h : HardHeld held seq s.faults) : HardHeld held seq (s.markShifting p).faults := by unfold State.markShifting; (try dsimp only); (repeat' split) <;> first | with_reducible exact h | (simp (maxDischargeDepth := 20) [h]; done) | (simp_all (maxDischargeDepth := 20); done)

@[simp] theorem sampleByte_hard (p t j) (s : State) (h : HardHeld held seq s.faults) : HardHeld held seq (s.sampleByte p t j).faults := by unfold State.sampleByte; (try dsimp only); (repeat' split) <;> first | with_reducible exact h | (simp (maxDischargeDepth := 20) [h]; done) | (simp_all (maxDischargeDepth := 20); done)

@[simp] theorem windowReadByte_hard (p) (s : State) (h : HardHeld held seq s.faults) : HardHeld held seq (s.windowReadByte p).faults := by unfold State.windowReadByte; (try dsimp only); (repeat' split) <;> first | with_reducible exact h | (simp (maxDischargeDepth := 20) [h]; done) | (simp_all (maxDischargeDepth := 20); done)

@[simp] theorem sampleIn_hard (p x w) (s : State) (h : HardHeld held seq s.faults) : HardHeld held seq (s.sampleIn p x w).faults := by unfold State.sampleIn; (try dsimp only); (repeat' split) <;> first | with_reducible exact h | (simp (maxDischargeDepth := 20) [h]; done) | (simp_all (maxDischargeDepth := 20); done)

@[simp] theorem shiftZeros_hard (p n) (s : State) (h : HardHeld held seq s.faults) : HardHeld held seq (s.shiftZeros p n).faults := by unfold State.shiftZeros; (try dsimp only); (repeat' split) <;> first | with_reducible exact h | (simp (maxDischargeDepth := 20) [h]; done) | (simp_all (maxDischargeDepth := 20); done)

@[simp] theorem riseIf_hard (p rise) (s : State) (h : HardHeld held seq s.faults) : HardHeld held seq (s.riseIf p rise).faults := by unfold State.riseIf; (try dsimp only); (repeat' split) <;> first | with_reducible exact h | (simp (maxDischargeDepth := 20) [h]; done) | (simp_all (maxDischargeDepth := 20); done)

@[simp] theorem windowWriteByte_hard (p x) (s : State) (h : HardHeld held seq s.faults) : HardHeld held seq (s.windowWriteByte p x).faults := by unfold State.windowWriteByte; (try dsimp only); (repeat' split) <;> first | with_reducible exact h | (simp (maxDischargeDepth := 20) [h]; done) | (simp_all (maxDischargeDepth := 20); done)

@[simp] theorem windowWriteBytes_hard (p l) (s : State) (h : HardHeld held seq s.faults) : HardHeld held seq (s.windowWriteBytes p l).faults := by
  induction l generalizing s with
  | nil => exact h
  | cons x l ih => simp (maxDischargeDepth := 20) [State.windowWriteBytes, ih, h]

@[simp] theorem setMailbox_hard (p n) (s : State) (h : HardHeld held seq s.faults) : HardHeld held seq (s.setMailbox p n).faults := by unfold State.setMailbox; (try dsimp only); (repeat' split) <;> first | with_reducible exact h | (simp (maxDischargeDepth := 20) [h]; done) | (simp_all (maxDischargeDepth := 20); done)

@[simp] theorem shutWindow_hard (p) (s : State) (h : HardHeld held seq s.faults) : HardHeld held seq (s.shutWindow p).faults := by unfold State.shutWindow; (try dsimp only); (repeat' split) <;> first | with_reducible exact h | (simp (maxDischargeDepth := 20) [h]; done) | (simp_all (maxDischargeDepth := 20); done)

@[simp] theorem closeCommit_hard (p w) (s : State) (h : HardHeld held seq s.faults) : HardHeld held seq (s.closeCommit p w).faults := by unfold State.closeCommit; (try dsimp only); (repeat' split) <;> first | with_reducible exact h | (simp (maxDischargeDepth := 20) [h]; done) | (simp_all (maxDischargeDepth := 20); done)

@[simp] theorem setEntry_hard (c e) (s : State) (h : HardHeld held seq s.faults) : HardHeld held seq (s.setEntry c e).faults := by unfold State.setEntry; (try dsimp only); (repeat' split) <;> first | with_reducible exact h | (simp (maxDischargeDepth := 20) [h]; done) | (simp_all (maxDischargeDepth := 20); done)

@[simp] theorem setTimeout_hard (p n) (s : State) (h : HardHeld held seq s.faults) : HardHeld held seq (s.setTimeout p n).faults := by unfold State.setTimeout; (try dsimp only); (repeat' split) <;> first | with_reducible exact h | (simp (maxDischargeDepth := 20) [h]; done) | (simp_all (maxDischargeDepth := 20); done)

@[simp] theorem placeImport_hard (p id i) (s : State) (h : HardHeld held seq s.faults) : HardHeld held seq (s.placeImport p id i).faults := by unfold State.placeImport; (try dsimp only); (repeat' split) <;> first | with_reducible exact h | (simp (maxDischargeDepth := 20) [h]; done) | (simp_all (maxDischargeDepth := 20); done)

end Sys2Proof.Machine
end

