-- ==== Sys2Proof/Laws/KeepQueues.lean ====
section
/-! SUPPORT. The event queues stay within 32 entries and the lost counts within 255 (R201). -/
namespace Sys2Proof.Machine

open Sys2Proof

set_option linter.unusedSimpArgs false
set_option linter.unusedTactic false
set_option linter.unreachableTactic false
set_option linter.unnecessarySeqFocus false

@[simp] theorem bounded_mk (r : ReplySlot) (t : Option Transfer) (l : List Event) (n : Nat) (i : BitVec 32) (m : MaskLevel)
    (b : Option (List Byte)) (x : List Byte) : PortCtl.bounded ⟨r, t, l, n, i, m, b, x⟩ ↔ l.length ≤ 32 ∧ n ≤ 255 := Iff.rfl

@[simp] theorem port_queue_le (p : Port) (s : State) (h : QueuesBounded s.portA s.portB) : (s.port p).queue.length ≤ 32 := by
  cases p
  · exact h.1.1
  · exact h.2.1

@[simp] theorem port_lost_le (p : Port) (s : State) (h : QueuesBounded s.portA s.portB) : (s.port p).lost ≤ 255 := by
  cases p
  · exact h.1.2
  · exact h.2.2

theorem newestRoutine_lt (l : List Event) (i : Nat) (h : newestRoutine l = some i) : i < l.length := by
  induction l generalizing i with
  | nil => simp [newestRoutine] at h
  | cons e l ih =>
    unfold newestRoutine at h
    split at h
    · next k hk => injection h with h; have := ih k hk; simp; omega
    · split at h
      · simp at h
      · injection h with h; simp; omega

/-- The displaced entry stands in the queue (R201). -/
theorem displaced_lt (c : PortCtl) (i : Nat) (h : c.displaced = some i) : i < c.queue.length := by
  unfold PortCtl.displaced at h
  split at h
  · simp only [Option.map_eq_some_iff] at h
    obtain ⟨k, hk, rfl⟩ := h
    have := newestRoutine_lt _ _ hk
    simp at this; omega
  · exact newestRoutine_lt _ _ h

theorem satInc_le (top n : Nat) : satInc top n ≤ top := Nat.min_le_left _ _

/-- An offered event leaves a queue within its bounds (R201). -/
@[simp] theorem offer_bounded (e : Event) (c : PortCtl) (h1 : c.queue.length ≤ 32) (h2 : c.lost ≤ 255) : (c.offer e).bounded := by
  unfold PortCtl.offer
  split
  · unfold PortCtl.enqueue
    split
    · exact ⟨by simp; omega, h2⟩
    · split
      · split
        · next i hi =>
          have hl := displaced_lt c i hi
          exact ⟨by simp [List.length_eraseIdx, hl]; omega, satInc_le _ _⟩
        · exact ⟨h1, satInc_le _ _⟩
      · exact ⟨h1, satInc_le _ _⟩
  · exact ⟨h1, h2⟩

theorem setPort_queues (p : Port) (c : PortCtl) (s : State) (h : QueuesBounded s.portA s.portB) (hc : c.bounded) :
    QueuesBounded (s.setPort p c).portA (s.setPort p c).portB := by
  cases p
  · exact ⟨hc, h.2⟩
  · exact ⟨h.1, hc⟩

theorem emptied_bounded (l : Latch) (c : PortCtl) (h : c.bounded) : (c.emptied l).bounded := by
  unfold PortCtl.emptied
  split
  · split <;> exact h
  · exact h

@[simp] theorem raiseEvent_queues (e : Event) (s : State) (h : QueuesBounded s.portA s.portB) :
    QueuesBounded (s.raiseEvent e).portA (s.raiseEvent e).portB :=
  ⟨offer_bounded _ _ h.1.1 h.1.2, offer_bounded _ _ h.2.1 h.2.2⟩

@[simp] theorem setTrack_queues (t tr) (s : State) (h : QueuesBounded s.portA s.portB) : QueuesBounded (s.setTrack t tr).portA (s.setTrack t tr).portB := by unfold State.setTrack; (try dsimp only); (repeat' split) <;> first | with_reducible exact h | (simp (maxDischargeDepth := 20) [h]; done) | (simp_all (maxDischargeDepth := 20); done)

@[simp] theorem modTrack_queues (t f) (s : State) (h : QueuesBounded s.portA s.portB) : QueuesBounded (s.modTrack t f).portA (s.modTrack t f).portB := by unfold State.modTrack; (try dsimp only); (repeat' split) <;> first | with_reducible exact h | (simp (maxDischargeDepth := 20) [h]; done) | (simp_all (maxDischargeDepth := 20); done)

@[simp] theorem setLayer_queues (id l) (s : State) (h : QueuesBounded s.portA s.portB) : QueuesBounded (s.setLayer id l).portA (s.setLayer id l).portB := by unfold State.setLayer; (try dsimp only); (repeat' split) <;> first | with_reducible exact h | (simp (maxDischargeDepth := 20) [h]; done) | (simp_all (maxDischargeDepth := 20); done)

@[simp] theorem modLayer_queues (id f) (s : State) (h : QueuesBounded s.portA s.portB) : QueuesBounded (s.modLayer id f).portA (s.modLayer id f).portB := by unfold State.modLayer; (try dsimp only); (repeat' split) <;> first | with_reducible exact h | (simp (maxDischargeDepth := 20) [h]; done) | (simp_all (maxDischargeDepth := 20); done)

@[simp] theorem setWindow_queues (p w) (s : State) (h : QueuesBounded s.portA s.portB) : QueuesBounded (s.setWindow p w).portA (s.setWindow p w).portB := by unfold State.setWindow; (try dsimp only); (repeat' split) <;> first | with_reducible exact h | (simp (maxDischargeDepth := 20) [h]; done) | (simp_all (maxDischargeDepth := 20); done)

@[simp] theorem setSwitchPort_queues (p c) (s : State) (h : QueuesBounded s.portA s.portB) : QueuesBounded (s.setSwitchPort p c).portA (s.setSwitchPort p c).portB := by unfold State.setSwitchPort; (try dsimp only); (repeat' split) <;> first | with_reducible exact h | (simp (maxDischargeDepth := 20) [h]; done) | (simp_all (maxDischargeDepth := 20); done)

@[simp] theorem offerTo_queues (p e) (s : State) (h : QueuesBounded s.portA s.portB) : QueuesBounded (s.offerTo p e).portA (s.offerTo p e).portB := by unfold State.offerTo; exact setPort_queues _ _ _ h (by simp [h])

@[simp] theorem raise_queues (k t l d) (s : State) (h : QueuesBounded s.portA s.portB) : QueuesBounded (s.raise k t l d).portA (s.raise k t l d).portB := by unfold State.raise; (try dsimp only); (repeat' split) <;> first | with_reducible exact h | (simp (maxDischargeDepth := 20) [h]; done) | (simp_all (maxDischargeDepth := 20); done)

@[simp] theorem takeFault_queues (o) (s : State) (h : QueuesBounded s.portA s.portB) : QueuesBounded (s.takeFault o).portA (s.takeFault o).portB := by unfold State.takeFault; (try dsimp only); (repeat' split) <;> first | with_reducible exact h | (simp (maxDischargeDepth := 20) [h]; done) | (simp_all (maxDischargeDepth := 20); done)

theorem allocate_queues (id : Nat) (s t : State) (h : QueuesBounded s.portA s.portB) (e : s.allocate id = some t) : QueuesBounded t.portA t.portB := by
  unfold State.allocate at e
  split at e
  · injection e with e; subst e; simp (maxDischargeDepth := 20) [h]
  · simp at e

@[simp] theorem fillReply_queues (p st tag code results) (s : State) (h : QueuesBounded s.portA s.portB) : QueuesBounded (s.fillReply p st tag code results).portA (s.fillReply p st tag code results).portB := by unfold State.fillReply; exact setPort_queues _ _ _ h (by simp [h])

@[simp] theorem completeReply_queues (p st results) (s : State) (h : QueuesBounded s.portA s.portB) : QueuesBounded (s.completeReply p st results).portA (s.completeReply p st results).portB := by unfold State.completeReply; (try dsimp only); (repeat' split) <;> first | with_reducible exact h | (simp (maxDischargeDepth := 20) [h]; done) | (simp_all (maxDischargeDepth := 20); done)

@[simp] theorem clearPassFlags_queues (s : State) (h : QueuesBounded s.portA s.portB) : QueuesBounded (s.clearPassFlags).portA (s.clearPassFlags).portB := by unfold State.clearPassFlags; (try dsimp only); (repeat' split) <;> first | with_reducible exact h | (simp (maxDischargeDepth := 20) [h]; done) | (simp_all (maxDischargeDepth := 20); done)

@[simp] theorem setCycle_queues (c) (s : State) (h : QueuesBounded s.portA s.portB) : QueuesBounded (s.setCycle c).portA (s.setCycle c).portB := by unfold State.setCycle; (try dsimp only); (repeat' split) <;> first | with_reducible exact h | (simp (maxDischargeDepth := 20) [h]; done) | (simp_all (maxDischargeDepth := 20); done)

@[simp] theorem startCycle_queues (len d) (s : State) (h : QueuesBounded s.portA s.portB) : QueuesBounded (s.startCycle len d).portA (s.startCycle len d).portB := by unfold State.startCycle; (try dsimp only); (repeat' split) <;> first | with_reducible exact h | (simp (maxDischargeDepth := 20) [h]; done) | (simp_all (maxDischargeDepth := 20); done)

@[simp] theorem emptyCycle_queues (s : State) (h : QueuesBounded s.portA s.portB) : QueuesBounded (s.emptyCycle).portA (s.emptyCycle).portB := by unfold State.emptyCycle; (try dsimp only); (repeat' split) <;> first | with_reducible exact h | (simp (maxDischargeDepth := 20) [h]; done) | (simp_all (maxDischargeDepth := 20); done)

@[simp] theorem closeDefining_queues (n stop) (s : State) (h : QueuesBounded s.portA s.portB) : QueuesBounded (s.closeDefining n stop).portA (s.closeDefining n stop).portB := by unfold State.closeDefining; (try dsimp only); (repeat' split) <;> first | with_reducible exact h | (simp (maxDischargeDepth := 20) [h]; done) | (simp_all (maxDischargeDepth := 20); done)

@[simp] theorem countFrame_queues (s : State) (h : QueuesBounded s.portA s.portB) : QueuesBounded (s.countFrame).portA (s.countFrame).portB := by unfold State.countFrame; (try dsimp only); (repeat' split) <;> first | with_reducible exact h | (simp (maxDischargeDepth := 20) [h]; done) | (simp_all (maxDischargeDepth := 20); done)

@[simp] theorem announce_queues (r) (s : State) (h : QueuesBounded s.portA s.portB) : QueuesBounded (s.announce r).portA (s.announce r).portB := by unfold State.announce; (try dsimp only); (repeat' split) <;> first | with_reducible exact h | (simp (maxDischargeDepth := 20) [h]; done) | (simp_all (maxDischargeDepth := 20); done)

@[simp] theorem advance_queues (s : State) (h : QueuesBounded s.portA s.portB) : QueuesBounded (s.advance).1.portA (s.advance).1.portB := by unfold State.advance; (try dsimp only); (repeat' split) <;> first | with_reducible exact h | (simp (maxDischargeDepth := 20) [h]; done) | (simp_all (maxDischargeDepth := 20); done)

@[simp] theorem settleBuffers_queues (s : State) (h : QueuesBounded s.portA s.portB) : QueuesBounded (s.settleBuffers).portA (s.settleBuffers).portB := by unfold State.settleBuffers; (try dsimp only); (repeat' split) <;> first | with_reducible exact h | (simp (maxDischargeDepth := 20) [h]; done) | (simp_all (maxDischargeDepth := 20); done)

@[simp] theorem reaim_queues (id) (s : State) (h : QueuesBounded s.portA s.portB) : QueuesBounded (s.reaim id).portA (s.reaim id).portB := by unfold State.reaim; (try dsimp only); (repeat' split) <;> first | with_reducible exact h | (simp (maxDischargeDepth := 20) [h]; done) | (simp_all (maxDischargeDepth := 20); done)

@[simp] theorem reaimAllZero_queues (s : State) (h : QueuesBounded s.portA s.portB) : QueuesBounded (s.reaimAllZero).portA (s.reaimAllZero).portB := by unfold State.reaimAllZero; (try dsimp only); (repeat' split) <;> first | with_reducible exact h | (simp (maxDischargeDepth := 20) [h]; done) | (simp_all (maxDischargeDepth := 20); done)

@[simp] theorem setWait_queues (who w) (s : State) (h : QueuesBounded s.portA s.portB) : QueuesBounded (s.setWait who w).portA (s.setWait who w).portB := by unfold State.setWait; (try dsimp only); (repeat' split) <;> first | with_reducible exact h | (simp (maxDischargeDepth := 20) [h]; done) | (simp_all (maxDischargeDepth := 20); done)

@[simp] theorem loseWindow_queues (p cause) (s : State) (h : QueuesBounded s.portA s.portB) : QueuesBounded (s.loseWindow p cause).portA (s.loseWindow p cause).portB := by unfold State.loseWindow; (try dsimp only); (repeat' split) <;> first | with_reducible exact h | (simp (maxDischargeDepth := 20) [h]; done) | (simp_all (maxDischargeDepth := 20); done)

@[simp] theorem loseWindowOn_queues (id cause p) (s : State) (h : QueuesBounded s.portA s.portB) : QueuesBounded (s.loseWindowOn id cause p).portA (s.loseWindowOn id cause p).portB := by unfold State.loseWindowOn; (try dsimp only); (repeat' split) <;> first | with_reducible exact h | (simp (maxDischargeDepth := 20) [h]; done) | (simp_all (maxDischargeDepth := 20); done)

@[simp] theorem loseWindowsOn_queues (id cause) (s : State) (h : QueuesBounded s.portA s.portB) : QueuesBounded (s.loseWindowsOn id cause).portA (s.loseWindowsOn id cause).portB := by unfold State.loseWindowsOn; (try dsimp only); (repeat' split) <;> first | with_reducible exact h | (simp (maxDischargeDepth := 20) [h]; done) | (simp_all (maxDischargeDepth := 20); done)

@[simp] theorem dropRecord_queues (id) (s : State) (h : QueuesBounded s.portA s.portB) : QueuesBounded (s.dropRecord id).portA (s.dropRecord id).portB := by unfold State.dropRecord; (try dsimp only); (repeat' split) <;> first | with_reducible exact h | (simp (maxDischargeDepth := 20) [h]; done) | (simp_all (maxDischargeDepth := 20); done)



@[simp] theorem freeLayer_queues (cause id) (s : State) (h : QueuesBounded s.portA s.portB) : QueuesBounded (s.freeLayer cause id).portA (s.freeLayer cause id).portB := by unfold State.freeLayer; (try dsimp only); (repeat' split) <;> first | with_reducible exact h | (simp (maxDischargeDepth := 20) [h]; done) | (simp_all (maxDischargeDepth := 20); done)

@[simp] theorem cutWindow_queues (id n p) (s : State) (h : QueuesBounded s.portA s.portB) : QueuesBounded (s.cutWindow id n p).portA (s.cutWindow id n p).portB := by unfold State.cutWindow; (try dsimp only); (repeat' split) <;> first | with_reducible exact h | (simp (maxDischargeDepth := 20) [h]; done) | (simp_all (maxDischargeDepth := 20); done)

@[simp] theorem truncate_queues (id n) (s : State) (h : QueuesBounded s.portA s.portB) : QueuesBounded (s.truncate id n).portA (s.truncate id n).portB := by unfold State.truncate; (try dsimp only); (repeat' split) <;> first | with_reducible exact h | (simp (maxDischargeDepth := 20) [h]; done) | (simp_all (maxDischargeDepth := 20); done)

@[simp] theorem suspectBlock_queues (rd b) (s : State) (h : QueuesBounded s.portA s.portB) : QueuesBounded (s.suspectBlock rd b).portA (s.suspectBlock rd b).portB := by unfold State.suspectBlock; (try dsimp only); (repeat' split) <;> first | with_reducible exact h | (simp (maxDischargeDepth := 20) [h]; done) | (simp_all (maxDischargeDepth := 20); done)

@[simp] theorem readChecked_queues (who o chk rd) (s : State) (h : QueuesBounded s.portA s.portB) : QueuesBounded (s.readChecked who o chk rd).1.portA (s.readChecked who o chk rd).1.portB := by unfold State.readChecked; (try dsimp only); (repeat' split) <;> first | with_reducible exact h | (simp (maxDischargeDepth := 20) [h]; done) | (simp_all (maxDischargeDepth := 20); done)

@[simp] theorem readFrom_queues (who : Requester) (checks : List WordCheck) (l : List Nat) (rd : Reading) (s : State)
    (h : QueuesBounded s.portA s.portB) : QueuesBounded (State.readFrom who checks l rd s).1.portA (State.readFrom who checks l rd s).1.portB := by
  induction l generalizing rd s with
  | nil => exact h
  | cons i l ih => simp (maxDischargeDepth := 20) [State.readFrom, ih, h]

@[simp] theorem readRun_queues (who checks rd) (s : State) (h : QueuesBounded s.portA s.portB) : QueuesBounded (s.readRun who checks rd).1.portA (s.readRun who checks rd).1.portB := by unfold State.readRun; (try dsimp only); (repeat' split) <;> first | with_reducible exact h | (simp (maxDischargeDepth := 20) [h]; done) | (simp_all (maxDischargeDepth := 20); done)

@[simp] theorem windowDone_queues (p w) (s : State) (h : QueuesBounded s.portA s.portB) : QueuesBounded (s.windowDone p w).portA (s.windowDone p w).portB := by unfold State.windowDone; (try dsimp only); (repeat' split) <;> first | with_reducible exact h | (simp (maxDischargeDepth := 20) [h]; done) | (simp_all (maxDischargeDepth := 20); done)

@[simp] theorem settleRead_queues (p) (s : State) (h : QueuesBounded s.portA s.portB) : QueuesBounded (s.settleRead p).portA (s.settleRead p).portB := by unfold State.settleRead; (try dsimp only); (repeat' split) <;> first | with_reducible exact h | (simp (maxDischargeDepth := 20) [h]; done) | (simp_all (maxDischargeDepth := 20); done)

@[simp] theorem takeSample_queues (p) (s : State) (h : QueuesBounded s.portA s.portB) : QueuesBounded (s.takeSample p).portA (s.takeSample p).portB := by unfold State.takeSample; (try dsimp only); (repeat' split) <;> first | with_reducible exact h | (simp (maxDischargeDepth := 20) [h]; done) | (simp_all (maxDischargeDepth := 20); done)

@[simp] theorem reportDrop_queues (r c) (s : State) (h : QueuesBounded s.portA s.portB) : QueuesBounded (s.reportDrop r c).portA (s.reportDrop r c).portB := by unfold State.reportDrop; (try dsimp only); (repeat' split) <;> first | with_reducible exact h | (simp (maxDischargeDepth := 20) [h]; done) | (simp_all (maxDischargeDepth := 20); done)

@[simp] theorem removeCue_queues (id) (s : State) (h : QueuesBounded s.portA s.portB) : QueuesBounded (s.removeCue id).portA (s.removeCue id).portB := by unfold State.removeCue; (try dsimp only); (repeat' split) <;> first | with_reducible exact h | (simp (maxDischargeDepth := 20) [h]; done) | (simp_all (maxDischargeDepth := 20); done)

@[simp] theorem dropCue_queues (r c) (s : State) (h : QueuesBounded s.portA s.portB) : QueuesBounded (s.dropCue r c).portA (s.dropCue r c).portB := by unfold State.dropCue; (try dsimp only); (repeat' split) <;> first | with_reducible exact h | (simp (maxDischargeDepth := 20) [h]; done) | (simp_all (maxDischargeDepth := 20); done)

@[simp] theorem dropCues_queues (r l) (s : State) (h : QueuesBounded s.portA s.portB) : QueuesBounded (s.dropCues r l).portA (s.dropCues r l).portB := by
  induction l generalizing s with
  | nil => exact h
  | cons x l ih => simp (maxDischargeDepth := 20) [State.dropCues, ih, h]

@[simp] theorem dropAllCues_queues (r) (s : State) (h : QueuesBounded s.portA s.portB) : QueuesBounded (s.dropAllCues r).portA (s.dropAllCues r).portB := by unfold State.dropAllCues; (try dsimp only); (repeat' split) <;> first | with_reducible exact h | (simp (maxDischargeDepth := 20) [h]; done) | (simp_all (maxDischargeDepth := 20); done)

@[simp] theorem dropTrackCues_queues (t) (s : State) (h : QueuesBounded s.portA s.portB) : QueuesBounded (s.dropTrackCues t).portA (s.dropTrackCues t).portB := by unfold State.dropTrackCues; (try dsimp only); (repeat' split) <;> first | with_reducible exact h | (simp (maxDischargeDepth := 20) [h]; done) | (simp_all (maxDischargeDepth := 20); done)

@[simp] theorem makeCue_queues (q a t u pr ps po) (s : State) (h : QueuesBounded s.portA s.portB) : QueuesBounded (s.makeCue q a t u pr ps po).1.portA (s.makeCue q a t u pr ps po).1.portB := by unfold State.makeCue; (try dsimp only); (repeat' split) <;> first | with_reducible exact h | (simp (maxDischargeDepth := 20) [h]; done) | (simp_all (maxDischargeDepth := 20); done)

@[simp] theorem joinCue_queues (id p) (s : State) (h : QueuesBounded s.portA s.portB) : QueuesBounded (s.joinCue id p).portA (s.joinCue id p).portB := by unfold State.joinCue; (try dsimp only); (repeat' split) <;> first | with_reducible exact h | (simp (maxDischargeDepth := 20) [h]; done) | (simp_all (maxDischargeDepth := 20); done)

@[simp] theorem placeCue_queues (q a t u pr ps po) (s : State) (h : QueuesBounded s.portA s.portB) : QueuesBounded (s.placeCue q a t u pr ps po).1.portA (s.placeCue q a t u pr ps po).1.portB := by unfold State.placeCue; (try dsimp only); (repeat' split) <;> first | with_reducible exact h | (simp (maxDischargeDepth := 20) [h]; done) | (simp_all (maxDischargeDepth := 20); done)

@[simp] theorem supersedeSlot_queues (t f) (s : State) (h : QueuesBounded s.portA s.portB) : QueuesBounded (s.supersedeSlot t f).portA (s.supersedeSlot t f).portB := by unfold State.supersedeSlot; (try dsimp only); (repeat' split) <;> first | with_reducible exact h | (simp (maxDischargeDepth := 20) [h]; done) | (simp_all (maxDischargeDepth := 20); done)

@[simp] theorem raiseTrack_queues (t) (s : State) (h : QueuesBounded s.portA s.portB) : QueuesBounded (s.raiseTrack t).portA (s.raiseTrack t).portB := by unfold State.raiseTrack; (try dsimp only); (repeat' split) <;> first | with_reducible exact h | (simp (maxDischargeDepth := 20) [h]; done) | (simp_all (maxDischargeDepth := 20); done)

@[simp] theorem noteTrack_queues (t old) (s : State) (h : QueuesBounded s.portA s.portB) : QueuesBounded (s.noteTrack t old).portA (s.noteTrack t old).portB := by unfold State.noteTrack; (try dsimp only); (repeat' split) <;> first | with_reducible exact h | (simp (maxDischargeDepth := 20) [h]; done) | (simp_all (maxDischargeDepth := 20); done)

@[simp] theorem settleTrack_queues (t) (s : State) (h : QueuesBounded s.portA s.portB) : QueuesBounded (s.settleTrack t).portA (s.settleTrack t).portB := by unfold State.settleTrack; (try dsimp only); (repeat' split) <;> first | with_reducible exact h | (simp (maxDischargeDepth := 20) [h]; done) | (simp_all (maxDischargeDepth := 20); done)

@[simp] theorem unfoldMember_queues (id) (s : State) (h : QueuesBounded s.portA s.portB) : QueuesBounded (s.unfoldMember id).portA (s.unfoldMember id).portB := by unfold State.unfoldMember; (try dsimp only); (repeat' split) <;> first | with_reducible exact h | (simp (maxDischargeDepth := 20) [h]; done) | (simp_all (maxDischargeDepth := 20); done)

theorem foldl_unfold_queues (l : List Nat) (s : State) (h : QueuesBounded s.portA s.portB) :
    QueuesBounded (l.foldl (fun s id => State.unfoldMember id s) s).portA (l.foldl (fun s id => State.unfoldMember id s) s).portB := by
  induction l generalizing s with
  | nil => exact h
  | cons x l ih => simp (maxDischargeDepth := 20) [ih, h]

@[simp] theorem abandonFold_queues (cause keep) (s : State) (h : QueuesBounded s.portA s.portB) : QueuesBounded (s.abandonFold cause keep).portA (s.abandonFold cause keep).portB := by unfold State.abandonFold; (try dsimp only); (repeat' split) <;> simp (maxDischargeDepth := 20) [foldl_unfold_queues, h]

@[simp] theorem beginFoldBurst_queues (s : State) (h : QueuesBounded s.portA s.portB) : QueuesBounded (s.beginFoldBurst).portA (s.beginFoldBurst).portB := by
  unfold State.beginFoldBurst
  split
  · exact h
  · next f hf =>
    dsimp only
    split
    · simp (maxDischargeDepth := 20) [h]
    · next u hu =>
      have hu' : QueuesBounded u.portA u.portB := by
        split at hu
        · exact allocate_queues _ _ _ h hu
        · injection hu with hu; rw [← hu]; exact h
      (repeat' split) <;> simp (maxDischargeDepth := 20) [hu'] 

@[simp] theorem settleFold_queues (s : State) (h : QueuesBounded s.portA s.portB) : QueuesBounded (s.settleFold).portA (s.settleFold).portB := by unfold State.settleFold; (try dsimp only); (repeat' split) <;> first | with_reducible exact h | (simp (maxDischargeDepth := 20) [h]; done) | (simp_all (maxDischargeDepth := 20); done)

@[simp] theorem startFold_queues (t i j rid rest) (s : State) (h : QueuesBounded s.portA s.portB) : QueuesBounded (s.startFold t i j rid rest).portA (s.startFold t i j rid rest).portB := by unfold State.startFold; (try dsimp only); (repeat' split) <;> first | with_reducible exact h | (simp (maxDischargeDepth := 20) [h]; done) | (simp_all (maxDischargeDepth := 20); done)

theorem takeRoom_queues (t : TrackId) (s u : State) (id : Nat) (h : QueuesBounded s.portA s.portB) (e : s.takeRoom t = .ok (u, id)) : QueuesBounded u.portA u.portB := by
  unfold State.takeRoom at e
  split at e
  · simp at e
  · dsimp only at e
    split at e
    · simp at e; rw [← e.1]; exact h
    · split at e
      · split at e
        · split at e
          · simp at e; rw [← e.1]; simp (maxDischargeDepth := 20) [h]
          · simp at e
        · simp at e
      · simp at e

@[simp] theorem completeFold_queues (s : State) (h : QueuesBounded s.portA s.portB) : QueuesBounded (s.completeFold).portA (s.completeFold).portB := by unfold State.completeFold; (try dsimp only); (repeat' split) <;> first | with_reducible exact h | (simp (maxDischargeDepth := 20) [h]; done) | (simp_all (maxDischargeDepth := 20); done)

@[simp] theorem endCapture_queues (id n) (s : State) (h : QueuesBounded s.portA s.portB) : QueuesBounded (s.endCapture id n).portA (s.endCapture id n).portB := by unfold State.endCapture; (try dsimp only); (repeat' split) <;> first | with_reducible exact h | (simp (maxDischargeDepth := 20) [h]; done) | (simp_all (maxDischargeDepth := 20); done)

@[simp] theorem cutReads_queues (id n) (s : State) (h : QueuesBounded s.portA s.portB) : QueuesBounded (s.cutReads id n).portA (s.cutReads id n).portB := by unfold State.cutReads; (try dsimp only); (repeat' split) <;> first | with_reducible exact h | (simp (maxDischargeDepth := 20) [h]; done) | (simp_all (maxDischargeDepth := 20); done)

@[simp] theorem endAt_queues (id n) (s : State) (h : QueuesBounded s.portA s.portB) : QueuesBounded (s.endAt id n).portA (s.endAt id n).portB := by unfold State.endAt; (try dsimp only); (repeat' split) <;> first | with_reducible exact h | (simp (maxDischargeDepth := 20) [h]; done) | (simp_all (maxDischargeDepth := 20); done)

@[simp] theorem raiseClosed_queues (t id) (s : State) (h : QueuesBounded s.portA s.portB) : QueuesBounded (s.raiseClosed t id).portA (s.raiseClosed t id).portB := by unfold State.raiseClosed; (try dsimp only); (repeat' split) <;> first | with_reducible exact h | (simp (maxDischargeDepth := 20) [h]; done) | (simp_all (maxDischargeDepth := 20); done)

@[simp] theorem markFresh_queues (b id) (s : State) (h : QueuesBounded s.portA s.portB) : QueuesBounded (s.markFresh b id).portA (s.markFresh b id).portB := by unfold State.markFresh; (try dsimp only); (repeat' split) <;> first | with_reducible exact h | (simp (maxDischargeDepth := 20) [h]; done) | (simp_all (maxDischargeDepth := 20); done)

@[simp] theorem discardOpen_queues (t id) (s : State) (h : QueuesBounded s.portA s.portB) : QueuesBounded (s.discardOpen t id).portA (s.discardOpen t id).portB := by unfold State.discardOpen; (try dsimp only); (repeat' split) <;> first | with_reducible exact h | (simp (maxDischargeDepth := 20) [h]; done) | (simp_all (maxDischargeDepth := 20); done)

@[simp] theorem closeFirst_queues (t id n fr stop) (s : State) (h : QueuesBounded s.portA s.portB) : QueuesBounded (s.closeFirst t id n fr stop).portA (s.closeFirst t id n fr stop).portB := by unfold State.closeFirst; (try dsimp only); (repeat' split) <;> first | with_reducible exact h | (simp (maxDischargeDepth := 20) [h]; done) | (simp_all (maxDischargeDepth := 20); done)

@[simp] theorem closeLayered_queues (t id n fr) (s : State) (h : QueuesBounded s.portA s.portB) : QueuesBounded (s.closeLayered t id n fr).portA (s.closeLayered t id n fr).portB := by unfold State.closeLayered; (try dsimp only); (repeat' split) <;> first | with_reducible exact h | (simp (maxDischargeDepth := 20) [h]; done) | (simp_all (maxDischargeDepth := 20); done)

@[simp] theorem closeRolled_queues (t id n l) (s : State) (h : QueuesBounded s.portA s.portB) : QueuesBounded (s.closeRolled t id n l).portA (s.closeRolled t id n l).portB := by unfold State.closeRolled; (try dsimp only); (repeat' split) <;> first | with_reducible exact h | (simp (maxDischargeDepth := 20) [h]; done) | (simp_all (maxDischargeDepth := 20); done)

@[simp] theorem closeAtRoll_queues (t r n b) (s : State) (h : QueuesBounded s.portA s.portB) : QueuesBounded (s.closeAtRoll t r n b).portA (s.closeAtRoll t r n b).portB := by unfold State.closeAtRoll; (try dsimp only); (repeat' split) <;> first | with_reducible exact h | (simp (maxDischargeDepth := 20) [h]; done) | (simp_all (maxDischargeDepth := 20); done)

@[simp] theorem closeOpen_queues (t n b fr stop) (s : State) (h : QueuesBounded s.portA s.portB) : QueuesBounded (s.closeOpen t n b fr stop).portA (s.closeOpen t n b fr stop).portB := by unfold State.closeOpen; (try dsimp only); (repeat' split) <;> first | with_reducible exact h | (simp (maxDischargeDepth := 20) [h]; done) | (simp_all (maxDischargeDepth := 20); done)

@[simp] theorem closeAtCut_queues (t k stop) (s : State) (h : QueuesBounded s.portA s.portB) : QueuesBounded (s.closeAtCut t k stop).portA (s.closeAtCut t k stop).portB := by unfold State.closeAtCut; (try dsimp only); (repeat' split) <;> first | with_reducible exact h | (simp (maxDischargeDepth := 20) [h]; done) | (simp_all (maxDischargeDepth := 20); done)

theorem actClose_ok_queues (t k) (s u : State) (h : QueuesBounded s.portA s.portB) (e : s.actClose t k = .ok u) : QueuesBounded u.portA u.portB := by
  unfold State.actClose at e; (try dsimp only at e); (repeat' split at e) <;> simp at e <;> (subst e; simp (maxDischargeDepth := 20) [h])

@[simp] theorem actMute_queues (t n) (s : State) (h : QueuesBounded s.portA s.portB) : QueuesBounded (s.actMute t n).portA (s.actMute t n).portB := by unfold State.actMute; (try dsimp only); (repeat' split) <;> first | with_reducible exact h | (simp (maxDischargeDepth := 20) [h]; done) | (simp_all (maxDischargeDepth := 20); done)

@[simp] theorem toRedo_queues (t id) (s : State) (h : QueuesBounded s.portA s.portB) : QueuesBounded (s.toRedo t id).portA (s.toRedo t id).portB := by unfold State.toRedo; (try dsimp only); (repeat' split) <;> first | with_reducible exact h | (simp (maxDischargeDepth := 20) [h]; done) | (simp_all (maxDischargeDepth := 20); done)

@[simp] theorem freeAll_queues (cause l) (s : State) (h : QueuesBounded s.portA s.portB) : QueuesBounded (s.freeAll cause l).portA (s.freeAll cause l).portB := by
  induction l generalizing s with
  | nil => exact h
  | cons x l ih => simp (maxDischargeDepth := 20) [State.freeAll, ih, h]

theorem actUndo_ok_queues (t) (s u : State) (h : QueuesBounded s.portA s.portB) (e : s.actUndo t = .ok u) : QueuesBounded u.portA u.portB := by
  unfold State.actUndo at e
  dsimp only at e
  (repeat' split at e) <;> simp at e <;> (try (subst e; simp (maxDischargeDepth := 20) [h]))
  all_goals (repeat' split) <;> simp (maxDischargeDepth := 20) [h]

theorem actRedo_ok_queues (t) (s u : State) (h : QueuesBounded s.portA s.portB) (e : s.actRedo t = .ok u) : QueuesBounded u.portA u.portB := by
  unfold State.actRedo at e; (try dsimp only at e); (repeat' split at e) <;> simp at e <;> (subst e; simp (maxDischargeDepth := 20) [h])

@[simp] theorem emptyTrack_queues (t) (s : State) (h : QueuesBounded s.portA s.portB) : QueuesBounded (s.emptyTrack t).portA (s.emptyTrack t).portB := by unfold State.emptyTrack; (try dsimp only); (repeat' split) <;> first | with_reducible exact h | (simp (maxDischargeDepth := 20) [h]; done) | (simp_all (maxDischargeDepth := 20); done)

@[simp] theorem forgetTrack_queues (t) (s : State) (h : QueuesBounded s.portA s.portB) : QueuesBounded (s.forgetTrack t).portA (s.forgetTrack t).portB := by unfold State.forgetTrack; (try dsimp only); (repeat' split) <;> first | with_reducible exact h | (simp (maxDischargeDepth := 20) [h]; done) | (simp_all (maxDischargeDepth := 20); done)

@[simp] theorem clearTrack_queues (t) (s : State) (h : QueuesBounded s.portA s.portB) : QueuesBounded (s.clearTrack t).portA (s.clearTrack t).portB := by unfold State.clearTrack; (try dsimp only); (repeat' split) <;> first | with_reducible exact h | (simp (maxDischargeDepth := 20) [h]; done) | (simp_all (maxDischargeDepth := 20); done)

@[simp] theorem actClearTrack_queues (t) (s : State) (h : QueuesBounded s.portA s.portB) : QueuesBounded (s.actClearTrack t).portA (s.actClearTrack t).portB := by unfold State.actClearTrack; (try dsimp only); (repeat' split) <;> first | with_reducible exact h | (simp (maxDischargeDepth := 20) [h]; done) | (simp_all (maxDischargeDepth := 20); done)

@[simp] theorem writeRing_queues (f) (s : State) (h : QueuesBounded s.portA s.portB) : QueuesBounded (s.writeRing f).portA (s.writeRing f).portB := by unfold State.writeRing; (try dsimp only); (repeat' split) <;> first | with_reducible exact h | (simp (maxDischargeDepth := 20) [h]; done) | (simp_all (maxDischargeDepth := 20); done)

@[simp] theorem setRecord_queues (i r) (s : State) (h : QueuesBounded s.portA s.portB) : QueuesBounded (s.setRecord i r).portA (s.setRecord i r).portB := by unfold State.setRecord; (try dsimp only); (repeat' split) <;> first | with_reducible exact h | (simp (maxDischargeDepth := 20) [h]; done) | (simp_all (maxDischargeDepth := 20); done)

@[simp] theorem refillAll_queues (s : State) (h : QueuesBounded s.portA s.portB) : QueuesBounded (s.refillAll).portA (s.refillAll).portB := by unfold State.refillAll; (try dsimp only); (repeat' split) <;> first | with_reducible exact h | (simp (maxDischargeDepth := 20) [h]; done) | (simp_all (maxDischargeDepth := 20); done)

@[simp] theorem overrun_queues (pl id r) (s : State) (h : QueuesBounded s.portA s.portB) : QueuesBounded (s.overrun pl id r).portA (s.overrun pl id r).portB := by unfold State.overrun; (try dsimp only); (repeat' split) <;> first | with_reducible exact h | (simp (maxDischargeDepth := 20) [h]; done) | (simp_all (maxDischargeDepth := 20); done)

@[simp] theorem cutClosed_queues (id n) (s : State) (h : QueuesBounded s.portA s.portB) : QueuesBounded (s.cutClosed id n).portA (s.cutClosed id n).portB := by unfold State.cutClosed; (try dsimp only); (repeat' split) <;> first | with_reducible exact h | (simp (maxDischargeDepth := 20) [h]; done) | (simp_all (maxDischargeDepth := 20); done)

@[simp] theorem exhaust_queues (id n) (s : State) (h : QueuesBounded s.portA s.portB) : QueuesBounded (s.exhaust id n).portA (s.exhaust id n).portB := by unfold State.exhaust; (try dsimp only); (repeat' split) <;> first | with_reducible exact h | (simp (maxDischargeDepth := 20) [h]; done) | (simp_all (maxDischargeDepth := 20); done)

theorem allocateEach_queues (id : Nat) (l : List Nat) (s : State) (h : QueuesBounded s.portA s.portB) : QueuesBounded (State.allocateEach id l s).1.portA (State.allocateEach id l s).1.portB := by
  induction l generalizing s with
  | nil => exact h
  | cons o l ih =>
    unfold State.allocateEach
    split
    · next u hu => exact ih _ (allocate_queues _ _ _ h hu)
    · exact h

@[simp] theorem giveUp_queues (pl id r) (s : State) (h : QueuesBounded s.portA s.portB) : QueuesBounded (s.giveUp pl id r).portA (s.giveUp pl id r).portB := by
  unfold State.giveUp
  have h' := allocateEach_queues id (s.blocksNeeded id r) s h
  split <;> next hu => rw [hu] at h'; dsimp only at h'; simp (maxDischargeDepth := 20) [h']

@[simp] theorem handOver_queues (i) (s : State) (h : QueuesBounded s.portA s.portB) : QueuesBounded (s.handOver i).portA (s.handOver i).portB := by
  unfold State.handOver
  split
  · exact h
  · split
    · simp (maxDischargeDepth := 20) [h]
    · next u hu =>
      have hu' : QueuesBounded u.portA u.portB := by
        split at hu
        · exact allocate_queues _ _ _ h hu
        · injection hu with hu; rw [← hu]; exact h
      dsimp only
      (repeat' split) <;> simp (maxDischargeDepth := 20) [hu'] 

@[simp] theorem settleCapture_queues (n : Nat) (s : State) (h : QueuesBounded s.portA s.portB) : QueuesBounded (State.settleCapture n s).portA (State.settleCapture n s).portB := by
  induction n generalizing s with
  | zero => unfold State.settleCapture; simp (maxDischargeDepth := 20) [h]
  | succ n ih =>
    unfold State.settleCapture
    dsimp only
    (repeat' split) <;> simp (maxDischargeDepth := 20) [ih, h]

@[simp] theorem overtake_queues (pl i) (s : State) (h : QueuesBounded s.portA s.portB) : QueuesBounded (s.overtake pl i).portA (s.overtake pl i).portB := by unfold State.overtake; (try dsimp only); (repeat' split) <;> first | with_reducible exact h | (simp (maxDischargeDepth := 20) [h]; done) | (simp_all (maxDischargeDepth := 20); done)

@[simp] theorem stealRecord_queues (i) (s : State) (h : QueuesBounded s.portA s.portB) : QueuesBounded (s.stealRecord i).portA (s.stealRecord i).portB := by unfold State.stealRecord; (try dsimp only); (repeat' split) <;> first | with_reducible exact h | (simp (maxDischargeDepth := 20) [h]; done) | (simp_all (maxDischargeDepth := 20); done)

@[simp] theorem placeRecord_queues (r) (s : State) (h : QueuesBounded s.portA s.portB) : QueuesBounded (s.placeRecord r).portA (s.placeRecord r).portB := by unfold State.placeRecord; (try dsimp only); (repeat' split) <;> first | with_reducible exact h | (simp (maxDischargeDepth := 20) [h]; done) | (simp_all (maxDischargeDepth := 20); done)

@[simp] theorem openLayer_queues (t id l st ph dest) (s : State) (h : QueuesBounded s.portA s.portB) : QueuesBounded (s.openLayer t id l st ph dest).portA (s.openLayer t id l st ph dest).portB := by unfold State.openLayer; (try dsimp only); (repeat' split) <;> first | with_reducible exact h | (simp (maxDischargeDepth := 20) [h]; done) | (simp_all (maxDischargeDepth := 20); done)

@[simp] theorem freeRedo_queues (t) (s : State) (h : QueuesBounded s.portA s.portB) : QueuesBounded (s.freeRedo t).portA (s.freeRedo t).portB := by unfold State.freeRedo; (try dsimp only); (repeat' split) <;> first | with_reducible exact h | (simp (maxDischargeDepth := 20) [h]; done) | (simp_all (maxDischargeDepth := 20); done)

@[simp] theorem startDefining_queues (s : State) (h : QueuesBounded s.portA s.portB) : QueuesBounded (s.startDefining).portA (s.startDefining).portB := by unfold State.startDefining; (try dsimp only); (repeat' split) <;> first | with_reducible exact h | (simp (maxDischargeDepth := 20) [h]; done) | (simp_all (maxDischargeDepth := 20); done)

theorem actRecord_ok_queues (t k) (s u : State) (h : QueuesBounded s.portA s.portB) (e : s.actRecord t k = .ok u) : QueuesBounded u.portA u.portB := by
  unfold State.actRecord at e
  split at e
  · simp at e
  · split at e
    · simp at e
    · next v id hv =>
      injection e with e; subst e
      simp (maxDischargeDepth := 20) [takeRoom_queues _ _ _ _ h hv]

theorem actLayer_ok_queues (t cv k) (s u : State) (h : QueuesBounded s.portA s.portB) (e : s.actLayer t cv k = .ok u) : QueuesBounded u.portA u.portB := by
  unfold State.actLayer at e
  split at e
  · split at e
    · simp at e
    · next v id hv =>
      injection e with e; subst e
      simp (maxDischargeDepth := 20) [takeRoom_queues _ _ _ _ h hv]
  · simp at e

@[simp] theorem decayAll_queues (n l) (s : State) (h : QueuesBounded s.portA s.portB) : QueuesBounded (s.decayAll n l).portA (s.decayAll n l).portB := by
  induction l generalizing s with
  | nil => exact h
  | cons x l ih => simp (maxDischargeDepth := 20) [State.decayAll, ih, h]

@[simp] theorem decayFold_queues (t n) (s : State) (h : QueuesBounded s.portA s.portB) : QueuesBounded (s.decayFold t n).portA (s.decayFold t n).portB := by unfold State.decayFold; (try dsimp only); (repeat' split) <;> first | with_reducible exact h | (simp (maxDischargeDepth := 20) [h]; done) | (simp_all (maxDischargeDepth := 20); done)

@[simp] theorem retire_queues (t id) (s : State) (h : QueuesBounded s.portA s.portB) : QueuesBounded (s.retire t id).portA (s.retire t id).portB := by unfold State.retire; (try dsimp only); (repeat' split) <;> first | with_reducible exact h | (simp (maxDischargeDepth := 20) [h]; done) | (simp_all (maxDischargeDepth := 20); done)

@[simp] theorem retireAll_queues (t l) (s : State) (h : QueuesBounded s.portA s.portB) : QueuesBounded (s.retireAll t l).portA (s.retireAll t l).portB := by
  induction l generalizing s with
  | nil => exact h
  | cons x l ih => simp (maxDischargeDepth := 20) [State.retireAll, ih, h]

@[simp] theorem decayTrack_queues (t) (s : State) (h : QueuesBounded s.portA s.portB) : QueuesBounded (s.decayTrack t).portA (s.decayTrack t).portB := by unfold State.decayTrack; (try dsimp only); (repeat' split) <;> first | with_reducible exact h | (simp (maxDischargeDepth := 20) [h]; done) | (simp_all (maxDischargeDepth := 20); done)

@[simp] theorem roll_queues (t) (s : State) (h : QueuesBounded s.portA s.portB) : QueuesBounded (s.roll t).portA (s.roll t).portB := by
  unfold State.roll
  dsimp only
  split
  · split
    · split
      · exact h
      · split
        · next v id' hv =>
          have hu : QueuesBounded v.portA v.portB := by
            refine takeRoom_queues _ _ _ _ ?_ hv
            simp (maxDischargeDepth := 20) [h]
          simp (maxDischargeDepth := 20) [hu]
        · simp (maxDischargeDepth := 20) [h]
    · exact h
  · exact h

@[simp] theorem wrapTrack_queues (t) (s : State) (h : QueuesBounded s.portA s.portB) : QueuesBounded (s.wrapTrack t).portA (s.wrapTrack t).portB := by unfold State.wrapTrack; (try dsimp only); (repeat' split) <;> first | with_reducible exact h | (simp (maxDischargeDepth := 20) [h]; done) | (simp_all (maxDischargeDepth := 20); done)

@[simp] theorem liveOne_queues (fr i) (s : State) (h : QueuesBounded s.portA s.portB) : QueuesBounded (s.liveOne fr i).portA (s.liveOne fr i).portB := by unfold State.liveOne; (try dsimp only); (repeat' split) <;> first | with_reducible exact h | (simp (maxDischargeDepth := 20) [h]; done) | (simp_all (maxDischargeDepth := 20); done)

@[simp] theorem liveAll_queues (fr l) (s : State) (h : QueuesBounded s.portA s.portB) : QueuesBounded (s.liveAll fr l).portA (s.liveAll fr l).portB := by
  induction l generalizing s with
  | nil => exact h
  | cons x l ih => simp (maxDischargeDepth := 20) [State.liveAll, ih, h]

@[simp] theorem overtakeAll_queues (pl l) (s : State) (h : QueuesBounded s.portA s.portB) : QueuesBounded (s.overtakeAll pl l).portA (s.overtakeAll pl l).portB := by
  induction l generalizing s with
  | nil => exact h
  | cons x l ih => simp (maxDischargeDepth := 20) [State.overtakeAll, ih, h]

@[simp] theorem captureArrival_queues (pl fr ord) (s : State) (h : QueuesBounded s.portA s.portB) : QueuesBounded (s.captureArrival pl fr ord).portA (s.captureArrival pl fr ord).portB := by unfold State.captureArrival; (try dsimp only); (repeat' split) <;> first | with_reducible exact h | (simp (maxDischargeDepth := 20) [h]; done) | (simp_all (maxDischargeDepth := 20); done)

@[simp] theorem closeLimits_queues (l) (s : State) (h : QueuesBounded s.portA s.portB) : QueuesBounded (s.closeLimits l).portA (s.closeLimits l).portB := by
  induction l generalizing s with
  | nil => exact h
  | cons x l ih => unfold State.closeLimits; exact ih _ (by split <;> simp (maxDischargeDepth := 20) [h])

@[simp] theorem closeTracks_queues (k stop l) (s : State) (h : QueuesBounded s.portA s.portB) : QueuesBounded (s.closeTracks k stop l).portA (s.closeTracks k stop l).portB := by
  induction l generalizing s with
  | nil => exact h
  | cons x l ih => simp (maxDischargeDepth := 20) [State.closeTracks, ih, h]

@[simp] theorem pauseCycle_queues (s : State) (h : QueuesBounded s.portA s.portB) : QueuesBounded (s.pauseCycle).portA (s.pauseCycle).portB := by unfold State.pauseCycle; (try dsimp only); (repeat' split) <;> first | with_reducible exact h | (simp (maxDischargeDepth := 20) [h]; done) | (simp_all (maxDischargeDepth := 20); done)

@[simp] theorem actStopAll_queues (k) (s : State) (h : QueuesBounded s.portA s.portB) : QueuesBounded (s.actStopAll k).portA (s.actStopAll k).portB := by unfold State.actStopAll; (try dsimp only); (repeat' split) <;> first | with_reducible exact h | (simp (maxDischargeDepth := 20) [h]; done) | (simp_all (maxDischargeDepth := 20); done)

theorem actPlayAll_ok_queues (s u : State) (h : QueuesBounded s.portA s.portB) (e : s.actPlayAll = .ok u) : QueuesBounded u.portA u.portB := by
  unfold State.actPlayAll at e; (try dsimp only at e); (repeat' split at e) <;> simp at e <;> (subst e; simp (maxDischargeDepth := 20) [h])

theorem act_ok_queues (x t k) (s u : State) (h : QueuesBounded s.portA s.portB) (e : s.act x t k = .ok u) : QueuesBounded u.portA u.portB := by
  unfold State.act at e
  split at e
  · exact actRecord_ok_queues _ _ _ _ h e
  · exact actLayer_ok_queues _ _ _ _ _ h e
  · exact actLayer_ok_queues _ _ _ _ _ h e
  · exact actClose_ok_queues _ _ _ _ h e
  · injection e with e; subst e; simp (maxDischargeDepth := 20) [h]
  · injection e with e; subst e; simp (maxDischargeDepth := 20) [h]
  · exact actUndo_ok_queues _ _ _ h e
  · exact actRedo_ok_queues _ _ _ h e
  · injection e with e; subst e; simp (maxDischargeDepth := 20) [h]
  · exact actPlayAll_ok_queues _ _ h e
  · simp at e

@[simp] theorem actAtOnce_queues (x t e) (s : State) (h : QueuesBounded s.portA s.portB) : QueuesBounded (s.actAtOnce x t e).1.portA (s.actAtOnce x t e).1.portB := by
  unfold State.actAtOnce
  dsimp only
  split
  · exact h
  · next u hu =>
    have hu' : QueuesBounded u.portA u.portB := by
      refine act_ok_queues _ _ _ _ _ ?_ hu
      split <;> simp (maxDischargeDepth := 20) [h]
    (repeat' split) <;> simp_all (maxDischargeDepth := 20)

@[simp] theorem quantised_queues (q x t u pr) (s : State) (h : QueuesBounded s.portA s.portB) : QueuesBounded (s.quantised q x t u pr).1.portA (s.quantised q x t u pr).1.portB := by
  unfold State.quantised
  split <;> simp (maxDischargeDepth := 20) [h]

@[simp] theorem takeCue_queues (r) (s : State) (h : QueuesBounded s.portA s.portB) : QueuesBounded (s.takeCue r).portA (s.takeCue r).portB := by
  unfold State.takeCue
  split
  · exact h
  · split
    · dsimp only
      split
      · next u hu =>
        have hu' : QueuesBounded u.portA u.portB := by
          refine act_ok_queues _ _ _ _ _ ?_ hu
          exact h
        simp (maxDischargeDepth := 20) [hu']
      · simp (maxDischargeDepth := 20) [h]
    · exact h

@[simp] theorem takeCues_queues (r : Reached) (n : Nat) (s : State) (h : QueuesBounded s.portA s.portB) : QueuesBounded (State.takeCues r n s).portA (State.takeCues r n s).portB := by
  induction n generalizing s with
  | zero => exact h
  | succ n ih => simp (maxDischargeDepth := 20) [State.takeCues, ih, h]

@[simp] theorem wrapAll_queues (l) (s : State) (h : QueuesBounded s.portA s.portB) : QueuesBounded (s.wrapAll l).portA (s.wrapAll l).portB := by
  induction l generalizing s with
  | nil => exact h
  | cons x l ih => simp (maxDischargeDepth := 20) [State.wrapAll, ih, h]

@[simp] theorem boundaryWork_queues (r : Reached) (l : List (Option TrackId)) (w : List TrackId) (s : State)
    (h : QueuesBounded s.portA s.portB) : QueuesBounded (State.boundaryWork r l w s).portA (State.boundaryWork r l w s).portB := by
  induction l generalizing s w with
  | nil => simp (maxDischargeDepth := 20) [State.boundaryWork, h]
  | cons x l ih =>
    cases x with
    | none => simp (maxDischargeDepth := 20) [State.boundaryWork, ih, h]
    | some t => unfold State.boundaryWork; split <;> simp (maxDischargeDepth := 20) [ih, h]

@[simp] theorem actTap_queues (stamp) (s : State) (h : QueuesBounded s.portA s.portB) : QueuesBounded (s.actTap stamp).1.portA (s.actTap stamp).1.portB := by unfold State.actTap; (try dsimp only); (repeat' split) <;> first | with_reducible exact h | (simp (maxDischargeDepth := 20) [h]; done) | (simp_all (maxDischargeDepth := 20); done)

@[simp] theorem noteRecent_queues (q t x pr an) (s : State) (h : QueuesBounded s.portA s.portB) : QueuesBounded (s.noteRecent q t x pr an).portA (s.noteRecent q t x pr an).portB := by unfold State.noteRecent; (try dsimp only); (repeat' split) <;> first | with_reducible exact h | (simp (maxDischargeDepth := 20) [h]; done) | (simp_all (maxDischargeDepth := 20); done)

@[simp] theorem resolved_queues (q t x u pr) (s : State) (h : QueuesBounded s.portA s.portB) : QueuesBounded (s.resolved q t x u pr).1.portA (s.resolved q t x u pr).1.portB := by
  unfold State.resolved
  split
  · exact h
  · dsimp only
    (repeat' split) <;> simp (maxDischargeDepth := 20) [h]

@[simp] theorem toggle_queues (q t x u pr) (s : State) (h : QueuesBounded s.portA s.portB) : QueuesBounded (s.toggle q t x u pr).1.portA (s.toggle q t x u pr).1.portB := by unfold State.toggle; (try dsimp only); (repeat' split) <;> first | with_reducible exact h | (simp (maxDischargeDepth := 20) [h]; done) | (simp_all (maxDischargeDepth := 20); done)

@[simp] theorem handCue_queues (q x t u pr) (s : State) (h : QueuesBounded s.portA s.portB) : QueuesBounded (s.handCue q x t u pr).1.portA (s.handCue q x t u pr).1.portB := by unfold State.handCue; (try dsimp only); (repeat' split) <;> first | with_reducible exact h | (simp (maxDischargeDepth := 20) [h]; done) | (simp_all (maxDischargeDepth := 20); done)

@[simp] theorem selectTo_queues (q t) (s : State) (h : QueuesBounded s.portA s.portB) : QueuesBounded (s.selectTo q t).portA (s.selectTo q t).portB := by unfold State.selectTo; (try dsimp only); (repeat' split) <;> first | with_reducible exact h | (simp (maxDischargeDepth := 20) [h]; done) | (simp_all (maxDischargeDepth := 20); done)

@[simp] theorem handOn_queues (q : Port) (x : SwAction) (t : TrackId) (u : Quantum) (pr : PressTime) (s : State)
    (h : QueuesBounded s.portA s.portB) : QueuesBounded (State.handOn q x t u pr s).1.1.portA (State.handOn q x t u pr s).1.1.portB := by
  cases x <;> simp (maxDischargeDepth := 20) [State.handOn, h]

@[simp] theorem issue_queues (q c k x t u pr) (s : State) (h : QueuesBounded s.portA s.portB) : QueuesBounded (s.issue q c k x t u pr).portA (s.issue q c k x t u pr).portB := by unfold State.issue; (try dsimp only); (repeat' split) <;> first | with_reducible exact h | (simp (maxDischargeDepth := 20) [h]; done) | (simp_all (maxDischargeDepth := 20); done)

@[simp] theorem setMachine_queues (q c m) (s : State) (h : QueuesBounded s.portA s.portB) : QueuesBounded (s.setMachine q c m).portA (s.setMachine q c m).portB := by unfold State.setMachine; (try dsimp only); (repeat' split) <;> first | with_reducible exact h | (simp (maxDischargeDepth := 20) [h]; done) | (simp_all (maxDischargeDepth := 20); done)

@[simp] theorem switchDown_queues (q c) (s : State) (h : QueuesBounded s.portA s.portB) : QueuesBounded (s.switchDown q c).1.portA (s.switchDown q c).1.portB := by unfold State.switchDown; (try dsimp only); (repeat' split) <;> first | with_reducible exact h | (simp (maxDischargeDepth := 20) [h]; done) | (simp_all (maxDischargeDepth := 20); done)

@[simp] theorem switchUp_queues (q c) (s : State) (h : QueuesBounded s.portA s.portB) : QueuesBounded (s.switchUp q c).1.portA (s.switchUp q c).1.portB := by unfold State.switchUp; (try dsimp only); (repeat' split) <;> first | with_reducible exact h | (simp (maxDischargeDepth := 20) [h]; done) | (simp_all (maxDischargeDepth := 20); done)

@[simp] theorem holdDue_queues (q c) (s : State) (h : QueuesBounded s.portA s.portB) : QueuesBounded (s.holdDue q c).portA (s.holdDue q c).portB := by unfold State.holdDue; (try dsimp only); (repeat' split) <;> first | with_reducible exact h | (simp (maxDischargeDepth := 20) [h]; done) | (simp_all (maxDischargeDepth := 20); done)

@[simp] theorem windowDue_queues (q c) (s : State) (h : QueuesBounded s.portA s.portB) : QueuesBounded (s.windowDue q c).portA (s.windowDue q c).portB := by unfold State.windowDue; (try dsimp only); (repeat' split) <;> first | with_reducible exact h | (simp (maxDischargeDepth := 20) [h]; done) | (simp_all (maxDischargeDepth := 20); done)

@[simp] theorem layerSample_queues (id k) (s : State) (h : QueuesBounded s.portA s.portB) : QueuesBounded (s.layerSample id k).1.portA (s.layerSample id k).1.portB := by unfold State.layerSample; (try dsimp only); (repeat' split) <;> first | with_reducible exact h | (simp (maxDischargeDepth := 20) [h]; done) | (simp_all (maxDischargeDepth := 20); done)

@[simp] theorem layerPart_queues (q id cs) (s : State) (h : QueuesBounded s.portA s.portB) : QueuesBounded (s.layerPart q id cs).1.portA (s.layerPart q id cs).1.portB := by unfold State.layerPart; (try dsimp only); (repeat' split) <;> first | with_reducible exact h | (simp (maxDischargeDepth := 20) [h]; done) | (simp_all (maxDischargeDepth := 20); done)

@[simp] theorem sumLayers_queues (t : TrackId) (q : Nat) (l : List Nat) (s : State) (h : QueuesBounded s.portA s.portB) :
    QueuesBounded (State.sumLayers t q l s).1.portA (State.sumLayers t q l s).1.portB := by
  induction l generalizing s with
  | nil => exact h
  | cons x l ih => simp (maxDischargeDepth := 20) [State.sumLayers, ih, h]

@[simp] theorem trackSum_queues (t) (s : State) (h : QueuesBounded s.portA s.portB) : QueuesBounded (s.trackSum t).1.portA (s.trackSum t).1.portB := by unfold State.trackSum; (try dsimp only); (repeat' split) <;> first | with_reducible exact h | (simp (maxDischargeDepth := 20) [h]; done) | (simp_all (maxDischargeDepth := 20); done)

@[simp] theorem trackSums_queues (l : List TrackId) (s : State) (h : QueuesBounded s.portA s.portB) : QueuesBounded (State.trackSums l s).1.portA (State.trackSums l s).1.portB := by
  induction l generalizing s with
  | nil => exact h
  | cons x l ih => simp (maxDischargeDepth := 20) [State.trackSums, ih, h]

@[simp] theorem moveRamps_queues (s : State) (h : QueuesBounded s.portA s.portB) : QueuesBounded (s.moveRamps).portA (s.moveRamps).portB := by unfold State.moveRamps; (try dsimp only); (repeat' split) <;> first | with_reducible exact h | (simp (maxDischargeDepth := 20) [h]; done) | (simp_all (maxDischargeDepth := 20); done)

@[simp] theorem clip_queues (ear r) (s : State) (h : QueuesBounded s.portA s.portB) : QueuesBounded (s.clip ear r).portA (s.clip ear r).portB := by unfold State.clip; (try dsimp only); (repeat' split) <;> first | with_reducible exact h | (simp (maxDischargeDepth := 20) [h]; done) | (simp_all (maxDischargeDepth := 20); done)

@[simp] theorem mix_queues (fr pl b) (s : State) (h : QueuesBounded s.portA s.portB) : QueuesBounded (s.mix fr pl b).portA (s.mix fr pl b).portB := by unfold State.mix; (try dsimp only); (repeat' split) <;> first | with_reducible exact h | (simp (maxDischargeDepth := 20) [h]; done) | (simp_all (maxDischargeDepth := 20); done)

@[simp] theorem mixSilence_queues (s : State) (h : QueuesBounded s.portA s.portB) : QueuesBounded (s.mixSilence).portA (s.mixSilence).portB := by unfold State.mixSilence; (try dsimp only); (repeat' split) <;> first | with_reducible exact h | (simp (maxDischargeDepth := 20) [h]; done) | (simp_all (maxDischargeDepth := 20); done)

@[simp] theorem discardImport_queues (id cause) (s : State) (h : QueuesBounded s.portA s.portB) : QueuesBounded (s.discardImport id cause).portA (s.discardImport id cause).portB := by unfold State.discardImport; (try dsimp only); (repeat' split) <;> first | with_reducible exact h | (simp (maxDischargeDepth := 20) [h]; done) | (simp_all (maxDischargeDepth := 20); done)

@[simp] theorem requestCommit_queues (p) (s : State) (h : QueuesBounded s.portA s.portB) : QueuesBounded (s.requestCommit p).portA (s.requestCommit p).portB := by
  unfold State.requestCommit
  split
  · exact h
  · split
    · exact h
    · dsimp only
      split
      · split
        · next u hu => have hu' := allocate_queues _ _ _ h hu; simp (maxDischargeDepth := 20) [hu']
        · simp (maxDischargeDepth := 20) [h]
      · simp (maxDischargeDepth := 20) [h]

@[simp] theorem settleWrite_queues (p) (s : State) (h : QueuesBounded s.portA s.portB) : QueuesBounded (s.settleWrite p).portA (s.settleWrite p).portB := by unfold State.settleWrite; (try dsimp only); (repeat' split) <;> first | with_reducible exact h | (simp (maxDischargeDepth := 20) [h]; done) | (simp_all (maxDischargeDepth := 20); done)

@[simp] theorem settleWait_queues (who) (s : State) (h : QueuesBounded s.portA s.portB) : QueuesBounded (s.settleWait who).portA (s.settleWait who).portB := by unfold State.settleWait; (try dsimp only); (repeat' split) <;> first | with_reducible exact h | (simp (maxDischargeDepth := 20) [h]; done) | (simp_all (maxDischargeDepth := 20); done)

@[simp] theorem settle_queues (s : State) (h : QueuesBounded s.portA s.portB) : QueuesBounded (s.settle).portA (s.settle).portB := by unfold State.settle; (try dsimp only); (repeat' split) <;> first | with_reducible exact h | (simp (maxDischargeDepth := 20) [h]; done) | (simp_all (maxDischargeDepth := 20); done)

@[simp] theorem discardImports_queues (cause l) (s : State) (h : QueuesBounded s.portA s.portB) : QueuesBounded (s.discardImports cause l).portA (s.discardImports cause l).portB := by
  induction l generalizing s with
  | nil => exact h
  | cons x l ih => simp (maxDischargeDepth := 20) [State.discardImports, ih, h]

@[simp] theorem abandonRunningFold_queues (cause) (s : State) (h : QueuesBounded s.portA s.portB) : QueuesBounded (s.abandonRunningFold cause).portA (s.abandonRunningFold cause).portB := by unfold State.abandonRunningFold; (try dsimp only); (repeat' split) <;> first | with_reducible exact h | (simp (maxDischargeDepth := 20) [h]; done) | (simp_all (maxDischargeDepth := 20); done)

@[simp] theorem emptyTracks_queues (l) (s : State) (h : QueuesBounded s.portA s.portB) : QueuesBounded (s.emptyTracks l).portA (s.emptyTracks l).portB := by
  induction l generalizing s with
  | nil => exact h
  | cons x l ih => simp (maxDischargeDepth := 20) [State.emptyTracks, ih, h]

@[simp] theorem raiseEmptied_queues (old l) (s : State) (h : QueuesBounded s.portA s.portB) : QueuesBounded (s.raiseEmptied old l).portA (s.raiseEmptied old l).portB := by
  induction l generalizing s with
  | nil => exact h
  | cons x l ih => unfold State.raiseEmptied; exact ih _ (by split <;> simp (maxDischargeDepth := 20) [h])

@[simp] theorem clearTracks_queues (s : State) (h : QueuesBounded s.portA s.portB) : QueuesBounded (s.clearTracks).portA (s.clearTracks).portB := by unfold State.clearTracks; (try dsimp only); (repeat' split) <;> first | with_reducible exact h | (simp (maxDischargeDepth := 20) [h]; done) | (simp_all (maxDischargeDepth := 20); done)

@[simp] theorem forgetRecent_queues (s : State) (h : QueuesBounded s.portA s.portB) : QueuesBounded (s.forgetRecent).portA (s.forgetRecent).portB := by unfold State.forgetRecent; (try dsimp only); (repeat' split) <;> first | with_reducible exact h | (simp (maxDischargeDepth := 20) [h]; done) | (simp_all (maxDischargeDepth := 20); done)

@[simp] theorem clearCycle_queues (s : State) (h : QueuesBounded s.portA s.portB) : QueuesBounded (s.clearCycle).portA (s.clearCycle).portB := by unfold State.clearCycle; (try dsimp only); (repeat' split) <;> first | with_reducible exact h | (simp (maxDischargeDepth := 20) [h]; done) | (simp_all (maxDischargeDepth := 20); done)

@[simp] theorem actClearAll_queues (s : State) (h : QueuesBounded s.portA s.portB) : QueuesBounded (s.actClearAll).portA (s.actClearAll).portB := by unfold State.actClearAll; (try dsimp only); (repeat' split) <;> first | with_reducible exact h | (simp (maxDischargeDepth := 20) [h]; done) | (simp_all (maxDischargeDepth := 20); done)

@[simp] theorem enterRest_queues (cause d) (s : State) (h : QueuesBounded s.portA s.portB) : QueuesBounded (s.enterRest cause d).portA (s.enterRest cause d).portB := by unfold State.enterRest; (try dsimp only); (repeat' split) <;> first | with_reducible exact h | (simp (maxDischargeDepth := 20) [h]; done) | (simp_all (maxDischargeDepth := 20); done)

@[simp] theorem powerLow_queues (s : State) (h : QueuesBounded s.portA s.portB) : QueuesBounded (s.powerLow).portA (s.powerLow).portB := by unfold State.powerLow; (try dsimp only); (repeat' split) <;> first | with_reducible exact h | (simp (maxDischargeDepth := 20) [h]; done) | (simp_all (maxDischargeDepth := 20); done)

@[simp] theorem wakeUp_queues (s : State) (h : QueuesBounded s.portA s.portB) : QueuesBounded (s.wakeUp).portA (s.wakeUp).portB := by unfold State.wakeUp; (try dsimp only); (repeat' split) <;> first | with_reducible exact h | (simp (maxDischargeDepth := 20) [h]; done) | (simp_all (maxDischargeDepth := 20); done)

@[simp] theorem testDone_queues (s : State) (h : QueuesBounded s.portA s.portB) : QueuesBounded (s.testDone).portA (s.testDone).portB := by unfold State.testDone; (try dsimp only); (repeat' split) <;> first | with_reducible exact h | (simp (maxDischargeDepth := 20) [h]; done) | (simp_all (maxDischargeDepth := 20); done)

@[simp] theorem setGrant_queues (g) (s : State) (h : QueuesBounded s.portA s.portB) : QueuesBounded (s.setGrant g).portA (s.setGrant g).portB := by unfold State.setGrant; (try dsimp only); (repeat' split) <;> first | with_reducible exact h | (simp (maxDischargeDepth := 20) [h]; done) | (simp_all (maxDischargeDepth := 20); done)

@[simp] theorem grantPlayback_queues (id r) (s : State) (h : QueuesBounded s.portA s.portB) : QueuesBounded (s.grantPlayback id r).portA (s.grantPlayback id r).portB := by unfold State.grantPlayback; (try dsimp only); (repeat' split) <;> first | with_reducible exact h | (simp (maxDischargeDepth := 20) [h]; done) | (simp_all (maxDischargeDepth := 20); done)

@[simp] theorem grantCapture_queues (x rest) (s : State) (h : QueuesBounded s.portA s.portB) : QueuesBounded (s.grantCapture x rest).portA (s.grantCapture x rest).portB := by unfold State.grantCapture; (try dsimp only); (repeat' split) <;> first | with_reducible exact h | (simp (maxDischargeDepth := 20) [h]; done) | (simp_all (maxDischargeDepth := 20); done)

@[simp] theorem grantFold_queues (s : State) (h : QueuesBounded s.portA s.portB) : QueuesBounded (s.grantFold).portA (s.grantFold).portB := by unfold State.grantFold; (try dsimp only); (repeat' split) <;> first | with_reducible exact h | (simp (maxDischargeDepth := 20) [h]; done) | (simp_all (maxDischargeDepth := 20); done)

@[simp] theorem grantWindow_queues (p) (s : State) (h : QueuesBounded s.portA s.portB) : QueuesBounded (s.grantWindow p).portA (s.grantWindow p).portB := by unfold State.grantWindow; (try dsimp only); (repeat' split) <;> first | with_reducible exact h | (simp (maxDischargeDepth := 20) [h]; done) | (simp_all (maxDischargeDepth := 20); done)

@[simp] theorem grantBackground_queues (x) (s : State) (h : QueuesBounded s.portA s.portB) : QueuesBounded (s.grantBackground x).portA (s.grantBackground x).portB := by unfold State.grantBackground; (try dsimp only); (repeat' split) <;> first | with_reducible exact h | (simp (maxDischargeDepth := 20) [h]; done) | (simp_all (maxDischargeDepth := 20); done)

@[simp] theorem grantNext_queues (s : State) (h : QueuesBounded s.portA s.portB) : QueuesBounded (s.grantNext).portA (s.grantNext).portB := by unfold State.grantNext; (try dsimp only); (repeat' split) <;> first | with_reducible exact h | (simp (maxDischargeDepth := 20) [h]; done) | (simp_all (maxDischargeDepth := 20); done)

@[simp] theorem arbitrate_queues (s : State) (h : QueuesBounded s.portA s.portB) : QueuesBounded (s.arbitrate).portA (s.arbitrate).portB := by unfold State.arbitrate; (try dsimp only); (repeat' split) <;> first | with_reducible exact h | (simp (maxDischargeDepth := 20) [h]; done) | (simp_all (maxDischargeDepth := 20); done)

@[simp] theorem playbackDone_queues (rd cs) (s : State) (h : QueuesBounded s.portA s.portB) : QueuesBounded (s.playbackDone rd cs).portA (s.playbackDone rd cs).portB := by unfold State.playbackDone; (try dsimp only); (repeat' split) <;> first | with_reducible exact h | (simp (maxDischargeDepth := 20) [h]; done) | (simp_all (maxDischargeDepth := 20); done)

@[simp] theorem captureDone_queues (x blk live) (s : State) (h : QueuesBounded s.portA s.portB) : QueuesBounded (s.captureDone x blk live).portA (s.captureDone x blk live).portB := by unfold State.captureDone; (try dsimp only); (repeat' split) <;> first | with_reducible exact h | (simp (maxDischargeDepth := 20) [h]; done) | (simp_all (maxDischargeDepth := 20); done)

@[simp] theorem foldReadDone_queues (rd nw cs) (s : State) (h : QueuesBounded s.portA s.portB) : QueuesBounded (s.foldReadDone rd nw cs).portA (s.foldReadDone rd nw cs).portB := by unfold State.foldReadDone; (try dsimp only); (repeat' split) <;> first | with_reducible exact h | (simp (maxDischargeDepth := 20) [h]; done) | (simp_all (maxDischargeDepth := 20); done)

@[simp] theorem foldWriteDone_queues (blk o xs) (s : State) (h : QueuesBounded s.portA s.portB) : QueuesBounded (s.foldWriteDone blk o xs).portA (s.foldWriteDone blk o xs).portB := by unfold State.foldWriteDone; (try dsimp only); (repeat' split) <;> first | with_reducible exact h | (simp (maxDischargeDepth := 20) [h]; done) | (simp_all (maxDischargeDepth := 20); done)

@[simp] theorem windowReadDone_queues (p rd cs) (s : State) (h : QueuesBounded s.portA s.portB) : QueuesBounded (s.windowReadDone p rd cs).portA (s.windowReadDone p rd cs).portB := by unfold State.windowReadDone; (try dsimp only); (repeat' split) <;> first | with_reducible exact h | (simp (maxDischargeDepth := 20) [h]; done) | (simp_all (maxDischargeDepth := 20); done)

@[simp] theorem importDone_queues (p id) (s : State) (h : QueuesBounded s.portA s.portB) : QueuesBounded (s.importDone p id).portA (s.importDone p id).portB := by unfold State.importDone; (try dsimp only); (repeat' split) <;> first | with_reducible exact h | (simp (maxDischargeDepth := 20) [h]; done) | (simp_all (maxDischargeDepth := 20); done)

@[simp] theorem commitDone_queues (p blk o xs) (s : State) (h : QueuesBounded s.portA s.portB) : QueuesBounded (s.commitDone p blk o xs).portA (s.commitDone p blk o xs).portB := by unfold State.commitDone; (try dsimp only); (repeat' split) <;> first | with_reducible exact h | (simp (maxDischargeDepth := 20) [h]; done) | (simp_all (maxDischargeDepth := 20); done)

@[simp] theorem completeRefresh_queues (s : State) (h : QueuesBounded s.portA s.portB) : QueuesBounded (s.completeRefresh).portA (s.completeRefresh).portB := by unfold State.completeRefresh; (try dsimp only); (repeat' split) <;> first | with_reducible exact h | (simp (maxDischargeDepth := 20) [h]; done) | (simp_all (maxDischargeDepth := 20); done)

@[simp] theorem completePlayback_queues (cs) (s : State) (h : QueuesBounded s.portA s.portB) : QueuesBounded (s.completePlayback cs).portA (s.completePlayback cs).portB := by unfold State.completePlayback; (try dsimp only); (repeat' split) <;> first | with_reducible exact h | (simp (maxDischargeDepth := 20) [h]; done) | (simp_all (maxDischargeDepth := 20); done)

@[simp] theorem completeCapture_queues (s : State) (h : QueuesBounded s.portA s.portB) : QueuesBounded (s.completeCapture).portA (s.completeCapture).portB := by unfold State.completeCapture; (try dsimp only); (repeat' split) <;> first | with_reducible exact h | (simp (maxDischargeDepth := 20) [h]; done) | (simp_all (maxDischargeDepth := 20); done)

@[simp] theorem completeFoldBurst_queues (cs) (s : State) (h : QueuesBounded s.portA s.portB) : QueuesBounded (s.completeFoldBurst cs).portA (s.completeFoldBurst cs).portB := by unfold State.completeFoldBurst; (try dsimp only); (repeat' split) <;> first | with_reducible exact h | (simp (maxDischargeDepth := 20) [h]; done) | (simp_all (maxDischargeDepth := 20); done)

@[simp] theorem completeWindowRead_queues (cs) (s : State) (h : QueuesBounded s.portA s.portB) : QueuesBounded (s.completeWindowRead cs).portA (s.completeWindowRead cs).portB := by unfold State.completeWindowRead; (try dsimp only); (repeat' split) <;> first | with_reducible exact h | (simp (maxDischargeDepth := 20) [h]; done) | (simp_all (maxDischargeDepth := 20); done)

@[simp] theorem completeCommit_queues (s : State) (h : QueuesBounded s.portA s.portB) : QueuesBounded (s.completeCommit).portA (s.completeCommit).portB := by unfold State.completeCommit; (try dsimp only); (repeat' split) <;> first | with_reducible exact h | (simp (maxDischargeDepth := 20) [h]; done) | (simp_all (maxDischargeDepth := 20); done)

@[simp] theorem lockout_queues (who) (s : State) (h : QueuesBounded s.portA s.portB) : QueuesBounded (s.lockout who).portA (s.lockout who).portB := by unfold State.lockout; (try dsimp only); (repeat' split) <;> first | with_reducible exact h | (simp (maxDischargeDepth := 20) [h]; done) | (simp_all (maxDischargeDepth := 20); done)

@[simp] theorem writeDeadline_queues (s : State) (h : QueuesBounded s.portA s.portB) : QueuesBounded (s.writeDeadline).portA (s.writeDeadline).portB := by unfold State.writeDeadline; (try dsimp only); (repeat' split) <;> first | with_reducible exact h | (simp (maxDischargeDepth := 20) [h]; done) | (simp_all (maxDischargeDepth := 20); done)

@[simp] theorem windowTimedOut_queues (p) (s : State) (h : QueuesBounded s.portA s.portB) : QueuesBounded (s.windowTimedOut p).portA (s.windowTimedOut p).portB := by unfold State.windowTimedOut; (try dsimp only); (repeat' split) <;> first | with_reducible exact h | (simp (maxDischargeDepth := 20) [h]; done) | (simp_all (maxDischargeDepth := 20); done)

@[simp] theorem refreshFallsDue_queues (s : State) (h : QueuesBounded s.portA s.portB) : QueuesBounded (s.refreshFallsDue).portA (s.refreshFallsDue).portB := by unfold State.refreshFallsDue; (try dsimp only); (repeat' split) <;> first | with_reducible exact h | (simp (maxDischargeDepth := 20) [h]; done) | (simp_all (maxDischargeDepth := 20); done)

@[simp] theorem testCorrected_queues (n m : Nat) (s : State) (h : QueuesBounded s.portA s.portB) : QueuesBounded (State.testCorrected n m s).portA (State.testCorrected n m s).portB := by
  induction m generalizing s with
  | zero => exact h
  | succ m ih => simp (maxDischargeDepth := 20) [State.testCorrected, ih, h]

@[simp] theorem testBlock_queues (n ok) (s : State) (h : QueuesBounded s.portA s.portB) : QueuesBounded (s.testBlock n ok).portA (s.testBlock n ok).portB := by unfold State.testBlock; (try dsimp only); (repeat' split) <;> first | with_reducible exact h | (simp (maxDischargeDepth := 20) [h]; done) | (simp_all (maxDischargeDepth := 20); done)

@[simp] theorem finishTest_queues (s : State) (h : QueuesBounded s.portA s.portB) : QueuesBounded (s.finishTest).portA (s.finishTest).portB := by unfold State.finishTest; (try dsimp only); (repeat' split) <;> first | with_reducible exact h | (simp (maxDischargeDepth := 20) [h]; done) | (simp_all (maxDischargeDepth := 20); done)

@[simp] theorem selfRefresh_queues (s : State) (h : QueuesBounded s.portA s.portB) : QueuesBounded (s.selfRefresh).portA (s.selfRefresh).portB := by unfold State.selfRefresh; (try dsimp only); (repeat' split) <;> first | with_reducible exact h | (simp (maxDischargeDepth := 20) [h]; done) | (simp_all (maxDischargeDepth := 20); done)

@[simp] theorem atBoundary_queues (ord r) (s : State) (h : QueuesBounded s.portA s.portB) : QueuesBounded (s.atBoundary ord r).portA (s.atBoundary ord r).portB := by unfold State.atBoundary; (try dsimp only); (repeat' split) <;> first | with_reducible exact h | (simp (maxDischargeDepth := 20) [h]; done) | (simp_all (maxDischargeDepth := 20); done)

@[simp] theorem arrivalWork_queues (ord fr r) (s : State) (h : QueuesBounded s.portA s.portB) : QueuesBounded (s.arrivalWork ord fr r).portA (s.arrivalWork ord fr r).portB := by unfold State.arrivalWork; (try dsimp only); (repeat' split) <;> first | with_reducible exact h | (simp (maxDischargeDepth := 20) [h]; done) | (simp_all (maxDischargeDepth := 20); done)

@[simp] theorem arriveRun_queues (ord fr) (s : State) (h : QueuesBounded s.portA s.portB) : QueuesBounded (s.arriveRun ord fr).1.portA (s.arriveRun ord fr).1.portB := by unfold State.arriveRun; (try dsimp only); (repeat' split) <;> first | with_reducible exact h | (simp (maxDischargeDepth := 20) [h]; done) | (simp_all (maxDischargeDepth := 20); done)

@[simp] theorem arrive_queues (ord fr) (s : State) (h : QueuesBounded s.portA s.portB) : QueuesBounded (s.arrive ord fr).1.portA (s.arrive ord fr).1.portB := by unfold State.arrive; (try dsimp only); (repeat' split) <;> first | with_reducible exact h | (simp (maxDischargeDepth := 20) [h]; done) | (simp_all (maxDischargeDepth := 20); done)

@[simp] theorem raiseAt_queues (k d r) (s : State) (h : QueuesBounded s.portA s.portB) : QueuesBounded (s.raiseAt k d r).portA (s.raiseAt k d r).portB := by unfold State.raiseAt; (try dsimp only); (repeat' split) <;> first | with_reducible exact h | (simp (maxDischargeDepth := 20) [h]; done) | (simp_all (maxDischargeDepth := 20); done)

@[simp] theorem audioBack_queues (r) (s : State) (h : QueuesBounded s.portA s.portB) : QueuesBounded (s.audioBack r).portA (s.audioBack r).portB := by unfold State.audioBack; (try dsimp only); (repeat' split) <;> first | with_reducible exact h | (simp (maxDischargeDepth := 20) [h]; done) | (simp_all (maxDischargeDepth := 20); done)

@[simp] theorem linkError_queues (r) (s : State) (h : QueuesBounded s.portA s.portB) : QueuesBounded (s.linkError r).portA (s.linkError r).portB := by unfold State.linkError; (try dsimp only); (repeat' split) <;> first | with_reducible exact h | (simp (maxDischargeDepth := 20) [h]; done) | (simp_all (maxDischargeDepth := 20); done)

@[simp] theorem closeFrame_queues (n bits ord) (s : State) (h : QueuesBounded s.portA s.portB) : QueuesBounded (s.closeFrame n bits ord).portA (s.closeFrame n bits ord).portB := by unfold State.closeFrame; (try dsimp only); (repeat' split) <;> first | with_reducible exact h | (simp (maxDischargeDepth := 20) [h]; done) | (simp_all (maxDischargeDepth := 20); done)

@[simp] theorem frameSync_queues (n bits ord) (s : State) (h : QueuesBounded s.portA s.portB) : QueuesBounded (s.frameSync n bits ord).portA (s.frameSync n bits ord).portB := by unfold State.frameSync; (try dsimp only); (repeat' split) <;> first | with_reducible exact h | (simp (maxDischargeDepth := 20) [h]; done) | (simp_all (maxDischargeDepth := 20); done)

@[simp] theorem watchdog_queues (s : State) (h : QueuesBounded s.portA s.portB) : QueuesBounded (s.watchdog).portA (s.watchdog).portB := by unfold State.watchdog; (try dsimp only); (repeat' split) <;> first | with_reducible exact h | (simp (maxDischargeDepth := 20) [h]; done) | (simp_all (maxDischargeDepth := 20); done)

@[simp] theorem shiftRequest_queues (p n) (s : State) (h : QueuesBounded s.portA s.portB) : QueuesBounded (s.shiftRequest p n).portA (s.shiftRequest p n).portB := by unfold State.shiftRequest; exact setPort_queues _ _ _ h (by simp [h])

@[simp] theorem refuse_queues (rq code st) (s : State) (h : QueuesBounded s.portA s.portB) : QueuesBounded (s.refuse rq code st).portA (s.refuse rq code st).portB := by unfold State.refuse; (try dsimp only); (repeat' split) <;> first | with_reducible exact h | (simp (maxDischargeDepth := 20) [h]; done) | (simp_all (maxDischargeDepth := 20); done)

@[simp] theorem beginTransfer_queues (p k) (s : State) (h : QueuesBounded s.portA s.portB) : QueuesBounded (s.beginTransfer p k).portA (s.beginTransfer p k).portB := by unfold State.beginTransfer; exact setPort_queues _ _ _ h (by simp [h])

@[simp] theorem endTransfer_queues (p) (s : State) (h : QueuesBounded s.portA s.portB) : QueuesBounded (s.endTransfer p).portA (s.endTransfer p).portB := by unfold State.endTransfer; exact setPort_queues _ _ _ h (by simp [h])

@[simp] theorem shiftOut_queues (p t x) (s : State) (h : QueuesBounded s.portA s.portB) : QueuesBounded (s.shiftOut p t x).portA (s.shiftOut p t x).portB := by unfold State.shiftOut; exact setPort_queues _ _ _ h (by simp [h])

@[simp] theorem departHead_queues (p) (s : State) (h : QueuesBounded s.portA s.portB) : QueuesBounded (s.departHead p).portA (s.departHead p).portB := by unfold State.departHead; dsimp only; refine setPort_queues _ _ _ h ?_; have h1 := port_queue_le p s h; have h2 := port_lost_le p s h; split <;> constructor <;> simp <;> omega

@[simp] theorem replyByte_queues (p) (s : State) (h : QueuesBounded s.portA s.portB) : QueuesBounded (s.replyByte p).portA (s.replyByte p).portB := by
  unfold State.replyByte; split
  · exact h
  · dsimp only; (repeat' split) <;> first | (simp [h]; done) | (refine setPort_queues _ _ _ (by simp [h]) (emptied_bounded _ _ ⟨?_, ?_⟩) <;> simp [h])

@[simp] theorem eventByte_queues (p t left j) (s : State) (h : QueuesBounded s.portA s.portB) : QueuesBounded (s.eventByte p t left j).portA (s.eventByte p t left j).portB := by unfold State.eventByte; (try dsimp only); (repeat' split) <;> first | with_reducible exact h | (simp (maxDischargeDepth := 20) [h]; done) | (simp_all (maxDischargeDepth := 20); done)

@[simp] theorem eventsByte_queues (p) (s : State) (h : QueuesBounded s.portA s.portB) : QueuesBounded (s.eventsByte p).portA (s.eventsByte p).portB := by unfold State.eventsByte; (try dsimp only); (repeat' split) <;> first | with_reducible exact h | (simp (maxDischargeDepth := 20) [h]; done) | (simp_all (maxDischargeDepth := 20); done)

@[simp] theorem reportFlag_queues (p flag) (s : State) (h : QueuesBounded s.portA s.portB) : QueuesBounded (s.reportFlag p flag).portA (s.reportFlag p flag).portB := by unfold State.reportFlag; (try dsimp only); (repeat' split) <;> first | with_reducible exact h | (simp (maxDischargeDepth := 20) [h]; done) | (simp_all (maxDischargeDepth := 20); done)

@[simp] theorem latchWindow_queues (p) (s : State) (h : QueuesBounded s.portA s.portB) : QueuesBounded (s.latchWindow p).portA (s.latchWindow p).portB := by unfold State.latchWindow; (try dsimp only); (repeat' split) <;> first | with_reducible exact h | (simp (maxDischargeDepth := 20) [h]; done) | (simp_all (maxDischargeDepth := 20); done)

@[simp] theorem markShifting_queues (p) (s : State) (h : QueuesBounded s.portA s.portB) : QueuesBounded (s.markShifting p).portA (s.markShifting p).portB := by unfold State.markShifting; (try dsimp only); (repeat' split) <;> first | with_reducible exact h | (simp (maxDischargeDepth := 20) [h]; done) | (simp_all (maxDischargeDepth := 20); done)

@[simp] theorem sampleByte_queues (p t j) (s : State) (h : QueuesBounded s.portA s.portB) : QueuesBounded (s.sampleByte p t j).portA (s.sampleByte p t j).portB := by unfold State.sampleByte; (try dsimp only); (repeat' split) <;> first | with_reducible exact h | (simp (maxDischargeDepth := 20) [h]; done) | (simp_all (maxDischargeDepth := 20); done)

@[simp] theorem windowReadByte_queues (p) (s : State) (h : QueuesBounded s.portA s.portB) : QueuesBounded (s.windowReadByte p).portA (s.windowReadByte p).portB := by unfold State.windowReadByte; (try dsimp only); (repeat' split) <;> first | with_reducible exact h | (simp (maxDischargeDepth := 20) [h]; done) | (simp_all (maxDischargeDepth := 20); done)

@[simp] theorem sampleIn_queues (p x w) (s : State) (h : QueuesBounded s.portA s.portB) : QueuesBounded (s.sampleIn p x w).portA (s.sampleIn p x w).portB := by unfold State.sampleIn; (try dsimp only); (repeat' split) <;> first | with_reducible exact h | (simp (maxDischargeDepth := 20) [h]; done) | (simp_all (maxDischargeDepth := 20); done)

@[simp] theorem shiftZeros_queues (p n) (s : State) (h : QueuesBounded s.portA s.portB) : QueuesBounded (s.shiftZeros p n).portA (s.shiftZeros p n).portB := by unfold State.shiftZeros; exact setPort_queues _ _ _ h (by simp [h])

@[simp] theorem riseIf_queues (p rise) (s : State) (h : QueuesBounded s.portA s.portB) : QueuesBounded (s.riseIf p rise).portA (s.riseIf p rise).portB := by unfold State.riseIf; (try dsimp only); (repeat' split) <;> first | with_reducible exact h | (simp (maxDischargeDepth := 20) [h]; done) | (simp_all (maxDischargeDepth := 20); done)

@[simp] theorem windowWriteByte_queues (p x) (s : State) (h : QueuesBounded s.portA s.portB) : QueuesBounded (s.windowWriteByte p x).portA (s.windowWriteByte p x).portB := by unfold State.windowWriteByte; (try dsimp only); (repeat' split) <;> first | with_reducible exact h | (simp (maxDischargeDepth := 20) [h]; done) | (simp_all (maxDischargeDepth := 20); done)

@[simp] theorem windowWriteBytes_queues (p l) (s : State) (h : QueuesBounded s.portA s.portB) : QueuesBounded (s.windowWriteBytes p l).portA (s.windowWriteBytes p l).portB := by
  induction l generalizing s with
  | nil => exact h
  | cons x l ih => simp (maxDischargeDepth := 20) [State.windowWriteBytes, ih, h]

@[simp] theorem setMailbox_queues (p n) (s : State) (h : QueuesBounded s.portA s.portB) : QueuesBounded (s.setMailbox p n).portA (s.setMailbox p n).portB := by unfold State.setMailbox; exact setPort_queues _ _ _ h (by simp [h])

@[simp] theorem shutWindow_queues (p) (s : State) (h : QueuesBounded s.portA s.portB) : QueuesBounded (s.shutWindow p).portA (s.shutWindow p).portB := by unfold State.shutWindow; (try dsimp only); (repeat' split) <;> first | with_reducible exact h | (simp (maxDischargeDepth := 20) [h]; done) | (simp_all (maxDischargeDepth := 20); done)

@[simp] theorem closeCommit_queues (p w) (s : State) (h : QueuesBounded s.portA s.portB) : QueuesBounded (s.closeCommit p w).portA (s.closeCommit p w).portB := by unfold State.closeCommit; (try dsimp only); (repeat' split) <;> first | with_reducible exact h | (simp (maxDischargeDepth := 20) [h]; done) | (simp_all (maxDischargeDepth := 20); done)

@[simp] theorem setEntry_queues (c e) (s : State) (h : QueuesBounded s.portA s.portB) : QueuesBounded (s.setEntry c e).portA (s.setEntry c e).portB := by unfold State.setEntry; (try dsimp only); (repeat' split) <;> first | with_reducible exact h | (simp (maxDischargeDepth := 20) [h]; done) | (simp_all (maxDischargeDepth := 20); done)

@[simp] theorem setTimeout_queues (p n) (s : State) (h : QueuesBounded s.portA s.portB) : QueuesBounded (s.setTimeout p n).portA (s.setTimeout p n).portB := by unfold State.setTimeout; (try dsimp only); (repeat' split) <;> first | with_reducible exact h | (simp (maxDischargeDepth := 20) [h]; done) | (simp_all (maxDischargeDepth := 20); done)

@[simp] theorem placeImport_queues (p id i) (s : State) (h : QueuesBounded s.portA s.portB) : QueuesBounded (s.placeImport p id i).portA (s.placeImport p id i).portB := by unfold State.placeImport; (try dsimp only); (repeat' split) <;> first | with_reducible exact h | (simp (maxDischargeDepth := 20) [h]; done) | (simp_all (maxDischargeDepth := 20); done)

end Sys2Proof.Machine
end

