-- ==== Sys2Proof/Laws/State.lean ====
section
/-! SUPPORT. What each update of State leaves and what is read back after it: one lemma for each field of each update. -/
namespace Sys2Proof.Machine

open Sys2Proof

/-! ### Fields an update leaves -/

@[simp] theorem pending_setPort (p : Port) (c : PortCtl) (s : State) : (s.setPort p c).pending = s.pending := by cases p <;> rfl
@[simp] theorem now_setPort (p : Port) (c : PortCtl) (s : State) : (s.setPort p c).now = s.now := by cases p <;> rfl
@[simp] theorem power_setPort (p : Port) (c : PortCtl) (s : State) : (s.setPort p c).power = s.power := by cases p <;> rfl
@[simp] theorem cycle_setPort (p : Port) (c : PortCtl) (s : State) : (s.setPort p c).cycle = s.cycle := by cases p <;> rfl
@[simp] theorem tracks_setPort (p : Port) (c : PortCtl) (s : State) : (s.setPort p c).tracks = s.tracks := by cases p <;> rfl
@[simp] theorem layers_setPort (p : Port) (c : PortCtl) (s : State) : (s.setPort p c).layers = s.layers := by cases p <;> rfl
@[simp] theorem fresh_setPort (p : Port) (c : PortCtl) (s : State) : (s.setPort p c).fresh = s.fresh := by cases p <;> rfl
@[simp] theorem fold_setPort (p : Port) (c : PortCtl) (s : State) : (s.setPort p c).fold = s.fold := by cases p <;> rfl
@[simp] theorem capture_setPort (p : Port) (c : PortCtl) (s : State) : (s.setPort p c).capture = s.capture := by cases p <;> rfl
@[simp] theorem cues_setPort (p : Port) (c : PortCtl) (s : State) : (s.setPort p c).cues = s.cues := by cases p <;> rfl
@[simp] theorem switches_setPort (p : Port) (c : PortCtl) (s : State) : (s.setPort p c).switches = s.switches := by cases p <;> rfl
@[simp] theorem mixer_setPort (p : Port) (c : PortCtl) (s : State) : (s.setPort p c).mixer = s.mixer := by cases p <;> rfl
@[simp] theorem mem_setPort (p : Port) (c : PortCtl) (s : State) : (s.setPort p c).mem = s.mem := by cases p <;> rfl
@[simp] theorem audio_setPort (p : Port) (c : PortCtl) (s : State) : (s.setPort p c).audio = s.audio := by cases p <;> rfl
@[simp] theorem faults_setPort (p : Port) (c : PortCtl) (s : State) : (s.setPort p c).faults = s.faults := by cases p <;> rfl

@[simp] theorem pending_setTrack (t : TrackId) (tr : Track) (s : State) : (s.setTrack t tr).pending = s.pending := rfl
@[simp] theorem now_setTrack (t : TrackId) (tr : Track) (s : State) : (s.setTrack t tr).now = s.now := rfl
@[simp] theorem power_setTrack (t : TrackId) (tr : Track) (s : State) : (s.setTrack t tr).power = s.power := rfl
@[simp] theorem cycle_setTrack (t : TrackId) (tr : Track) (s : State) : (s.setTrack t tr).cycle = s.cycle := rfl
@[simp] theorem layers_setTrack (t : TrackId) (tr : Track) (s : State) : (s.setTrack t tr).layers = s.layers := rfl
@[simp] theorem fresh_setTrack (t : TrackId) (tr : Track) (s : State) : (s.setTrack t tr).fresh = s.fresh := rfl
@[simp] theorem fold_setTrack (t : TrackId) (tr : Track) (s : State) : (s.setTrack t tr).fold = s.fold := rfl
@[simp] theorem capture_setTrack (t : TrackId) (tr : Track) (s : State) : (s.setTrack t tr).capture = s.capture := rfl
@[simp] theorem cues_setTrack (t : TrackId) (tr : Track) (s : State) : (s.setTrack t tr).cues = s.cues := rfl
@[simp] theorem switches_setTrack (t : TrackId) (tr : Track) (s : State) : (s.setTrack t tr).switches = s.switches := rfl
@[simp] theorem mixer_setTrack (t : TrackId) (tr : Track) (s : State) : (s.setTrack t tr).mixer = s.mixer := rfl
@[simp] theorem mem_setTrack (t : TrackId) (tr : Track) (s : State) : (s.setTrack t tr).mem = s.mem := rfl
@[simp] theorem audio_setTrack (t : TrackId) (tr : Track) (s : State) : (s.setTrack t tr).audio = s.audio := rfl
@[simp] theorem faults_setTrack (t : TrackId) (tr : Track) (s : State) : (s.setTrack t tr).faults = s.faults := rfl
@[simp] theorem portA_setTrack (t : TrackId) (tr : Track) (s : State) : (s.setTrack t tr).portA = s.portA := rfl
@[simp] theorem portB_setTrack (t : TrackId) (tr : Track) (s : State) : (s.setTrack t tr).portB = s.portB := rfl

@[simp] theorem pending_modTrack (t : TrackId) (f : Track → Track) (s : State) : (s.modTrack t f).pending = s.pending := rfl
@[simp] theorem now_modTrack (t : TrackId) (f : Track → Track) (s : State) : (s.modTrack t f).now = s.now := rfl
@[simp] theorem power_modTrack (t : TrackId) (f : Track → Track) (s : State) : (s.modTrack t f).power = s.power := rfl
@[simp] theorem cycle_modTrack (t : TrackId) (f : Track → Track) (s : State) : (s.modTrack t f).cycle = s.cycle := rfl
@[simp] theorem layers_modTrack (t : TrackId) (f : Track → Track) (s : State) : (s.modTrack t f).layers = s.layers := rfl
@[simp] theorem fresh_modTrack (t : TrackId) (f : Track → Track) (s : State) : (s.modTrack t f).fresh = s.fresh := rfl
@[simp] theorem fold_modTrack (t : TrackId) (f : Track → Track) (s : State) : (s.modTrack t f).fold = s.fold := rfl
@[simp] theorem capture_modTrack (t : TrackId) (f : Track → Track) (s : State) : (s.modTrack t f).capture = s.capture := rfl
@[simp] theorem cues_modTrack (t : TrackId) (f : Track → Track) (s : State) : (s.modTrack t f).cues = s.cues := rfl
@[simp] theorem switches_modTrack (t : TrackId) (f : Track → Track) (s : State) : (s.modTrack t f).switches = s.switches := rfl
@[simp] theorem mixer_modTrack (t : TrackId) (f : Track → Track) (s : State) : (s.modTrack t f).mixer = s.mixer := rfl
@[simp] theorem mem_modTrack (t : TrackId) (f : Track → Track) (s : State) : (s.modTrack t f).mem = s.mem := rfl
@[simp] theorem audio_modTrack (t : TrackId) (f : Track → Track) (s : State) : (s.modTrack t f).audio = s.audio := rfl
@[simp] theorem faults_modTrack (t : TrackId) (f : Track → Track) (s : State) : (s.modTrack t f).faults = s.faults := rfl
@[simp] theorem portA_modTrack (t : TrackId) (f : Track → Track) (s : State) : (s.modTrack t f).portA = s.portA := rfl
@[simp] theorem portB_modTrack (t : TrackId) (f : Track → Track) (s : State) : (s.modTrack t f).portB = s.portB := rfl

@[simp] theorem pending_setLayer (id : Nat) (l : Layer) (s : State) : (s.setLayer id l).pending = s.pending := rfl
@[simp] theorem now_setLayer (id : Nat) (l : Layer) (s : State) : (s.setLayer id l).now = s.now := rfl
@[simp] theorem power_setLayer (id : Nat) (l : Layer) (s : State) : (s.setLayer id l).power = s.power := rfl
@[simp] theorem cycle_setLayer (id : Nat) (l : Layer) (s : State) : (s.setLayer id l).cycle = s.cycle := rfl
@[simp] theorem tracks_setLayer (id : Nat) (l : Layer) (s : State) : (s.setLayer id l).tracks = s.tracks := rfl
@[simp] theorem fresh_setLayer (id : Nat) (l : Layer) (s : State) : (s.setLayer id l).fresh = s.fresh := rfl
@[simp] theorem fold_setLayer (id : Nat) (l : Layer) (s : State) : (s.setLayer id l).fold = s.fold := rfl
@[simp] theorem capture_setLayer (id : Nat) (l : Layer) (s : State) : (s.setLayer id l).capture = s.capture := rfl
@[simp] theorem cues_setLayer (id : Nat) (l : Layer) (s : State) : (s.setLayer id l).cues = s.cues := rfl
@[simp] theorem switches_setLayer (id : Nat) (l : Layer) (s : State) : (s.setLayer id l).switches = s.switches := rfl
@[simp] theorem mixer_setLayer (id : Nat) (l : Layer) (s : State) : (s.setLayer id l).mixer = s.mixer := rfl
@[simp] theorem mem_setLayer (id : Nat) (l : Layer) (s : State) : (s.setLayer id l).mem = s.mem := rfl
@[simp] theorem audio_setLayer (id : Nat) (l : Layer) (s : State) : (s.setLayer id l).audio = s.audio := rfl
@[simp] theorem faults_setLayer (id : Nat) (l : Layer) (s : State) : (s.setLayer id l).faults = s.faults := rfl
@[simp] theorem portA_setLayer (id : Nat) (l : Layer) (s : State) : (s.setLayer id l).portA = s.portA := rfl
@[simp] theorem portB_setLayer (id : Nat) (l : Layer) (s : State) : (s.setLayer id l).portB = s.portB := rfl

@[simp] theorem pending_modLayer (id : Nat) (f : Layer → Layer) (s : State) : (s.modLayer id f).pending = s.pending := by unfold State.modLayer; split <;> rfl
@[simp] theorem now_modLayer (id : Nat) (f : Layer → Layer) (s : State) : (s.modLayer id f).now = s.now := by unfold State.modLayer; split <;> rfl
@[simp] theorem power_modLayer (id : Nat) (f : Layer → Layer) (s : State) : (s.modLayer id f).power = s.power := by unfold State.modLayer; split <;> rfl
@[simp] theorem cycle_modLayer (id : Nat) (f : Layer → Layer) (s : State) : (s.modLayer id f).cycle = s.cycle := by unfold State.modLayer; split <;> rfl
@[simp] theorem tracks_modLayer (id : Nat) (f : Layer → Layer) (s : State) : (s.modLayer id f).tracks = s.tracks := by unfold State.modLayer; split <;> rfl
@[simp] theorem fresh_modLayer (id : Nat) (f : Layer → Layer) (s : State) : (s.modLayer id f).fresh = s.fresh := by unfold State.modLayer; split <;> rfl
@[simp] theorem fold_modLayer (id : Nat) (f : Layer → Layer) (s : State) : (s.modLayer id f).fold = s.fold := by unfold State.modLayer; split <;> rfl
@[simp] theorem capture_modLayer (id : Nat) (f : Layer → Layer) (s : State) : (s.modLayer id f).capture = s.capture := by unfold State.modLayer; split <;> rfl
@[simp] theorem cues_modLayer (id : Nat) (f : Layer → Layer) (s : State) : (s.modLayer id f).cues = s.cues := by unfold State.modLayer; split <;> rfl
@[simp] theorem switches_modLayer (id : Nat) (f : Layer → Layer) (s : State) : (s.modLayer id f).switches = s.switches := by unfold State.modLayer; split <;> rfl
@[simp] theorem mixer_modLayer (id : Nat) (f : Layer → Layer) (s : State) : (s.modLayer id f).mixer = s.mixer := by unfold State.modLayer; split <;> rfl
@[simp] theorem mem_modLayer (id : Nat) (f : Layer → Layer) (s : State) : (s.modLayer id f).mem = s.mem := by unfold State.modLayer; split <;> rfl
@[simp] theorem audio_modLayer (id : Nat) (f : Layer → Layer) (s : State) : (s.modLayer id f).audio = s.audio := by unfold State.modLayer; split <;> rfl
@[simp] theorem faults_modLayer (id : Nat) (f : Layer → Layer) (s : State) : (s.modLayer id f).faults = s.faults := by unfold State.modLayer; split <;> rfl
@[simp] theorem portA_modLayer (id : Nat) (f : Layer → Layer) (s : State) : (s.modLayer id f).portA = s.portA := by unfold State.modLayer; split <;> rfl
@[simp] theorem portB_modLayer (id : Nat) (f : Layer → Layer) (s : State) : (s.modLayer id f).portB = s.portB := by unfold State.modLayer; split <;> rfl

@[simp] theorem pending_setWindow (p : Port) (w : Option Window) (s : State) : (s.setWindow p w).pending = s.pending := by cases p <;> rfl
@[simp] theorem now_setWindow (p : Port) (w : Option Window) (s : State) : (s.setWindow p w).now = s.now := by cases p <;> rfl
@[simp] theorem power_setWindow (p : Port) (w : Option Window) (s : State) : (s.setWindow p w).power = s.power := by cases p <;> rfl
@[simp] theorem cycle_setWindow (p : Port) (w : Option Window) (s : State) : (s.setWindow p w).cycle = s.cycle := by cases p <;> rfl
@[simp] theorem tracks_setWindow (p : Port) (w : Option Window) (s : State) : (s.setWindow p w).tracks = s.tracks := by cases p <;> rfl
@[simp] theorem layers_setWindow (p : Port) (w : Option Window) (s : State) : (s.setWindow p w).layers = s.layers := by cases p <;> rfl
@[simp] theorem fresh_setWindow (p : Port) (w : Option Window) (s : State) : (s.setWindow p w).fresh = s.fresh := by cases p <;> rfl
@[simp] theorem fold_setWindow (p : Port) (w : Option Window) (s : State) : (s.setWindow p w).fold = s.fold := by cases p <;> rfl
@[simp] theorem capture_setWindow (p : Port) (w : Option Window) (s : State) : (s.setWindow p w).capture = s.capture := by cases p <;> rfl
@[simp] theorem cues_setWindow (p : Port) (w : Option Window) (s : State) : (s.setWindow p w).cues = s.cues := by cases p <;> rfl
@[simp] theorem switches_setWindow (p : Port) (w : Option Window) (s : State) : (s.setWindow p w).switches = s.switches := by cases p <;> rfl
@[simp] theorem mixer_setWindow (p : Port) (w : Option Window) (s : State) : (s.setWindow p w).mixer = s.mixer := by cases p <;> rfl
@[simp] theorem audio_setWindow (p : Port) (w : Option Window) (s : State) : (s.setWindow p w).audio = s.audio := by cases p <;> rfl
@[simp] theorem faults_setWindow (p : Port) (w : Option Window) (s : State) : (s.setWindow p w).faults = s.faults := by cases p <;> rfl
@[simp] theorem portA_setWindow (p : Port) (w : Option Window) (s : State) : (s.setWindow p w).portA = s.portA := by cases p <;> rfl
@[simp] theorem portB_setWindow (p : Port) (w : Option Window) (s : State) : (s.setWindow p w).portB = s.portB := by cases p <;> rfl

@[simp] theorem pending_setSwitchPort (p : Port) (c : SwitchPort) (s : State) : (s.setSwitchPort p c).pending = s.pending := by cases p <;> rfl
@[simp] theorem now_setSwitchPort (p : Port) (c : SwitchPort) (s : State) : (s.setSwitchPort p c).now = s.now := by cases p <;> rfl
@[simp] theorem power_setSwitchPort (p : Port) (c : SwitchPort) (s : State) : (s.setSwitchPort p c).power = s.power := by cases p <;> rfl
@[simp] theorem cycle_setSwitchPort (p : Port) (c : SwitchPort) (s : State) : (s.setSwitchPort p c).cycle = s.cycle := by cases p <;> rfl
@[simp] theorem tracks_setSwitchPort (p : Port) (c : SwitchPort) (s : State) : (s.setSwitchPort p c).tracks = s.tracks := by cases p <;> rfl
@[simp] theorem layers_setSwitchPort (p : Port) (c : SwitchPort) (s : State) : (s.setSwitchPort p c).layers = s.layers := by cases p <;> rfl
@[simp] theorem fresh_setSwitchPort (p : Port) (c : SwitchPort) (s : State) : (s.setSwitchPort p c).fresh = s.fresh := by cases p <;> rfl
@[simp] theorem fold_setSwitchPort (p : Port) (c : SwitchPort) (s : State) : (s.setSwitchPort p c).fold = s.fold := by cases p <;> rfl
@[simp] theorem capture_setSwitchPort (p : Port) (c : SwitchPort) (s : State) : (s.setSwitchPort p c).capture = s.capture := by cases p <;> rfl
@[simp] theorem cues_setSwitchPort (p : Port) (c : SwitchPort) (s : State) : (s.setSwitchPort p c).cues = s.cues := by cases p <;> rfl
@[simp] theorem mixer_setSwitchPort (p : Port) (c : SwitchPort) (s : State) : (s.setSwitchPort p c).mixer = s.mixer := by cases p <;> rfl
@[simp] theorem mem_setSwitchPort (p : Port) (c : SwitchPort) (s : State) : (s.setSwitchPort p c).mem = s.mem := by cases p <;> rfl
@[simp] theorem audio_setSwitchPort (p : Port) (c : SwitchPort) (s : State) : (s.setSwitchPort p c).audio = s.audio := by cases p <;> rfl
@[simp] theorem faults_setSwitchPort (p : Port) (c : SwitchPort) (s : State) : (s.setSwitchPort p c).faults = s.faults := by cases p <;> rfl
@[simp] theorem portA_setSwitchPort (p : Port) (c : SwitchPort) (s : State) : (s.setSwitchPort p c).portA = s.portA := by cases p <;> rfl
@[simp] theorem portB_setSwitchPort (p : Port) (c : SwitchPort) (s : State) : (s.setSwitchPort p c).portB = s.portB := by cases p <;> rfl

@[simp] theorem pending_setWait (who : Background) (w : Wait) (s : State) : (s.setWait who w).pending = s.pending := by cases who <;> rfl
@[simp] theorem now_setWait (who : Background) (w : Wait) (s : State) : (s.setWait who w).now = s.now := by cases who <;> rfl
@[simp] theorem power_setWait (who : Background) (w : Wait) (s : State) : (s.setWait who w).power = s.power := by cases who <;> rfl
@[simp] theorem cycle_setWait (who : Background) (w : Wait) (s : State) : (s.setWait who w).cycle = s.cycle := by cases who <;> rfl
@[simp] theorem tracks_setWait (who : Background) (w : Wait) (s : State) : (s.setWait who w).tracks = s.tracks := by cases who <;> rfl
@[simp] theorem layers_setWait (who : Background) (w : Wait) (s : State) : (s.setWait who w).layers = s.layers := by cases who <;> rfl
@[simp] theorem fresh_setWait (who : Background) (w : Wait) (s : State) : (s.setWait who w).fresh = s.fresh := by cases who <;> rfl
@[simp] theorem fold_setWait (who : Background) (w : Wait) (s : State) : (s.setWait who w).fold = s.fold := by cases who <;> rfl
@[simp] theorem capture_setWait (who : Background) (w : Wait) (s : State) : (s.setWait who w).capture = s.capture := by cases who <;> rfl
@[simp] theorem cues_setWait (who : Background) (w : Wait) (s : State) : (s.setWait who w).cues = s.cues := by cases who <;> rfl
@[simp] theorem switches_setWait (who : Background) (w : Wait) (s : State) : (s.setWait who w).switches = s.switches := by cases who <;> rfl
@[simp] theorem mixer_setWait (who : Background) (w : Wait) (s : State) : (s.setWait who w).mixer = s.mixer := by cases who <;> rfl
@[simp] theorem audio_setWait (who : Background) (w : Wait) (s : State) : (s.setWait who w).audio = s.audio := by cases who <;> rfl
@[simp] theorem faults_setWait (who : Background) (w : Wait) (s : State) : (s.setWait who w).faults = s.faults := by cases who <;> rfl
@[simp] theorem portA_setWait (who : Background) (w : Wait) (s : State) : (s.setWait who w).portA = s.portA := by cases who <;> rfl
@[simp] theorem portB_setWait (who : Background) (w : Wait) (s : State) : (s.setWait who w).portB = s.portB := by cases who <;> rfl

@[simp] theorem pending_setGrant (g : Option Grant) (s : State) : (s.setGrant g).pending = s.pending := rfl
@[simp] theorem now_setGrant (g : Option Grant) (s : State) : (s.setGrant g).now = s.now := rfl
@[simp] theorem power_setGrant (g : Option Grant) (s : State) : (s.setGrant g).power = s.power := rfl
@[simp] theorem cycle_setGrant (g : Option Grant) (s : State) : (s.setGrant g).cycle = s.cycle := rfl
@[simp] theorem tracks_setGrant (g : Option Grant) (s : State) : (s.setGrant g).tracks = s.tracks := rfl
@[simp] theorem layers_setGrant (g : Option Grant) (s : State) : (s.setGrant g).layers = s.layers := rfl
@[simp] theorem fresh_setGrant (g : Option Grant) (s : State) : (s.setGrant g).fresh = s.fresh := rfl
@[simp] theorem fold_setGrant (g : Option Grant) (s : State) : (s.setGrant g).fold = s.fold := rfl
@[simp] theorem capture_setGrant (g : Option Grant) (s : State) : (s.setGrant g).capture = s.capture := rfl
@[simp] theorem cues_setGrant (g : Option Grant) (s : State) : (s.setGrant g).cues = s.cues := rfl
@[simp] theorem switches_setGrant (g : Option Grant) (s : State) : (s.setGrant g).switches = s.switches := rfl
@[simp] theorem mixer_setGrant (g : Option Grant) (s : State) : (s.setGrant g).mixer = s.mixer := rfl
@[simp] theorem audio_setGrant (g : Option Grant) (s : State) : (s.setGrant g).audio = s.audio := rfl
@[simp] theorem faults_setGrant (g : Option Grant) (s : State) : (s.setGrant g).faults = s.faults := rfl
@[simp] theorem portA_setGrant (g : Option Grant) (s : State) : (s.setGrant g).portA = s.portA := rfl
@[simp] theorem portB_setGrant (g : Option Grant) (s : State) : (s.setGrant g).portB = s.portB := rfl

@[simp] theorem pending_setRecord (i : Fin 12) (r : Option CapRec) (s : State) : (s.setRecord i r).pending = s.pending := rfl
@[simp] theorem now_setRecord (i : Fin 12) (r : Option CapRec) (s : State) : (s.setRecord i r).now = s.now := rfl
@[simp] theorem power_setRecord (i : Fin 12) (r : Option CapRec) (s : State) : (s.setRecord i r).power = s.power := rfl
@[simp] theorem cycle_setRecord (i : Fin 12) (r : Option CapRec) (s : State) : (s.setRecord i r).cycle = s.cycle := rfl
@[simp] theorem tracks_setRecord (i : Fin 12) (r : Option CapRec) (s : State) : (s.setRecord i r).tracks = s.tracks := rfl
@[simp] theorem layers_setRecord (i : Fin 12) (r : Option CapRec) (s : State) : (s.setRecord i r).layers = s.layers := rfl
@[simp] theorem fresh_setRecord (i : Fin 12) (r : Option CapRec) (s : State) : (s.setRecord i r).fresh = s.fresh := rfl
@[simp] theorem fold_setRecord (i : Fin 12) (r : Option CapRec) (s : State) : (s.setRecord i r).fold = s.fold := rfl
@[simp] theorem cues_setRecord (i : Fin 12) (r : Option CapRec) (s : State) : (s.setRecord i r).cues = s.cues := rfl
@[simp] theorem switches_setRecord (i : Fin 12) (r : Option CapRec) (s : State) : (s.setRecord i r).switches = s.switches := rfl
@[simp] theorem mixer_setRecord (i : Fin 12) (r : Option CapRec) (s : State) : (s.setRecord i r).mixer = s.mixer := rfl
@[simp] theorem mem_setRecord (i : Fin 12) (r : Option CapRec) (s : State) : (s.setRecord i r).mem = s.mem := rfl
@[simp] theorem audio_setRecord (i : Fin 12) (r : Option CapRec) (s : State) : (s.setRecord i r).audio = s.audio := rfl
@[simp] theorem faults_setRecord (i : Fin 12) (r : Option CapRec) (s : State) : (s.setRecord i r).faults = s.faults := rfl
@[simp] theorem portA_setRecord (i : Fin 12) (r : Option CapRec) (s : State) : (s.setRecord i r).portA = s.portA := rfl
@[simp] theorem portB_setRecord (i : Fin 12) (r : Option CapRec) (s : State) : (s.setRecord i r).portB = s.portB := rfl

@[simp] theorem pending_setEntry (c : SwitchCode) (e : MapEntry) (s : State) : (s.setEntry c e).pending = s.pending := rfl
@[simp] theorem now_setEntry (c : SwitchCode) (e : MapEntry) (s : State) : (s.setEntry c e).now = s.now := rfl
@[simp] theorem power_setEntry (c : SwitchCode) (e : MapEntry) (s : State) : (s.setEntry c e).power = s.power := rfl
@[simp] theorem cycle_setEntry (c : SwitchCode) (e : MapEntry) (s : State) : (s.setEntry c e).cycle = s.cycle := rfl
@[simp] theorem tracks_setEntry (c : SwitchCode) (e : MapEntry) (s : State) : (s.setEntry c e).tracks = s.tracks := rfl
@[simp] theorem layers_setEntry (c : SwitchCode) (e : MapEntry) (s : State) : (s.setEntry c e).layers = s.layers := rfl
@[simp] theorem fresh_setEntry (c : SwitchCode) (e : MapEntry) (s : State) : (s.setEntry c e).fresh = s.fresh := rfl
@[simp] theorem fold_setEntry (c : SwitchCode) (e : MapEntry) (s : State) : (s.setEntry c e).fold = s.fold := rfl
@[simp] theorem capture_setEntry (c : SwitchCode) (e : MapEntry) (s : State) : (s.setEntry c e).capture = s.capture := rfl
@[simp] theorem cues_setEntry (c : SwitchCode) (e : MapEntry) (s : State) : (s.setEntry c e).cues = s.cues := rfl
@[simp] theorem mixer_setEntry (c : SwitchCode) (e : MapEntry) (s : State) : (s.setEntry c e).mixer = s.mixer := rfl
@[simp] theorem mem_setEntry (c : SwitchCode) (e : MapEntry) (s : State) : (s.setEntry c e).mem = s.mem := rfl
@[simp] theorem audio_setEntry (c : SwitchCode) (e : MapEntry) (s : State) : (s.setEntry c e).audio = s.audio := rfl
@[simp] theorem faults_setEntry (c : SwitchCode) (e : MapEntry) (s : State) : (s.setEntry c e).faults = s.faults := rfl
@[simp] theorem portA_setEntry (c : SwitchCode) (e : MapEntry) (s : State) : (s.setEntry c e).portA = s.portA := rfl
@[simp] theorem portB_setEntry (c : SwitchCode) (e : MapEntry) (s : State) : (s.setEntry c e).portB = s.portB := rfl

@[simp] theorem pending_setTimeout (p : Port) (n : Nat) (s : State) : (s.setTimeout p n).pending = s.pending := by cases p <;> rfl
@[simp] theorem now_setTimeout (p : Port) (n : Nat) (s : State) : (s.setTimeout p n).now = s.now := by cases p <;> rfl
@[simp] theorem power_setTimeout (p : Port) (n : Nat) (s : State) : (s.setTimeout p n).power = s.power := by cases p <;> rfl
@[simp] theorem cycle_setTimeout (p : Port) (n : Nat) (s : State) : (s.setTimeout p n).cycle = s.cycle := by cases p <;> rfl
@[simp] theorem tracks_setTimeout (p : Port) (n : Nat) (s : State) : (s.setTimeout p n).tracks = s.tracks := by cases p <;> rfl
@[simp] theorem layers_setTimeout (p : Port) (n : Nat) (s : State) : (s.setTimeout p n).layers = s.layers := by cases p <;> rfl
@[simp] theorem fresh_setTimeout (p : Port) (n : Nat) (s : State) : (s.setTimeout p n).fresh = s.fresh := by cases p <;> rfl
@[simp] theorem fold_setTimeout (p : Port) (n : Nat) (s : State) : (s.setTimeout p n).fold = s.fold := by cases p <;> rfl
@[simp] theorem capture_setTimeout (p : Port) (n : Nat) (s : State) : (s.setTimeout p n).capture = s.capture := by cases p <;> rfl
@[simp] theorem cues_setTimeout (p : Port) (n : Nat) (s : State) : (s.setTimeout p n).cues = s.cues := by cases p <;> rfl
@[simp] theorem switches_setTimeout (p : Port) (n : Nat) (s : State) : (s.setTimeout p n).switches = s.switches := by cases p <;> rfl
@[simp] theorem mixer_setTimeout (p : Port) (n : Nat) (s : State) : (s.setTimeout p n).mixer = s.mixer := by cases p <;> rfl
@[simp] theorem audio_setTimeout (p : Port) (n : Nat) (s : State) : (s.setTimeout p n).audio = s.audio := by cases p <;> rfl
@[simp] theorem faults_setTimeout (p : Port) (n : Nat) (s : State) : (s.setTimeout p n).faults = s.faults := by cases p <;> rfl
@[simp] theorem portA_setTimeout (p : Port) (n : Nat) (s : State) : (s.setTimeout p n).portA = s.portA := by cases p <;> rfl
@[simp] theorem portB_setTimeout (p : Port) (n : Nat) (s : State) : (s.setTimeout p n).portB = s.portB := by cases p <;> rfl

@[simp] theorem pending_raiseEvent (e : Event) (s : State) : (s.raiseEvent e).pending = s.pending := rfl
@[simp] theorem now_raiseEvent (e : Event) (s : State) : (s.raiseEvent e).now = s.now := rfl
@[simp] theorem power_raiseEvent (e : Event) (s : State) : (s.raiseEvent e).power = s.power := rfl
@[simp] theorem cycle_raiseEvent (e : Event) (s : State) : (s.raiseEvent e).cycle = s.cycle := rfl
@[simp] theorem tracks_raiseEvent (e : Event) (s : State) : (s.raiseEvent e).tracks = s.tracks := rfl
@[simp] theorem layers_raiseEvent (e : Event) (s : State) : (s.raiseEvent e).layers = s.layers := rfl
@[simp] theorem fresh_raiseEvent (e : Event) (s : State) : (s.raiseEvent e).fresh = s.fresh := rfl
@[simp] theorem fold_raiseEvent (e : Event) (s : State) : (s.raiseEvent e).fold = s.fold := rfl
@[simp] theorem capture_raiseEvent (e : Event) (s : State) : (s.raiseEvent e).capture = s.capture := rfl
@[simp] theorem cues_raiseEvent (e : Event) (s : State) : (s.raiseEvent e).cues = s.cues := rfl
@[simp] theorem switches_raiseEvent (e : Event) (s : State) : (s.raiseEvent e).switches = s.switches := rfl
@[simp] theorem mixer_raiseEvent (e : Event) (s : State) : (s.raiseEvent e).mixer = s.mixer := rfl
@[simp] theorem mem_raiseEvent (e : Event) (s : State) : (s.raiseEvent e).mem = s.mem := rfl
@[simp] theorem audio_raiseEvent (e : Event) (s : State) : (s.raiseEvent e).audio = s.audio := rfl
@[simp] theorem faults_raiseEvent (e : Event) (s : State) : (s.raiseEvent e).faults = s.faults := rfl

@[simp] theorem pending_handedOn (h : Req) (code : Nat) (s : State) : (s.handedOn h code).pending = s.pending := pending_setPort _ _ _
@[simp] theorem now_handedOn (h : Req) (code : Nat) (s : State) : (s.handedOn h code).now = s.now := now_setPort _ _ _
@[simp] theorem power_handedOn (h : Req) (code : Nat) (s : State) : (s.handedOn h code).power = s.power := power_setPort _ _ _
@[simp] theorem cycle_handedOn (h : Req) (code : Nat) (s : State) : (s.handedOn h code).cycle = s.cycle := cycle_setPort _ _ _
@[simp] theorem tracks_handedOn (h : Req) (code : Nat) (s : State) : (s.handedOn h code).tracks = s.tracks := tracks_setPort _ _ _
@[simp] theorem layers_handedOn (h : Req) (code : Nat) (s : State) : (s.handedOn h code).layers = s.layers := layers_setPort _ _ _
@[simp] theorem fresh_handedOn (h : Req) (code : Nat) (s : State) : (s.handedOn h code).fresh = s.fresh := fresh_setPort _ _ _
@[simp] theorem fold_handedOn (h : Req) (code : Nat) (s : State) : (s.handedOn h code).fold = s.fold := fold_setPort _ _ _
@[simp] theorem capture_handedOn (h : Req) (code : Nat) (s : State) : (s.handedOn h code).capture = s.capture := capture_setPort _ _ _
@[simp] theorem cues_handedOn (h : Req) (code : Nat) (s : State) : (s.handedOn h code).cues = s.cues := cues_setPort _ _ _
@[simp] theorem switches_handedOn (h : Req) (code : Nat) (s : State) : (s.handedOn h code).switches = s.switches := switches_setPort _ _ _
@[simp] theorem mixer_handedOn (h : Req) (code : Nat) (s : State) : (s.handedOn h code).mixer = s.mixer := mixer_setPort _ _ _
@[simp] theorem mem_handedOn (h : Req) (code : Nat) (s : State) : (s.handedOn h code).mem = s.mem := mem_setPort _ _ _
@[simp] theorem audio_handedOn (h : Req) (code : Nat) (s : State) : (s.handedOn h code).audio = s.audio := audio_setPort _ _ _
@[simp] theorem faults_handedOn (h : Req) (code : Nat) (s : State) : (s.handedOn h code).faults = s.faults := faults_setPort _ _ _

@[simp] theorem pending_replied (h : Req) (code : Nat) (st : Status) (l : List Byte) (s : State) : (s.replied h code st l).pending = s.pending := pending_setPort _ _ _
@[simp] theorem now_replied (h : Req) (code : Nat) (st : Status) (l : List Byte) (s : State) : (s.replied h code st l).now = s.now := now_setPort _ _ _
@[simp] theorem power_replied (h : Req) (code : Nat) (st : Status) (l : List Byte) (s : State) : (s.replied h code st l).power = s.power := power_setPort _ _ _
@[simp] theorem cycle_replied (h : Req) (code : Nat) (st : Status) (l : List Byte) (s : State) : (s.replied h code st l).cycle = s.cycle := cycle_setPort _ _ _
@[simp] theorem tracks_replied (h : Req) (code : Nat) (st : Status) (l : List Byte) (s : State) : (s.replied h code st l).tracks = s.tracks := tracks_setPort _ _ _
@[simp] theorem layers_replied (h : Req) (code : Nat) (st : Status) (l : List Byte) (s : State) : (s.replied h code st l).layers = s.layers := layers_setPort _ _ _
@[simp] theorem fresh_replied (h : Req) (code : Nat) (st : Status) (l : List Byte) (s : State) : (s.replied h code st l).fresh = s.fresh := fresh_setPort _ _ _
@[simp] theorem fold_replied (h : Req) (code : Nat) (st : Status) (l : List Byte) (s : State) : (s.replied h code st l).fold = s.fold := fold_setPort _ _ _
@[simp] theorem capture_replied (h : Req) (code : Nat) (st : Status) (l : List Byte) (s : State) : (s.replied h code st l).capture = s.capture := capture_setPort _ _ _
@[simp] theorem cues_replied (h : Req) (code : Nat) (st : Status) (l : List Byte) (s : State) : (s.replied h code st l).cues = s.cues := cues_setPort _ _ _
@[simp] theorem switches_replied (h : Req) (code : Nat) (st : Status) (l : List Byte) (s : State) : (s.replied h code st l).switches = s.switches := switches_setPort _ _ _
@[simp] theorem mixer_replied (h : Req) (code : Nat) (st : Status) (l : List Byte) (s : State) : (s.replied h code st l).mixer = s.mixer := mixer_setPort _ _ _
@[simp] theorem mem_replied (h : Req) (code : Nat) (st : Status) (l : List Byte) (s : State) : (s.replied h code st l).mem = s.mem := mem_setPort _ _ _
@[simp] theorem audio_replied (h : Req) (code : Nat) (st : Status) (l : List Byte) (s : State) : (s.replied h code st l).audio = s.audio := audio_setPort _ _ _
@[simp] theorem faults_replied (h : Req) (code : Nat) (st : Status) (l : List Byte) (s : State) : (s.replied h code st l).faults = s.faults := faults_setPort _ _ _

@[simp] theorem pending_cutReads (id n : Nat) (s : State) : (s.cutReads id n).pending = s.pending := by unfold State.cutReads; split <;> rfl
@[simp] theorem now_cutReads (id n : Nat) (s : State) : (s.cutReads id n).now = s.now := by unfold State.cutReads; split <;> rfl
@[simp] theorem power_cutReads (id n : Nat) (s : State) : (s.cutReads id n).power = s.power := by unfold State.cutReads; split <;> rfl
@[simp] theorem cycle_cutReads (id n : Nat) (s : State) : (s.cutReads id n).cycle = s.cycle := by unfold State.cutReads; split <;> rfl
@[simp] theorem tracks_cutReads (id n : Nat) (s : State) : (s.cutReads id n).tracks = s.tracks := by unfold State.cutReads; split <;> rfl
@[simp] theorem layers_cutReads (id n : Nat) (s : State) : (s.cutReads id n).layers = s.layers := by unfold State.cutReads; split <;> rfl
@[simp] theorem fresh_cutReads (id n : Nat) (s : State) : (s.cutReads id n).fresh = s.fresh := by unfold State.cutReads; split <;> rfl
@[simp] theorem fold_cutReads (id n : Nat) (s : State) : (s.cutReads id n).fold = s.fold := by unfold State.cutReads; split <;> rfl
@[simp] theorem capture_cutReads (id n : Nat) (s : State) : (s.cutReads id n).capture = s.capture := by unfold State.cutReads; split <;> rfl
@[simp] theorem cues_cutReads (id n : Nat) (s : State) : (s.cutReads id n).cues = s.cues := by unfold State.cutReads; split <;> rfl
@[simp] theorem switches_cutReads (id n : Nat) (s : State) : (s.cutReads id n).switches = s.switches := by unfold State.cutReads; split <;> rfl
@[simp] theorem mixer_cutReads (id n : Nat) (s : State) : (s.cutReads id n).mixer = s.mixer := by unfold State.cutReads; split <;> rfl
@[simp] theorem audio_cutReads (id n : Nat) (s : State) : (s.cutReads id n).audio = s.audio := by unfold State.cutReads; split <;> rfl
@[simp] theorem faults_cutReads (id n : Nat) (s : State) : (s.cutReads id n).faults = s.faults := by unfold State.cutReads; split <;> rfl
@[simp] theorem portA_cutReads (id n : Nat) (s : State) : (s.cutReads id n).portA = s.portA := by unfold State.cutReads; split <;> rfl
@[simp] theorem portB_cutReads (id n : Nat) (s : State) : (s.cutReads id n).portB = s.portB := by unfold State.cutReads; split <;> rfl

/-- What ending a layer at a length below its own does to the read granted for it (R140). -/
theorem grant_cutReads {id n : Nat} {l : Layer} {s : State} (h : s.layer? id = some l) (hs : l.state ≠ .opened)
    (hn : n < l.length) :
    (s.cutReads id n).mem.grant = s.mem.grant.map (Grant.onReading (Reading.truncated id)) := by
  simp [State.cutReads, State.truncates, h, hs, hn]

/-! ### Reading back -/

@[simp] theorem port_setPort (p : Port) (c : PortCtl) (s : State) : (s.setPort p c).port p = c := by cases p <;> rfl

@[simp] theorem port_setPort_other (p : Port) (c : PortCtl) (s : State) : (s.setPort p c).port p.other = s.port p.other := by
  cases p <;> rfl

@[simp] theorem setPort_setPort (p : Port) (c d : PortCtl) (s : State) : (s.setPort p c).setPort p d = s.setPort p d := by
  cases p <;> rfl

@[simp] theorem setPort_port (p : Port) (s : State) : s.setPort p (s.port p) = s := by cases p <;> rfl

theorem track_setTrack (t u : TrackId) (tr : Track) (s : State) :
    (s.setTrack t tr).track u = if t = u then tr else s.track u := by
  simp only [State.track, State.setTrack, Fin.getElem_fin, Vector.getElem_set, Fin.ext_iff]

@[simp] theorem track_setTrack_same (t : TrackId) (tr : Track) (s : State) : (s.setTrack t tr).track t = tr := by
  simp [track_setTrack]

theorem track_modTrack (t u : TrackId) (f : Track → Track) (s : State) :
    (s.modTrack t f).track u = if t = u then f (s.track t) else s.track u := track_setTrack _ _ _ _

theorem assocFind_insert {α : Type} (k j : Nat) (v : α) (l : List (Nat × α)) :
    assocFind j (assocInsert k v l) = if j = k then some v else assocFind j l := by
  induction l with
  | nil => simp [assocInsert, assocFind, eq_comm]
  | cons x l ih =>
    obtain ⟨i, w⟩ := x
    unfold assocInsert
    split
    · simp [assocFind, eq_comm]
    · split
      · next h => subst h; by_cases hj : k = j <;> simp [assocFind, hj, eq_comm]
      · next h1 h2 =>
        by_cases hj : j = k
        · subst hj; simp [assocFind, ih, Ne.symm h2]
        · simp [assocFind, ih, hj]

theorem layer?_setLayer (id j : Nat) (l : Layer) (s : State) :
    (s.setLayer id l).layer? j = if j = id then some l else s.layer? j := assocFind_insert _ _ _ _

@[simp] theorem layer?_setLayer_same (id : Nat) (l : Layer) (s : State) : (s.setLayer id l).layer? id = some l := by
  simp [layer?_setLayer]

theorem layer?_modLayer (id j : Nat) (f : Layer → Layer) (s : State) :
    (s.modLayer id f).layer? j = if j = id then (s.layer? id).map f else s.layer? j := by
  unfold State.modLayer
  split
  · next l hl => simp [layer?_setLayer, hl]
  · next hl => split <;> simp_all

@[simp] theorem window_setWindow (p : Port) (w : Option Window) (s : State) : (s.setWindow p w).window p = w := by
  cases p <;> rfl

@[simp] theorem window_setWindow_other (p : Port) (w : Option Window) (s : State) :
    (s.setWindow p w).window p.other = s.window p.other := by cases p <;> rfl

@[simp] theorem switchPort_setSwitchPort (p : Port) (c : SwitchPort) (s : State) : (s.setSwitchPort p c).switchPort p = c := by
  cases p <;> rfl

@[simp] theorem waitOf_setWait (who : Background) (w : Wait) (s : State) : (s.setWait who w).waitOf who = w := by
  cases who <;> rfl

@[simp] theorem grant_setGrant (g : Option Grant) (s : State) : (s.setGrant g).mem.grant = g := rfl

@[simp] theorem machine_setMachine (p : Port) (code : SwitchCode) (m : Machine) (s : State) :
    (s.setMachine p code m).machine p code = m := by
  cases p <;> simp [State.setMachine, State.machine, State.setSwitchPort, State.switchPort]

@[simp] theorem port_handedOn (h : Req) (code : Nat) (s : State) :
    (s.handedOn h code).port h.port =
      { s.port h.port with
        transfer := none
        shifted := s.requestByte h.port :: List.replicate (3 + h.len.toNat) 0
        reply := .pending h.tag (BitVec.ofNat 8 code) } := port_setPort _ _ _

@[simp] theorem port_replied (h : Req) (code : Nat) (st : Status) (l : List Byte) (s : State) :
    (s.replied h code st l).port h.port =
      { s.port h.port with
        reply := .full { status := st, tag := h.tag, code := BitVec.ofNat 8 code, results := l } } := port_setPort _ _ _

@[simp] theorem layer?_setPort (p : Port) (c : PortCtl) (s : State) (id : Nat) : (s.setPort p c).layer? id = s.layer? id := by
  simp [State.layer?]

@[simp] theorem track_setPort (p : Port) (c : PortCtl) (s : State) (t : TrackId) : (s.setPort p c).track t = s.track t := by
  simp [State.track]

@[simp] theorem window_setPort (p q : Port) (c : PortCtl) (s : State) : (s.setPort p c).window q = s.window q := by
  cases q <;> simp [State.window]

@[simp] theorem switchPort_setPort (p q : Port) (c : PortCtl) (s : State) : (s.setPort p c).switchPort q = s.switchPort q := by
  cases q <;> simp [State.switchPort]

@[simp] theorem layer?_handedOn (h : Req) (code : Nat) (s : State) (id : Nat) : (s.handedOn h code).layer? id = s.layer? id :=
  layer?_setPort _ _ _ _

@[simp] theorem track_handedOn (h : Req) (code : Nat) (s : State) (t : TrackId) : (s.handedOn h code).track t = s.track t :=
  track_setPort _ _ _ _

@[simp] theorem window_handedOn (h : Req) (code : Nat) (s : State) (q : Port) : (s.handedOn h code).window q = s.window q :=
  window_setPort _ _ _ _

@[simp] theorem switchPort_handedOn (h : Req) (code : Nat) (s : State) (q : Port) :
    (s.handedOn h code).switchPort q = s.switchPort q := switchPort_setPort _ _ _ _

end Sys2Proof.Machine
end

