-- ==== Sys2Proof/Laws/Memory.lean ====
section
/-! SUPPORT. The loop memory's words: reading after writing, and that every write keeps the canonical form. -/
namespace Sys2Proof.Machine

open Sys2Proof

variable {α : Type}

/-! ### Sparse lists -/

theorem insert_keys {k : Nat} {v : α} {l : List (Nat × α)} {e : Nat × α} (h : e ∈ assocInsert k v l) :
    e = (k, v) ∨ e ∈ l := by
  induction l with
  | nil => simpa [assocInsert] using h
  | cons x l ih =>
    unfold assocInsert at h
    split at h
    · simpa using h
    · split at h
      · simp only [List.mem_cons] at h ⊢; exact h.imp_right Or.inr
      · simp only [List.mem_cons] at h ⊢
        rcases h with h | h
        · exact Or.inr (Or.inl h)
        · rcases ih h with h | h
          · exact Or.inl h
          · exact Or.inr (Or.inr h)

theorem erase_keys {k : Nat} {l : List (Nat × α)} {e : Nat × α} (h : e ∈ assocErase k l) : e ∈ l := by
  induction l with
  | nil => simp [assocErase] at h
  | cons x l ih =>
    unfold assocErase at h
    split at h
    · exact List.mem_cons_of_mem _ h
    · simp only [List.mem_cons] at h ⊢
      rcases h with h | h
      · exact Or.inl h
      · exact Or.inr (ih h)

theorem insert_sorted {k : Nat} {v : α} {l : List (Nat × α)} (h : l.Pairwise (fun e f => e.1 < f.1)) :
    (assocInsert k v l).Pairwise (fun e f => e.1 < f.1) := by
  induction l with
  | nil => simp [assocInsert]
  | cons x l ih =>
    rw [List.pairwise_cons] at h
    unfold assocInsert
    split
    · next hk =>
      refine List.pairwise_cons.mpr ⟨?_, List.pairwise_cons.mpr h⟩
      intro e he
      rcases List.mem_cons.mp he with he | he
      · subst he; exact hk
      · exact Nat.lt_trans hk (h.1 e he)
    · split
      · next hk => subst hk; exact List.pairwise_cons.mpr ⟨fun e he => h.1 e he, h.2⟩
      · refine List.pairwise_cons.mpr ⟨?_, ih h.2⟩
        intro e he
        rcases insert_keys he with he | he
        · subst he; simp only; omega
        · exact h.1 e he

theorem erase_sorted {k : Nat} {l : List (Nat × α)} (h : l.Pairwise (fun e f => e.1 < f.1)) :
    (assocErase k l).Pairwise (fun e f => e.1 < f.1) := by
  induction l with
  | nil => simp [assocErase]
  | cons x l ih =>
    rw [List.pairwise_cons] at h
    unfold assocErase
    split
    · exact h.2
    · exact List.pairwise_cons.mpr ⟨fun e he => h.1 e (erase_keys he), ih h.2⟩

/-- A write keeps the canonical form of a sparse array. -/
theorem sparsePut_wf [DecidableEq α] {d : α} {k : Nat} {v : α} {l : List (Nat × α)} (h : sparseWf d l) :
    sparseWf d (sparsePut d k v l) := by
  unfold sparsePut
  split
  · exact ⟨erase_sorted h.1, fun e he => h.2 e (erase_keys he)⟩
  · next hv =>
    refine ⟨insert_sorted h.1, fun e he => ?_⟩
    rcases insert_keys he with he | he
    · subst he; exact hv
    · exact h.2 e he

theorem find_absent {k : Nat} {l : List (Nat × α)} (h : ∀ e ∈ l, k < e.1) : assocFind k l = none := by
  induction l with
  | nil => rfl
  | cons x l ih =>
    have := h x (by simp)
    simp only [assocFind, if_neg (show ¬ x.1 = k by omega)]
    exact ih fun e he => h e (by simp [he])

theorem find_erase (k j : Nat) {l : List (Nat × α)} (h : l.Pairwise (fun e f => e.1 < f.1)) :
    assocFind j (assocErase k l) = if j = k then none else assocFind j l := by
  induction l with
  | nil => simp [assocErase, assocFind]
  | cons x l ih =>
    rw [List.pairwise_cons] at h
    unfold assocErase
    split
    · next hk =>
      split
      · next hj => subst hj; exact find_absent fun e he => hk ▸ h.1 e he
      · next hj => simp only [assocFind, if_neg (show ¬ x.1 = j by omega)]
    · next hk =>
      simp only [assocFind, ih h.2]
      by_cases hj : j = k
      · subst hj; simp [hk]
      · simp [hj]

/-- Reading a sparse array after a write (R144). -/
theorem sparseGet_put [DecidableEq α] (d : α) (k j : Nat) (v : α) {l : List (Nat × α)} (h : sparseWf d l) :
    sparseGet d j (sparsePut d k v l) = if j = k then v else sparseGet d j l := by
  unfold sparseGet sparsePut
  split
  · next hv => rw [find_erase k j h.1]; split <;> simp [hv]
  · rw [assocFind_insert]; split <;> simp

/-! ### Words and bursts -/

theorem writeWords_wf {addr : Nat} {xs : List Sample} {l : List (Nat × Sample)} (h : sparseWf unwrittenWord l) :
    sparseWf unwrittenWord (writeWords addr xs l) := by
  induction xs generalizing addr l with
  | nil => exact h
  | cons x xs ih => exact ih (sparsePut_wf h)

/-- Reading a word after consecutive words were written. -/
theorem get_writeWords (addr a : Nat) (xs : List Sample) {l : List (Nat × Sample)} (h : sparseWf unwrittenWord l) :
    sparseGet unwrittenWord a (writeWords addr xs l) =
      if addr ≤ a ∧ a < addr + xs.length then xs.getD (a - addr) 0 else sparseGet unwrittenWord a l := by
  induction xs generalizing addr l with
  | nil => simp [writeWords]
  | cons x xs ih =>
    rw [writeWords, ih (addr + 1) (sparsePut_wf h), sparseGet_put _ _ _ _ h]
    by_cases h1 : a = addr
    · subst h1; rw [if_neg (by omega), if_pos rfl, if_pos (by simp)]; simp
    · by_cases h2 : addr + 1 ≤ a ∧ a < addr + 1 + xs.length
      · have : a - addr = (a - (addr + 1)) + 1 := by omega
        have h3 : addr ≤ a ∧ a < addr + (x :: xs).length := by simp; omega
        rw [if_pos h2, if_pos h3, this]; simp
      · have h3 : ¬ (addr ≤ a ∧ a < addr + (x :: xs).length) := by simp; omega
        rw [if_neg h2, if_neg h3, if_neg h1]

/-- Storing a burst keeps the loop memory's canonical form (R144). -/
theorem storeBurst_wf {m : MemCtl} {block : Option Nat} {o : Nat} {xs : List Sample} (h : Memory.wf m) :
    Memory.wf (m.storeBurst block o xs) := by
  cases block with
  | none => exact h
  | some b => exact writeWords_wf h

/-- What a word reads as after a burst was stored (R144). -/
theorem readWord_storeBurst {m : MemCtl} (b o a : Nat) (xs : List Sample) (h : Memory.wf m) :
    (m.storeBurst (some b) o xs).readWord a =
      if wordAddr b (o % 4096) ≤ a ∧ a < wordAddr b (o % 4096) + xs.length then
        xs.getD (a - wordAddr b (o % 4096)) 0
      else m.readWord a := get_writeWords _ _ _ h

theorem wf_of_words {m n : MemCtl} (e : n.words = m.words) (h : Memory.wf m) : Memory.wf n := by
  unfold Memory.wf; rw [e]; exact h

end Sys2Proof.Machine
end

