-- ==== Sys2Proof/Laws/LayersFreed.lean ====
section
/-! SUPPORT. What freeing layers leaves of the state (R28, R155). -/
namespace Sys2Proof.Machine

open Sys2Proof

/-- Membership after a block joins the bad-block list. -/
theorem mem_addBad (b c : Nat) (l : List Nat) : c ∈ addBad b l ↔ c = b ∨ c ∈ l := by
  induction l with
  | nil => simp [addBad]
  | cons x l ih => unfold addBad; split; · simp
                   split
                   · next h => subst h; simp
                   · simp [ih]; tauto
theorem mem_foldl_addBad (c : Nat) (bs : List Nat) : ∀ l : List Nat, c ∈ bs.foldl (fun l b => addBad b l) l ↔ c ∈ bs ∨ c ∈ l := by
  induction bs with
  | nil => simp
  | cons b bs ih => intro l; simp [ih, mem_addBad]; tauto

/-- Losing the window that a port has open on a layer changes that window, its wait and the port controllers alone (R28, R155). -/
theorem loseWindowOn_eq (id : Nat) (c : LostCause) (p : Port) (s : State) :
    ∃ m a b, s.loseWindowOn id c p = { s with mem := m, portA := a, portB := b }
      ∧ m.free = s.mem.free ∧ m.bad = s.mem.bad ∧ m.queue = s.mem.queue ∧ m.words = s.mem.words
      ∧ (∀ q, (s.loseWindowOn id c p).window q = if q = p then (s.window q).bind (fun w => if w.layer = id then none else some w) else s.window q)
      ∧ (s.window p = none → s.loseWindowOn id c p = s) := by
  unfold State.loseWindowOn
  cases hw : s.window p with
  | none => exact ⟨s.mem, s.portA, s.portB, rfl, rfl, rfl, rfl, rfl, fun q => by split <;> simp_all, fun _ => rfl⟩
  | some w =>
    simp only []
    by_cases hl : w.layer = id
    · rw [if_pos hl]
      unfold State.loseWindow
      rw [hw]
      simp only []
      cases p <;> cases w.closing <;> simp only [Bool.false_eq_true, if_false, if_true]
      all_goals
        try unfold State.completeReply
      all_goals first
        | (refine ⟨_, _, _, rfl, rfl, rfl, rfl, rfl, fun q => ?_, by simp⟩; cases q <;> simp [State.window] at hw ⊢ <;> simp [hw, hl] <;> rfl)
        | (split
           · refine ⟨_, _, _, rfl, rfl, rfl, rfl, rfl, fun q => ?_, by simp⟩; cases q <;> simp [State.window, State.fillReply, State.setPort] at hw ⊢ <;> simp [hw, hl] <;> rfl
           · refine ⟨_, _, _, rfl, rfl, rfl, rfl, rfl, fun q => ?_, by simp⟩; cases q <;> simp [State.window] at hw ⊢ <;> simp [hw, hl] <;> rfl)
    · rw [if_neg hl]
      exact ⟨s.mem, s.portA, s.portB, rfl, rfl, rfl, rfl, rfl, fun q => by split <;> simp_all, by simp⟩

/-- What freeing a list of layers leaves (R28): their records gone, their blocks given back in turn, their queued bursts withdrawn, their capture records free and their windows lost; the cycle, the tracks, the fold, the cues and the faults stand. -/
structure FreedAs (ids : List Nat) (s v : State) : Prop where
  frame : v = { s with layers := v.layers, fresh := v.fresh, capture := { s.capture with records := v.capture.records }, mem := v.mem, portA := v.portA, portB := v.portB }
  layer : ∀ j, v.layer? j = if j ∈ ids then none else s.layer? j
  free : v.mem.free = s.mem.free ++ ids.flatMap (fun j => match s.layer? j with
          | some l => l.extents.filter fun b => !l.suspects.contains b
          | none => [])
  bad : ∀ b, b ∈ v.mem.bad ↔ b ∈ s.mem.bad
          ∨ ∃ j ∈ ids, ∃ l, s.layer? j = some l ∧ b ∈ l.extents ∧ b ∈ l.suspects
  queue : v.mem.queue = s.mem.queue.filter (fun b => !ids.contains b.layer)
  words : v.mem.words = s.mem.words
  recs : ∀ i : Fin 12, v.capture.records[i] = (s.capture.records[i]).bind fun r => if r.layer ∈ ids then none else some r
  win : ∀ p, v.window p = (s.window p).bind fun w => if w.layer ∈ ids then none else some w
  ports : s.window .a = none → s.window .b = none → v.portA = s.portA ∧ v.portB = s.portB
  sorted : s.layers.Pairwise (fun x y => x.1 < y.1) → v.layers.Pairwise (fun x y => x.1 < y.1)

/-- Freeing one layer of a pool in canonical form (R28). -/
theorem freedAs_freeLayer {id : Nat} {c : LostCause} {s : State} {l : Layer} (hs : s.layers.Pairwise (fun x y => x.1 < y.1)) (hl : s.layer? id = some l) :
    FreedAs [id] s (s.freeLayer c id) := by
  obtain ⟨m1, a1, b1, e1, f1, g1, q1, w1, win1, n1⟩ := loseWindowOn_eq id c .a s
  obtain ⟨m2, a2, b2, e2, f2, g2, q2, w2, win2, n2⟩ := loseWindowOn_eq id c .b (s.loseWindowOn id c .a)
  unfold State.freeLayer
  simp only [hl, State.loseWindowsOn]
  generalize hy : (s.loseWindowOn id c .a).loseWindowOn id c .b = y at *
  have hym : y.mem = m2 := by rw [e2]
  have ey : y = { s with mem := m2, portA := y.portA, portB := y.portB } := by rw [e2, e1]
  rw [ey]
  refine ⟨rfl, ?_, ?_, ?_, ?_, ?_, ?_, ?_, ?_, ?_⟩
  · intro j; simp only [State.layer?, State.dropRecord]; rw [find_erase id j hs]; simp
  · simp [State.dropRecord, MemCtl.giveBack, f2, e1, f1, hl]
  · intro b; simp [State.dropRecord, MemCtl.giveBack, g2, e1, g1, hl, mem_foldl_addBad]; tauto
  · simp [State.dropRecord, MemCtl.giveBack, q2, e1, q1]; rfl
  · simp [State.dropRecord, MemCtl.giveBack, w2, e1, w1]
  · intro i; simp [State.dropRecord]; cases s.capture.records[i] <;> simp
  · intro p
    have h2 := win2 p
    have h1 := win1 p
    have hyw : y.window p = State.window { s with mem := m2 } p := by cases p <;> simp [State.window, hym]
    have : State.window ({ s with mem := m2 }) p = (s.window p).bind fun w => if w.layer ∈ [id] then none else some w := by
      rw [← hyw, h2, h1]
      cases p <;> simp
    rw [← this]
    cases p <;> rfl
  · intro ha hb
    have := n1 ha
    rw [this] at n2 hy
    have := n2 hb
    show y.portA = s.portA ∧ y.portB = s.portB
    rw [this]; exact ⟨rfl, rfl⟩
  · intro _; exact erase_sorted hs

/-- Freeing a list of layers of a pool in canonical form, one after the other (R28). -/
theorem freedAs_freeAll {c : LostCause} : ∀ (ids : List Nat) (s : State), s.layers.Pairwise (fun x y => x.1 < y.1) → ids.Nodup →
    (∀ j ∈ ids, ∃ l, s.layer? j = some l) → FreedAs ids s (State.freeAll c ids s) := by
  intro ids
  induction ids with
  | nil =>
    intro s hs _ _
    exact ⟨rfl, by simp [State.freeAll], by simp [State.freeAll], by simp [State.freeAll], by simp [State.freeAll], rfl, fun i => by simp [State.freeAll], fun p => by simp [State.freeAll], fun _ _ => ⟨rfl, rfl⟩, fun h => h⟩
  | cons x xs ih =>
    intro s hs hn hp
    obtain ⟨l, hl⟩ := hp x (by simp)
    have h1 := freedAs_freeLayer (c := c) hs hl
    rw [List.nodup_cons] at hn
    have lay : ∀ j ∈ xs, (s.freeLayer c x).layer? j = s.layer? j := by
      intro j hj
      rw [h1.layer, if_neg]
      simp; rintro rfl; exact hn.1 hj
    have h2 := ih (s.freeLayer c x) (h1.sorted hs) hn.2 (fun j hj => by rw [lay j hj]; exact hp j (by simp [hj]))
    show FreedAs _ s (State.freeAll c xs (s.freeLayer c x))
    refine ⟨?_, ?_, ?_, ?_, ?_, ?_, ?_, ?_, ?_, fun h => h2.sorted (h1.sorted h)⟩
    · have a := h2.frame
      have b := h1.frame
      rw [a]
      generalize State.freeAll c xs (s.freeLayer c x) = v at *
      rw [b]
    · intro j; rw [h2.layer, h1.layer]; simp; by_cases j = x <;> by_cases j ∈ xs <;> simp_all
    · rw [h2.free, h1.free]; simp
      rw [List.flatMap_def, List.flatMap_def]
      congr 1
      apply List.map_congr_left
      intro j hj; rw [lay j hj]
    · intro b; rw [h2.bad, h1.bad]; simp
      constructor
      · rintro ((h | h) | ⟨j, hj, m, hm, h⟩)
        · exact .inl h
        · exact .inr (.inl h)
        · rw [lay j hj] at hm; exact .inr (.inr ⟨j, hj, m, hm, h⟩)
      · rintro (h | h | ⟨j, hj, m, hm, h⟩)
        · exact .inl (.inl h)
        · exact .inl (.inr h)
        · exact .inr ⟨j, hj, m, by rw [lay j hj]; exact hm, h⟩
    · rw [h2.queue, h1.queue]; simp only [List.filter_filter]; congr 1; funext b; simp; cases decide (b.layer = x) <;> simp
    · rw [h2.words, h1.words]
    · intro i; rw [h2.recs, h1.recs]; cases s.capture.records[i] with
      | none => rfl
      | some r => simp; by_cases r.layer = x <;> simp_all
    · intro p; rw [h2.win, h1.win]; cases s.window p with
      | none => rfl
      | some r => simp; by_cases r.layer = x <;> simp_all
    · intro ha hb
      have := h1.ports ha hb
      have b := h2.ports (by rw [h1.win, ha]; rfl) (by rw [h1.win, hb]; rfl)
      exact ⟨b.1.trans this.1, b.2.trans this.2⟩

end Sys2Proof.Machine
end

