-- ==== Sys2Proof/Laws/PerInstr.lean ====
section
/-! SUPPORT. Facts about each command as syntax, one lemma for each constructor. -/
namespace Sys2Proof.Laws.RequestBytes

open Sys2Proof

/-- A command has REQUEST bytes exactly when it is a REQUEST transfer of a port, and its argument bytes fill the length that the request table gives (R187, R197). -/
def Statement (i : Instr) : Prop :=
  (encodeRequest i).isSome = (requestPort i).isSome
    ∧ ∀ h code n a, requestFields i = some (h, code, n, a) → a.length = n

theorem of_fields {i : Instr} {h : Req} {code : Byte} {n : Nat} {a : List Byte} (hf : requestFields i = some (h, code, n, a))
    (he : (encodeRequest i).isSome = (requestPort i).isSome) (hl : a.length = n) : Statement i :=
  ⟨he, fun _ _ _ _ e => by rw [hf] at e; simp only [Option.some.injEq, Prod.mk.injEq] at e; obtain ⟨-, -, rfl, rfl⟩ := e; exact hl⟩

theorem of_none {i : Instr} (hf : requestFields i = none) (he : (encodeRequest i).isSome = (requestPort i).isSome) : Statement i :=
  ⟨he, fun _ _ _ _ e => by rw [hf] at e; simp at e⟩

theorem reset : Statement (.reset) := of_none rfl rfl

theorem pwrlowAssert : Statement (.pwrlowAssert) := of_none rfl rfl

theorem pwrlowRelease : Statement (.pwrlowRelease) := of_none rfl rfl

theorem frameSync (clocks : Nat) (adin : BitVec 256) (ord : Order) : Statement (.frameSync clocks adin ord) := of_none rfl rfl

theorem watchdogExpiry : Statement (.watchdogExpiry) := of_none rfl rfl

theorem holdDeadline (p : Port) (code : SwitchCode) : Statement (.holdDeadline p code) := of_none rfl rfl

theorem windowDeadline (p : Port) (code : SwitchCode) : Statement (.windowDeadline p code) := of_none rfl rfl

theorem backgroundLockout (who : Background) : Statement (.backgroundLockout who) := of_none rfl rfl

theorem writeTimeout : Statement (.writeTimeout) := of_none rfl rfl

theorem windowRequestTimeout (p : Port) : Statement (.windowRequestTimeout p) := of_none rfl rfl

theorem refreshDue : Statement (.refreshDue) := of_none rfl rfl

theorem arbiterGrant : Statement (.arbiterGrant) := of_none rfl rfl

theorem refreshComplete : Statement (.refreshComplete) := of_none rfl rfl

theorem playbackReadComplete (checks : List WordCheck) : Statement (.playbackReadComplete checks) := of_none rfl rfl

theorem captureWriteComplete : Statement (.captureWriteComplete) := of_none rfl rfl

theorem foldBurstComplete (checks : List WordCheck) : Statement (.foldBurstComplete checks) := of_none rfl rfl

theorem windowReadComplete (checks : List WordCheck) : Statement (.windowReadComplete checks) := of_none rfl rfl

theorem windowCommitComplete : Statement (.windowCommitComplete) := of_none rfl rfl

theorem waitingBurstHandover : Statement (.waitingBurstHandover) := of_none rfl rfl

theorem blockTest (corrected : Nat) (passed : Bool) : Statement (.blockTest corrected passed) := of_none rfl rfl

theorem memoryTestDone : Statement (.memoryTestDone) := of_none rfl rfl

theorem enterSelfRefresh : Statement (.enterSelfRefresh) := of_none rfl rfl

theorem requestCut (p : Port) (bytes : List Byte) : Statement (.requestCut p bytes) := of_none rfl rfl

theorem unknownRequest (h : Req) (code : Byte) : Statement (.unknownRequest h code) := of_none rfl rfl

theorem readReply (p : Port) (fall : Bool) (n : Nat) (rise : Bool) : Statement (.readReply p fall n rise) := of_none rfl rfl

theorem readEvents (p : Port) (fall : Bool) (n : Nat) (rise : Bool) : Statement (.readEvents p fall n rise) := of_none rfl rfl

theorem windowRead (p : Port) (fall : Bool) (n : Nat) (rise : Bool) : Statement (.windowRead p fall n rise) := of_none rfl rfl

theorem windowWrite (p : Port) (fall : Bool) (bytes : List Byte) (rise : Bool) : Statement (.windowWrite p fall bytes rise) := of_none rfl rfl

theorem status (h : Req) : Statement (.status h) := of_fields rfl rfl rfl

theorem identify (h : Req) : Statement (.identify h) := of_fields rfl rfl rfl

theorem setInterest (h : Req) (kinds : BitVec 32) : Statement (.setInterest h kinds) := of_fields rfl rfl rfl

theorem setMaskLevel (h : Req) (level : Byte) : Statement (.setMaskLevel h level) := of_fields rfl rfl rfl

theorem postNote (h : Req) (note : List Byte) : Statement (.postNote h note) := of_fields rfl rfl rfl

theorem takeNote (h : Req) : Statement (.takeNote h) := of_fields rfl rfl rfl

theorem setTempo (h : Req) (bpm10 : BitVec 16) (beats : Byte) : Statement (.setTempo h bpm10 beats) := of_fields rfl rfl rfl

theorem setLength (h : Req) (frames : BitVec 32) : Statement (.setLength h frames) := of_fields rfl rfl rfl

theorem setGrid (h : Req) (beats : Byte) (perBar : Byte) : Statement (.setGrid h beats perBar) := of_fields rfl rfl rfl

theorem setGrace (h : Req) (frames : BitVec 16) : Statement (.setGrace h frames) := of_fields rfl rfl rfl

theorem tap (h : Req) : Statement (.tap h) := of_fields rfl rfl rfl

theorem playAll (h : Req) (quantum : Byte) : Statement (.playAll h quantum) := of_fields rfl rfl rfl

theorem stopAll (h : Req) (quantum : Byte) : Statement (.stopAll h quantum) := of_fields rfl rfl rfl

theorem clearAll (h : Req) (quantum : Byte) : Statement (.clearAll h quantum) := of_fields rfl rfl rfl

theorem record (h : Req) (track quantum : Byte) : Statement (.record h track quantum) := of_fields rfl rfl rfl

theorem overdub (h : Req) (track quantum : Byte) : Statement (.overdub h track quantum) := of_fields rfl rfl rfl

theorem replace (h : Req) (track quantum : Byte) : Statement (.replace h track quantum) := of_fields rfl rfl rfl

theorem close (h : Req) (track quantum : Byte) : Statement (.close h track quantum) := of_fields rfl rfl rfl

theorem mute (h : Req) (track quantum : Byte) : Statement (.mute h track quantum) := of_fields rfl rfl rfl

theorem unmute (h : Req) (track quantum : Byte) : Statement (.unmute h track quantum) := of_fields rfl rfl rfl

theorem undo (h : Req) (track quantum : Byte) : Statement (.undo h track quantum) := of_fields rfl rfl rfl

theorem redo (h : Req) (track quantum : Byte) : Statement (.redo h track quantum) := of_fields rfl rfl rfl

theorem clearTrack (h : Req) (track quantum : Byte) : Statement (.clearTrack h track quantum) := of_fields rfl rfl rfl

theorem setTrack (h : Req) (track : Byte) (feedback front ear : BitVec 16) (sources : Byte) : Statement (.setTrack h track feedback front ear sources) := of_fields rfl rfl rfl

theorem setLayerGain (h : Req) (layer : Byte) (gain : BitVec 16) : Statement (.setLayerGain h layer gain) := of_fields rfl rfl rfl

theorem readTrack (h : Req) (track : Byte) : Statement (.readTrack h track) := of_fields rfl rfl rfl

theorem readLayer (h : Req) (layer : Byte) : Statement (.readLayer h layer) := of_fields rfl rfl rfl

theorem cancelCue (h : Req) (cue : BitVec 16) : Statement (.cancelCue h cue) := of_fields rfl rfl rfl

theorem readCues (h : Req) : Statement (.readCues h) := of_fields rfl rfl rfl

theorem setSwitch (h : Req) (code tapAct holdAct doubleAct target quantum : Byte) : Statement (.setSwitch h code tapAct holdAct doubleAct target quantum) := of_fields rfl rfl rfl

theorem setPressTiming (h : Req) (hold double : BitVec 16) : Statement (.setPressTiming h hold double) := of_fields rfl rfl rfl

theorem switchDown (h : Req) (code : Byte) : Statement (.switchDown h code) := of_fields rfl rfl rfl

theorem switchUp (h : Req) (code : Byte) : Statement (.switchUp h code) := of_fields rfl rfl rfl

theorem selectTrack (h : Req) (track : Byte) : Statement (.selectTrack h track) := of_fields rfl rfl rfl

theorem setMonitor (h : Req) (slot : Byte) (front ear : BitVec 16) : Statement (.setMonitor h slot front ear) := of_fields rfl rfl rfl

theorem setBus (h : Req) (front ear : BitVec 16) : Statement (.setBus h front ear) := of_fields rfl rfl rfl

theorem setClick (h : Req) (enable : Byte) (level : BitVec 24) : Statement (.setClick h enable level) := of_fields rfl rfl rfl

theorem setOutput (h : Req) (slot kind number : Byte) : Statement (.setOutput h slot kind number) := of_fields rfl rfl rfl

theorem setEdge (h : Req) (frames : BitVec 16) : Statement (.setEdge h frames) := of_fields rfl rfl rfl

theorem readClips (h : Req) (clear : Byte) : Statement (.readClips h clear) := of_fields rfl rfl rfl

theorem openWindow (h : Req) (layer : Byte) (offset : BitVec 32) (direction mode : Byte) : Statement (.openWindow h layer offset direction mode) := of_fields rfl rfl rfl

theorem closeWindow (h : Req) : Statement (.closeWindow h) := of_fields rfl rfl rfl

theorem importLayer (h : Req) (track span : Byte) (start length : BitVec 32) (cover : Byte) (gain : BitVec 16) : Statement (.importLayer h track span start length cover gain) := of_fields rfl rfl rfl

theorem setWindowTimeout (h : Req) (millis : BitVec 16) : Statement (.setWindowTimeout h millis) := of_fields rfl rfl rfl

theorem setLinkThreshold (h : Req) (frames : BitVec 16) : Statement (.setLinkThreshold h frames) := of_fields rfl rfl rfl

theorem clearLinkCount (h : Req) : Statement (.clearLinkCount h) := of_fields rfl rfl rfl

theorem readFaults (h : Req) : Statement (.readFaults h) := of_fields rfl rfl rfl

theorem clearFaults (h : Req) (sequence : BitVec 32) : Statement (.clearFaults h sequence) := of_fields rfl rfl rfl

theorem rest (h : Req) : Statement (.rest h) := of_fields rfl rfl rfl

theorem wake (h : Req) : Statement (.wake h) := of_fields rfl rfl rfl

theorem resetPart (h : Req) : Statement (.resetPart h) := of_fields rfl rfl rfl

theorem resetnLow : Statement (.resetnLow) := of_none rfl rfl

end Sys2Proof.Laws.RequestBytes
end

