-- ==== Sys2Proof/Laws/ReadAhead.lean ====
section
/-! SUPPORT. Read-ahead buffers and the layers they read: where a re-aimed buffer stands, what a placing leaves, which buffers wait as PLAYBACK, what topping up with the zeros of holes gives, which offsets are stored, and what ending a layer cuts (R69, R144, R147, R149). -/
namespace Sys2Proof.Machine

open Sys2Proof

/-! ### Re-aiming (R149) -/

/-- A re-aimed buffer is the one of R149's table, on a cycle that has a length while it is RUNNING. -/
theorem aimed_aimOf {s : State} {l : Layer} (h : s.cycle.state = .running → s.cycle.len.isSome = true) :
    ReadBuf.aimed (s.aimOf l) = s.cycle.aimedBuffer (s.track l.track).span l.startQ l.length := by
  have key : s.aimOf l = (s.cycle.aimedBuffer (s.track l.track).span l.startQ l.length).aim := by
    unfold State.aimOf Cycle.aimedBuffer
    cases hc : s.cycle.state <;> simp only []
    cases hs : (s.track l.track).span with
    | none => cases s.cycle.len <;> rfl
    | some x =>
      obtain ⟨len, hl⟩ := Option.isSome_iff_exists.mp (h hc)
      cases ho : s.cycle.origin <;> by_cases hw : s.cycle.pos + 1 = len <;>
        simp [hl, ho, hw, Cycle.nextPlace, Cycle.shownLen, trackPos] <;> split <;> split <;> omega
  rw [key]; rfl

/-- A layer whose buffer is re-aimed keeps everything else (R149). -/
theorem layer?_reaim {s : State} (id : Nat) {l : Layer} (hl : s.layer? id = some l)
    (h : s.cycle.state = .running → s.cycle.len.isSome = true) :
    (s.reaim id).layer? id = some { l with
      buf := s.cycle.aimedBuffer (s.track l.track).span l.startQ l.length } := by
  simp [State.reaim, layer?_modLayer, hl, aimed_aimOf h]

/-! ### Placing and waiting (R147) -/

/-- What placing a range of samples leaves of a buffer. -/
theorem place_eq_placed (b : ReadBuf) (l : Layer) (stop : Nat) (r : Range) (xs : List Sample) :
    b.place r xs stop (l.state != .opened) = b.placed l stop r xs := by
  by_cases h : stop ≤ r.first + r.len <;> simp [ReadBuf.place, ReadBuf.placed, Range.stop, h]

theorem lengthOf_eq_bufferEnd (s : State) (id : Nat) (l : Layer) : s.lengthOf id l = s.bufferEnd id l := by
  unfold State.lengthOf State.bufferEnd State.taken
  rfl

theorem bufInUse_iff (s : State) (id : Nat) (l : Layer) : s.bufInUse id l = true ↔ s.BufferUsed id l := by
  unfold State.bufInUse State.BufferUsed State.isFoldResult
  cases l.state <;> simp [Option.isSome_iff_ne_none]
  cases s.fold <;> simp

theorem inHoles_iff (l : Layer) (r : Range) : l.inHoles r = true ↔ l.SilentOver r := by
  simp only [Layer.inHoles, Layer.SilentOver, List.all_eq_true, List.mem_range]
  constructor
  · intro h o h1 h2
    have := h (o - r.first) (by omega)
    rwa [Nat.add_sub_cancel' h1] at this
  · intro h i hi; exact h _ (by omega) (by omega)

theorem ready_iff (l : Layer) (r : Range) : l.ready r = true ↔
    ∀ o, r.first ≤ o → o < r.first + r.len → inRanges o l.stored = true ∨ inRanges o l.holes = true := by
  simp only [Layer.ready, Layer.readyAt, List.all_eq_true, List.mem_range, Bool.or_eq_true]
  constructor
  · intro h o h1 h2
    have := h (o - r.first) (by omega)
    rwa [Nat.add_sub_cancel' h1] at this
  · intro h i hi; exact h _ (by omega) (by omega)

/-- The range that a buffer looks at is its next range while it has room and no read in flight. -/
theorem looksAt_iff (b : ReadBuf) (l : Layer) (stop : Nat) (r : Range) :
    b.LooksAt l stop r ↔ b.data.length ≤ 64 ∧ b.flight = false
      ∧ b.nextRange stop (l.state != .opened) = some r := by
  unfold ReadBuf.LooksAt ReadBuf.nextRange ReadBuf.nextFill
  obtain ⟨first, len⟩ := r
  simp only [Bool.and_eq_true, bne_iff_ne, decide_eq_true_eq, Option.ite_none_left_eq_some, Option.some.injEq,
    Range.mk.injEq, not_le]
  constructor
  · rintro ⟨h1, h2, rfl, h4, rfl⟩; exact ⟨h1, h2, h4, rfl, rfl⟩
  · rintro ⟨h1, h2, h4, rfl, rfl⟩; exact ⟨h1, h2, rfl, h4, rfl⟩

/-- The range for which a buffer waits as a PLAYBACK requester: the one it looks at, once it is ready and not wholly in holes. -/
theorem playbackRange_iff (s : State) (id : Nat) (l : Layer) (r : Range) :
    s.playbackRange id l = some r ↔ s.BufferUsed id l ∧ l.buf.LooksAt l (s.bufferEnd id l) r
      ∧ l.ready r = true ∧ ¬ l.SilentOver r := by
  rw [← bufInUse_iff, looksAt_iff, ← lengthOf_eq_bufferEnd, ← inHoles_iff]
  unfold State.playbackRange
  cases s.bufInUse id l <;> cases l.buf.flight <;> by_cases hd : l.buf.data.length ≤ 64 <;> simp [hd]
  cases l.buf.nextRange (s.lengthOf id l) (l.state != .opened) with
  | none => simp
  | some q =>
    simp only [Option.ite_none_right_eq_some, Option.some.injEq]
    constructor
    · rintro ⟨⟨h1, h2⟩, rfl⟩; exact ⟨rfl, h1, h2⟩
    · rintro ⟨rfl, h1, h2⟩; exact ⟨⟨h1, h2⟩, rfl⟩

/-! ### Topping up (R147) -/

/-- Zeros are placed until the buffer looks at no range wholly in holes: 65 rounds suffice, each placing at least one. -/
theorem placeHoles_toppedUp (l : Layer) (stop : Nat) : ∀ (n : Nat) (b : ReadBuf), 65 ≤ n + b.data.length →
    ToppedUp l stop b (ReadBuf.placeHoles l stop (l.state != .opened) n b) := by
  intro n
  induction n with
  | zero =>
    intro b hb
    refine .done b fun r hr => ?_
    have := hr.1
    omega
  | succ n ih =>
    intro b hb
    unfold ReadBuf.placeHoles
    split
    · next hc =>
      simp only [Bool.and_eq_true, decide_eq_true_eq, Bool.not_eq_true'] at hc
      split
      · next r hr =>
        have look : b.LooksAt l stop r := (looksAt_iff b l stop r).mpr ⟨hc.1, hc.2, hr⟩
        split
        · next hs =>
          refine .more b _ r look ((inHoles_iff l r).mp hs) ?_
          rw [place_eq_placed]
          refine ih _ ?_
          have h1 := look.2.2.2.1
          have h2 := look.2.2.2.2
          have h3 : 0 < r.len := by rw [h2]; omega
          simp only [ReadBuf.placed, List.length_append, List.length_replicate]
          omega
        · next hs =>
          refine .done b fun q hq => ?_
          rw [looksAt_iff, hr, Option.some.injEq] at hq
          rw [← hq.2.2, ← inHoles_iff]; exact hs
      · next hr =>
        refine .done b fun q hq => ?_
        rw [looksAt_iff, hr] at hq
        exact absurd hq.2.2 (by simp)
    · next hc =>
      refine .done b fun q hq => ?_
      exact absurd hc (by simp [hq.1, hq.2.1])

theorem assocFind_map {α : Type} (k : Nat) (f : Nat → α → α) (l : List (Nat × α)) :
    assocFind k (l.map fun e => (e.1, f e.1 e.2)) = (assocFind k l).map (f k) := by
  induction l with
  | nil => rfl
  | cons x l ih =>
    simp only [List.map_cons, assocFind]
    split
    · next h => subst h; rfl
    · exact ih

/-- Topping up changes a layer's buffer alone, and only where it is in use (R147). -/
theorem layer?_settleBuffers (id : Nat) (s : State) : s.settleBuffers.layer? id = (s.layer? id).map fun l =>
    if s.bufInUse id l then
      { l with buf := l.buf.placeHoles l (s.lengthOf id l) (l.state != .opened) 65 } else l := by
  have h : (fun e : Nat × Layer => if s.bufInUse e.1 e.2 then
      (e.1, { e.2 with buf := e.2.buf.placeHoles e.2 (s.lengthOf e.1 e.2) (e.2.state != .opened) 65 }) else e) =
      fun e => (e.1, if s.bufInUse e.1 e.2 then
        { e.2 with buf := e.2.buf.placeHoles e.2 (s.lengthOf e.1 e.2) (e.2.state != .opened) 65 } else e.2) := by
    funext e; split <;> rfl
  simp only [State.layer?, State.settleBuffers, h]
  exact assocFind_map id (fun id l => if s.bufInUse id l then
    { l with buf := l.buf.placeHoles l (s.lengthOf id l) (l.state != .opened) 65 } else l) s.layers

/-! ### Stored ranges and ends (R69, R144) -/

theorem inRanges_cons (k : Nat) (x : Range) (l : List Range) :
    inRanges k (x :: l) = true ↔ (x.first ≤ k ∧ k < x.first + x.len) ∨ inRanges k l = true := by
  simp only [inRanges, List.any_cons, Bool.or_eq_true, Bool.and_eq_true, decide_eq_true_eq]
  rfl
/-- A range joined to a list of ranges adds its offsets and no others. -/
theorem inRanges_insert (k : Nat) (l : List Range) : ∀ r : Range, r.len ≠ 0 →
    (inRanges k (insertRange r l) = true ↔ (r.first ≤ k ∧ k < r.first + r.len) ∨ inRanges k l = true) := by
  induction l with
  | nil => intro r _; exact inRanges_cons k r []
  | cons x xs ih =>
    intro r hr
    unfold insertRange
    split
    · next hm =>
      simp only [Range.meets, Bool.and_eq_true, decide_eq_true_eq] at hm
      simp only [Range.stop] at hm
      rw [ih _ (by simp only [Range.hull, Range.stop]; omega), inRanges_cons]
      have e : ((r.hull x).first ≤ k ∧ k < (r.hull x).first + (r.hull x).len) ↔
          (r.first ≤ k ∧ k < r.first + r.len) ∨ (x.first ≤ k ∧ k < x.first + x.len) := by
        simp only [Range.hull, Range.stop]; omega
      rw [e, or_assoc]
    · split
      · rw [inRanges_cons]
      · rw [inRanges_cons, inRanges_cons, ih r hr]; tauto

/-- What storing a burst leaves of a layer: its offsets, those below the length once the layer is no longer OPEN, join the stored ones (R144). -/
theorem store_eq (l : Layer) (o n : Nat) : ∃ st, l.store o n = { l with stored := st } ∧ ∀ k, inRanges k st = true ↔
    inRanges k l.stored = true ∨ (o ≤ k ∧ k < o + n ∧ (l.state = .opened ∨ k < l.length)) := by
  unfold Layer.store
  by_cases ho : l.state = .opened
  · rw [if_pos ho]; dsimp only
    split
    · next h0 => exact ⟨l.stored, rfl, fun k => by rw [h0]; simp; omega⟩
    · next h0 => exact ⟨_, rfl, fun k => by rw [inRanges_insert _ _ _ h0]; simp [ho]; tauto⟩
  · rw [if_neg ho]; dsimp only
    split
    · next h0 =>
      refine ⟨l.stored, rfl, fun k => ⟨.inl, ?_⟩⟩
      rintro (h | h)
      · exact h
      · simp only [ho, false_or] at h; omega
    · next h0 =>
      refine ⟨_, rfl, fun k => ?_⟩
      rw [inRanges_insert _ _ _ h0]
      simp only [ho, false_or]
      constructor
      · rintro (h | h)
        · right; omega
        · exact .inl h
      · rintro (h | h)
        · exact .inr h
        · left; omega

theorem layer?_cutWindow (id n j : Nat) (p : Port) (s : State) : (s.cutWindow id n p).layer? j = s.layer? j := by
  unfold State.cutWindow
  split
  · split
    · cases p <;> rfl
    · rfl
  · rfl
theorem layer?_cutReads (id n j : Nat) (s : State) : (s.cutReads id n).layer? j = s.layer? j := by
  unfold State.cutReads; split <;> rfl
theorem layer?_endCapture (id n j : Nat) (s : State) : (s.endCapture id n).layer? j = s.layer? j := by
  unfold State.endCapture; split <;> rfl
theorem layer?_truncate (id n j : Nat) (s : State) :
    (s.truncate id n).layer? j = if j = id then (s.layer? id).map (Layer.cutTo n) else s.layer? j := by
  unfold State.truncate
  split
  · next h => split <;> simp_all
  · next l h => simp only [layer?_cutWindow, layer?_setLayer, h]; rfl
/-- Ending a layer at a length cuts its record and no other (R69). -/
theorem layer?_endAt (id n j : Nat) (s : State) :
    (s.endAt id n).layer? j = if j = id then (s.layer? id).map (Layer.cutTo n) else s.layer? j := by
  simp only [State.endAt, layer?_truncate, layer?_endCapture, layer?_cutReads]

end Sys2Proof.Machine
end

