-- ==== Sys2Proof/Laws/Records.lean ====
section
/-! SUPPORT. Taking a capture record when none is free: the blocks that its remainder needs and the record it takes (R67, R138, R143). -/
namespace Sys2Proof.Machine

open Sys2Proof

/-- A key set twice holds its last value. -/
theorem insert_insert {α} (k : Nat) (v w : α) (l : List (Nat × α)) : assocInsert k v (assocInsert k w l) = assocInsert k v l := by
  induction l with
  | nil => simp [assocInsert]
  | cons x l ih =>
    obtain ⟨j, y⟩ := x
    simp only [assocInsert]
    split
    · simp [assocInsert]
    · split
      · simp [assocInsert]
      · next h1 h2 => simp [assocInsert, h1, h2, ih]
/-- Setting a key to the value it has changes nothing in a list of strictly rising keys. -/
theorem insert_self {α} (k : Nat) (v : α) (l : List (Nat × α)) (hs : l.Pairwise (fun x y => x.1 < y.1)) (h : assocFind k l = some v) : assocInsert k v l = l := by
  induction l with
  | nil => simp [assocFind] at h
  | cons x l ih =>
    obtain ⟨j, y⟩ := x
    rw [List.pairwise_cons] at hs
    simp only [assocFind] at h
    split at h
    · next e => subst e; simp at h; subst h; simp [assocInsert]
    · next e =>
      have : ∃ y, (k,y) ∈ l := by
        clear ih hs
        induction l with
        | nil => simp [assocFind] at h
        | cons z l ih => simp only [assocFind] at h; split at h
                         · next e => exact ⟨z.2, by rw [← e]; simp⟩
                         · obtain ⟨y, hy⟩ := ih h; exact ⟨y, by simp [hy]⟩
      obtain ⟨y', hy'⟩ := this
      have := hs.1 _ hy'
      simp only [assocInsert]
      rw [if_neg (by simp at this; omega), if_neg (by omega), ih hs.2 h]

/-- With blocks enough, one is taken from the head of the free list for each offset (R138, R143). -/
theorem allocateEach_enough (id : Nat) : ∀ (os : List Nat) (s : State) (l : Layer), s.layer? id = some l → os.length ≤ s.mem.free.length →
    os ≠ [] →
    s.allocateEach id os = (({ s with mem := { s.mem with free := s.mem.free.drop os.length } }.setLayer id { l with extents := l.extents ++ s.mem.free.take os.length }), none) := by
  intro os
  induction os with
  | nil => intro _ _ _ _ h; exact absurd rfl h
  | cons o os ih =>
    intro s l hl hn _
    cases hf : s.mem.free with
    | nil => simp [hf] at hn
    | cons b rest =>
      simp only [State.allocateEach, State.allocate, hl, hf]
      by_cases h0 : os = []
      · subst h0; simp [State.allocateEach]
      · rw [ih _ { l with extents := l.extents ++ [b] } (by simp) (by simpa [hf] using hn) h0]
        simp [State.setLayer, insert_insert]
/-- With too few, all are taken and the first offset without one is named (R138, R143). -/
theorem allocateEach_short (id : Nat) : ∀ (os : List Nat) (s : State) (l : Layer), s.layer? id = some l → s.layers.Pairwise (fun x y => x.1 < y.1) → 
    (hn : s.mem.free.length < os.length) →
    s.allocateEach id os = (({ s with mem := { s.mem with free := [] } }.setLayer id { l with extents := l.extents ++ s.mem.free }), some os[s.mem.free.length]) := by
  intro os
  induction os with
  | nil => intro s l _ _ h; simp at h
  | cons o os ih =>
    intro s l hl hs hn
    obtain ⟨pending, now, power, cycle, tracks, layers, fresh, fold, capture, cues, switches, mixer, mem, audio, faults, portA, portB⟩ := s
    obtain ⟨mode, free, bad, queue, words, grant, rw_, ptr, w1, w2, w3, wa, wb, ta, tb, tn⟩ := mem
    cases free with
    | nil => 
      simp only [State.allocateEach, State.allocate, hl, State.setLayer, List.length_nil, List.getElem_cons_zero, List.append_nil]
      rw [insert_self _ _ _ hs hl]
    | cons b rest =>
      simp only [State.allocateEach, State.allocate, hl]
      have := ih (State.setLayer id { l with extents := l.extents ++ [b] } ⟨pending, now, power, cycle, tracks, layers, fresh, fold, capture, cues, switches, mixer, ⟨mode, rest, bad, queue, words, grant, rw_, ptr, w1, w2, w3, wa, wb, ta, tb, tn⟩, audio, faults, portA, portB⟩) _ (layer?_setLayer_same ..) (insert_sorted hs) (by simpa [State.setLayer] using hn)
      rw [this]
      simp [State.setLayer, insert_insert]

/-- The 4,096-sample ranges that an unhanded remainder has no block for follow those the layer has (R65, R66, R143). -/
theorem blocksNeeded_remainder (s : State) (id a n : Nat) (l : Layer) (hl : s.layer? id = some l) (ha : ceilDiv a 4096 ≤ l.extents.length) (hn : a < n)  :
   s.blocksNeeded id { first := a, len := n - a } = (List.range (ceilDiv n 4096 - l.extents.length)).map (fun i => (l.extents.length + i) * 4096) := by
  simp only [State.blocksNeeded, hl, blockStarts, Range.stop]
  rw [show a + (n - a) = n by omega]
  generalize hE : l.extents.length = E at *
  generalize ceilDiv n 4096 = C 
  have hE' : a ≤ E * 4096 := by unfold ceilDiv at ha; omega
  clear hl hE
  rw [List.filter_map, List.filter_map, List.filter_filter]
  have : (List.range C).filter (fun o => (((fun o => decide (E ≤ o / 4096)) ∘ fun x => x * 4096) o) && (((fun o => decide (a ≤ o)) ∘ fun x => x * 4096) o)) = (List.range C).filter (fun o => decide (E ≤ o)) := by
    apply List.filter_congr
    intro x _
    simp
    omega
  rw [this]
  have : (List.range C).filter (fun o => decide (E ≤ o)) = (List.range (C - E)).map (E + ·) := by
    clear this
    induction C with
    | zero => simp
    | succ C ih =>
      rw [List.range_succ, List.filter_append, ih]
      by_cases h : E ≤ C
      · rw [show C + 1 - E = (C - E) + 1 by omega, List.range_succ]; simp [h]
      · simp [h, show C - E = 0 by omega, show C + 1 - E = 0 by omega]
  rw [this]; simp

/-- The record that R67 takes when none is free. -/
theorem oldestDraining_of_closedEarliest {s : State} {i : Fin 12} {r : CapRec} (h : s.ClosedEarliest i r) : s.freeRecord = none ∧ s.oldestDraining = some i := by
  obtain ⟨hr, hp, hall, c, hc, hmax⟩ := h
  constructor
  · unfold State.freeRecord
    rw [List.find?_eq_none]
    intro j _
    have := hall j
    simp [Option.isNone_iff_eq_none]; simpa using this
  · have agei : s.closeAge i = some ((s.capture.closeOrder + 65536 - c % 65536) % 65536) := by
      unfold State.closeAge; rw [hr]; simp [hp, hc]
    have agej : ∀ j, j ≠ i → ∀ a, s.closeAge j = some a → a < (s.capture.closeOrder + 65536 - c % 65536) % 65536 := by
      intro j hj a ha
      unfold State.closeAge at ha
      cases hq : s.capture.records[j] with
      | none => rw [hq] at ha; simp at ha
      | some q =>
        rw [hq] at ha
        simp only [Option.ite_none_right_eq_some, Option.some.injEq] at ha
        obtain ⟨hd, rfl⟩ := ha
        obtain ⟨d, hd', hlt⟩ := hmax j q hq hd hj
        rw [hd']; exact hlt
    unfold State.oldestDraining
    have key : ∀ (l : List (Fin 12)) (best : Option (Fin 12)), (∀ k, best = some k → (s.closeAge k).isSome) → (best = some i ∨ i ∈ l) → l.foldl (fun best j =>
      match s.closeAge j, best with
      | none, _ => best
      | some _, none => some j
      | some a, some k => if (s.closeAge k).getD 0 < a then some j else best) best = some i := by
      intro l
      induction l with
      | nil => intro best _; simp
      | cons j l ih =>
        intro best hb h
        rw [List.foldl_cons]
        apply ih
        · intro k hk
          cases ha : s.closeAge j with
          | none => rw [ha] at hk; exact hb k hk
          | some a =>
            rw [ha] at hk
            cases best with
            | none => simp at hk; subst hk; simp [ha]
            | some b => 
              simp only [] at hk
              split at hk
              · simp at hk; subst hk; simp [ha]
              · exact hb k hk
        · rcases h with rfl | h
          · left
            by_cases hj : j = i
            · subst hj; rw [agei]; simp
            · cases ha : s.closeAge j with
              | none => rfl
              | some a => simp only [agei, Option.getD_some]; rw [if_neg]; have := agej j hj a ha; omega
          · rw [List.mem_cons] at h
            rcases h with rfl | h
            · left
              rw [agei]
              cases best with
              | none => rfl
              | some k =>
                simp only []
                by_cases hk : k = i
                · subst hk; simp
                · rw [if_pos]
                  obtain ⟨a, ha⟩ := Option.isSome_iff_exists.mp (hb k rfl)
                  rw [ha]
                  simpa using agej k hk a ha
            · exact .inr h
    exact key _ _ (by simp) (by simp)

end Sys2Proof.Machine
end

