-- ==== Sys2Proof/Laws/Requests.lean ====
section
/-! SUPPORT. What a request can do, once for all of them: it is ignored, refused, or answered by its owner on the state handed on (R187 to R189, R207). -/
namespace Sys2Proof.Machine

open Sys2Proof

set_option linter.unusedSimpArgs false
set_option linter.unusedTactic false
set_option linter.unreachableTactic false

/-- The transfer of a request and the taking of its tag and code are the state handed on. -/
theorem shift_pending (h : Req) (code : Nat) (s : State) :
    (s.shiftRequest h.port (3 + h.len.toNat)).setPort h.port
      { (s.shiftRequest h.port (3 + h.len.toNat)).port h.port with
        reply := .pending h.tag (BitVec.ofNat 8 code) } = s.handedOn h code := by
  simp [State.shiftRequest, State.handedOn]

/-- A refusal fills the slot of the state handed on. -/
theorem shift_refuse (h : Req) (code : Nat) (st : Status) (s : State) :
    (s.shiftRequest h.port (3 + h.len.toNat)).refuse h code st = (s.handedOn h code).replied h code st [] := by
  simp [State.refuse, State.fillReply, State.shiftRequest, State.handedOn, State.replied]

/-- A full reply is the reply to the request. -/
theorem fillReply_eq_replied (h : Req) (code : Nat) (st : Status) (l : List Byte) (s : State) :
    s.fillReply h.port st h.tag (BitVec.ofNat 8 code) l = s.replied h code st l := rfl

/-- A request in a part held in reset has no effect (R207). -/
theorem request_held {h : Req} {code n : Nat} {owner : Owner} {s : State} (hr : s.power.resetHeld = true) :
    s.request h code n owner = s := by
  simp [State.request, State.whenLive, hr]

/-- A request served: its owner answers on the state handed on, and the answer is the reply (R188, R189). -/
theorem request_served {h : Req} {code n : Nat} {owner : Owner} {s : State} (hs : s.serves h n) (hn : n ≤ 60) :
    s.request h code n owner =
      (match owner (s.handedOn h code) with
       | (u, some (st, l)) => u.replied h code st l
       | (u, none) => u) := by
  obtain ⟨h1, h2, h3⟩ := hs
  have hp : (s.shiftRequest h.port (3 + h.len.toNat)).power.part ≠ .starting := by
    simp [State.shiftRequest, h2]
  have hl : ¬ 60 < h.len.toNat := by omega
  subst h3
  simp only [State.request, State.whenLive, h1, Bool.false_eq_true, if_false, State.screen, decide_true,
    if_true, Bool.not_false, Bool.true_and, beq_iff_eq, State.takeRequest, shift_pending, fillReply_eq_replied]
  rw [if_neg hl, if_neg hp]
  all_goals (obtain ⟨u, o⟩ := owner (s.handedOn h code); cases o <;> rfl)

/-- A served request whose owner answers: the next state holds the answer as the reply. -/
theorem request_answered {h : Req} {code n : Nat} {owner : Owner} {s u : State} {st : Status} {l : List Byte}
    (hs : s.serves h n) (hn : n ≤ 60) (ho : owner (s.handedOn h code) = (u, some (st, l))) :
    s.request h code n owner = u.replied h code st l := by
  rw [request_served hs hn, ho]

/-- A request in STARTING is refused (R188). -/
theorem request_starting {h : Req} {code n : Nat} {owner : Owner} {s : State} (h1 : s.power.resetHeld = false)
    (h2 : s.power.part = .starting) (h3 : h.len.toNat ≤ 60) :
    s.request h code n owner = (s.handedOn h code).replied h code .starting [] := by
  have hp : (s.shiftRequest h.port (3 + h.len.toNat)).power.part = .starting := by simp [State.shiftRequest, h2]
  have hl : ¬ 60 < h.len.toNat := by omega
  simp [State.request, State.whenLive, h1, State.screen, hl, hp, h2, shift_refuse]

/-- A request whose declared length is above 60 is refused wherever it meets the part (R187). -/
theorem request_long {h : Req} {code n : Nat} {owner : Owner} {s : State} (h1 : s.power.resetHeld = false)
    (h3 : 60 < h.len.toNat) :
    s.request h code n owner = (s.handedOn h code).replied h code .badArg [] := by
  simp [State.request, State.whenLive, h1, State.screen, h3, shift_refuse]

/-- A request whose declared length is not the table's is refused (R188). -/
theorem request_wrongLength {h : Req} {code n : Nat} {owner : Owner} {s : State} (h1 : s.power.resetHeld = false)
    (h2 : s.power.part ≠ .starting) (h3 : h.len.toNat ≠ n) :
    s.request h code n owner = (s.handedOn h code).replied h code .badArg [] := by
  by_cases hl : 60 < h.len.toNat
  · exact request_long h1 hl
  · have hp : (s.shiftRequest h.port (3 + h.len.toNat)).power.part ≠ .starting := by simp [State.shiftRequest, h2]
    simp [State.request, State.whenLive, h1, State.screen, hl, hp, h2, h3, shift_refuse]

/-- STATUS and IDENTIFY are served in every part state (R188). -/
theorem requestAlways_answered {h : Req} {code : Nat} {owner : Owner} {s u : State} {st : Status} {l : List Byte}
    (h1 : s.power.resetHeld = false) (h3 : h.len.toNat = 0) (ho : owner (s.handedOn h code) = (u, some (st, l))) :
    s.requestAlways h code owner = u.replied h code st l := by
  simp only [State.requestAlways, State.whenLive, h1, Bool.false_eq_true, if_false, State.screen, State.takeRequest,
    shift_pending, ho, fillReply_eq_replied]
  simp [h3]

/-- An event passes a port whose interest set holds its kind, while the queue has room (R200, R201). -/
theorem offer_room {e : Event} {c : PortCtl} (hi : c.interest.getLsbD e.kind.code = true) (hq : c.queue.length < 32) :
    c.offer e = { c with queue := c.queue ++ [e] } := by
  simp [PortCtl.offer, hi, PortCtl.enqueue, hq]

end Sys2Proof.Machine
end

