-- ==== Sys2Proof/Tests/Slice0.lean ====
section
/-! SUPPORT. Tests: ill-formed commands that WellFormed refuses, the worked figures of spec/, and for each obligation with hypotheses a state and operands that meet them. -/
namespace Sys2Proof.Tests

-- The tests are elaborated one after the other: each waits for the kernel, and many at once take threads and memory.
set_option Elab.async false

open Sys2Proof Sys2Proof.Machine

/-! ### Helpers -/

/-- A request of port A with tag 7 and a declared length. -/
def req (len : Byte) : Req := { port := .a, tag := 7, len := len }

/-- A part in RUN with three free blocks, one millisecond after the timebase began. -/
def run : State :=
  { State.reset with
    now := 16000
    power := { State.reset.power with part := .run }
    mem := { MemCtl.reset with mode := .serving, free := [7, 8, 9] } }

/-- The same part in REST. -/
def resting : State := { run with power := { run.power with part := .rest } }

/-- The part in RUN with a frame in progress and audio PRESENT. -/
def framed : State :=
  { run with audio := { Audio.reset with present := true, frame := some { count := 0, bits := 0 }, lastSync := some 0 } }

/-- A cycle of 196,085 frames, B = 8, P = 4, G = 2,400 (1.5, worked figures), RUNNING at a place. -/
def rolling (pass pos : Nat) : Cycle :=
  { Cycle.reset with state := .running, len := some 196085, pass := pass, pos := pos, gen := 1, frameCount := 500000 }

/-- The part in RUN on that cycle. -/
def looping (pass pos : Nat) : State := { run with cycle := rolling pass pos }

/-- A CLOSED layer of track 0 with 200 samples. -/
def layer0 : Layer := { Layer.fresh 0 .closed .recorded (.at 0) false true with length := 200, extents := [5] }

/-- A part with a track 0 that plays layer 3. -/
def playing (pass pos : Nat) : State :=
  ((looping pass pos).setLayer 3 layer0).setTrack 0
    { Track.reset 0 with state := .playing, span := some 1, stack := [.single 3] }

/-- A cue entry of port A for track 0, due at a place. -/
def cueOf (id : Nat) (a : Action) (pass pos : Nat) : Cue :=
  { id := id, origin := .a, joinedA := false, joinedB := false, action := a, target := some 0, quantum := .cycle,
    press := { pass := 0, pos := 0, frame := 0, gen := 1, time := 0 }, duePass := pass, duePos := pos }

/-- A state with the entries given in its cue list. -/
def withCues (l : List Cue) (s : State) : State := { s with cues := { entries := l, nextId := 50 } }

/-- The state that follows. -/
def after (o : Host.Outcome State Fault Refusal) : State :=
  match o with
  | .next t => t
  | _ => State.reset

/-- The status of the reply in port A's slot. -/
def statusOf (s : State) : Option Status :=
  match s.portA.reply with
  | .full r => some r.status
  | _ => none

/-- The results of the reply in port A's slot. -/
def resultsOf (s : State) : List Byte :=
  match s.portA.reply with
  | .full r => r.results
  | _ => []

/-- A range of layer offsets. -/
def rng (first len : Nat) : Range := { first := first, len := len }

/-- A part with layers 1 to n CLOSED in the stack of track 0, each of 200 samples. -/
def stacked (n : Nat) : State :=
  { looping 5 50000 with
    layers := (List.range n).map fun i => (i + 1, { layer0 with extents := [20 + i] }) }.setTrack 0
      { Track.reset 0 with
        state := .playing, span := some 1, stack := (List.range n).map fun i => .single (i + 1) }

/-- A part with one more open layer on a track, its capture record in step after n frames. -/
def opening (t : TrackId) (id n : Nat) (dest : TrackState) (start : LayerStart) (s : State) : State :=
  { (s.setLayer id { Layer.fresh t .opened .recorded start false true with extents := [6] }).setTrack t
      { s.track t with state := dest, stack := (s.track t).stack ++ [.single id], openLayer := some id } with
    capture := { s.capture with
      records := s.capture.records.set 0 (some
        { layer := id, track := t, phase := .inStep, startStamp := stampSub (stampAdd s.cycle.frameCount 1) n
          readStamp := stampAdd s.cycle.frameCount 1, endStamp := none, nextOff := n - n % 64
          buf := List.replicate (n % 64) 0, closeOrder := none }) } }

/-- A fold of layers 3 and 4 of track 0 into layer 6. -/
def fold346 : Fold :=
  { track := 0, older := 3, newer := 4, result := 6, gainOlder := 32768, gainNewer := 32768, edge := 96
    pendingGain := 32768, nextOff := 0, clips := 0, reads := [{ newer := false, first := 0, len := 4 }]
    gotOlder := [], gotNewer := [], out := none, granted := true }

/-- A part that folds layers 3 and 4, of the gains given, under the entries given; the track's feedback is one half. -/
def folded (older newer : Nat) (rest : List Nat) : State :=
  { looping 6 0 with
    fold := some fold346
    layers := [(3, { layer0 with state := .folding, gain := older })
      , (4, { layer0 with state := .folding, gain := newer, extents := [6] })
      , (6, { layer0 with state := .folding, origin := .folded, length := 8192, extents := [10] })]
      ++ rest.map fun i => (i, { layer0 with extents := [20 + i] }) }.setTrack 0
    { Track.reset 0 with
      state := .playing, span := some 1, feedback := 16384, stack := .pair 3 4 :: rest.map Entry.single }

/-- What the reviewer of a pool reads: each part of PoolsWithin as a decidable fact. -/
theorem pools_of (s : State) (hi : s.layers.Pairwise (fun e f => e.1 < f.1))
    (hr : ∀ e ∈ s.layers, 1 ≤ e.1 ∧ e.1 ≤ 40)
    (hp : ∀ e ∈ s.layers, (∃ t, e.1 ∈ stackIds (s.track t).stack ∨ e.1 ∈ (s.track t).redo) ∨
      s.isFoldResult e.1 = true)
    (ht : ∀ t, (s.track t).stack.length ≤ 8 ∧ (s.track t).redo.length ≤ 4 ∧
      stackPairs (s.track t).stack = s.foldPair t)
    (hc : ∀ i : Fin 12, (s.capture.records[i]).all (fun r => (s.layer? r.layer).isSome) = true)
    (hw : (s.window .a).all (fun w => (s.layer? w.layer).isSome) = true
      ∧ (s.window .b).all (fun w => (s.layer? w.layer).isSome) = true)
    (hq : s.cues.entries.length ≤ 16
      ∧ s.cues.entries.Pairwise (fun c d => ¬ (c.target = d.target ∧ c.action.family = d.action.family))) :
    PoolsWithin s where
  ids := hi
  range := hr
  placed e h := (hp e h).imp id fun hf => by
    unfold State.isFoldResult at hf
    split at hf
    · exact ⟨_, ‹_›, of_decide_eq_true hf⟩
    · cases hf
  stack t := (ht t).1
  redo t := (ht t).2.1
  pairs t := (ht t).2.2
  records i r h := by have := hc i; rw [h] at this; exact this
  windows p w h := by
    cases p
    · have := hw.1; rw [h] at this; exact this
    · have := hw.2; rw [h] at this; exact this
  cues := hq.1
  slots := hq.2

/-! ### WellFormed refuses what no pin or port can bring -/

def plainOrder : Order := { work := [], records := [], waitingFirst := false, beforeExpiry := 0 }

theorem test_wf_frame_sync_bits_past_the_clocks : (Instr.frameSync 8 1#256 plainOrder).wf = false := by decide
theorem test_wf_frame_sync_record_twice :
    (Instr.frameSync 256 1#256 { plainOrder with records := [3, 3] }).wf = false := by decide
theorem test_wf_frame_sync_wrap_twice :
    (Instr.frameSync 256 1#256 { plainOrder with work := [some 2, none, some 2] }).wf = false := by decide
theorem test_wf_playback_checks : (Instr.playbackReadComplete (List.replicate 65 .good)).wf = false := by decide
theorem test_wf_fold_checks : (Instr.foldBurstComplete (List.replicate 65 .good)).wf = false := by decide
theorem test_wf_window_checks : (Instr.windowReadComplete (List.replicate 65 .good)).wf = false := by decide
theorem test_wf_block_test : (Instr.blockTest 8193 true).wf = false := by decide
theorem test_wf_request_cut_not_cut : (Instr.requestCut .a [19, 1, 2, 0, 0]).wf = false := by decide
theorem test_wf_request_cut_long : (Instr.requestCut .a [19, 1, 61, 0]).wf = false := by decide
theorem test_wf_unknown_request_known : (Instr.unknownRequest (req 0) 19).wf = false := by decide
theorem test_wf_window_write_other_code : (Instr.windowWrite .a true [4, 0] true).wf = false := by decide
theorem test_wf_request_length : (Instr.setGrace (req 3) 5).wf = false := by decide
theorem test_wf_note_length : (Instr.postNote (req 3) [1, 2]).wf = false := by decide
theorem test_wf_note_too_long : (Instr.postNote (req 61) [1]).wf = false := by decide
theorem test_wf_accepts :
    ∀ i ∈ [Instr.frameSync 256 1#256 { plainOrder with work := [some 2, none, none] }, .blockTest 8192 true,
        .requestCut .a [19, 1, 2, 0], .unknownRequest (req 0) 15, .windowWrite .a true [5, 0] true,
        .setGrace (req 2) 5, .setGrace (req 3) 0, .postNote (req 2) [1, 2]], i.wf = true := by decide

/-! ### Requests as bytes (R187, R197), written out from the request table -/

theorem test_decode_set_tempo :
    decodeRequest .a [1, 16, 9, 3, 0x03, 0xC0, 16] = some (.setTempo { port := .a, tag := 9, len := 3 } 960 16) := by
  decide
theorem test_decode_record :
    decodeRequest .b [1, 32, 1, 2, 5, 3] = some (.record { port := .b, tag := 1, len := 2 } 5 3) := by decide
theorem test_decode_set_click :
    decodeRequest .a [1, 66, 0, 4, 1, 0x12, 0x34, 0x56] =
      some (.setClick { port := .a, tag := 0, len := 4 } 1 0x123456) := by decide
theorem test_decode_import_layer :
    decodeRequest .a [1, 82, 0, 13, 5, 8, 0, 0, 1, 2, 0, 0, 3, 4, 1, 0x80, 0] =
      some (.importLayer { port := .a, tag := 0, len := 13 } 5 8 0x102 0x304 1 0x8000) := by decide
theorem test_decode_cut : decodeRequest .a [1, 32, 1, 2, 5] = some (.requestCut .a [32, 1, 2, 5]) := by decide
theorem test_decode_unknown :
    decodeRequest .a [1, 15, 1, 0] = some (.unknownRequest { port := .a, tag := 1, len := 0 } 15) := by decide
theorem test_no_table_word : decodeTableWord 8 1 = none := rfl

/-! ### Worked figures of spec/ -/

/-- Chapter 1, tempo and taps. -/
theorem test_tempo_lengths : tempoLen 960 16 = 480000 ∧ tempoLen 1175 8 = 196085 := by decide

/-- Chapter 1, a tap sequence with B = 8. -/
theorem test_tap_sequence :
    TapSeq.tapAt 1000 8 TapSeq.empty = ({ count := 1, last := 1000, sum := 0 }, 1, none)
    ∧ TapSeq.tapAt 31100 8 { count := 1, last := 1000, sum := 0 } =
      ({ count := 2, last := 31100, sum := 30100 }, 2, none)
    ∧ TapSeq.tapAt 61000 8 { count := 2, last := 31100, sum := 30100 } =
      ({ count := 3, last := 61000, sum := 60000 }, 3, none)
    ∧ (TapSeq.tapAt 91250 8 { count := 3, last := 61000, sum := 60000 }).2 = (4, some 240664)
    ∧ TapSeq.tapAt 110000 8 { count := 2, last := 31100, sum := 30100 } =
      ({ count := 1, last := 110000, sum := 0 }, 1, none) := by decide

/-- Chapter 1, the beat positions and bar boundaries of L = 196,085, B = 8, P = 4. -/
theorem test_boundaries :
    (rolling 5 0).boundaries 196085 .beat = [0, 24510, 49021, 73531, 98042, 122553, 147063, 171574]
    ∧ (rolling 5 0).boundaries 196085 .bar = [0, 98042] := by decide

/-- Chapter 1, boundaries and dues, the five presses taken at the current frame. -/
theorem test_dues :
    (let s := looping 5 50000; s.dueOf .record .beat s.pressNow) =
      .atOnce { point := { pass := 5, pos := 49021 }, cut := .back 979 { pass := 5, pos := 49021 }, back := true }
    ∧ (let s := looping 5 60000; s.dueOf .record .beat s.pressNow) = .due 5 73531
    ∧ (let s := looping 5 100500; s.dueOf .record .bar s.pressNow) = .due 6 0
    ∧ (let s := looping 5 195000; s.dueOf .record .cycle s.pressNow) = .due 6 0
    ∧ (let s := looping 6 1200; s.dueOf .close .cycle s.pressNow) =
      .atOnce { point := { pass := 6, pos := 0 }, cut := .back 1200 { pass := 6, pos := 0 }, back := true } := by decide +kernel

/-- Chapter 1, the three actions issued after their press times. -/
theorem test_late_dues :
    (looping 2 72000).dueOf .record .beat { pass := 2, pos := 60000, frame := 488000, gen := 1, time := 0 } =
      .due 2 73531
    ∧ (looping 2 76000).dueOf .overdub .beat { pass := 2, pos := 62000, frame := 486000, gen := 1, time := 0 } =
      .atOnce { point := { pass := 2, pos := 73531 }, cut := .back 2469 { pass := 2, pos := 73531 }, back := true }
    ∧ (looping 2 60000).dueOf .record .beat { pass := 2, pos := 50500, frame := 490500, gen := 1, time := 0 } =
      .due 2 73531 := by decide +kernel

/-- R32, R19: a RECORD pressed while origin is pending and issued 300 frames later starts at (0, 0). -/
theorem test_record_from_origin :
    (match ({ looping 0 299 with mem := { run.mem with free := [9] } }).dueOf .record .beat
        { pass := 0, pos := 0, frame := 499700, gen := 1, time := 0 } with
      | .atOnce e => match ({ looping 0 299 with mem := { run.mem with free := [9] } }).actRecord 1 e.cut with
        | .ok u => ((u.layer? 1).map Layer.start, (u.recordOf 1).map CapRec.startStamp, e.point)
        | .error _ => (none, none, e.point)
      | _ => (none, none, { pass := 9, pos := 9 })) =
      (some (.first 0 0), some 499700, { pass := 0, pos := 0 }) := by decide +kernel

/-- Chapter 2, fixing a span: start passes 4, 5 and 7. -/
theorem test_spans :
    fixSpan 196085 4 49021 300000 = (2, 49021, 300000) ∧ fixSpan 196085 5 49021 300000 = (4, 245106, 300000)
    ∧ fixSpan 196085 7 49021 300000 = (2, 49021, 300000) := by decide

/-- Chapter 2, decay and retirement. -/
theorem test_decay :
    scaleGain 32768 29491 = 29491 ∧ scaleGain 29491 29491 = 26542 ∧ scaleGain 32768 8192 = 8192
    ∧ scaleGain 8192 8192 = 2048 ∧ scaleGain 2048 8192 = 512 ∧ scaleGain 512 8192 = 128
    ∧ scaleGain 128 8192 = 32 := by decide

/-- Chapter 4, ordering across the pass wrap. -/
theorem test_forward_distances :
    (rolling 255 180000).forwardDistance 255 189000 = 9000 ∧ (rolling 255 180000).forwardDistance 0 0 = 16085
    ∧ (rolling 255 180000).forwardDistance 0 24510 = 40595 := by decide

/-- Chapter 4, the cue id passes over one in use, and 65,535 is followed by 1. -/
theorem test_cue_ids : pickCueId [65535] 17 65535 = 1 ∧ nextCueId 65535 = 1 := by decide

/-- Chapter 6, the edge weights of R = 96 and the crossfade at a punch-in. -/
theorem test_crossfade :
    edgeWeight 96 0 4000 true false = 337 ∧ edgeWeight 96 47 4000 true false = 16215
    ∧ edgeWeight 96 95 4000 true false = 32430
    ∧ contribution 1000000 (edgeWeight 96 47 4000 true false) [] 32768 = 494843
    ∧ contribution 2000000 32768 [coverWeight 96 147 100 4000 true false] 32768 = 1010315 := by decide

/-- Chapter 6, one frame of FRONT. -/
theorem test_front_frame :
    contribution 3000000 32768 [] 32768 = 3000000
    ∧ contribution (BitVec.ofInt 24 (-1234567)) 32768 [] 24576 = -925925
    ∧ scale 2074075 49152 = 3111113
    ∧ busOut 9511113 32768 = (8388607#24, true) ∧ busOut 9511113 28000 = (8127172#24, false) := by decide

/-- Chapter 7, a layer of 10,000 samples with block 1 suspect given back. -/
theorem test_give_back :
    ({ MemCtl.reset with free := [3, 4], bad := [7, 300] }.giveBack [0, 1, 2] [1]).free = [3, 4, 0, 2]
    ∧ ({ MemCtl.reset with free := [3, 4], bad := [7, 300] }.giveBack [0, 1, 2] [1]).bad = [1, 7, 300] := by decide

/-- Chapter 7, a fifth hole widens the fourth, and a later one reaches the third. -/
theorem test_fifth_hole :
    addHole (rng 12000 64) [rng 100 64, rng 1000 64, rng 5000 64, rng 9000 64] =
      [rng 100 64, rng 1000 64, rng 5000 64, rng 9000 3064]
    ∧ addHole (rng 2000 64) [rng 100 64, rng 1000 64, rng 5000 64, rng 9000 3064] =
      [rng 100 64, rng 1000 64, rng 2000 10064] := by decide

/-! ### Witnesses: for each obligation with hypotheses, a state and operands that meet them, and what follows there -/

theorem witness_refused_request :
    requestFields (.setGrid (req 2) 0 1) = some (req 2, 18, 2, [0, 1])
    ∧ Instr.setGrid (req 2) 0 1 ≠ .closeWindow (req 2) ∧ run.power.resetHeld = false
    ∧ ∃ t r, exec (.setGrid (req 2) 0 1) run = .next t ∧ (t.port (req 2).port).reply = .full r
      ∧ r.status ≠ .ok ∧ r.status ≠ .accepted ∧ r.status ≠ .joined :=
  ⟨by decide, by decide, rfl, _, _, rfl, rfl, by decide, by decide, by decide⟩

theorem witness_request_bytes :
    (Instr.setGrid (req 2) 3 1).wf = true ∧ requestPort (.setGrid (req 2) 3 1) = some .a
    ∧ encodeRequest (.setGrid (req 2) 3 1) = some [1, 18, 7, 2, 3, 1]
    ∧ (Instr.requestCut .b [18, 7, 2, 3]).wf = true ∧ requestPort (.requestCut .b [18, 7, 2, 3]) = some .b
    ∧ encodeRequest (.requestCut .b [18, 7, 2, 3]) = some [1, 18, 7, 2, 3]
    ∧ (Instr.postNote (req 60) (List.replicate 60 1)).wf = true := by decide

/-- A write of two words in block 7 at its completion. -/
def writing : State :=
  { run with
    pending := [.captureWriteComplete]
    mem := { run.mem with
      words := [(28672, 5)]
      grant := some (.capture { layer := 3, offset := 0, samples := [1, 2], queuedAt := 0 } (some 7) true) } }

theorem witness_memory_canonical :
    Memory.wf writing.mem ∧ ∃ t, step writing = .next t ∧ t.mem.words = [(28672, 1), (28673, 2)] :=
  ⟨by decide, _, rfl, by decide +kernel⟩

theorem witness_queues_stay_within :
    QueuesBounded run.portA run.portB ∧ (∃ t, step { run with pending := [.watchdogExpiry] } = .next t)
    ∧ BurstsWithin writing.mem.queue ∧ ∃ t, step writing = .next t :=
  ⟨⟨by unfold PortCtl.bounded; decide, by unfold PortCtl.bounded; decide⟩, ⟨_, rfl⟩,
    by unfold BurstsWithin; decide, _, rfl⟩

/-- A stack of 8 entries and 16 cues, one for each slot of STACK, TRANSPORT and MUTE on tracks 0 to 4, and one on ALL. -/
def crowded : State :=
  withCues (cueOf 16 .stopAll 6 0 :: (List.range 15).map fun i =>
    { cueOf (i + 1) (if i < 5 then .mute else if i < 10 then .undo else .close) 6 0 with
      target := some (Fin.ofNat 6 (i % 5)) }) (stacked 8)

theorem witness_pools_and_stacks :
    PoolsWithin { withCues ((crowded.cues.entries).map fun c =>
        if c.id = 16 then { c with target := none } else c) crowded with
      pending := [.undo (req 2) 0 0] }
    ∧ PoolsWithin (folded 127 127 [7])
    ∧ ((after (exec (.undo (req 2) 0 0) crowded)).track 0).stack.length = 7 :=
  ⟨by apply pools_of <;> decide +kernel, by apply pools_of <;> decide +kernel, by decide +kernel⟩

theorem witness_blocks :
    BlocksInOnePlace { State.reset with
      mem := { MemCtl.reset with testNext := 3, free := [0, 2], bad := [1] }, pending := [.blockTest 0 true] }
    ∧ BlocksInOnePlace { State.reset with
      mem := { MemCtl.reset with testNext := 4096, free := List.range 4096 }, pending := [.memoryTestDone] } :=
  ⟨⟨by decide, by decide, by decide, by decide⟩,
    ⟨by decide, by decide, by simp [State.extentBlocks, State.reset, State.afterReset, MemCtl.reset], by decide⟩⟩

theorem witness_cycle_in_range :
    CycleInRange (looping 255 196084).cycle ∧ CycleInRange run.cycle
    ∧ ∃ t, step { looping 255 196084 with pending := [.setGrid (req 2) 64 16] } = .next t :=
  ⟨by constructor <;> simp [looping, rolling, Cycle.reset, TapSeq.empty],
    by constructor <;> simp [run, State.reset, State.afterReset, Cycle.reset, TapSeq.empty], _, rfl⟩

/-- A held hard fault. -/
def hardFault : Occurrence × Nat :=
  ({ kind := .writeTimeout, requester := .capture, block := none, layer := none, track := none, pass := 0, pos := 0 }, 9)

theorem witness_hard_fault :
    HardHeld hardFault 9 { Faults.reset with record := some hardFault, seq := 9 }
    ∧ Instr.clearLinkCount (req 0) ≠ .reset ∧ (∀ h, Instr.clearLinkCount (req 0) ≠ .resetPart h)
    ∧ (∀ h n, Instr.clearLinkCount (req 0) ≠ .clearFaults h n)
    ∧ ∃ t, exec (.clearLinkCount (req 0))
        { run with faults := { Faults.reset with record := some hardFault, seq := 9 } } = .next t :=
  ⟨⟨rfl, rfl, rfl⟩, by decide, fun _ => by simp, fun _ _ => by simp, _, rfl⟩

theorem witness_frame_count :
    framed.power.resetHeld = false ∧ framed.audio.frame.isSome = true ∧ framed.power.part ≠ .rest
    ∧ ∃ t, exec (.frameSync 256 0 plainOrder) framed = .next t ∧ t.cycle.frameCount = 1 :=
  ⟨rfl, rfl, by decide, _, rfl, by decide +kernel⟩

theorem witness_only_writes :
    Instr.arbiterGrant ≠ .captureWriteComplete ∧ (∀ l, Instr.arbiterGrant ≠ .foldBurstComplete l)
    ∧ ∃ t, exec .arbiterGrant { writing with pending := [] } = .next t ∧ t.mem.readWord 28672 = 5 :=
  ⟨by decide, fun _ => by simp, _, rfl, by decide⟩

theorem witness_only_power_commands :
    (∀ h, Instr.watchdogExpiry ≠ .rest h) ∧ (∀ h, Instr.watchdogExpiry ≠ .wake h)
    ∧ ∃ t, exec .watchdogExpiry run = .next t ∧ t.power = run.power :=
  ⟨fun _ => by simp, fun _ => by simp, _, rfl, by decide⟩

theorem witness_every_step :
    writing.pending = [.captureWriteComplete] ∧ State.reset.pending = []
    ∧ step State.reset = .next { State.reset with now := 1 } := ⟨rfl, rfl, rfl⟩

/-- RESETN held low. -/
def held : State := { State.reset with power := { State.reset.power with resetHeld := true } }

theorem witness_resets :
    let x := run.setPort .a { run.portA with
      transfer := some { kind := .windowRead, stateByte := 9, count := 2, latch := .absent, event := none, partIn := [] } }
    run.serves (req 0) 0 ∧ held.power.resetHeld = true ∧ exec (.rest (req 0)) held = .next held
    ∧ Instr.rest (req 0) ≠ .reset ∧ Instr.rest (req 0) ≠ .pwrlowAssert
    ∧ (after (exec .reset x)).portA.transfer.map Transfer.kind = some .ignored
    ∧ (after (exec (.windowRead .a false 2 true) (after (exec .reset x)))).portA.shifted = [0, 0]
    ∧ (after (exec (.resetPart (req 0)) x)).portA.transfer = none :=
  ⟨⟨rfl, by decide, rfl⟩, rfl, rfl, by decide, by decide, by decide +kernel, by decide +kernel, by decide +kernel⟩

theorem witness_screening :
    let fell := fun k n => run.setPort .a { run.portA with
      transfer := some { kind := k, stateByte := 9, count := n, latch := .absent, event := none, partIn := [] } }
    (run.port .a).transfer = none ∧ run.requestByte .a = run.stateByte .a
    ∧ (fell .readReply 0).requestByte .a = 9 ∧ (fell .ignored 0).requestByte .a = run.stateByte .a
    ∧ (fell .readReply 1).requestByte .a = run.stateByte .a
    ∧ State.reset.power.resetHeld = false ∧ State.reset.power.part = .starting ∧ (req 60).len.toNat = 60
    ∧ Instr.setGrid (req 60) 3 1 ≠ .status (req 60)
    ∧ statusOf (after (exec (.setGrid (req 60) 0 0) State.reset)) = some .starting
    ∧ statusOf (after (exec (.setGrid (req 61) 0 0) State.reset)) = some .badArg
    ∧ statusOf (after (exec (.setGrid (req 3) 0 0) run)) = some .badArg
    ∧ statusOf (after (exec (.postNote (req 17) []) run)) = some .badArg
    ∧ statusOf (after (exec (.postNote (req 0) []) run)) = some .badArg
    ∧ statusOf (after (exec (.requestCut .a [18, 7, 60]) run)) = some .cut
    ∧ statusOf (after (exec (.requestCut .a [18, 7, 61]) run)) = some .badArg
    ∧ statusOf (after (exec (.unknownRequest (req 60) 15) run)) = some .unknown
    ∧ statusOf (after (exec (.unknownRequest (req 61) 15) run)) = some .badArg := by decide +kernel

theorem witness_set_tempo :
    run.serves (req 3) 3 ∧ run.cycle.state = .empty ∧ (looping 0 0).cycle.state ≠ .empty
    ∧ resting.serves (req 3) 3 ∧ resting.power.part = .rest
    ∧ (after (exec (.setTempo (req 3) 960 16) run)).cycle.len = some 480000
    ∧ resultsOf (after (exec (.setTempo (req 3) 960 16) run)) = [0x07, 0x53, 0x00, 16]
    ∧ statusOf (after (exec (.setTempo (req 3) 960 0) run)) = some .badArg
    ∧ statusOf (after (exec (.setTempo (req 3) 960 16) (looping 0 0))) = some .badState
    ∧ statusOf (after (exec (.setTempo (req 3) 960 16) resting)) = some .resting := by
  unfold State.serves; decide +kernel

theorem witness_set_length :
    run.serves (req 4) 4 ∧ run.power.part ≠ .rest ∧ run.cycle.state = .empty
    ∧ (after (exec (.setLength (req 4) 9599) run)).cycle.len = some 9600
    ∧ (after (exec (.setLength (req 4) 2880001) run)).cycle.len = some 2880000
    ∧ (looping 0 0).serves (req 4) 4 ∧ resting.serves (req 4) 4 := by
  unfold State.serves; decide +kernel

/-- The part with the tap sequence given, at a stamp. -/
def tapped (count last sum stamp : Nat) : State :=
  { run with cycle := { Cycle.reset with frameCount := stamp, tap := { count := count, last := last, sum := sum } } }

theorem witness_tap :
    run.serves (req 0) 0 ∧ run.power.part ≠ .rest ∧ run.cycle.state = .empty ∧ run.cycle.tap.count = 0
    ∧ stampSub (tapped 2 1000 20000 13000).cycle.frameCount 1000 = 12000
    ∧ stampSub (tapped 3 1000 20000 73000).cycle.frameCount 1000 = 72000
    ∧ stampSub (tapped 2 1000 20000 73001).cycle.frameCount 1000 = 72001
    ∧ (after (exec (.tap (req 0)) (tapped 3 61000 60000 91250))).cycle.len = some 240664
    ∧ (after (exec (.tap (req 0)) (tapped 2 1000 20000 12999))).cycle.tap = { count := 1, last := 12999, sum := 0 }
    ∧ (after (exec (.tap (req 0)) (looping 0 0))).cycle.ignoredTaps = 1 := by
  unfold State.serves; decide +kernel

/-- The part with its cycle PAUSED. -/
def paused : State := { run with cycle := { rolling 0 0 with state := .paused } }

theorem witness_play_and_stop_all :
    let o := opening 0 4 1 .overdubbing (.at 50000) (playing 5 50000)
    let z := opening 0 4 0 .overdubbing (.at 50001) (playing 5 50000)
    let r := opening 1 4 65 .recording (.first 5 49936) (playing 5 50000)
    paused.serves (req 1) 1 ∧ paused.power.part ≠ .rest ∧ paused.cycle.state = .paused ∧ (3 : Byte).toNat ≤ 3
    ∧ (after (exec (.playAll (req 1) 3) paused)).cycle.state = .running
    ∧ (after (exec (.playAll (req 1) 3) paused)).cycle.origin = true
    ∧ statusOf (after (exec (.playAll (req 1) 3) run)) = some .badState
    ∧ o.serves (req 1) 1 ∧ o.cycle.state = .running ∧ o.cycle.len = some 196085
    ∧ (o.track 0).openLayer = some 4 ∧ (o.layer? 4).isSome = true ∧ (o.recordOf 4).isSome = true
    ∧ (∀ t' : TrackId, t' ≠ 0 → (o.track t').openLayer ≠ some 4 ∧ (o.track t').marker = none)
    ∧ (o.taken 4, z.taken 4, r.taken 4) = (1, 0, 65) ∧ z.layers.Pairwise (fun e f => e.1 < f.1)
    ∧ fixSpan 196085 5 49936 65 = (1, 49936, 65) ∧ (o.track 1).openLayer = none
    ∧ (after (exec (.stopAll (req 1) 0) (withCues [cueOf 9 .record 6 0] o))).cues.entries = []
    ∧ (after (exec (.stopAll (req 1) 0) o)).cycle.state = .paused
    ∧ ((after (exec (.stopAll (req 1) 0) o)).layer? 4).map (fun l => (l.state, l.length, l.tail)) =
      some (.closed, 1, true)
    ∧ (after (exec (.stopAll (req 1) 0) z)).layer? 4 = none
    ∧ ((after (exec (.stopAll (req 1) 0) r)).layer? 4).map (fun l => (l.state, l.start, l.length)) =
      some (.closed, .at 49936, 65)
    ∧ ((after (exec (.stopAll (req 1) 0) r)).track 1).span = some 1 := by
  unfold State.serves; decide +kernel

theorem witness_clear_all :
    (playing 5 50000).serves (req 1) 1 ∧ (3 : Byte).toNat ≤ 3
    ∧ (after (exec (.clearAll (req 1) 3) (playing 5 50000))).cycle.state = .empty
    ∧ (after (exec (.clearAll (req 1) 3) (playing 5 50000))).layers = []
    ∧ (after (exec (.clearAll (req 1) 3) (playing 5 50000))).mem.free = [7, 8, 9, 5] := by
  unfold State.serves; decide +kernel

theorem witness_clear_all_pools : PoolsWithin (playing 5 50000) := by apply pools_of <;> decide +kernel

theorem witness_record :
    run.serves (req 2) 2 ∧ argTrack 5 = some 5 ∧ (run.track 5).state = .empty ∧ (run.track 5).stack = []
    ∧ (run.track 5).redo = [] ∧ run.freeId = some 1 ∧ run.freeRecord = some 0
    ∧ (after (exec (.record (req 2) 5 3) run)).cycle.state = .defining
    ∧ ((after (exec (.record (req 2) 5 3) run)).track 5).state = .recording := by
  unfold State.serves; decide +kernel

theorem witness_overdub_and_replace :
    (playing 5 50000).serves (req 2) 2 ∧ (playing 5 50000).cycle.state = .running
    ∧ ((playing 5 50000).track 0).state = .playing ∧ ((playing 5 50000).track 0).span = some 1
    ∧ ((playing 5 50000).track 0).stack.length < 8 ∧ ((playing 5 50000).track 0).redo = []
    ∧ (playing 5 50000).freeId = some 1 ∧ (playing 5 50000).freeRecord = some 0
    ∧ ((after (exec (.overdub (req 2) 0 0) (playing 5 50000))).track 0).stack = [.single 3, .single 1]
    ∧ ((after (exec (.replace (req 2) 0 0) (playing 5 50000))).layer? 1).map Layer.start = some (.at 50001) := by
  unfold State.serves; decide +kernel

/-- A track 0 that overdubs layer 4, one frame in. -/
def overdubbing : State :=
  { ((playing 5 50000).setLayer 4 (Layer.fresh 0 .opened .recorded (.at 50000) false true)).setTrack 0
      { (playing 5 50000).track 0 with
        state := .overdubbing, stack := [.single 3, .single 4], openLayer := some 4 } with
    capture := { Capture.reset with
      records := (Vector.replicate 12 none).set 0 (some
        { layer := 4, track := 0, phase := .inStep, startStamp := 500000, readStamp := 500001, endStamp := none,
          nextOff := 0, buf := [0], closeOrder := none }) } }

theorem witness_close :
    overdubbing.serves (req 2) 2 ∧ overdubbing.cycle.state = .running ∧ argTrack 0 = some 0
    ∧ (overdubbing.track 0).state = .overdubbing ∧ (overdubbing.track 0).openLayer = some 4
    ∧ (overdubbing.layer? 4).isSome = true ∧ (overdubbing.recordOf 4).isSome = true
    ∧ stampSub (stampAdd overdubbing.cycle.frameCount 1) 500000 = 1
    ∧ ((after (exec (.close (req 2) 0 0) overdubbing)).layer? 4).map (fun l => (l.state, l.length)) =
      some (.closed, 1)
    ∧ statusOf (after (exec (.close (req 2) 0 0) (playing 5 50000))) = some .badState := by
  unfold State.serves; decide +kernel

theorem witness_mute_and_unmute :
    (playing 5 50000).serves (req 2) 2 ∧ argTrack 0 = some 0
    ∧ ((after (exec (.mute (req 2) 0 0) (playing 5 50000))).track 0).muteTarget = 0
    ∧ ((after (exec (.unmute (req 2) 0 0) (playing 5 50000))).track 0).muteTarget = 32768 := by
  unfold State.serves; decide +kernel

/-- The same part after the newest layer was undone. -/
def undone : State := after (exec (.undo (req 2) 0 0) (playing 5 50000))

theorem witness_undo_and_redo :
    (playing 5 50000).serves (req 2) 2 ∧ ((playing 5 50000).track 0).stack = [] ++ [.single 3]
    ∧ Entry.single 3 ∉ ([] : List Entry) ∧ 3 ∉ (((playing 5 50000).track 0).redo).drop 3
    ∧ (playing 5 50000).layer? 3 = some layer0 ∧ layer0.state = .closed
    ∧ (undone.track 0).redo = [3] ∧ (undone.track 0).openLayer = none ∧ (undone.layer? 3).isSome = true
    ∧ undone.serves (req 2) 2
    ∧ ((after (exec (.redo (req 2) 0 0) undone)).track 0).stack = [.single 3]
    ∧ ((opening 0 9 1 .overdubbing (.at 0) (stacked 7)).track 0).stack.length = 8
    ∧ statusOf (after (exec (.redo (req 2) 0 0) (opening 0 9 1 .overdubbing (.at 0) (stacked 7)))) = some .stackFull
    ∧ statusOf (after (exec (.redo (req 2) 0 0) (opening 0 9 1 .overdubbing (.at 0) (stacked 6)))) = some .badState
    ∧ statusOf (after (exec (.undo (req 2) 1 0) run)) = some .badState
    ∧ statusOf (after (exec (.redo (req 2) 1 0) run)) = some .badState := by
  unfold State.serves; decide +kernel

theorem witness_clear_track :
    let s := withCues [cueOf 9 .record 6 0, { cueOf 10 .record 6 0 with target := some 1 }] { playing 5 50000 with
      switches := { Switches.reset with
        recent := Vector.replicate 6 (some { port := .a, time := 0, action := .record, point := ⟨5, 0⟩ }) } }
    s.serves (req 2) 2 ∧ (s.track 0).state ≠ .empty ∧ (s.track 1).state = .empty ∧ (s.track 1).stack = []
    ∧ (s.track 1).redo = []
    ∧ ((after (exec (.clearTrack (req 2) 0 3) s)).cues.entries.map Cue.id) = [10]
    ∧ ((after (exec (.clearTrack (req 2) 1 3) s)).cues.entries.map Cue.id) = [9]
    ∧ (after (exec (.clearTrack (req 2) 1 3) s)).switches.recent[(1 : TrackId)] = none
    ∧ ((after (exec (.clearTrack (req 2) 1 3) s)).switches.recent[(0 : TrackId)]).isSome = true
    ∧ ((after (exec (.clearTrack (req 2) 0 3) s)).track 0).stack = [] := by
  unfold State.serves; decide +kernel

/-- A defining recording of layer 1 on track 0 after n frames. -/
def defining (n : Nat) : State :=
  opening 0 1 n .recording (.first 0 0)
    { run with cycle := { Cycle.reset with state := .defining, pos := n, frameCount := 500000, gen := 1 } }

theorem witness_first_recordings_close :
    let r := fun n => opening 1 4 n .recording (.first 5 49936) (playing 5 50000)
    (defining 9600).serves (req 1) 1 ∧ (defining 9600).serves (req 2) 2 ∧ (defining 9600).power.part ≠ .rest
    ∧ (defining 9600).cycle.state = .defining ∧ ((defining 9600).track 0).state = .recording
    ∧ ((defining 9600).track 0).openLayer = some 1 ∧ ((defining 9600).track 0).stack = [.single 1]
    ∧ ((defining 9600).layer? 1).map Layer.start = some (.first 0 0) ∧ (defining 9600).taken 1 = 9600
    ∧ ((defining 9600).recordOf 1).isSome = true
    ∧ (∀ t', t' ≠ 0 → ((defining 9600).track t').openLayer = none)
    ∧ (defining 9600).layers.Pairwise (fun e f => e.1 < f.1)
    ∧ (after (exec (.close (req 2) 0 3) (defining 9599))).cycle.state = .empty
    ∧ (after (exec (.close (req 2) 0 3) (defining 9599))).layers = []
    ∧ (after (exec (.stopAll (req 1) 0) (defining 9599))).cycle.state = .empty
    ∧ (after (exec (.close (req 2) 0 0) (defining 9600))).cycle.len = some 9600
    ∧ (after (exec (.close (req 2) 0 0) (defining 9600))).cycle.state = .running
    ∧ (after (exec (.stopAll (req 1) 0) (defining 9600))).cycle.state = .paused
    ∧ ((after (exec (.stopAll (req 1) 0) (defining 9600))).layer? 1).map (fun l => (l.start, l.length)) =
      some (.at 0, 9600)
    ∧ ((r 1).track 1).state = .recording ∧ ((r 1).layer? 4).map Layer.start = some (.first 5 49936)
    ∧ ((r 0).taken 4, (r 1).taken 4) = (0, 1)
    ∧ ((after (exec (.close (req 2) 1 0) (r 1))).layer? 4).map (fun l => (l.start, l.length)) = some (.at 49936, 1)
    ∧ ((after (exec (.close (req 2) 1 0) (r 0))).track 1).state = .empty := by
  unfold State.serves; decide +kernel

/-- R34 by hand on L = 10: the span that fits at the true place, the span that fits at the start position, and neither. -/
theorem test_fix_span_edges :
    fixSpan 10 4 3 7 = (1, 3, 7) ∧ fixSpan 10 1 3 8 = (4, 13, 8) ∧ fixSpan 10 7 3 77 = (8, 3, 77)
    ∧ fixSpan 10 7 3 78 = (8, 3, 77) := by decide

theorem witness_track_wraps_decay :
    let d := fun a b => (folded a b [7]).decayTrack 0
    PoolsWithin (folded 126 126 [7]) ∧ (stackIds ((folded 126 126 [7]).track 0).stack).Nodup
    ∧ ((folded 126 126 [7]).layer? 3).map Layer.state = some .folding ∧ 3 ∉ (folded 126 126 [7]).fresh
    ∧ (127 * 16384 + 16384) / 32768 = 64 ∧ (126 * 16384 + 16384) / 32768 = 63
    ∧ (d 127 127).fold.map Fold.pendingGain = some 16384
    ∧ ((d 127 127).layer? 7).map Layer.gain = some 16384
    ∧ (d 126 127).fold = none ∧ (d 126 127).layer? 3 = none
    ∧ ((d 126 127).layer? 4).map (fun l => (l.state, l.gain)) = some (.closed, 64)
    ∧ ((d 126 127).track 0).stack = [.single 4, .single 7]
    ∧ ((d 127 126).track 0).stack = [.single 3, .single 7] ∧ (d 127 126).layer? 6 = none
    ∧ ((d 126 126).track 0).stack = [.single 7] :=
  ⟨by apply pools_of <;> decide +kernel, by decide +kernel⟩

/-- A track 0 that overdubs layer 4 from position 196,000, at the wrap. -/
def atWrap (n : Nat) : State := opening 0 4 n .overdubbing (.at 196000) (playing 6 0)

theorem witness_track_wraps_roll :
    let u := (atWrap 86).roll 0
    let none40 := { atWrap 86 with
      layers := (List.range 40).map fun i => (i + 1, { layer0 with state := if i = 3 then .opened else .closed
                                                                   start := if i = 3 then .at 196000 else .at 0 }) }
    let eight := opening 0 9 86 .overdubbing (.at 196000) { stacked 7 with cycle := rolling 6 0, fold := some fold346 }
    ((atWrap 86).track 0).openLayer = some 4 ∧ ((atWrap 86).track 0).span = some 1
    ∧ ((atWrap 86).layer? 4).isSome = true ∧ ((atWrap 86).recordOf 4).isSome = true
    ∧ 1 * 196085 - 196000 = 85 ∧ ((atWrap 1).recordOf 4).map CapRec.startStamp = some (atWrap 1).cycle.frameCount
    ∧ (atWrap 1).roll 0 = atWrap 1
    ∧ (atWrap 86).freeId = some 1 ∧ ((atWrap 86).track 0).stack.length < 8
    ∧ (atWrap 86).freeRecord.isSome = true ∧ (u.track 0).stack = [.single 3, .single 4, .single 1]
    ∧ (u.track 0).marker = some (4, 1) ∧ (u.layer? 4).map (fun l => (l.state, l.length)) = some (.closed, 85)
    ∧ u.portA.queue.map (fun e => (e.kind, e.layer, e.detail)) = [(.layerRolled, some 4, 1)]
    ∧ none40.freeId = none ∧ ((none40.roll 0).track 0).state = .playing
    ∧ (none40.roll 0).portA.queue.map Event.kind = [.layerClosed, .stackFull, .trackState]
    ∧ eight.freeId.isSome = true ∧ (eight.track 0).stack.length = 8 ∧ eight.fold.isSome = true
    ∧ (eight.roll 0).portA.queue.map Event.kind = [.layerClosed, .stackFull, .trackState]
    ∧ (eight.roll 0).portA.queue.map Event.detail = [1, 1, 2] := by decide +kernel

/-- A track 0 that rolled layer 4, of `length` samples from position 196,000, into layer 1, `n` frames ago. -/
def rolled (length n : Nat) : State :=
  (opening 0 1 n .overdubbing (.at 0) ((playing 6 (n - 1)).setLayer 4
    { layer0 with start := .at 196000, length := length, extents := [11] })).modTrack 0 fun tr =>
      { tr with stack := [.single 3, .single 4, .single 1], marker := some (4, 1) }

theorem witness_track_wraps_close_at_roll :
    let c := fun length n age => ((rolled length n).closeAtCut 0 (.back age { pass := 6, pos := 0 }) false).layer? 4
    ((rolled 85 3).track 0).openLayer = some 1 ∧ ((rolled 85 3).track 0).marker = some (4, 1)
    ∧ ((rolled 85 3).recordOf 1).isSome = true ∧ ((rolled 85 3).layer? 4).isSome = true
    ∧ Entry.single 4 ∈ ((rolled 85 3).track 0).stack ∧ (rolled 85 3).layers.Pairwise (fun e f => e.1 < f.1)
    ∧ (rolled 85 3).taken 1 = 3
    ∧ (c 85 3 2).map (fun l => (l.length, l.tail)) = some (85, true)
    ∧ (c 85 3 3).map (fun l => (l.length, l.tail)) = some (84, true)
    ∧ (c 40 3 3).map (fun l => (l.length, l.tail)) = some (40, true)
    ∧ c 85 3 87 = none ∧ (c 85 1 0).map Layer.length = some 85
    ∧ (((rolled 85 3).closeAtCut 0 (.back 2 { pass := 5, pos := 0 }) false).layer? 1) = none := by decide +kernel

theorem witness_stack_admission :
    let full := { stacked 39 with tracks := (stacked 8).tracks }
    run.freeId = some 1 ∧ { run with layers := (List.range 40).map fun i => (i + 1, layer0) }.freeId = none
    ∧ (stacked 8).freeId = some 9 ∧ 8 ≤ ((stacked 8).track 0).stack.length ∧ (stacked 8).fold = none
    ∧ (stacked 8).mem.free = 7 :: [8, 9] ∧ (stacked 8).layers.length ≤ 38
    ∧ ((stacked 8).layer? 1).map Layer.state = some .closed ∧ full.freeId = some 40 ∧ full.layers.length = 39
    ∧ (match (stacked 8).takeRoom 0 with | .ok (u, id) => ((u.track 0).stack.length, id, u.mem.free) | .error _ => (0, 0, [])) =
      (7, 10, [8, 9])
    ∧ (match full.takeRoom 0 with | .ok _ => none | .error st => some st) = some .stackFull
    ∧ (match { stacked 8 with mem := { run.mem with free := [] } }.takeRoom 0 with
        | .ok _ => none | .error st => some st) = some .stackFull
    ∧ (match (stacked 7).takeRoom 0 with | .ok (_, id) => some id | .error _ => none) = some 8
    ∧ (full.track 0).state = .playing ∧ (full.track 0).span.isSome = true ∧ full.serves (req 2) 2
    ∧ statusOf (after (exec (.overdub (req 2) 0 0) full)) = some .stackFull := by
  unfold State.serves; decide +kernel

/-- The fold of layers 3 and 4 at the completion of a result write of two samples at an offset. -/
def foldWriting (o length : Nat) (rest free : List Nat) : State :=
  let s := folded 32768 32768 rest
  { s with
    fold := some { fold346 with reads := [], nextOff := o, out := some [1, 2] }
    layers := s.layers.map fun e => if e.1 = 6 then (6, { e.2 with length := length }) else e
    mem := { s.mem with free := free, grant := some (.foldWrite (some 10) o [1, 2]) } }

theorem witness_folds :
    let s := foldWriting 4094 4096 [7] [8]
    let m := fun rest => after (exec (.foldBurstComplete []) (foldWriting 4094 4097 rest []))
    let u := after (exec (.undo (req 2) 0 0) (folded 32768 32768 []))
    s.power.resetHeld = false ∧ s.layers.Pairwise (fun e f => e.1 < f.1) ∧ (s.layer? 6).map Layer.length = some 4096
    ∧ s.window .a = none ∧ s.window .b = none ∧ (4094 + 2) % 4096 = 0
    ∧ (after (exec (.foldBurstComplete []) s)).fold = none
    ∧ ((after (exec (.foldBurstComplete []) s)).track 0).stack = [.single 6, .single 7]
    ∧ (after (exec (.foldBurstComplete []) s)).mem.free = [8, 5, 6]
    ∧ (after (exec (.foldBurstComplete []) s)).portA.queue.map Event.kind = [.foldDone]
    ∧ stackPairs ((List.range 7).map fun i => Entry.single (i + 10)) = []
    ∧ (m [10, 11, 12, 13, 14, 15]).fold = none
    ∧ (((m [10, 11, 12, 13, 14, 15]).track 0).stack.take 2) = [.single 3, .single 4]
    ∧ (((m [10, 11, 12, 13, 14, 15, 16]).track 0).stack.take 2) = [.single 4, .single 10]
    ∧ (m [10, 11, 12, 13, 14, 15, 16]).portA.queue.map Event.kind = [.foldAbandoned, .layerRetired]
    ∧ (folded 32768 32768 []).serves (req 2) 2 ∧ ((folded 32768 32768 []).track 0).stack = [.pair 3 4]
    ∧ ((folded 32768 32768 []).track 0).redo = [] ∧ u.fold = none ∧ (u.track 0).stack = [.single 3]
    ∧ (u.track 0).redo = [4] := by
  unfold State.serves; decide +kernel

theorem witness_quantised :
    let s := playing 5 60000
    let p := withCues [cueOf 9 .overdub 5 73531] s
    let q := withCues [cueOf 9 .overdub 6 0] s
    let f := withCues ((List.range 16).map fun i => { cueOf (i + 1) .mute 6 0 with target := some 3 }) s
    s.serves (req 2) Action.overdub.argLen ∧ Action.overdub.targetOf 0 = some (some 0)
    ∧ argQuantum 1 = some .beat ∧ s.dueOf .overdub .beat s.pressNow = .due 5 73531
    ∧ p.slot (some 0) Action.overdub.family = some (cueOf 9 .overdub 5 73531)
    ∧ q.slot (some 0) Action.overdub.family = some (cueOf 9 .overdub 6 0)
    ∧ s.slot (some 0) Action.overdub.family = none ∧ s.cues.entries.length < 16
    ∧ f.slot (some 0) Action.overdub.family = none ∧ 16 ≤ f.cues.entries.length
    ∧ statusOf (after (exec (.overdub (req 2) 0 1) p)) = some .joined
    ∧ statusOf (after (exec (.overdub (req 2) 0 1) q)) = some .accepted
    ∧ statusOf (after (exec (.overdub (req 2) 0 1) s)) = some .accepted
    ∧ statusOf (after (exec (.overdub (req 2) 0 1) f)) = some .full := by
  unfold State.serves; decide +kernel

theorem witness_dues :
    CycleInRange (looping 5 60000).cycle ∧ (looping 5 60000).cycle.len = some 196085
    ∧ (looping 5 60000).dueOf .record .beat (looping 5 60000).pressNow = .due 5 73531 :=
  ⟨by constructor <;> simp [looping, rolling, Cycle.reset, TapSeq.empty], rfl, by decide +kernel⟩

/-- The place (6, 0) reached. -/
def wrapped : Reached := { pass := 6, pos := 0, beat := some (0, true), wrap := true }

theorem witness_cues_take_effect :
    let s := withCues [cueOf 9 .mute 6 0] (playing 6 0)
    let d := withCues [cueOf 9 .close 6 0] (playing 6 0)
    run.cues.entries = [] ∧ s.cues.entries = [cueOf 9 .mute 6 0]
    ∧ (cueOf 9 .mute 6 0).duePass = wrapped.pass ∧ (cueOf 9 .mute 6 0).duePos = wrapped.pos
    ∧ ¬ ((cueOf 9 .mute 6 1).duePass = wrapped.pass ∧ (cueOf 9 .mute 6 1).duePos = wrapped.pos)
    ∧ (∃ u, s.act .mute (some 0) .arriving = .ok u) ∧ (∃ st, d.act .close (some 0) .arriving = .error st)
    ∧ s.serves (req 2) 2 ∧ s.cues.entries.find? (fun c => c.id == 9) = some (cueOf 9 .mute 6 0)
    ∧ s.cues.entries.find? (fun c => c.id == 10) = none
    ∧ (after (exec (.cancelCue (req 2) 9) s)).cues.entries = []
    ∧ statusOf (after (exec (.cancelCue (req 2) 10) s)) = some .notFound := by
  refine ⟨rfl, rfl, rfl, rfl, by decide, ⟨_, rfl⟩, ⟨_, rfl⟩, ?_, by decide, by decide, by decide +kernel,
    by decide +kernel⟩
  unfold State.serves; decide +kernel

theorem witness_boundary_work :
    let s := withCues [cueOf 9 .mute 6 0, cueOf 10 .undo 6 0] (playing 6 0)
    wrapped.wrap = true ∧ s.wrapping 6 = [0] ∧ (s.track 0).span = some 1 ∧ wrapped.pass % 1 = 0
    ∧ (s.boundaryWork wrapped [none] [0]).cues.entries = []
    ∧ (s.boundaryWork { wrapped with pos := 1 } [none, some 0] [0]).cues.entries.length = 2
    ∧ (s.atBoundary plainOrder (some wrapped)).cues.entries = [] := by decide +kernel

theorem witness_grid_track_and_layer :
    run.serves (req 2) 2 ∧ run.serves (req 8) 8 ∧ run.serves (req 3) 3
    ∧ argTrack 6 = none ∧ argTrack 5 = some 5 ∧ run.layer? 3 = none
    ∧ (playing 0 0).layer? 3 = some layer0 ∧ layer0.state ≠ .folding
    ∧ ({ layer0 with state := .folding } : Layer).state = .folding
    ∧ (after (exec (.setGrid (req 2) 65 17) run)).cycle.beats = 64
    ∧ (after (exec (.setGrace (req 2) 4801) run)).cycle.grace = 4800
    ∧ ((after (exec (.setTrack (req 8) 5 32769 65535 0 0) run)).track 5).feedback = 32768
    ∧ ((after (exec (.setLayerGain (req 3) 3 63) (playing 0 0))).layer? 3).map Layer.gain = some 64 := by
  unfold State.serves; decide +kernel

theorem witness_reads :
    run.power.resetHeld = false ∧ (req 0).len.toNat = 0 ∧ run.serves (req 1) 1 ∧ run.serves (req 0) 0
    ∧ (resultsOf (after (exec (.status (req 0)) (looping 5 60000)))).take 11 =
      [1, 2, 0x02, 0xFD, 0xF5, 0x00, 0xEA, 0x60, 5, 8, 4]
    ∧ (resultsOf (after (exec (.readClips (req 1) 0) { run with mixer := { Mixer.reset with frontClips := 258 } }))) =
      [1, 2, 0, 0, 0, 0, 0]
    ∧ statusOf (after (exec (.readTrack (req 1) 6) run)) = some .badArg
    ∧ statusOf (after (exec (.readLayer (req 1) 41) run)) = some .notFound
    ∧ resultsOf (after (exec (.readCues (req 0)) run)) = [0, 0, 1, 0, 0, 0, 0, 0]
    ∧ State.reset.power.resetHeld = false ∧ resultsOf (after (exec (.identify (req 0)) State.reset)) = [2, 112, 1]
    ∧ resultsOf (after (exec (.readTrack (req 1) 0) (playing 5 0))) =
      [2, 1, 0, 0x80, 0, 0x80, 0, 0x80, 0, 1, 0x80, 0, 0x80, 0, 1, 1, 3, 0, 0, 0, 0, 0, 0]
    ∧ resultsOf (after (exec (.readLayer (req 1) 3) (playing 5 0))) =
      [3, 0, 1, 0, 0, 0, 0, 0, 0, 0, 0, 200, 0, 1, 0, 0x80, 0, 0, 0, 0, 1, 0, 0, 0]
    ∧ statusOf (after (exec (.readFaults (req 0)) run)) = some .ok := by
  unfold State.serves; decide +kernel

theorem witness_switch_map :
    run.serves (req 6) 6 ∧ run.serves (req 4) 4 ∧ run.serves (req 1) 1
    ∧ argSwitch 24 = none ∧ argSwAction 13 = none ∧ argSwTarget 7 = none ∧ argQuantum 4 = none
    ∧ argSwitch 23 = some 23 ∧ argSwAction 12 = some .tap ∧ argSwTarget 6 = some .selected
    ∧ (after (exec (.setPressTiming (req 4) 149 601) run)).switches.holdMs = 150
    ∧ (after (exec (.setPressTiming (req 4) 2001 99) run)).switches.doubleMs = 100
    ∧ (after (exec (.selectTrack (req 1) 5) run)).switches.portA.selected = 5
    ∧ statusOf (after (exec (.selectTrack (req 1) 6) run)) = some .badArg
    ∧ statusOf (after (exec (.setSwitch (req 6) 23 12 0 13 6 3) run)) = some .badArg
    ∧ ((after (exec (.setSwitch (req 6) 23 12 0 6 6 3) run)).switches.map[(23 : SwitchCode)]) =
      { tap := .tap, hold := none, double := some .undo, target := .selected, quantum := .cycle } := by
  unfold State.serves; decide +kernel

/-- The part with the press machine of port A and code 23 in a state. -/
def pressed (m : Machine) (double hold : Option SwAction) : State :=
  (run.setMachine .a 23 m).setEntry 23
    { tap := .recordCycle, hold := hold, double := double, target := .track 2, quantum := .none }

/-- A press time 500 ms after the timebase began. -/
def press0 : PressTime := { pass := 0, pos := 0, frame := 0, gen := 0, time := 8000 }

/-- What a double window keeps of a map entry. -/
def kept : EntryCopy := { tap := .recordCycle, double := .undo, target := .track 2, quantum := .none }

theorem witness_press_machines :
    run.serves (req 1) 1 ∧ argSwitch 24 = none ∧ argSwitch 23 = some 23
    ∧ (pressed .up none none).machine .a 23 = .up
    ∧ (pressed (.down press0 (some 16000)) none none).machine .a 23 = .down press0 (some 16000)
    ∧ (pressed .held none none).machine .a 23 = .held
    ∧ (pressed (.awaitSecond press0 16000 kept) none none).machine .a 23 = .awaitSecond press0 16000 kept
    ∧ (after (exec (.switchDown (req 1) 23) (pressed .up none none))).machine .a 23 =
      .down (pressed .up none none).pressNow (some 8016000)
    ∧ (after (exec (.switchUp (req 1) 23) (pressed (.down press0 none) (some .undo) none))).machine .a 23 =
      .awaitSecond press0 4016000 kept
    ∧ (after (exec (.switchUp (req 1) 23) (pressed (.down press0 none) none none))).cycle.state = .defining
    ∧ (after (exec (.switchUp (req 1) 23) (pressed .held none none))).machine .a 23 = .up
    ∧ (after (exec (.switchDown (req 1) 23)
        (pressed (.awaitSecond press0 16000 kept) none none))).machine .a 23 = .held := by
  unfold State.serves; decide +kernel

theorem witness_press_deadlines :
    let d := fun n h => pressed (.down press0 (some n)) none h
    let w := fun n => pressed (.awaitSecond press0 n kept) none none
    (d 16000 none).power.resetHeld = false ∧ (d 16000 none).machine .a 23 = .down press0 (some 16000)
    ∧ 16000 ≤ (d 16000 none).now ∧ (d 16001 none).now < 16001
    ∧ ((d 16000 (some .undo)).switches.map[(23 : SwitchCode)]).hold = some .undo
    ∧ ((d 16000 none).switches.map[(23 : SwitchCode)]).hold = none
    ∧ (w 16000).machine .a 23 = .awaitSecond press0 16000 kept ∧ (w 16001).now < 16001
    ∧ (after (exec (.holdDeadline .a 23) (d 16000 (some .undo)))).machine .a 23 = .held
    ∧ (after (exec (.holdDeadline .a 23) (d 16000 none))).machine .a 23 = .down press0 none
    ∧ (after (exec (.holdDeadline .a 23) (d 16001 (some .undo)))).machine .a 23 = .down press0 (some 16001)
    ∧ (after (exec (.windowDeadline .a 23) (w 16000))).cycle.state = .defining
    ∧ (after (exec (.windowDeadline .a 23) (w 16001))).cycle.state = .empty := by decide +kernel

/-- A recent at-once action of port A on track 0. -/
def recent0 : Recent := { port := .a, action := .overdub, time := 8000, point := ⟨5, 49021⟩ }

theorem witness_matching_presses :
    let own := cueOf 9 .overdub 5 73531
    let s := withCues [{ own with press := press0 }] (playing 5 60000)
    let late : PressTime := { press0 with time := 8000 + 1599999 }
    let far : PressTime := { press0 with time := 8000 + 1600000 }
    let r := { playing 5 60000 with
      switches := { Switches.reset with recent := Vector.replicate 6 (some recent0) } }
    s.slot (some 0) .transport = some { own with press := press0 }
    ∧ own.origin = Port.b.other ∧ press0.time < late.time + 1600000
    ∧ late.time < press0.time + 1600000 ∧ press0.time + 1600000 ≤ far.time
    ∧ r.slot (some 0) .transport = none ∧ r.switches.recent[(0 : TrackId)] = some recent0
    ∧ recent0.port = Port.b.other ∧ late.time < recent0.time + 1600000
    ∧ run.slot (some 0) .transport = none ∧ run.switches.recent[(0 : TrackId)] = none
    ∧ resolveToggle .overdubToggle (run.track 0).state = none
    ∧ (run.toggle .b 0 .overdubToggle .none far).2.1 = .refusedToggle
    ∧ (s.toggle .b 0 .overdubToggle .beat late).2.2.status = .joined
    ∧ (s.toggle .b 0 .overdubToggle .none far).2.1 = .cue .close
    ∧ resolveToggle .overdubToggle .overdubbing = some .close
    ∧ (s.toggle .a 0 .overdubToggle .none far).2.1 = .cancel
    ∧ (s.toggle .a 0 .overdubToggle .none far).1.cues.entries = []
    ∧ (r.toggle .b 0 .overdubToggle .beat late).2.1 = .cue .overdub
    ∧ (r.toggle .b 0 .overdubToggle .none far).2.2.status = .ok
    ∧ ((r.toggle .b 0 .overdubToggle .none far).1.switches.recent[(0 : TrackId)]).map Recent.port = some .b := by
  decide +kernel

theorem witness_mixer_settings :
    run.serves (req 5) 5 ∧ run.serves (req 4) 4 ∧ run.serves (req 3) 3 ∧ run.serves (req 2) 2
    ∧ run.serves (req 1) 1 ∧ argSlot 8 = none ∧ argSlot 7 = some 7 ∧ argSource 6 0 = none
    ∧ argSource 2 6 = none ∧ argSource 4 7 = some (.input 7)
    ∧ (after (exec (.setMonitor (req 5) 7 65535 1) run)).mixer.frontMonitor[(7 : SlotId)] = 65535
    ∧ (after (exec (.setBus (req 4) 1 2) run)).mixer.earBus = 2
    ∧ (after (exec (.setClick (req 4) 0 8388608) run)).mixer.clickLevel = 8388607
    ∧ (after (exec (.setClick (req 4) 0 8388608) run)).mixer.clickOn = true
    ∧ statusOf (after (exec (.setClick (req 4) 2 0) run)) = some .badArg
    ∧ (after (exec (.setOutput (req 3) 7 4 7) run)).mixer.outputs[(7 : SlotId)] = .input 7
    ∧ (after (exec (.setEdge (req 2) 1024) run)).mixer.edge = 1023
    ∧ (after (exec (.readClips (req 1) 1) { run with mixer := { Mixer.reset with earClips := 5 } })).mixer.earClips = 0
    ∧ statusOf (after (exec (.readClips (req 1) 2) run)) = some .badArg := by
  unfold State.serves; decide +kernel

/-- An importing layer 4 of port A on track 0, with 100 samples still to come. -/
def importing : Layer :=
  { Layer.fresh 0 .importing .imported (.at 0) false false with length := 100, creator := some .a }

theorem witness_open_window :
    let s := playing 5 50000
    let m := s.setLayer 4 importing
    let w := s.setWindow .a (some (Window.opened 3 .read .forward 0))
    s.serves (req 7) 7 ∧ s.power.part ≠ .rest ∧ resting.serves (req 7) 7 ∧ resting.power.part = .rest
    ∧ s.window .a = none ∧ (w.window .a).isSome = true ∧ argDirection 2 = none ∧ argMode 2 = none
    ∧ argDirection 1 = some .reverse ∧ argMode 1 = some .write ∧ s.layer? 9 = none ∧ s.layer? 3 = some layer0
    ∧ m.layer? 4 = some importing
    ∧ ((after (exec (.openWindow (req 7) 3 199 1 0) s)).window .a).map Window.next = some 199
    ∧ statusOf (after (exec (.openWindow (req 7) 3 200 0 0) s)) = some .badArg
    ∧ statusOf (after (exec (.openWindow (req 7) 4 0 0 0) m)) = some .badState
    ∧ statusOf (after (exec (.openWindow (req 7) 4 1 0 1) m)) = some .badArg
    ∧ statusOf (after (exec (.openWindow (req 7) 4 0 0 1) m)) = some .ok
    ∧ statusOf (after (exec (.openWindow (req 7) 3 0 0 0) w)) = some .busy := by
  unfold State.serves; decide +kernel

theorem witness_close_window :
    let s := (playing 5 50000).setLayer 4 importing
    let r := s.setWindow .a (some { Window.opened 3 .read .forward 64 with timedOut := true })
    let w := s.setWindow .a (some { Window.opened 4 .write .forward 0 with excess := 3 })
    let c := s.setWindow .a (some
      { Window.opened 4 .write .forward 64 with buf := List.replicate 64 1, req := .waiting 0 64 })
    let e := s.setWindow .a (some { Window.opened 3 .read .reverse 0 with done := true })
    let h := fun o => s.setWindow .a (some { Window.opened 4 .write .forward (o + 1) with buf := [1], excess := 3 })
    let b := fun free => { (h 0).setLayer 4 { importing with extents := [6] } with mem := { (h 0).mem with free := free } }
    let n := { h 0 with mem := { (h 0).mem with free := [] } }
    ((h 0).layer? 4).map Layer.extents = some [] ∧ (h 0).mem.free = 7 :: [8, 9]
    ∧ n.layers.Pairwise (fun e f => e.1 < f.1)
    ∧ ((after (exec (.closeWindow (req 0)) (h 0))).layer? 4).map Layer.extents = some [7]
    ∧ ((after (exec (.closeWindow (req 0)) (h 0))).window .a).map (fun w => (w.closing, w.req)) =
      some (true, .waiting 16000 64)
    ∧ ((after (exec (.closeWindow (req 0)) (b []))).window .a).map Window.req = some (.waiting 16000 64)
    ∧ statusOf (after (exec (.closeWindow (req 0)) n)) = some .noMemory
    ∧ resultsOf (after (exec (.closeWindow (req 0)) n)) = [0, 0, 0, 0, 0, 3, 0]
    ∧ (after (exec (.closeWindow (req 0)) n)).layer? 4 = none
    ∧ s.serves (req 0) 0 ∧ s.window .a = none ∧ (r.window .a).isSome = true
    ∧ (e.window .a).map (fun w => (w.mode, w.dir, w.done)) = some (.read, .reverse, true)
    ∧ statusOf (after (exec (.closeWindow (req 0)) e)) = some .ok
    ∧ statusOf (after (exec (.closeWindow (req 0)) resting)) = some .resting
    ∧ statusOf (after (exec (.closeWindow (req 0)) s)) = some .badState
    ∧ resultsOf (after (exec (.closeWindow (req 0)) r)) = [0, 0, 0, 64, 1]
    ∧ resultsOf (after (exec (.closeWindow (req 0)) w)) = [0, 0, 0, 0, 0, 3, 0]
    ∧ (after (exec (.closeWindow (req 0)) c)).portA.reply = .pending 7 81 := by
  unfold State.serves; decide +kernel

theorem witness_import_layer :
    let s := paused
    let t := after (exec (.importLayer (req 13) 5 8 0 1568680 1 63) s)
    s.serves (req 13) 13 ∧ argSpan 8 = some 8 ∧ argSpan 3 = none ∧ argFlag 1 = some true
    ∧ s.cycle.state = .paused ∧ (s.track 5).state = .empty ∧ s.holdsImport 5 = false
    ∧ 0 + 1568680 ≤ 8 * 196085 ∧ s.window .a = none ∧ s.freeId = some 1
    ∧ (t.window .a).map Window.layer = some 1 ∧ resultsOf t = [1] ∧ (t.layer? 1).map (fun l => (l.gain, l.length)) = some (64, 1568680)
    ∧ statusOf (after (exec (.importLayer (req 13) 5 8 1 1568680 1 63) s)) ≠ some .ok
    ∧ ((playing 5 50000).track 0).state = .playing ∧ ((playing 5 50000).track 0).span = some 1 := by
  unfold State.serves; decide +kernel

theorem witness_window_link_and_faults :
    let s := { run with faults := { Faults.reset with seq := 65535, seenUnderrun := true, underrunCount := 4 } }
    run.serves (req 2) 2 ∧ run.serves (req 0) 0 ∧ run.serves (req 4) 4
    ∧ (after (exec (.setWindowTimeout (req 2) 256) run)).mem.timeoutA = 256
    ∧ statusOf (after (exec (.setWindowTimeout (req 2) 5) run)) = some .badArg
    ∧ (after (exec (.setLinkThreshold (req 2) 255) run)).audio.threshold = 255
    ∧ statusOf (after (exec (.setLinkThreshold (req 2) 256) run)) = some .badArg
    ∧ statusOf (after (exec (.setLinkThreshold (req 2) 0) run)) = some .badArg
    ∧ resultsOf (after (exec (.clearLinkCount (req 0)) { run with audio := { Audio.reset with linkErrors := 258 } })) =
      [1, 2, 0]
    ∧ (after (exec (.clearFaults (req 4) 65535) s)).faults = { Faults.reset with seq := 65535 }
    ∧ resultsOf (after (exec (.clearFaults (req 4) 65534) s)) = [255, 255]
    ∧ statusOf (after (exec (.clearFaults (req 4) 65536) s)) = some .badArg := by
  unfold State.serves; decide +kernel

theorem witness_fault_record :
    let o : Occurrence := { hardFault.1 with kind := .underrun }
    let s := fun r => { run with faults := { Faults.reset with record := r, seq := 65535 } }
    (s none).faults.record = none ∧ o.kind.hard = false ∧ hardFault.1.kind.hard = true
    ∧ ((s none).takeFault o).faults.record = some (o, 0)
    ∧ ((s (some (o, 65535))).takeFault hardFault.1).faults.record = some (hardFault.1, 0)
    ∧ ((s (some (o, 65535))).takeFault o).faults.record = some (o, 65535)
    ∧ ((s (some hardFault)).takeFault hardFault.1).faults.second = true := by decide +kernel

theorem witness_rest_and_wake :
    run.serves (req 0) 0 ∧ resting.serves (req 0) 0 ∧ run.power.part = .run ∧ run.anyOpen = false
    ∧ run.anyImporting = false ∧ run.fold = none ∧ overdubbing.anyOpen = true
    ∧ ((playing 0 0).setLayer 4 importing).anyImporting = true ∧ resting.power.latch = false
    ∧ (after (exec (.rest (req 0)) (withCues [cueOf 9 .mute 6 0] (playing 5 50000)))).power.part = .rest
    ∧ statusOf (after (exec (.rest (req 0)) overdubbing)) = some .busy
    ∧ (after (exec (.wake (req 0)) resting)).power.part = .run
    ∧ statusOf (after (exec (.wake (req 0)) run)) = some .badState
    ∧ statusOf (after (exec (.rest (req 0)) resting)) = some .resting := by
  unfold State.serves; decide +kernel

theorem witness_interest_and_mask :
    run.serves (req 4) 4 ∧ run.serves (req 1) 1
    ∧ (after (exec (.setInterest (req 4) 0x7FFFFFFE) run)).portA.interest = 0x7FFFFFFE
    ∧ statusOf (after (exec (.setInterest (req 4) 0x80000000) run)) = some .badArg
    ∧ (after (exec (.setMaskLevel (req 1) 2) run)).portA.mask = .closed
    ∧ statusOf (after (exec (.setMaskLevel (req 1) 3) run)) = some .badArg := by
  unfold State.serves; decide +kernel

theorem witness_notes :
    let s := run.setPort .b { run.portB with mailbox := some [1, 2] }
    let o := run.setPort .a { run.portA with mailbox := some [1, 2] }
    run.power.part ≠ .starting ∧ (run.port (req 16).port.other).mailbox = none
    ∧ (s.port (req 16).port.other).mailbox = some [1, 2] ∧ (run.port .a).mailbox = none
    ∧ (o.port .a).mailbox = some [1, 2]
    ∧ (after (exec (.postNote (req 16) (List.replicate 16 3)) run)).portB.mailbox = some (List.replicate 16 3)
    ∧ statusOf (after (exec (.postNote (req 2) [3, 4]) s)) = some .mailboxFull
    ∧ resultsOf (after (exec (.takeNote (req 0)) o)) = [2, 1, 2]
    ∧ statusOf (after (exec (.takeNote (req 0)) run)) = some .empty := by decide +kernel

/-- A frame whose slot 0 carries the sample 1. -/
def slot0 : BitVec 256 := BitVec.ofNat 256 (1 <<< 232)

theorem witness_frame_syncs_outside_run :
    let r := { framed with power := resting.power, audio := { framed.audio with sending := frameSamples slot0 } }
    let t := { framed with power := { run.power with part := .starting } }
    run.audio.frame = none ∧ r.audio.frame = some { count := 0, bits := 0 } ∧ r.power.part = .rest
    ∧ r.audio.present = true ∧ r.audio.passErrors + 1 < r.audio.threshold ∧ r.audio.passErrors < 255
    ∧ t.power.part = .starting ∧ t.audio.present = true
    ∧ (after (exec (.frameSync 256 slot0 plainOrder) r)).audio.held[(0 : SlotId)] = 1
    ∧ (after (exec (.frameSync 24 0 plainOrder) r)).audio.out = { count := 24, bits := slot0 }
    ∧ (after (exec (.frameSync 23 0 plainOrder) r)).audio.out = { count := 23, bits := 0 }
    ∧ (after (exec (.frameSync 5000 0 plainOrder) run)).audio.out = { count := 4095, bits := 0 }
    ∧ (after (exec (.frameSync 255 slot0 plainOrder) r)).audio.linkErrors = 1
    ∧ (after (exec (.frameSync 256 slot0 plainOrder) t)).cycle.frameCount = 1 := by decide +kernel

/-- R167, R168: a frame that the watchdog cut off carried its output up to the expiry, and zeros after it. -/
theorem test_output_line_after_loss :
    let s := { framed with now := 32000, audio := { framed.audio with sending := frameSamples (slot0 ||| 1 <<< 200) } }
    let lost := after (exec .watchdogExpiry s)
    let out := fun k => (after (exec (.frameSync 100 0 { plainOrder with beforeExpiry := k }) lost)).audio.out
    out 24 = { count := 100, bits := slot0 } ∧ out 56 = { count := 100, bits := slot0 ||| 1 <<< 200 }
    ∧ out 0 = { count := 100, bits := 0 } := by decide +kernel

theorem witness_running_cycle_moves :
    let s := { framed with cycle := rolling 255 196084 }
    let q := withCues [cueOf 9 .mute 0 0] { framed with cycle := rolling 255 196084 }
    s.power.part = .run ∧ s.audio.frame = some { count := 0, bits := 0 } ∧ s.cues.entries = []
    ∧ s.cycle.state = .running ∧ s.cycle.len = some 196085 ∧ s.audio.present = true
    ∧ ((after (exec (.frameSync 256 slot0 plainOrder) s)).cycle.pass,
        (after (exec (.frameSync 256 slot0 plainOrder) s)).cycle.pos) = (0, 0)
    ∧ (after (exec (.frameSync 256 slot0 plainOrder) q)).cues.entries = [] := by decide +kernel

/-- Track 0 at position 10 of its span, with a buffer of one sample there under a covering layer, and a second track. -/
def sounding (x : Sample) (data : List Sample) : State :=
  let s := (playing 5 10).setLayer 3 { layer0 with head := false, buf := { aim := 10, fill := 11, data := [x], flight := false } }
  ((s.setLayer 4 { layer0 with start := .at 10, length := 190, cover := true, extents := [6]
                               buf := { aim := 0, fill := 1, data := data, flight := false } }).modTrack 0 fun tr =>
    { tr with stack := [.single 3, .single 4] })

/-- One frame of FRONT by hand (chapter 6): the covered layer keeps 32,431 of 32,768 under the covering layer's first sample, whose own weight is 337; a sum beyond 24 bits clips. -/
theorem witness_mixer :
    let s := sounding 1000000 [2000000]
    let c := sounding 8388607 [8388607]
    let u := s.mix silence ⟨5, 10⟩ none
    let v := c.mix (Vector.replicate 8 8388607) ⟨5, 10⟩ (some (0, true))
    s.cycle.state = .running ∧ s.cycle.origin = false ∧ (s.track 0).span = some 1 ∧ s.cycle.len = some 196085
    ∧ (stackIds (s.track 0).stack).Nodup ∧ s.soundingAt 0 = some 10 ∧ run.trackSum 0 = (run, 0)
    ∧ scale (scale 1000000 32768) (32768 - 337) = 989716 ∧ scale 2000000 337 = 20569
    ∧ (s.trackSum 0).2 = 989716 + 20569
    ∧ u.audio.pendingOut[(0 : SlotId)] = 1010285 ∧ u.mixer.frontClips = 0
    ∧ ((sounding 1 []).trackSum 0).1.faults.seenUnderrun = true
    ∧ (((sounding 1 []).trackSum 0).1.layer? 4).map (fun l => l.buf.aim) = some 1
    ∧ v.mixer.burst = some { n := 1, h := 12 } ∧ v.mixer.frontClips = 0
    ∧ ({ c with mixer := { c.mixer with frontBus := 65535 } }.mix silence ⟨5, 10⟩ none).mixer.frontClips = 1
    ∧ (({ c with mixer := { c.mixer with frontBus := 65535 } } : State).mix silence ⟨5, 10⟩ none).portA.queue.map
        (fun (e : Event) => (e.kind, e.pos, e.detail)) = [(EventKind.clip, 10, 0)]
    ∧ (s.arrivalWork plainOrder silence none).cycle.state ≠ .defining := by decide +kernel

theorem witness_watchdog_and_power_low :
    let s := fun n => { framed with now := n }
    (s 32000).audio.lastSync = some 0 ∧ (s 32000).audio.present = true ∧ 0 + 32000 ≤ (s 32000).now
    ∧ (s 31999).now < 0 + 32000
    ∧ (after (exec .watchdogExpiry (s 32000))).audio.present = false
    ∧ (after (exec .watchdogExpiry (s 31999))).audio.present = true
    ∧ run.power.pin = false ∧ run.power.part = .run ∧ resting.power.pin = false ∧ resting.power.part = .rest
    ∧ State.reset.power.pin = false ∧ State.reset.power.part = .starting
    ∧ (after (exec .pwrlowAssert run)).power = { run.power with part := .rest, latch := true, pin := true }
    ∧ (after (exec .pwrlowAssert resting)).power.pin = true
    ∧ (after (exec .pwrlowAssert (after (exec .pwrlowAssert resting)))).portA.queue.length = 1
    ∧ (after (exec .pwrlowRelease (after (exec .pwrlowAssert run)))).power.latch = false := by decide +kernel

/-- A playing layer whose stored samples its read-ahead buffer still lacks. -/
def thirsty : State := (playing 0 0).setLayer 3 { layer0 with stored := [rng 0 200] }

/-- The write-behind queue with one burst of an open layer 4, queued at the timebase's start. -/
def queued (now : Nat) : State :=
  { overdubbing with
    now := now
    mem := { run.mem with queue := [{ layer := 4, offset := 0, samples := List.replicate 64 1, queuedAt := 0 }] } }

theorem witness_memory_timers :
    let w := fun n => { (thirsty.setWindow .a (some
      { Window.opened 3 .read .forward 0 with req := .waiting 0 64 })) with now := n }
    let b := fun n => (w n).setWait .windowA { start := some 0, raised := false }
    run.power.resetHeld = false ∧ run.mem.queue = [] ∧ run.mem.mode = .serving
    ∧ (b 32000).backgroundWaiting .windowA = true ∧ ((b 32000).waitOf .windowA).start = some 0
    ∧ ((after (exec (.backgroundLockout .windowA) (b 32000))).waitOf .windowA).raised = true
    ∧ ((after (exec (.backgroundLockout .windowA) (b 31999))).waitOf .windowA).raised = false
    ∧ ((queued 320000).layer? 4).map Layer.state = some .opened
    ∧ ((after (exec .writeTimeout (queued 320000))).layer? 4).map Layer.holes = some [rng 0 64]
    ∧ (after (exec .writeTimeout (queued 319999))).mem.queue.length = 1
    ∧ ((after (exec (.windowRequestTimeout .a) (w 1024000))).window .a).map Window.timedOut = some true
    ∧ ((after (exec (.windowRequestTimeout .a) (w 1023999))).window .a).map Window.timedOut = some false
    ∧ (after (exec .refreshDue run)).mem.refreshWaiting = true
    ∧ (after (exec .refreshComplete { run with mem := { run.mem with grant := some .refresh } })).mem.grant = none := by
  decide +kernel

/-- A part with `n` bursts queued, and a capture record whose burst of 64 samples from an offset waits behind them. -/
def waiting (n off : Nat) : State :=
  { playing 0 0 with
    mem := { run.mem with free := [7, 8, 9, 10], queue := List.replicate n { layer := 9, offset := 0, samples := [1], queuedAt := 5 } }
    capture := { Capture.reset with
      records := (Vector.replicate 12 none).set 4 (some
        { layer := 3, track := 0, phase := .draining, startStamp := 500001 - off - 64, readStamp := 500001,
          endStamp := some 500001, nextOff := off, buf := List.replicate 64 4, closeOrder := some 1 }) } }

theorem witness_handover :
    let t := fun n off => after (exec .waitingBurstHandover (waiting n off))
    (waiting 4 64).refillAll = waiting 4 64 ∧ 4 ≤ (waiting 4 64).mem.queue.length
    ∧ (waiting 3 64).refillAll = waiting 3 64 ∧ (waiting 3 64).mem.queue.length = 3
    ∧ (waiting 3 64).nextWaiting = some 4 ∧ (waiting 0 4096).nextWaiting = some 4
    ∧ (waiting 0 4096).refillAll = waiting 0 4096 ∧ ((waiting 0 4096).layer? 3).isSome = true
    ∧ ((waiting 3 64).capture.records[(4 : Fin 12)]).map (fun r => r.nextOff % 4096) = some 64
    ∧ (waiting 3 64).mem.free = 7 :: [8, 9, 10] ∧ run.nextWaiting = none ∧ run.refillAll = run
    ∧ (t 3 64).mem.queue.length = 4 ∧ (t 4 64).mem.queue.length = 4
    ∧ (t 0 4096).mem.queue.map Burst.offset = [4096]
    ∧ ((t 0 4096).layer? 3).map Layer.extents = some [5, 7] := by decide +kernel

theorem witness_start_up_and_self_refresh :
    let t := { State.reset with mem := { MemCtl.reset with testNext := 4096, free := [0, 1] } }
    State.reset.mem.mode = .test ∧ State.reset.mem.testNext < 4096
    ∧ (after (exec (.blockTest 0 true) State.reset)).mem.free = [0]
    ∧ (after (exec (.blockTest 0 false) State.reset)).mem.bad = [0]
    ∧ t.mem.testNext = 4096 ∧ t.power.latch = false
    ∧ (after (exec .memoryTestDone t)).power.part = .run
    ∧ resting.power.part = .rest ∧ resting.mem.mode = .serving ∧ resting.mem.queue = [] ∧ resting.mem.grant = none
    ∧ (∀ i : Fin 12, resting.capture.records[i] = none)
    ∧ (after (exec .enterSelfRefresh resting)).mem.mode = .selfRefresh := by decide +kernel

theorem witness_arbiter :
    let f := { thirsty with mem := { thirsty.mem with refreshWaiting := true } }
    let busy := { layer0 with stored := [rng 0 200], buf := { aim := 0, fill := 0, data := [], flight := true } }
    let b := (((playing 0 0).setLayer 3 busy).setWindow .a (some
      { Window.opened 3 .read .forward 0 with req := .waiting 0 64 })).setWait .windowA
        { start := some 0, raised := true }
    let q := b.setWait .windowA { start := some 0, raised := false }
    q.playbackWaiting = [] ∧ q.raisedWaiting = none ∧ q.mem.queue = [] ∧ q.backgroundWaiting .fold = false
    ∧ q.backgroundWaiting .windowA = true ∧ q.mem.pointer = .fold
    ∧ (after (exec .arbiterGrant q)).mem.pointer = .windowB
    ∧ (∀ b ∈ [Background.fold, .windowA, .windowB], run.backgroundWaiting b = false)
    ∧ (after (exec .arbiterGrant run)).mem.grant = none
    ∧ thirsty.mem.mode = .serving ∧ thirsty.mem.grant = none ∧ thirsty.mem.refreshWaiting = false
    ∧ thirsty.playbackWaiting ≠ [] ∧ thirsty.layers.Pairwise (fun e f => e.1 < f.1)
    ∧ (after (exec .arbiterGrant f)).mem.grant = some .refresh
    ∧ (after (exec .arbiterGrant thirsty)).mem.grant = some (.playback ({ layer0 with stored := [rng 0 200] }.reading 3 (rng 0 64)))
    ∧ (queued 5).playbackWaiting = [] ∧ (queued 5).raisedWaiting = none ∧ (queued 5).mem.queue.length = 1
    ∧ (after (exec .arbiterGrant (queued 5))).mem.queue = []
    ∧ b.playbackWaiting = [] ∧ b.raisedWaiting = some .windowA ∧ MemMode.test ≠ .serving := by decide +kernel

theorem witness_write_completions :
    let g := fun x => { run with mem := { run.mem with words := [(28673, 9)], grant := some x } }
    let b : Burst := { layer := 3, offset := 4097, samples := [1, 2], queuedAt := 0 }
    Memory.wf (g .refresh).mem
    ∧ (after (exec .captureWriteComplete (g (.capture b (some 7) true)))).mem.words = [(28673, 1), (28674, 2)]
    ∧ (after (exec (.foldBurstComplete []) (g (.foldWrite (some 7) 4097 [1, 2])))).mem.words =
      [(28673, 1), (28674, 2)]
    ∧ (after (exec .windowCommitComplete (g (.windowCommit .a (some 7) 4097 [1, 2])))).mem.words =
      [(28673, 1), (28674, 2)] := by decide +kernel

/-- Layer 3, of two stored words in block 5 and a hole behind them. -/
def holed (flight : Bool) : Layer :=
  { layer0 with holes := [rng 2 5], buf := { aim := 0, fill := 0, data := [], flight := flight } }

/-- The first n offsets of that layer, as their grant reads them. -/
def firstOf (n : Nat) : Reading := (holed true).reading 3 (rng 0 n)

/-- The part at the completion of a grant on that layer. -/
def reading (flight : Bool) (g : Grant) : State :=
  let s := ((playing 0 0).setLayer 3 (holed flight)).setWindow .a (some
    { Window.opened 3 .read .reverse 3 with req := .granted 0 })
  { s with mem := { s.mem with words := [(20480, 7), (20481, 8), (20482, 9)], grant := some g } }

theorem witness_read_completions :
    let p := reading true (.playback (firstOf 4))
    let f := { reading true (.foldRead (firstOf 4) false) with fold := some fold346 }
    let w := reading true (.windowRead .a (firstOf 4))
    let d := reading false (.playback (firstOf 1))
    let x := reading false (.playback { firstOf 1 with suspect := true })
    let g := { reading true (.windowRead .a (firstOf 1)) with mem :=
      { (reading true (.windowRead .a (firstOf 1))).mem with windowA := none } }
    allGood [] ∧ (firstOf 4).live = true ∧ p.layer? 3 = some (holed true) ∧ (holed true).holes = (firstOf 4).holes
    ∧ (holed true).buf.flight = true ∧ (holed false).buf.flight = false ∧ (firstOf 1).range.len = 1
    ∧ inRanges (firstOf 1).range.first (firstOf 1).holes = false ∧ (firstOf 1).block = some 5
    ∧ (firstOf 1).suspect = false ∧ 5 ∈ (holed false).extents ∧ 5 ∉ (holed false).suspects
    ∧ ((after (exec (.playbackReadComplete []) p)).layer? 3).map (fun l => l.buf.data) = some [7, 8, 0, 0]
    ∧ f.fold = some fold346 ∧ fold346.granted = true ∧ fold346.out = none
    ∧ ((after (exec (.foldBurstComplete []) f)).fold.map Fold.gotOlder) = some [(0, 7), (1, 8), (2, 0), (3, 0)]
    ∧ ((w.window .a).map fun w => (w.req, w.layer)) = some (.granted 0, 3)
    ∧ ((after (exec (.windowReadComplete []) w)).window .a).map Window.buf = some [0, 0, 8, 7]
    ∧ (after (exec (.playbackReadComplete [.corrected]) d)).faults.correctedCount = 1
    ∧ ((after (exec (.playbackReadComplete [.uncorrectable]) d)).layer? 3).map Layer.suspects = some [5]
    ∧ (after (exec (.playbackReadComplete [.uncorrectable]) x)).faults.seenUncorrectable = false
    ∧ (after (exec (.windowReadComplete [.uncorrectable]) g)).faults.seenUncorrectable = true :=
  ⟨fun _ => rfl, by decide +kernel⟩

/-- R140: a cut of its layer discards the samples of a granted read, which the fold or the window then asks for again. -/
theorem witness_read_completions_cut :
    let cut := { firstOf 4 with cut := true }
    let f := { reading true (.foldRead cut false) with fold := some fold346 }
    let w := reading true (.windowRead .a (firstOf 4))
    let c := reading true (.windowRead .a cut)
    let done := after (exec (.windowReadComplete []) c)
    let bad := { firstOf 1 with suspect := true }
    let y := { reading true (.foldRead bad false) with fold := some fold346 }.setLayer 6 { layer0 with state := .folding }
    w.layer? 3 = some (holed true) ∧ (holed true).state ≠ .opened ∧ 199 < (holed true).length
    ∧ (firstOf 4).layer = 3 ∧ (w.endAt 3 199).mem.grant = some (.windowRead .a cut)
    ∧ (w.endAt 3 200).mem.grant = w.mem.grant
    ∧ ((after (exec (.foldBurstComplete []) f)).fold.map fun f => (f.reads.length, f.granted, f.gotOlder)) =
      some (1, false, [])
    ∧ ((after (exec (.foldBurstComplete [.uncorrectable])
        (f.setLayer 6 { layer0 with state := .folding }))).layer? 6).map Layer.damaged = some true
    ∧ y.mem.grant = some (.foldRead bad false) ∧ y.fold = some fold346 ∧ (y.layer? 6).isSome = true
    ∧ bad.range.len = 1 ∧ inRanges bad.range.first bad.holes = false ∧ bad.block = some 5 ∧ bad.suspect = true
    ∧ ((after (exec (.foldBurstComplete [.uncorrectable]) y)).layer? 6).map Layer.damaged = some true
    ∧ (done.window .a).map (fun w => (w.buf, w.next)) = some ([], 3)
    ∧ (done.window .a).map (fun w => decide (w.req = .waiting done.now 64)) = some true := by decide +kernel

/-- A BEAT event of track-less beat 3. -/
def beatEvent : Event :=
  { kind := .beat, urgent := false, track := none, layer := none, cue := none, pass := 1, pos := 2, detail := 3 }

theorem witness_reply_and_events :
    let r : Reply := { status := .badArg, tag := 9, code := 16, results := [1] }
    let s := run.setPort .a { run.portA with reply := .full r, queue := [beatEvent], lost := 2 }
    run.power.resetHeld = false ∧ (s.port .a).reply = .full r ∧ 2 + (replyBytes r).length = 8
    ∧ (run.port .a).reply = .empty ∧ (s.port .a).queue = beatEvent :: []
    ∧ (after (exec (.readReply .a true 8 true) s)).portA.reply = .empty
    ∧ (after (exec (.readReply .a true 7 true) s)).portA.reply = .full r
    ∧ ((after (exec (.readReply .a true 8 true) s)).portA.shifted).drop 1 = [2, 3, 9, 16, 0, 1, 1]
    ∧ (after (exec (.readReply .a true 3 true) run)).portA.shifted = [1, 0, 0]
    ∧ ((after (exec (.readEvents .a true 14 true) s)).portA.shifted).drop 1 = [1, 4, 0, 0, 0, 0, 0, 1, 0, 0, 2, 0, 3]
    ∧ ((after (exec (.readEvents .a true 14 true) s)).portA.queue).map Event.kind = [.lost]
    ∧ (after (exec (.windowWrite .a true [9, 1, 2] true) run)).portA.shifted.drop 1 = [0, 0]
    ∧ (after (exec (.windowWrite .a true [9, 1, 2] true) run)).portA.transfer = none := by decide +kernel

/-- A port whose event queue is full, with one ROUTINE entry among URGENT ones or none. -/
def full (routine : Bool) : PortCtl :=
  { PortCtl.reset with
    interest := 0x7FFFFFFE
    queue := { beatEvent with urgent := !routine } :: List.replicate 31 { beatEvent with urgent := true } }

theorem witness_full_event_queues :
    PortCtl.reset.interest.getLsbD beatEvent.kind.code = false
    ∧ (full true).interest.getLsbD beatEvent.kind.code = true ∧ 32 ≤ (full true).queue.length
    ∧ (full true).transfer = none ∧ { full true with queue := [] }.queue.length < 32
    ∧ (full true).queue = [] ++ beatEvent :: List.replicate 31 { beatEvent with urgent := true }
    ∧ (∀ y ∈ List.replicate 31 { beatEvent with urgent := true }, y.urgent = true)
    ∧ (∀ y ∈ (full false).queue, y.urgent = true)
    ∧ ((full true).offer { beatEvent with urgent := true }).queue.all Event.urgent = true
    ∧ ((full true).offer beatEvent).lost = 1 ∧ ((full false).offer { beatEvent with urgent := true }).lost = 1 := by
  decide +kernel

/-- R191: with 32 events latched, an URGENT one that displaces a ROUTINE one is no event of that transfer. -/
theorem test_events_latched :
    let s := run.setPort .a { full true with queue := (full true).queue }
    let t := after (exec (.readEvents .a true 2 false) s)
    let u := t.setPort .a (t.portA.offer { beatEvent with kind := .powerLow, urgent := true })
    (u.portA.queue.length, u.portA.transfer.map Transfer.latch) = (32, some (.events 32 31)) := by decide +kernel

theorem witness_window_transfers :
    let s := (playing 0 0).setLayer 4 importing
    let r := s.setWindow .a (some { Window.opened 3 .read .forward 63 with buf := [0x123456] })
    let w := s.setWindow .a (some { Window.opened 4 .write .forward 63 with buf := List.replicate 63 1 })
    (r.window .a).map Window.timedOut = some false ∧ (w.window .a).map Window.req = some .absent
    ∧ (w.window .a).map (fun w => w.rangeEnd importing.length - w.next) = some 1
    ∧ ((after (exec (.windowRead .a true 5 true) r)).portA.shifted).drop 1 = [1, 0x12, 0x34, 0x56]
    ∧ ((after (exec (.windowRead .a true 5 true) r)).window .a).map Window.next = some 64
    ∧ ((after (exec (.windowWrite .a true [5, 0, 1, 2, 3] true) w)).window .a).map (fun w => w.buf.getLast?) =
      some (some 0x010203)
    ∧ ((after (exec (.windowWrite .a true [5, 0, 1, 2, 3] true) w)).window .a).map Window.req =
      some (.waiting 16000 64) := by decide +kernel

/-- R192: a cut that takes the sample being shifted out leaves the next one whole for a later transfer. -/
theorem witness_window_transfers_cut :
    let s := (playing 0 0).setWindow .a (some
      { Window.opened 3 .read .reverse 100 with buf := [0x123456, 0x0A0B0C] })
    let t := (after (exec (.windowRead .a true 3 false) s)).endAt 3 100
    let u := after (exec (.windowRead .a false 1 true) t)
    (s.window .a).map (fun w => (w.mode, decide (100 ≤ w.next))) = some (.read, true)
    ∧ t.portA.transfer.map (fun x => (x.kind, x.latch, x.count)) = some (.windowRead, .window 2 false, 3)
    ∧ (t.window .a).map (fun w => (w.shifting, w.timedOut)) = some (false, false)
    ∧ u.portA.shifted.drop 1 = [2, 0x12, 0]
    ∧ (u.window .a).map (fun w => (w.next, w.buf)) = some (99, [0x0A0B0C])
    ∧ (after (exec (.windowRead .a true 5 true) u)).portA.shifted.drop 1 = [1, 0x0A, 0x0B, 0x0C] := by
  decide +kernel

/-- R152, R154: an unreported timeout holds back the request, not the zeros of a range wholly in holes. -/
theorem test_window_holes_after_timeout :
    let s := ((playing 0 0).setLayer 3 { layer0 with holes := [rng 0 64] }).setWindow .a (some
      { Window.opened 3 .read .forward 0 with timedOut := true })
    let t := (playing 0 0).setWindow .a (some { Window.opened 3 .read .forward 0 with timedOut := true })
    ((s.settleRead .a).window .a).map (fun w => (w.buf.length, w.timedOut, w.req)) = some (64, true, .absent)
    ∧ ((t.settleRead .a).window .a).map (fun w => (w.buf.length, w.req)) = some (0, .absent) := by decide +kernel

theorem witness_ramps_clicks_and_holes :
    rampStep 0 32768 = 128 ∧ rampStep 32700 32768 = 32768 ∧ rampStep 100 0 = 0 ∧ rampStep 32768 32768 = 32768
    ∧ edgeWeight 96 3999 4000 false true = 337 ∧ edgeWeight 96 3904 4000 false true = 32430
    ∧ ({ n := 23, h := 24 } : Click).value 5 = 5 ∧ ({ n := 24, h := 24 } : Click).value 5 = -5
    ∧ (∀ x ∈ [rng 100 64, rng 1000 64], x.len ≠ 0)
    ∧ [rng 100 64, rng 1000 64].Pairwise (fun x y => x.first + x.len < y.first)
    ∧ addHole (rng 164 836) [rng 100 64, rng 1000 64] = [rng 100 964] := by decide +kernel

/-- R185: the first byte picks the transfer. -/
theorem witness_transfers_by_first_byte :
    decodeTransfer .b [1, 18, 7, 2, 3, 1] true = some (.setGrid { port := .b, tag := 7, len := 2 } 3 1)
    ∧ decodeTransfer .b [1, 18, 7, 2, 3, 1] false = none ∧ decodeTransfer .a [] true = none
    ∧ decodeTransfer .a [2, 0, 0] true = some (.readReply .a true 3 true)
    ∧ decodeTransfer .a [3] false = some (.readEvents .a true 1 false)
    ∧ decodeTransfer .a [4, 0] true = some (.windowRead .a true 2 true)
    ∧ decodeTransfer .a [5, 0, 0, 9] true = some (.windowWrite .a true [5, 0, 0, 9] true)
    ∧ decodeTransfer .a [0] true = some (.windowWrite .a true [0] true)
    ∧ decodeTransfer .a [6, 1] true = some (.windowWrite .a true [6, 1] true) := by decide +kernel

/-- R9, R28: a cleared track leaves the others, its layers leave the pool, and a defining recording takes the cycle with it. -/
theorem witness_clear_track_frees :
    let s := (playing 5 50000).modTrack 1 fun tr => { tr with muteTarget := 0 }
    let t := after (exec (.clearTrack (req 2) 0 3) s)
    let d := after (exec (.clearTrack (req 2) 0 3) (defining 9600))
    (s.layer? 3).isSome = true ∧ t.layer? 3 = none ∧ (t.track 1).muteTarget = 0
    ∧ t.cycle = s.cycle ∧ t.mem.free = [7, 8, 9, 5]
    ∧ ((defining 9600).track 0).state = .recording ∧ (defining 9600).cycle.state = .defining
    ∧ d.cycle.state = .empty ∧ (d.cycle.pos, d.cycle.gen) = (0, 2) ∧ d.layer? 1 = none
    ∧ (∀ i : Fin 12, d.capture.records[i] = none) := by decide +kernel

/-- R85 to R87: the place of a new entry, the id it gets, and the port that joins one. -/
theorem witness_cue_list_order :
    let c := rolling 5 1000
    let l := [cueOf 1 .mute 5 2000, cueOf 2 .undo 6 0, cueOf 3 .redo 4 0]
    let j := (withCues l run).joinCue 2 .b
    c.pass < 256
    ∧ (insertCue c (cueOf 9 .close 6 0) l).map Cue.id = [1, 2, 9, 3]
    ∧ (insertCue c (cueOf 9 .close 5 1001) l).map Cue.id = [9, 1, 2, 3]
    ∧ (insertCue c (cueOf 9 .close 4 999) l).map Cue.id = [1, 2, 3, 9]
    ∧ pickCueId [65535, 1, 3, 2] 17 65535 = 4
    ∧ j.cues.entries.map (fun e => (e.id, e.joinedA, e.joinedB)) =
      [(1, false, false), (2, false, true), (3, false, false)] := by decide +kernel

/-- R165, R169: the first arrival after a loss raises AUDIO BACK, and the malformed frame at the threshold LINK ERRORS, once. -/
theorem witness_link_comes_back :
    let lost := { framed with
      now := 16000 * 40
      audio := { framed.audio with present := false, lossStart := some 16000, passErrors := 9, linkErrors := 11
                                   threshold := 10 }
      portA := { framed.portA with interest := 0xFFFFFFFF }
      cycle := rolling 7 1000 }
    let evs := fun s : State => s.portA.queue.map fun e => (e.kind, e.pass, e.pos, e.detail)
    let good := after (exec (.frameSync 256 slot0 plainOrder) lost)
    let bad := after (exec (.frameSync 255 slot0 plainOrder) lost)
    let told := { lost with audio := { lost.audio with reported := true, present := true } }
    (EventKind.audioBack, 7, 1001, 39#16) ∈ evs good
    ∧ good.audio.present = true ∧ good.audio.lossStart = none
    ∧ (EventKind.audioBack, 7, 1001, 39#16) ∈ evs bad ∧ (EventKind.linkErrors, 7, 1001, 12#16) ∈ evs bad
    ∧ bad.audio.reported = true ∧ bad.audio.passErrors = 10
    ∧ (evs (after (exec (.frameSync 255 slot0 plainOrder) told))) = []
    ∧ (after (exec (.frameSync 255 slot0 plainOrder) told)).audio.linkErrors = 12 := by
  decide +kernel

/-- The open overdub layer 4 with the capture record, the blocks and the free list given, and `n` bursts queued, at frame count 500,001. -/
def recorded (r : CapRec) (extents free : List Nat) (n : Nat) : State :=
  { overdubbing.setLayer 4 { Layer.fresh 0 .opened .recorded (.at 50000) false true with extents := extents } with
    cycle := { (rolling 5 50001) with frameCount := 500001 }
    mem := { run.mem with
      free := free, queue := List.replicate n { layer := 9, offset := 0, samples := [1], queuedAt := 5 } }
    capture := { Capture.reset with records := (Vector.replicate 12 none).set 0 (some r) } }

/-- That layer's record IN STEP, with a buffer of n samples from an offset on. -/
def inStep (off n : Nat) : CapRec :=
  { layer := 4, track := 0, phase := .inStep, startStamp := 500001 - off - n, readStamp := 500001, endStamp := none
    nextOff := off, buf := List.replicate n 2, closeOrder := none }

/-- R58, R62, R66, R76: the record sample of a frame, a full live burst, one the queue refuses, and one without a block. -/
theorem witness_live_stream :
    let f : Frame := (silence.set 0 8388607).set 1 1
    let live := fun off n ext free q => (recorded (inStep off n) ext free q).liveOne f 0
    let buf := fun s : State => (s.capture.records[(0 : Fin 12)]).map fun r => (r.buf.length, r.buf.getLast?, r.nextOff)
    let both := (recorded (inStep 0 5) [6] [7] 0).modTrack 0 fun tr => { tr with sources := 3 }
    buf (live 0 62 [6] [7] 0) = some (63, some 8388607, 0)
    ∧ buf (both.liveOne f 0) = some (6, some 8388607, 0)
    ∧ buf (live 64 63 [6] [7] 7) = some (0, none, 128) ∧ (live 64 63 [6] [7] 7).mem.queue.length = 8
    ∧ ((live 64 63 [6] [7] 0).mem.queue.map fun b => (b.layer, b.offset, b.samples.length, b.queuedAt)) =
      [(4, 64, 64, 16000)]
    ∧ ((live 0 63 [] [7, 8] 0).layer? 4).map Layer.extents = some [7] ∧ (live 0 63 [] [7, 8] 0).mem.free = [8]
    ∧ ((live 64 63 [6] [7] 8).layer? 4).map Layer.holes = some [rng 64 64]
    ∧ (live 64 63 [6] [7] 8).faults.seenWriteOverrun = true
    ∧ ((live 4096 63 [6] [] 0).layer? 4).map (fun l => (l.state, l.length)) = some (.closed, 4096)
    ∧ live 4096 63 [6] [] 0 = State.exhaust 4 4096 ((recorded (inStep 4096 63) [6] [] 0).setRecord 0 (some
        { inStep 4096 63 with buf := List.replicate 63 2 ++ [8388607], readStamp := 500002 }))
    ∧ (recorded { inStep 0 5 with readStamp := 500000 } [6] [7] 0).liveOne f 0 =
      recorded { inStep 0 5 with readStamp := 500000 } [6] [7] 0 := by decide +kernel

/-- R65: a record that the rings overtake gives its burst up, with its block, or ends for want of one. -/
theorem witness_overtaken :
    let r := fun n => { inStep 0 n with phase := .filling, startStamp := 491809 - n, readStamp := 491809 }
    let s := fun n ext free => recorded (r n) ext free 0
    let t := fun n ext free => (s n ext free).overtake ⟨5, 50000⟩ 0
    let rec0 := fun s : State => (s.capture.records[(0 : Fin 12)]).map fun r => (r.buf.length, r.readStamp, r.nextOff)
    stampAdd 491809 8192 = (s 10 [6] []).cycle.frameCount ∧ (r 10).phase ≠ .inStep ∧ (r 10).endStamp ≠ some 491809
    ∧ stampSub (r 10).readStamp (r 10).startStamp = 10 ∧ stampSub (r 64).readStamp (r 64).startStamp = 64
    ∧ rec0 (t 10 [6] []) = some (0, 491863, 64) ∧ ((t 10 [6] []).layer? 4).map Layer.holes = some [rng 0 64]
    ∧ rec0 (t 64 [6] []) = some (64, 491873, 0) ∧ ((t 64 [6] []).layer? 4).map Layer.holes = some [rng 64 64]
    ∧ ((t 10 [] [7]).layer? 4).map Layer.extents = some [7] ∧ (t 10 [] [7]).faults.seenWriteOverrun = true
    ∧ (t 10 [] []).layer? 4 = none ∧ (t 10 [] []).faults.seenWriteOverrun = false
    ∧ (s 10 [6] []).overtake ⟨5, 50000⟩ 1 = s 10 [6] [] := by decide +kernel

/-- R76: where a layer ends for want of a block: an open overdub, a first layer, a closed layer, and one that keeps nothing. -/
theorem witness_memory_runs_out :
    let o := State.exhaust 4 4096 (recorded (inStep 4096 63) [6] [] 0)
    let first := opening 0 4 4160 .recording (.first 5 100)
      { looping 5 50000 with mem := { run.mem with free := [] } }
    let c := playing 5 50000
    let kept := fun s id => (State.layer? s id).map fun l => (l.state, l.length, l.tail)
    kept o 4 = some (.closed, 4096, true) ∧ (o.track 0).state = .playing ∧ (o.track 0).openLayer = none
    ∧ fixSpan 196085 5 100 4096 = (1, 100, 4096) ∧ (first.track 0).state = .recording
    ∧ (first.layer? 4).map Layer.start = some (.first 5 100) ∧ first.cycle.state = .running
    ∧ kept (first.exhaust 4 4096) 4 = some (.closed, 4096, true) ∧ ((first.exhaust 4 4096).track 0).span = some 1
    ∧ ((first.exhaust 4 4096).layer? 4).map Layer.start = some (.at 100)
    ∧ layer0.state = .closed ∧ kept (c.exhaust 3 64) 3 = some (.closed, 64, true)
    ∧ c.fold = none ∧ c.layers.Pairwise (fun e f => e.1 < f.1) ∧ (c.exhaust 3 0).layer? 3 = none
    ∧ ((c.exhaust 3 0).track 0).stack = [] ∧ ((c.exhaust 3 0).track 0).state = .empty := by decide +kernel

/-- A DRAINING record of layer 3 for a track, with n samples in its buffer and nothing left to move. -/
def drained (t : TrackId) (n read : Nat) : CapRec :=
  { layer := 3, track := t, phase := .draining, startStamp := 499000, readStamp := read, endStamp := some read
    nextOff := 0, buf := List.replicate n 4, closeOrder := some 1 }

/-- A FILLING record of ten samples, whose next frame stands at place 1 of the rings. -/
def filling : CapRec :=
  { drained 0 10 499713 with phase := .filling, startStamp := 499703, endStamp := none }

/-- A part with the capture records given, and a frame of 9 in slot 0 at place 1 of the rings. -/
def recording (l : List (Option CapRec)) : State :=
  { playing 0 0 with capture := { Capture.reset with
    records := Vector.ofFn fun i => (l[i.val]?).join, rings := [(1, silence.set 0 9)] } }

/-- Record 0 of that part once it is refilled: its phase, samples and read stamp. -/
def refilled (r : CapRec) : Option (Phase × List Sample × Nat) :=
  ((recording [some r]).refillAll.capture.records[(0 : Fin 12)]).map fun q => (q.phase, q.buf.drop 10, q.readStamp)

/-- R63, R64: which of the waiting records goes first, and what a FILLING and a DRAINING record move. -/
theorem witness_waiting_order :
    (recording [some (drained 1 64 500000), some (drained 2 64 499900), some (drained 0 3 500001)]).nextWaiting = some 1
    ∧ (recording [some (drained 3 64 499900), some (drained 2 1 499900), some (drained 2 64 499900)]).nextWaiting = some 1
    ∧ (recording [none, some { filling with buf := List.replicate 64 4 }]).nextWaiting = some 1
    ∧ (recording [some { filling with phase := .inStep }, some { drained 0 63 499900 with endStamp := some 499901 }]).nextWaiting
      = none
    ∧ refilled filling = some (.filling, 9 :: List.replicate 53 0, 499767)
    ∧ refilled { drained 0 10 499713 with endStamp := some 499715 } = some (.draining, [9, 0], 499715)
    ∧ refilled { filling with readStamp := 499999, startStamp := 499989 } = some (.inStep, [0, 0], 500001)
    ∧ refilled (drained 0 0 499713) = none := by decide +kernel

/-- R141, R150, R152, R153: the grants of the fold engine and of a port's window. -/
theorem witness_background_grants :
    let f := folded 32768 32768 []
    let write := { f with fold := some { fold346 with reads := [], out := some [1, 2], nextOff := 4096, granted := false } }
    let read := { f with fold := some { fold346 with granted := false, reads := [{ newer := true, first := 190, len := 64 }] } }
    let win := fun w => (thirsty.setLayer 4 { importing with extents := [6] }).setWindow .b (some w)
    let ahead := win { Window.opened 3 .read .forward 130 with req := .waiting 5 64 }
    let back := win { Window.opened 3 .read .reverse 130 with req := .waiting 5 64 }
    let commit := win { Window.opened 4 .write .forward 66 with buf := [1, 2], req := .waiting 5 64 }
    let g := fun b s => (State.grantBackground b s).mem.grant
    let l := { layer0 with stored := [rng 0 200] }
    write.fold.map Fold.out = some (some [1, 2]) ∧ (f.layer? 4).isSome = true
    ∧ g .fold write = some (.foldWrite none 4096 [1, 2])
    ∧ g .fold read = some (.foldRead { layer := 4, track := 0, range := rng 190 10, block := some 6, suspect := false
                                       holes := [], live := true, cut := false } true)
    ∧ (ahead.layer? 3).map (fun l => l.ready (rng 130 62)) = some true
    ∧ (back.layer? 3).map (fun l => l.ready (rng 128 3)) = some true
    ∧ g .windowB ahead = some (.windowRead .b (l.reading 3 (rng 130 62)))
    ∧ g .windowB back = some (.windowRead .b (l.reading 3 (rng 128 3)))
    ∧ g .windowB commit = some (.windowCommit .b (some 6) 64 [1, 2])
    ∧ ((State.grantBackground .windowB commit).window .b).map Window.req = some (.granted 5) := by decide +kernel

/-- Layer 4, an import of 100 samples with 64 committed, at the completion of a commit of `n` more by port A's window. -/
def committing (t : TrackId) (n : Nat) (closing : Bool) : State :=
  let s := (((playing 5 50000).setLayer 4 { importing with track := t, extents := [6], committed := 64
                                                           stored := [rng 0 64] }).setWindow .a
    (some { Window.opened 4 .write .forward (64 + n) with
      buf := List.replicate n 3, req := .granted 0, closing := closing, excess := 258 })).modTrack t fun tr =>
        { tr with stack := [.single 4], heldSpan := if t = 1 then some 2 else none }
  { s with
    portA := { s.portA with interest := 0xFFFFFFFF, reply := if closing then .pending 7 81 else .empty }
    mem := { s.mem with grant := some (.windowCommit .a (some 6) 64 (List.replicate n 3)) } }

/-- The part after that commit. -/
def committed (t : TrackId) (n : Nat) (closing : Bool) : State :=
  after (exec .windowCommitComplete (committing t n closing))

/-- The import's state, its committed samples and its stored ranges. -/
def importOf (s : State) : Option (LayerState × Nat × List Range) :=
  (s.layer? 4).map fun l => (l.state, l.committed, l.stored)

/-- The events in port A's queue, with their details. -/
def eventsOf (s : State) : List (EventKind × BitVec 16) := s.portA.queue.map fun e => (e.kind, e.detail)

/-- R153, R155: a commit that leaves the import open, and the CLOSE WINDOW that waited for one. -/
theorem witness_commit_completions :
    ((committing 1 35 false).window .a).map Window.next = some (64 + (List.replicate 35 (3 : Sample)).length)
    ∧ importOf (committed 1 35 false) = some (.importing, 99, [rng 0 99])
    ∧ ((committed 1 35 false).window .a).map Window.buf = some []
    ∧ ((committed 1 35 false).window .a).map Window.req = some .absent
    ∧ (committed 1 35 true).window .a = none ∧ resultsOf (committed 1 35 true) = [0, 0, 0, 99, 1, 2, 0] := by
  decide +kernel

/-- R157: the last commit of an import. -/
theorem witness_last_commit :
    importOf (committed 1 36 true) = some (.closed, 100, [rng 0 100]) ∧ (committed 1 36 true).window .a = none
    ∧ resultsOf (committed 1 36 true) = [0, 0, 0, 100, 1, 2, 0]
    ∧ eventsOf (committed 1 36 true) = [(.windowDone, 0), (.trackState, 2)]
    ∧ (committed 1 36 true).portA.queue.map Event.layer = [some 4, none]
    ∧ ((committed 1 36 false).track 1).state = .playing ∧ ((committed 1 36 false).track 1).span = some 2
    ∧ ((committed 1 36 false).track 1).heldSpan = none
    ∧ eventsOf (committed 0 36 false) = [(.windowDone, 0)]
    ∧ ((committed 0 36 false).track 0).span = some 1 := by
  decide +kernel

/-- R44, by hand: at the second result sample the older member of gain one half stands under a covering layer that starts there with its head edge of 96 frames, 337 of 32,768; a sum beyond 24 bits clips. -/
theorem witness_fold_samples :
    let s := folded 16384 32768 []
    let lo := { layer0 with state := .folding, head := false, tail := false }
    let ln := { lo with start := .at 1, length := 190, cover := true, head := true, extents := [6] }
    let f := { fold346 with gainOlder := 16384, granted := false, reads := []
                            gotOlder := [(0, 2000000), (1, 1000000)], gotNewer := [(0, 2000000)] }
    let u := fun f : Fold => (((({ s with fold := some f } : State).setLayer 3 lo).setLayer 4 ln).setLayer 6
      { layer0 with state := .folding, origin := .folded, length := 2, extents := [10] }).settleFold
    let loud := { f with gainOlder := 65535, gotOlder := [(0, 8388607)], clips := 65535 }
    edgeWeight 96 0 190 true false = 337 ∧ scale (scale 1000000 (32768 - 337)) 16384 = 494858
    ∧ scale 2000000 337 = 20569
    ∧ (u f).fold.map Fold.out = some (some [1000000, 494858 + 20569])
    ∧ (u f).fold.map Fold.clips = some 0 ∧ ((u f).track 0).foldClips = 0
    ∧ (u loud).fold.map Fold.out = some (some [8388607, 20569])
    ∧ (u loud).fold.map Fold.clips = some 65535 ∧ ((u loud).track 0).foldClips = 1 := by decide +kernel

/-- A press `age` frames before the frame count of the RUNNING cycle's tests. -/
def aged (pos age : Nat) : PressTime := { pass := 2, pos := pos, frame := 500000 - age, gen := 1, time := 0 }

/-- R18 to R20 with beats 49,021 and 73,531 around the press: within grace, beyond it, aged, of another generation, and by part and cycle state. -/
theorem witness_due_outcomes :
    let b := [0, 24510, 49021, 73531, 98042, 122553, 147063, 171574]
    let s := looping 2 76000
    let due := fun a p => s.dueOf a .beat p
    CycleInRange s.cycle ∧ s.cycle.state = .running ∧ s.cycle.len = some 196085 ∧ s.cycle.origin = false
    ∧ (List.range s.cycle.beats).map (fun j => j * 196085 / s.cycle.beats) = b
    ∧ (∀ x ∈ b, x ≤ 51421 → x ≤ 49021) ∧ (∀ x ∈ 196085 :: b, 49021 < x → 73531 ≤ x)
    ∧ min s.cycle.grace ((73531 - 49021) / 2) = 2400 ∧ stampSub s.cycle.frameCount (aged 51421 5600).frame = 5600
    ∧ due .record (aged 51421 5600) = .atOnce { point := ⟨2, 49021⟩, cut := .back 8000 ⟨2, 49021⟩, back := true }
    ∧ due .mute (aged 51421 5600) = .atOnce { point := ⟨2, 76000⟩, cut := .next, back := false }
    ∧ due .record (aged 51421 5601) = due .record s.pressNow
    ∧ due .record (aged 51422 22108) = .due 2 73531
    ∧ due .close (aged 51422 22109) = .atOnce { point := ⟨2, 73531⟩, cut := .back 0 ⟨2, 73531⟩, back := true }
    ∧ due .close (aged 51422 30109) = .atOnce { point := ⟨2, 73531⟩, cut := .back 8000 ⟨2, 73531⟩, back := true }
    ∧ due .close (aged 51422 30110) = due .close s.pressNow
    ∧ due .close { aged 51422 22109 with gen := 0 } = due .close s.pressNow
    ∧ ({ s with cycle := { s.cycle with pos := 0, origin := true } } : State).dueOf .record .beat
      { aged 0 0 with pass := 2 } = .atOnce { point := ⟨2, 0⟩, cut := .next, back := false }
    ∧ resting.dueOf .stopAll .none resting.pressNow = .refused .resting
    ∧ resting.dueOf .undo .bar resting.pressNow = .atOnce { point := ⟨0, 0⟩, cut := .next, back := false }
    ∧ paused.dueOf .close .bar paused.pressNow = .refused .badState
    ∧ paused.dueOf .stopAll .bar paused.pressNow = .atOnce { point := ⟨0, 0⟩, cut := .next, back := false }
    ∧ run.dueOf .record .bar run.pressNow = .atOnce { point := ⟨0, 0⟩, cut := .next, back := false } :=
  ⟨by constructor <;> decide +kernel, by decide +kernel⟩

/-- R20, R31, R83, R84, R90: what the quantised path makes of a refusal, of an action at once and of one for ALL. -/
theorem witness_quantised_path :
    let s := withCues [cueOf 9 .record 6 0] (playing 5 50000)
    let all := withCues [{ cueOf 8 .stopAll 6 0 with target := none }] (playing 5 50000)
    let st := fun c s => statusOf (after (exec c s))
    (playing 5 50000).serves (req 2) 2 ∧ argQuantum 1 = some .beat ∧ argTrack 0 = some 0
    ∧ s.dueOf .overdub .beat s.pressNow = .atOnce
      { point := ⟨5, 49021⟩, cut := .back 979 ⟨5, 49021⟩, back := true }
    ∧ (after (exec (.overdub (req 2) 0 1) s)).cues.entries = []
    ∧ resultsOf (after (exec (.overdub (req 2) 0 1) s)) = [5, 0, 191, 125, 1]
    ∧ (after (exec (.playAll (req 1) 0) all)).cues.entries = [] ∧ statusOf (after (exec (.playAll (req 1) 0) all)) = some .ok
    ∧ (after (exec (.playAll (req 1) 0) all)).cycle = all.cycle
    ∧ all.dueOf .playAll .none all.pressNow = .atOnce { point := ⟨5, 50000⟩, cut := .next, back := false }
    ∧ (after (exec (.stopAll (req 1) 3) (withCues [{ cueOf 8 .playAll 6 0 with target := none }] paused))).cycle = paused.cycle
    ∧ st (.stopAll (req 1) 3) run = some .ok
    ∧ st (.record (req 2) 0 1) (playing 5 50000) = some .badState
    ∧ st (.record (req 2) 1 0) (defining 5) = some .badState
    ∧ st (.record (req 2) 1 0) (((looping 5 50000).setLayer 4 { importing with track := 1 }).modTrack 1 fun tr =>
      { tr with stack := [.single 4] }) = some .badState
    ∧ st (.overdub (req 2) 1 1) (playing 5 50000) = some .badState
    ∧ st (.replace (req 2) 1 1) (playing 5 50000) = some .badState
    ∧ st (.close (req 2) 0 1) (playing 5 50000) = some .badState
    ∧ st (.close (req 2) 0 0) paused = some .badState ∧ st (.close (req 2) 0 0) resting = some .resting
    ∧ st (.stopAll (req 1) 0) resting = some .resting ∧ st (.playAll (req 1) 0) run = some .badState := by
  unfold State.serves; decide +kernel

/-- R18, R32, R60: RECORD, OVERDUB and REPLACE at the edge of grace start at the boundary, and with no grace at the next frame. -/
theorem witness_back_dated_openings :
    let s := playing 5 51421
    let o := after (exec (.overdub (req 2) 0 1) s)
    let r := after (exec (.record (req 2) 1 1) s)
    let n := after (exec (.record (req 2) 1 0) s)
    let rec0 := fun s : State => (s.capture.records[(0 : Fin 12)]).map fun r => (r.startStamp, r.nextOff, r.phase)
    CycleInRange s.cycle ∧ s.serves (req 2) 2 ∧ s.freeId = some 1 ∧ s.freeRecord = some 0
    ∧ s.dueOf .overdub .beat s.pressNow = .atOnce
      { point := ⟨5, 49021⟩, cut := .back 2400 ⟨5, 49021⟩, back := true }
    ∧ (s.track 1).state = .empty ∧ s.holdsImport 1 = false ∧ (s.track 1).stack.length < 8 ∧ (s.track 1).redo = []
    ∧ (o.layer? 1).map Layer.start = some (.at 49021) ∧ (rec0 o).map Prod.fst = some 497600
    ∧ (o.track 0) = { s.track 0 with state := .overdubbing, stack := [.single 3, .single 1], openLayer := some 1 }
    ∧ (r.layer? 1).map Layer.start = some (.first 5 49021) ∧ (r.track 1).state = .recording
    ∧ resultsOf r = [5, 0, 191, 125, 1]
    ∧ (n.layer? 1).map Layer.start = some (.first 5 51422) ∧ (rec0 n) = some (500001, 0, .inStep)
    ∧ resultsOf n = [5, 0, 200, 221, 0]
    ∧ (trackPos 1 196085 5 49021, stampSub 500000 2400) = (49021, 497600) :=
  ⟨by constructor <;> decide +kernel, by unfold State.serves; decide +kernel⟩

/-- R19, R33, R59: a CLOSE in grace keeps what lies before the boundary; with nothing before it the layer is gone. -/
theorem witness_back_dated_close :
    let s := fun n => opening 0 4 n .overdubbing (.at 49020) (playing 5 49022)
    let c := fun n => after (exec (.close (req 2) 0 1) (s n))
    CycleInRange (s 3).cycle ∧ (s 3).serves (req 2) 2
    ∧ (s 3).dueOf .close .beat (s 3).pressNow = .atOnce
      { point := ⟨5, 49021⟩, cut := .back 1 ⟨5, 49021⟩, back := true }
    ∧ ((s 3).track 0).openLayer = some 4 ∧ ((s 3).layer? 4).isSome = true ∧ ((s 3).recordOf 4).isSome = true
    ∧ ((s 3).track 0).marker = none ∧ (s 2).layers.Pairwise (fun x y => x.1 < y.1)
    ∧ ((s 3).taken 4 - 1 - 1, (s 2).taken 4 - 1 - 1) = (1, 0)
    ∧ ((c 3).layer? 4).map (fun l => (l.state, l.length, l.tail)) = some (.closed, 1, true)
    ∧ (c 3).track 0 = { (s 3).track 0 with state := .playing, openLayer := none }
    ∧ (c 2).layer? 4 = none ∧ ((c 2).track 0).openLayer = none ∧ ((c 2).track 0).stack = [.single 3]
    ∧ resultsOf (c 3) = [5, 0, 191, 125, 1] :=
  ⟨by constructor <;> decide +kernel, by unfold State.serves; decide +kernel⟩

/-- R23, R116, R154, R162, R198: the settings that CLEAR ALL keeps, from values that reset does not give. -/
theorem witness_clear_all_keeps :
    let s := { playing 5 50000 with
      mixer := { Mixer.reset with
        frontBus := 5, edge := 7, earClips := 3, earReported := true, burst := some { n := 3, h := 12 } }
      audio := { Audio.reset with present := true, threshold := 9, linkErrors := 4, passErrors := 2 }
      mem := { run.mem with timeoutB := 256 }
      switches := { Switches.reset with holdMs := 700, portB := { SwitchPort.reset with selected := 4, issues := 8 } }
      portA := { PortCtl.reset with interest := 8, mask := .closed, mailbox := some [1] } }
    let t := after (exec (.clearAll (req 1) 0) s)
    s.serves (req 1) 1
    ∧ t.mixer = { s.mixer with burst := none, earReported := false }
    ∧ t.audio = { s.audio with passErrors := 0 } ∧ t.mem.timeoutB = 256
    ∧ t.switches = { s.switches with recent := Vector.replicate 6 none }
    ∧ (t.portA.interest, t.portA.mask, t.portA.mailbox) = (8, .closed, some [1]) := by
  unfold State.serves; decide +kernel

/-- Layer 4, an import, newest in the stack of track 0, with port A's window on it. -/
def importNewest : State :=
  ((looping 5 50000).setLayer 4 importing).setTrack 0 { Track.reset 0 with stack := [.single 4], heldSpan := some 2 }
    |>.setWindow .a (some (Window.opened 4 .write .forward 0))

/-- R9, R26, R35: UNDO of an OPEN layer, of the defining recording, of the only layer, and of an import. -/
theorem witness_undo_discards :
    let o := opening 0 4 65 .overdubbing (.at 49936) (playing 5 50000)
    let u := fun s => after (exec (.undo (req 2) 0 0) s)
    let redo := (playing 5 50000).modTrack 0 fun tr => { tr with redo := [9], stack := [.single 3] }
    let span := (playing 5 50000).modTrack 0 fun tr => { tr with span := some 4 }
    let under := ((playing 5 50000).setLayer 2 importing).modTrack 0 fun tr =>
      { tr with span := some 4, stack := [.single 2, .single 3] }
    let first := opening 1 4 65 .recording (.first 5 49936) (playing 5 50000)
    o.serves (req 2) 2 ∧ argTrack 0 = some 0 ∧ (o.track 0).stack = [.single 3] ++ [.single 4]
    ∧ 4 ∉ stackIds [.single 3] ∧ (o.layer? 4).map Layer.state = some .opened
    ∧ (stackIds [.single 3]).any (fun i => !o.isImporting i) = true
    ∧ (u o).track 0 = { o.track 0 with state := .playing, stack := [.single 3], openLayer := none }
    ∧ (u o).layer? 4 = none ∧ (u o).cycle = o.cycle
    ∧ ((defining 5).track 0).state = .recording ∧ (defining 5).cycle.state = .defining
    ∧ (u (defining 5)).track 0 = { Track.reset 0 with state := .empty }
    ∧ (u (defining 5)).cycle = { (defining 5).cycle with state := .empty, pos := 0, gen := 2 }
    ∧ (after (exec (.undo (req 2) 1 0) first)).track 1 = Track.reset 1
    ∧ (u span).track 0 = { Track.reset 0 with heldSpan := some 4, redo := [3] }
    ∧ 9 ∉ stackIds ([] : List Entry) ∧ ((u redo).track 0).redo = [3, 9]
    ∧ (u under).track 0 = { Track.reset 0 with heldSpan := some 4, redo := [3], stack := [.single 2] }
    ∧ (importNewest.track 0).openLayer ≠ some 4 ∧ (importNewest.track 0).marker = none
    ∧ (importNewest.window .a).map Window.layer = some 4
    ∧ (u importNewest).track 0 = Track.reset 0 ∧ (u importNewest).window .a = none
    ∧ (u importNewest).layer? 4 = none ∧ importNewest.layers.Pairwise (fun x y => x.1 < y.1) := by
  unfold State.serves; decide +kernel

/-- The state after a hold action that port B issues for its selected track 0. -/
def issuedBy (a : SwAction) (s : State) : State := s.issue .b 23 .hold a .selected .none s.pressNow

/-- The last outcome record of such an issue, with the position of its point on pass 5. -/
def outcomeOf (a : Handed) (target : OutTarget) (st : Status) (pos : Option Nat) : Option Outcome :=
  some { code := 23, kind := .hold, action := a, target := target, status := st, cue := none
         point := pos.map fun p => ⟨5, p⟩, time := 16000 }

/-- What port B's last outcome record tells after an issue. -/
def lastOf (a : SwAction) (s : State) : Option Outcome := (issuedBy a s).switches.portB.last

/-- R110, R111: what an issue of each kind of action hands on, and what it records. -/
theorem witness_issues :
    lastOf .recordCycle (playing 5 50000) = outcomeOf (.cue .overdub) (.track 0) .ok (some 50000)
    ∧ lastOf .replaceToggle (looping 5 50000) = outcomeOf .refusedToggle (.track 0) .badState none
    ∧ lastOf .close (playing 5 50000) = outcomeOf (.cue .close) (.track 0) .badState none
    ∧ lastOf .muteToggle (playing 5 50000) = outcomeOf (.cue .mute) (.track 0) .ok (some 50000)
    ∧ lastOf .muteToggle ((playing 5 50000).modTrack 0 fun tr => { tr with muteTarget := 0 }) =
      outcomeOf (.cue .unmute) (.track 0) .ok (some 50000)
    ∧ lastOf .redo (playing 5 50000) = outcomeOf (.cue .redo) (.track 0) .badState none
    ∧ lastOf .playStopAll (playing 5 50000) = outcomeOf (.cue .stopAll) .all .ok (some 50000)
    ∧ lastOf .clearTrack (playing 5 50000) = outcomeOf .clearTrack (.track 0) .ok none
    ∧ lastOf .tap run = outcomeOf .tap .absent .ok none := by decide +kernel

/-- R110, R114: what those issues do to the part, to the selected track and to the issue count. -/
theorem witness_issues_act :
    issuedBy .none (playing 5 50000) = playing 5 50000 ∧ ((playing 5 50000).switchPort .b).selected = 0
    ∧ ((issuedBy .undo (playing 5 50000)).track 0).redo = [3]
    ∧ (issuedBy .undo (playing 5 50000)).switches.portA = SwitchPort.reset
    ∧ (issuedBy .playStopAll paused).cycle.state = .running
    ∧ ((issuedBy .clearTrack (playing 5 50000)).track 0).stack = []
    ∧ (issuedBy .tap run).cycle.tap.count = 1
    ∧ (issuedBy .selectNext (run.selectTo .b 5)).switches.portB.selected = 0
    ∧ (issuedBy .selectPrevious run).switches.portB.selected = 5
    ∧ (issuedBy .selectNext (run.setSwitchPort .b { SwitchPort.reset with issues := 255 })).switches.portB.issues = 0 := by
  decide +kernel

/-- R174, R180: the counts saturate, and FAULT goes out by class and seen flag. -/
theorem witness_fault_counts_and_events :
    let soft : Occurrence := { hardFault.1 with kind := .corrected, requester := .windowB }
    let s := { run with faults := { Faults.reset with correctedCount := 65535, underrunCount := 7 } }
    let seen := { s with faults := { s.faults with seenCorrected := true, record := some hardFault } }
    let evs := fun s : State => s.portB.queue.map fun e => (e.kind, e.urgent, e.detail)
    (s.takeFault soft).faults.correctedCount = 65535
    ∧ (s.takeFault { soft with kind := .underrun }).faults.underrunCount = 8
    ∧ (s.takeFault hardFault.1).faults.underrunCount = 7
    ∧ evs (s.takeFault soft) = [(.fault, false, 64)] ∧ s.faults.seen soft.kind = false
    ∧ seen.faults.seen soft.kind = true ∧ (seen.takeFault soft).portB = seen.portB
    ∧ evs ((s.takeFault soft).takeFault { soft with kind := .underrun }) = [(.fault, false, 64), (.fault, false, 833)]
    ∧ evs (seen.takeFault { hardFault.1 with kind := .writeOverrun, requester := .capture }) = [(.fault, true, 532)]
    ∧ evs ((s.takeFault soft).takeFault { hardFault.1 with kind := .writeTimeout, requester := .capture }) =
      [(.fault, false, 64), (.fault, true, 275)] := by decide +kernel

/-- The defining recording of layer 1 on track 0 with its 2,880,000th frame just taken, or one frame before. -/
def atLimit (n : Nat) : State :=
  let s := opening 0 1 n .recording (.first 0 0)
    { framed with cycle := { Cycle.reset with state := .defining, pos := n, frameCount := 4000000, gen := 1 } }
  { s with capture := Capture.reset }.setRecord 0 (some
    { layer := 1, track := 0, phase := .draining, startStamp := 4000001 - n, readStamp := 4000001, endStamp := none
      nextOff := n, buf := [], closeOrder := none })

/-- R5: an arrival on a cycle that is not RUNNING, and the limit of the defining recording. -/
theorem witness_arrivals_off_the_grid :
    let arrive := fun s => after (exec (.frameSync 256 slot0 plainOrder) s)
    let p := { framed with cycle := paused.cycle }
    let d := { framed with cycle := (defining 5).cycle }
    let c := (atLimit 2880000).closeLimits (List.finRange 6)
    framed.power.resetHeld = false ∧ framed.power.part = .run ∧ framed.audio.frame.isSome = true
    ∧ framed.cycle.state ≠ .running ∧ framed.audio.present = true
    ∧ (arrive p).cycle = { p.cycle with frameCount := 500001 } ∧ (arrive p).portA = p.portA
    ∧ (arrive d).cycle = { d.cycle with frameCount := 500001, pos := 6 }
    ∧ (arrive framed).cycle = { framed.cycle with frameCount := 1 }
    ∧ (atLimit 2879999).closeLimits (List.finRange 6) = atLimit 2879999
    ∧ (atLimit 2880000).cycle.pos = 2880000 ∧ ((atLimit 2880000).track 0).state = .recording
    ∧ (∀ t' : TrackId, t' ≠ 0 → ((atLimit 2880000).track t').openLayer = none)
    ∧ (atLimit 2880000).taken 1 = 2880000 ∧ ((atLimit 2880000).layer? 1).map Layer.start = some (.first 0 0)
    ∧ c.cycle = { (atLimit 2880000).cycle with
      state := .running, len := some 2880000, pos := 0, origin := true, gen := 2 }
    ∧ c.track 0 = { Track.reset 0 with state := .playing, span := some 1, stack := [.single 1] }
    ∧ (c.layer? 1).map (fun l => (l.state, l.start, l.length, l.tail)) = some (.closed, .at 0, 2880000, true) := by
  decide +kernel

/-- R6, R130, R166: a new pass clears the flags and raises CYCLE WRAP before the BEAT of beat 0. -/
theorem witness_pass_events :
    let s := fun pos => { framed with
      cycle := rolling 5 pos
      mixer := { Mixer.reset with frontReported := true }
      audio := { framed.audio with passErrors := 3, reported := true }
      portA := { PortCtl.reset with interest := 0xFFFFFFFF } }
    let t := fun pos => after (exec (.frameSync 256 slot0 plainOrder) (s pos))
    eventsOf (t 196084) = [(.cycleWrap, 6), (.beat, 32768)] ∧ (t 196084).mixer.frontReported = false
    ∧ ((t 196084).audio.passErrors, (t 196084).audio.reported) = (0, false)
    ∧ eventsOf (t 73530) = [(.beat, 3)] ∧ (t 73530).mixer.frontReported = true ∧ (t 73530).audio.passErrors = 3
    ∧ eventsOf (t 73531) = [] := by decide +kernel

/-- The part after an assertion of PWRLOW. -/
def lowered (s : State) : State := after (exec .pwrlowAssert s)

/-- R49, R208, R210: with nothing open POWER LOW and REST ENTERED are all that happens beside the rest itself. -/
theorem witness_power_low_quiet :
    (∀ t, ((playing 5 50000).track t).openLayer = none) ∧ (playing 5 50000).fold = none
    ∧ (∀ e ∈ (playing 5 50000).layers, e.2.state ≠ .importing) ∧ (playing 5 50000).mem.windowA = none
    ∧ (playing 5 50000).mem.windowB = none ∧ (playing 5 50000).cues.entries = []
    ∧ eventsOf (lowered (playing 5 50000)) = [(.powerLow, 0), (.restEntered, 1)]
    ∧ (lowered (playing 5 50000)).portA.queue.map Event.urgent = [true, false]
    ∧ (lowered (playing 5 50000)).portA.queue.map Event.pos = [50000, 50000]
    ∧ (lowered (playing 5 50000)).track 0 = (playing 5 50000).track 0
    ∧ (lowered { playing 5 50000 with mixer := { Mixer.reset with burst := some { n := 1, h := 12 } } }).mixer.burst = none
    ∧ eventsOf (lowered (withCues [cueOf 9 .mute 6 0] (playing 5 50000))) =
      [(.powerLow, 0), (.cueDropped, 0x504), (.restEntered, 1)] := by decide +kernel

/-- R33, R34, R49: the open layers that a power-low closes: an overdub, a first layer, the defining recording, and one that has nothing. -/
theorem witness_power_low_closes :
    let o := fun n => opening 0 4 n .overdubbing (.at 50001) (playing 5 50000)
    let r := opening 1 4 65 .recording (.first 5 49936) (playing 5 50000)
    let kept := fun (s : State) id => (s.layer? id).map fun l => (l.state, l.start, l.length, l.tail)
    (o 5).power.pin = false ∧ (o 5).power.part = .run ∧ (o 5).layers.Pairwise (fun e f => e.1 < f.1)
    ∧ ((o 5).track 0).openLayer = some 4 ∧ ((o 5).layer? 4).map Layer.state = some .opened
    ∧ ((o 5).taken 4, (o 0).taken 4) = (5, 0) ∧ (o 5).fold = none
    ∧ kept (lowered (o 5)) 4 = some (.closed, .at 50001, 5, true)
    ∧ (lowered (o 5)).track 0 = { (o 5).track 0 with state := .playing, openLayer := none }
    ∧ (lowered (o 0)).layer? 4 = none ∧ ((lowered (o 0)).track 0).openLayer = none
    ∧ fixSpan 196085 5 49936 65 = (1, 49936, 65) ∧ kept (lowered r) 4 = some (.closed, .at 49936, 65, true)
    ∧ (lowered r).track 1 = { r.track 1 with state := .playing, span := some 1, openLayer := none }
    ∧ (lowered r).track 0 = r.track 0
    ∧ (lowered (defining 9599)).layer? 1 = none
    ∧ (lowered (defining 9599)).cycle = { (defining 9599).cycle with state := .empty, pos := 0, gen := 2 }
    ∧ kept (lowered (defining 9600)) 1 = some (.closed, .at 0, 9600, true)
    ∧ (lowered (defining 9600)).cycle = { (defining 9600).cycle with
      state := .running, len := some 9600, pos := 0, origin := true, gen := 2 }
    ∧ ((lowered (defining 9600)).track 0).span = some 1 := by decide +kernel

/-- R48, R49: a power-low gives the fold up, and retires its older member where the stack would hold 9 entries. -/
theorem witness_power_low_fold :
    let s := fun rest => folded 32768 20000 rest
    let six := [7, 8, 9, 10, 11, 12]
    (s six).fold = some fold346 ∧ ((s six).layer? 3).isSome = true ∧ ((s six).layer? 4).map Layer.state = some .folding
    ∧ ((s six).track 0).stack = .pair 3 4 :: six.map Entry.single ∧ stackPairs (six.map Entry.single) = []
    ∧ 3 ∉ stackIds (six.map Entry.single) ∧ ((s six).track 0).redo = [] ∧ ((s six).track 0).openLayer = none
    ∧ ((s six).track 0).marker = none ∧ (s six).layers.Pairwise (fun e f => e.1 < f.1)
    ∧ (lowered (s six)).fold = none ∧ (lowered (s six)).layer? 6 = none
    ∧ ((lowered (s six)).track 0).stack = .single 3 :: .single 4 :: six.map Entry.single
    ∧ ((lowered (s six)).layer? 3).map Layer.state = some .closed
    ∧ ((lowered (s six)).layer? 4).map (fun l => (l.state, l.gain)) = some (.closed, 20000)
    ∧ (lowered (s (six ++ [13]))).layer? 3 = none
    ∧ ((lowered (s (six ++ [13]))).track 0).stack = .single 4 :: (six ++ [13]).map Entry.single
    ∧ eventsOf (lowered (s (six ++ [13]))) =
      [(.foldAbandoned, 4), (.layerRetired, 32768), (.powerLow, 0), (.restEntered, 1)] := by decide +kernel

/-- R49, R158, R210: an import is discarded with its window, and another window is lost, before POWER LOW. -/
theorem witness_power_low_imports :
    let s := (((playing 5 50000).setLayer 4 importing).modTrack 1 fun tr =>
      { tr with stack := [.single 4], heldSpan := some 1 }).setWindow .a (some (Window.opened 4 .write .forward 0))
    let s := s.setWindow .b (some (Window.opened 3 .read .forward 0))
    (lowered s).layer? 4 = none ∧ (lowered s).mem.windowA = none ∧ (lowered s).mem.windowB = none
    ∧ eventsOf (lowered s) = [(.windowLost, 0x60), (.windowLost, 0x61), (.powerLow, 0), (.restEntered, 1)] := by
  decide +kernel

/-- R185, R189, R197, R199: bytes laid out by hand from the tables of 10.8. -/
theorem witness_byte_layouts :
    let s := ({ resting with portB := { PortCtl.reset with
      queue := [beatEvent], mask := .urgentOnly, reply := .pending 7 81 } } : State).setWindow .b
        (some { Window.opened 3 .read .forward 0 with done := true })
    s.stateByte .b = 0x6E ∧ run.stateByte .a = 1
    ∧ (({ resting with portA := { PortCtl.reset with
        queue := [beatEvent], reply := .full { status := .ok, tag := 0, code := 0, results := [] } } } : State).setWindow
          .a (some (Window.opened 4 .write .forward 0))).stateByte .a = 0xBA
    ∧ replyBytes { status := .timeout, tag := 9, code := 81, results := List.replicate 258 5 } =
      [17, 9, 81, 1, 2] ++ List.replicate 258 5
    ∧ eventBytes { kind := .powerLow, urgent := true, track := some 5, layer := some 40, cue := some 258, pass := 255
                   pos := 66051, detail := 0xABCD } = [30, 0x87, 5, 40, 1, 2, 255, 1, 2, 3, 0xAB, 0xCD]
    ∧ eventBytes { kind := .cycleDefined, urgent := false, track := none, layer := none, cue := none, pass := 0
                   pos := 0, detail := 0 } = [1, 0, 0, 0, 0, 0, 0, 0, 0, 0, 0, 0]
    ∧ (run.event .memoryFull none none none 3).urgent = true ∧ (run.event .fault none none none 3).urgent = false
    ∧ (run.event .lost none none none 3).pos = 0 := by decide +kernel

/-- The status of an IMPORT LAYER of 100 samples for a track, with span 1 and cover false. -/
def importStatus (track : Byte) (s : State) : Option Status :=
  statusOf (after (exec (.importLayer (req 13) track 1 0 100 0 64) s))

/-- R156: each row of the refusal table of IMPORT LAYER, where the rows before it pass. -/
theorem witness_import_refusals :
    let held := ((looping 5 50000).setLayer 4 importing).modTrack 1 fun tr =>
      { tr with stack := [.single 4], heldSpan := some 2 }
    let st := fun c => statusOf (after (exec c paused))
    importStatus 1 resting = some .resting ∧ importStatus 6 paused = some .badArg
    ∧ st (.importLayer (req 13) 5 3 0 100 0 64) = some .badArg ∧ st (.importLayer (req 13) 5 1 0 0 0 64) = some .badArg
    ∧ st (.importLayer (req 13) 5 1 0 100 2 64) = some .badArg
    ∧ importStatus 1 run = some .badState ∧ importStatus 1 (defining 5) = some .badState
    ∧ importStatus 0 overdubbing = some .badState
    ∧ importStatus 1 ((playing 5 50000).setWindow .a (some (Window.opened 3 .read .forward 0))) = some .busy
    ∧ (held.track 1).heldSpan ≠ some 1 ∧ 4 ∈ stackIds (held.track 1).stack
    ∧ importStatus 1 held = some .badArg
    ∧ importStatus 1 (held.modTrack 1 fun tr => { tr with heldSpan := some 1 }) = some .ok
    ∧ statusOf (after (exec (.importLayer (req 13) 0 8 195986 100 0 64) (playing 5 50000))) = some .badArg
    ∧ statusOf (after (exec (.importLayer (req 13) 0 8 195985 100 0 64) (playing 5 50000))) = some .ok
    ∧ ((playing 5 50000).track 0).span = some 1 ∧ paused.window .a = none := by decide +kernel

/-- R30, R156: the admission that an IMPORT LAYER passes or not, a fold that it starts, and the redo list that it frees. -/
theorem witness_import_admission :
    let s := fun free => { stacked 8 with mem := { run.mem with free := free } }
    let t := after (exec (.importLayer (req 13) 0 1 0 100 1 63) (s [7, 8]))
    let u := after (exec (.importLayer (req 13) 0 1 0 100 1 63) undone)
    importStatus 0 (s []) = some .stackFull
    ∧ (match ((s []).handedOn (req 13) 82).takeRoom 0 with | .error st => st | .ok _ => .ok) = .stackFull
    ∧ (match ((s [7, 8]).handedOn (req 13) 82).takeRoom 0 with | .error _ => 0 | .ok v => v.2) = 10
    ∧ (s [7, 8]).cycle.len = some 196085 ∧ (s [7, 8]).serves (req 13) 13
    ∧ t.fold.map Fold.result = some 9 ∧ (t.track 0).stack.length = 8 ∧ (t.track 0).stack.getLast? = some (.single 10)
    ∧ (t.layer? 10).map (fun l => (l.state, l.gain, l.cover, l.creator)) = some (.importing, 64, true, some .a)
    ∧ (t.window .a).map Window.layer = some 10 ∧ resultsOf t = [10]
    ∧ (undone.track 0).redo = [3] ∧ undone.layers.Pairwise (fun x y => x.1 < y.1)
    ∧ u.layer? 3 = none ∧ (u.track 0).redo = [] ∧ (u.track 0).heldSpan = some 1 ∧ (u.track 0).state = .empty := by
  unfold State.serves; decide +kernel

/-- Port A with a window on layer 3 (200 samples in block 5) or on the import 4. -/
def windowed (w : Window) : State := ((playing 0 0).setLayer 4 importing).setWindow .a (some w)

/-- R152, R192: a REVERSE window gives its samples downwards and ends at offset 0; an empty or CLOSED one gives zeros. -/
theorem witness_reverse_window :
    let t := fun w => after (exec (.windowRead .a true 5 true) (windowed w))
    let r := fun n => { Window.opened 3 .read .reverse n with buf := [0x123456] }
    ((t (r 70)).window .a).map (fun w => (w.next, w.done, w.buf)) = some (69, false, [])
    ∧ ((t (r 0)).window .a).map (fun w => (w.next, w.done)) = some (0, true)
    ∧ eventsOf (t (r 0)) = [(.windowDone, 0)] ∧ (t (r 0)).portA.shifted.drop 1 = [1, 0x12, 0x34, 0x56]
    ∧ (t (Window.opened 3 .read .forward 0)).portA.shifted.drop 1 = [0, 0, 0, 0]
    ∧ (after (exec (.windowRead .a true 5 true) run)).portA.shifted.drop 1 = [0, 0, 0, 0]
    ∧ (after (exec (.windowWrite .a true [5, 0, 1, 2, 3] true) run)).portA.shifted.drop 1 = [0, 0, 0, 0] := by
  decide +kernel

/-- R154, R192, R193: the byte that reports a timeout clears the flag, and the request is made afresh. -/
theorem witness_timeouts_reported :
    let r := windowed { Window.opened 3 .read .forward 0 with timedOut := true }
    let w := windowed { Window.opened 4 .write .forward 28 with timedOut := true, buf := List.replicate 28 1 }
    let full := windowed { Window.opened 4 .write .forward 64 with timedOut := true, buf := List.replicate 64 1 }
    let t := after (exec (.windowRead .a true 2 true) r)
    let u := after (exec (.windowWrite .a true [5, 0] true) w)
    (r.window .a).map Window.timedOut = some true ∧ t.portA.shifted.drop 1 = [128]
    ∧ (t.window .a).map (fun w => (w.timedOut, w.req)) = some (false, .waiting 16000 64)
    ∧ (w.window .a).map Window.req = some .absent ∧ u.portA.shifted.drop 1 = [164]
    ∧ (u.window .a).map (fun w => (w.timedOut, w.req)) = some (false, .absent)
    ∧ ((after (exec (.windowWrite .a true [5, 0] true) full)).window .a).map Window.req = some (.waiting 16000 64) := by decide +kernel

/-- R153, R193: samples beyond the space count as excess in a WRITE window alone. -/
theorem witness_excess :
    let w := fun n => { Window.opened 4 .write .forward 64 with
      buf := List.replicate 64 1, req := .waiting 0 64, excess := n }
    let t := fun w => after (exec (.windowWrite .a true [5, 0, 1, 2] false) (windowed w))
    let u := fun w => after (exec (.windowWrite .a false [3] false) (t w))
    let x := (t (w 65535)).portA.transfer
    x.map Transfer.kind = some .windowWrite ∧ x.map Transfer.latch = some (.window 0 false)
    ∧ x.map Transfer.partIn = some [1, 2] ∧ x.map Transfer.count = some 4
    ∧ ((u (w 7)).window .a).map Window.excess = some 8 ∧ ((u (w 65535)).window .a).map Window.excess = some 65535
    ∧ (u (w 7)).portA.shifted.drop 1 = [0, 0, 0, 0]
    ∧ ((u (Window.opened 3 .read .forward 0)).window .a).map Window.excess = some 0 := by decide +kernel

/-- R152, R153: what a window asks for once its buffer is empty or holds its range. -/
theorem witness_window_requests :
    let r := fun w (l : Layer) => (((windowed w).setLayer 3 l).settleRead .a).window .a
    let f := Window.opened 3 .read .forward
    let req := fun w l => (r w l).map fun w => (w.req, w.buf.length, w.done)
    let c := fun n (l : Layer) free =>
      let s := windowed { Window.opened 4 .write .forward (64 + n) with buf := List.replicate n 1 }
      ({ s with mem := { s.mem with free := free } }.setLayer 4 l).settleWrite .a
    req (f 199) layer0 = some (.waiting 16000 64, 0, false) ∧ req (f 200) layer0 = some (.absent, 0, true)
    ∧ req (f 200) { layer0 with state := .opened } = some (.waiting 16000 64, 0, false)
    ∧ req (f 130) { layer0 with holes := [rng 130 62] } = some (.absent, 62, false)
    ∧ req (Window.opened 3 .read .reverse 130) { layer0 with holes := [rng 128 3] } = some (.absent, 3, false)
    ∧ req { f 199 with done := true } layer0 = some (.absent, 0, true)
    ∧ importing.length = 100 ∧ ({ Window.opened 4 .write .forward 100 with buf := List.replicate 36 1 }).rangeEnd 100 = 100
    ∧ ((c 35 importing [7]).window .a).map Window.req = some .absent
    ∧ ((c 36 importing [7]).window .a).map Window.req = some (.waiting 16000 64)
    ∧ ((c 36 importing [7]).layer? 4).map Layer.extents = some [7] ∧ (c 36 importing [7]).mem.free = []
    ∧ ((c 36 { importing with extents := [9] } []).window .a).map Window.req = some (.waiting 16000 64)
    ∧ (c 36 importing []).window .a = none ∧ (c 36 importing []).layer? 4 = none := by decide +kernel

/-! ### Read-ahead buffers, redo lists and records taken -/

/-- Where a layer's buffer is aimed, where it fills and how many samples it holds. -/
def bufOf (id : Nat) (s : State) : Option (Nat × Nat × Nat) :=
  (s.layer? id).map fun l => (l.buf.aim, l.buf.fill, l.buf.data.length)

/-- A part that plays a layer whose buffer holds 64 samples, at a position of pass 5. -/
def buffered (pos : Nat) : State :=
  (playing 5 pos).setLayer 3 { layer0 with buf := { aim := 9, fill := 73, data := List.replicate 64 1, flight := true } }

/-- R149: the aim after a close at and away from its layer, a pause, UNDO, REDO and a cut. -/
theorem witness_buffers_aimed :
    let o := opening 0 4 65 .overdubbing (.at 49936) (buffered 50000)
    let un := after (exec (.undo (req 2) 0 0) (buffered 100))
    o.taken 4 = 65 ∧ bufOf 4 (after (exec (.close (req 2) 0 0) o)) = some (0, 0, 0)
    ∧ bufOf 4 (after (exec (.close (req 2) 0 0) { o with cycle := rolling 5 49940 })) = some (5, 5, 0)
    ∧ bufOf 3 (after (exec (.stopAll (req 1) 0) o)) = some (0, 0, 0)
    ∧ bufOf 3 un = some (0, 0, 0) ∧ bufOf 3 (after (exec (.redo (req 2) 0 0) un)) = some (101, 101, 0)
    ∧ bufOf 3 ((buffered 100).exhaust 3 150) = some (101, 101, 0)
    ∧ bufOf 3 ((buffered 199).exhaust 3 150) = some (0, 0, 0)
    ∧ bufOf 3 ((buffered 100).exhaust 3 102) = some (101, 101, 0)
    ∧ bufOf 3 ((buffered 100).exhaust 3 101) = some (0, 0, 0)
    ∧ bufOf 3 (((buffered 100).modLayer 3 fun l => { l with state := .undone }).exhaust 3 150) = some (9, 73, 64) := by
  decide +kernel

/-- R149: the aim of a fold's result and of an import as they come into use. -/
theorem witness_new_buffers_aimed :
    let f := fun pos => bufOf 6 (after (exec (.foldBurstComplete []) { foldWriting 4094 4096 [7] [8] with cycle := rolling 6 pos }))
    let i := fun pos => bufOf 4 (after (exec .windowCommitComplete { committing 1 36 false with cycle := rolling 6 pos }))
    f 40 = some (41, 41, 0) ∧ f 4094 = some (4095, 4095, 0) ∧ f 4095 = some (0, 0, 0)
    ∧ i 40 = some (41, 41, 0) ∧ i 98 = some (99, 99, 0) ∧ i 99 = some (0, 0, 0) ∧ i 196084 = some (0, 0, 0) := by
  decide +kernel

/-- R147: a CLOSED layer's buffer is in use, an UNDONE one's is not, and an OPEN one's is once its track has a span. -/
theorem witness_buffers_used :
    CycleInRange (rolling 5 100) ∧ CycleInRange (rolling 6 196084) ∧ (playing 5 100).BufferUsed 3 layer0
    ∧ ¬ (playing 5 100).BufferUsed 3 { layer0 with state := .undone }
    ∧ (playing 5 100).BufferUsed 3 { layer0 with state := .opened } ∧ ¬ run.BufferUsed 3 { layer0 with state := .opened } := by
  refine ⟨by constructor <;> simp [rolling, Cycle.reset, TapSeq.empty], by constructor <;> simp [rolling, Cycle.reset, TapSeq.empty],
    .inl rfl, ?_, .inr (.inr ⟨rfl, by decide⟩), ?_⟩
  · rintro (h | ⟨h, _⟩ | ⟨h, _⟩) <;> exact absurd h (by decide)
  · rintro (h | ⟨h, _⟩ | ⟨_, h⟩)
    · exact absurd h (by decide)
    · exact absurd h (by decide)
    · exact h rfl

/-- R147: a buffer waits for the range it looks at while it holds 64 samples or fewer, a range wholly in holes is placed at once, and the next wraps to offset 0. -/
theorem witness_buffers_filled :
    let b := fun n fill => { aim := 0, fill := fill, data := List.replicate n (1 : Sample), flight := false : ReadBuf }
    let with_ := fun holes b => thirsty.setLayer 3 { layer0 with stored := [rng 0 200], holes := holes, buf := b }
    let wants := fun holes b => (with_ holes b).playbackWaiting.map fun e => (e.2.1, e.2.2)
    thirsty.playbackWaiting = [(0, 3, rng 0 64)] ∧ (b 64 192).LooksAt layer0 200 (rng 192 8)
    ∧ (b 64 200).LooksAt layer0 200 (rng 0 64)
    ∧ wants [] (b 64 192) = [(3, rng 192 8)] ∧ wants [] (b 64 200) = [(3, rng 0 64)] ∧ wants [] (b 65 192) = []
    ∧ wants [rng 0 64] (b 64 0) = [] ∧ wants [rng 0 63] (b 64 0) = [(3, rng 0 64)]
    ∧ bufOf 3 (with_ [rng 0 64] (b 64 0)).settleBuffers = some (0, 64, 128)
    ∧ bufOf 3 (with_ [rng 0 128] (b 0 0)).settleBuffers = some (0, 128, 128)
    ∧ bufOf 3 (with_ [rng 0 64, rng 192 8] (b 57 192)).settleBuffers = some (0, 0, 65)
    ∧ bufOf 3 (with_ [rng 0 63] (b 0 0)).settleBuffers = some (0, 0, 0)
    ∧ bufOf 3 ((with_ [rng 0 200] (b 0 0)).setLayer 3 { layer0 with state := .undone }).settleBuffers = some (0, 0, 0) := by
  unfold ReadBuf.LooksAt; decide +kernel

/-- R144: the offsets of a written burst become stored, those below the length of a closed layer alone. -/
theorem witness_bursts_stored :
    let g := fun (s : State) o live => after (exec .captureWriteComplete { s with mem := { s.mem with
      grant := some (.capture { layer := 3, offset := o, samples := List.replicate 64 1, queuedAt := 0 } (some 5) live) } })
    let st := fun s id => (State.layer? s id).map Layer.stored
    let open3 := (playing 0 0).setLayer 3 { layer0 with state := .opened, length := 0, stored := [rng 0 64] }
    st (g (playing 0 0) 128 true) 3 = some [rng 128 64] ∧ st (g (playing 0 0) 192 true) 3 = some [rng 192 8]
    ∧ st (g (playing 0 0) 200 true) 3 = some [] ∧ st (g (playing 0 0) 128 false) 3 = some []
    ∧ st (g open3 64 true) 3 = some [rng 0 128]
    ∧ st (g ((playing 0 0).setLayer 4 layer0) 128 true) 4 = some [] := by decide +kernel

/-- A part with layers 8 and 9 UNDONE in the redo list of a track. -/
def redoing (t : TrackId) (s : State) : State :=
  ((s.setLayer 8 { layer0 with track := t, state := .undone, extents := [30] }).setLayer 9
    { layer0 with track := t, state := .undone, extents := [31, 32], suspects := [31] }).modTrack t fun tr =>
      { tr with redo := [9, 8], heldSpan := some 2 }

/-- R28, R32: a punch-in and RECORD free the redo list, oldest first, and the held span. -/
theorem witness_redo_list_freed :
    let s := redoing 0 (playing 5 50000)
    let e := redoing 5 run
    let t := after (exec (.overdub (req 2) 0 0) s)
    let u := after (exec (.record (req 2) 5 3) e)
    s.serves (req 2) 2 ∧ e.serves (req 2) 2 ∧ s.layers.Pairwise (fun x y => x.1 < y.1) ∧ (s.track 0).redo.Nodup
    ∧ (∀ j ∈ (s.track 0).redo, (s.layer? j).map Layer.state = some .undone) ∧ s.freeId = some 1
    ∧ (s.track 0).stack.length < 8 ∧ (e.track 5).stack = [] ∧ e.freeId = some 1 ∧ (e.freeRedo 5).freeRecord = some 0
    ∧ (s.freeRedo 0).layer? 8 = none ∧ (s.freeRedo 0).layer? 9 = none ∧ (s.freeRedo 0).layer? 3 = some layer0
    ∧ (s.freeRedo 0).mem.free = [7, 8, 9, 30, 32] ∧ (s.freeRedo 0).mem.bad = [31]
    ∧ (t.track 0).redo = [] ∧ (t.track 0).heldSpan = none ∧ (t.track 0).stack = [.single 3, .single 1]
    ∧ t.mem.free = [7, 8, 9, 30, 32] ∧ (u.track 5).redo = [] ∧ u.mem.free = [7, 8, 9, 30, 32]
    ∧ (u.layer? 1).map Layer.state = some .opened ∧ (u.track 5).state = .recording := by
  unfold State.serves; decide +kernel

/-- Record i of twelve DRAINING ones: the first, of layer 3, closed earliest and still holds offsets from `off` to 200. -/
def drainingRec (off : Nat) (i : Fin 12) : CapRec :=
  { layer := if i = 0 then 3 else 7, track := 0, phase := .draining, startStamp := 499800, readStamp := 499900
    endStamp := some 500000, nextOff := off, buf := [], closeOrder := some ((65530 + i.val) % 65536) }

/-- The layer that the first of them still drains. -/
def draining (extents : List Nat) : Layer := { layer0 with extents := extents }

/-- A part in which no capture record is free, with the blocks of layer 3 and the free list given. -/
def noRecord (off : Nat) (extents free : List Nat) (s : State) : State :=
  { s.setLayer 3 (draining extents) with
    mem := { s.mem with free := free }
    capture := { s.capture with records := Vector.ofFn fun i => some (drainingRec off i), closeOrder := 7 } }

theorem witness_closed_earliest (off : Nat) (extents free : List Nat) (s : State) :
    (noRecord off extents free s).ClosedEarliest 0 (drainingRec off 0) := by
  refine ⟨by simp [noRecord], rfl, fun j => by simp [noRecord], 65530, rfl, fun j q hq _ hj => ?_⟩
  simp only [noRecord, Fin.getElem_fin, Vector.getElem_ofFn, Option.some.injEq] at hq
  subst hq
  have later : ∀ j : Fin 12, j ≠ 0 → (7 + 65536 - (65530 + j.val) % 65536 % 65536) % 65536
      < (7 + 65536 - 65530 % 65536) % 65536 := by decide
  exact ⟨_, rfl, later j hj⟩

/-- R67: the record of the layer closed earliest makes room: with its blocks at hand, with one to take, and, on an EMPTY cycle, for the defining recording; a free record is room too. -/
theorem witness_record_room :
    (∃ w, ((noRecord 64 [5] [7] (playing 5 50000)).freeRedo 0).RecordRoom 0 w)
    ∧ (∃ w, ((noRecord 0 [] [7] (playing 5 50000)).freeRedo 0).RecordRoom 0 w)
    ∧ (∃ w, { (noRecord 64 [5] [7] run).freeRedo 5 with cycle := { run.cycle with
        state := .defining, pos := 0, pass := 0, tap := { count := 0, last := 0, sum := 0 }
        gen := (run.cycle.gen + 1) % 65536 } }.RecordRoom 0 w)
    ∧ ((playing 5 50000).freeRedo 0).RecordRoom 0 ((playing 5 50000).freeRedo 0) :=
  ⟨⟨_, .inr ⟨drainingRec 64 0, draining [5], 500000, 200, 0, witness_closed_earliest 64 [5] [7] (playing 5 50000),
      by decide, rfl, rfl, by decide, by decide, rfl, by decide, rfl⟩⟩,
    ⟨_, .inr ⟨drainingRec 0 0, draining [], 500000, 200, 1, witness_closed_earliest 0 [] [7] (playing 5 50000),
      by decide, rfl, rfl, by decide, by decide, rfl, by decide, rfl⟩⟩,
    ⟨_, .inr ⟨drainingRec 64 0, draining [5], 500000, 200, 0, witness_closed_earliest 64 [5] [7] run,
      by decide, rfl, rfl, by decide, by decide, rfl, by decide, rfl⟩⟩,
    .inl ⟨by decide, fun j h => absurd h (Nat.not_lt_zero _), rfl⟩⟩

/-- R67, R76: what taking that record does to its layer. -/
theorem witness_record_taken :
    let t := fun off ext free => after (exec (.overdub (req 2) 0 0) (noRecord off ext free (playing 5 50000)))
    let d := after (exec (.record (req 2) 5 3) (noRecord 64 [5] [7] run))
    let lost := fun s => (State.layer? s 3).map fun l => (l.holes, l.damaged, l.extents)
    let rec0 := fun s : State => (s.capture.records[(0 : Fin 12)]).map CapRec.layer
    (noRecord 64 [5] [7] (playing 5 50000)).serves (req 2) 2 ∧ (noRecord 64 [5] [7] run).serves (req 2) 2
    ∧ (noRecord 64 [5] [7] run).cycle.state = .empty ∧ (noRecord 64 [5] [7] run).freeId = some 1
    ∧ lost (t 64 [5] [7]) = some ([rng 64 136], true, [5]) ∧ (t 64 [5] [7]).mem.free = [7]
    ∧ rec0 (t 64 [5] [7]) = some 1 ∧ (t 64 [5] [7]).faults.seenWriteOverrun = true
    ∧ lost (t 0 [] [7]) = some ([rng 0 200], true, [7]) ∧ (t 0 [] [7]).mem.free = []
    ∧ lost d = some ([rng 64 136], true, [5]) ∧ rec0 d = some 1 ∧ d.cycle.state = .defining := by
  unfold State.serves; decide +kernel

/-- R67, R76, R143: without the block that the remainder begins, the layer ends there. -/
theorem witness_record_taken_short :
    let s := noRecord 0 [] [] (playing 5 50000)
    let long := (noRecord 4096 [5] [] (playing 5 50000)).setRecord 0 (some
      { drainingRec 4096 0 with startStamp := 490000 })
    let new := drainingRec 0 5
    s.layers.Pairwise (fun x y => x.1 < y.1) ∧ ceilDiv 200 4096 = 1 ∧ (0 + 0) * 4096 = 0
    ∧ (s.placeRecord { new with layer := 4 }).layer? 3 = none ∧ (s.placeRecord new).faults.seenWriteOverrun = false
    ∧ ((long.placeRecord new).layer? 3).map (fun l => (l.length, l.tail)) = some (4096, true) := by decide +kernel

/-- R65, R144: the 20 ms of a burst of a closed layer that drains: the offsets below its length become a hole. -/
theorem witness_write_timeout_draining :
    let q := fun now o => { playing 0 0 with
      now := now
      mem := { run.mem with queue := [{ layer := 3, offset := o, samples := List.replicate 64 1, queuedAt := 0 }] } }
    let h := fun s => (State.layer? s 3).map Layer.holes
    layer0.state ≠ .opened ∧ 192 < layer0.length ∧ (q 320000 192).layer? 3 = some layer0
    ∧ min 64 (200 - 192) = 8 ∧ min 64 (200 - 128) = 64
    ∧ h (after (exec .writeTimeout (q 320000 192))) = some [rng 192 8]
    ∧ h (after (exec .writeTimeout (q 320000 128))) = some [rng 128 64]
    ∧ h (after (exec .writeTimeout (q 320000 199))) = some [rng 199 1]
    ∧ (after (exec .writeTimeout (q 320000 192))).faults.seenWriteTimeout = true
    ∧ h (after (exec .writeTimeout (q 319999 192))) = some [] := by decide +kernel

/-- R155: a commit that a CLOSE WINDOW waits for times out: TIMEOUT, and the window stays OPEN. -/
theorem witness_closing_timeout :
    let s := fun (n : Nat) (r : ReplySlot) =>
      let y := (committing 1 3 true).setWindow .a (some { Window.opened 4 .write .forward 67 with
        buf := [3, 3, 3], req := .waiting 0 64, closing := true })
      { y with now := n, portA := { y.portA with reply := r }, mem := { y.mem with grant := none } }
    let t := fun n r => after (exec (.windowRequestTimeout .a) (s n r))
    let w := fun n r => ((t n r).window .a).map fun w => (w.timedOut, w.closing, w.buf.length)
    (((s 0 .empty).window .a).map fun w => (w.closing, decide (w.req = .waiting 0 64))) = some (true, true)
    ∧ w 1023999 (.pending 7 81) = some (false, true, 3) ∧ statusOf (t 1023999 (.pending 7 81)) = none
    ∧ w 1024000 (.pending 7 81) = some (true, false, 3) ∧ statusOf (t 1024000 (.pending 7 81)) = some .timeout
    ∧ resultsOf (t 1024000 (.pending 7 81)) = [] ∧ w 1024000 .empty = some (true, false, 3)
    ∧ statusOf (t 1024000 .empty) = none := by decide +kernel

/-- R159, R174 to R180: corrected words of a block test, in a block that passes and in one that fails, before and after a record is held. -/
theorem witness_block_test_corrected :
    let z := { State.reset with portA := { State.reset.portA with interest := 0xFFFFFFFF } }
    let t := fun n ok => after (exec (.blockTest n ok) z)
    let again := after (exec (.blockTest 3 true) { t 1 true with
      faults := { (t 1 true).faults with correctedCount := 65533 } })
    z.mem.mode = .test ∧ (t 3 true).faults.correctedCount = 3 ∧ (t 3 true).mem.free = [0]
    ∧ eventsOf (t 3 true) = [(.fault, 80)] ∧ ((t 3 true).faults.record.map fun r => (r.1.kind, r.2)) = some (.corrected, 1)
    ∧ (t 3 false).mem.bad = [0] ∧ ((t 3 false).faults.record.map fun r => (r.1.kind, r.2)) = some (.uncorrectable, 2)
    ∧ again.faults.correctedCount = 65535 ∧ again.faults.seq = 1 ∧ eventsOf again = [(.fault, 80)]
    ∧ again.mem.testNext = 2 := by decide +kernel

/-- R207, R210: the start-up test done while the power is low: READY, POWER LOW and REST ENTERED, and the part in REST. -/
theorem witness_test_done_at_low_power :
    let z := { State.reset with
      power := { State.reset.power with pin := true, latch := true }
      mem := { MemCtl.reset with testNext := 4096, free := [0, 1] }
      portA := { State.reset.portA with interest := 0xFFFFFFFF } }
    let t := after (exec .memoryTestDone z)
    z.mem.mode = .test ∧ z.power.latch = true ∧ z.layers = [] ∧ (∀ t, (z.track t).openLayer = none) ∧ z.fold = none
    ∧ z.mem.windowA = none ∧ z.mem.windowB = none ∧ z.cues.entries = []
    ∧ (∀ i : Fin 12, z.capture.records[i] = none) ∧ z.mem.waitFold = { start := none, raised := false }
    ∧ z.mem.waitA = { start := none, raised := false } ∧ z.mem.waitB = { start := none, raised := false }
    ∧ t.power.part = .rest ∧ t.mem.mode = .serving
    ∧ eventsOf t = [(.ready, 2), (.powerLow, 0), (.restEntered, 1)] := by decide +kernel

end Sys2Proof.Tests
end

/-! # What every command keeps

A property of the state that the parts of the machine keep is kept by every command but the resets and FRAME SYNC.
The case analysis over the commands stands here once; each invariant gives the parts that it needs. -/

namespace Sys2Proof.Machine

open Sys2Proof

/-- A property that every operation of the blocks keeps, those alone left out that the resets and FRAME SYNC run. -/
structure KeptByBlocks (P : State → Prop) : Prop where
  setPort : ∀ p c s, P s → P (s.setPort p c)
  power : ∀ w s, P s → P { s with power := w }
  mixer : ∀ m s, P s → P { s with mixer := m }
  audio : ∀ a s, P s → P { s with audio := a }
  switches : ∀ w s, P s → P { s with switches := w }
  faultsCleared : ∀ s, P s → P { s with faults := s.faults.clear }
  beats : ∀ b s, 1 ≤ b → b ≤ 64 → P s → P { s with cycle := { s.cycle with beats := b } }
  perBar : ∀ b s, 1 ≤ b → b ≤ 16 → P s → P { s with cycle := { s.cycle with perBar := b } }
  grace : ∀ g s, g ≤ 4800 → P s → P { s with cycle := { s.cycle with grace := g } }
  startCycle : ∀ len d s, 9600 ≤ len → len ≤ 2880000 → P s → P (s.startCycle len d)
  actTap : ∀ stamp s, P s → P (s.actTap stamp).1
  actClearAll : ∀ s, P s → P s.actClearAll
  actClearTrack : ∀ t s, P s → P (s.actClearTrack t)
  quantised : ∀ p a t q press s, P s → P (s.quantised p a t q press).1
  dropCue : ∀ r c s, P s → P (s.dropCue r c)
  setTrack : ∀ t tr s, P s → P (s.setTrack t tr)
  setLayer : ∀ id l s, P s → P (s.setLayer id l)
  switchDown : ∀ p code s, P s → P (s.switchDown p code).1
  switchUp : ∀ p code s, P s → P (s.switchUp p code).1
  holdDue : ∀ p code s, P s → P (s.holdDue p code)
  windowDue : ∀ p code s, P s → P (s.windowDue p code)
  selectTo : ∀ p t s, P s → P (s.selectTo p t)
  setWindow : ∀ p w s, P s → P (s.setWindow p w)
  setTimeout : ∀ p n s, P s → P (s.setTimeout p n)
  shutWindow : ∀ p s, P s → P (s.shutWindow p)
  closeCommit : ∀ p w s, P s → P (s.closeCommit p w)
  takeRoom : ∀ t s u id, s.takeRoom t = .ok (u, id) → P s → P u
  placeImport : ∀ p id i s, P s → P (s.placeImport p id i)
  enterRest : ∀ c d s, P s → P (s.enterRest c d)
  wakeUp : ∀ s, P s → P s.wakeUp
  pinAsserted : ∀ s, P s → P s.pinAsserted
  watchdog : ∀ s, P s → P s.watchdog
  lockout : ∀ who s, P s → P (s.lockout who)
  writeDeadline : ∀ s, P s → P s.writeDeadline
  windowTimedOut : ∀ p s, P s → P (s.windowTimedOut p)
  refreshFallsDue : ∀ s, P s → P s.refreshFallsDue
  arbitrate : ∀ s, P s → P s.arbitrate
  completeRefresh : ∀ s, P s → P s.completeRefresh
  completePlayback : ∀ checks s, P s → P (s.completePlayback checks)
  completeCapture : ∀ s, P s → P s.completeCapture
  completeFoldBurst : ∀ checks s, P s → P (s.completeFoldBurst checks)
  completeWindowRead : ∀ checks s, P s → P (s.completeWindowRead checks)
  completeCommit : ∀ s, P s → P s.completeCommit
  testBlock : ∀ n ok s, P s → P (s.testBlock n ok)
  finishTest : ∀ s, P s → P s.finishTest
  selfRefresh : ∀ s, P s → P s.selfRefresh
  replyByte : ∀ p s, P s → P (s.replyByte p)
  eventsByte : ∀ p s, P s → P (s.eventsByte p)
  windowReadByte : ∀ p s, P s → P (s.windowReadByte p)
  windowWriteBytes : ∀ p l s, P s → P (s.windowWriteBytes p l)
  settle : ∀ s, P s → P s.settle

namespace KeptByBlocks

variable {P : State → Prop}

/-! ### Transfers and requests -/

theorem whenLive {f : State → State} (hf : ∀ s, P s → P (f s)) {s : State} (h : P s) : P (s.whenLive f) := by
  unfold State.whenLive
  split
  · exact h
  · exact hf s h

theorem repeatStep {f : State → State} (hf : ∀ s, P s → P (f s)) (n : Nat) :
    ∀ {s : State}, P s → P (Machine.repeatStep f n s) := by
  induction n with
  | zero => exact id
  | succ n ih => exact fun h => ih (hf _ h)

theorem riseIf (K : KeptByBlocks P) {p : Port} {rise : Bool} {s : State} (h : P s) : P (s.riseIf p rise) := by
  unfold State.riseIf
  split
  · exact K.setPort _ _ _ h
  · exact h

/-- A segment of a transfer keeps what its bytes keep (R185). -/
theorem segment (K : KeptByBlocks P) {p : Port} {k : TransferKind} {fall : Bool} {n : Nat} {rise : Bool}
    {body : State → State} (hb : ∀ s, P s → P (body s)) {s : State} (h : P s) :
    P (s.segment p k fall n rise body) := by
  refine whenLive (fun s h => ?_) h
  have hs : P (if fall then s.beginTransfer p k else s) := by
    split
    · exact K.setPort _ _ _ h
    · exact h
  dsimp only
  generalize (if fall then s.beginTransfer p k else s) = u at hs ⊢
  split
  · exact K.riseIf (hb _ hs)
  · split
    · exact K.riseIf (K.setPort _ _ _ hs)
    · exact hs

theorem screen (K : KeptByBlocks P) {always lenOk : Bool} {h : Req} {code : Nat} {owner : Owner}
    (ho : ∀ s, P s → P (owner s).1) {s : State} (hs : P s) : P (s.screen always lenOk h code owner) := by
  have taken : P (s.takeRequest h code owner) := by
    have hp := ho _ (K.setPort h.port { s.port h.port with reply := .pending h.tag (BitVec.ofNat 8 code) } s hs)
    unfold State.takeRequest
    split
    · next u st l e => rw [e] at hp; exact K.setPort _ _ _ hp
    · next u e => rw [e] at hp; exact hp
  unfold State.screen
  (repeat' split)
  · exact K.setPort _ _ _ hs
  · exact K.setPort _ _ _ hs
  · exact taken
  · exact K.setPort _ _ _ hs

/-- A request keeps what its owner keeps (R187 to R189). -/
theorem request (K : KeptByBlocks P) {h : Req} {code n : Nat} {owner : Owner} (ho : ∀ s, P s → P (owner s).1)
    {s : State} (hs : P s) : P (s.request h code n owner) :=
  whenLive (fun _ h => K.screen ho (K.setPort _ _ _ h)) hs

theorem requestAlways (K : KeptByBlocks P) {h : Req} {code : Nat} {owner : Owner} (ho : ∀ s, P s → P (owner s).1)
    {s : State} (hs : P s) : P (s.requestAlways h code owner) :=
  whenLive (fun _ h => K.screen ho (K.setPort _ _ _ h)) hs

/-! ### The owners of requests -/

theorem ownSetTempo (K : KeptByBlocks P) (t b : Nat) (s : State) (h : P s) : P (ownSetTempo t b s).1 := by
  unfold Machine.ownSetTempo
  (repeat' split)
  · exact h
  · exact h
  · exact h
  · next hb =>
    exact K.startCycle _ _ _ (tempoLen_le _ _).1 (tempoLen_le _ _).2 (K.beats _ _ (by omega) (by omega) h)

theorem ownSetLength (K : KeptByBlocks P) (n : Nat) (s : State) (h : P s) : P (ownSetLength n s).1 := by
  unfold Machine.ownSetLength
  (repeat' split)
  · exact h
  · exact h
  · exact K.startCycle _ _ _ (clampLen_le _).1 (clampLen_le _).2 h

theorem ownSetGrid (K : KeptByBlocks P) (b p : Nat) (s : State) (h : P s) : P (ownSetGrid b p s).1 := by
  unfold Machine.ownSetGrid
  split
  · exact h
  · exact K.perBar _ _ (by omega) (by omega) (K.beats (min 64 b) _ (by omega) (by omega) h)

theorem ownTap (K : KeptByBlocks P) (s : State) (h : P s) : P (ownTap s).1 := by
  have ht := K.actTap s.cycle.frameCount s h
  unfold Machine.ownTap
  split <;> next e => rw [e] at ht; exact ht

theorem handQuantised (K : KeptByBlocks P) (p : Port) (a : Action) (t : Option TrackId) (q : Quantum) (s : State)
    (h : P s) : P (s.handQuantised p a t q).1 := by
  have hq := K.quantised p a t q s.pressNow s h
  unfold State.handQuantised
  dsimp only [State.answer]
  split
  · exact K.settle _ hq
  · exact hq

theorem ownAll (K : KeptByBlocks P) (p : Port) (a : Action) (q : Byte) (s : State) (h : P s) :
    P (ownAll p a q s).1 := by
  unfold Machine.ownAll
  split
  · exact K.handQuantised _ _ _ _ _ h
  · exact h

theorem ownTrack (K : KeptByBlocks P) (p : Port) (a : Action) (t q : Byte) (s : State) (h : P s) :
    P (ownTrack p a t q s).1 := by
  unfold Machine.ownTrack
  split
  · exact K.handQuantised _ _ _ _ _ h
  · exact h

theorem ownClearAll (K : KeptByBlocks P) (q : Byte) (s : State) (h : P s) : P (ownClearAll q s).1 := by
  unfold Machine.ownClearAll
  split
  · exact K.settle _ (K.actClearAll _ h)
  · exact h

theorem ownClearTrack (K : KeptByBlocks P) (t q : Byte) (s : State) (h : P s) : P (ownClearTrack t q s).1 := by
  unfold Machine.ownClearTrack
  split
  · exact K.settle _ (K.actClearTrack _ _ h)
  · exact h

theorem ownSetTrack (K : KeptByBlocks P) (t : Byte) (fb fr er : Nat) (src : Byte) (s : State) (h : P s) :
    P (ownSetTrack t fb fr er src s).1 := by
  unfold Machine.ownSetTrack
  split
  · exact K.setTrack _ _ _ h
  · exact h

theorem ownSetLayerGain (K : KeptByBlocks P) (id g : Nat) (s : State) (h : P s) : P (ownSetLayerGain id g s).1 := by
  unfold Machine.ownSetLayerGain
  (repeat' split)
  · exact h
  · exact h
  · exact K.setLayer _ _ _ h

theorem ownCancelCue (K : KeptByBlocks P) (id : Nat) (s : State) (h : P s) : P (ownCancelCue id s).1 := by
  unfold Machine.ownCancelCue
  split
  · exact K.dropCue _ _ _ h
  · exact h

theorem ownSetSwitch (K : KeptByBlocks P) (c : Byte) (e : Option MapEntry) (s : State) (h : P s) :
    P (ownSetSwitch c e s).1 := by
  unfold Machine.ownSetSwitch
  split
  · exact K.switches _ _ h
  · exact h

theorem ownSwitch (K : KeptByBlocks P) {report : Port → SwitchCode → State → State × Bool}
    (hr : ∀ p c s, P s → P (report p c s).1) (p : Port) (c : Byte) (s : State) (h : P s) :
    P (ownSwitch report p c s).1 := by
  unfold Machine.ownSwitch
  split
  · exact K.settle _ (hr _ _ _ h)
  · exact h

theorem ownSelectTrack (K : KeptByBlocks P) (p : Port) (t : Byte) (s : State) (h : P s) :
    P (ownSelectTrack p t s).1 := by
  unfold Machine.ownSelectTrack
  split
  · exact K.selectTo _ _ _ h
  · exact h

theorem ownSetMonitor (K : KeptByBlocks P) (i : Byte) (fr er : Nat) (s : State) (h : P s) :
    P (ownSetMonitor i fr er s).1 := by
  unfold Machine.ownSetMonitor
  split
  · exact K.mixer _ _ h
  · exact h

theorem ownSetClick (K : KeptByBlocks P) (on : Byte) (level : Nat) (s : State) (h : P s) :
    P (ownSetClick on level s).1 := by
  unfold Machine.ownSetClick
  split
  · exact K.mixer _ _ h
  · exact h

theorem ownSetOutput (K : KeptByBlocks P) (i : Byte) (src : Option Source) (s : State) (h : P s) :
    P (ownSetOutput i src s).1 := by
  unfold Machine.ownSetOutput
  split
  · exact K.mixer _ _ h
  · exact h

theorem ownReadClips (K : KeptByBlocks P) (clear : Byte) (s : State) (h : P s) : P (ownReadClips clear s).1 := by
  unfold Machine.ownReadClips
  split
  · exact K.mixer _ _ h
  · exact h
  · exact h

theorem ownOpenWindow (K : KeptByBlocks P) (p : Port) (id o : Nat) (d m : Byte) (s : State) (h : P s) :
    P (ownOpenWindow p id o d m s).1 := by
  unfold Machine.ownOpenWindow
  (repeat' split)
  · exact h
  · exact h
  · exact h
  · exact h
  · exact K.settle _ (K.setWindow _ _ _ h)
  · exact h

theorem ownCloseWindow (K : KeptByBlocks P) (p : Port) (s : State) (h : P s) : P (ownCloseWindow p s).1 := by
  unfold Machine.ownCloseWindow
  (repeat' split)
  · exact h
  · exact h
  · exact K.settle _ (K.shutWindow _ _ h)
  · exact K.settle _ (K.shutWindow _ _ h)
  · exact K.settle _ (K.closeCommit _ _ _ h)

theorem ownImportLayer (K : KeptByBlocks P) (p : Port) (arg : Option Import) (s : State) (h : P s) :
    P (ownImportLayer p arg s).1 := by
  unfold Machine.ownImportLayer
  (repeat' split)
  · exact h
  · exact h
  · exact h
  · exact h
  · next e => exact K.settle _ (K.placeImport _ _ _ _ (K.takeRoom _ _ _ _ e h))

theorem ownSetWindowTimeout (K : KeptByBlocks P) (p : Port) (n : Nat) (s : State) (h : P s) :
    P (ownSetWindowTimeout p n s).1 := by
  unfold Machine.ownSetWindowTimeout
  split
  · exact K.setTimeout _ _ _ h
  · exact h

theorem ownSetLinkThreshold (K : KeptByBlocks P) (n : Nat) (s : State) (h : P s) :
    P (ownSetLinkThreshold n s).1 := by
  unfold Machine.ownSetLinkThreshold
  split
  · exact h
  · exact K.audio _ _ h

theorem ownClearFaults (K : KeptByBlocks P) (q : Nat) (s : State) (h : P s) : P (ownClearFaults q s).1 := by
  unfold Machine.ownClearFaults
  (repeat' split)
  · exact h
  · exact K.faultsCleared _ h
  · exact h

theorem ownRest (K : KeptByBlocks P) (s : State) (h : P s) : P (ownRest s).1 := by
  unfold Machine.ownRest
  (repeat' split)
  · exact h
  · exact K.settle _ (K.enterRest _ _ _ h)
  · exact h

theorem ownWake (K : KeptByBlocks P) (s : State) (h : P s) : P (ownWake s).1 := by
  unfold Machine.ownWake
  split
  · exact K.wakeUp _ h
  · exact h

theorem ownSetInterest (K : KeptByBlocks P) (p : Port) (k : BitVec 32) (s : State) (h : P s) :
    P (ownSetInterest p k s).1 := by
  unfold Machine.ownSetInterest
  split
  · exact h
  · exact K.setPort _ _ _ h

theorem ownSetMaskLevel (K : KeptByBlocks P) (p : Port) (level : Byte) (s : State) (h : P s) :
    P (ownSetMaskLevel p level s).1 := by
  unfold Machine.ownSetMaskLevel
  split
  · exact K.setPort _ _ _ h
  · exact h

theorem ownPostNote (K : KeptByBlocks P) (p : Port) (note : List Byte) (s : State) (h : P s) :
    P (ownPostNote p note s).1 := by
  unfold Machine.ownPostNote
  split
  · exact h
  · exact K.setPort _ _ _ (K.setPort _ _ _ h)

theorem ownTakeNote (K : KeptByBlocks P) (p : Port) (s : State) (h : P s) : P (ownTakeNote p s).1 := by
  unfold Machine.ownTakeNote
  split
  · exact h
  · exact K.setPort _ _ _ (K.setPort _ _ _ h)

end KeptByBlocks

/-- The commands whose work is not the reset of the part or the close of a frame. -/
def isPlain : Instr → Bool
  | .reset | .resetnLow | .resetPart _ | .frameSync .. => false
  | _ => true

open KeptByBlocks in
/-- Every command but the resets and FRAME SYNC keeps what the blocks keep. -/
theorem exec_keeps {P : State → Prop} (K : KeptByBlocks P) {c : Instr} (hc : isPlain c = true) {s : State}
    (h : P s) : ∃ t, exec c s = .next t ∧ P t := by
  have answered : ∀ (s : State) (st : Status) (l : List Byte), P s → P (s.answer st l).1 := fun _ _ _ h => h
  cases c with
  | reset | resetnLow | resetPart h | frameSync clocks adin ord => exact absurd hc (by simp [isPlain])
  | pwrlowAssert =>
    refine ⟨_, rfl, ?_⟩
    split
    · exact h
    · exact K.pinAsserted s h
  | pwrlowRelease => exact ⟨_, rfl, K.power _ _ h⟩
  | watchdogExpiry => exact ⟨_, rfl, whenLive K.watchdog h⟩
  | holdDeadline p code => exact ⟨_, rfl, whenLive (fun s h => K.settle _ (K.holdDue p code s h)) h⟩
  | windowDeadline p code => exact ⟨_, rfl, whenLive (fun s h => K.settle _ (K.windowDue p code s h)) h⟩
  | backgroundLockout who => exact ⟨_, rfl, whenLive (K.lockout who) h⟩
  | writeTimeout => exact ⟨_, rfl, whenLive K.writeDeadline h⟩
  | windowRequestTimeout p => exact ⟨_, rfl, whenLive (K.windowTimedOut p) h⟩
  | refreshDue => exact ⟨_, rfl, whenLive K.refreshFallsDue h⟩
  | arbiterGrant => exact ⟨_, rfl, whenLive K.arbitrate h⟩
  | refreshComplete => exact ⟨_, rfl, whenLive K.completeRefresh h⟩
  | playbackReadComplete checks => exact ⟨_, rfl, whenLive (K.completePlayback checks) h⟩
  | captureWriteComplete => exact ⟨_, rfl, whenLive K.completeCapture h⟩
  | foldBurstComplete checks => exact ⟨_, rfl, whenLive (K.completeFoldBurst checks) h⟩
  | windowReadComplete checks => exact ⟨_, rfl, whenLive (K.completeWindowRead checks) h⟩
  | windowCommitComplete => exact ⟨_, rfl, whenLive K.completeCommit h⟩
  | waitingBurstHandover => exact ⟨_, rfl, whenLive K.settle h⟩
  | blockTest n ok => exact ⟨_, rfl, whenLive (K.testBlock n ok) h⟩
  | memoryTestDone => exact ⟨_, rfl, whenLive K.finishTest h⟩
  | enterSelfRefresh => exact ⟨_, rfl, whenLive K.selfRefresh h⟩
  | requestCut p arrived => exact ⟨_, rfl, whenLive (fun _ h => K.setPort _ _ _ (K.setPort _ _ _ h)) h⟩
  | unknownRequest r code =>
    refine ⟨_, rfl, whenLive (fun s h => ?_) h⟩
    dsimp only
    split <;> exact K.setPort _ _ _ (K.setPort _ _ _ h)
  | readReply p fall n rise => exact ⟨_, rfl, K.segment (fun _ h => KeptByBlocks.repeatStep (K.replyByte p) n h) h⟩
  | readEvents p fall n rise => exact ⟨_, rfl, K.segment (fun _ h => KeptByBlocks.repeatStep (K.eventsByte p) n h) h⟩
  | windowRead p fall n rise =>
    exact ⟨_, rfl, K.segment (fun _ h => K.settle _ (KeptByBlocks.repeatStep (K.windowReadByte p) n h)) h⟩
  | windowWrite p fall bytes rise =>
    exact ⟨_, rfl, K.segment (fun s h => K.settle _ (K.windowWriteBytes p bytes s h)) h⟩
  | status r => exact ⟨_, rfl, K.requestAlways (fun s => answered s _ _) h⟩
  | identify r => exact ⟨_, rfl, K.requestAlways (fun s => answered s _ _) h⟩
  | setInterest r kinds => exact ⟨_, rfl, K.request (K.ownSetInterest _ _) h⟩
  | setMaskLevel r level => exact ⟨_, rfl, K.request (K.ownSetMaskLevel _ _) h⟩
  | postNote r note => exact ⟨_, rfl, whenLive (fun _ h => K.screen (K.ownPostNote _ _) (K.setPort _ _ _ h)) h⟩
  | takeNote r => exact ⟨_, rfl, K.request (K.ownTakeNote _) h⟩
  | setTempo r t b => exact ⟨_, rfl, K.request (K.ownSetTempo _ _) h⟩
  | setLength r n => exact ⟨_, rfl, K.request (K.ownSetLength _) h⟩
  | setGrid r b p => exact ⟨_, rfl, K.request (K.ownSetGrid _ _) h⟩
  | setGrace r n => exact ⟨_, rfl, K.request (fun s h => K.grace _ s (Nat.min_le_left _ _) h) h⟩
  | tap r => exact ⟨_, rfl, K.request K.ownTap h⟩
  | playAll r q => exact ⟨_, rfl, K.request (K.ownAll _ _ _) h⟩
  | stopAll r q => exact ⟨_, rfl, K.request (K.ownAll _ _ _) h⟩
  | clearAll r q => exact ⟨_, rfl, K.request (K.ownClearAll _) h⟩
  | record r t q => exact ⟨_, rfl, K.request (K.ownTrack _ _ _ _) h⟩
  | overdub r t q => exact ⟨_, rfl, K.request (K.ownTrack _ _ _ _) h⟩
  | replace r t q => exact ⟨_, rfl, K.request (K.ownTrack _ _ _ _) h⟩
  | close r t q => exact ⟨_, rfl, K.request (K.ownTrack _ _ _ _) h⟩
  | mute r t q => exact ⟨_, rfl, K.request (K.ownTrack _ _ _ _) h⟩
  | unmute r t q => exact ⟨_, rfl, K.request (K.ownTrack _ _ _ _) h⟩
  | undo r t q => exact ⟨_, rfl, K.request (K.ownTrack _ _ _ _) h⟩
  | redo r t q => exact ⟨_, rfl, K.request (K.ownTrack _ _ _ _) h⟩
  | clearTrack r t q => exact ⟨_, rfl, K.request (K.ownClearTrack _ _) h⟩
  | setTrack r t fb fr er src => exact ⟨_, rfl, K.request (K.ownSetTrack _ _ _ _ _) h⟩
  | setLayerGain r id g => exact ⟨_, rfl, K.request (K.ownSetLayerGain _ _) h⟩
  | readTrack r t => exact ⟨_, rfl, K.request (fun s h => by unfold ownReadTrack; split <;> exact h) h⟩
  | readLayer r id => exact ⟨_, rfl, K.request (fun s h => by unfold ownReadLayer; split <;> exact h) h⟩
  | cancelCue r id => exact ⟨_, rfl, K.request (K.ownCancelCue _) h⟩
  | readCues r => exact ⟨_, rfl, K.request (fun s => answered s _ _) h⟩
  | setSwitch r c a b d g q => exact ⟨_, rfl, K.request (K.ownSetSwitch _ _) h⟩
  | setPressTiming r hold double => exact ⟨_, rfl, K.request (fun s h => K.switches _ s h) h⟩
  | switchDown r c => exact ⟨_, rfl, K.request (K.ownSwitch K.switchDown _ _) h⟩
  | switchUp r c => exact ⟨_, rfl, K.request (K.ownSwitch K.switchUp _ _) h⟩
  | selectTrack r t => exact ⟨_, rfl, K.request (K.ownSelectTrack _ _) h⟩
  | setMonitor r i fr er => exact ⟨_, rfl, K.request (K.ownSetMonitor _ _ _) h⟩
  | setBus r fr er => exact ⟨_, rfl, K.request (fun s h => K.mixer _ s h) h⟩
  | setClick r on level => exact ⟨_, rfl, K.request (K.ownSetClick _ _) h⟩
  | setOutput r i k n => exact ⟨_, rfl, K.request (K.ownSetOutput _ _) h⟩
  | setEdge r n => exact ⟨_, rfl, K.request (fun s h => K.mixer _ s h) h⟩
  | readClips r clear => exact ⟨_, rfl, K.request (K.ownReadClips _) h⟩
  | openWindow r id o d m => exact ⟨_, rfl, K.request (K.ownOpenWindow _ _ _ _ _) h⟩
  | closeWindow r => exact ⟨_, rfl, K.request (K.ownCloseWindow _) h⟩
  | importLayer r t sp st n cv g => exact ⟨_, rfl, K.request (K.ownImportLayer _ _) h⟩
  | setWindowTimeout r n => exact ⟨_, rfl, K.request (K.ownSetWindowTimeout _ _) h⟩
  | setLinkThreshold r n => exact ⟨_, rfl, K.request (K.ownSetLinkThreshold _) h⟩
  | clearLinkCount r => exact ⟨_, rfl, K.request (fun s h => K.audio _ s h) h⟩
  | readFaults r => exact ⟨_, rfl, K.request (fun s => answered s _ _) h⟩
  | clearFaults r q => exact ⟨_, rfl, K.request (K.ownClearFaults _) h⟩
  | rest r => exact ⟨_, rfl, K.request K.ownRest h⟩
  | wake r => exact ⟨_, rfl, K.request K.ownWake h⟩

end Sys2Proof.Machine


/-! # The cycle timer's ranges and the frame count (1.1, R3)

The two properties of the cycle timer that every command keeps, and the steps that `exec_keeps` leaves out. -/

namespace Sys2Proof.Machine

open Sys2Proof

/-- The cycle timer of a part in reset stands within its ranges (1.1). -/
theorem cycleInRange_reset : CycleInRange Cycle.reset := by
  constructor <;> decide

theorem cycleInRange_beats {c : Cycle} {b : Nat} (h : CycleInRange c) (h1 : 1 ≤ b) (h2 : b ≤ 64) :
    CycleInRange { c with beats := b } :=
  ⟨⟨h1, h2⟩, h.2, h.3, h.4, h.5, h.6, h.7, h.8, h.9, h.10, h.11, h.12, h.13⟩

theorem cycleInRange_perBar {c : Cycle} {b : Nat} (h : CycleInRange c) (h1 : 1 ≤ b) (h2 : b ≤ 16) :
    CycleInRange { c with perBar := b } :=
  ⟨h.1, ⟨h1, h2⟩, h.3, h.4, h.5, h.6, h.7, h.8, h.9, h.10, h.11, h.12, h.13⟩

theorem cycleInRange_grace {c : Cycle} {g : Nat} (h : CycleInRange c) (hg : g ≤ 4800) :
    CycleInRange { c with grace := g } :=
  ⟨h.1, h.2, hg, h.4, h.5, h.6, h.7, h.8, h.9, h.10, h.11, h.12, h.13⟩

/-- An assertion of PWRLOW keeps what the power-low sequence, an event and the pin keep (R210). -/
theorem pinAsserted_keeps {P : State → Prop} (low : ∀ s, P s → P s.powerLow)
    (event : ∀ k t l d s, P s → P (s.raise k t l d)) (pin : ∀ b s, P s → P (s.setPin b)) (s : State) (h : P s) :
    P s.pinAsserted := by
  have hp := pin true s h
  unfold State.pinAsserted
  dsimp only
  split
  · exact low _ hp
  · exact event _ _ _ _ _ hp
  · exact hp

/-- The blocks keep the cycle timer in its ranges (1.1). -/
theorem cycleInRange_kept : KeptByBlocks fun s => CycleInRange s.cycle where
  setPort := setPort_cycle
  power _ _ h := h
  mixer _ _ h := h
  audio _ _ h := h
  switches _ _ h := h
  faultsCleared _ h := h
  beats _ _ h1 h2 h := cycleInRange_beats h h1 h2
  perBar _ _ h1 h2 h := cycleInRange_perBar h h1 h2
  grace _ _ hg h := cycleInRange_grace h hg
  startCycle len d s h1 h2 h := startCycle_cycle len d s ⟨h1, h2⟩ h
  actTap := actTap_cycle
  actClearAll := actClearAll_cycle
  actClearTrack := actClearTrack_cycle
  quantised := quantised_cycle
  dropCue := dropCue_cycle
  setTrack := setTrack_cycle
  setLayer := setLayer_cycle
  switchDown := switchDown_cycle
  switchUp := switchUp_cycle
  holdDue := holdDue_cycle
  windowDue := windowDue_cycle
  selectTo := selectTo_cycle
  setWindow := setWindow_cycle
  setTimeout := setTimeout_cycle
  shutWindow := shutWindow_cycle
  closeCommit := closeCommit_cycle
  takeRoom t s u id e h := takeRoom_cycle t s u id h e
  placeImport := placeImport_cycle
  enterRest := enterRest_cycle
  wakeUp := wakeUp_cycle
  pinAsserted := pinAsserted_keeps (P := fun s => CycleInRange s.cycle) powerLow_cycle raise_cycle fun _ _ h => h
  watchdog := watchdog_cycle
  lockout := lockout_cycle
  writeDeadline := writeDeadline_cycle
  windowTimedOut := windowTimedOut_cycle
  refreshFallsDue := refreshFallsDue_cycle
  arbitrate := arbitrate_cycle
  completeRefresh := completeRefresh_cycle
  completePlayback := completePlayback_cycle
  completeCapture := completeCapture_cycle
  completeFoldBurst := completeFoldBurst_cycle
  completeWindowRead := completeWindowRead_cycle
  completeCommit := completeCommit_cycle
  testBlock := testBlock_cycle
  finishTest := finishTest_cycle
  selfRefresh := selfRefresh_cycle
  replyByte := replyByte_cycle
  eventsByte := eventsByte_cycle
  windowReadByte := windowReadByte_cycle
  windowWriteBytes := windowWriteBytes_cycle
  settle := settle_cycle

/-- The blocks keep the frame count, which a frame arrival alone moves (R3). -/
theorem frameCount_kept (n : Nat) : KeptByBlocks fun s => s.cycle.frameCount = n where
  setPort := setPort_count
  power _ _ h := h
  mixer _ _ h := h
  audio _ _ h := h
  switches _ _ h := h
  faultsCleared _ h := h
  beats _ _ _ _ h := h
  perBar _ _ _ _ h := h
  grace _ _ _ h := h
  startCycle len d s _ _ h := startCycle_count len d s h
  actTap := actTap_count
  actClearAll := actClearAll_count
  actClearTrack := actClearTrack_count
  quantised := quantised_count
  dropCue := dropCue_count
  setTrack := setTrack_count
  setLayer := setLayer_count
  switchDown := switchDown_count
  switchUp := switchUp_count
  holdDue := holdDue_count
  windowDue := windowDue_count
  selectTo := selectTo_count
  setWindow := setWindow_count
  setTimeout := setTimeout_count
  shutWindow := shutWindow_count
  closeCommit := closeCommit_count
  takeRoom t s u id e h := takeRoom_count t s u id h e
  placeImport := placeImport_count
  enterRest := enterRest_count
  wakeUp := wakeUp_count
  pinAsserted := pinAsserted_keeps (P := fun s => s.cycle.frameCount = n) powerLow_count raise_count fun _ _ h => h
  watchdog := watchdog_count
  lockout := lockout_count
  writeDeadline := writeDeadline_count
  windowTimedOut := windowTimedOut_count
  refreshFallsDue := refreshFallsDue_count
  arbitrate := arbitrate_count
  completeRefresh := completeRefresh_count
  completePlayback := completePlayback_count
  completeCapture := completeCapture_count
  completeFoldBurst := completeFoldBurst_count
  completeWindowRead := completeWindowRead_count
  completeCommit := completeCommit_count
  testBlock := testBlock_count
  finishTest := finishTest_count
  selfRefresh := selfRefresh_count
  replyByte := replyByte_count
  eventsByte := eventsByte_count
  windowReadByte := windowReadByte_count
  windowWriteBytes := windowWriteBytes_count
  settle := settle_count

/-- Every command keeps the cycle timer in its ranges: a reset sets it, and an arrival moves it within them (1.1). -/
theorem exec_cycleInRange (c : Instr) (s : State) (h : CycleInRange s.cycle) :
    ∃ t, exec c s = .next t ∧ CycleInRange t.cycle := by
  by_cases hc : isPlain c = true
  · exact exec_keeps cycleInRange_kept hc h
  · cases c with
    | reset => exact ⟨_, rfl, cycleInRange_reset⟩
    | resetnLow => exact ⟨_, rfl, cycleInRange_reset⟩
    | resetPart r => exact ⟨_, rfl, cycleInRange_kept.request (fun _ _ => cycleInRange_reset) h⟩
    | frameSync n bits ord => exact ⟨_, rfl, KeptByBlocks.whenLive (frameSync_cycle n bits ord) h⟩
    | _ => exact absurd rfl hc

/-- Settles O8: the command at the front keeps the cycle timer in its ranges, and idling does not touch it. -/
theorem cycleStaysInRange : Obligations.CycleStaysInRange := by
  unfold Obligations.CycleStaysInRange
  intro s t h e
  unfold step at e
  split at e
  · obtain rfl := Host.Outcome.next.inj e
    exact h
  · next c rest _ =>
    obtain ⟨u, hu, hr⟩ := exec_cycleInRange c { s with pending := rest } h
    obtain rfl := Host.Outcome.next.inj (hu.symm.trans e)
    exact hr

end Sys2Proof.Machine


/-! # The settings of the cycle timer, of tracks and of layers, and what fixes L (R10 to R13, R15, R51, R52) -/

namespace Sys2Proof.Machine

open Sys2Proof

/-! ### Fixing an EMPTY cycle -/

/-- L fixed on a cycle of another state: the cycle RUNNING from its origin, and the flags of the pass clear (R2, R10 to R12). -/
theorem startCycle_eq_fixed {len : Nat} {d : DefinedBy} {s : State} (h : s.cycle.state ≠ .running) :
    s.startCycle len d = s.fixed len d := by
  unfold State.startCycle State.setCycle
  rw [if_neg (Ne.symm h)]
  rfl

/-! ### SET TEMPO and SET LENGTH (R10, R11) -/

theorem ownSetTempo_rest {t b : Nat} {s : State} (h : s.power.part = .rest) :
    ownSetTempo t b s = (s, some (.resting, [])) := by
  simp [ownSetTempo, h, State.answer]

theorem ownSetTempo_standing {t b : Nat} {s : State} (h : s.power.part ≠ .rest) (hc : s.cycle.state ≠ .empty) :
    ownSetTempo t b s = (s, some (.badState, [])) := by
  simp [ownSetTempo, h, hc, State.answer]

theorem ownSetTempo_zero {t : Nat} {s : State} (h : s.power.part ≠ .rest) (hc : s.cycle.state = .empty) :
    ownSetTempo t 0 s = (s, some (.badArg, [])) := by
  simp [ownSetTempo, h, hc, State.answer]

theorem ownSetTempo_empty {t b : Nat} {s : State} (h : s.power.part ≠ .rest) (hc : s.cycle.state = .empty)
    (hb : b ≠ 0) :
    ownSetTempo t b s =
      ({ s with cycle := { s.cycle with beats := min 64 b } }.fixed (tempoLen (clampNat 400 2400 t) (min 64 b)) .tempo,
        some (.ok, bytes 3 (tempoLen (clampNat 400 2400 t) (min 64 b)) ++ bytes 1 (min 64 b))) := by
  simp only [ownSetTempo, h, hc, hb, State.answer, if_false, ne_eq, not_true_eq_false]
  rw [startCycle_eq_fixed (by simp)]

theorem ownSetLength_rest {n : Nat} {s : State} (h : s.power.part = .rest) :
    ownSetLength n s = (s, some (.resting, [])) := by
  simp [ownSetLength, h, State.answer]

theorem ownSetLength_standing {n : Nat} {s : State} (h : s.power.part ≠ .rest) (hc : s.cycle.state ≠ .empty) :
    ownSetLength n s = (s, some (.badState, [])) := by
  simp [ownSetLength, h, hc, State.answer]

theorem ownSetLength_empty {n : Nat} {s : State} (h : s.power.part ≠ .rest) (hc : s.cycle.state = .empty) :
    ownSetLength n s = (s.fixed (clampLen n) .length, some (.ok, bytes 3 (clampLen n))) := by
  simp only [ownSetLength, h, hc, State.answer, if_false, ne_eq, not_true_eq_false]
  rw [startCycle_eq_fixed (by simp [hc])]

/-- Settles O19: each clause is one answer of the owner, handed on by the request. -/
theorem setTempoAndSetLengthFixTheCycle : Obligations.SetTempoAndSetLengthFixTheCycle := by
  unfold Obligations.SetTempoAndSetLengthFixTheCycle
  intro h s
  refine ⟨fun bpm10 beats hs => ⟨fun hp => ?_, fun hp hc => ?_, fun hp hc hb => ?_, ?_⟩,
    fun frames hs => ⟨fun hp => ?_, fun hp hc => ?_, fun hp hc => ?_⟩⟩
  · exact congrArg _ (request_answered hs (by decide) (ownSetTempo_rest (by simpa using hp)))
  · exact congrArg _ (request_answered hs (by decide) (ownSetTempo_standing (by simpa using hp) (by simpa using hc)))
  · exact congrArg _ (request_answered hs (by decide)
      (by rw [hb]; exact ownSetTempo_zero (by simpa using hp) (by simpa using hc)))
  · rintro hp hc hb b t len rfl rfl rfl
    have ho := ownSetTempo_empty (t := bpm10.toNat) (s := s.handedOn h 16) (by simpa using hp) (by simpa using hc) hb
    rw [cycle_handedOn] at ho
    exact congrArg _ (request_answered hs (by decide) ho)
  · exact congrArg _ (request_answered hs (by decide) (ownSetLength_rest (by simpa using hp)))
  · exact congrArg _ (request_answered hs (by decide) (ownSetLength_standing (by simpa using hp) (by simpa using hc)))
  · exact congrArg _ (request_answered hs (by decide) (ownSetLength_empty (by simpa using hp) (by simpa using hc)))

/-! ### TAP (R12) -/

theorem ownTap_rest {s : State} (h : s.power.part = .rest) : ownTap s = (s, some (.resting, [])) := by
  simp [ownTap, State.actTap, h, State.answer]

theorem ownTap_standing {s : State} (h : s.power.part ≠ .rest) (hc : s.cycle.state ≠ .empty) :
    ownTap s = ({ s with cycle := { s.cycle with ignoredTaps := min 255 (s.cycle.ignoredTaps + 1) } },
      some (.ok, bytes 1 0 ++ bytes 1 (min 255 (s.cycle.ignoredTaps + 1)))) := by
  simp [ownTap, State.actTap, h, hc, State.answer, satInc]

/-- A tap that fixes no length leaves its sequence and answers its number in it. -/
theorem ownTap_counted {s : State} {t : TapSeq} {n : Nat} (h : s.power.part ≠ .rest) (hc : s.cycle.state = .empty)
    (ht : s.cycle.tap.tapAt s.cycle.frameCount s.cycle.beats = (t, n, none)) :
    ownTap s = ({ s with cycle := { s.cycle with tap := t } },
      some (.ok, bytes 1 n ++ bytes 1 s.cycle.ignoredTaps)) := by
  simp [ownTap, State.actTap, h, hc, ht, State.answer]

/-- The fourth tap fixes the cycle and answers L. -/
theorem ownTap_fourth {s : State} {t : TapSeq} {n len : Nat} (h : s.power.part ≠ .rest) (hc : s.cycle.state = .empty)
    (ht : s.cycle.tap.tapAt s.cycle.frameCount s.cycle.beats = (t, n, some len)) :
    ownTap s = (s.fixed len .tap, some (.ok, bytes 1 n ++ bytes 1 s.cycle.ignoredTaps ++ bytes 3 len)) := by
  simp only [ownTap, State.actTap, h, hc, ht, State.answer, if_false, if_true]
  rw [startCycle_eq_fixed (by simp [hc])]
  rfl

theorem tapAt_first {stamp beats : Nat} {t : TapSeq}
    (h : t.count = 0 ∨ stampSub stamp t.last < 12000 ∨ 72000 < stampSub stamp t.last) :
    t.tapAt stamp beats = ({ count := 1, last := stamp, sum := 0 }, 1, none) := by
  simp [TapSeq.tapAt, h]

theorem tapAt_next {stamp beats : Nat} {t : TapSeq} (h0 : t.count ≠ 0) (h1 : 12000 ≤ stampSub stamp t.last)
    (h2 : stampSub stamp t.last ≤ 72000) (h3 : t.count < 3) :
    t.tapAt stamp beats =
      ({ count := t.count + 1, last := stamp, sum := t.sum + stampSub stamp t.last }, t.count + 1, none) := by
  unfold TapSeq.tapAt
  rw [if_neg (by omega), if_pos (by omega)]

theorem tapAt_fourth {stamp beats : Nat} {t : TapSeq} (h1 : 12000 ≤ stampSub stamp t.last)
    (h2 : stampSub stamp t.last ≤ 72000) (h3 : 3 ≤ t.count) :
    t.tapAt stamp beats =
      (TapSeq.empty, 4, some (clampLen ((2 * (t.sum + stampSub stamp t.last) + 3) / 6 * beats))) := by
  unfold TapSeq.tapAt
  rw [if_neg (by omega), if_neg (by omega)]

/-- Settles O20: what a tap does by the interval since the last one and its number in the sequence. -/
theorem tapSequence : Obligations.TapSequence := by
  unfold Obligations.TapSequence
  intro h s hs
  have answered : ∀ {u : State} {st : Status} {l : List Byte}, ownTap (s.handedOn h 20) = (u, some (st, l)) →
      exec (.tap h) s = .next (u.replied h 20 st l) := fun ho => congrArg _ (request_answered hs (by decide) ho)
  refine ⟨fun hp => answered (ownTap_rest (by simpa using hp)), fun hp hc => ?_, fun hp hc gap hg => ?_⟩
  · have ho := ownTap_standing (s := s.handedOn h 20) (by simpa using hp) (by simpa using hc)
    rw [cycle_handedOn] at ho
    exact answered ho
  · subst hg
    have hp' : (s.handedOn h 20).power.part ≠ .rest := by simpa using hp
    have hc' : (s.handedOn h 20).cycle.state = .empty := by simpa using hc
    refine ⟨fun hf => ?_, fun h0 h1 h2 h3 => ?_, fun h1 h2 h3 len hl => ?_⟩
    · have ho := ownTap_counted hp' hc' (by rw [cycle_handedOn]; exact tapAt_first hf)
      rw [cycle_handedOn] at ho
      exact answered ho
    · have ho := ownTap_counted hp' hc' (by rw [cycle_handedOn]; exact tapAt_next h0 h1 h2 h3)
      rw [cycle_handedOn] at ho
      exact answered ho
    · subst hl
      have ho := ownTap_fourth hp' hc' (by rw [cycle_handedOn]; exact tapAt_fourth h1 h2 h3)
      rw [cycle_handedOn] at ho
      exact answered ho

/-! ### SET GRID, SET GRACE, SET TRACK and SET LAYER GAIN (R13, R15, R51, R52) -/

/-- Settles O35: each owner's answer, handed on by the request. -/
theorem gridTrackAndLayerSettings : Obligations.GridTrackAndLayerSettings := by
  unfold Obligations.GridTrackAndLayerSettings
  intro h s
  refine ⟨fun b p hs => ?_, fun g hs => ?_, fun tb fb fr er src hs => ⟨fun ht => ?_, fun t ht => ?_⟩,
    fun lb g hs => ⟨fun hl => ?_, fun l hl hf => ?_, fun l hl hf => ?_⟩⟩
  · have served := request_served (code := 18) (owner := ownSetGrid b.toNat p.toNat) hs (by decide)
    refine (congrArg Host.Outcome.next served).trans ?_
    by_cases hz : b.toNat = 0 ∨ p.toNat = 0 <;> simp [ownSetGrid, hz, State.answer]
  · have ho : ownSetGrace g.toNat (s.handedOn h 19) = ({ s.handedOn h 19 with
        cycle := { s.cycle with grace := min 4800 g.toNat } }, some (.ok, bytes 2 (min 4800 g.toNat))) := by
      simp [ownSetGrace, State.answer]
    exact congrArg _ (request_answered hs (by decide) ho)
  · have ho : ownSetTrack tb fb.toNat fr.toNat er.toNat src (s.handedOn h 41) =
        (s.handedOn h 41, some (.badArg, [])) := by simp [ownSetTrack, ht, State.answer]
    exact congrArg _ (request_answered hs (by decide) ho)
  · have ho : ownSetTrack tb fb.toNat fr.toNat er.toNat src (s.handedOn h 41) =
        ((s.handedOn h 41).setTrack t { s.track t with
          feedback := min 32768 fb.toNat, frontSend := fr.toNat, earSend := er.toNat, sources := src },
          some (.ok, bytes 2 (min 32768 fb.toNat) ++ bytes 2 fr.toNat ++ bytes 2 er.toNat ++ [src])) := by
      simp [ownSetTrack, ht, State.answer, State.modTrack, Track.configure]
    exact congrArg _ (request_answered hs (by decide) ho)
  · have ho : ownSetLayerGain lb.toNat g.toNat (s.handedOn h 42) = (s.handedOn h 42, some (.notFound, [])) := by
      simp [ownSetLayerGain, hl, State.answer]
    exact congrArg _ (request_answered hs (by decide) ho)
  · have ho : ownSetLayerGain lb.toNat g.toNat (s.handedOn h 42) = (s.handedOn h 42, some (.busy, [])) := by
      simp [ownSetLayerGain, hl, hf, State.answer]
    exact congrArg _ (request_answered hs (by decide) ho)
  · have ho : ownSetLayerGain lb.toNat g.toNat (s.handedOn h 42) =
        ((s.handedOn h 42).setLayer lb.toNat { l with gain := max 64 g.toNat },
          some (.ok, bytes 2 (max 64 g.toNat))) := by
      simp [ownSetLayerGain, hl, hf, State.answer]
    exact congrArg _ (request_answered hs (by decide) ho)

end Sys2Proof.Machine


/-! # Dues and the quantised path (R14, R17 to R20, R81 to R90) -/

namespace Sys2Proof.Machine

open Sys2Proof

/-! ### Boundaries of a quantum (R14) -/

/-- The greatest of a list's values, from a first value on, is a value that is listed or first and bounds them all. -/
theorem foldl_max_eq {l : List Nat} {m i : Nat} (hm : m ∈ i :: l) (h : ∀ x ∈ i :: l, x ≤ m) : l.foldl max i = m := by
  induction l generalizing i with
  | nil => exact (List.mem_singleton.mp hm).symm
  | cons x l ih =>
    refine ih ?_ fun y hy => ?_
    · have hi := h i (by simp)
      have hx := h x (by simp)
      rcases List.mem_cons.mp hm with rfl | hm
      · exact List.mem_cons.mpr (.inl (by omega))
      · rcases List.mem_cons.mp hm with rfl | hm
        · exact List.mem_cons.mpr (.inl (by omega))
        · exact List.mem_cons_of_mem _ hm
    · rcases List.mem_cons.mp hy with rfl | hy
      · exact max_le (h i (by simp)) (h x (by simp))
      · exact h y (by simp [hy])

/-- The least of a list's values, from a first value on. -/
theorem foldl_min_eq {l : List Nat} {m i : Nat} (hm : m ∈ i :: l) (h : ∀ x ∈ i :: l, m ≤ x) : l.foldl min i = m := by
  induction l generalizing i with
  | nil => exact (List.mem_singleton.mp hm).symm
  | cons x l ih =>
    refine ih ?_ fun y hy => ?_
    · have hi := h i (by simp)
      have hx := h x (by simp)
      rcases List.mem_cons.mp hm with rfl | hm
      · exact List.mem_cons.mpr (.inl (by omega))
      · rcases List.mem_cons.mp hm with rfl | hm
        · exact List.mem_cons.mpr (.inl (by omega))
        · exact List.mem_cons_of_mem _ hm
    · rcases List.mem_cons.mp hy with rfl | hy
      · exact le_min (h i (by simp)) (h x (by simp))
      · exact h y (by simp [hy])

theorem foldl_min_mem (l : List Nat) (i : Nat) : l.foldl min i ∈ i :: l := by
  induction l generalizing i with
  | nil => simp
  | cons x l ih =>
    rcases List.mem_cons.mp (ih (min i x)) with h | h
    · rw [List.foldl_cons, h]
      rcases min_choice i x with h | h <;> simp [h]
    · exact List.mem_cons_of_mem _ (List.mem_cons_of_mem _ h)

theorem foldl_max_mem (l : List Nat) (i : Nat) : l.foldl max i ∈ i :: l := by
  induction l generalizing i with
  | nil => simp
  | cons x l ih =>
    rcases List.mem_cons.mp (ih (max i x)) with h | h
    · rw [List.foldl_cons, h]
      rcases max_choice i x with h | h <;> simp [h]
    · exact List.mem_cons_of_mem _ (List.mem_cons_of_mem _ h)

theorem foldl_min_le (l : List Nat) (i : Nat) : l.foldl min i ≤ i := by
  induction l generalizing i with
  | nil => exact le_refl _
  | cons x l ih => exact (ih _).trans (min_le_left _ _)

theorem lastBoundary_eq {c : Cycle} {len p b : Nat} {q : Quantum} (hb : b ∈ c.boundaries len q) (hp : b ≤ p)
    (h : ∀ x ∈ c.boundaries len q, x ≤ p → x ≤ b) : c.lastBoundary len q p = b := by
  refine foldl_max_eq (by simp [hb, hp]) fun x hx => ?_
  rcases List.mem_cons.mp hx with rfl | hx
  · exact Nat.zero_le _
  · obtain ⟨h1, h2⟩ := List.mem_filter.mp hx
    exact h x h1 (by simpa using h2)

/-- The last boundary at or below a position is at or below it. -/
theorem lastBoundary_le (c : Cycle) (len : Nat) (q : Quantum) (p : Nat) : c.lastBoundary len q p ≤ p := by
  rcases List.mem_cons.mp (foldl_max_mem ((c.boundaries len q).filter fun b => decide (b ≤ p)) 0) with h | h
  · exact h.trans_le (Nat.zero_le _)
  · exact of_decide_eq_true (List.mem_filter.mp h).2

theorem nextBoundary_eq {c : Cycle} {len b b' : Nat} {q : Quantum} (hm : b' ∈ len :: c.boundaries len q) (hb : b < b')
    (h : ∀ x ∈ len :: c.boundaries len q, b < x → b' ≤ x) (hl : b < len) : c.nextBoundary len q b = b' := by
  refine foldl_min_eq ?_ fun x hx => ?_
  · rcases List.mem_cons.mp hm with rfl | hm
    · simp
    · simp [hm, hb]
  · rcases List.mem_cons.mp hx with rfl | hx
    · exact h _ (by simp) hl
    · obtain ⟨h1, h2⟩ := List.mem_filter.mp hx
      exact h x (by simp [h1]) (by simpa using h2)

theorem nextBoundary_le (c : Cycle) (len : Nat) (q : Quantum) (b : Nat) : c.nextBoundary len q b ≤ len :=
  foldl_min_le _ _

/-- The next boundary is L or a boundary of the quantum. -/
theorem nextBoundary_mem (c : Cycle) (len : Nat) (q : Quantum) (b : Nat) (h : c.nextBoundary len q b ≠ len) :
    c.nextBoundary len q b ∈ c.boundaries len q := by
  rcases List.mem_cons.mp (foldl_min_mem ((c.boundaries len q).filter fun x => decide (b < x)) len) with h' | h'
  · exact absurd h' h
  · exact (List.mem_filter.mp h').1

/-! ### The due computation by part and cycle (R18 to R20) -/

/-- A stamp lies no distance from itself. -/
@[simp] theorem stampSub_self (a : Nat) : stampSub a a = 0 := by
  unfold stampSub stampMod
  omega

theorem isTransport_eq (a : Action) : a.isTransport = decide (a ∈ [Action.record, .overdub, .replace, .close]) := by
  cases a <;> rfl

theorem isAll_eq (a : Action) : a.isAll = decide (a = .stopAll ∨ a = .playAll) := by
  cases a <;> rfl

theorem dueOf_rest {a : Action} {q : Quantum} {press : PressTime} {s : State} (h : s.power.part = .rest) :
    s.dueOf a q press = if a.isTransport || a.isAll then .refused .resting else .atOnce s.cycle.current := by
  simp [State.dueOf, h]

theorem dueOf_paused {a : Action} {q : Quantum} {press : PressTime} {s : State} (h : s.power.part ≠ .rest)
    (hc : s.cycle.state = .paused) :
    s.dueOf a q press = if a.isTransport then .refused .badState else .atOnce s.cycle.current := by
  simp [State.dueOf, h, hc]

theorem dueOf_unfixed {a : Action} {q : Quantum} {press : PressTime} {s : State} (h : s.power.part ≠ .rest)
    (hc : s.cycle.state = .empty ∨ s.cycle.state = .defining) : s.dueOf a q press = .atOnce s.cycle.current := by
  rcases hc with hc | hc <;> simp [State.dueOf, h, hc]

theorem dueOf_none {a : Action} {press : PressTime} {s : State} {len : Nat} (h : s.power.part ≠ .rest)
    (hc : s.cycle.state = .running) (hl : s.cycle.len = some len) :
    s.dueOf a .none press = .atOnce s.cycle.current := by
  simp [State.dueOf, h, hc, hl]

/-- The due computed afresh: from a press taken now, or at the current frame where R19 finds none. -/
theorem dueOf_now {a : Action} {q : Quantum} {s : State} {len : Nat} (h : s.power.part ≠ .rest)
    (hc : s.cycle.state = .running) (hl : s.cycle.len = some len) (hq : q ≠ .none) :
    s.dueOf a q s.pressNow = (s.cycle.dueFrom len a q s.pressNow 0).getD (.atOnce s.cycle.current) := by
  simp only [State.dueOf, h, hc, hl, hq, if_false]
  simp only [State.pressNow, stampSub_self, if_true]
  cases s.cycle.dueFrom len a q _ 0 <;> rfl

/-- A press of this generation has its own due, or is computed afresh where R19 finds none. -/
theorem dueOf_same {a : Action} {q : Quantum} {press : PressTime} {s : State} {len : Nat} (h : s.power.part ≠ .rest)
    (hc : s.cycle.state = .running) (hl : s.cycle.len = some len) (hq : q ≠ .none) (hg : press.gen = s.cycle.gen) :
    s.dueOf a q press = (s.cycle.dueFrom len a q press (stampSub s.cycle.frameCount press.frame)).getD
      (s.dueOf a q s.pressNow) := by
  rw [dueOf_now h hc hl hq]
  simp only [State.dueOf, h, hc, hl, hq, hg, if_false, if_true]

/-- A press of another generation is computed afresh (R19). -/
theorem dueOf_otherGen {a : Action} {q : Quantum} {press : PressTime} {s : State} {len : Nat}
    (h : s.power.part ≠ .rest) (hc : s.cycle.state = .running) (hl : s.cycle.len = some len)
    (hg : press.gen ≠ s.cycle.gen) : s.dueOf a q press = s.dueOf a q s.pressNow := by
  by_cases hq : q = .none
  · subst hq
    rw [dueOf_none h hc hl, dueOf_none h hc hl]
  · rw [dueOf_now h hc hl hq]
    simp only [State.dueOf, h, hc, hl, hq, hg, if_false]

/-- A due given now lies ahead of the position, on the next boundary of the quantum (R85). -/
theorem dueOf_now_due {a : Action} {q : Quantum} {s : State} {len pass pos : Nat} (hr : CycleInRange s.cycle)
    (hl : s.cycle.len = some len) (e : s.dueOf a q s.pressNow = .due pass pos) :
    1 ≤ s.cycle.forwardDistance pass pos ∧ s.cycle.forwardDistance pass pos ≤ len
      ∧ (pos = 0 ∨ pos ∈ s.cycle.boundaries len q) := by
  have hpos := (hr.length len hl).2.2
  have hpass := hr.pass
  have hrest : s.power.part ≠ .rest := by
    intro h
    rw [dueOf_rest h] at e
    split at e <;> cases e
  have hrun : s.cycle.state = .running := by
    rcases hr.present.mp (by simp [hl]) with h | h
    · exact h
    · rw [dueOf_paused hrest h] at e
      split at e <;> cases e
  have hq : q ≠ .none := by
    rintro rfl
    rw [dueOf_none hrest hrun hl] at e
    cases e
  rw [dueOf_now hrest hrun hl hq] at e
  unfold Cycle.dueFrom at e
  dsimp only at e
  split at e
  · -- within the grace the action acts at once or is computed afresh
    (repeat' split at e) <;> cases e
  · next hgrace =>
    have horigin : s.cycle.origin = false := by
      by_contra ho
      have : s.pressNow.pos = 0 := by simp [State.pressNow, Cycle.shownPos, ho]
      omega
    have hp : s.pressNow.pos = s.cycle.pos := by simp [State.pressNow, Cycle.shownPos, horigin]
    have hs : s.pressNow.pass = s.cycle.pass := rfl
    rw [hp, hs] at e
    generalize hb : s.cycle.lastBoundary len q s.cycle.pos = b at e
    have hn := nextBoundary_le s.cycle len q b
    have hm := nextBoundary_mem s.cycle len q b
    generalize s.cycle.nextBoundary len q b = b' at e hn hm
    split at e
    · next hd =>
      simp only [Option.getD_some, Due.due.injEq] at e
      obtain ⟨rfl, rfl⟩ := e
      simp only [Cycle.forwardDistance, Cycle.shownLen, hl, Option.getD_some]
      by_cases hb' : b' = len
      · rw [if_pos hb']
        have : ((s.cycle.pass + 1) % 256 + 256 - s.cycle.pass % 256) % 256 = 1 := by omega
        rw [this]
        dsimp only
        exact ⟨by omega, by omega, .inl rfl⟩
      · rw [if_neg hb']
        have : (s.cycle.pass + 256 - s.cycle.pass % 256) % 256 = 0 := by omega
        rw [this]
        dsimp only
        exact ⟨by omega, by omega, .inr (hm hb')⟩
    · split at e <;> cases e

/-! ### The quantised path (R81 to R90) -/

@[simp] theorem pressNow_handedOn (h : Req) (code : Nat) (s : State) : (s.handedOn h code).pressNow = s.pressNow := by
  simp [State.pressNow]

/-- The due computation reads the part state and the cycle timer alone. -/
theorem dueOf_handedOn (h : Req) (code : Nat) (a : Action) (q : Quantum) (press : PressTime) (s : State) :
    (s.handedOn h code).dueOf a q press = s.dueOf a q press := by
  simp [State.dueOf]

theorem quantised_refused {p : Port} {a : Action} {target : Option TrackId} {q : Quantum} {press : PressTime}
    {s : State} {st : Status} (h : s.dueOf a q press = .refused st) :
    s.quantised p a target q press = (s, Answer.of st) := by
  simp [State.quantised, h]

theorem quantised_due {p : Port} {a : Action} {target : Option TrackId} {q : Quantum} {press : PressTime}
    {s : State} {pass pos : Nat} (h : s.dueOf a q press = .due pass pos) :
    s.quantised p a target q press = s.placeCue p a target q press pass pos := by
  simp [State.quantised, h]

/-- The state on which an action that acts at once acts: for ALL with its slot's entry already dropped (R84). -/
def State.beforeAct (a : Action) (target : Option TrackId) (s : State) : State :=
  if a.isAll then s.supersedeSlot target a.family else s

/-- An owner's refusal of an action at once changes nothing (R83). -/
theorem quantised_refusedAtOnce {p : Port} {a : Action} {target : Option TrackId} {q : Quantum} {press : PressTime}
    {s : State} {e : Eff} {st : Status} (h : s.dueOf a q press = .atOnce e)
    (ha : (s.beforeAct a target).act a target e.cut = .error st) :
    s.quantised p a target q press = (s, Answer.of st) := by
  unfold State.beforeAct at ha
  simp [State.quantised, h, State.actAtOnce, ha]

/-- An action that acts at once: the owner's act, and its slot's entry dropped (R83, R84). -/
theorem quantised_atOnce {p : Port} {a : Action} {target : Option TrackId} {q : Quantum} {press : PressTime}
    {s u : State} {e : Eff} (h : s.dueOf a q press = .atOnce e)
    (ha : (s.beforeAct a target).act a target e.cut = .ok u) :
    s.quantised p a target q press = (if a.isAll then u else u.supersedeSlot target a.family,
      { status := .ok, cue := none, point := some e.point, back := some e.back }) := by
  unfold State.beforeAct at ha
  simp [State.quantised, h, State.actAtOnce, ha]

/-- The request for an action as the command that carries it (R80, R197). -/
theorem exec_request (h : Req) (a : Action) (tb qb : Byte) (s : State) :
    exec (a.request h tb qb) s = .next (s.request h a.code a.argLen
      (if a.isAll then ownAll h.port a qb else ownTrack h.port a tb qb)) := by
  cases a <;> rfl

/-- A quantised request is handed to the cue list at its taking (R82). -/
theorem exec_actionRequest {h : Req} {a : Action} {tb qb : Byte} {target : Option TrackId} {q : Quantum} {s : State}
    (hs : s.serves h a.argLen) (hq : argQuantum qb = some q) (ht : a.targetOf tb = some target) {v : State}
    {ans : Answer} (e : (s.handedOn h a.code).quantised h.port a target q s.pressNow = (v, ans)) :
    exec (a.request h tb qb) s =
      .next ((if ans.status = .ok then v.settle else v).replied h a.code ans.status ans.results) := by
  have hand : (s.handedOn h a.code).handQuantised h.port a target q =
      (if ans.status = .ok then v.settle else v, some (ans.status, ans.results)) := by
    simp only [State.handQuantised, pressNow_handedOn, e, State.answer]
  have len : a.argLen ≤ 60 := by cases a <;> decide
  rw [exec_request]
  refine congrArg _ (request_answered hs len ?_)
  cases hA : a.isAll with
  | true =>
    simp only [Action.targetOf, hA, if_true, Option.some.injEq] at ht
    simp only [if_true, ownAll, hq, ht, hand]
  | false =>
    simp only [Action.targetOf, hA, Bool.false_eq_true, if_false, Option.map_eq_some_iff] at ht
    obtain ⟨t, ht, rfl⟩ := ht
    simp only [Bool.false_eq_true, if_false, ownTrack, hq, ht, hand]

/-- A quantised request refused by the due computation or by its owner answers the status and changes nothing else. -/
theorem exec_actionRequest_refused {h : Req} {a : Action} {tb qb : Byte} {target : Option TrackId} {q : Quantum}
    {s : State} {st : Status} (hs : s.serves h a.argLen) (hq : argQuantum qb = some q)
    (ht : a.targetOf tb = some target) (hst : st ≠ .ok)
    (e : (s.handedOn h a.code).quantised h.port a target q s.pressNow = (s.handedOn h a.code, Answer.of st)) :
    exec (a.request h tb qb) s = .next ((s.handedOn h a.code).replied h a.code st []) := by
  rw [exec_actionRequest hs hq ht e]
  simp [Answer.of, hst, Answer.results]

/-- A quantised request that acts at once: what follows from the act is settled, and the reply carries the effective
point and the flag (R83, R90). -/
theorem exec_actionRequest_atOnce {h : Req} {a : Action} {tb qb : Byte} {target : Option TrackId} {q : Quantum}
    {s u : State} {e : Eff} (hs : s.serves h a.argLen) (hq : argQuantum qb = some q)
    (ht : a.targetOf tb = some target) (hd : s.dueOf a q s.pressNow = .atOnce e)
    (ha : ((s.handedOn h a.code).beforeAct a target).act a target e.cut = .ok u) :
    exec (a.request h tb qb) s =
      .next ((if a.isAll then u else u.supersedeSlot target a.family).settle.replied h a.code .ok
        (bytes 1 e.point.pass ++ bytes 3 e.point.pos ++ flagByte e.back)) := by
  rw [exec_actionRequest hs hq ht
    (quantised_atOnce ((dueOf_handedOn _ _ _ _ _ _).trans hd) ha)]
  simp [Answer.results, pointBytes]

end Sys2Proof.Machine


/-! # O33: dues lie ahead, and the quantised path follows the due computation -/

namespace Sys2Proof.Machine

open Sys2Proof

/-! ### A press within or beyond the grace of its boundary (R18, R19) -/

section
variable {c : Cycle} {len b b' E : Nat} {a : Action} {q : Quantum} {press : PressTime}

/-- Within the grace after b: the current frame while origin is pending, else b while it is at most 8,000 frames old. -/
theorem dueFrom_within (hb : c.lastBoundary len q press.pos = b) (hb' : c.nextBoundary len q b = b')
    (hg : press.pos - b ≤ min c.grace ((b' - b) / 2)) :
    c.dueFrom len a q press E =
      if c.origin then some (.atOnce c.current)
      else if E + (press.pos - b) ≤ 8000 then
        some (.atOnce (c.passed a press.pass b (E + (press.pos - b)))) else none := by
  simp only [Cycle.dueFrom, Cycle.effGrace, hb, hb', hg, if_true]

/-- Beyond the grace: due on b' while that lies ahead, at once while it is at most 8,000 frames past. -/
theorem dueFrom_beyond (hb : c.lastBoundary len q press.pos = b) (hb' : c.nextBoundary len q b = b')
    (hg : min c.grace ((b' - b) / 2) < press.pos - b) {due : Point}
    (hd : due = if b' = len then { pass := (press.pass + 1) % 256, pos := 0 } else { pass := press.pass, pos := b' }) :
    c.dueFrom len a q press E =
      if E < b' - press.pos then some (.due due.pass due.pos)
      else if E - (b' - press.pos) ≤ 8000 then
        some (.atOnce (c.passed a due.pass due.pos (E - (b' - press.pos)))) else none := by
  simp only [Cycle.dueFrom, Cycle.effGrace, hb, hb', if_neg (Nat.not_le.mpr hg), ← hd]

/-- What a passed point does to an action: a transport action is cut back to it, any other acts at the current frame. -/
theorem passed_eq {now : Eff} {transport : Bool} {passed : Point → Nat → Eff}
    (ht : transport = decide (a ∈ [Action.record, .overdub, .replace, .close])) (hn : now = c.current)
    (hp : passed = fun point age => if transport = true then
      { point := point, cut := .back age point, back := true } else now) (point : Point) (age : Nat) :
    c.passed a point.pass point.pos age = passed point age := by
  subst hp hn
  rw [← isTransport_eq] at ht
  subst ht
  rfl

end

/-- The boundaries of a quantum as the statement lists them (R14). -/
theorem boundaries_eq {c : Cycle} {len : Nat} {q : Quantum} : q ≠ .none →
    c.boundaries len q = match q with
      | .beat => (List.range c.beats).map fun j => j * len / c.beats
      | .bar => ((List.range c.beats).filter fun j => j % c.perBar = 0).map fun j => j * len / c.beats
      | _ => [0] := by
  intro hq
  cases q with
  | none => exact absurd rfl hq
  | beat => rfl
  | cycle => rfl
  | bar =>
    simp only [Cycle.boundaries]
    congr 2

/-- R18 and R19 give a due or an action at once, never a refusal. -/
theorem dueFrom_ne_refused {c : Cycle} {len E : Nat} {a : Action} {q : Quantum} {press : PressTime} {st : Status} :
    c.dueFrom len a q press E ≠ some (.refused st) := by
  unfold Cycle.dueFrom
  dsimp only
  (repeat' split) <;> simp

/-- The due computation refuses with RESTING or BAD_STATE (R20). -/
theorem dueOf_ne_refused_ok {s : State} {a : Action} {q : Quantum} {press : PressTime} :
    s.dueOf a q press ≠ .refused .ok := by
  have settled : ∀ (d : Option Due) (e : Due), d ≠ some (.refused .ok) → e ≠ .refused .ok →
      d.getD e ≠ .refused .ok := by
    intro d e hd he
    cases d with
    | none => exact he
    | some d => exact fun h => hd (congrArg some h)
  have afresh := fun len => settled (s.cycle.dueFrom len a q s.pressNow 0) (.atOnce s.cycle.current)
    dueFrom_ne_refused (by simp)
  unfold State.dueOf
  dsimp only
  (repeat' split)
  case h_2.isFalse.isTrue => exact settled _ _ dueFrom_ne_refused (afresh _)
  case h_2.isFalse.isFalse => exact afresh _
  all_goals simp

/-! ### Refusals of actions at once (R31, R22) -/

/-- The cases in which an owner refuses an action at once with BAD_STATE (R22, R31). -/
def State.refusesAtOnce (a : Action) (target : Option TrackId) (s : State) : Prop :=
  (∃ t, target = some t ∧ (a = .record ∧ (s.cycle.state = .defining ∨ (s.track t).state ≠ .empty
        ∨ s.holdsImport t = true)
      ∨ (a = .overdub ∨ a = .replace) ∧ (s.track t).state ≠ .playing
      ∨ a = .close ∧ ((s.track t).state = .empty ∨ (s.track t).state = .playing)))
    ∨ a = .playAll ∧ (s.cycle.state = .empty ∨ s.cycle.state = .defining)

theorem actRecord_badState {t : TrackId} {k : Cut} {s : State}
    (h : s.cycle.state = .defining ∨ (s.track t).state ≠ .empty ∨ s.holdsImport t = true) :
    s.actRecord t k = .error .badState := by
  unfold State.actRecord
  rw [if_pos h]

theorem actLayer_badState {t : TrackId} {cover : Bool} {k : Cut} {s : State} (h : (s.track t).state ≠ .playing) :
    s.actLayer t cover k = .error .badState := by
  unfold State.actLayer
  split
  · next e _ => exact absurd e h
  · rfl

theorem actClose_badState {t : TrackId} {k : Cut} {s : State}
    (h : (s.track t).state = .empty ∨ (s.track t).state = .playing) : s.actClose t k = .error .badState := by
  rcases h with h | h <;> simp [State.actClose, h]

theorem actPlayAll_badState {s : State} (h : s.cycle.state = .empty ∨ s.cycle.state = .defining) :
    s.actPlayAll = .error .badState := by
  rcases h with h | h <;> simp [State.actPlayAll, h]

theorem holdsImport_handedOn (h : Req) (code : Nat) (t : TrackId) (s : State) :
    (s.handedOn h code).holdsImport t = s.holdsImport t := by
  have hi : (s.handedOn h code).isImporting = s.isImporting := by
    funext id
    simp only [State.isImporting, layer?_handedOn]
  simp only [State.holdsImport, track_handedOn, hi]

theorem supersedeSlot_cyc (target : Option TrackId) (f : Family) (s : State) :
    (s.supersedeSlot target f).cycle = s.cycle := by
  unfold State.supersedeSlot
  split <;> rfl

/-- The state before an action acts has the cycle timer as it was. -/
theorem beforeAct_cyc (a : Action) (target : Option TrackId) (s : State) : (s.beforeAct a target).cycle = s.cycle := by
  unfold State.beforeAct
  split
  · exact supersedeSlot_cyc _ _ _
  · rfl

theorem act_refusesAtOnce {h : Req} {code : Nat} {a : Action} {target : Option TrackId} {k : Cut} {s : State}
    (hr : s.refusesAtOnce a target) : ((s.handedOn h code).beforeAct a target).act a target k = .error .badState := by
  rcases hr with ⟨t, rfl, ⟨rfl, hr⟩ | ⟨rfl | rfl, hr⟩ | ⟨rfl, hr⟩⟩ | ⟨rfl, hr⟩
  · exact actRecord_badState (s := s.handedOn h code) (by simpa [holdsImport_handedOn] using hr)
  · exact actLayer_badState (s := s.handedOn h code) (by simpa using hr)
  · exact actLayer_badState (s := s.handedOn h code) (by simpa using hr)
  · exact actClose_badState (s := s.handedOn h code) (by simpa using hr)
  · have ha : ∀ u : State, u.act .playAll target k = u.actPlayAll := fun u => by cases target <;> rfl
    rw [ha, actPlayAll_badState]
    rwa [beforeAct_cyc, cycle_handedOn]

/-- Settles O33: dues lie ahead on their boundaries, the due computation clause by clause, the quantised path, and the
requests that refuse or act at once. -/
theorem duesLieAhead : Obligations.DuesLieAhead := by
  unfold Obligations.DuesLieAhead
  refine ⟨fun s a q len pass pos hr hl e => dueOf_now_due hr hl e, ?_, ?_, ?_⟩
  · rintro s a q press transport now ht rfl
    have hT : transport = a.isTransport := by rw [ht, isTransport_eq]
    refine ⟨fun hp => ?_, fun hp => ⟨fun hc => ?_, fun hc => dueOf_unfixed hp hc, fun len hc hl =>
      ⟨?_, fun hg => dueOf_otherGen hp hc hl hg, ?_⟩⟩⟩
    · rw [dueOf_rest hp, hT]
      cases a <;> rfl
    · rw [dueOf_paused hp hc, hT]
      rfl
    · rintro rfl
      exact dueOf_none hp hc hl
    · intro hq hr hg hpos bs b b' g E due passed hbs hb hbp hbm hb' hlt hbm' hgr hE hdue hpassed
      obtain rfl : bs = s.cycle.boundaries len q := hbs.trans (boundaries_eq hq).symm
      have hlast := lastBoundary_eq hb hbp hbm
      have hnext := nextBoundary_eq hb' hlt hbm' (hbp.trans_lt hpos)
      have hsame := dueOf_same (a := a) hp hc hl hq hg
      rw [← hE] at hsame
      have hpt := passed_eq (c := s.cycle) ht rfl hpassed
      subst hgr
      refine ⟨fun hw => ?_, fun hw => ?_⟩
      · rw [dueFrom_within hlast hnext hw] at hsame
        refine ⟨fun ho => ?_, fun ho h8 => ?_, fun ho h8 => ?_⟩
        · rw [hsame, if_pos ho]
          rfl
        · rw [hsame, if_neg (by simp [ho]), if_pos h8, ← hpt]
          rfl
        · rw [hsame, if_neg (by simp [ho]), if_neg (by omega)]
          rfl
      · rw [dueFrom_beyond hlast hnext hw hdue] at hsame
        refine ⟨fun h1 => ?_, fun h1 h8 => ?_, fun h1 h8 => ?_⟩
        · rw [hsame, if_pos h1]
          rfl
        · rw [hsame, if_neg (by omega), if_pos h8, hpt]
          rfl
        · rw [hsame, if_neg (by omega), if_neg (by omega)]
          rfl
  · rintro p a target q press s drop rfl
    refine ⟨fun st h => quantised_refused h, fun pass pos h => quantised_due h, fun e all h hall out hout => ?_⟩
    rw [← isAll_eq] at hall
    subst hall hout
    exact ⟨fun st hst => quantised_refusedAtOnce h hst, fun u hu => quantised_atOnce h hu⟩
  · intro h a tb qb target q s hs hq ht
    refine ⟨fun v ans e => exec_actionRequest hs hq ht e, fun st hd => ?_, fun e hd hr => ?_⟩
    · have hd' := (dueOf_handedOn h a.code a q s.pressNow s).trans hd
      refine exec_actionRequest_refused hs hq ht ?_ (quantised_refused hd')
      rintro rfl
      exact dueOf_ne_refused_ok hd
    · exact exec_actionRequest_refused hs hq ht (by decide)
        (quantised_refusedAtOnce ((dueOf_handedOn _ _ _ _ _ _).trans hd) (act_refusesAtOnce hr))

end Sys2Proof.Machine


/-! # What the work on tracks, layers, captures and the memory leaves of the rest

The operations of the track controller, the capture unit and the memory controller leave the cue list, the switch
interpreter, the output frame, the window timeouts and the ports' settings as they are; and, unless they close a
defining recording, the cycle timer, the mixer and the audio port. -/

namespace Sys2Proof.Machine

open Sys2Proof

/-- What a port controller holds that no event, transfer or reply changes (R198). -/
def PortCtl.settings (c : PortCtl) : BitVec 32 × MaskLevel × Option (List Byte) := (c.interest, c.mask, c.mailbox)

/-- The rest of the state stands as it was in an earlier state. -/
structure RestKept (s₀ s : State) : Prop where
  cues : s.cues = s₀.cues
  switches : s.switches = s₀.switches
  output : s.audio.pendingOut = s₀.audio.pendingOut ∧ s.audio.present = s₀.audio.present
  timeouts : s.mem.timeoutA = s₀.mem.timeoutA ∧ s.mem.timeoutB = s₀.mem.timeoutB
  portA : s.portA.settings = s₀.portA.settings
  portB : s.portB.settings = s₀.portB.settings
  quiet : s₀.cycle.state ≠ .defining → s.cycle = s₀.cycle ∧ s.mixer = s₀.mixer ∧ s.audio = s₀.audio

/-- The parts of the state that the operations on tracks, layers, captures and the memory have no business with. -/
def State.rest (s : State) : CueList × Switches × Audio × Nat × Nat × PortCtl × PortCtl × Cycle × Mixer :=
  (s.cues, s.switches, s.audio, s.mem.timeoutA, s.mem.timeoutB, s.portA, s.portB, s.cycle, s.mixer)

theorem offer_settings (e : Event) (c : PortCtl) : (c.offer e).settings = c.settings := by
  unfold PortCtl.offer PortCtl.enqueue
  (repeat' split) <;> rfl

namespace RestKept

variable {s₀ s : State}

theorem refl (s : State) : RestKept s s := ⟨rfl, rfl, ⟨rfl, rfl⟩, ⟨rfl, rfl⟩, rfl, rfl, fun _ => ⟨rfl, rfl, rfl⟩⟩

/-! ### Updates of the state -/

/-- An update that leaves every part of the rest, and the parts that move with a defining recording's close. -/
theorem same (h : RestKept s₀ s) {u : State} (hu : u.rest = s.rest) : RestKept s₀ u := by
  simp only [State.rest, Prod.mk.injEq] at hu
  obtain ⟨hcues, hswitches, haudio, hta, htb, hpa, hpb, hcycle, hmixer⟩ := hu
  constructor <;>
    simp only [hcues, hswitches, haudio, hta, htb, hpa, hpb, hcycle, hmixer, h.cues, h.switches, h.output, h.timeouts,
      h.portA, h.portB, and_self]
  exact h.quiet

theorem ite {c : Prop} [Decidable c] {u v : State} (hu : RestKept s₀ u) (hv : RestKept s₀ v) :
    RestKept s₀ (if c then u else v) := by
  split
  · exact hu
  · exact hv

theorem withFold (h : RestKept s₀ s) (f : Option Fold) : RestKept s₀ { s with fold := f } := h.same rfl

theorem withQueue (h : RestKept s₀ s) (q : List Burst) : RestKept s₀ { s with mem := { s.mem with queue := q } } :=
  h.same rfl

theorem writeRing (h : RestKept s₀ s) (f : Frame) : RestKept s₀ (s.writeRing f) := by
  unfold State.writeRing
  exact h.same rfl

theorem raiseEvent (h : RestKept s₀ s) (e : Event) : RestKept s₀ (s.raiseEvent e) :=
  ⟨h.cues, h.switches, h.output, h.timeouts, (offer_settings _ _).trans h.portA, (offer_settings _ _).trans h.portB,
    h.quiet⟩

theorem raise (h : RestKept s₀ s) (k : EventKind) (t : Option TrackId) (l : Option Nat) (d : Nat) :
    RestKept s₀ (s.raise k t l d) := h.raiseEvent _

theorem takeFault (h : RestKept s₀ s) (o : Occurrence) : RestKept s₀ (s.takeFault o) := by
  have hf := h.same (u := { s with faults := (s.faults.note o.kind).capture o }) rfl
  unfold State.takeFault
  dsimp only
  split
  · exact hf.raiseEvent _
  · exact hf

theorem fillReply (h : RestKept s₀ s) (p : Port) (st : Status) (tag code : Byte) (l : List Byte) :
    RestKept s₀ (s.fillReply p st tag code l) := by
  cases p <;> exact ⟨h.cues, h.switches, h.output, h.timeouts, h.portA, h.portB, h.quiet⟩

theorem completeReply (h : RestKept s₀ s) (p : Port) (st : Status) (l : List Byte) :
    RestKept s₀ (s.completeReply p st l) := by
  unfold State.completeReply
  split
  · exact h.fillReply _ _ _ _ _
  · exact h

theorem setTrack (h : RestKept s₀ s) (t : TrackId) (tr : Track) : RestKept s₀ (s.setTrack t tr) :=
  h.same (by rfl)

theorem modTrack (h : RestKept s₀ s) (t : TrackId) (f : Track → Track) : RestKept s₀ (s.modTrack t f) :=
  h.setTrack _ _

theorem setLayer (h : RestKept s₀ s) (id : Nat) (l : Layer) : RestKept s₀ (s.setLayer id l) := h.same (by rfl)

theorem modLayer (h : RestKept s₀ s) (id : Nat) (f : Layer → Layer) : RestKept s₀ (s.modLayer id f) := by
  unfold State.modLayer
  split
  · exact h.setLayer _ _
  · exact h

theorem setRecord (h : RestKept s₀ s) (i : Fin 12) (r : Option CapRec) : RestKept s₀ (s.setRecord i r) :=
  h.same (by rfl)

theorem setWindow (h : RestKept s₀ s) (p : Port) (w : Option Window) : RestKept s₀ (s.setWindow p w) := by
  cases p <;> exact h.same (by rfl)

theorem setWait (h : RestKept s₀ s) (who : Background) (w : Wait) : RestKept s₀ (s.setWait who w) := by
  cases who <;> exact h.same (by rfl)

theorem allocate (h : RestKept s₀ s) {id : Nat} {u : State} (e : s.allocate id = some u) : RestKept s₀ u := by
  unfold State.allocate at e
  split at e
  · obtain rfl := Option.some.inj e
    exact (h.same (by rfl)).setLayer _ _
  · cases e

/-! ### Freeing and ending layers (R28, R69) -/

theorem reaim (h : RestKept s₀ s) (id : Nat) : RestKept s₀ (s.reaim id) := h.modLayer _ _

theorem loseWindow (h : RestKept s₀ s) (p : Port) (c : LostCause) : RestKept s₀ (s.loseWindow p c) := by
  unfold State.loseWindow
  split
  · exact h
  · have hw := ((h.setWindow p none).setWait (portBackground p) Wait.idle)
    dsimp only
    split
    · exact (hw.raise _ _ _ _).completeReply _ _ _
    · exact hw.raise _ _ _ _

theorem loseWindowOn (h : RestKept s₀ s) (id : Nat) (c : LostCause) (p : Port) :
    RestKept s₀ (s.loseWindowOn id c p) := by
  unfold State.loseWindowOn
  split
  · split
    · exact h.loseWindow _ _
    · exact h
  · exact h

theorem loseWindowsOn (h : RestKept s₀ s) (id : Nat) (c : LostCause) : RestKept s₀ (s.loseWindowsOn id c) :=
  (h.loseWindowOn id c .a).loseWindowOn id c .b

theorem dropRecord (h : RestKept s₀ s) (id : Nat) : RestKept s₀ (s.dropRecord id) := h.same (by rfl)

theorem freeLayer (h : RestKept s₀ s) (c : LostCause) (id : Nat) : RestKept s₀ (s.freeLayer c id) := by
  unfold State.freeLayer
  split
  · exact h
  · exact ((h.loseWindowsOn id c).dropRecord id).same (by rfl)

theorem freeAll (c : LostCause) (ids : List Nat) : ∀ {s : State}, RestKept s₀ s → RestKept s₀ (s.freeAll c ids) := by
  induction ids with
  | nil => exact fun h => h
  | cons id ids ih => exact fun h => ih (h.freeLayer c id)

theorem cutWindow (h : RestKept s₀ s) (id n : Nat) (p : Port) : RestKept s₀ (s.cutWindow id n p) := by
  unfold State.cutWindow
  split
  · split
    · exact h.setWindow _ _
    · exact h
  · exact h

theorem truncate (h : RestKept s₀ s) (id n : Nat) : RestKept s₀ (s.truncate id n) := by
  unfold State.truncate
  split
  · exact h
  · exact (((h.same (by rfl)).setLayer _ _).cutWindow _ _ _).cutWindow _ _ _

theorem cutReads (h : RestKept s₀ s) (id n : Nat) : RestKept s₀ (s.cutReads id n) := by
  unfold State.cutReads
  split
  · exact h.same (by rfl)
  · exact h

theorem endCapture (h : RestKept s₀ s) (id n : Nat) : RestKept s₀ (s.endCapture id n) := by
  unfold State.endCapture
  split
  · exact h
  · exact h.same (by rfl)

theorem endAt (h : RestKept s₀ s) (id n : Nat) : RestKept s₀ (s.endAt id n) :=
  ((h.cutReads id n).endCapture id n).truncate id n

/-! ### Tracks and the fold -/

theorem noteTrack (h : RestKept s₀ s) (t : TrackId) (old : Track) : RestKept s₀ (s.noteTrack t old) := by
  unfold State.noteTrack
  split
  · exact h
  · exact h.raise _ _ _ _

theorem settleTrack (h : RestKept s₀ s) (t : TrackId) : RestKept s₀ (s.settleTrack t) := by
  unfold State.settleTrack
  dsimp only
  split
  · exact h
  · exact h.setTrack _ _

theorem markFresh (h : RestKept s₀ s) (b : Bool) (id : Nat) : RestKept s₀ (s.markFresh b id) := by
  unfold State.markFresh
  split
  · exact h.same (by rfl)
  · exact h

theorem unfoldMembers (keep : List Nat) :
    ∀ {s : State}, RestKept s₀ s → RestKept s₀ (keep.foldl (fun s id => State.unfoldMember id s) s) := by
  induction keep with
  | nil => exact fun h => h
  | cons id keep ih => exact fun h => ih (h.modLayer _ _)

theorem abandonFold (h : RestKept s₀ s) (c : FoldCause) (keep : List Nat) : RestKept s₀ (s.abandonFold c keep) := by
  unfold State.abandonFold
  split
  · exact h
  · next f _ =>
    have hf := ((h.same (u := { s with fold := none }) rfl).setWait .fold Wait.idle).freeLayer
      .cleared f.result
    dsimp only
    split
    · split
      · exact hf.raise _ _ _ _
      · exact (((hf.raise _ _ _ _).freeLayer _ _).modTrack _ _).raise _ _ _ _
    · have hk := unfoldMembers keep (hf.modTrack f.track fun tr => { tr with stack := splitPair keep tr.stack })
      split
      · exact hk.raise _ _ _ _
      · exact (((hk.raise _ _ _ _).freeLayer _ _).modTrack _ _).raise _ _ _ _

theorem beginFoldBurst (h : RestKept s₀ s) : RestKept s₀ s.beginFoldBurst := by
  unfold State.beginFoldBurst
  split
  · exact h
  · next f _ =>
    have taken : ∀ u, (if f.nextOff % 4096 = 0 then s.allocate f.result else some s) = some u → RestKept s₀ u := by
      intro u e
      split at e
      · exact h.allocate e
      · obtain rfl := Option.some.inj e
        exact h
    dsimp only
    split
    · exact h.abandonFold _ _
    · next u e =>
      split
      · exact (taken u e).same (by rfl)
      · exact taken u e

theorem startFold (h : RestKept s₀ s) (t : TrackId) (a b rid : Nat) (rest : List Entry) :
    RestKept s₀ (s.startFold t a b rid rest) := by
  unfold State.startFold
  split
  · exact (((((h.setLayer _ _).setLayer _ _).setLayer _ _).modTrack _ _).withFold _).beginFoldBurst
  · exact h

/-- Where room is taken, it is the state as it was or with a fold started. -/
theorem takeRoom (h : RestKept s₀ s) {t : TrackId} {u : State} {id : Nat} (e : s.takeRoom t = .ok (u, id)) :
    RestKept s₀ u := by
  unfold State.takeRoom at e
  dsimp only at e
  split at e
  · cases e
  · split at e
    · obtain ⟨rfl, -⟩ := Prod.mk.inj (Except.ok.inj e)
      exact h
    · split at e
      · split at e
        · split at e
          · obtain ⟨rfl, -⟩ := Prod.mk.inj (Except.ok.inj e)
            exact h.startFold _ _ _ _ _
          · cases e
        · cases e
      · cases e

theorem settleFold (h : RestKept s₀ s) : RestKept s₀ s.settleFold := by
  unfold State.settleFold
  dsimp only
  (repeat' split)
  · exact h
  · exact h
  · exact h.same (by rfl)
  · exact (h.modTrack _ _).withFold _
  · exact h

/-! ### Closing layers (R33, R34, R42) -/

/-- The close of the defining recording moves the cycle timer, and the flags of the pass with it (R8). -/
theorem closeDefining (h : RestKept s₀ s) (hd : s.cycle.state = .defining) (n : Nat) (stop : Bool) :
    RestKept s₀ (s.closeDefining n stop) := by
  have hq : ¬ s₀.cycle.state ≠ .defining := by
    intro hne
    rw [(h.quiet hne).1] at hd
    exact hne hd
  have moved : ∀ c : Cycle, RestKept s₀ (s.setCycle c) := by
    intro c
    unfold State.setCycle
    split <;> exact ⟨h.cues, h.switches, h.output, h.timeouts, h.portA, h.portB, fun hne => absurd hne hq⟩
  unfold State.closeDefining
  split
  · exact (moved _).raise _ _ _ _
  · exact ((moved _).raise _ _ _ _).raise _ _ _ _

theorem discardOpen (h : RestKept s₀ s) (t : TrackId) (id : Nat) : RestKept s₀ (s.discardOpen t id) :=
  (((h.freeLayer _ _).modTrack _ _).settleTrack _).raise _ _ _ _

theorem closeFirst (h : RestKept s₀ s) (t : TrackId) (id n : Nat) (fresh stop : Bool) :
    RestKept s₀ (s.closeFirst t id n fresh stop) := by
  unfold State.closeFirst
  dsimp only
  generalize (if decide (s.cycle.state = .defining) = true then min n s.cycle.pos else n) = n'
  have hc : RestKept s₀ (if decide (s.cycle.state = .defining) = true then s.closeDefining n' stop else s) := by
    split
    · next hd => exact h.closeDefining (of_decide_eq_true hd) _ _
    · exact h
  generalize (if decide (s.cycle.state = .defining) = true then s.closeDefining n' stop else s) = u at hc ⊢
  split
  · exact hc
  · split
    · exact hc.discardOpen _ _
    · exact (((((((hc.endAt _ _).modLayer _ _).modTrack _ _).markFresh _ _).reaim _).raise _ _ _ _).raise _ _ _ _)

theorem closeLayered (h : RestKept s₀ s) (t : TrackId) (id n : Nat) (fresh : Bool) :
    RestKept s₀ (s.closeLayered t id n fresh) :=
  ((((((h.endAt _ _).modLayer _ _).modTrack _ _).markFresh _ _).reaim _).raise _ _ _ _).raise _ _ _ _

theorem closeRolled (h : RestKept s₀ s) (t : TrackId) (id n : Nat) (l : Layer) :
    RestKept s₀ (s.closeRolled t id n l) := by
  unfold State.closeRolled
  split
  · exact (h.freeLayer _ _).modTrack _ _
  · dsimp only
    split
    · exact (h.modLayer _ _).raise _ _ _ _
    · exact (((h.endAt _ _).reaim _).modLayer _ _).raise _ _ _ _

theorem closeAtRoll (h : RestKept s₀ s) (t : TrackId) (rolled successor before : Nat) :
    RestKept s₀ (s.closeAtRoll t rolled successor before) := by
  unfold State.closeAtRoll
  dsimp only
  have hf := (h.freeLayer .discarded successor).modTrack t fun tr =>
    { tr.dropLayer successor with state := .playing, openLayer := none, marker := none }
  split
  · exact ((hf.closeRolled _ _ _ _).settleTrack _).raise _ _ _ _
  · exact (hf.settleTrack _).raise _ _ _ _

theorem closeOpen (h : RestKept s₀ s) (t : TrackId) (n before : Nat) (fresh stop : Bool) :
    RestKept s₀ (s.closeOpen t n before fresh stop) := by
  unfold State.closeOpen
  (repeat' split)
  · exact h
  · exact h.closeFirst _ _ _ _ _
  · exact h.closeAtRoll _ _ _ _
  · exact h.discardOpen _ _
  · exact h.discardOpen _ _
  · exact h.closeLayered _ _ _ _

theorem closeAtCut (h : RestKept s₀ s) (t : TrackId) (k : Cut) (stop : Bool) : RestKept s₀ (s.closeAtCut t k stop) := by
  unfold State.closeAtCut
  split
  · exact h
  · exact h.closeOpen _ _ _ _ _

theorem closeTracks (k : Cut) (stop : Bool) (l : List TrackId) :
    ∀ {s : State}, RestKept s₀ s → RestKept s₀ (s.closeTracks k stop l) := by
  induction l with
  | nil => exact fun h => h
  | cons t l ih => exact fun h => ih (h.closeAtCut t k stop)

theorem closeLimits (l : List TrackId) : ∀ {s : State}, RestKept s₀ s → RestKept s₀ (s.closeLimits l) := by
  induction l with
  | nil => exact fun h => h
  | cons t l ih =>
    intro s h
    unfold State.closeLimits
    split
    · exact ih (h.closeAtCut _ _ _)
    · exact ih h

/-! ### The capture unit (R62 to R67, R76) -/

theorem overrun (h : RestKept s₀ s) (place : Point) (id : Nat) (r : Range) : RestKept s₀ (s.overrun place id r) := by
  unfold State.overrun
  (repeat' split)
  · exact h
  · exact h
  · exact (h.setLayer _ _).takeFault _

theorem cutClosed (h : RestKept s₀ s) (id n : Nat) : RestKept s₀ (s.cutClosed id n) := by
  unfold State.cutClosed
  split
  · exact h
  · split
    · have hf : RestKept s₀ (match s.fold with
          | some f => if f.older = id ∨ f.newer = id then s.abandonFold .noMemory [f.older, f.newer] else s
          | none => s) := by
        (repeat' split)
        · exact h.abandonFold _ _
        · exact h
        · exact h
      exact (((hf.freeLayer _ _).modTrack _ _).settleTrack _).noteTrack _ _
    · dsimp only
      split
      · exact (h.endAt _ _).modLayer _ _
      · exact ((h.endAt _ _).modLayer _ _).reaim _

theorem exhaust (h : RestKept s₀ s) (id n : Nat) : RestKept s₀ (s.exhaust id n) := by
  unfold State.exhaust
  split
  · exact h
  · dsimp only
    split
    · exact (h.raise _ _ _ _).closeOpen _ _ _ _ _
    · exact (h.raise _ _ _ _).cutClosed _ _

theorem allocateEach (id : Nat) (l : List Nat) : ∀ {s : State}, RestKept s₀ s → RestKept s₀ (s.allocateEach id l).1 := by
  induction l with
  | nil => exact fun h => h
  | cons o l ih =>
    intro s h
    unfold State.allocateEach
    split
    · next e => exact ih (h.allocate e)
    · exact h

theorem giveUp (h : RestKept s₀ s) (place : Point) (id : Nat) (r : Range) : RestKept s₀ (s.giveUp place id r) := by
  have ha := h.allocateEach id (s.blocksNeeded id r)
  unfold State.giveUp
  split
  · next e =>
    rw [e] at ha
    exact ha.overrun _ _ _
  · next e =>
    rw [e] at ha
    exact (ha.overrun _ _ _).exhaust _ _

theorem handOver (h : RestKept s₀ s) (i : Fin 12) : RestKept s₀ (s.handOver i) := by
  unfold State.handOver
  split
  · exact h
  · next r _ =>
    have taken : ∀ u, (if r.nextOff % 4096 = 0 then s.allocate r.layer else some s) = some u → RestKept s₀ u := by
      intro u e
      split at e
      · exact h.allocate e
      · obtain rfl := Option.some.inj e
        exact h
    split
    · exact h.exhaust _ _
    · next u e =>
      exact (((taken u e).setRecord _ _).withQueue _).ite (((taken u e).setRecord _ _).overrun _ _ _)

theorem refillAll (h : RestKept s₀ s) : RestKept s₀ s.refillAll := h.same (by rfl)

theorem settleCapture (n : Nat) : ∀ {s : State}, RestKept s₀ s → RestKept s₀ (s.settleCapture n) := by
  induction n with
  | zero => exact fun h => h.refillAll
  | succ n ih =>
    intro s h
    unfold State.settleCapture
    dsimp only
    (repeat' split)
    · exact ih (h.refillAll.handOver _)
    · exact h.refillAll
    · exact h.refillAll

theorem overtake (h : RestKept s₀ s) (place : Point) (i : Fin 12) : RestKept s₀ (s.overtake place i) := by
  unfold State.overtake
  split
  · exact h
  · split
    · exact (h.setRecord _ _).giveUp _ _ _
    · exact h

theorem overtakeAll (place : Point) (l : List (Fin 12)) :
    ∀ {s : State}, RestKept s₀ s → RestKept s₀ (s.overtakeAll place l) := by
  induction l with
  | nil => exact fun h => h
  | cons i l ih => exact fun h => ih (h.overtake place i)

theorem liveOne (h : RestKept s₀ s) (f : Frame) (i : Fin 12) : RestKept s₀ (s.liveOne f i) := by
  unfold State.liveOne
  split
  · split
    · dsimp only
      split
      · exact (h.setRecord _ _).handOver _
      · exact h.setRecord _ _
    · exact h
  · exact h

theorem liveAll (f : Frame) (l : List (Fin 12)) : ∀ {s : State}, RestKept s₀ s → RestKept s₀ (s.liveAll f l) := by
  induction l with
  | nil => exact fun h => h
  | cons i l ih => exact fun h => ih (h.liveOne f i)

theorem captureArrival (h : RestKept s₀ s) (place : Point) (f : Frame) (ord : Order) :
    RestKept s₀ (s.captureArrival place f ord) := by
  have hw : RestKept s₀ ((s.overtakeAll place (List.finRange 12)).writeRing f) :=
    (h.overtakeAll place (List.finRange 12)).writeRing f
  unfold State.captureArrival
  dsimp only
  split
  · exact ((hw.settleCapture _).liveAll _ _).settleCapture _
  · exact (hw.liveAll _ _).settleCapture _

theorem stealRecord (h : RestKept s₀ s) (i : Fin 12) : RestKept s₀ (s.stealRecord i) := by
  unfold State.stealRecord
  split
  · exact h
  · exact (h.setRecord _ _).giveUp _ _ _

theorem placeRecord (h : RestKept s₀ s) (r : CapRec) : RestKept s₀ (s.placeRecord r) := by
  unfold State.placeRecord
  dsimp only
  (repeat' split)
  · exact h.setRecord _ _
  · exact (h.stealRecord _).setRecord _ _
  · exact h.stealRecord _
  · exact h

theorem openLayer (h : RestKept s₀ s) (t : TrackId) (id : Nat) (l : Layer) (stamp : Nat) (ph : Phase)
    (dest : TrackState) : RestKept s₀ (s.openLayer t id l stamp ph dest) :=
  ((h.setLayer _ _).modTrack _ _).placeRecord _

theorem freeRedo (h : RestKept s₀ s) (t : TrackId) : RestKept s₀ (s.freeRedo t) := by
  unfold State.freeRedo
  exact (h.freeAll _ _).modTrack _ _

/-! ### Track wraps (R39 to R41) -/

theorem decayAll (f : Nat) (l : List Nat) : ∀ {s : State}, RestKept s₀ s → RestKept s₀ (s.decayAll f l) := by
  induction l with
  | nil => exact fun h => h
  | cons id l ih => exact fun h => ih (h.modLayer _ _)

theorem decayFold (h : RestKept s₀ s) (t : TrackId) (f : Nat) : RestKept s₀ (s.decayFold t f) := by
  unfold State.decayFold
  (repeat' split)
  · exact h.same (by rfl)
  · exact h
  · exact h

theorem retireAll (t : TrackId) (l : List Nat) : ∀ {s : State}, RestKept s₀ s → RestKept s₀ (s.retireAll t l) := by
  induction l with
  | nil => exact fun h => h
  | cons id l ih => exact fun h => ih (((h.freeLayer _ _).modTrack _ _).raise _ _ _ _)

theorem decayTrack (h : RestKept s₀ s) (t : TrackId) : RestKept s₀ (s.decayTrack t) := by
  unfold State.decayTrack
  dsimp only
  have hd := (h.decayAll (s.track t).feedback (s.decaying t)).decayFold t (s.track t).feedback
  refine ite (retireAll t _ (ite ?_ ?_)) (((retireAll t _ (ite ?_ ?_)).settleTrack t).noteTrack t _)
  · exact (hd.retireAll _ _).abandonFold _ _
  · exact hd.retireAll _ _
  · exact (hd.retireAll _ _).abandonFold _ _
  · exact hd.retireAll _ _

theorem roll (h : RestKept s₀ s) (t : TrackId) : RestKept s₀ (s.roll t) := by
  unfold State.roll
  dsimp only
  split
  · split
    · split
      · exact h
      · split
        · next e =>
          exact ((((((h.endCapture _ _).modLayer _ _).modTrack _ _).takeRoom e).openLayer _ _ _ _ _ _).modTrack
            _ _).raise _ _ _ _
        · exact ((((((h.endCapture _ _).modLayer _ _).modTrack _ _).modTrack _ _).raise _ _ _ _).raise
            _ _ _ _).raise _ _ _ _
    · exact h
  · exact h

theorem wrapAll (l : List TrackId) : ∀ {s : State}, RestKept s₀ s → RestKept s₀ (s.wrapAll l) := by
  induction l with
  | nil => exact fun h => h
  | cons t l ih => exact fun h => ih ((h.decayTrack t).roll t)

/-! ### Settling -/

theorem windowDone (h : RestKept s₀ s) (p : Port) (w : Window) : RestKept s₀ (s.windowDone p w) :=
  (h.setWindow _ _).raise _ _ _ _

theorem settleRead (h : RestKept s₀ s) (p : Port) : RestKept s₀ (s.settleRead p) := by
  unfold State.settleRead
  (repeat' split)
  case h_2.isFalse.isTrue => exact h.windowDone _ _
  case h_3.isTrue => exact h.setWindow _ _
  case h_4.isTrue => exact h.setWindow _ _
  case h_4.isFalse.isFalse => exact h.setWindow _ _
  all_goals exact h

theorem settleWait (h : RestKept s₀ s) (who : Background) : RestKept s₀ (s.settleWait who) := by
  unfold State.settleWait
  (repeat' split)
  · exact h
  · exact h.setWait _ _
  · exact h.setWait _ _

/-- What settling leaves of the rest. -/
theorem settle (h : RestKept s₀ s) : RestKept s₀ s.settle := by
  have hb : RestKept s₀ (((((s.settleCapture handOverRounds).settleFold).settleRead .a).settleRead .b).settleBuffers) :=
    ((((h.settleCapture _).settleFold).settleRead .a).settleRead .b).same (by rfl)
  exact ((hb.settleWait _).settleWait _).settleWait _

end RestKept

end Sys2Proof.Machine


/-! # What an arrival in RUN leaves of the cue list and the cycle timer

Apart from the boundary work, an arrival's work takes no cue, and moves the cycle timer only where it closes the
defining recording (R5, R91). -/

namespace Sys2Proof.Machine

open Sys2Proof

/-! ### The mixer's work -/

namespace RestKept

variable {s₀ s : State}

theorem layerSample (h : RestKept s₀ s) (id k : Nat) : RestKept s₀ (s.layerSample id k).1 := by
  unfold State.layerSample
  split
  · exact h
  · split
    · exact h.setLayer _ _
    · exact (h.setLayer _ _).takeFault _

theorem layerPart (h : RestKept s₀ s) (q id : Nat) (covers : List Nat) : RestKept s₀ (s.layerPart q id covers).1 := by
  unfold State.layerPart
  split
  · exact h
  · split
    · exact h.layerSample _ _
    · exact h

theorem sumLayers (t : TrackId) (q : Nat) (l : List Nat) :
    ∀ {s : State}, RestKept s₀ s → RestKept s₀ (s.sumLayers t q l).1 := by
  induction l with
  | nil => exact fun h => h
  | cons id l ih => exact fun h => ih (h.layerPart _ _ _)

theorem trackSum (h : RestKept s₀ s) (t : TrackId) : RestKept s₀ (s.trackSum t).1 := by
  unfold State.trackSum
  split
  · exact sumLayers _ _ _ h
  · exact h

theorem trackSums (l : List TrackId) : ∀ {s : State}, RestKept s₀ s → RestKept s₀ (s.trackSums l).1 := by
  induction l with
  | nil => exact fun h => h
  | cons t l ih => exact fun h => ih (h.trackSum t)

end RestKept

/-- The cue list stands, whether the link is PRESENT, and the cycle timer too unless it was DEFINING. -/
structure TimerKept (s₀ s : State) : Prop where
  cues : s.cues = s₀.cues
  present : s.audio.present = s₀.audio.present
  cycle : s₀.cycle.state ≠ .defining → s.cycle = s₀.cycle

theorem RestKept.timer {s₀ s : State} (h : RestKept s₀ s) : TimerKept s₀ s := ⟨h.cues, h.output.2, fun hd => (h.quiet hd).1⟩

namespace TimerKept

variable {s₀ s : State}

theorem trans {s₁ : State} (h₁ : TimerKept s₀ s₁) (h₂ : TimerKept s₁ s) : TimerKept s₀ s :=
  ⟨h₂.cues.trans h₁.cues, h₂.present.trans h₁.present, fun hd => (h₂.cycle (by rwa [h₁.cycle hd])).trans (h₁.cycle hd)⟩

theorem clip (h : TimerKept s₀ s) (ear : Bool) (place : Point) : TimerKept s₀ (s.clip ear place) := by
  unfold State.clip
  dsimp only
  split <;> split <;> exact ⟨h.cues, h.present, h.cycle⟩

theorem clipIf (h : TimerKept s₀ s) (c ear : Bool) (place : Point) :
    TimerKept s₀ (if c = true then s.clip ear place else s) := by
  split
  · exact h.clip _ _
  · exact h

theorem withMixer (h : TimerKept s₀ s) (m : Mixer) : TimerKept s₀ { s with mixer := m } := ⟨h.cues, h.present, h.cycle⟩

theorem withOutput (h : TimerKept s₀ s) (o : Frame) :
    TimerKept s₀ { s with audio := { s.audio with pendingOut := o } } := ⟨h.cues, h.present, h.cycle⟩

/-- The mixer's work takes no cue and does not move the cycle timer. -/
theorem mix (h : TimerKept s₀ s) (f : Frame) (place : Point) (beat : Option (Nat × Bool)) :
    TimerKept s₀ (s.mix f place beat) := by
  have hs : TimerKept s₀ (s.moveRamps.trackSums (List.finRange 6)).1 :=
    h.trans (RestKept.trackSums _ ((RestKept.refl s).same (u := s.moveRamps) rfl)).timer
  unfold State.mix
  exact (((hs.withMixer _).clipIf _ _ _).clipIf _ _ _).withOutput _

end TimerKept

/-- After the boundary work an arrival's work takes no cue, and moves no cycle timer that is not DEFINING. -/
theorem arrivalWork_timerKept (ord : Order) (f : Frame) (r : Option Reached) (s : State) :
    TimerKept (s.atBoundary ord r) (s.arrivalWork ord f r) := by
  have hb : RestKept (s.atBoundary ord r) { s.atBoundary ord r with fresh := [] } :=
    (RestKept.refl _).same rfl
  have hc := RestKept.closeLimits (List.finRange 6) (hb.captureArrival s.cycle.here f ord)
  unfold State.arrivalWork
  exact (hc.timer.mix f _ _).trans ((RestKept.refl _).settle).timer

/-! ### The frame that an arrival closes -/

/-- The state that a FRAME SYNC hands to a frame arrival: the port's outputs moved on, and a well-formed frame held
as the input (R163, R164). -/
def State.synced (n : Nat) (bits : BitVec 256) (ord : Order) (f : FrameIn) (s : State) : State :=
  let a := s.audio.sync s.now n ord.beforeExpiry
  { s with audio := if min 4095 (f.count + n) = 256 then { a with held := frameSamples (f.bits ||| bits) } else a }

theorem exec_frameSync {n : Nat} {bits : BitVec 256} {ord : Order} {f : FrameIn} {s : State}
    (hr : s.power.resetHeld = false) (hf : s.audio.frame = some f) :
    exec (.frameSync n bits ord) s = .next
      (let u := s.synced n bits ord f
       let v := (u.arrive ord u.audio.held).1.audioBack (u.arrive ord u.audio.held).2
       if min 4095 (f.count + n) = 256 then v else v.linkError (u.arrive ord u.audio.held).2) := by
  show execFrameSync n bits ord s = _
  unfold execFrameSync State.whenLive
  simp only [hr, Bool.false_eq_true, if_false, State.frameSync, hf, State.closeFrame, State.synced, decide_eq_true_eq]
  split <;> rfl

theorem audioBack_present {place : Point} {s : State} (h : s.audio.present = true) : s.audioBack place = s := by
  unfold State.audioBack
  rw [if_pos h]

theorem audioBack_cues (place : Point) (s : State) : (s.audioBack place).cues = s.cues := by
  unfold State.audioBack
  split <;> rfl

theorem linkError_cues (place : Point) (s : State) : (s.linkError place).cues = s.cues := by
  unfold State.linkError
  dsimp only
  split <;> rfl

theorem audioBack_cyc (place : Point) (s : State) : (s.audioBack place).cycle = s.cycle := by
  unfold State.audioBack
  split <;> rfl

theorem linkError_cyc (place : Point) (s : State) : (s.linkError place).cycle = s.cycle := by
  unfold State.linkError
  dsimp only
  split <;> rfl

theorem arriveRun_eq (ord : Order) (f : Frame) (s : State) : s.arriveRun ord f =
    (s.countFrame.advance.1.arrivalWork ord f s.countFrame.advance.2, s.countFrame.advance.1.cycle.here) := rfl

/-- A FRAME SYNC that closes a frame in RUN: the cycle timer moves, the blocks do their work, and what AUDIO BACK and
LINK ERRORS add leaves the cue list and the cycle timer; with a well-formed frame while PRESENT nothing is added
(R163, R164). -/
theorem exec_frameSync_run {n : Nat} {bits : BitVec 256} {ord : Order} {f : FrameIn} {s : State}
    (hr : s.power.resetHeld = false) (hp : s.power.part = .run) (hf : s.audio.frame = some f) :
    ∃ t, exec (.frameSync n bits ord) s = .next t
      ∧ (let u := s.synced n bits ord f
         let w := u.countFrame.advance.1.arrivalWork ord u.audio.held u.countFrame.advance.2
         t.cues = w.cues ∧ t.cycle = w.cycle
          ∧ (w.audio.present = true → f.count + n = 256 → u.audio.held = frameSamples (f.bits ||| bits) ∧ t = w)) := by
  refine ⟨_, exec_frameSync hr hf, ?_⟩
  have ha : ∀ fr, (s.synced n bits ord f).arrive ord fr = (s.synced n bits ord f).arriveRun ord fr := by
    intro fr
    unfold State.arrive
    rw [show (s.synced n bits ord f).power.part = .run from hp]
  simp only [ha, arriveRun_eq]
  refine ⟨?_, ?_, ?_⟩
  · split
    · exact audioBack_cues _ _
    · exact (linkError_cues _ _).trans (audioBack_cues _ _)
  · split
    · exact audioBack_cyc _ _
    · exact (linkError_cyc _ _).trans (audioBack_cyc _ _)
  · intro hpr hn
    have hm : min 4095 (f.count + n) = 256 := by omega
    rw [if_pos hm, audioBack_present hpr]
    exact ⟨by simp [State.synced, hm], rfl⟩

end Sys2Proof.Machine


/-! # Closing one track's open layer

What a close leaves of the other tracks, layers and capture records, and what it makes of its own (R33, R34, R42,
R68). -/

namespace Sys2Proof.Machine

open Sys2Proof

/-! ### One layer's capture record -/

/-- A place of the record pool, as far as one layer is concerned (R60). -/
def CapRec.ofLayer (id : Nat) (r : Option CapRec) : Option CapRec :=
  match r with
  | some r => if r.layer = id then some r else none
  | none => none

theorem ofLayer_eq_some {id : Nat} {r : Option CapRec} {q : CapRec} :
    CapRec.ofLayer id r = some q ↔ r = some q ∧ q.layer = id := by
  cases r with
  | none => simp [CapRec.ofLayer]
  | some r =>
    simp only [CapRec.ofLayer, Option.ite_none_right_eq_some, Option.some.injEq]
    constructor
    · rintro ⟨h, rfl⟩
      exact ⟨rfl, h⟩
    · rintro ⟨rfl, h⟩
      exact ⟨h, rfl⟩

theorem recordOf_eq (s : State) (id : Nat) :
    s.recordOf id = s.capture.records.toList.findSome? (CapRec.ofLayer id) := rfl

/-- A layer has the capture record that the places of the pool hold for it. -/
theorem recordOf_congr {s u : State} {id : Nat}
    (h : ∀ i : Fin 12, CapRec.ofLayer id u.capture.records[i] = CapRec.ofLayer id s.capture.records[i]) :
    u.recordOf id = s.recordOf id := by
  have hm : u.capture.records.map (CapRec.ofLayer id) = s.capture.records.map (CapRec.ofLayer id) := by
    ext i hi : 1
    simpa using h ⟨i, hi⟩
  have hl := congrArg (fun v => v.toList.findSome? fun x => x) hm
  simpa [recordOf_eq, Vector.toList_map, List.findSome?_map, Function.comp_def] using hl

/-- A layer that has a capture record has it at some place of the pool. -/
theorem recordOf_some {s : State} {id : Nat} {r : CapRec} (h : s.recordOf id = some r) :
    ∃ i : Fin 12, s.capture.records[i] = some r ∧ r.layer = id := by
  rw [recordOf_eq] at h
  obtain ⟨x, hx, he⟩ := List.exists_of_findSome?_eq_some h
  obtain ⟨rfl, hl⟩ := ofLayer_eq_some.mp he
  obtain ⟨i, hi, hget⟩ := List.getElem_of_mem hx
  exact ⟨⟨i, by simpa using hi⟩, by simpa using hget, hl⟩

/-! ### What an operation on one track's own layers spares -/

/-- An operation spares the other tracks, the layers that are not its own and the capture records of those. -/
structure Spares (t : TrackId) (own : Nat → Prop) (s u : State) : Prop where
  track : ∀ t', t' ≠ t → u.track t' = s.track t'
  layer : ∀ j, ¬ own j → u.layer? j = s.layer? j
  absent : ∀ j, s.layer? j = none → u.layer? j = none
  record : ∀ j, ¬ own j → ∀ i : Fin 12,
    CapRec.ofLayer j u.capture.records[i] = CapRec.ofLayer j s.capture.records[i]
  freed : ∀ i : Fin 12, s.capture.records[i] = none → u.capture.records[i] = none
  fold : u.fold = s.fold
  sorted : s.layers.Pairwise (fun e f => e.1 < f.1) → u.layers.Pairwise (fun e f => e.1 < f.1)

theorem find_erase_other {α : Type} {j k : Nat} (l : List (Nat × α)) (h : j ≠ k) :
    assocFind j (assocErase k l) = assocFind j l := by
  induction l with
  | nil => rfl
  | cons x l ih =>
    unfold assocErase
    split
    · next hk => simp only [assocFind, if_neg (show ¬ x.1 = j by omega)]
    · simp only [assocFind, ih]

/-- Freeing a layer takes its record out of the pool, its capture records with it, and changes of the rest only the
memory controller and the port controllers (R28). -/
theorem freeLayer_eq {c : LostCause} {id : Nat} {s : State} {l : Layer} (hl : s.layer? id = some l) :
    ∃ m a b, s.freeLayer c id = { s.dropRecord id with
      layers := assocErase id s.layers, fresh := s.fresh.filter (fun i => i != id), mem := m, portA := a, portB := b } := by
  obtain ⟨m₁, a₁, b₁, e₁, -⟩ := loseWindowOn_eq id c .a s
  obtain ⟨m₂, a₂, b₂, e₂, -⟩ := loseWindowOn_eq id c .b (s.loseWindowOn id c .a)
  unfold State.freeLayer State.loseWindowsOn
  rw [hl]
  dsimp only
  rw [e₂, e₁]
  exact ⟨_, _, _, rfl⟩

theorem freeLayer_none {c : LostCause} {id : Nat} {s : State} (h : s.layer? id = none) : s.freeLayer c id = s := by
  unfold State.freeLayer
  rw [h]

theorem ofLayer_dropRecord {id j : Nat} (hj : j ≠ id) (s : State) (i : Fin 12) :
    CapRec.ofLayer j (s.dropRecord id).capture.records[i] = CapRec.ofLayer j s.capture.records[i] := by
  simp only [State.dropRecord, Fin.getElem_fin, Vector.getElem_map]
  cases s.capture.records[i.val] with
  | none => rfl
  | some r =>
    dsimp only
    split
    · next hr => simp [CapRec.ofLayer, hr, hj.symm]
    · rfl

/-- A capture record ended at a length is free, or drains to it (R68, R69). -/
theorem CapRec.endAt_cases (n order : Nat) (r : CapRec) :
    r.endAt n order = none ∨ ∃ q, r.endAt n order = some q ∧ q.layer = r.layer ∧ q.phase = .draining
      ∧ q.startStamp = r.startStamp ∧ q.endStamp = some (stampAdd r.startStamp n) := by
  cases e : r.endAt n order with
  | none => exact .inl rfl
  | some q =>
    unfold CapRec.endAt at e
    dsimp only at e
    rw [Option.ite_none_left_eq_some] at e
    obtain rfl := Option.some.inj e.2
    exact .inr ⟨_, rfl, rfl, rfl, rfl, rfl⟩

theorem ofLayer_endCapture {id j : Nat} (n : Nat) (hj : j ≠ id) (s : State) (i : Fin 12) :
    CapRec.ofLayer j (s.endCapture id n).capture.records[i] = CapRec.ofLayer j s.capture.records[i] := by
  unfold State.endCapture
  split
  · rfl
  · next r _ =>
    simp only [Fin.getElem_fin, Vector.getElem_map]
    cases s.capture.records[i.val] with
    | none => rfl
    | some q =>
      dsimp only
      split
      · next hq =>
        obtain e | ⟨q', e, hl, -⟩ := CapRec.endAt_cases n
          (if r.closeOrder.isSome then s.capture.closeOrder else (s.capture.closeOrder + 1) % 65536) q
        · simp [CapRec.ofLayer, e, hq, hj.symm]
        · simp [CapRec.ofLayer, e, hl, hq, hj.symm]
      · rfl

theorem cutWindow_eq (id n : Nat) (p : Port) (s : State) : ∃ m, s.cutWindow id n p = { s with mem := m } := by
  unfold State.cutWindow
  split
  · split
    · cases p <;> exact ⟨_, rfl⟩
    · exact ⟨_, rfl⟩
  · exact ⟨_, rfl⟩

theorem truncate_eq {id n : Nat} {s : State} {l : Layer} (hl : s.layer? id = some l) :
    ∃ m, s.truncate id n = { s.setLayer id (l.cutTo n) with mem := m } := by
  unfold State.truncate
  rw [hl]
  dsimp only
  obtain ⟨m₁, e₁⟩ := cutWindow_eq id n .a (State.setLayer id (l.cutTo n) { s with mem :=
    { s.mem.giveBack (l.extents.drop (ceilDiv n 4096)) l.suspects with
      queue := (s.mem.giveBack (l.extents.drop (ceilDiv n 4096)) l.suspects).queue.filter
        (fun b => b.layer != id || decide (b.offset < n)) } })
  rw [e₁]
  obtain ⟨m₂, e₂⟩ := cutWindow_eq id n .b { State.setLayer id (l.cutTo n) s with mem := m₁ }
  exact ⟨m₂, e₂⟩

namespace Spares

variable {t : TrackId} {own : Nat → Prop} {s u v : State}

theorem refl (t : TrackId) (own : Nat → Prop) (s : State) : Spares t own s s :=
  ⟨fun _ _ => rfl, fun _ _ => rfl, fun _ h => h, fun _ _ _ => rfl, fun _ h => h, rfl, fun h => h⟩

theorem trans (h : Spares t own s u) (h' : Spares t own u v) : Spares t own s v where
  track t' ht := (h'.track t' ht).trans (h.track t' ht)
  layer j hj := (h'.layer j hj).trans (h.layer j hj)
  absent j hj := h'.absent j (h.absent j hj)
  record j hj i := (h'.record j hj i).trans (h.record j hj i)
  freed i hi := h'.freed i (h.freed i hi)
  fold := h'.fold.trans h.fold
  sorted hs := h'.sorted (h.sorted hs)

/-- Of what an operation spares, the tracks, layers, capture records and fold alone count. -/
theorem same (h : Spares t own s u) (e : (v.tracks, v.layers, v.capture.records, v.fold) =
    (u.tracks, u.layers, u.capture.records, u.fold)) : Spares t own s v := by
  simp only [Prod.mk.injEq] at e
  obtain ⟨ht, hl, hc, hf⟩ := e
  refine h.trans ⟨fun _ _ => ?_, fun _ _ => ?_, fun _ hj => ?_, fun _ _ _ => ?_, fun _ hi => ?_, hf, fun hs => ?_⟩
  · simp only [State.track, ht]
  · simp only [State.layer?, hl]
  · simpa only [State.layer?, hl] using hj
  · rw [hc]
  · rwa [hc]
  · rwa [hl]

theorem raise (h : Spares t own s u) (k : EventKind) (a : Option TrackId) (l : Option Nat) (d : Nat) :
    Spares t own s (u.raise k a l d) := h.same rfl

theorem setTrack (h : Spares t own s u) (tr : Track) : Spares t own s (u.setTrack t tr) :=
  h.trans ⟨fun t' ht => by rw [track_setTrack, if_neg ht.symm], fun _ _ => rfl, fun _ hj => hj, fun _ _ _ => rfl,
    fun _ hi => hi, rfl, fun hs => hs⟩

theorem modTrack (h : Spares t own s u) (f : Track → Track) : Spares t own s (u.modTrack t f) := h.setTrack _

theorem modLayer (h : Spares t own s u) {id : Nat} (ho : own id) (f : Layer → Layer) :
    Spares t own s (u.modLayer id f) := by
  refine h.trans ⟨fun t' _ => ?_, fun j hj => ?_, fun j hj => ?_, fun _ _ _ => by rw [capture_modLayer],
    fun _ hi => by rwa [capture_modLayer], ?_, fun hs => ?_⟩
  · simp only [State.track, tracks_modLayer]
  · rw [layer?_modLayer, if_neg]
    rintro rfl
    exact hj ho
  · rw [layer?_modLayer]
    split
    · next e =>
      subst e
      rw [hj]
      rfl
    · exact hj
  · exact fold_modLayer _ _ _
  · unfold State.modLayer
    split
    · exact insert_sorted hs
    · exact hs

theorem reaim (h : Spares t own s u) {id : Nat} (ho : own id) : Spares t own s (u.reaim id) := h.modLayer ho _

theorem freeLayer (h : Spares t own s u) (c : LostCause) {id : Nat} (ho : own id) :
    Spares t own s (u.freeLayer c id) := by
  cases hl : u.layer? id with
  | none => rwa [freeLayer_none hl]
  | some l =>
    obtain ⟨m, a, b, e⟩ := freeLayer_eq (c := c) hl
    rw [e]
    refine h.trans ⟨fun _ _ => rfl, fun j hj => ?_, fun j hj => ?_, fun j hj i => ?_, fun i hi => ?_, rfl,
      fun hs => erase_sorted hs⟩
    · refine find_erase_other _ ?_
      rintro rfl
      exact hj ho
    · refine (find_erase_other _ ?_).trans hj
      rintro rfl
      rw [hl] at hj
      cases hj
    · refine ofLayer_dropRecord ?_ u i
      rintro rfl
      exact hj ho
    · simp only [Fin.getElem_fin] at hi
      simp [State.dropRecord, hi]

theorem endAt (h : Spares t own s u) {id : Nat} (ho : own id) (n : Nat) : Spares t own s (u.endAt id n) := by
  have he : Spares t own s ((u.cutReads id n).endCapture id n) := by
    refine h.trans ⟨fun _ _ => ?_, fun j _ => ?_, fun j hj => ?_, fun j hj i => ?_, fun i hi => ?_, ?_, fun hs => ?_⟩
    · unfold State.endCapture
      split <;> simp [State.track]
    · rw [layer?_endCapture, layer?_cutReads]
    · rwa [layer?_endCapture, layer?_cutReads]
    · rw [ofLayer_endCapture n (by rintro rfl; exact hj ho), capture_cutReads]
    · simp only [Fin.getElem_fin] at hi
      unfold State.endCapture
      split <;> simp [hi]
    · unfold State.endCapture
      split <;> simp
    · unfold State.endCapture
      split <;> simpa using hs
  unfold State.endAt
  cases hl : ((u.cutReads id n).endCapture id n).layer? id with
  | none =>
    unfold State.truncate
    rw [hl]
    exact he
  | some l =>
    obtain ⟨m, e⟩ := truncate_eq (n := n) hl
    rw [e]
    refine he.trans ⟨fun _ _ => rfl, fun j hj => ?_, fun j hj => ?_, fun _ _ _ => rfl, fun _ hi => hi, rfl,
      fun hs => insert_sorted hs⟩
    · refine (layer?_setLayer id j _ _).trans (if_neg ?_)
      rintro rfl
      exact hj ho
    · refine ((layer?_setLayer id j _ _).trans (if_neg ?_)).trans hj
      rintro rfl
      rw [hl] at hj
      cases hj

theorem settleTrack (h : Spares t own s u) : Spares t own s (u.settleTrack t) := by
  unfold State.settleTrack
  dsimp only
  split
  · exact h
  · exact h.setTrack _

theorem raiseTrack (h : Spares t own s u) (a : TrackId) : Spares t own s (u.raiseTrack a) := h.raise _ _ _ _

theorem markFresh (h : Spares t own s u) (b : Bool) (id : Nat) : Spares t own s (u.markFresh b id) := by
  unfold State.markFresh
  split
  · exact h.same rfl
  · exact h

theorem discardOpen (h : Spares t own s u) {id : Nat} (ho : own id) : Spares t own s (u.discardOpen t id) :=
  (((h.freeLayer .discarded ho).modTrack _).settleTrack).raiseTrack t

theorem closeLayered (h : Spares t own s u) {id : Nat} (ho : own id) (n : Nat) (fresh : Bool) :
    Spares t own s (u.closeLayered t id n fresh) :=
  ((((((h.endAt ho n).modLayer ho _).modTrack _).markFresh _ _).reaim ho).raise _ _ _ _).raiseTrack t

theorem closeDefining (h : Spares t own s u) (n : Nat) (stop : Bool) : Spares t own s (u.closeDefining n stop) := by
  unfold State.closeDefining State.emptyCycle State.setCycle
  (repeat' split) <;> exact h.same rfl

theorem closeFirst (h : Spares t own s u) {id : Nat} (ho : own id) (n : Nat) (fresh stop : Bool) :
    Spares t own s (u.closeFirst t id n fresh stop) := by
  unfold State.closeFirst
  dsimp only
  generalize (if decide (u.cycle.state = .defining) = true then min n u.cycle.pos else n) = n'
  have hc : Spares t own s (if decide (u.cycle.state = .defining) = true then u.closeDefining n' stop else u) := by
    split
    · exact h.closeDefining _ _
    · exact h
  generalize (if decide (u.cycle.state = .defining) = true then u.closeDefining n' stop else u) = v at hc ⊢
  split
  · exact hc
  · split
    · exact hc.discardOpen ho
    · exact ((((((hc.endAt ho _).modLayer ho _).modTrack _).markFresh _ _).reaim ho).raise _ _ _ _).raiseTrack t

theorem closeRolled (h : Spares t own s u) {id : Nat} (ho : own id) (n : Nat) (l : Layer) :
    Spares t own s (u.closeRolled t id n l) := by
  unfold State.closeRolled
  split
  · exact (h.freeLayer _ ho).modTrack _
  · dsimp only
    split
    · exact (h.modLayer ho _).raise _ _ _ _
    · exact (((h.endAt ho _).reaim ho).modLayer ho _).raise _ _ _ _

theorem closeAtRoll (h : Spares t own s u) {rolled successor : Nat} (hr : own rolled) (hn : own successor)
    (before : Nat) : Spares t own s (u.closeAtRoll t rolled successor before) := by
  unfold State.closeAtRoll
  dsimp only
  have hf := (h.freeLayer .discarded hn).modTrack fun tr =>
    { tr.dropLayer successor with state := .playing, openLayer := none, marker := none }
  split
  · exact ((hf.closeRolled hr _ _).settleTrack).raiseTrack t
  · exact hf.settleTrack.raiseTrack t

end Spares

/-- The layers that a close on a track may touch: its open layer and the two of its roll marker (R42). -/
def State.closable (s : State) (t : TrackId) (j : Nat) : Prop :=
  (s.track t).openLayer = some j ∨ ∃ m, (s.track t).marker = some m ∧ (m.1 = j ∨ m.2 = j)

/-- The close of a track's open layer spares all but that track's closable layers. -/
theorem closeAtCut_spares (t : TrackId) (k : Cut) (stop : Bool) (s : State) :
    Spares t (s.closable t) s (s.closeAtCut t k stop) := by
  have h := Spares.refl t (s.closable t) s
  unfold State.closeAtCut
  split
  · exact h
  · next id hid =>
    have ho : s.closable t id := .inl hid
    unfold State.closeOpen
    rw [hid]
    dsimp only
    split
    · exact h.closeFirst ho _ _ _
    · split
      · split
        · next m hm =>
          split
          · next hs => exact h.closeAtRoll (.inr ⟨_, hm, .inl rfl⟩) (.inr ⟨_, hm, .inr rfl⟩) _
          · exact h.discardOpen ho
        · exact h.discardOpen ho
      · exact h.closeLayered ho _ _

/-! ### What a close makes of its own track and layer -/

theorem endCapture_withMem (id n : Nat) (m : MemCtl) (s : State) :
    State.endCapture id n { s with mem := m } = { s with mem := m, capture := (s.endCapture id n).capture } := by
  have hr : State.recordOf { s with mem := m } id = s.recordOf id := rfl
  unfold State.endCapture
  rw [hr]
  cases s.recordOf id <;> rfl

/-- Ending a layer at a length cuts its record and ends its capture record; of the rest only the memory controller
changes (R69). -/
theorem endAt_eq {id : Nat} {s : State} {l : Layer} (n : Nat) (hl : s.layer? id = some l) :
    ∃ m, s.endAt id n = { s.setLayer id (l.cutTo n) with mem := m, capture := (s.endCapture id n).capture } := by
  have hc : ∃ m, (s.cutReads id n).endCapture id n = { s with mem := m, capture := (s.endCapture id n).capture } := by
    unfold State.cutReads
    split
    · exact ⟨_, endCapture_withMem id n _ s⟩
    · exact ⟨_, endCapture_withMem id n s.mem s⟩
  obtain ⟨m, e⟩ := hc
  have hl' : ((s.cutReads id n).endCapture id n).layer? id = some l := by rwa [layer?_endCapture, layer?_cutReads]
  obtain ⟨m', e'⟩ := truncate_eq (n := n) hl'
  unfold State.endAt
  rw [e', e]
  exact ⟨m', rfl⟩

/-- A close that keeps samples: the layer ended at its length and closed, its track on, its buffer aimed anew (R33, R34,
R149). -/
def State.keepLayer (t : TrackId) (id n : Nat) (f : Layer → Layer) (g : Track → Track) (fresh : Bool) (s : State) :
    State :=
  ((((((s.endAt id n).modLayer id f).modTrack t g).markFresh fresh id).reaim id).raiseClosed t id).raiseTrack t

/-- The layer and the track that the close of an overdub or replace layer leaves (R33). -/
theorem closeLayered_eq (t : TrackId) (id n : Nat) (fresh : Bool) (s : State) :
    s.closeLayered t id n fresh = s.keepLayer t id n (fun l => { l with state := .closed, tail := true })
      (fun tr => { tr with state := .playing, openLayer := none, marker := none }) fresh := rfl

/-- A first layer's close that keeps samples, once its span, start and length are fixed (R34). -/
def State.keepFirst (t : TrackId) (id : Nat) (fix : Nat × Nat × Nat) (fresh : Bool) (s : State) : State :=
  s.keepLayer t id fix.2.2 (fun l => { l with state := .closed, start := .at fix.2.1, tail := true })
    (fun tr => { tr with state := .playing, span := some fix.1, heldSpan := none, openLayer := none, marker := none })
    fresh

theorem closeFirst_nothing {t : TrackId} {id : Nat} {l : Layer} {fresh stop : Bool} {s : State}
    (hc : s.cycle.state ≠ .defining) (hl : s.layer? id = some l) :
    s.closeFirst t id 0 fresh stop = s.discardOpen t id := by
  simp [State.closeFirst, hc, hl]

theorem closeFirst_keeps {t : TrackId} {id n pass pos : Nat} {l : Layer} {fresh stop : Bool} {s : State}
    (hc : s.cycle.state ≠ .defining) (hl : s.layer? id = some l) (hs : l.start = .first pass pos) (hn : n ≠ 0) :
    s.closeFirst t id n fresh stop =
      (let fix := fixSpan s.cycle.shownLen pass pos n
       s.keepFirst t id fix (fresh && decide (fix.2.2 = n))) := by
  simp only [State.closeFirst, hc, hl, hs, hn, decide_false, Bool.false_eq_true, if_false, false_and, or_self]
  rfl

theorem closeDefining_layer? (n : Nat) (stop : Bool) (s : State) (id : Nat) :
    (s.closeDefining n stop).layer? id = s.layer? id := by
  unfold State.closeDefining State.emptyCycle State.setCycle
  (repeat' split) <;> rfl

/-- The close of the defining recording with fewer than 9,600 frames (R8, R34). -/
theorem closeFirst_tooShort {t : TrackId} {id n : Nat} {l : Layer} {fresh stop : Bool} {s : State}
    (hc : s.cycle.state = .defining) (hl : s.layer? id = some l) (hn : min n s.cycle.pos < 9600) :
    s.closeFirst t id n fresh stop = (s.closeDefining (min n s.cycle.pos) stop).discardOpen t id := by
  simp [State.closeFirst, hc, closeDefining_layer?, hl, hn]

/-- The close of the defining recording that fixes the cycle (R8, R34). -/
theorem closeFirst_fixes {t : TrackId} {id n pass pos : Nat} {l : Layer} {fresh stop : Bool} {s : State}
    (hc : s.cycle.state = .defining) (hl : s.layer? id = some l) (hs : l.start = .first pass pos)
    (hn : 9600 ≤ min n s.cycle.pos) :
    s.closeFirst t id n fresh stop =
      (let c := s.closeDefining (min n s.cycle.pos) stop
       let fix := fixSpan c.cycle.shownLen pass pos (min n s.cycle.pos)
       c.keepFirst t id fix (fresh && decide (fix.2.2 = min n s.cycle.pos))) := by
  have h0 : ¬ (min n s.cycle.pos = 0 ∨ True ∧ min n s.cycle.pos < 9600) := by omega
  simp only [State.closeFirst, hc, closeDefining_layer?, hl, hs, decide_true, if_true, h0, if_false]
  rfl

section

variable {t : TrackId} {id n : Nat} {f : Layer → Layer} {g : Track → Track} {fresh : Bool} {s : State} {l : Layer}

/-- What a close that keeps samples changes. -/
theorem keepLayer_eq (hl : s.layer? id = some l) :
    ∃ m fr a b, s.keepLayer t id n f g fresh =
      { ((s.setLayer id (f (l.cutTo n))).modTrack t g).reaim id with
        mem := m, fresh := fr, capture := (s.endCapture id n).capture, portA := a, portB := b } := by
  obtain ⟨m, e⟩ := endAt_eq n hl
  have hm : ∃ fr, (((s.endAt id n).modLayer id f).modTrack t g).markFresh fresh id =
      { (s.setLayer id (f (l.cutTo n))).modTrack t g with
        mem := m, fresh := fr, capture := (s.endCapture id n).capture } := by
    have hmod : (s.endAt id n).modLayer id f =
        { s.setLayer id (f (l.cutTo n)) with mem := m, capture := (s.endCapture id n).capture } := by
      have hl' : (s.endAt id n).layer? id = some (l.cutTo n) := by simp [layer?_endAt, hl]
      unfold State.modLayer
      rw [hl', e]
      simp [State.setLayer, insert_insert]
    rw [hmod]
    unfold State.markFresh
    split <;> exact ⟨_, rfl⟩
  obtain ⟨fr, e'⟩ := hm
  unfold State.keepLayer
  rw [e']
  have hr : ∀ c, State.reaim id { (s.setLayer id (f (l.cutTo n))).modTrack t g with mem := m, fresh := fr, capture := c } =
      { ((s.setLayer id (f (l.cutTo n))).modTrack t g).reaim id with mem := m, fresh := fr, capture := c } := by
    intro c
    simp [State.reaim, State.modLayer, State.modTrack, State.setTrack, State.setLayer, State.layer?, assocFind_insert]
    rfl
  rw [hr]
  exact ⟨_, _, _, _, rfl⟩

theorem keepLayer_track (hl : s.layer? id = some l) (t' : TrackId) :
    (s.keepLayer t id n f g fresh).track t' = if t = t' then g (s.track t) else s.track t' := by
  obtain ⟨m, fr, a, b, e⟩ := keepLayer_eq (t := t) (n := n) (f := f) (g := g) (fresh := fresh) hl
  rw [e]
  show ((((s.setLayer id (f (l.cutTo n))).modTrack t g).reaim id).tracks)[t'] = _
  rw [State.reaim, tracks_modLayer]
  exact track_modTrack t t' g _

theorem keepLayer_cycle (hl : s.layer? id = some l) : (s.keepLayer t id n f g fresh).cycle = s.cycle := by
  obtain ⟨m, fr, a, b, e⟩ := keepLayer_eq (t := t) (n := n) (f := f) (g := g) (fresh := fresh) hl
  rw [e]
  exact cycle_modLayer _ _ _

theorem keepLayer_capture (hl : s.layer? id = some l) :
    (s.keepLayer t id n f g fresh).capture = (s.endCapture id n).capture := by
  obtain ⟨m, fr, a, b, e⟩ := keepLayer_eq (t := t) (n := n) (f := f) (g := g) (fresh := fresh) hl
  rw [e]

theorem keepLayer_layer? (hl : s.layer? id = some l) (h : s.cycle.state = .running → s.cycle.len.isSome = true) :
    (s.keepLayer t id n f g fresh).layer? id = some { f (l.cutTo n) with
      buf := s.cycle.aimedBuffer ((s.keepLayer t id n f g fresh).track (f (l.cutTo n)).track).span
        (f (l.cutTo n)).startQ (f (l.cutTo n)).length } := by
  have htr := keepLayer_track (t := t) (n := n) (f := f) (g := g) (fresh := fresh) hl (f (l.cutTo n)).track
  obtain ⟨m, fr, a, b, e⟩ := keepLayer_eq (t := t) (n := n) (f := f) (g := g) (fresh := fresh) hl
  have hr := layer?_reaim (s := (s.setLayer id (f (l.cutTo n))).modTrack t g) id (l := f (l.cutTo n))
    (layer?_setLayer_same _ _ _) h
  rw [htr, e]
  refine hr.trans ?_
  rw [track_modTrack]
  rfl

end

theorem freeLayer_gone (c : LostCause) (id : Nat) {s : State} (hs : s.layers.Pairwise (fun e f => e.1 < f.1)) :
    (s.freeLayer c id).layer? id = none := by
  cases hl : s.layer? id with
  | none => rwa [freeLayer_none hl]
  | some l => simpa using (freedAs_freeLayer (c := c) hs hl).layer id

theorem freeLayer_track (c : LostCause) (id : Nat) (t : TrackId) (s : State) :
    (s.freeLayer c id).track t = s.track t := by
  cases hl : s.layer? id with
  | none => rw [freeLayer_none hl]
  | some l =>
    obtain ⟨m, a, b, e⟩ := freeLayer_eq (c := c) hl
    rw [e]
    rfl

theorem settleTrack_layer? (t : TrackId) (s : State) (id : Nat) : (s.settleTrack t).layer? id = s.layer? id := by
  unfold State.settleTrack
  dsimp only
  split <;> rfl

/-- A settled track has an open layer and a roll marker only if it had them. -/
theorem settleTrack_idle {t : TrackId} {s : State} (ho : (s.track t).openLayer = none)
    (hm : (s.track t).marker = none) :
    ((s.settleTrack t).track t).openLayer = none ∧ ((s.settleTrack t).track t).marker = none := by
  unfold State.settleTrack
  dsimp only
  split
  · exact ⟨ho, hm⟩
  · rw [track_setTrack_same]
    exact ⟨rfl, rfl⟩

/-- A track with nothing in its stack and redo list settles to EMPTY without a span (R26). -/
theorem settleTrack_bare {t : TrackId} {s : State} (hs : (s.track t).stack = []) (hr : (s.track t).redo = []) :
    (s.settleTrack t).track t = { s.track t with
      state := .empty, span := none, heldSpan := none, openLayer := none, marker := none } := by
  simp [State.settleTrack, State.holdsImport, hs, hr, stackIds]

/-- The track of a layer discarded at its close (R33, R34). -/
theorem discardOpen_track (t : TrackId) (id : Nat) (s : State) :
    (s.discardOpen t id).track t =
      (((s.freeLayer .discarded id).modTrack t fun tr =>
        { tr.dropLayer id with state := .playing, marker := none }).settleTrack t).track t := rfl

/-- A layer discarded at its close is gone, with what its track held of it (R28, R33). -/
theorem discardOpen_gone (t : TrackId) (id : Nat) {s : State} (ho : (s.track t).openLayer = some id)
    (hs : s.layers.Pairwise (fun e f => e.1 < f.1)) :
    (s.discardOpen t id).layer? id = none ∧ ((s.discardOpen t id).track t).openLayer = none
      ∧ ((s.discardOpen t id).track t).marker = none := by
  refine ⟨?_, ?_⟩
  · refine (settleTrack_layer? t _ id).trans ?_
    exact freeLayer_gone .discarded id hs
  · rw [discardOpen_track]
    apply settleTrack_idle <;> rw [track_modTrack, if_pos rfl]
    rw [freeLayer_track]
    simp [Track.dropLayer, ho]

/-- A track that held the discarded layer alone is EMPTY (R26, R34). -/
theorem discardOpen_alone (t : TrackId) (id : Nat) {s : State} (hs : (s.track t).stack = [.single id])
    (hr : (s.track t).redo = []) : (s.discardOpen t id).track t = { s.track t with
      state := .empty, span := none, heldSpan := none, stack := [], openLayer := none, marker := none } := by
  have hf := freeLayer_track .discarded id t s
  rw [discardOpen_track, settleTrack_bare] <;> rw [track_modTrack, if_pos rfl, hf] <;> simp [Track.dropLayer, hs, hr]

/-- A rolled-from layer's close does not give its track an open layer or a marker. -/
theorem closeRolled_idle {t : TrackId} {id : Nat} (n : Nat) {l : Layer} {s : State} (hl : s.layer? id = some l)
    (ho : (s.track t).openLayer = none) (hm : (s.track t).marker = none) :
    ((s.closeRolled t id n l).track t).openLayer = none ∧ ((s.closeRolled t id n l).track t).marker = none := by
  unfold State.closeRolled
  split
  · rw [track_modTrack, if_pos rfl, freeLayer_track]
    simp [Track.dropLayer, ho, hm]
  · have kept : ((if n = l.length then s else (s.endAt id n).reaim id).track t) = s.track t := by
      split
      · rfl
      · obtain ⟨m, e⟩ := endAt_eq n hl
        rw [e]
        simp only [State.reaim, State.track, tracks_modLayer]
        rfl
    show ((State.modLayer id _ _).track t).openLayer = none ∧ ((State.modLayer id _ _).track t).marker = none
    simp only [State.track, tracks_modLayer] at kept ho hm ⊢
    rw [kept]
    exact ⟨ho, hm⟩

/-- A close at the roll leaves its track without open layer and marker, and its successor gone (R42). -/
theorem closeAtRoll_gone (t : TrackId) (rolled successor before : Nat) {s : State}
    (hs : s.layers.Pairwise (fun e f => e.1 < f.1)) :
    (s.closeAtRoll t rolled successor before).layer? successor = none
      ∧ ((s.closeAtRoll t rolled successor before).track t).openLayer = none
      ∧ ((s.closeAtRoll t rolled successor before).track t).marker = none := by
  unfold State.closeAtRoll
  dsimp only
  have hf : ((s.freeLayer .discarded successor).modTrack t fun tr =>
      { tr.dropLayer successor with state := .playing, openLayer := none, marker := none }).layer? successor = none :=
    freeLayer_gone _ _ hs
  have ho : ((((s.freeLayer .discarded successor).modTrack t fun tr =>
      { tr.dropLayer successor with state := .playing, openLayer := none, marker := none }).track t).openLayer = none)
      ∧ ((((s.freeLayer .discarded successor).modTrack t fun tr =>
      { tr.dropLayer successor with state := .playing, openLayer := none, marker := none }).track t).marker = none) := by
    rw [track_modTrack, if_pos rfl]
    exact ⟨rfl, rfl⟩
  generalize ((s.freeLayer .discarded successor).modTrack t fun tr =>
      { tr.dropLayer successor with state := .playing, openLayer := none, marker := none }) = u at hf ho ⊢
  split
  · next l hl =>
    refine ⟨(settleTrack_layer? t _ _).trans ?_, settleTrack_idle ?_ ?_⟩
    · exact ((Spares.refl t (· = rolled) u).closeRolled rfl _ l).absent _ hf
    · exact (closeRolled_idle _ hl ho.1 ho.2).1
    · exact (closeRolled_idle _ hl ho.1 ho.2).2
  · exact ⟨(settleTrack_layer? t _ _).trans hf, settleTrack_idle ho.1 ho.2⟩

/-- The close of an open layer that has taken no samples: the layer is gone and nothing of it is left on its track
(R33, R34, R42). -/
theorem closeOpen_nothing {t : TrackId} {id : Nat} {l : Layer} {before : Nat} {fresh stop : Bool} {s : State}
    (hc : s.cycle.state ≠ .defining) (ho : (s.track t).openLayer = some id) (hl : s.layer? id = some l)
    (hs : s.layers.Pairwise (fun e f => e.1 < f.1)) :
    (s.closeOpen t 0 before fresh stop).layer? id = none
      ∧ ((s.closeOpen t 0 before fresh stop).track t).openLayer = none
      ∧ ((s.closeOpen t 0 before fresh stop).track t).marker = none := by
  have hd := discardOpen_gone t id ho hs
  unfold State.closeOpen
  rw [ho]
  dsimp only
  split
  · rwa [closeFirst_nothing hc hl]
  · rw [if_pos rfl]
    split
    · next m hm =>
      split
      · next e =>
        subst e
        exact closeAtRoll_gone t _ _ before hs
      · exact hd
    · exact hd

end Sys2Proof.Machine


/-! # The close of the defining recording, and the frame count at an arrival (R3, R5, R8, R34, R74) -/

namespace Sys2Proof.Machine

open Sys2Proof

/-! ### The cycle that the defining recording leaves (R8) -/

/-- The cycle timer moved to another of its states: the next generation, and the flags of the pass cleared (R2). -/
def State.movedTo (c : Cycle) (s : State) : State :=
  { s with
    cycle := { c with gen := (s.cycle.gen + 1) % 65536 }
    mixer := { s.mixer with frontReported := false, earReported := false }
    audio := { s.audio with passErrors := 0, reported := false } }

theorem setCycle_moved {c : Cycle} {s : State} (h : c.state ≠ s.cycle.state) : s.setCycle c = s.movedTo c := by
  unfold State.setCycle
  rw [if_neg h]
  rfl

theorem closeDefining_short {n : Nat} {stop : Bool} {s : State} (hd : s.cycle.state = .defining) (hn : n < 9600) :
    s.closeDefining n stop =
      (s.movedTo { s.cycle with state := .empty, len := none, pos := 0, pass := 0, origin := false }).raise
        .cycleTooShort none none n := by
  unfold State.closeDefining State.emptyCycle
  rw [if_pos hn, setCycle_moved (by simp [hd])]

theorem closeDefining_long {n : Nat} {stop : Bool} {s : State} (hd : s.cycle.state = .defining) (hn : 9600 ≤ n) :
    s.closeDefining n stop =
      ((s.movedTo { s.cycle with
          state := if stop then .paused else .running
          len := some n, pos := 0, pass := 0, origin := !stop }).raise .cycleDefined none none 0).raise
        (if stop then .cyclePaused else .cycleRunning) none none 0 := by
  unfold State.closeDefining
  rw [if_neg (by omega), setCycle_moved (by cases stop <;> simp [hd])]
  rfl

theorem closeDefining_track (n : Nat) (stop : Bool) (s : State) (t : TrackId) :
    (s.closeDefining n stop).track t = s.track t := by
  unfold State.closeDefining State.emptyCycle State.setCycle
  (repeat' split) <;> rfl

theorem closeDefining_records (n : Nat) (stop : Bool) (s : State) : (s.closeDefining n stop).capture = s.capture := by
  unfold State.closeDefining State.emptyCycle State.setCycle
  (repeat' split) <;> rfl

/-- A first layer that fills the cycle from position 0 on spans it once (R34). -/
theorem fixSpan_whole {n : Nat} (h : 1 ≤ n) : fixSpan n 0 0 n = (1, 0, n) := by
  have hc : ceilDiv n n = 1 := by
    unfold ceilDiv
    rw [Nat.div_eq_of_lt_le] <;> omega
  simp [fixSpan, hc, clampNat]

/-- Before the frame at position 0 of pass 0, and while the cycle is not RUNNING, a buffer is aimed at 0 (R149). -/
theorem aimedBuffer_zero {c : Cycle} (span : Option Nat) (start n : Nat)
    (h : c.state ≠ .running ∨ c.origin = true ∧ c.pass = 0) : c.aimedBuffer span start n = ReadBuf.aimed 0 := by
  unfold Cycle.aimedBuffer ReadBuf.aimed
  obtain hn | ⟨ho, hp⟩ := h
  · cases hs : c.state with
    | running => exact absurd hs hn
    | _ => rfl
  · simp only [ho, hp]
    split
    · simp
    · rfl

/-! ### The close of the defining recording's track (R8, R34, R74) -/

section

variable {t : TrackId} {id : Nat} {l : Layer} {r : CapRec} {stop : Bool} {s : State}

/-- A close at the next frame to arrive keeps the samples taken so far (R59, R68). -/
theorem closeAtCut_next (ho : (s.track t).openLayer = some id) (hr : s.recordOf id = some r) :
    s.closeAtCut t .next stop =
      s.closeOpen t (stampSub (stampAdd s.cycle.frameCount 1) r.startStamp) 0 true stop := by
  unfold State.closeAtCut
  rw [ho]
  dsimp only
  rw [hr]
  rfl

/-- The defining recording closed once it has taken 9,600 frames or more: the cycle is fixed, the layer fills it, and
the track plays (R8, R34, R74). -/
theorem closeAtCut_fixes (hc : s.cycle.state = .defining) (hp : 9600 ≤ s.cycle.pos)
    (hst : (s.track t).state = .recording) (ho : (s.track t).openLayer = some id) (hl : s.layer? id = some l)
    (hs : l.start = .first 0 0) (hr : s.recordOf id = some r)
    (hn : stampSub (stampAdd s.cycle.frameCount 1) r.startStamp = s.cycle.pos) :
    (s.closeAtCut t .next stop).cycle = { s.cycle with
        state := if stop then .paused else .running
        len := some s.cycle.pos, pos := 0, pass := 0, origin := !stop
        gen := (s.cycle.gen + 1) % 65536 }
      ∧ (s.closeAtCut t .next stop).track t = { s.track t with
          state := .playing, span := some 1, heldSpan := none, openLayer := none, marker := none }
      ∧ (s.closeAtCut t .next stop).layer? id = some { l.cutTo s.cycle.pos with
          state := .closed, start := .at 0, tail := true, buf := ReadBuf.aimed 0 }
      ∧ (s.closeAtCut t .next stop).capture = (s.endCapture id s.cycle.pos).capture := by
  have hd := closeDefining_long (stop := stop) hc hp
  have hcy : (s.closeDefining s.cycle.pos stop).cycle = { s.cycle with
      state := if stop then .paused else .running
      len := some s.cycle.pos, pos := 0, pass := 0, origin := !stop
      gen := (s.cycle.gen + 1) % 65536 } := by
    rw [hd]
    rfl
  have hcl : (s.closeDefining s.cycle.pos stop).layer? id = some l := (closeDefining_layer? _ _ _ _).trans hl
  have hlen : (s.closeDefining s.cycle.pos stop).cycle.shownLen = s.cycle.pos := by rw [hcy]; rfl
  have hw := fixSpan_whole (n := s.cycle.pos) (by omega)
  have hmin : min s.cycle.pos s.cycle.pos = s.cycle.pos := Nat.min_self _
  have e : s.closeAtCut t .next stop =
      (s.closeDefining s.cycle.pos stop).keepFirst t id (1, 0, s.cycle.pos) true := by
    rw [closeAtCut_next ho hr, hn]
    unfold State.closeOpen
    rw [ho]
    dsimp only
    rw [if_pos hst, closeFirst_fixes hc hl hs (by omega), hmin]
    dsimp only
    rw [hlen, hw]
    simp
  rw [e]
  unfold State.keepFirst
  refine ⟨(keepLayer_cycle hcl).trans hcy, ?_, ?_, ?_⟩
  · rw [keepLayer_track hcl, if_pos rfl, closeDefining_track]
  · rw [keepLayer_layer? hcl (fun _ => by rw [hcy]; rfl), aimedBuffer_zero]
    rw [hcy]
    cases stop <;> simp
  · rw [keepLayer_capture hcl]
    unfold State.endCapture
    have hrec : (s.closeDefining s.cycle.pos stop).recordOf id = s.recordOf id := by
      simp only [State.recordOf, closeDefining_records]
    rw [hrec]
    cases s.recordOf id <;> simp only [closeDefining_records]

/-- The defining recording closed before it has taken 9,600 frames is discarded, and the cycle is EMPTY (R8, R34). -/
theorem closeAtCut_tooShort (hc : s.cycle.state = .defining) (hp : s.cycle.pos < 9600)
    (hst : (s.track t).state = .recording) (ho : (s.track t).openLayer = some id) (hl : s.layer? id = some l)
    (hr : s.recordOf id = some r) (hn : stampSub (stampAdd s.cycle.frameCount 1) r.startStamp = s.cycle.pos) :
    s.closeAtCut t .next stop = (s.closeDefining s.cycle.pos stop).discardOpen t id := by
  have hmin : min s.cycle.pos s.cycle.pos = s.cycle.pos := Nat.min_self _
  rw [closeAtCut_next ho hr, hn]
  unfold State.closeOpen
  rw [ho]
  dsimp only
  rw [if_pos hst, closeFirst_tooShort hc hl (by omega), hmin]

end

/-! ### Limits (R5, R75) -/

theorem atLimit_idle {t : TrackId} {s : State} (h : (s.track t).openLayer = none) : s.atLimit t = false := by
  unfold State.atLimit
  rw [h]
  split
  · next e => cases e
  · rfl

/-- Recordings that have not reached their limits stand. -/
theorem closeLimits_none {s : State} (l : List TrackId) (h : ∀ t ∈ l, s.atLimit t = false) : s.closeLimits l = s := by
  induction l with
  | nil => rfl
  | cons t l ih =>
    obtain ⟨ht, hl⟩ := List.forall_mem_cons.mp h
    unfold State.closeLimits
    rw [ht]
    exact ih hl

/-- Where one track alone has an open layer, it alone is closed at its limit. -/
theorem closeLimits_one {t : TrackId} {s : State} (l : List TrackId) (hm : t ∈ l) (ht : s.atLimit t = true)
    (ho : ∀ t', t' ≠ t → (s.track t').openLayer = none)
    (hc : ∀ t', ((s.closeAtCut t .next false).track t').openLayer = none) :
    s.closeLimits l = s.closeAtCut t .next false := by
  induction l with
  | nil => cases hm
  | cons x l ih =>
    unfold State.closeLimits
    by_cases hx : x = t
    · rw [hx, ht, if_pos rfl]
      exact closeLimits_none l fun t' _ => atLimit_idle (hc t')
    · rw [atLimit_idle (ho x hx)]
      exact ih (List.mem_of_ne_of_mem (Ne.symm hx) hm)

/-- Below 2,880,000 frames a DEFINING cycle closes nothing, and an EMPTY or PAUSED one closes nothing (R5, R75). -/
theorem atLimit_before {s : State} (h : s.cycle.state = .empty ∨ s.cycle.state = .paused
    ∨ s.cycle.state = .defining ∧ s.cycle.pos < 2880000) (t : TrackId) : s.atLimit t = false := by
  unfold State.atLimit
  split
  · obtain h | h | ⟨h, hp⟩ := h
    · rw [h]
    · rw [h]
    · rw [h]
      exact decide_eq_false (by omega)
  · rfl

/-! ### The frame count (R3) -/

theorem advance_notRunning {s : State} (h : s.cycle.state ≠ .running) : s.advance =
    (if s.cycle.state = .defining then
      { s with cycle := { s.cycle with pos := min 2880000 (s.cycle.pos + 1) } } else s, none) := by
  cases hs : s.cycle.state with
  | running => exact absurd hs h
  | _ => simp [State.advance, hs]

theorem arrivalWork_count {n : Nat} (ord : Order) (f : Frame) (r : Option Reached) (s : State)
    (h : s.cycle.frameCount = n) : (s.arrivalWork ord f r).cycle.frameCount = n := by
  have hb : ({ s.atBoundary ord r with fresh := [] } : State).cycle.frameCount = n := atBoundary_count ord r s h
  unfold State.arrivalWork
  dsimp only
  generalize ({ s.atBoundary ord r with fresh := [] } : State) = u at hb ⊢
  exact settle_count _ (mix_count _ _ _ _ (closeLimits_count _ _ (captureArrival_count _ _ _ _ hb)))

theorem countFrame_frameCount (s : State) :
    s.countFrame.cycle.frameCount = (s.cycle.frameCount + 1) % 4294967296 := rfl

theorem arriveRun_frameCount (ord : Order) (f : Frame) (s : State) :
    (s.arriveRun ord f).1.cycle.frameCount = (s.cycle.frameCount + 1) % 4294967296 := by
  have ha : s.countFrame.advance.1.cycle.frameCount = (s.cycle.frameCount + 1) % 4294967296 :=
    advance_count _ (countFrame_frameCount s)
  rw [arriveRun_eq]
  dsimp only
  exact arrivalWork_count ord f _ _ ha

/-- An arrival moves the frame count by one in STARTING and RUN (R3). -/
theorem arrive_frameCount (ord : Order) (f : Frame) (s : State) : (s.arrive ord f).1.cycle.frameCount =
    if s.power.part ≠ .rest then (s.cycle.frameCount + 1) % 4294967296 else s.cycle.frameCount := by
  unfold State.arrive
  split
  · next hp => rw [if_pos (by simp [hp]), arriveRun_frameCount]
  · next hp =>
    rw [if_pos (by simp [hp])]
    exact countFrame_frameCount s
  · next hp =>
    rw [if_neg (by simp [hp])]
    rfl

/-- A FRAME SYNC moves the frame count exactly where it closes a frame in STARTING or RUN (R3, R163). -/
theorem frameSync_frameCount {n : Nat} {bits : BitVec 256} {ord : Order} {s t : State}
    (e : exec (.frameSync n bits ord) s = .next t) : t.cycle.frameCount =
      if s.power.resetHeld = false ∧ s.audio.frame.isSome = true ∧ s.power.part ≠ .rest then
        (s.cycle.frameCount + 1) % 4294967296
      else s.cycle.frameCount := by
  cases hr : s.power.resetHeld with
  | true =>
    have e' : exec (.frameSync n bits ord) s = .next s := by
      show execFrameSync n bits ord s = _
      unfold execFrameSync State.whenLive
      rw [hr]
      rfl
    obtain rfl := Host.Outcome.next.inj (e'.symm.trans e)
    simp
  | false =>
    cases hf : s.audio.frame with
    | none =>
      have e' : exec (.frameSync n bits ord) s =
          .next { s with audio := s.audio.sync s.now n ord.beforeExpiry } := by
        show execFrameSync n bits ord s = _
        unfold execFrameSync State.whenLive State.frameSync
        rw [hr, hf]
        rfl
      obtain rfl := Host.Outcome.next.inj (e'.symm.trans e)
      simp
    | some f =>
      obtain rfl := Host.Outcome.next.inj ((exec_frameSync hr hf).symm.trans e)
      have ha := arrive_frameCount ord (s.synced n bits ord f).audio.held (s.synced n bits ord f)
      dsimp only
      split
      · rw [audioBack_count _ _ ha]
        simp only [State.synced, Option.isSome_some, true_and]
        exact if_congr Iff.rfl rfl rfl
      · rw [linkError_count _ _ (audioBack_count _ _ ha)]
        simp only [State.synced, Option.isSome_some, true_and]
        exact if_congr Iff.rfl rfl rfl

/-- An arrival on a cycle that is not RUNNING: no place is reached, so no cue is taken (R5, R91). -/
theorem exec_frameSync_notRunning {n : Nat} {bits : BitVec 256} {ord : Order} {f : FrameIn} {s : State}
    (hr : s.power.resetHeld = false) (hp : s.power.part = .run) (hf : s.audio.frame = some f)
    (hc : s.cycle.state ≠ .running) :
    ∃ t, exec (.frameSync n bits ord) s = .next t
      ∧ (let v := (s.synced n bits ord f).countFrame.advance.1
         t.cues = v.cues ∧ (s.cycle.state ≠ .defining → t.cycle = v.cycle)
          ∧ (s.audio.present = true → f.count + n = 256 →
            t = v.arrivalWork ord (frameSamples (f.bits ||| bits)) none)) := by
  obtain ⟨t, e, hcues, hcycle, hwhole⟩ := exec_frameSync_run (n := n) (bits := bits) (ord := ord) hr hp hf
  have ha := advance_notRunning (s := (s.synced n bits ord f).countFrame) hc
  have hnone : (s.synced n bits ord f).countFrame.advance.2 = none := by rw [ha]
  have hstate : (s.synced n bits ord f).countFrame.advance.1.cycle.state = s.cycle.state := by
    rw [ha]
    split <;> rfl
  have hpresent : (s.synced n bits ord f).countFrame.advance.1.audio.present = s.audio.present := by
    rw [ha]
    unfold State.synced
    split <;> dsimp only <;> split <;> rfl
  rw [hnone] at hcues hcycle hwhole
  have hk := arrivalWork_timerKept ord (s.synced n bits ord f).audio.held none
    (s.synced n bits ord f).countFrame.advance.1
  refine ⟨t, e, hcues.trans hk.cues, fun hd => hcycle.trans (hk.cycle ?_), fun hpr hn => ?_⟩
  · show (s.synced n bits ord f).countFrame.advance.1.cycle.state ≠ .defining
    rwa [hstate]
  · obtain ⟨hheld, ht⟩ := hwhole (hk.present.trans (hpresent.trans hpr)) hn
    rw [← hheld]
    exact ht

/-- Settles O13: the blocks keep the frame count but at an arrival, and the cycle timer's own step, the limits and the
close of the defining recording give the rest. -/
theorem frameCountCountsArrivals : Obligations.FrameCountCountsArrivals := by
  unfold Obligations.FrameCountCountsArrivals
  refine ⟨?_, ?_, ?_, ?_⟩
  · intro c s t hres hlow hpart e
    by_cases hc : isPlain c = true
    · obtain ⟨u, hu, hk⟩ := exec_keeps (frameCount_kept s.cycle.frameCount) hc (s := s) rfl
      obtain rfl := Host.Outcome.next.inj (hu.symm.trans e)
      cases c with
      | reset | resetnLow | resetPart | frameSync => cases hc
      | _ => exact hk
    · cases c with
      | reset => exact absurd rfl hres
      | resetnLow => exact absurd rfl hlow
      | resetPart h => exact absurd rfl (hpart h)
      | frameSync n bits ord => exact frameSync_frameCount e
      | _ => exact absurd rfl hc
  · intro n bits ord f s hr hp hf hc
    obtain ⟨t, e, hcues, hcycle, hwhole⟩ :=
      exec_frameSync_notRunning (n := n) (bits := bits) (ord := ord) hr hp hf hc
    have ha := advance_notRunning (s := (s.synced n bits ord f).countFrame) hc
    refine ⟨_, t, e, ?_, ?_, ?_, ?_, ?_, ?_, ?_, ?_, ?_, ?_, ?_, ?_, hcues.trans ?_, hcycle, hwhole⟩
    all_goals
      rw [congrArg Prod.fst ha]
      by_cases hd : s.cycle.state = .defining
      · simp [State.countFrame, State.synced, hd, stampAdd, stampMod]
      · simp [State.countFrame, State.synced, hd, stampAdd, stampMod]
  · exact fun l s h => closeLimits_none l fun t _ => atLimit_before h t
  · intro t id l r s hc hpos hst ho hothers hl hs hr hn
    have hlim : s.atLimit t = true := by
      unfold State.atLimit
      rw [hst, ho, hc]
      simp [hpos]
    obtain ⟨hcy, htr, hla, -⟩ :=
      closeAtCut_fixes (stop := false) hc (by omega) hst ho hl hs hr (hn.trans hpos.symm)
    have hsp := closeAtCut_spares t .next false s
    have hidle : ∀ t', ((s.closeAtCut t .next false).track t').openLayer = none := by
      intro t'
      by_cases ht : t' = t
      · rw [ht, htr]
      · rw [hsp.track t' ht]
        exact hothers t' ht
    rw [hpos] at hcy hla
    exact ⟨_, _, closeLimits_one _ (List.mem_finRange t) hlim hothers hidle, hcy, htr, hsp.track, hla, rfl⟩

end Sys2Proof.Machine


/-! # CLOSE and STOP ALL of the defining recording and of a first layer (R8, R33, R34) -/

namespace Sys2Proof.Machine

open Sys2Proof

/-! ### Updates beside the cue list -/

/-- Two states that differ in the cue list and the port controllers at most. -/
def BesideCues (s u : State) : Prop := ∃ c a b, u = { s with cues := c, portA := a, portB := b }

namespace BesideCues

variable {s u v : State}

theorem refl (s : State) : BesideCues s s := ⟨_, _, _, rfl⟩

theorem trans (h : BesideCues s u) (h' : BesideCues u v) : BesideCues s v := by
  obtain ⟨c, a, b, rfl⟩ := h
  obtain ⟨c', a', b', rfl⟩ := h'
  exact ⟨c', a', b', rfl⟩

theorem handedOn (h : Req) (code : Nat) (s : State) : BesideCues s (s.handedOn h code) := by
  unfold State.handedOn State.setPort
  split <;> exact ⟨_, _, _, rfl⟩

theorem dropCue (r : DropReason) (c : Cue) (s : State) : BesideCues s (s.dropCue r c) := ⟨_, _, _, rfl⟩

theorem supersedeSlot (target : Option TrackId) (f : Family) (s : State) :
    BesideCues s (s.supersedeSlot target f) := by
  unfold State.supersedeSlot
  split
  · exact dropCue _ _ s
  · exact refl s

theorem dropCues (r : DropReason) (l : List Cue) : ∀ s : State, BesideCues s (s.dropCues r l) := by
  induction l with
  | nil => exact refl
  | cons c l ih => exact fun s => (dropCue r c s).trans (ih _)

theorem cycle (h : BesideCues s u) : u.cycle = s.cycle := by
  obtain ⟨c, a, b, rfl⟩ := h
  rfl

theorem tracks (h : BesideCues s u) : u.tracks = s.tracks := by
  obtain ⟨c, a, b, rfl⟩ := h
  rfl

theorem track (h : BesideCues s u) (t : TrackId) : u.track t = s.track t := by
  obtain ⟨c, a, b, rfl⟩ := h
  rfl

theorem layers (h : BesideCues s u) : u.layers = s.layers := by
  obtain ⟨c, a, b, rfl⟩ := h
  rfl

theorem layer? (h : BesideCues s u) (id : Nat) : u.layer? id = s.layer? id := by
  obtain ⟨c, a, b, rfl⟩ := h
  rfl

theorem capture (h : BesideCues s u) : u.capture = s.capture := by
  obtain ⟨c, a, b, rfl⟩ := h
  rfl

theorem recordOf (h : BesideCues s u) (id : Nat) : u.recordOf id = s.recordOf id := by
  obtain ⟨c, a, b, rfl⟩ := h
  rfl

theorem mem (h : BesideCues s u) : u.mem = s.mem := by
  obtain ⟨c, a, b, rfl⟩ := h
  rfl

theorem fold (h : BesideCues s u) : u.fold = s.fold := by
  obtain ⟨c, a, b, rfl⟩ := h
  rfl

theorem faults (h : BesideCues s u) : u.faults = s.faults := by
  obtain ⟨c, a, b, rfl⟩ := h
  rfl

theorem switches (h : BesideCues s u) : u.switches = s.switches := by
  obtain ⟨c, a, b, rfl⟩ := h
  rfl

theorem mixer (h : BesideCues s u) : u.mixer = s.mixer := by
  obtain ⟨c, a, b, rfl⟩ := h
  rfl

theorem audio (h : BesideCues s u) : u.audio = s.audio := by
  obtain ⟨c, a, b, rfl⟩ := h
  rfl

theorem power (h : BesideCues s u) : u.power = s.power := by
  obtain ⟨c, a, b, rfl⟩ := h
  rfl

end BesideCues

/-- A list of cues dropped leaves the entries of other ids (4.7). -/
theorem dropCues_cues (r : DropReason) (l : List Cue) : ∀ s : State,
    (s.dropCues r l).cues.entries = s.cues.entries.filter (fun c => !(l.map Cue.id).contains c.id)
      ∧ (s.dropCues r l).cues.nextId = s.cues.nextId := by
  induction l with
  | nil =>
    intro s
    simp [State.dropCues]
  | cons d l ih =>
    intro s
    obtain ⟨he, hn⟩ := ih (s.dropCue r d)
    refine ⟨he.trans ?_, hn⟩
    show (s.cues.entries.filter (fun c => c.id != d.id)).filter _ = _
    rw [List.filter_filter]
    congr 1
    funext c
    simp only [List.map_cons, List.contains_cons, bne, Bool.not_or]
    exact Bool.and_comm _ _

theorem dropAllCues_cues (r : DropReason) (s : State) :
    (s.dropAllCues r).cues.entries = [] ∧ (s.dropAllCues r).cues.nextId = s.cues.nextId := by
  obtain ⟨he, hn⟩ := dropCues_cues r s.cues.entries s
  refine ⟨he.trans (List.filter_eq_nil_iff.mpr fun c hc => ?_), hn⟩
  simpa using ⟨c, hc, rfl⟩

/-! ### Requests that act at the current frame (R18, R46) -/

/-- A quantised request that acts at the current frame: the reply carries the current place, not back-dated. -/
theorem exec_actionRequest_current {h : Req} {a : Action} {tb qb : Byte} {target : Option TrackId} {q : Quantum}
    {s u : State} (hs : s.serves h a.argLen) (hq : argQuantum qb = some q)
    (ht : a.targetOf tb = some target) (hd : s.dueOf a q s.pressNow = .atOnce s.cycle.current)
    (ha : ((s.handedOn h a.code).beforeAct a target).act a target .next = .ok u) :
    exec (a.request h tb qb) s =
      .next ((if a.isAll then u else u.supersedeSlot target a.family).settle.replied h a.code .ok s.cycle.nowBytes) :=
  exec_actionRequest_atOnce hs hq ht hd ha

theorem argQuantum_valid {q : Byte} (h : q.toNat ≤ 3) : ∃ x, argQuantum q = some x := by
  unfold argQuantum
  have : q.toNat = 0 ∨ q.toNat = 1 ∨ q.toNat = 2 ∨ q.toNat = 3 := by omega
  obtain h | h | h | h := this <;> rw [h] <;> exact ⟨_, rfl⟩

/-! ### One open layer, closed by CLOSE or by STOP ALL -/

theorem closeAtCut_idle {t : TrackId} {k : Cut} {stop : Bool} {s : State} (h : (s.track t).openLayer = none) :
    s.closeAtCut t k stop = s := by
  unfold State.closeAtCut
  rw [h]

theorem closeTracks_idle {k : Cut} {stop : Bool} {s : State} (l : List TrackId)
    (h : ∀ t ∈ l, (s.track t).openLayer = none) : s.closeTracks k stop l = s := by
  induction l with
  | nil => rfl
  | cons t l ih =>
    obtain ⟨ht, hl⟩ := List.forall_mem_cons.mp h
    unfold State.closeTracks
    rw [closeAtCut_idle ht]
    exact ih hl

/-- Where one track alone has an open layer, closing every track closes it. -/
theorem closeTracks_one {t : TrackId} {k : Cut} {stop : Bool} {s : State} (l : List TrackId) (hm : t ∈ l)
    (ho : ∀ t', t' ≠ t → (s.track t').openLayer = none)
    (hc : ((s.closeAtCut t k stop).track t).openLayer = none) :
    s.closeTracks k stop l = s.closeAtCut t k stop := by
  have hidle : ∀ t', ((s.closeAtCut t k stop).track t').openLayer = none := by
    intro t'
    by_cases ht : t' = t
    · rwa [ht]
    · rw [(closeAtCut_spares t k stop s).track t' ht]
      exact ho t' ht
  induction l with
  | nil => cases hm
  | cons x l ih =>
    unfold State.closeTracks
    by_cases hx : x = t
    · rw [hx]
      exact closeTracks_idle l fun t' _ => hidle t'
    · rw [closeAtCut_idle (ho x hx)]
      exact ih (List.mem_of_ne_of_mem (Ne.symm hx) hm)

/-- CLOSE outside REST that acts at the current frame, on a track with an open layer (R33, R46). -/
theorem exec_close_current {h : Req} {t : TrackId} {tb qb : Byte} {q : Quantum} {s : State} (hs : s.serves h 2)
    (ht : argTrack tb = some t) (hq : argQuantum qb = some q)
    (hd : s.dueOf .close q s.pressNow = .atOnce s.cycle.current)
    (hst : (s.track t).state = .recording ∨ (s.track t).state = .overdubbing ∨ (s.track t).state = .replacing) :
    ∃ x u, BesideCues s x ∧ BesideCues (x.closeAtCut t .next false) u
      ∧ exec (.close h tb qb) s = .next (u.settle.replied h 35 .ok s.cycle.nowBytes) := by
  have hx := BesideCues.handedOn h 35 s
  refine ⟨_, _, hx, BesideCues.supersedeSlot (some t) .transport _,
    exec_actionRequest_current (a := .close) (target := some t) hs hq (by simp [Action.targetOf, Action.isAll, ht])
      hd ?_⟩
  show State.actClose t .next (s.handedOn h 35) = _
  unfold State.actClose
  rw [hx.track]
  obtain hst | hst | hst := hst <;> rw [hst]

/-- STOP ALL outside REST that acts at the current frame (R21). -/
theorem exec_stopAll_current {h : Req} {qb : Byte} {q : Quantum} {s : State} (hs : s.serves h 1)
    (hq : argQuantum qb = some q) (hd : s.dueOf .stopAll q s.pressNow = .atOnce s.cycle.current) :
    ∃ x, BesideCues s x ∧ exec (.stopAll h qb) s =
      .next ((x.actStopAll .next).settle.replied h 22 .ok s.cycle.nowBytes) :=
  ⟨_, (BesideCues.handedOn h 22 s).trans (BesideCues.supersedeSlot none .all _),
    exec_actionRequest_current (a := .stopAll) (tb := 0) (target := none) hs hq rfl hd rfl⟩

/-- The place of the pool that a layer's capture record held, once the record is ended at a length (R68, R69). -/
theorem endCapture_at {id n : Nat} {i : Fin 12} {q : CapRec} {s : State} (hr : s.recordOf id ≠ none)
    (hq : s.capture.records[i] = some q) (hl : q.layer = id) :
    (s.endCapture id n).capture.records[i] = none ∨ ∃ q', (s.endCapture id n).capture.records[i] = some q'
      ∧ q'.layer = id ∧ q'.phase = .draining ∧ q'.startStamp = q.startStamp
      ∧ q'.endStamp = some (stampAdd q.startStamp n) := by
  unfold State.endCapture
  split
  · next h => exact absurd h hr
  · simp only [Fin.getElem_fin] at hq
    simp only [Fin.getElem_fin, Vector.getElem_map, hq, hl, if_true]
    rw [← hl]
    exact CapRec.endAt_cases _ _ q

/-- A capture record ended at a length drains to it. -/
theorem endCapture_recordOf {id n : Nat} {r : CapRec} {s : State} (hr : s.recordOf id ≠ none)
    (h : (s.endCapture id n).recordOf id = some r) :
    r.phase = .draining ∧ r.endStamp = some (stampAdd r.startStamp n) := by
  obtain ⟨i, hi, hl⟩ := recordOf_some h
  cases hq : s.capture.records[i] with
  | none =>
    unfold State.endCapture at hi
    split at hi
    · rw [hq] at hi
      cases hi
    · simp only [Fin.getElem_fin] at hq
      simp [hq] at hi
  | some q =>
    by_cases hql : q.layer = id
    · obtain e | ⟨q', e, -, hp, hs, he⟩ := endCapture_at (n := n) hr hq hql
      · rw [e] at hi
        cases hi
      · obtain rfl := Option.some.inj (e.symm.trans hi)
        exact ⟨hp, by rw [he, hs]⟩
    · unfold State.endCapture at hi
      split at hi
      · rw [hq] at hi
        obtain rfl := Option.some.inj hi
        exact absurd hl hql
      · simp only [Fin.getElem_fin] at hq
        simp only [Fin.getElem_fin, Vector.getElem_map, hq, hql, if_false, Option.some.injEq] at hi
        subst hi
        exact absurd hl hql

/-! ### The span of a first layer (R34) -/

/-- The first of the four spans that meets a condition. -/
theorem find_span {p : Nat → Bool} {S : Nat} (hS : S ∈ [1, 2, 4, 8]) (hp : p S = true)
    (hlt : ∀ R ∈ [1, 2, 4, 8], R < S → p R = false) : [1, 2, 4, 8].find? p = some S := by
  simp only [List.mem_cons, List.not_mem_nil, or_false] at hS
  have h1 := hlt 1 (by simp)
  have h2 := hlt 2 (by simp)
  have h4 := hlt 4 (by simp)
  obtain rfl | rfl | rfl | rfl := hS <;> simp_all

/-- The spans not below the least that covers a layer's length are those not below its count of cycles. -/
theorem fixSpan_eq {len n p0 N c S0 : Nat} (hc : c = max 1 (min 8 ((N + len - 1) / len))) (hS0 : c ≤ S0)
    (hmin : ∀ S ∈ [1, 2, 4, 8], c ≤ S → S0 ≤ S) : fixSpan len n p0 N =
      match [1, 2, 4, 8].find? fun x => decide (S0 ≤ x ∧ n % x * len + p0 + N ≤ x * len) with
      | some x => (x, n % x * len + p0, N)
      | none =>
        match [1, 2, 4, 8].find? fun x => decide (S0 ≤ x ∧ p0 + N ≤ x * len) with
        | some x => (x, p0, N)
        | none => (8, p0, 8 * len - p0) := by
  have hspans : ([1, 2, 4, 8].filter fun x => decide (c ≤ x)) = [1, 2, 4, 8].filter fun x => decide (S0 ≤ x) :=
    List.filter_congr fun x hx => decide_eq_decide.mpr ⟨hmin x hx, hS0.trans⟩
  have hfind : ∀ p : Nat → Bool, ([1, 2, 4, 8].filter fun x => decide (S0 ≤ x)).find? p =
      [1, 2, 4, 8].find? fun x => decide (S0 ≤ x) && p x := by
    intro p
    rw [List.find?_filter]
    congr 1
    funext x
    simp
  have hclamp : clampNat 1 8 (ceilDiv N len) = c := hc.symm
  unfold fixSpan
  simp only [hclamp, hspans, hfind, Bool.decide_and] <;> rfl

end Sys2Proof.Machine


/-! # The defining recording's close and a first layer's span (R8, R34) -/

namespace Sys2Proof.Machine

open Sys2Proof

/-! ### What the close of the defining recording leaves -/

/-- The state after the close of the defining recording's layer, as the requests that close it give it (R8, R34, R74). -/
structure DefiningClosed (t : TrackId) (id : Nat) (l : Layer) (stop : Bool) (s u : State) : Prop where
  others : ∀ t', t' ≠ t → u.track t' = s.track t'
  idle : (u.track t).openLayer = none
  tooShort : s.cycle.pos < 9600 → u.layer? id = none
    ∧ u.cycle = { s.cycle with
        state := .empty, len := none, pos := 0, pass := 0, origin := false
        gen := (s.cycle.gen + 1) % 65536 }
    ∧ ((s.track t).stack = [.single id] → (s.track t).redo = [] → u.track t = { s.track t with
        state := .empty, span := none, heldSpan := none, stack := [], openLayer := none, marker := none })
  fixed : 9600 ≤ s.cycle.pos →
    u.cycle = { s.cycle with
        state := if stop then .paused else .running
        len := some s.cycle.pos, pos := 0, pass := 0, origin := !stop
        gen := (s.cycle.gen + 1) % 65536 }
    ∧ u.track t = { s.track t with
        state := .playing, span := some 1, heldSpan := none, openLayer := none, marker := none }
    ∧ u.layer? id = some { l.cutTo s.cycle.pos with
        state := .closed, start := .at 0, tail := true, buf := ReadBuf.aimed 0 }
    ∧ ∀ r', u.recordOf id = some r' → r'.phase = .draining
      ∧ r'.endStamp = some (stampAdd r'.startStamp s.cycle.pos)

namespace DefiningClosed

variable {t : TrackId} {id : Nat} {l : Layer} {stop : Bool} {s u v x : State}

theorem before (hx : BesideCues s x) (h : DefiningClosed t id l stop x u) : DefiningClosed t id l stop s u := by
  obtain ⟨c, a, b, rfl⟩ := hx
  exact ⟨h.others, h.idle, h.tooShort, h.fixed⟩

theorem after (h : DefiningClosed t id l stop s u) (hv : BesideCues u v) : DefiningClosed t id l stop s v := by
  obtain ⟨c, a, b, rfl⟩ := hv
  exact ⟨h.others, h.idle, h.tooShort, h.fixed⟩

/-- The defining recording closed at the next frame to arrive. -/
theorem of_closeAtCut {r : CapRec} (hc : s.cycle.state = .defining) (hst : (s.track t).state = .recording)
    (ho : (s.track t).openLayer = some id) (hl : s.layer? id = some l) (hs : l.start = .first 0 0)
    (hr : s.recordOf id = some r) (hn : stampSub (stampAdd s.cycle.frameCount 1) r.startStamp = s.cycle.pos)
    (hsorted : s.layers.Pairwise (fun e f => e.1 < f.1)) :
    DefiningClosed t id l stop s (s.closeAtCut t .next stop) := by
  have htrack := closeDefining_track s.cycle.pos stop s
  have hgone := discardOpen_gone t id (s := s.closeDefining s.cycle.pos stop)
    ((congrArg Track.openLayer (htrack t)).trans ho)
    (((Spares.refl t (· = id) s).closeDefining s.cycle.pos stop).sorted hsorted)
  have hshort := fun hp => closeAtCut_tooShort (stop := stop) hc hp hst ho hl hr hn
  have hlong := fun hp => closeAtCut_fixes (stop := stop) hc hp hst ho hl hs hr hn
  refine ⟨(closeAtCut_spares t .next stop s).track, ?_, fun hp => ⟨?_, ?_, fun hstack hredo => ?_⟩, fun hp => ?_⟩
  · obtain hp | hp := Nat.lt_or_ge s.cycle.pos 9600
    · rw [hshort hp]
      exact hgone.2.1
    · rw [(hlong hp).2.1]
  · rw [hshort hp]
    exact hgone.1
  · rw [hshort hp, discardOpen_cyc, closeDefining_short hc hp]
    rfl
  · rw [hshort hp, discardOpen_alone t id (by rw [htrack, hstack]) (by rw [htrack, hredo]), htrack]
  · obtain ⟨hcy, htr, hla, hcap⟩ := hlong hp
    refine ⟨hcy, htr, hla, fun r' h => ?_⟩
    refine endCapture_recordOf (s := s) (id := id) (n := s.cycle.pos) (by simp [hr]) ?_
    rw [← h]
    simp only [State.recordOf, hcap]

end DefiningClosed

/-! ### A first layer on a RUNNING cycle (R34) -/

/-- The close at the next frame to arrive of a first layer on a cycle that is not DEFINING. -/
theorem closeAtCut_first {t : TrackId} {id pass pos n : Nat} {l : Layer} {r : CapRec} {s : State}
    (hc : s.cycle.state = .running) {len : Nat} (hlen : s.cycle.len = some len)
    (hst : (s.track t).state = .recording) (ho : (s.track t).openLayer = some id) (hl : s.layer? id = some l)
    (hs : l.start = .first pass pos) (hr : s.recordOf id = some r)
    (hn : n = stampSub (stampAdd s.cycle.frameCount 1) r.startStamp) (h0 : n ≠ 0) :
    s.closeAtCut t .next false =
      (let fix := fixSpan len pass pos n
       s.keepFirst t id fix (decide (fix.2.2 = n))) := by
  have hd : s.cycle.state ≠ .defining := by simp [hc]
  have hshown : s.cycle.shownLen = len := by simp [Cycle.shownLen, hlen]
  rw [closeAtCut_next ho hr, ← hn]
  unfold State.closeOpen
  rw [ho]
  dsimp only
  rw [if_pos hst, closeFirst_keeps hd hl hs h0, hshown]
  rfl

/-- What a first layer's close keeps of it (R34, R149). -/
theorem keepFirst_kept {t : TrackId} {id : Nat} {fix : Nat × Nat × Nat} {fresh : Bool} {l : Layer} {s : State}
    (hl : s.layer? id = some l) (h : s.cycle.state = .running → s.cycle.len.isSome = true) :
    (s.keepFirst t id fix fresh).track t = { s.track t with
        state := .playing, span := some fix.1, heldSpan := none, openLayer := none, marker := none }
      ∧ (s.keepFirst t id fix fresh).layer? id = some { l.cutTo fix.2.2 with
          state := .closed, start := .at fix.2.1, tail := true
          buf := s.cycle.aimedBuffer ((s.keepFirst t id fix fresh).track l.track).span fix.2.1 fix.2.2 }
      ∧ (s.keepFirst t id fix fresh).capture = (s.endCapture id fix.2.2).capture := by
  refine ⟨?_, ?_, keepLayer_capture hl⟩
  · unfold State.keepFirst
    rw [keepLayer_track hl, if_pos rfl]
  · exact keepLayer_layer? hl h

/-- Settles O29: the close of the defining recording, the requests that close it, a first layer's close on a RUNNING
cycle, and the span that fits it. -/
theorem firstRecordingsClose : Obligations.FirstRecordingsClose := by
  unfold Obligations.FirstRecordingsClose
  refine ⟨?_, ?_, ?_, ?_⟩
  · rintro n stop s hd moved rfl
    exact ⟨fun hn => closeDefining_short hd hn, fun hn => closeDefining_long hd hn⟩
  · intro h stop t tb q id code l r s hs hpart hc ht hq hst ho hl hstart hr hn hothers hsorted hcode
    obtain ⟨x, hx⟩ := argQuantum_valid hq
    suffices ∃ u, exec (if stop then .stopAll h q else .close h tb q) s =
        .next (u.settle.replied h code .ok s.cycle.nowBytes) ∧ (stop = true → u.cues.entries = [])
          ∧ DefiningClosed t id l stop s u by
      obtain ⟨u, e, hcues, hu⟩ := this
      refine ⟨u, e, hu.others, hcues, hu.tooShort, fun hp => ?_⟩
      obtain ⟨hcy, htr, hla, hrec⟩ := hu.fixed hp
      exact ⟨hcy, htr, ⟨_, hla, rfl⟩, hrec⟩
    cases stop with
    | false =>
      obtain ⟨v, u, hv, hu, e⟩ :=
        exec_close_current hs ht hx (dueOf_unfixed hpart (.inr hc)) (.inl hst)
      subst hcode
      refine ⟨u, e, nofun, (DefiningClosed.after ?_ hu).before hv⟩
      exact DefiningClosed.of_closeAtCut (by rw [hv.cycle, hc]) (by rw [hv.track, hst]) (by rw [hv.track, ho])
        (by rw [hv.layer?, hl]) hstart (by rw [hv.recordOf, hr]) (by rw [hv.cycle, hn]) (by rwa [hv.layers])
    | true =>
      obtain ⟨v, hv, e⟩ := exec_stopAll_current hs hx (dueOf_unfixed hpart (.inr hc))
      have hclosed : DefiningClosed t id l true v (v.closeAtCut t .next true) :=
        DefiningClosed.of_closeAtCut (by rw [hv.cycle, hc]) (by rw [hv.track, hst]) (by rw [hv.track, ho])
          (by rw [hv.layer?, hl]) hstart (by rw [hv.recordOf, hr]) (by rw [hv.cycle, hn]) (by rwa [hv.layers])
      have hstop : v.actStopAll .next = (v.closeAtCut t .next true).dropAllCues .stopped := by
        unfold State.actStopAll
        rw [hv.cycle, hc]
        dsimp only
        rw [closeTracks_one _ (List.mem_finRange t) (fun t' ht' => by rw [hv.track]; exact hothers t' ht') hclosed.idle]
      subst hcode
      refine ⟨_, e, fun _ => ?_, ?_⟩
      · rw [hstop]
        exact (dropAllCues_cues _ _).1
      · rw [hstop]
        exact (hclosed.after (BesideCues.dropCues _ _ _)).before hv
  · intro h t tb len id pass pos n l r s hs hpart hc hlen ht hst ho hl hstart hr hn
    obtain ⟨v, u, hv, hu, e⟩ :=
      exec_close_current hs ht (q := .none) (qb := 0) rfl (dueOf_none hpart hc hlen) (.inl hst)
    have hcv : v.cycle.state = .running := by rw [hv.cycle, hc]
    have hdef : v.cycle.state ≠ .defining := by simp [hcv]
    have hov : (v.track t).openLayer = some id := by rw [hv.track, ho]
    have hlv : v.layer? id = some l := by rw [hv.layer?, hl]
    have hrv : v.recordOf id = some r := by rw [hv.recordOf, hr]
    have hnv : n = stampSub (stampAdd v.cycle.frameCount 1) r.startStamp := by rw [hv.cycle, hn]
    refine ⟨u, e, ?_, fun t' ht' => ?_, fun h0 hsorted => ?_, fun h0 span start kept hfix => ?_⟩
    · rw [hu.cycle, closeAtCut_cyc _ _ _ _ hdef, hv.cycle]
    · rw [hu.track, (closeAtCut_spares t .next false v).track t' ht', hv.track]
    · subst h0
      have hsv : v.layers.Pairwise (fun e f => e.1 < f.1) := by rwa [hv.layers]
      have hclose : v.closeAtCut t .next false = v.discardOpen t id := by
        rw [closeAtCut_next hov hrv, ← hnv]
        unfold State.closeOpen
        rw [hov]
        dsimp only
        rw [if_pos (by rw [hv.track, hst]), closeFirst_nothing hdef hlv]
      refine ⟨?_, fun hstack hredo => ?_⟩
      · rw [hu.layer?, hclose]
        exact (discardOpen_gone t id hov hsv).1
      · rw [hu.track, hclose, discardOpen_alone t id (by rw [hv.track, hstack]) (by rw [hv.track, hredo])]
    · have hclose := closeAtCut_first hcv (by rw [hv.cycle, hlen]) (by rw [hv.track, hst]) hov hlv hstart hrv hnv h0
      dsimp only at hclose
      rw [hfix] at hclose
      obtain ⟨htr, hla, -⟩ := keepFirst_kept (t := t) (fix := (span, start, kept)) (fresh := decide (kept = n)) hlv
        (fun _ => by rw [hv.cycle, hlen]; rfl)
      rw [← hclose] at htr hla
      refine ⟨by rw [hu.track, htr, hv.track], _, (hu.layer? id).trans hla, ?_⟩
      rw [hu.track, hv.cycle]
      rfl
  · intro len n p0 N c S0 hc hS0 hcS hmin
    have key := fixSpan_eq (n := n) (p0 := p0) hc hcS hmin
    refine ⟨fun S hS hle hfit hless => ?_, fun hover => ⟨fun S hS hle hfit hless => ?_, fun hbig => ?_⟩⟩
    · rw [key, find_span hS (by simp [hle, hfit])]
      intro R hR hlt
      by_cases hSR : S0 ≤ R
      · have := hless R hR hSR hlt
        simp [hSR, this]
      · simp [hSR]
    all_goals
      have hnone : ([1, 2, 4, 8].find? fun x => decide (S0 ≤ x ∧ n % x * len + p0 + N ≤ x * len)) = none := by
        rw [List.find?_eq_none]
        intro R hR h
        obtain ⟨hSR, hfit⟩ := of_decide_eq_true h
        have := hover R hR hSR
        omega
      rw [key, hnone]
      dsimp only
    · rw [find_span hS (by simp [hle, hfit])]
      intro R hR hlt
      by_cases hSR : S0 ≤ R
      · have := hless R hR hSR hlt
        simp [hSR, this]
      · simp [hSR]
    · have hnone' : ([1, 2, 4, 8].find? fun x => decide (S0 ≤ x ∧ p0 + N ≤ x * len)) = none := by
        rw [List.find?_eq_none]
        intro R hR h
        obtain ⟨-, hfit⟩ := of_decide_eq_true h
        have h8 : R ≤ 8 := by
          simp only [List.mem_cons, List.not_mem_nil, or_false] at hR
          omega
        have := Nat.mul_le_mul_right len h8
        omega
      rw [hnone']

end Sys2Proof.Machine


/-! # PLAY ALL and STOP ALL (R20 to R22) -/

namespace Sys2Proof.Machine

open Sys2Proof

/-! ### Closing several tracks -/

/-- An operation spares the tracks not listed, the layers that are not its own and the capture records of those. -/
structure SparesAll (l : List TrackId) (own : Nat → Prop) (s u : State) : Prop where
  track : ∀ t, t ∉ l → u.track t = s.track t
  layer : ∀ j, ¬ own j → u.layer? j = s.layer? j
  absent : ∀ j, s.layer? j = none → u.layer? j = none
  record : ∀ j, ¬ own j → ∀ i : Fin 12,
    CapRec.ofLayer j u.capture.records[i] = CapRec.ofLayer j s.capture.records[i]
  freed : ∀ i : Fin 12, s.capture.records[i] = none → u.capture.records[i] = none
  fold : u.fold = s.fold
  sorted : s.layers.Pairwise (fun e f => e.1 < f.1) → u.layers.Pairwise (fun e f => e.1 < f.1)

theorem closable_congr {s u : State} {t : TrackId} {j : Nat} (h : u.track t = s.track t) :
    u.closable t j ↔ s.closable t j := by
  unfold State.closable
  rw [h]

/-- Closing the tracks of a list spares all but their closable layers. -/
theorem closeTracks_spares (k : Cut) (stop : Bool) (l : List TrackId) : ∀ {s : State}, l.Nodup →
    SparesAll l (fun j => ∃ t ∈ l, s.closable t j) s (s.closeTracks k stop l) := by
  induction l with
  | nil => exact fun _ => ⟨fun _ _ => rfl, fun _ _ => rfl, fun _ h => h, fun _ _ _ => rfl, fun _ h => h, rfl, fun h => h⟩
  | cons t l ih =>
    intro s hnd
    obtain ⟨ht, hl⟩ := List.nodup_cons.mp hnd
    have h₁ := closeAtCut_spares t k stop s
    have h₂ := ih (s := s.closeAtCut t k stop) hl
    have hown : ∀ j, (¬ ∃ t' ∈ t :: l, s.closable t' j) → ¬ s.closable t j
        ∧ ¬ ∃ t' ∈ l, (s.closeAtCut t k stop).closable t' j := by
      intro j hj
      refine ⟨fun h => hj ⟨t, List.mem_cons_self, h⟩, ?_⟩
      rintro ⟨t', ht', h⟩
      have hne : t' ≠ t := by
        rintro rfl
        exact ht ht'
      exact hj ⟨t', List.mem_cons_of_mem _ ht', (closable_congr (h₁.track t' hne)).mp h⟩
    refine ⟨fun t' ht' => ?_, fun j hj => ?_, fun j hj => h₂.absent j (h₁.absent j hj), fun j hj i => ?_,
      fun i hi => h₂.freed i (h₁.freed i hi), h₂.fold.trans h₁.fold, fun hs => h₂.sorted (h₁.sorted hs)⟩
    · obtain ⟨hne, hnl⟩ := not_or.mp (mt List.mem_cons.mpr ht')
      exact (h₂.track t' hnl).trans (h₁.track t' hne)
    · exact (h₂.layer j (hown j hj).2).trans (h₁.layer j (hown j hj).1)
    · exact (h₂.record j (hown j hj).2 i).trans (h₁.record j (hown j hj).1 i)

/-- A track without an open layer stands as the tracks are closed. -/
theorem closeTracks_idleTrack (k : Cut) (stop : Bool) {t : TrackId} (l : List TrackId) :
    ∀ {s : State}, (s.track t).openLayer = none → (s.closeTracks k stop l).track t = s.track t := by
  induction l with
  | nil => exact fun _ => rfl
  | cons x l ih =>
    intro s h
    have hx : (s.closeAtCut x k stop).track t = s.track t := by
      by_cases hxt : t = x
      · rw [← hxt, closeAtCut_idle h]
      · exact (closeAtCut_spares x k stop s).track t hxt
    exact (ih (by rwa [hx])).trans hx

theorem closeTracks_append (k : Cut) (stop : Bool) (l m : List TrackId) :
    ∀ s : State, s.closeTracks k stop (l ++ m) = (s.closeTracks k stop l).closeTracks k stop m := by
  induction l with
  | nil => exact fun _ => rfl
  | cons t l ih => exact fun s => ih _

/-- One track's close among those of all tracks, where no other track's close may touch its layer: what comes before it
leaves its track and layer as they were, and what comes after it leaves them as it made them. -/
theorem closeTracks_split {t : TrackId} {id : Nat} {s : State} (k : Cut) (stop : Bool)
    (hothers : ∀ t', t' ≠ t → ¬ s.closable t' id) :
    ∃ v w : State, s.closeTracks k stop (List.finRange 6) = w
      ∧ v.track t = s.track t ∧ v.layer? id = s.layer? id
      ∧ (∀ i : Fin 12, CapRec.ofLayer id v.capture.records[i] = CapRec.ofLayer id s.capture.records[i])
      ∧ (s.layers.Pairwise (fun e f => e.1 < f.1) → v.layers.Pairwise (fun e f => e.1 < f.1))
      ∧ (s.cycle.state ≠ .defining → v.cycle = s.cycle)
      ∧ w.track t = (v.closeAtCut t k stop).track t ∧ w.layer? id = (v.closeAtCut t k stop).layer? id
      ∧ (∀ i : Fin 12, (v.closeAtCut t k stop).capture.records[i] = none → w.capture.records[i] = none)
      ∧ ∀ i : Fin 12, CapRec.ofLayer id w.capture.records[i] =
        CapRec.ofLayer id (v.closeAtCut t k stop).capture.records[i] := by
  obtain ⟨a, b, hab⟩ := List.append_of_mem (List.mem_finRange t)
  have hnd : (a ++ t :: b).Nodup := hab ▸ List.nodup_finRange 6
  obtain ⟨hna, hntb, hdis⟩ := List.nodup_append.mp hnd
  obtain ⟨htb, hnb⟩ := List.nodup_cons.mp hntb
  have hta : t ∉ a := fun h => hdis t h t List.mem_cons_self rfl
  have ha := closeTracks_spares k stop a (s := s) hna
  have hc := closeAtCut_spares t k stop (s.closeTracks k stop a)
  have hb := closeTracks_spares k stop b (s := (s.closeTracks k stop a).closeAtCut t k stop) hnb
  have hia : ¬ ∃ t' ∈ a, s.closable t' id := by
    rintro ⟨t', ht', h⟩
    refine hothers t' ?_ h
    rintro rfl
    exact hta ht'
  have hib : ¬ ∃ t' ∈ b, ((s.closeTracks k stop a).closeAtCut t k stop).closable t' id := by
    rintro ⟨t', ht', h⟩
    have hne : t' ≠ t := by
      rintro rfl
      exact htb ht'
    have hnota : t' ∉ a := fun h' => hdis t' h' t' (List.mem_cons_of_mem _ ht') rfl
    exact hothers t' hne ((closable_congr ((hc.track t' hne).trans (ha.track t' hnota))).mp h)
  refine ⟨s.closeTracks k stop a, _, rfl, ha.track t hta, ha.layer id hia, ha.record id hia, ha.sorted,
    fun hd => closeTracks_cyc _ _ _ _ hd, ?_⟩
  rw [hab, closeTracks_append]
  exact ⟨hb.track t htb, hb.layer id hib, hb.freed, hb.record id hib⟩

/-! ### The pause (R21, R149) -/

/-- The pause aims the buffers in use at 0. -/
theorem reaimAllZero_layer? (s : State) (id : Nat) : s.reaimAllZero.layer? id = (s.layer? id).map fun l =>
    if s.bufInUse id l then { l with buf := ReadBuf.aimed 0 } else l := by
  have h : (fun e : Nat × Layer => if s.bufInUse e.1 e.2 then (e.1, { e.2 with buf := ReadBuf.aimed 0 }) else e) =
      fun e => (e.1, if s.bufInUse e.1 e.2 then { e.2 with buf := ReadBuf.aimed 0 } else e.2) := by
    funext e
    split <;> rfl
  simp only [State.layer?, State.reaimAllZero, h]
  exact assocFind_map id (fun id l => if s.bufInUse id l then { l with buf := ReadBuf.aimed 0 } else l) s.layers

/-- What the pause of a RUNNING cycle changes. -/
theorem pauseCycle_eq {s : State} (h : s.cycle.state = .running) : ∃ m a pa pb, s.pauseCycle =
    { s with
      cycle := { s.cycle with
        state := .paused, pos := 0, pass := 0, origin := false, gen := (s.cycle.gen + 1) % 65536 }
      layers := s.reaimAllZero.layers, mixer := m, audio := a, portA := pa, portB := pb } := by
  unfold State.pauseCycle
  rw [setCycle_moved (by simp [h])]
  exact ⟨_, _, _, _, rfl⟩

/-- An action that is not a transport action acts at once at the current frame alone (R18, R19). -/
theorem dueFrom_atOnce_current {c : Cycle} {len age : Nat} {a : Action} {q : Quantum} {press : PressTime} {e : Eff}
    (ha : a.isTransport = false) (h : c.dueFrom len a q press age = some (.atOnce e)) : e = c.current := by
  unfold Cycle.dueFrom Cycle.passed at h
  simp only [ha, Bool.false_eq_true, if_false] at h
  (repeat' split at h) <;> simp_all

theorem dueOf_atOnce_current {a : Action} {q : Quantum} {press : PressTime} {e : Eff} {s : State}
    (ha : a.isTransport = false) (h : s.dueOf a q press = .atOnce e) : e = s.cycle.current := by
  have hget : ∀ {o : Option Due} {d : Due}, (o = some (.atOnce e) → e = s.cycle.current) →
      (d = .atOnce e → e = s.cycle.current) → o.getD d = .atOnce e → e = s.cycle.current := by
    intro o d ho hd hod
    cases o with
    | none => exact hd hod
    | some x => exact ho (congrArg some hod)
  have hcur : Due.atOnce s.cycle.current = .atOnce e → e = s.cycle.current := fun h => (Due.atOnce.inj h).symm
  unfold State.dueOf at h
  dsimp only at h
  split at h
  · split at h
    · cases h
    · exact hcur h
  · split at h
    · split at h
      · cases h
      · exact hcur h
    · next len _ _ =>
      split at h
      · exact hcur h
      · have hafresh := hget (o := s.cycle.dueFrom len a q s.pressNow 0) (dueFrom_atOnce_current ha) hcur
        split at h
        · exact hget (dueFrom_atOnce_current ha) hafresh h
        · exact hafresh h
    · exact hcur h

/-! ### STOP ALL on a RUNNING cycle (R21) -/

/-- What one track's close at the next frame to arrive makes of its track, its layer and its capture record. -/
theorem closeAtCut_kept {t : TrackId} {id n len : Nat} {l : Layer} {r : CapRec} {s : State}
    (hc : s.cycle.state = .running) (hlen : s.cycle.len = some len) (ho : (s.track t).openLayer = some id)
    (hl : s.layer? id = some l) (hr : s.recordOf id = some r)
    (hn : n = stampSub (stampAdd s.cycle.frameCount 1) r.startStamp) (h0 : n ≠ 0) {span start kept : Nat}
    (hk : (s.track t).state ≠ .recording → kept = n)
    (hf : (s.track t).state = .recording →
      ∃ pass pos, l.start = .first pass pos ∧ fixSpan len pass pos n = (span, start, kept)) :
    (s.closeAtCut t .next false).track t = { s.track t with
        state := .playing
        span := if (s.track t).state = .recording then some span else (s.track t).span
        heldSpan := if (s.track t).state = .recording then none else (s.track t).heldSpan
        openLayer := none, marker := none }
      ∧ (∃ b, (s.closeAtCut t .next false).layer? id = some { l.cutTo kept with
        state := .closed
        start := if (s.track t).state = .recording then .at start else l.start
        tail := true, buf := b })
      ∧ (s.closeAtCut t .next false).capture = (s.endCapture id kept).capture := by
  have hlen' : s.cycle.state = .running → s.cycle.len.isSome = true := fun _ => by simp [hlen]
  by_cases hst : (s.track t).state = .recording
  · obtain ⟨pass, pos, hs, hfix⟩ := hf hst
    have hclose := closeAtCut_first hc hlen hst ho hl hs hr hn h0
    dsimp only at hclose
    rw [hfix] at hclose
    obtain ⟨htr, hla, hcap⟩ :=
      keepFirst_kept (t := t) (fix := (span, start, kept)) (fresh := decide (kept = n)) hl hlen'
    rw [hclose, htr, hla, hcap]
    simp only [hst, if_true]
    exact ⟨trivial, ⟨_, rfl⟩, trivial⟩
  · obtain rfl := hk hst
    have hclose : s.closeAtCut t .next false = s.closeLayered t id kept true := by
      rw [closeAtCut_next ho hr, ← hn]
      unfold State.closeOpen
      rw [ho]
      dsimp only
      rw [if_neg hst, if_neg h0]
    rw [hclose, closeLayered_eq, keepLayer_capture hl, keepLayer_layer? hl hlen', keepLayer_track hl, if_pos rfl]
    simp only [hst, if_false]
    exact ⟨trivial, ⟨_, rfl⟩, trivial⟩

/-- Settles O21: PLAY ALL and STOP ALL where they change the cycle timer alone, and STOP ALL's closes and pause. -/
theorem playAllAndStopAll : Obligations.PlayAllAndStopAll := by
  unfold Obligations.PlayAllAndStopAll
  refine ⟨?_, ?_⟩
  · intro h q s hs hpart hq
    obtain ⟨x, hx⟩ := argQuantum_valid hq
    have hv : BesideCues s ((s.handedOn h 21).supersedeSlot none .all) :=
      (BesideCues.handedOn h 21 s).trans (BesideCues.supersedeSlot none .all _)
    refine ⟨?_, ?_, ?_, ?_⟩
    · rintro hc v rfl
      refine exec_actionRequest_current (a := .playAll) (tb := 0) (target := none) hs hx rfl ?_ ?_
      · rw [dueOf_paused hpart hc]
        rfl
      · show State.actPlayAll ((s.handedOn h 21).supersedeSlot none .all) = _
        unfold State.actPlayAll
        rw [hv.cycle, hc]
        dsimp only
        rw [setCycle_moved (by simp [hv.cycle, hc])]
        unfold State.movedTo
        rw [hv.cycle]
        rfl
    · intro hc
      refine exec_actionRequest_refused (a := .playAll) (tb := 0) (target := none) hs hx rfl (by decide)
        (quantised_refusedAtOnce ((dueOf_handedOn _ _ _ _ _ _).trans (dueOf_unfixed hpart hc)) ?_)
      exact act_refusesAtOnce (.inr ⟨rfl, hc⟩)
    · intro y e hc hy hd
      obtain rfl := dueOf_atOnce_current rfl hd
      refine exec_actionRequest_current (a := .playAll) (tb := 0) (target := none) hs hy rfl hd ?_
      show State.actPlayAll ((s.handedOn h 21).supersedeSlot none .all) = _
      unfold State.actPlayAll
      rw [hv.cycle, hc]
      rfl
    · intro hc
      refine exec_actionRequest_current (a := .stopAll) (tb := 0) (target := none) hs hx rfl ?_ ?_
      · obtain hc | hc := hc
        · exact dueOf_unfixed hpart (.inl hc)
        · rw [dueOf_paused hpart hc]
          rfl
      · show Except.ok (((s.handedOn h 22).supersedeSlot none .all).actStopAll .next) = _
        unfold State.actStopAll
        rw [((BesideCues.handedOn h 22 s).trans (BesideCues.supersedeSlot none .all _)).cycle]
        obtain hc | hc := hc <;> rw [hc] <;> rfl
  · intro h len s hs hpart hc hlen
    obtain ⟨x, hx, e⟩ := exec_stopAll_current hs (q := .none) (qb := 0) rfl (dueOf_none hpart hc hlen)
    have hcx : x.cycle.state = .running := by rw [hx.cycle, hc]
    have hdx : x.cycle.state ≠ .defining := by simp [hcx]
    have hlx : x.cycle.len = some len := by rw [hx.cycle, hlen]
    obtain ⟨w, hw⟩ : ∃ w, w = x.closeTracks .next false (List.finRange 6) := ⟨_, rfl⟩
    have hy : BesideCues w (w.dropAllCues .stopped) := BesideCues.dropCues _ _ _
    have hcw : w.cycle = s.cycle := by rw [hw, closeTracks_cyc _ _ _ _ hdx, hx.cycle]
    have hsp := closeTracks_spares .next false (List.finRange 6) (s := x) (List.nodup_finRange 6)
    rw [← hw] at hsp
    have hstop : x.actStopAll .next = (w.dropAllCues .stopped).pauseCycle := by
      unfold State.actStopAll
      rw [hcx, hw]
    obtain ⟨m, a, pa, pb, hp⟩ := pauseCycle_eq (s := w.dropAllCues .stopped) (by rw [hy.cycle, hcw, hc])
    have hpower : (x.actStopAll .next).power = s.power := by
      rw [hstop, hp]
      show (w.dropAllCues .stopped).power = _
      rw [dropAllCues_power, hw, closeTracks_power, hx.power]
    have hwords : (x.actStopAll .next).mem.words = s.mem.words := by
      rw [hstop, hp]
      show (w.dropAllCues .stopped).mem.words = _
      rw [dropAllCues_words, hw, closeTracks_words, hx.mem]
    have htrack : ∀ t, (x.actStopAll .next).track t = w.track t := by
      intro t
      rw [hstop, hp]
      exact hy.track t
    have hcapture : (x.actStopAll .next).capture = w.capture := by
      rw [hstop, hp]
      exact hy.capture
    have hlayer : ∀ id, (x.actStopAll .next).layer? id = (w.layer? id).map fun l =>
        if (w.dropAllCues .stopped).bufInUse id l then { l with buf := ReadBuf.aimed 0 } else l := by
      intro id
      rw [hstop, hp, ← hy.layer? id]
      exact reaimAllZero_layer? _ id
    refine ⟨_, e, ?_, ?_, hpower, hwords, fun t ht => ?_, ?_, ?_⟩
    · rw [hstop, hp]
      simp only [hy.cycle, hcw]
    · rw [hstop, hp]
      exact (dropAllCues_cues _ _).1
    · rw [htrack, hw, closeTracks_idleTrack _ _ _ (by rw [hx.track, ht]), hx.track]
    · intro t id n l r ho hl hr hn hothers
      obtain ⟨v, w', hw', htv, hlv, hrv, hsv, hcv, htw, hlw, hfw, hrw⟩ := closeTracks_split (t := t) (id := id) (s := x)
        .next false (by
          intro t' ht' hcl
          obtain ⟨hol, hml⟩ := hothers t' ht'
          obtain hcl | ⟨m, hm, hcl⟩ := (closable_congr (hx.track t')).mp hcl
          · exact hol hcl
          · obtain hcl | hcl := hcl
            · exact (hml m hm).1 hcl
            · exact (hml m hm).2 hcl)
      obtain rfl := hw'.symm.trans hw.symm
      have hcv' := hcv hdx
      have hov : (v.track t).openLayer = some id := by rw [htv, hx.track, ho]
      have hlv' : v.layer? id = some l := by rw [hlv, hx.layer?, hl]
      have hrv' : v.recordOf id = some r := by rw [recordOf_congr hrv, hx.recordOf, hr]
      have hstv : (v.track t).state = (s.track t).state := by rw [htv, hx.track]
      have hnv : n = stampSub (stampAdd v.cycle.frameCount 1) r.startStamp := by rw [hcv', hx.cycle, hn]
      refine ⟨fun h0 hsorted => ?_, fun h0 span start kept hk hf => ?_⟩
      · obtain ⟨hg, hgo, hgm⟩ := closeOpen_nothing (t := t) (before := 0) (fresh := true) (stop := false)
          (by rwa [hcv']) hov hlv' (hsv (by rwa [hx.layers]))
        have hclose : v.closeAtCut t .next false = v.closeOpen t 0 0 true false := by
          rw [closeAtCut_next hov hrv', ← hnv, h0]
        rw [htrack, htw, hlayer, hlw, hclose, hg]
        exact ⟨rfl, hgo, hgm⟩
      · obtain ⟨htr, ⟨b, hla⟩, hcap⟩ := closeAtCut_kept (t := t) (n := n) (span := span) (start := start) (kept := kept)
          (by rw [hcv', hcx]) (by rw [hcv', hlx]) hov hlv' hrv' hnv h0 (by rwa [hstv]) (by rwa [hstv])
        refine ⟨?_, ⟨_, ?_, rfl⟩, fun i q hq hql => ?_⟩
        · rw [htrack, htw, htr, htv, hx.track]
        · rw [hlayer, hlw, hla, hstv]
          rfl
        · have hqv : v.capture.records[i] = some q := by
            refine (ofLayer_eq_some.mp ((hrv i).trans ?_)).1
            rw [hx.capture]
            exact ofLayer_eq_some.mpr ⟨hq, hql⟩
          rw [hcapture]
          obtain hnone | ⟨q', hq', hql', hph, hss, hse⟩ := endCapture_at (n := kept) (by simp [hrv']) hqv hql
          · rw [← hcap] at hnone
            exact .inl (hfw i hnone)
          · rw [← hcap] at hq'
            exact .inr ⟨q', (ofLayer_eq_some.mp ((hrw i).trans (ofLayer_eq_some.mpr ⟨hq', hql'⟩))).1, hph, hse⟩
    · intro id l hl hst hothers
      have hlw : w.layer? id = some l := by
        rw [hsp.layer id, hx.layer?, hl]
        rintro ⟨t, -, hcl⟩
        obtain ⟨hol, hml⟩ := hothers t
        obtain hcl | ⟨m, hm, hcl⟩ := (closable_congr (hx.track t)).mp hcl
        · exact hol hcl
        · obtain hcl | hcl := hcl
          · exact (hml m hm).1 hcl
          · exact (hml m hm).2 hcl
      have hused : (w.dropAllCues .stopped).bufInUse id l = true ↔ s.BufferUsed id l := by
        rw [bufInUse_iff]
        unfold State.BufferUsed
        rw [hy.fold, hsp.fold, hx.fold]
        simp [hst]
      rw [hlayer, hlw]
      refine ⟨fun hb => ?_, fun hb => ?_⟩
      · rw [Option.map_some, if_pos (hused.mpr hb)]
        rfl
      · rw [Option.map_some, if_neg (mt hused.mp hb)]

end Sys2Proof.Machine


/-! # CLEAR ALL (R23, R28, R50) -/

namespace Sys2Proof.Machine

open Sys2Proof

theorem mem_of_assocFind {α : Type} {k : Nat} {v : α} {l : List (Nat × α)} (h : assocFind k l = some v) : (k, v) ∈ l := by
  induction l with
  | nil => cases h
  | cons x l ih =>
    unfold assocFind at h
    split at h
    · next e =>
      obtain rfl := Option.some.inj h
      subst e
      exact List.mem_cons_self
    · exact List.mem_cons_of_mem _ (ih h)

/-! ### Pools whose capture records and windows are of layers in use -/

/-- The layer pool in canonical form, with capture records and windows of layers in use alone (R27). -/
structure Tidy (s : State) : Prop where
  sorted : s.layers.Pairwise (fun e f => e.1 < f.1)
  records : ∀ (i : Fin 12) (r : CapRec), s.capture.records[i] = some r → (s.layer? r.layer).isSome = true
  windows : ∀ (p : Port) (w : Window), s.window p = some w → (s.layer? w.layer).isSome = true

theorem PoolsWithin.tidy {s : State} (h : PoolsWithin s) : Tidy s := ⟨h.ids, h.records, h.windows⟩

theorem Tidy.freeLayer {s : State} (h : Tidy s) (c : LostCause) (id : Nat) : Tidy (s.freeLayer c id) := by
  cases hl : s.layer? id with
  | none => rwa [freeLayer_none hl]
  | some l =>
    have hf := freedAs_freeLayer (c := c) h.sorted hl
    refine ⟨hf.sorted h.sorted, fun i r hr => ?_, fun p w hw => ?_⟩
    · rw [hf.recs, Option.bind_eq_some_iff] at hr
      obtain ⟨q, hq, hqr⟩ := hr
      rw [Option.ite_none_left_eq_some, Option.some.injEq] at hqr
      obtain ⟨hn, rfl⟩ := hqr
      rw [hf.layer, if_neg hn]
      exact h.records i q hq
    · rw [hf.win, Option.bind_eq_some_iff] at hw
      obtain ⟨q, hq, hqw⟩ := hw
      rw [Option.ite_none_left_eq_some, Option.some.injEq] at hqw
      obtain ⟨hn, rfl⟩ := hqw
      rw [hf.layer, if_neg hn]
      exact h.windows p q hq

/-- A pool without layers has no capture record and no window in use. -/
theorem Tidy.empty {s : State} (h : Tidy s) (hl : ∀ j, s.layer? j = none) :
    s.layers = [] ∧ (∀ i : Fin 12, s.capture.records[i] = none) ∧ ∀ p, s.window p = none := by
  refine ⟨?_, fun i => ?_, fun p => ?_⟩
  · cases e : s.layers with
    | nil => rfl
    | cons x l =>
      have := hl x.1
      simp [State.layer?, e, assocFind] at this
  · refine Option.eq_none_iff_forall_not_mem.mpr fun r hr => ?_
    have := h.records i r hr
    simp [hl] at this
  · refine Option.eq_none_iff_forall_not_mem.mpr fun w hw => ?_
    have := h.windows p w hw
    simp [hl] at this

/-- A fold abandoned for a clearing: its result freed and the pair left to the caller (R48). -/
theorem abandonFold_cleared {f : Fold} {s : State} (hf : s.fold = some f) : s.abandonFold .cleared [] =
    (let r := (State.freeLayer .cleared f.result (State.setWait .fold Wait.idle { s with fold := none })).raise
       .foldAbandoned (some f.track) (some f.result) FoldCause.cleared.ctorIdx
     if (r.track f.track).stack.length ≤ 8 then r
     else
       ((r.freeLayer .retired f.older).modTrack f.track (Track.dropLayer f.older)).raise .layerRetired none
         (some f.older) (((r.layer? f.older).map Layer.gain).getD 0)) := by
  unfold State.abandonFold
  rw [hf]
  simp only [if_true]

/-! ### Steps of the clearing -/

/-- What each step of the clearing of all tracks keeps: the faults, what clearing leaves of each track, the absence of a
fold and of each layer, and a tidy pool. -/
structure Clearing (s u : State) : Prop where
  faults : u.faults = s.faults
  track : ∀ t, (u.track t).cleared = (s.track t).cleared
  fold : s.fold = none → u.fold = none
  absent : ∀ j, s.layer? j = none → u.layer? j = none
  tidy : Tidy s → Tidy u

namespace Clearing

variable {s u v : State}

theorem refl (s : State) : Clearing s s := ⟨rfl, fun _ => rfl, fun h => h, fun _ h => h, fun h => h⟩

theorem trans (h : Clearing s u) (h' : Clearing u v) : Clearing s v :=
  ⟨h'.faults.trans h.faults, fun t => (h'.track t).trans (h.track t), fun hf => h'.fold (h.fold hf),
    fun j hj => h'.absent j (h.absent j hj), fun ht => h'.tidy (h.tidy ht)⟩

theorem freeLayer (h : Clearing s u) (c : LostCause) (id : Nat) : Clearing s (u.freeLayer c id) := by
  refine h.trans ⟨?_, fun t => ?_, fun hf => ?_, fun j hj => ?_, fun ht => ht.freeLayer c id⟩
  · cases hl : u.layer? id with
    | none => rw [freeLayer_none hl]
    | some l =>
      obtain ⟨m, a, b, e⟩ := freeLayer_eq (c := c) hl
      rw [e]
      rfl
  · rw [freeLayer_track]
  · exact ((Spares.refl 0 (fun _ => True) u).freeLayer c trivial).fold.trans hf
  · exact ((Spares.refl 0 (fun _ => True) u).freeLayer c trivial).absent j hj

theorem freeAll (c : LostCause) (ids : List Nat) : ∀ {u : State}, Clearing s u → Clearing s (u.freeAll c ids) := by
  induction ids with
  | nil => exact fun h => h
  | cons id ids ih => exact fun h => ih (h.freeLayer c id)

theorem raise (h : Clearing s u) (k : EventKind) (t : Option TrackId) (l : Option Nat) (d : Nat) :
    Clearing s (u.raise k t l d) :=
  h.trans ⟨rfl, fun _ => rfl, fun hf => hf, fun _ hj => hj, fun ht => ⟨ht.sorted, ht.records, ht.windows⟩⟩

theorem setWait (h : Clearing s u) (who : Background) (w : Wait) : Clearing s (u.setWait who w) := by
  cases who <;>
    exact h.trans ⟨rfl, fun _ => rfl, fun hf => hf, fun _ hj => hj, fun ht => ⟨ht.sorted, ht.records, fun p x hx =>
      ht.windows p x (by cases p <;> exact hx)⟩⟩

theorem endFold (h : Clearing s u) : Clearing s { u with fold := none } :=
  h.trans ⟨rfl, fun _ => rfl, fun _ => rfl, fun _ hj => hj, fun ht => ⟨ht.sorted, ht.records, fun p x hx =>
    ht.windows p x (by cases p <;> exact hx)⟩⟩

theorem modTrack (h : Clearing s u) (t : TrackId) {f : Track → Track} (hf : ∀ tr, (f tr).cleared = tr.cleared) :
    Clearing s (u.modTrack t f) := by
  refine h.trans ⟨rfl, fun t' => ?_, fun hf => hf, fun _ hj => hj, fun ht => ⟨ht.sorted, ht.records, fun p x hx =>
    ht.windows p x (by cases p <;> exact hx)⟩⟩
  rw [track_modTrack]
  split
  · next e =>
    subst e
    exact hf _
  · rfl

theorem cleared_dropLayer (id : Nat) (tr : Track) : (tr.dropLayer id).cleared = tr.cleared := rfl

theorem cleared_cleared (tr : Track) : tr.cleared.cleared = tr.cleared := rfl

/-- The fold abandoned for a clearing: what follows the engine's stop (R48). -/
theorem endedFold {f : Fold} (hf : s.fold = some f) : Clearing { s with fold := none } (s.abandonFold .cleared []) := by
  have hr := (((Clearing.refl { s with fold := none }).setWait .fold Wait.idle).freeLayer .cleared f.result)
  rw [abandonFold_cleared hf]
  dsimp only
  split
  · exact hr.raise _ _ _ _
  · exact (((hr.raise _ _ _ _).freeLayer _ _).modTrack _ (cleared_dropLayer _)).raise _ _ _ _

theorem abandonFold (h : Clearing s u) : Clearing s (u.abandonFold .cleared []) := by
  cases hf : u.fold with
  | none =>
    unfold State.abandonFold
    rw [hf]
    exact h
  | some f => exact h.endFold.trans (endedFold hf)

theorem emptyTrack (h : Clearing s u) (t : TrackId) : Clearing s (u.emptyTrack t) := by
  unfold State.emptyTrack
  dsimp only
  have hf : Clearing s (match u.fold with
      | some f => if f.track = t then u.abandonFold .cleared [] else u
      | none => u) := by
    split
    · split
      · exact h.abandonFold
      · exact h
    · exact h
  exact (freeAll _ _ hf).modTrack t cleared_cleared

theorem emptyTracks (l : List TrackId) : ∀ {u : State}, Clearing s u → Clearing s (u.emptyTracks l) := by
  induction l with
  | nil => exact fun h => h
  | cons t l ih => exact fun h => ih (h.emptyTrack t)

theorem raiseEmptied (old : Vector Track 6) (l : List TrackId) :
    ∀ {u : State}, Clearing s u → Clearing s (u.raiseEmptied old l) := by
  induction l with
  | nil => exact fun h => h
  | cons t l ih =>
    intro u h
    unfold State.raiseEmptied
    split
    · exact ih h
    · exact ih (h.raise _ _ _ _)

end Clearing

/-! ### Emptied tracks -/

theorem freeAll_track (c : LostCause) (ids : List Nat) (t : TrackId) : ∀ s : State, (s.freeAll c ids).track t = s.track t := by
  induction ids with
  | nil => exact fun _ => rfl
  | cons id ids ih => exact fun s => (ih _).trans (freeLayer_track c id t s)

/-- Layers freed one after the other are gone (R28). -/
theorem freeAll_gone (c : LostCause) {j : Nat} (ids : List Nat) :
    ∀ {s : State}, Tidy s → j ∈ ids → (s.freeAll c ids).layer? j = none := by
  induction ids with
  | nil => exact fun _ h => by cases h
  | cons id ids ih =>
    intro s ht hj
    obtain rfl | hj := List.mem_cons.mp hj
    · exact (Clearing.freeAll c ids (Clearing.refl _)).absent _ (freeLayer_gone c _ ht.sorted)
    · exact ih (ht.freeLayer c id) hj

theorem emptyTrack_eq {t : TrackId} {s : State} (h : s.fold = none) : s.emptyTrack t =
    (s.freeAll .cleared ((stackIds (s.track t).stack).reverse ++ (s.track t).redo)).modTrack t Track.cleared := by
  unfold State.emptyTrack
  rw [h]

theorem emptyTrack_track {t : TrackId} {s : State} (h : s.fold = none) (t' : TrackId) :
    (s.emptyTrack t).track t' = if t = t' then (s.track t).cleared else s.track t' := by
  rw [emptyTrack_eq h, track_modTrack, freeAll_track, freeAll_track]

/-- With no fold running, every track listed is emptied (R50). -/
theorem emptyTracks_track {t : TrackId} (l : List TrackId) : ∀ {s : State}, s.fold = none → t ∈ l →
    (s.emptyTracks l).track t = (s.track t).cleared := by
  have kept : ∀ (l : List TrackId) {s : State}, s.fold = none → s.track t = (s.track t).cleared →
      (s.emptyTracks l).track t = s.track t := by
    intro l
    induction l with
    | nil => exact fun _ _ => rfl
    | cons x l ih =>
      intro s hf hc
      have hx : (s.emptyTrack x).track t = s.track t := by
        rw [emptyTrack_track hf]
        split
        · next e =>
          subst e
          exact hc.symm
        · rfl
      exact (ih (((Clearing.refl s).emptyTrack x).fold hf) (by rwa [hx])).trans hx
  induction l with
  | nil => exact fun _ h => by cases h
  | cons x l ih =>
    intro s hf hm
    have hf' := ((Clearing.refl s).emptyTrack x).fold hf
    by_cases hx : x = t
    · have htr : (s.emptyTrack x).track t = (s.track t).cleared := by
        rw [emptyTrack_track hf, if_pos hx, hx]
      exact (kept l hf' (by rw [htr]; rfl)).trans htr
    · refine (ih hf' (List.mem_of_ne_of_mem (Ne.symm hx) hm)).trans ?_
      rw [emptyTrack_track hf, if_neg hx]

/-- With no fold running, the layers of every track listed are gone (R50). -/
theorem emptyTracks_gone {t : TrackId} {j : Nat} (l : List TrackId) : ∀ {s : State}, s.fold = none → Tidy s → t ∈ l →
    (j ∈ stackIds (s.track t).stack ∨ j ∈ (s.track t).redo) → (s.emptyTracks l).layer? j = none := by
  induction l with
  | nil => exact fun _ _ h => by cases h
  | cons x l ih =>
    intro s hf ht hm hj
    have hstep := (Clearing.refl s).emptyTrack x
    by_cases hx : x = t
    · refine (Clearing.emptyTracks l (Clearing.refl (s.emptyTrack x))).absent j ?_
      rw [emptyTrack_eq hf, hx]
      exact freeAll_gone .cleared _ ht (by simpa using hj)
    · refine ih (hstep.fold hf) (hstep.tidy ht) (List.mem_of_ne_of_mem (Ne.symm hx) hm) ?_
      rwa [emptyTrack_track hf, if_neg hx]

/-! ### CLEAR ALL (R23, R50) -/

theorem RestKept.emptyTrack {s₀ s : State} (h : RestKept s₀ s) (t : TrackId) : RestKept s₀ (s.emptyTrack t) := by
  unfold State.emptyTrack
  dsimp only
  refine (RestKept.freeAll _ _ ?_).modTrack t _
  split
  · split
    · exact h.abandonFold _ _
    · exact h
  · exact h

theorem RestKept.emptyTracks {s₀ : State} (l : List TrackId) :
    ∀ {s : State}, RestKept s₀ s → RestKept s₀ (s.emptyTracks l) := by
  induction l with
  | nil => exact fun h => h
  | cons t l ih => exact fun h => ih (h.emptyTrack t)

theorem RestKept.raiseEmptied {s₀ : State} (old : Vector Track 6) (l : List TrackId) :
    ∀ {s : State}, RestKept s₀ s → RestKept s₀ (s.raiseEmptied old l) := by
  induction l with
  | nil => exact fun h => h
  | cons t l ih =>
    intro s h
    unfold State.raiseEmptied
    split
    · exact ih h
    · exact ih (h.raise _ _ _ _)

theorem raiseEmptied_same (old : Vector Track 6) (l : List TrackId) : ∀ s : State,
    (s.raiseEmptied old l).tracks = s.tracks ∧ (s.raiseEmptied old l).layers = s.layers := by
  induction l with
  | nil => exact fun _ => ⟨rfl, rfl⟩
  | cons t l ih =>
    intro s
    unfold State.raiseEmptied
    split
    · exact ih s
    · exact ih (s.raiseTrack t)

/-- The fold engine stopped for a clearing of every track (R48, R50). -/
def State.stopFold (s : State) : State :=
  match s.fold with
  | some _ => s.abandonFold .cleared []
  | none => s

theorem clearTracks_eq (s : State) : s.clearTracks =
    (s.stopFold.emptyTracks (List.finRange 6)).raiseEmptied s.tracks (List.finRange 6) := rfl

theorem stopFold_fold (s : State) : s.stopFold.fold = none := by
  unfold State.stopFold
  split
  · next hf => exact (Clearing.endedFold hf).fold rfl
  · next hf => exact hf

theorem stopFold_clearing (s : State) : Clearing s s.stopFold := by
  unfold State.stopFold
  split
  · exact (Clearing.refl s).abandonFold
  · exact Clearing.refl s

/-- Where no stack is over its bound, a stopped fold leaves the tracks and frees its result. -/
theorem stopFold_within {s : State} (h : Tidy s) (hs : ∀ t, (s.track t).stack.length ≤ 8) :
    (∀ t, s.stopFold.track t = s.track t) ∧ ∀ f, s.fold = some f → s.stopFold.layer? f.result = none := by
  unfold State.stopFold
  cases hf : s.fold with
  | none => exact ⟨fun _ => rfl, nofun⟩
  | some f =>
    have hw : ∀ t, (State.freeLayer .cleared f.result (State.setWait .fold Wait.idle { s with fold := none })).track t =
        s.track t := fun t => freeLayer_track _ _ t _
    have ht : Tidy (State.setWait .fold Wait.idle { s with fold := none }) :=
      (((Clearing.refl s).endFold).setWait .fold Wait.idle).tidy h
    have hg := freeLayer_gone .cleared f.result ht.sorted
    dsimp only
    rw [abandonFold_cleared hf]
    dsimp only
    rw [if_pos]
    · refine ⟨hw, fun f' e => ?_⟩
      obtain rfl := Option.some.inj e
      exact hg
    · show ((State.freeLayer .cleared f.result (State.setWait .fold Wait.idle { s with fold := none })).track
        f.track).stack.length ≤ 8
      rw [hw]
      exact hs _

/-- Clearing every track (R50): they are emptied, and within the pools' bounds no layer, capture record or window is
left. -/
theorem clearTracks_clears (s : State) :
    Clearing s s.clearTracks ∧ s.clearTracks.fold = none ∧ (∀ t, s.clearTracks.track t = (s.track t).cleared)
      ∧ (PoolsWithin s → s.clearTracks.layers = [] ∧ (∀ i : Fin 12, s.clearTracks.capture.records[i] = none)
        ∧ ∀ p, s.clearTracks.window p = none) := by
  have hd := stopFold_clearing s
  have he := Clearing.emptyTracks (List.finRange 6) (Clearing.refl s.stopFold)
  have hg := Clearing.raiseEmptied s.tracks (List.finRange 6) (Clearing.refl (s.stopFold.emptyTracks (List.finRange 6)))
  obtain ⟨htr, hla⟩ := raiseEmptied_same s.tracks (List.finRange 6) (s.stopFold.emptyTracks (List.finRange 6))
  rw [clearTracks_eq]
  refine ⟨(hd.trans he).trans hg, hg.fold (he.fold (stopFold_fold s)), fun t => ?_, fun hp => ?_⟩
  · simp only [State.track, htr]
    exact (emptyTracks_track _ (stopFold_fold s) (List.mem_finRange t)).trans (hd.track t)
  · have htidy : Tidy s.stopFold := hd.tidy hp.tidy
    obtain ⟨htrack, hresult⟩ := stopFold_within hp.tidy hp.stack
    refine Tidy.empty (hg.tidy (he.tidy htidy)) fun j => ?_
    simp only [State.layer?, hla]
    show (s.stopFold.emptyTracks (List.finRange 6)).layer? j = none
    cases hj : s.layer? j with
    | none => exact he.absent j (hd.absent j hj)
    | some l =>
      obtain ⟨t, ht⟩ | ⟨f, hf, rfl⟩ := hp.placed (j, l) (mem_of_assocFind hj)
      · exact emptyTracks_gone _ (stopFold_fold s) htidy (List.mem_finRange t) (by rwa [htrack])
      · exact he.absent _ (hresult f hf)

/-- The parts of CLEAR ALL outside layers and cues (R23, R116, R162). -/
theorem clearCycle_eq (s : State) : s.clearCycle = { s with
    cycle := { s.cycle with
      state := .empty, len := none, pos := 0, pass := 0, origin := false,
      tap := { count := 0, last := 0, sum := 0 }, ignoredTaps := 0,
      gen := if s.cycle.state = .empty then s.cycle.gen else (s.cycle.gen + 1) % 65536 }
    mixer := { s.mixer with burst := none, frontReported := false, earReported := false }
    audio := { s.audio with passErrors := 0, reported := false } } := by
  unfold State.clearCycle State.setCycle
  by_cases h : s.cycle.state = .empty
  · rw [if_pos h, if_pos h.symm]
    rfl
  · rw [if_neg h, if_neg (Ne.symm h)]
    rfl

theorem dropCues_settings (r : DropReason) (l : List Cue) : ∀ (s : State) (p : Port),
    ((s.dropCues r l).port p).settings = (s.port p).settings := by
  induction l with
  | nil => exact fun _ _ => rfl
  | cons c l ih =>
    intro s p
    refine (ih _ p).trans ?_
    cases p <;> exact offer_settings _ _

theorem handedOn_settings (h : Req) (code : Nat) (p : Port) (s : State) :
    ((s.handedOn h code).port p).settings = (s.port p).settings := by
  unfold State.handedOn State.setPort
  cases h.port <;> cases p <;> rfl

/-- Settles O22: the cycle timer first, then every layer and track, then the cue list. -/
theorem clearAllEmptiesThePart : Obligations.ClearAllEmptiesThePart := by
  unfold Obligations.ClearAllEmptiesThePart
  intro h q s hs hq
  obtain ⟨x, hx⟩ := argQuantum_valid hq
  obtain ⟨c, hc⟩ : ∃ c, c = (s.handedOn h 23).clearCycle := ⟨_, rfl⟩
  have hceq := hc.trans (clearCycle_eq _)
  obtain ⟨hclear, hfold, htrack, hgone⟩ := clearTracks_clears c
  have hrest : RestKept c c.clearTracks := by
    rw [clearTracks_eq]
    refine RestKept.raiseEmptied _ _ (RestKept.emptyTracks _ ?_)
    unfold State.stopFold
    split
    · exact (RestKept.refl c).abandonFold _ _
    · exact RestKept.refl c
  obtain ⟨hcycle, hmixer, haudio⟩ := hrest.quiet (by rw [hceq]; simp)
  obtain ⟨y, hydef⟩ : ∃ y, y = c.clearTracks.dropAllCues .cleared := ⟨_, rfl⟩
  have hy : BesideCues c.clearTracks y := hydef ▸ BesideCues.dropCues _ _ _
  have hport : ∀ p, (y.port p).settings = (s.port p).settings := by
    intro p
    refine (hydef ▸ dropCues_settings _ _ _ p : (y.port p).settings = (c.clearTracks.port p).settings).trans ?_
    have hcp : (c.port p).settings = (s.port p).settings := by
      rw [hceq]
      exact handedOn_settings h 23 p s
    cases p
    · exact hrest.portA.trans hcp
    · exact hrest.portB.trans hcp
  refine ⟨{ y.forgetRecent with fresh := [] }, ?_, ?_, fun t => ?_, hy.fold.trans hfold, ?_, ?_, ?_, ?_, ?_, ?_, ?_,
    fun p => ?_, ?_, ?_, ?_, fun hp => ?_⟩
  · refine congrArg Host.Outcome.next (request_answered hs (by decide) ?_)
    unfold ownClearAll
    rw [hx]
    dsimp only
    unfold State.actClearAll
    rw [hydef, hc]
    rfl
  · show y.cycle = _
    rw [hy.cycle, hcycle, hceq]
    simp
  · show y.track t = _
    rw [hy.track, htrack, hceq]
    exact congrArg Track.cleared (track_handedOn h 23 s t)
  · rw [hydef]
    exact (dropAllCues_cues _ _).1
  · rw [hydef]
    refine (dropAllCues_cues _ _).2.trans ?_
    rw [hrest.cues, hceq]
    simp
  · show { y.switches with recent := Vector.replicate 6 none } = _
    rw [hy.switches, hrest.switches, hceq]
    simp
  · show y.mixer = _
    rw [hy.mixer, hmixer, hceq]
    simp
  · show y.audio = _
    rw [hy.audio, haudio, hceq]
    simp
  · show y.mem.timeoutA = _
    rw [hy.mem, hrest.timeouts.1, hceq]
    simp
  · show y.mem.timeoutB = _
    rw [hy.mem, hrest.timeouts.2, hceq]
    simp
  · have hset := hport p
    simp only [PortCtl.settings, Prod.mk.injEq] at hset
    cases p <;> exact hset
  · show y.power = _
    rw [hy.power, clearTracks_power, hceq]
    simp
  · show y.faults = _
    rw [hy.faults, hclear.faults, hceq]
    simp
  · show y.mem.words = _
    rw [hy.mem, clearTracks_words, hceq]
    simp
  · have hpc : PoolsWithin c := by
      obtain ⟨q, a, b, e⟩ := BesideCues.handedOn h 23 s
      have hq : q = s.cues := by
        have := cues_handedOn h 23 s
        rwa [e] at this
      rw [hceq, e, hq]
      exact ⟨hp.ids, hp.range, hp.placed, hp.stack, hp.redo, hp.pairs, hp.records,
        fun p w hw => hp.windows p w (by cases p <;> exact hw), hp.cues, hp.slots⟩
    obtain ⟨hl, hr, hw⟩ := hgone hpc
    refine ⟨hy.layers.trans hl, fun i => ?_, fun p => ?_⟩
    · show y.capture.records[i] = none
      rw [hy.capture, hr]
    · rw [← hw p]
      cases p
      · exact congrArg MemCtl.windowA hy.mem
      · exact congrArg MemCtl.windowB hy.mem

end Sys2Proof.Machine


/-! # Opening a layer: the redo list freed, and the capture record found (R28, R32, R60, R67) -/

namespace Sys2Proof.Machine

open Sys2Proof

/-! ### States with the same blocks -/

/-- The parts of the state that tracks, layers, captures and the memory are held in, with the fault recorder. -/
def State.blocks (s : State) : Vector Track 6 × List (Nat × Layer) × List Nat × Option Fold × Capture × MemCtl × Faults :=
  (s.tracks, s.layers, s.fresh, s.fold, s.capture, s.mem, s.faults)

theorem BesideCues.blocks {s u : State} (h : BesideCues s u) : u.blocks = s.blocks := by
  obtain ⟨c, a, b, rfl⟩ := h
  rfl

/-- The memory controller once the window that a port has open on a layer is lost (R155). -/
def MemCtl.withoutWindow (id : Nat) (p : Port) (m : MemCtl) : MemCtl :=
  match p with
  | .a => if (m.windowA.map Window.layer) = some id then { m with windowA := none, waitA := Wait.idle } else m
  | .b => if (m.windowB.map Window.layer) = some id then { m with windowB := none, waitB := Wait.idle } else m

theorem completeReply_ports (p : Port) (st : Status) (l : List Byte) (s : State) :
    ∃ a b, s.completeReply p st l = { s with portA := a, portB := b } := by
  unfold State.completeReply State.fillReply State.setPort
  split
  · cases p <;> exact ⟨_, _, rfl⟩
  · exact ⟨_, _, rfl⟩

/-- Losing a port's window on a layer changes its window and wait, and besides only the port controllers (R28, R155). -/
theorem loseWindowOn_mem (id : Nat) (c : LostCause) (p : Port) (s : State) :
    ∃ a b, s.loseWindowOn id c p = { s with mem := s.mem.withoutWindow id p, portA := a, portB := b } := by
  unfold State.loseWindowOn MemCtl.withoutWindow
  cases hw : s.window p with
  | none =>
    cases p <;> simp only [State.window] at hw <;> simp only [hw] <;> exact ⟨_, _, rfl⟩
  | some w =>
    dsimp only
    by_cases hl : w.layer = id
    · have hlose : ∃ a b, s.loseWindow p c =
          { (s.setWindow p none).setWait (portBackground p) Wait.idle with portA := a, portB := b } := by
        unfold State.loseWindow
        rw [hw]
        dsimp only
        split
        · obtain ⟨a, b, e⟩ := completeReply_ports p (if c = .noMemory then .noMemory else .badState) w.writeResults
            (((s.setWindow p none).setWait (portBackground p) Wait.idle).raise .windowLost none (some w.layer)
              (portCode p + 16 * c.ctorIdx))
          rw [e]
          exact ⟨a, b, rfl⟩
        · exact ⟨_, _, rfl⟩
      obtain ⟨a, b, e⟩ := hlose
      rw [if_pos hl, e]
      refine ⟨a, b, ?_⟩
      cases p <;> simp only [State.window] at hw <;> simp [hw, hl, State.setWindow, State.setWait, portBackground]
    · rw [if_neg hl]
      cases p <;> simp only [State.window] at hw <;> simp [hw, hl] <;> exact ⟨_, _, rfl⟩

/-- The memory controller once a layer is freed (R28). -/
def MemCtl.withoutLayer (id : Nat) (l : Layer) (m : MemCtl) : MemCtl :=
  let m := ((m.withoutWindow id .a).withoutWindow id .b).giveBack l.extents l.suspects
  { m with queue := m.queue.filter (fun b => b.layer != id), grant := m.grant.map (Grant.orphan id) }

theorem freeLayer_mem {c : LostCause} {id : Nat} {s : State} {l : Layer} (hl : s.layer? id = some l) :
    ∃ a b, s.freeLayer c id = { s.dropRecord id with
      layers := assocErase id s.layers, fresh := s.fresh.filter (fun i => i != id), mem := s.mem.withoutLayer id l
      portA := a, portB := b } := by
  obtain ⟨a₁, b₁, e₁⟩ := loseWindowOn_mem id c .a s
  obtain ⟨a₂, b₂, e₂⟩ := loseWindowOn_mem id c .b (s.loseWindowOn id c .a)
  unfold State.freeLayer State.loseWindowsOn
  rw [hl]
  dsimp only
  rw [e₂, e₁]
  exact ⟨_, _, rfl⟩

theorem layer?_blocks {s u : State} (h : u.blocks = s.blocks) (id : Nat) : u.layer? id = s.layer? id := by
  simp only [State.blocks, Prod.mk.injEq] at h
  simp only [State.layer?, h]

theorem track_blocks {s u : State} (h : u.blocks = s.blocks) (t : TrackId) : u.track t = s.track t := by
  simp only [State.blocks, Prod.mk.injEq] at h
  simp only [State.track, h]

/-- Freeing a layer does the same to the same blocks, whatever the port controllers hold. -/
theorem freeLayer_blocks {s u : State} (h : u.blocks = s.blocks) (c : LostCause) (id : Nat) :
    (u.freeLayer c id).blocks = (s.freeLayer c id).blocks := by
  have hu := layer?_blocks h id
  cases hl : s.layer? id with
  | none => rwa [freeLayer_none hl, freeLayer_none (hu.trans hl)]
  | some l =>
    obtain ⟨a, b, e⟩ := freeLayer_mem (c := c) hl
    obtain ⟨a', b', e'⟩ := freeLayer_mem (c := c) (hu.trans hl)
    simp only [State.blocks, Prod.mk.injEq] at h
    obtain ⟨ht, hla, hfr, hfo, hc, hm, hf⟩ := h
    rw [e, e']
    simp only [State.blocks, State.dropRecord, ht, hla, hfr, hfo, hc, hm, hf]

theorem freeAll_blocks (c : LostCause) (ids : List Nat) :
    ∀ {s u : State}, u.blocks = s.blocks → (u.freeAll c ids).blocks = (s.freeAll c ids).blocks := by
  induction ids with
  | nil => exact fun h => h
  | cons id ids ih => exact fun h => ih (freeLayer_blocks h c id)

theorem holdsImport_blocks {s u : State} (h : u.blocks = s.blocks) (t : TrackId) : u.holdsImport t = s.holdsImport t := by
  have hi : u.isImporting = s.isImporting := by
    funext id
    unfold State.isImporting
    rw [layer?_blocks h]
  unfold State.holdsImport
  rw [track_blocks h, hi]

theorem modTrack_blocks {s u : State} (h : u.blocks = s.blocks) (t : TrackId) {f g : Track → Track}
    (hfg : ∀ tr, f tr = g tr) : (u.modTrack t f).blocks = (s.modTrack t g).blocks := by
  have htr := track_blocks h t
  simp only [State.blocks, Prod.mk.injEq] at h
  simp only [State.blocks, State.modTrack, State.setTrack, htr, hfg, h]

theorem freeRedo_blocks {s u : State} (h : u.blocks = s.blocks) (t : TrackId) :
    (u.freeRedo t).blocks = (s.freeRedo t).blocks := by
  have hf : (u.freeAll .undone (u.track t).redo.reverse).blocks =
      (s.freeAll .undone (s.track t).redo.reverse).blocks := by
    rw [track_blocks h]
    exact freeAll_blocks _ _ h
  unfold State.freeRedo
  exact modTrack_blocks hf t fun tr => by rw [holdsImport_blocks hf]

/-! ### The redo list freed (R28, R32) -/

theorem freeRedo_nil {t : TrackId} {s : State} (h : (s.track t).redo = []) : s.freeRedo t =
    s.setTrack t { s.track t with
      redo := [], heldSpan := if s.holdsImport t = true then (s.track t).heldSpan else none } := by
  unfold State.freeRedo
  rw [h]
  rfl

theorem freeRedo_track (t t' : TrackId) (s : State) : (s.freeRedo t).track t' =
    if t = t' then { s.track t with
      redo := []
      heldSpan := if (s.freeAll .undone (s.track t).redo.reverse).holdsImport t = true then (s.track t).heldSpan
        else none }
    else s.track t' := by
  unfold State.freeRedo
  dsimp only
  rw [track_modTrack, freeAll_track, freeAll_track]

/-- A layer that is not in use stays so as the redo list is freed. -/
theorem freeRedo_absent {t : TrackId} {id : Nat} {s : State} (h : s.layer? id = none) : (s.freeRedo t).layer? id = none :=
  (Clearing.freeAll .undone _ (Clearing.refl s)).absent id h

theorem isImporting_freed {ids : List Nat} {s v : State} (h : FreedAs ids s v)
    (hu : ∀ j ∈ ids, s.isImporting j = false) : v.isImporting = s.isImporting := by
  funext j
  have hj := hu j
  unfold State.isImporting at hj ⊢
  rw [h.layer]
  by_cases hm : j ∈ ids
  · rw [if_pos hm]
    exact (hj hm).symm
  · rw [if_neg hm]

/-- A redo list of UNDONE layers freed (R28, R32). -/
theorem freeRedo_freed {t : TrackId} {s : State} (hs : s.layers.Pairwise (fun x y => x.1 < y.1))
    (hn : (s.track t).redo.Nodup) (hu : ∀ j ∈ (s.track t).redo, ∃ l, s.layer? j = some l ∧ l.state = .undone) :
    ∃ f, FreedAs (s.track t).redo.reverse s f ∧ s.freeRedo t = f.modTrack t fun tr =>
      { tr with redo := [], heldSpan := if s.holdsImport t = true then tr.heldSpan else none } := by
  have hf := freedAs_freeAll (c := .undone) (s.track t).redo.reverse s hs (List.nodup_reverse.mpr hn) (by
    intro j hj
    obtain ⟨l, hl, -⟩ := hu j (List.mem_reverse.mp hj)
    exact ⟨l, hl⟩)
  have hi := isImporting_freed hf (by
    intro j hj
    obtain ⟨l, hl, hst⟩ := hu j (List.mem_reverse.mp hj)
    unfold State.isImporting
    rw [hl]
    simp [hst])
  refine ⟨_, hf, ?_⟩
  unfold State.freeRedo
  dsimp only
  have hh : (s.freeAll .undone (s.track t).redo.reverse).holdsImport t = s.holdsImport t := by
    unfold State.holdsImport
    rw [hi, freeAll_track]
  rw [hh]

/-! ### A capture record found (R67) -/

/-- A range of a layer given up at the current place is lost (R65, R143). -/
theorem overrun_here {id : Nat} {l : Layer} {r : Range} {s : State} (hl : s.layer? id = some l) (h : r.len ≠ 0) :
    s.overrun s.cycle.here id r = s.lostTo id l r := by
  unfold State.overrun
  rw [hl]
  dsimp only
  rw [if_neg h]
  rfl

theorem overrun_nothing {place : Point} {id : Nat} {r : Range} {s : State} (h : r.len = 0) :
    s.overrun place id r = s := by
  unfold State.overrun
  split
  · rfl
  · rw [if_pos h]

/-- What loses a range of a layer changes: that layer, the faults and the port controllers. -/
theorem lostTo_eq (id : Nat) (l : Layer) (r : Range) (s : State) : ∃ a b, s.lostTo id l r =
    { s with
      layers := assocInsert id { l with holes := addHole r l.holes, damaged := true } s.layers
      faults := (s.faults.note .writeOverrun).capture
        { kind := .writeOverrun, requester := .capture, block := l.extents[r.first / 4096]?, layer := some id
          track := some l.track, pass := s.cycle.pass, pos := s.cycle.shownPos }
      portA := a, portB := b } := by
  unfold State.lostTo State.takeFault
  dsimp only
  split
  · exact ⟨_, _, rfl⟩
  · exact ⟨_, _, rfl⟩

section

variable {i : Fin 12} {r : CapRec} {l : Layer} {e stop k : Nat} {z : State}

/-- The remainder that a DRAINING record has not handed over. -/
def CapRec.remainder (r : CapRec) (stop : Nat) : Range := { first := r.nextOff, len := stop - r.nextOff }

theorem stealRecord_eq (hr : z.capture.records[i] = some r) (he : r.endStamp = some e)
    (hst : stop = stampSub e r.startStamp) :
    z.stealRecord i = (z.setRecord i none).giveUp z.cycle.here r.layer (r.remainder stop) := by
  unfold State.stealRecord
  rw [hr]
  dsimp only
  rw [he, hst]
  rfl

/-- The layer of a record that is taken, with the blocks that its remainder needs (R67, R143). -/
theorem stealRecord_enough (hr : z.capture.records[i] = some r) (hl : z.layer? r.layer = some l)
    (he : r.endStamp = some e) (hst : stop = stampSub e r.startStamp) (hlt : r.nextOff < stop)
    (hc : ceilDiv r.nextOff 4096 ≤ l.extents.length) (hk : k = ceilDiv stop 4096 - l.extents.length)
    (hfree : k ≤ z.mem.free.length) :
    ∃ a b, z.stealRecord i =
      { (({ z with mem := { z.mem with free := z.mem.free.drop k } }).lostTo r.layer
          { l with extents := l.extents ++ z.mem.free.take k } { first := r.nextOff, len := stop - r.nextOff }).setRecord i
          none with portA := a, portB := b } := by
  obtain ⟨a₁, b₁, e₁⟩ := lostTo_eq r.layer { l with extents := l.extents ++ z.mem.free.take k }
    (r.remainder stop) { z with mem := { z.mem with free := z.mem.free.drop k } }
  have hneed : (z.setRecord i none).blocksNeeded r.layer (r.remainder stop) =
      (List.range k).map (fun i => (l.extents.length + i) * 4096) := by
    rw [hk]
    exact blocksNeeded_remainder (z.setRecord i none) r.layer r.nextOff stop l hl hc hlt
  have hlen : (r.remainder stop).len ≠ 0 := by
    simp only [CapRec.remainder]
    omega
  rw [stealRecord_eq hr he hst]
  change ∃ a b, _ = { (State.lostTo r.layer _ (r.remainder stop) _).setRecord i none with portA := a, portB := b }
  rw [e₁]
  unfold State.giveUp
  rw [hneed]
  by_cases h0 : k = 0
  · subst h0
    have hz : (z.setRecord i none).layer? r.layer = some l := hl
    obtain ⟨a₂, b₂, e₂⟩ := lostTo_eq r.layer l (r.remainder stop) (z.setRecord i none)
    refine ⟨a₂, b₂, (overrun_here hz hlen).trans ?_⟩
    rw [e₂]
    simp only [List.take_zero, List.append_nil, List.drop_zero]
    rfl
  · rw [allocateEach_enough r.layer _ (z.setRecord i none) l hl (by simpa using hfree) (by simpa using h0)]
    simp only [List.length_map, List.length_range]
    obtain ⟨a₂, b₂, e₂⟩ := lostTo_eq r.layer { l with extents := l.extents ++ z.mem.free.take k } (r.remainder stop)
      (({ z.setRecord i none with mem := { z.mem with free := z.mem.free.drop k } }).setLayer r.layer
        { l with extents := l.extents ++ z.mem.free.take k })
    refine ⟨a₂, b₂, (overrun_here (layer?_setLayer_same ..) hlen).trans (e₂.trans ?_)⟩
    simp only [State.setLayer, State.setRecord, insert_insert]

end

end Sys2Proof.Machine


/-! # RECORD on an EMPTY cycle (R7, R32, R60, R67) -/

namespace Sys2Proof.Machine

open Sys2Proof

/-! ### What the loss of a range leaves -/

section

variable (id : Nat) (l : Layer) (r : Range) (s : State)

theorem lostTo_layer? (j : Nat) : (s.lostTo id l r).layer? j =
    if j = id then some { l with holes := addHole r l.holes, damaged := true } else s.layer? j := by
  obtain ⟨a, b, e⟩ := lostTo_eq id l r s
  rw [e]
  exact layer?_setLayer id j _ s

theorem lostTo_mem : (s.lostTo id l r).mem = s.mem := by
  obtain ⟨a, b, e⟩ := lostTo_eq id l r s
  rw [e]

theorem lostTo_capture : (s.lostTo id l r).capture = s.capture := by
  obtain ⟨a, b, e⟩ := lostTo_eq id l r s
  rw [e]

theorem lostTo_cycle : (s.lostTo id l r).cycle = s.cycle := by
  obtain ⟨a, b, e⟩ := lostTo_eq id l r s
  rw [e]

theorem lostTo_tracks : (s.lostTo id l r).tracks = s.tracks := by
  obtain ⟨a, b, e⟩ := lostTo_eq id l r s
  rw [e]

theorem lostTo_faults {u : State} (hc : u.cycle = s.cycle) (hf : u.faults = s.faults) :
    (u.lostTo id l r).faults = (s.lostTo id l r).faults := by
  obtain ⟨a, b, e⟩ := lostTo_eq id l r s
  obtain ⟨a', b', e'⟩ := lostTo_eq id l r u
  rw [e, e', hc, hf]

end

/-! ### A layer opened (R32, R60, R67) -/

theorem record_setRecord (i j : Fin 12) (r : Option CapRec) (s : State) :
    (s.setRecord i r).capture.records[j] = if j = i then r else s.capture.records[j] := by
  simp only [State.setRecord, Fin.getElem_fin, Vector.getElem_set, Fin.ext_iff, eq_comm]

/-- The free record that a layer takes is the one of lowest index (R67). -/
theorem freeRecord_some {i : Fin 12} {s : State} :
    s.freeRecord = some i ↔ s.capture.records[i] = none ∧ ∀ j : Fin 12, j < i → s.capture.records[j] ≠ none := by
  unfold State.freeRecord
  rw [List.find?_eq_some_iff_getElem]
  constructor
  · rintro ⟨hi, n, hn, rfl, hlow⟩
    refine ⟨Option.isNone_iff_eq_none.mp hi, fun j hj hnone => ?_⟩
    have hjn : j.val < n := by simpa [Fin.lt_def] using hj
    have h := hlow j.val hjn
    rw [List.getElem_finRange] at h
    simp [show s.capture.records[j.val] = none from hnone] at h
  · rintro ⟨hi, hlow⟩
    refine ⟨Option.isNone_iff_eq_none.mpr hi, i.val, by simp, by simp, fun n hn => ?_⟩
    have h := hlow ⟨n, by omega⟩ hn
    simpa [Option.isSome_iff_ne_none] using h

/-- How a layer that opens stands: its record, its track and its capture record, beside those that `v` has and the
blocks, layers and faults that finding the capture record left in `w` (R32, R60, R67). -/
structure Opened (t : TrackId) (tr : Track) (l : Layer) (i : Fin 12) (new : CapRec) (v w u : State) : Prop where
  cycle : u.cycle = v.cycle
  track : u.track t = tr
  tracks : ∀ t', t' ≠ t → u.track t' = v.track t'
  opened : u.layer? new.layer = some l
  layers : ∀ j, j ≠ new.layer → u.layer? j = w.layer? j
  record : u.capture.records[i] = some new
  records : ∀ j, j ≠ i → u.capture.records[j] = v.capture.records[j]
  mem : u.mem = w.mem
  faults : u.faults = w.faults

theorem Opened.beside {t : TrackId} {tr : Track} {l : Layer} {i : Fin 12} {new : CapRec} {v w u x : State}
    (h : Opened t tr l i new v w u) (hx : BesideCues u x) : Opened t tr l i new v w x where
  cycle := hx.cycle.trans h.cycle
  track := (hx.track t).trans h.track
  tracks t' ht := (hx.track t').trans (h.tracks t' ht)
  opened := (hx.layer? _).trans h.opened
  layers j hj := (hx.layer? j).trans (h.layers j hj)
  record := by rw [hx.capture]; exact h.record
  records j hj := by rw [hx.capture]; exact h.records j hj
  mem := hx.mem.trans h.mem
  faults := hx.faults.trans h.faults

/-- What taking a DRAINING record leaves, field by field (R67). -/
theorem stealRecord_leaves {i : Fin 12} {r : CapRec} {l : Layer} {e stop k : Nat} {z : State}
    (hr : z.capture.records[i] = some r) (hl : z.layer? r.layer = some l) (he : r.endStamp = some e)
    (hst : stop = stampSub e r.startStamp) (hlt : r.nextOff < stop) (hc : ceilDiv r.nextOff 4096 ≤ l.extents.length)
    (hk : k = ceilDiv stop 4096 - l.extents.length) (hfree : k ≤ z.mem.free.length) :
    ∃ y : State, (∃ a b, z.stealRecord i = { y.setRecord i none with portA := a, portB := b })
      ∧ (∀ j, y.layer? j = if j = r.layer
        then some { l with
          extents := l.extents ++ z.mem.free.take k
          holes := addHole { first := r.nextOff, len := stop - r.nextOff } l.holes, damaged := true }
        else z.layer? j)
      ∧ y.cycle = z.cycle ∧ y.tracks = z.tracks ∧ y.capture = z.capture
      ∧ y.mem = { z.mem with free := z.mem.free.drop k }
      ∧ ∀ u : State, u.cycle = z.cycle → u.faults = z.faults → y.faults =
        (u.lostTo r.layer { l with extents := l.extents ++ z.mem.free.take k }
          { first := r.nextOff, len := stop - r.nextOff }).faults :=
  ⟨_, stealRecord_enough hr hl he hst hlt hc hk hfree, fun j => lostTo_layer? r.layer _ _ _ j, lostTo_cycle ..,
    lostTo_tracks .., lostTo_capture .., lostTo_mem .., fun _ hcyc hflt => lostTo_faults _ _ _ _ hcyc.symm hflt.symm⟩

/-- A new layer's capture record is put in use where there is room for it. -/
theorem placeRecord_opened {t : TrackId} {l : Layer} {i : Fin 12} {new : CapRec} {v w z : State}
    (hw : v.RecordRoom i w) (hid : v.layer? new.layer = none) (hcyc : z.cycle = v.cycle)
    (hcap : z.capture = v.capture) (hmem : z.mem = v.mem) (hflt : z.faults = v.faults)
    (htr : ∀ t', t' ≠ t → z.track t' = v.track t')
    (hlay : ∀ j, z.layer? j = if j = new.layer then some l else v.layer? j) :
    Opened t (z.track t) l i new v w (z.placeRecord new) := by
  have hnew : z.layer? new.layer = some l := by rw [hlay, if_pos rfl]
  unfold State.placeRecord
  obtain ⟨hi, hlow, rfl⟩ | ⟨r, m, e, stop, k, hr, hm, he, hst, hlt, hc, hk, hfree, rfl⟩ := hw
  · rw [freeRecord_some.mpr (by rw [hcap]; exact ⟨hi, hlow⟩)]
    exact { cycle := hcyc, track := rfl, tracks := htr, opened := hnew
            layers := fun j hj => (hlay j).trans (if_neg hj)
            record := (record_setRecord i i _ z).trans (if_pos rfl)
            records := fun j hj => (record_setRecord i j _ z).trans (by rw [if_neg hj, hcap])
            mem := hmem, faults := hflt }
  · have hrz : z.ClosedEarliest i r := by
      unfold State.ClosedEarliest at hr ⊢
      rwa [hcap]
    obtain ⟨hnone, hold⟩ := oldestDraining_of_closedEarliest hrz
    have hne : r.layer ≠ new.layer := by
      intro h
      rw [h, hid] at hm
      cases hm
    have hmz : z.layer? r.layer = some m := by rw [hlay, if_neg hne, hm]
    rw [← hmem] at hfree ⊢
    obtain ⟨y, hx, hyl, hyc, hyt, hyp, hym, hyf⟩ := stealRecord_leaves hrz.1 hmz he hst hlt hc hk hfree
    obtain ⟨a, b, e₁⟩ := hx
    rw [hnone]
    simp only [hold]
    have hxn : (z.stealRecord i).layer? new.layer = some l := by
      rw [e₁]
      refine (hyl new.layer).trans ?_
      rw [if_neg hne.symm, hnew]
    rw [if_pos (by rw [hxn]; rfl), e₁]
    rw [e₁] at hxn
    exact {
      cycle := hyc.trans hcyc
      track := congrArg (·[t]) hyt
      tracks := fun t' ht' => (congrArg (·[t']) hyt).trans (htr t' ht')
      opened := hxn
      layers := fun j hj => by
        refine (hyl j).trans ?_
        rw [lostTo_layer?, hlay, if_neg hj]
        rfl
      record := (record_setRecord i i _ _).trans (if_pos rfl)
      records := fun j hj => by
        refine (record_setRecord i j _ _).trans ?_
        rw [if_neg hj, ← hcap, ← hyp]
        refine (record_setRecord i j _ _).trans (if_neg hj)
      mem := by
        rw [lostTo_mem]
        exact hym
      faults := hyf _ hcyc.symm hflt.symm }

/-- The capture record of a layer that opens, from its first frame (R60). -/
def CapRec.opening (t : TrackId) (id stamp : Nat) (phase : Phase) : CapRec :=
  { layer := id, track := t, phase := phase, startStamp := stamp, readStamp := stamp, endStamp := none, nextOff := 0
    buf := [], closeOrder := none }

/-- A track with a layer open on it as the newest of its stack (R32). -/
def Track.opening (id : Nat) (dest : TrackState) (tr : Track) : Track :=
  { tr with stack := tr.stack ++ [.single id], openLayer := some id, state := dest }

/-- A layer opened, on a state with the blocks of `v` (R32). -/
theorem openLayer_opened {t : TrackId} {id stamp : Nat} {l : Layer} {phase : Phase} {dest : TrackState} {i : Fin 12}
    {v w z : State} (hz : z.blocks = v.blocks) (hc : z.cycle = v.cycle) (hid : v.layer? id = none)
    (hw : v.RecordRoom i w) :
    Opened t ((v.track t).opening id dest) l i (.opening t id stamp phase) v w
      (z.openLayer t id l stamp phase dest) := by
  have htr : ∀ t', ((z.setLayer id l).modTrack t (Track.opening id dest)).track t' =
      if t = t' then (v.track t).opening id dest else v.track t' := by
    intro t'
    rw [track_modTrack, ← track_blocks hz, ← track_blocks hz]
    rfl
  have hlay : ∀ j, ((z.setLayer id l).modTrack t (Track.opening id dest)).layer? j =
      if j = id then some l else v.layer? j := by
    intro j
    rw [← layer?_blocks hz]
    exact layer?_setLayer id j l z
  simp only [State.blocks, Prod.mk.injEq] at hz
  obtain ⟨-, -, -, -, hcap, hmem, hflt⟩ := hz
  have h := placeRecord_opened (t := t) (new := .opening t id stamp phase)
    (z := (z.setLayer id l).modTrack t (Track.opening id dest)) hw hid hc hcap hmem hflt
    (fun t' ht' => (htr t').trans (if_neg (Ne.symm ht'))) hlay
  rwa [htr t, if_pos rfl] at h

theorem takeRoom_room {t : TrackId} {id : Nat} {s : State} (hid : s.freeId = some id)
    (hn : (s.track t).stack.length < 8) : s.takeRoom t = .ok (s, id) := by
  unfold State.takeRoom
  rw [hid]
  dsimp only
  rw [if_pos hn]

/-- The id that a layer takes is not in use (2.3). -/
theorem layer?_freeId {id : Nat} {s : State} (h : s.freeId = some id) : s.layer? id = none := by
  simpa using List.find?_some (p := fun id => (s.layer? id).isNone) h

theorem freeId_beside {s u : State} (h : BesideCues s u) : u.freeId = s.freeId := by
  unfold State.freeId
  simp only [h.layer?]

theorem raiseTrack_beside (t : TrackId) (s : State) : BesideCues s (s.raiseTrack t) := ⟨_, _, _, rfl⟩

/-- RECORD acting on an EMPTY track without import (R7, R32). -/
theorem actRecord_room {t : TrackId} {k : Cut} {id : Nat} {s : State} (hc : s.cycle.state ≠ .defining)
    (hst : (s.track t).state = .empty) (hi : s.holdsImport t = false) (hid : s.freeId = some id)
    (hn : (s.track t).stack.length < 8) :
    s.actRecord t k = .ok ((((s.freeRedo t).startDefining.openLayer t id
      (Layer.fresh t .opened .recorded ((s.freeRedo t).startDefining.cycle.firstStart k).1 false true)
      ((s.freeRedo t).startDefining.cycle.firstStart k).2 k.phase .recording)).raiseTrack t) := by
  unfold State.actRecord
  rw [if_neg (by simp [hc, hst, hi]), takeRoom_room hid hn]

theorem freeAll_sameCycle (c : LostCause) (ids : List Nat) : ∀ s : State, (s.freeAll c ids).cycle = s.cycle := by
  induction ids with
  | nil => exact fun _ => rfl
  | cons id ids ih =>
    intro s
    refine (ih _).trans ?_
    cases hl : s.layer? id with
    | none => rw [freeLayer_none hl]
    | some l =>
      obtain ⟨m, a, b, e⟩ := freeLayer_eq (c := c) hl
      rw [e]
      rfl

theorem freeRedo_sameCycle (t : TrackId) (s : State) : (s.freeRedo t).cycle = s.cycle := freeAll_sameCycle _ _ s

/-! ### The defining recording (R7, R74) -/

/-- The cycle timer as the defining recording begins (R7). -/
def Cycle.defining (c : Cycle) : Cycle := { c with state := .defining, pos := 0, pass := 0, tap := TapSeq.empty }

theorem startDefining_empty {s : State} (h : s.cycle.state = .empty) : s.startDefining = s.movedTo s.cycle.defining := by
  unfold State.startDefining
  rw [if_pos h, setCycle_moved (by simp [h])]
  rfl

/-- RECORD on an EMPTY cycle and an EMPTY track opens the defining recording. -/
theorem exec_record_begins {h : Req} {t : TrackId} {tb q : Byte} {id : Nat} {i : Fin 12} {s v w : State}
    (hs : s.serves h 2) (hp : s.power.part ≠ .rest) (hc : s.cycle.state = .empty) (ht : argTrack tb = some t)
    (hq : q.toNat ≤ 3) (hst : (s.track t).state = .empty) (hstk : (s.track t).stack = []) (hid : s.freeId = some id)
    (hv : v.blocks = (s.freeRedo t).blocks)
    (hvc : v.cycle = { s.cycle.defining with gen := (s.cycle.gen + 1) % 65536 }) (hw : v.RecordRoom i w) :
    ∃ u : State, exec (.record h tb q) s = .next (u.settle.replied h 32 .ok s.cycle.nowBytes)
      ∧ Opened t { s.track t with
            state := .recording, stack := [.single id], redo := [], heldSpan := none, openLayer := some id }
          (Layer.fresh t .opened .recorded (.first 0 0) false true) i
          (.opening t id (stampAdd s.cycle.frameCount 1) .inStep) v w u := by
  obtain ⟨x, hq⟩ := argQuantum_valid hq
  have hx := BesideCues.handedOn h 32 s
  have hno : ∀ z : State, (z.track t).stack = [] → z.holdsImport t = false := by
    intro z hz
    unfold State.holdsImport
    rw [hz]
    rfl
  have hact := actRecord_room (t := t) (k := .next) (id := id) (s := s.handedOn h 32) (by simp [hc])
    (by rw [hx.track, hst]) (hno _ (by rw [hx.track, hstk])) ((freeId_beside hx).trans hid)
    (by rw [hx.track, hstk]; decide)
  have hcy : ((s.handedOn h 32).freeRedo t).cycle = s.cycle := (freeRedo_sameCycle _ _).trans hx.cycle
  have hz : (((s.handedOn h 32).freeRedo t).movedTo s.cycle.defining).blocks = v.blocks :=
    (freeRedo_blocks hx.blocks t).trans hv.symm
  have hzc : (((s.handedOn h 32).freeRedo t).movedTo s.cycle.defining).cycle = v.cycle := by
    rw [hvc]
    show { s.cycle.defining with gen := (((s.handedOn h 32).freeRedo t).cycle.gen + 1) % 65536 } = _
    rw [hcy]
  have hfirst : v.cycle.firstStart .next = (.first 0 0, stampAdd s.cycle.frameCount 1) := by
    rw [hvc]
    rfl
  rw [startDefining_empty (by rw [hcy, hc]), hcy, hzc, hfirst] at hact
  have hexec := exec_actionRequest_current (a := .record) (tb := tb) (target := some t) hs hq
    (by simp [Action.targetOf, Action.isAll, ht]) (dueOf_unfixed hp (.inl hc)) hact
  refine ⟨_, hexec, Opened.beside (Opened.beside ?_ (raiseTrack_beside t _)) (BesideCues.supersedeSlot _ _ _)⟩
  have hvid : v.layer? id = none := by
    rw [layer?_blocks hv]
    exact freeRedo_absent (layer?_freeId hid)
  have hvt : v.track t = { s.track t with redo := [], heldSpan := none } := by
    rw [track_blocks hv, freeRedo_track, if_pos rfl, hno _ (by rw [freeAll_track, hstk])]
    rfl
  have hopen := openLayer_opened (t := t) (l := Layer.fresh t .opened .recorded (.first 0 0) false true)
    (stamp := stampAdd s.cycle.frameCount 1) (phase := .inStep) (dest := .recording) hz hzc hvid hw
  rw [hvt] at hopen
  simp only [Track.opening, hstk, List.nil_append] at hopen
  exact hopen

/-- Where a record is free the loss of another is not in question (R67). -/
theorem recordRoom_free {i : Fin 12} {s v : State} (h : s.freeRecord = some i) (hv : v.capture = s.capture) :
    v.RecordRoom i v := by
  refine .inl ?_
  rw [hv]
  obtain ⟨hi, hlow⟩ := freeRecord_some.mp h
  exact ⟨hi, hlow, rfl⟩

/-- Settles O23. With the redo list empty and a capture record free it is the general case, where freeing the redo
list and finding the record change nothing. -/
theorem recordBeginsTheCycle : Obligations.RecordBeginsTheCycle := by
  refine ⟨?_, ?_⟩
  · intro h t tb q id i s hs hp hc ht hq hst hstk hredo hid hfree
    obtain ⟨u, he, ho⟩ := exec_record_begins (v := { s.setTrack t { s.track t with
        redo := [], heldSpan := if s.holdsImport t = true then (s.track t).heldSpan else none } with
        cycle := { s.cycle.defining with gen := (s.cycle.gen + 1) % 65536 } }) hs hp hc ht hq hst hstk hid
      (by rw [freeRedo_nil hredo]; rfl) rfl (recordRoom_free hfree rfl)
    refine ⟨u, he, ho.cycle, ho.track.trans (by simp only [hredo]), fun t' ht' => (ho.tracks t' ht').trans ?_, ho.opened,
      ho.record, ho.mem⟩
    exact (track_setTrack t t' { s.track t with
      redo := [], heldSpan := if s.holdsImport t = true then (s.track t).heldSpan else none } s).trans
      (if_neg (Ne.symm ht'))
  · intro h t tb q id i s v w hs hp hc ht hq hst hstk hid hv hw
    obtain ⟨u, he, ho⟩ := exec_record_begins hs hp hc ht hq hst hstk hid (by rw [hv]; rfl) (by rw [hv]; rfl) hw
    refine ⟨u, he, ho.cycle, ho.track, fun t' ht' => (ho.tracks t' ht').trans ?_, ho.opened, ho.layers, ho.record,
      ho.records, ho.mem, ho.faults⟩
    rw [hv]
    exact (freeRedo_track t t' s).trans (if_neg (Ne.symm ht'))

end Sys2Proof.Machine


/-! # RECORD, OVERDUB and REPLACE that act at once (R18, R31, R32, R60, R67) -/

namespace Sys2Proof.Machine

open Sys2Proof

/-! ### The effective point of an action at once on a RUNNING cycle (R18) -/

theorem le_foldl_max {l : List Nat} {x : Nat} (h : x ∈ l) (i : Nat) : x ≤ l.foldl max i := by
  have hbound : ∀ (l : List Nat) (i : Nat), i ≤ l.foldl max i ∧ ∀ y ∈ l, y ≤ l.foldl max i := by
    intro l
    induction l with
    | nil => exact fun i => ⟨le_refl i, by simp⟩
    | cons y l ih =>
      intro i
      obtain ⟨hi, hl⟩ := ih (max i y)
      exact ⟨(le_max_left i y).trans hi, List.forall_mem_cons.mpr ⟨(le_max_right i y).trans hi, hl⟩⟩
  exact (hbound l i).2 x h

/-- The last boundary at or below a position is a boundary: each set holds position 0 (R14). -/
theorem lastBoundary_mem {c : Cycle} (len : Nat) {q : Quantum} (p : Nat) (hb : 1 ≤ c.beats) (hq : q ≠ .none) :
    c.lastBoundary len q p ∈ c.boundaries len q := by
  rcases List.mem_cons.mp (foldl_max_mem ((c.boundaries len q).filter fun b => decide (b ≤ p)) 0) with h | h
  · unfold Cycle.lastBoundary
    rw [h]
    cases q with
    | none => exact absurd rfl hq
    | cycle => simp [Cycle.boundaries]
    | beat => exact List.mem_map.mpr ⟨0, List.mem_range.mpr hb, by simp⟩
    | bar => exact List.mem_map.mpr ⟨0, List.mem_filter.mpr ⟨List.mem_range.mpr hb, by simp⟩, by simp⟩
  · exact (List.mem_filter.mp h).1

/-- The boundary after the last one at or below a position lies beyond that position. -/
theorem lt_nextBoundary {c : Cycle} {len : Nat} (q : Quantum) {p : Nat} (hp : p < len) :
    p < c.nextBoundary len q (c.lastBoundary len q p) := by
  by_contra hle
  obtain h | h := List.mem_cons.mp
    (foldl_min_mem ((c.boundaries len q).filter fun x => decide (c.lastBoundary len q p < x)) len)
  · exact absurd (h.symm.trans_le (Nat.not_lt.mp hle)) (by omega)
  · obtain ⟨hm, hlt⟩ := List.mem_filter.mp h
    have hmax : c.nextBoundary len q (c.lastBoundary len q p) ≤ c.lastBoundary len q p :=
      le_foldl_max (List.mem_filter.mpr ⟨hm, decide_eq_true (Nat.not_lt.mp hle)⟩) 0
    have hlt : c.lastBoundary len q p < c.nextBoundary len q (c.lastBoundary len q p) := of_decide_eq_true hlt
    omega

/-- An action pressed now that acts at once does so at the current frame, or back-dated at a boundary of this pass at
or before the position (R18). -/
theorem dueOf_now_atOnce {a : Action} {q : Quantum} {s : State} {len : Nat} {e : Eff} (hr : CycleInRange s.cycle)
    (hp : s.power.part ≠ .rest) (hrun : s.cycle.state = .running) (hl : s.cycle.len = some len)
    (h : s.dueOf a q s.pressNow = .atOnce e) :
    e = s.cycle.current ∨ s.cycle.origin = false ∧ ∃ b ∈ s.cycle.boundaries len q, b ≤ s.cycle.pos
      ∧ e = { point := ⟨s.cycle.pass, b⟩, cut := .back (s.cycle.pos - b) ⟨s.cycle.pass, b⟩, back := true } := by
  by_cases hq : q = .none
  · subst hq
    rw [dueOf_none hp hrun hl] at h
    exact .inl (Due.atOnce.inj h).symm
  rw [dueOf_now hp hrun hl hq] at h
  have hlen := (hr.length len hl).2.2
  by_cases hg : s.pressNow.pos - s.cycle.lastBoundary len q s.pressNow.pos ≤ min s.cycle.grace
      ((s.cycle.nextBoundary len q (s.cycle.lastBoundary len q s.pressNow.pos)
        - s.cycle.lastBoundary len q s.pressNow.pos) / 2)
  · rw [dueFrom_within rfl rfl hg] at h
    by_cases ho : s.cycle.origin = true
    · rw [if_pos ho] at h
      exact .inl (Due.atOnce.inj h).symm
    · have ho' : s.cycle.origin = false := by simpa using ho
      have hpos : s.pressNow.pos = s.cycle.pos := by simp [State.pressNow, Cycle.shownPos, ho']
      rw [if_neg ho, hpos, Nat.zero_add] at h
      split at h
      · have h := Due.atOnce.inj h
        unfold Cycle.passed at h
        split at h
        · exact .inr ⟨ho', _, lastBoundary_mem len s.cycle.pos hr.beats.1 hq, lastBoundary_le .., h.symm⟩
        · exact .inl h.symm
      · exact .inl (Due.atOnce.inj h).symm
  · rw [dueFrom_beyond rfl rfl (Nat.not_le.mp hg) rfl] at h
    have hshown : s.pressNow.pos < len := by
      show s.cycle.shownPos < len
      unfold Cycle.shownPos
      split <;> omega
    rw [if_pos (by have := lt_nextBoundary (c := s.cycle) q hshown; omega)] at h
    cases h

/-- The place and the stamp at which a layer starts when an action acts at once (R18, R32, R60). -/
structure StartsAt (c : Cycle) (len : Nat) (e : Eff) (place : Point) (stamp : Nat) : Prop where
  first : c.firstStart e.cut = (.first place.pass place.pos, stamp)
  layer : ∀ span, c.layerStart span e.cut = (.at (trackPos span len place.pass place.pos), stamp)
  phase : e.cut.phase = if e.back = true then .filling else .inStep

theorem startsAt_current {c : Cycle} {len : Nat} (hrun : c.state = .running) (hl : c.len = some len) :
    StartsAt c len c.current ⟨c.nextPlace.1, c.nextPlace.2⟩ (stampAdd c.frameCount 1) := by
  refine ⟨?_, fun span => ?_, rfl⟩
  · simp [Cycle.firstStart, Cycle.current, Cycle.cutStamp, hrun]
  · simp [Cycle.layerStart, Cycle.current, Cycle.cutStamp, Cycle.shownLen, hl]

theorem startsAt_back {c : Cycle} {len b : Nat} (hrun : c.state = .running) (hl : c.len = some len) (hb : b ≤ c.pos) :
    StartsAt c len { point := ⟨c.pass, b⟩, cut := .back (c.pos - b) ⟨c.pass, b⟩, back := true } ⟨c.pass, b⟩
      (stampSub c.frameCount (c.pos - b)) := by
  refine ⟨?_, fun span => ?_, rfl⟩
  · simp [Cycle.firstStart, Cycle.cutStamp, hrun]
  · have hmin : min (c.pos - b) (c.pass % span * len + c.pos) = c.pos - b := min_eq_left (by omega)
    have hsub : c.pass % span * len + c.pos - (c.pos - b) = c.pass % span * len + b := by omega
    simp only [Cycle.layerStart, Cycle.cutStamp, Cycle.shownLen, hl, trackPos, Option.getD_some, hmin, hsub]

/-! ### The requests that open a layer (R31, R32) -/

theorem startDefining_not {s : State} (h : s.cycle.state ≠ .empty) : s.startDefining = s := by
  unfold State.startDefining
  rw [if_neg h]

/-- OVERDUB or REPLACE acting on a PLAYING track (R31, R32). -/
theorem actLayer_room {t : TrackId} {cover : Bool} {k : Cut} {id span : Nat} {s : State}
    (hst : (s.track t).state = .playing) (hsp : (s.track t).span = some span) (hid : s.freeId = some id)
    (hn : (s.track t).stack.length < 8) :
    s.actLayer t cover k = .ok (((s.freeRedo t).openLayer t id
      (Layer.fresh t .opened .recorded (s.cycle.layerStart span k).1 cover true) (s.cycle.layerStart span k).2 k.phase
      (if cover = true then .replacing else .overdubbing)).raiseTrack t) := by
  unfold State.actLayer
  rw [hst, hsp]
  dsimp only
  rw [takeRoom_room hid hn]
  dsimp only
  rw [freeRedo_sameCycle]

/-- A request whose action opens a layer on the track at once (R32, R83). -/
theorem exec_opens {h : Req} {a : Action} {t : TrackId} {tb qb : Byte} {q : Quantum} {e : Eff} {id stamp : Nat}
    {i : Fin 12} {l : Layer} {phase : Phase} {dest : TrackState} {s v w : State} (hall : a.isAll = false)
    (hs : s.serves h 2) (ht : argTrack tb = some t) (hq : argQuantum qb = some q)
    (hd : s.dueOf a q s.pressNow = .atOnce e) (hid : s.freeId = some id) (hv : v.blocks = (s.freeRedo t).blocks)
    (hvc : v.cycle = s.cycle) (hw : v.RecordRoom i w)
    (ha : (s.handedOn h a.code).act a (some t) e.cut = .ok
      ((((s.handedOn h a.code).freeRedo t).openLayer t id l stamp phase dest).raiseTrack t)) :
    ∃ u : State, exec (a.request h tb qb) s = .next (u.settle.replied h a.code .ok
        (bytes 1 e.point.pass ++ bytes 3 e.point.pos ++ [if e.back = true then 1 else 0]))
      ∧ Opened t ((v.track t).opening id dest) l i (.opening t id stamp phase) v w u := by
  have hx := BesideCues.handedOn h a.code s
  have hbefore : (s.handedOn h a.code).beforeAct a (some t) = s.handedOn h a.code := by simp [State.beforeAct, hall]
  have hflag : flagByte e.back = [if e.back = true then 1 else 0] := by cases e.back <;> rfl
  have hexec := exec_actionRequest_atOnce (a := a) (tb := tb) (target := some t)
    (by simpa [Action.argLen, hall] using hs) hq (by simp [Action.targetOf, hall, ht]) hd (by rw [hbefore, ha])
  rw [hall, hflag] at hexec
  refine ⟨_, hexec, ?_⟩
  refine Opened.beside (Opened.beside ?_ (raiseTrack_beside t _)) (BesideCues.supersedeSlot _ _ _)
  exact openLayer_opened ((freeRedo_blocks hx.blocks t).trans hv.symm)
    ((freeRedo_sameCycle t _).trans (hx.cycle.trans hvc.symm))
    (by rw [layer?_blocks hv]; exact freeRedo_absent (layer?_freeId hid)) hw

/-- The layer that RECORD, OVERDUB or REPLACE opens at once on a RUNNING cycle (R31, R32, R60). -/
theorem exec_opens_running {h : Req} {a : Action} {t : TrackId} {tb qb : Byte} {q : Quantum} {len id stamp : Nat}
    {i : Fin 12} {e : Eff} {dest : TrackState} {place : Point} {start : LayerStart} {s v w : State}
    (hs : s.serves h 2) (hrun : s.cycle.state = .running) (ht : argTrack tb = some t) (hq : argQuantum qb = some q)
    (hn : (s.track t).stack.length < 8) (hid : s.freeId = some id) (hv : v.blocks = (s.freeRedo t).blocks)
    (hvc : v.cycle = s.cycle) (hw : v.RecordRoom i w) (hd : s.dueOf a q s.pressNow = .atOnce e)
    (he : StartsAt s.cycle len e place stamp)
    (hcase : a = .record ∧ (s.track t).state = .empty ∧ s.holdsImport t = false ∧ dest = .recording
        ∧ start = .first place.pass place.pos
      ∨ ∃ span, (s.track t).state = .playing ∧ (s.track t).span = some span
        ∧ start = .at (trackPos span len place.pass place.pos)
        ∧ (a = .overdub ∧ dest = .overdubbing ∨ a = .replace ∧ dest = .replacing)) :
    ∃ u : State, exec (a.request h tb qb) s = .next (u.settle.replied h a.code .ok
        (bytes 1 e.point.pass ++ bytes 3 e.point.pos ++ [if e.back = true then 1 else 0]))
      ∧ Opened t ((v.track t).opening id dest) (Layer.fresh t .opened .recorded start (decide (a = .replace)) true) i
        (.opening t id stamp (if e.back = true then .filling else .inStep)) v w u := by
  have hx := BesideCues.handedOn h a.code s
  have hxc : ((s.handedOn h a.code).freeRedo t).cycle = s.cycle := (freeRedo_sameCycle t _).trans hx.cycle
  have hxid := (freeId_beside hx).trans hid
  have hxn : ((s.handedOn h a.code).track t).stack.length < 8 := by rwa [hx.track]
  obtain ⟨rfl, hst, hi, rfl, rfl⟩ | ⟨span, hst, hsp, rfl, ha⟩ := hcase
  · refine exec_opens rfl hs ht hq hd hid hv hvc hw ?_
    show State.actRecord t e.cut _ = _
    rw [actRecord_room (by rw [hx.cycle, hrun]; decide) (by rw [hx.track, hst])
      ((holdsImport_blocks hx.blocks t).trans hi) hxid hxn, startDefining_not (by rw [hxc, hrun]; decide), hxc,
      he.first, he.phase]
    rfl
  · obtain ⟨rfl, rfl⟩ | ⟨rfl, rfl⟩ := ha
    · refine exec_opens rfl hs ht hq hd hid hv hvc hw ?_
      show State.actLayer t false e.cut _ = _
      rw [actLayer_room (by rw [hx.track, hst]) (by rw [hx.track, hsp]) hxid hxn, hx.cycle, he.layer, he.phase]
      rfl
    · refine exec_opens rfl hs ht hq hd hid hv hvc hw ?_
      show State.actLayer t true e.cut _ = _
      rw [actLayer_room (by rw [hx.track, hst]) (by rw [hx.track, hsp]) hxid hxn, hx.cycle, he.layer, he.phase]
      rfl

/-! ### A record taken where the blocks run out (R66, R67, R76) -/

/-- A layer that has no block left for what a record taken from it holds ends at the first offset without one. -/
theorem stealRecord_short {i : Fin 12} {r : CapRec} {l l' : Layer} {e stop o : Nat} {s base : State}
    (hs : s.layers.Pairwise (fun x y => x.1 < y.1)) (hr : s.capture.records[i] = some r)
    (hl : s.layer? r.layer = some l) (he : r.endStamp = some e) (hst : stop = stampSub e r.startStamp)
    (hlt : r.nextOff < stop) (hc : ceilDiv r.nextOff 4096 ≤ l.extents.length)
    (hfew : l.extents.length + s.mem.free.length < ceilDiv stop 4096)
    (ho : o = (l.extents.length + s.mem.free.length) * 4096) (hl' : l' = { l with extents := l.extents ++ s.mem.free })
    (hbase : base = ({ s with mem := { s.mem with free := [] } }.setRecord i none).setLayer r.layer l') :
    s.stealRecord i = (if r.nextOff < o then base.lostTo r.layer l' { first := r.nextOff, len := o - r.nextOff }
      else base).exhaust r.layer o := by
  have hneed : (s.setRecord i none).blocksNeeded r.layer (r.remainder stop) =
      (List.range (ceilDiv stop 4096 - l.extents.length)).map (fun i => (l.extents.length + i) * 4096) :=
    blocksNeeded_remainder (s.setRecord i none) r.layer r.nextOff stop l hl hc hlt
  have hshort := allocateEach_short r.layer
    ((List.range (ceilDiv stop 4096 - l.extents.length)).map (fun i => (l.extents.length + i) * 4096))
    (s.setRecord i none) l hl hs (by simp only [List.length_map, List.length_range]; show s.mem.free.length < _; omega)
  have hstate : ({ s.setRecord i none with mem := { s.mem with free := [] } }.setLayer r.layer
      { l with extents := l.extents ++ s.mem.free }) = base := by
    rw [hbase, hl']
    rfl
  have hoff : (l.extents.length + (s.setRecord i none).mem.free.length) * 4096 = o := ho.symm
  have hbl : base.layer? r.layer = some l' := by
    rw [hbase]
    exact layer?_setLayer_same ..
  have hover : base.overrun s.cycle.here r.layer { first := r.nextOff, len := o - r.nextOff } =
      if r.nextOff < o then base.lostTo r.layer l' { first := r.nextOff, len := o - r.nextOff } else base := by
    by_cases h : r.nextOff < o
    · rw [if_pos h]
      have hhere : s.cycle.here = base.cycle.here := by rw [hbase]; rfl
      rw [hhere]
      exact overrun_here hbl (by show o - r.nextOff ≠ 0; omega)
    · rw [if_neg h]
      exact overrun_nothing (by show o - r.nextOff = 0; omega)
  rw [stealRecord_eq hr he hst]
  unfold State.giveUp
  rw [hneed, hshort]
  simp only [List.getElem_map, List.getElem_range, hoff]
  rw [← hover, ← hstate]
  rfl

/-! ### O24 -/

/-- What the freeing of a redo list leaves (R28, R32). -/
theorem redoFreed {t : TrackId} {redo : List Nat} {s v : State} (hr : redo = (s.track t).redo) (hv : v = s.freeRedo t)
    (emptied : Track) (he : emptied = { s.track t with
      redo := [], heldSpan := if s.holdsImport t = true then (s.track t).heldSpan else none })
    (hs : s.layers.Pairwise (fun x y => x.1 < y.1)) (hn : redo.Nodup)
    (hu : ∀ j ∈ redo, ∃ l, s.layer? j = some l ∧ l.state = .undone) :
    ∃ f, FreedAs redo.reverse s f ∧ v = f.setTrack t emptied := by
  subst hr
  obtain ⟨f, hf, e⟩ := freeRedo_freed hs hn hu
  refine ⟨f, hf, ?_⟩
  rw [hv, e, he]
  have htr : f.track t = s.track t := by
    rw [hf.frame]
    rfl
  unfold State.modTrack
  rw [htr]

/-- Settles O24. The first clause is the second with quantum NONE, an empty redo list and a free capture record. -/
theorem overdubAndReplaceOpenALayer : Obligations.OverdubAndReplaceOpenALayer := by
  refine ⟨?_, ?_, ?_, ?_⟩
  · intro h cover t tb span len id i s hs hp hrun hl ht hst hsp hn hredo hid hfree
    have hv : s.freeRedo t = _ := freeRedo_nil hredo
    obtain ⟨u, he, ho⟩ := exec_opens_running (h := h) (a := if cover = true then .replace else .overdub) (qb := 0)
      (dest := if cover = true then .replacing else .overdubbing) hs hrun ht rfl hn hid rfl (freeRedo_sameCycle t s)
      (recordRoom_free hfree (by rw [hv]; rfl)) (dueOf_none hp hrun hl) (startsAt_current hrun hl)
      (.inr ⟨span, hst, hsp, rfl, by cases cover <;> simp⟩)
    refine ⟨u, ?_, ho.cycle.trans (freeRedo_sameCycle t s), ?_, fun t' ht' => ?_, ?_, ho.record, ?_⟩
    · cases cover <;> exact he
    · rw [ho.track, hv, track_setTrack_same]
      simp only [Track.opening, hredo]
    · rw [ho.tracks t' ht', freeRedo_track, if_neg (Ne.symm ht')]
    · refine ho.opened.trans ?_
      cases cover <;> rfl
    · rw [ho.mem, hv]
      rfl
  · intro h a t tb qb q len id i e dest place start stamp s v w hs hp hr hrun hl ht hq hn hid hv hw hd hplace hstamp hcase
    have hvc : v.cycle = s.cycle := by
      rw [hv]
      exact freeRedo_sameCycle t s
    obtain ⟨hback, hstarts⟩ : (e.back = true → e.point.pass = s.cycle.pass ∧ e.point.pos ≤ s.cycle.pos
        ∧ e.point.pos ∈ s.cycle.boundaries len q) ∧ StartsAt s.cycle len e place stamp := by
      obtain rfl | ⟨-, b, hm, hb, rfl⟩ := dueOf_now_atOnce hr hp hrun hl hd
      · have hnot : ¬ s.cycle.current.back = true := Bool.false_ne_true
        rw [hplace, hstamp, if_neg hnot, if_neg hnot]
        exact ⟨fun h => absurd h hnot, startsAt_current hrun hl⟩
      · rw [hplace, hstamp, if_pos rfl, if_pos rfl]
        exact ⟨fun _ => ⟨rfl, hb, hm⟩, startsAt_back hrun hl hb⟩
    obtain ⟨u, he, ho⟩ := exec_opens_running hs hrun ht hq hn hid (by rw [hv]) hvc hw hd hstarts hcase
    have hvt : (v.track t).stack = (s.track t).stack := by
      rw [hv, freeRedo_track, if_pos rfl]
    refine ⟨u, he, hback, ho.cycle.trans hvc, ho.track.trans ?_, fun t' ht' => (ho.tracks t' ht').trans ?_, ho.opened,
      ho.layers, ho.record, ho.records, ho.mem, ho.faults⟩
    · simp only [Track.opening, hvt]
    · rw [hv, freeRedo_track, if_neg (Ne.symm ht')]
  · intro t redo s v hr hv emptied he
    refine ⟨fun h0 => ?_, fun hs hn hu => ?_⟩
    · rw [hv, he]
      exact freeRedo_nil (hr.symm.trans h0)
    · obtain ⟨f, hf, rfl⟩ := redoFreed hr hv emptied he hs hn hu
      have htracks : ∀ t', f.track t' = s.track t' := by
        intro t'
        rw [hf.frame]
        rfl
      refine ⟨track_setTrack_same .., fun t' ht' => ?_, fun j => ?_, hf.free, fun b => ?_, ?_, hf.words, fun i => ?_,
        fun p => ?_, ?_, ?_, ?_, ?_, fun ha hb p => ?_⟩
      · rw [track_setTrack, if_neg (Ne.symm ht'), htracks]
      · exact (hf.layer j).trans (by simp only [List.mem_reverse])
      · simpa using hf.bad b
      · simpa using hf.queue
      · simpa using hf.recs i
      · refine Eq.trans ?_ ((hf.win p).trans (by simp only [List.mem_reverse]))
        cases p <;> rfl
      · rw [hf.frame]
        rfl
      · rw [hf.frame]
        rfl
      · rw [hf.frame]
        rfl
      · rw [hf.frame]
        rfl
      · obtain ⟨h₁, h₂⟩ := hf.ports ha hb
        cases p
        · exact h₁
        · exact h₂
  · intro i new r l l' e stop o s base lost u hs hr hl he hst hlt hc hfew ho hl' hbase hlost hu
    obtain ⟨hnone, hold⟩ := oldestDraining_of_closedEarliest hr
    unfold State.placeRecord
    rw [hnone]
    simp only [hold]
    rw [stealRecord_short hs hr.1 hl he hst hlt hc hfew ho hl' hbase, ← hlost, ← hu]

end Sys2Proof.Machine


/-! # Cues taken at a boundary (R91) -/

namespace Sys2Proof.Machine

open Sys2Proof

/-! ### What an action leaves of the cue list -/

/-- The cue list has its entries or none, and whether the link is PRESENT stands. -/
structure ListKept (s₀ s : State) : Prop where
  entries : s.cues.entries = s₀.cues.entries ∨ s.cues.entries = []
  present : s.audio.present = s₀.audio.present

theorem RestKept.list {s₀ s : State} (h : RestKept s₀ s) : ListKept s₀ s := ⟨.inl (by rw [h.cues]), h.output.2⟩

namespace ListKept

variable {s₀ s : State}

theorem refl (s : State) : ListKept s s := ⟨.inl rfl, rfl⟩

theorem trans {s₁ : State} (h₁ : ListKept s₀ s₁) (h₂ : ListKept s₁ s) : ListKept s₀ s := by
  refine ⟨?_, h₂.present.trans h₁.present⟩
  obtain h | h := h₂.entries
  · rw [h]
    exact h₁.entries
  · exact .inr h

/-- The operations of the blocks, done on a state whose list is kept. -/
theorem rest {u : State} (h : ListKept s₀ s) (hr : RestKept s u) : ListKept s₀ u := h.trans hr.list

theorem setCycle (h : ListKept s₀ s) (c : Cycle) : ListKept s₀ (s.setCycle c) := by
  refine h.trans ?_
  unfold State.setCycle
  split <;> exact ⟨.inl rfl, rfl⟩

theorem startDefining (h : ListKept s₀ s) : ListKept s₀ s.startDefining := by
  unfold State.startDefining
  split
  · exact h.setCycle _
  · exact h

theorem dropAllCues (h : ListKept s₀ s) (r : DropReason) : ListKept s₀ (s.dropAllCues r) := by
  have hb := BesideCues.dropCues r s.cues.entries s
  refine ⟨.inr (dropAllCues_cues r s).1, Eq.trans ?_ h.present⟩
  exact congrArg Audio.present hb.audio

theorem actRecord {t : TrackId} {k : Cut} {u : State} (e : s.actRecord t k = .ok u) : ListKept s u := by
  unfold State.actRecord at e
  split at e
  · cases e
  · split at e
    · cases e
    · next v id hroom =>
      obtain rfl := Except.ok.inj e
      have hv : ListKept s ((v.freeRedo t).startDefining) :=
        ((((RestKept.refl s).takeRoom hroom).freeRedo t).list).startDefining
      exact (hv.rest ((RestKept.refl _).openLayer _ _ _ _ _ _)).rest ((RestKept.refl _).raise _ _ _ _)

theorem actLayer {t : TrackId} {cover : Bool} {k : Cut} {u : State} (e : s.actLayer t cover k = .ok u) :
    ListKept s u := by
  unfold State.actLayer at e
  split at e
  · split at e
    · cases e
    · next v id hroom =>
      obtain rfl := Except.ok.inj e
      exact (((((RestKept.refl s).takeRoom hroom).freeRedo t).openLayer _ _ _ _ _ _).raise _ _ _ _).list
  · cases e

theorem actClose {t : TrackId} {k : Cut} {u : State} (e : s.actClose t k = .ok u) : ListKept s u := by
  unfold State.actClose at e
  split at e
  case h_1 | h_2 | h_3 =>
    obtain rfl := Except.ok.inj e
    exact ((RestKept.refl s).closeAtCut t k false).list
  all_goals cases e

theorem actMute (t : TrackId) (target : Nat) : ListKept s (s.actMute t target) :=
  (((RestKept.refl s).modTrack _ _).noteTrack _ _).list

theorem toRedo {s₀ s : State} (h : RestKept s₀ s) (t : TrackId) (id : Nat) : RestKept s₀ (s.toRedo t id) := by
  have hm := (h.loseWindowsOn id .undone).modLayer id fun l => { l with state := .undone, buf := ReadBuf.aimed 0 }
  unfold State.toRedo
  dsimp only
  split
  · exact (hm.freeLayer _ _).modTrack _ _
  · exact hm.modTrack _ _

theorem actUndo {t : TrackId} {u : State} (e : s.actUndo t = .ok u) : ListKept s u := by
  unfold State.actUndo at e
  dsimp only at e
  split at e
  · cases e
  · next older newer _ =>
    obtain rfl := Except.ok.inj e
    exact (((toRedo ((RestKept.refl s).abandonFold .undone [older]) t newer).settleTrack t).noteTrack t _).list
  · next id _ =>
    split at e
    · cases e
    · split at e
      case h_1 =>
        obtain rfl := Except.ok.inj e
        have hf := (((RestKept.refl s).freeLayer .undone id).modTrack t fun tr =>
          { tr.dropLayer id with state := .playing, marker := none }).list
        refine ListKept.rest ?_ (((RestKept.refl _).settleTrack t).noteTrack t _)
        split
        · exact hf.setCycle _
        · exact hf
      case h_2 =>
        obtain rfl := Except.ok.inj e
        exact (((((RestKept.refl s).freeLayer .undone id).modTrack t (Track.dropLayer id)).settleTrack t).noteTrack t
          _).list
      all_goals
        obtain rfl := Except.ok.inj e
        exact (((toRedo (RestKept.refl s) t id).settleTrack t).noteTrack t _).list

theorem actRedo {t : TrackId} {u : State} (e : s.actRedo t = .ok u) : ListKept s u := by
  unfold State.actRedo at e
  dsimp only at e
  split at e
  · cases e
  · split at e
    · cases e
    · split at e
      · cases e
      · obtain rfl := Except.ok.inj e
        exact (((((RestKept.refl s).modLayer _ _).setTrack t _).reaim _).noteTrack t _).list

theorem reaimAllZero (h : ListKept s₀ s) : ListKept s₀ s.reaimAllZero := ⟨h.entries, h.present⟩

theorem raise (h : ListKept s₀ s) (k : EventKind) (t : Option TrackId) (l : Option Nat) (d : Nat) :
    ListKept s₀ (s.raise k t l d) := ⟨h.entries, h.present⟩

theorem pauseCycle (h : ListKept s₀ s) : ListKept s₀ s.pauseCycle :=
  ((h.setCycle { s.cycle with state := .paused, pos := 0, pass := 0, origin := false }).raise .cyclePaused none none
    0).reaimAllZero

theorem actStopAll (k : Cut) : ListKept s (s.actStopAll k) := by
  have hclose := fun stop => ((RestKept.refl s).closeTracks k stop (List.finRange 6)).list.dropAllCues .stopped
  unfold State.actStopAll
  split
  · exact (hclose false).pauseCycle
  · exact hclose true
  · exact refl s
  · exact refl s

theorem actPlayAll {u : State} (e : s.actPlayAll = .ok u) : ListKept s u := by
  unfold State.actPlayAll at e
  split at e
  · obtain rfl := Except.ok.inj e
    exact ((refl s).setCycle _).rest ((RestKept.refl _).raise _ _ _ _)
  · obtain rfl := Except.ok.inj e
    exact refl s
  all_goals cases e

/-- An action handed to its owner gives the list no entry. -/
theorem act {a : Action} {target : Option TrackId} {k : Cut} {u : State} (e : s.act a target k = .ok u) :
    ListKept s u := by
  unfold State.act at e
  split at e
  · exact actRecord e
  · exact actLayer e
  · exact actLayer e
  · exact actClose e
  · obtain rfl := Except.ok.inj e
    exact actMute _ _
  · obtain rfl := Except.ok.inj e
    exact actMute _ _
  · exact actUndo e
  · exact actRedo e
  · obtain rfl := Except.ok.inj e
    exact actStopAll k
  · exact actPlayAll e
  · cases e

end ListKept

/-! ### The head entry taken again and again (R91) -/

/-- The place reached is the due of no head entry. -/
def CueList.headElsewhere (r : Reached) (q : CueList) : Prop :=
  ∀ d rest, q.entries = d :: rest → ¬ (d.duePass = r.pass ∧ d.duePos = r.pos)

theorem takeCue_idle {r : Reached} {s : State} (h : s.cues.headElsewhere r) : s.takeCue r = s := by
  unfold State.takeCue
  split
  · rfl
  · next c rest hc => rw [if_neg (h c rest hc)]

theorem takeCues_idle {r : Reached} {s : State} (h : s.cues.headElsewhere r) (n : Nat) : s.takeCues r n = s := by
  induction n with
  | zero => rfl
  | succ n ih =>
    show (s.takeCue r).takeCues r n = s
    rw [takeCue_idle h]
    exact ih

/-- Taking the head entry leaves the entries after it, or none. -/
theorem takeCue_list (r : Reached) (s : State) :
    (s.takeCue r).audio.present = s.audio.present
      ∧ (s.cues.headElsewhere r ∨ (s.takeCue r).cues.entries.length < s.cues.entries.length) := by
  unfold State.takeCue
  split
  · next h => exact ⟨rfl, .inl fun d rest hd => by rw [h] at hd; cases hd⟩
  · next c rest hc =>
    split
    · have shorter : ∀ {u : State}, ListKept { s with cues := { s.cues with entries := rest } } u →
          u.audio.present = s.audio.present ∧ u.cues.entries.length < s.cues.entries.length := by
        intro u hu
        refine ⟨hu.present, ?_⟩
        rw [hc]
        obtain h | h := hu.entries <;> rw [h] <;> simp
      dsimp only
      split
      · next e =>
        have h := shorter (ListKept.act e)
        exact ⟨h.1, .inr h.2⟩
      · have h := shorter (ListKept.refl _)
        exact ⟨h.1, .inr h.2⟩
    · next hd =>
      refine ⟨rfl, .inl fun d rest' hd' => ?_⟩
      rw [hc] at hd'
      obtain ⟨rfl, -⟩ := List.cons.inj hd'
      exact hd

/-- Once as many entries as there were have been looked at, none at the head is due here. -/
theorem takeCues_done (r : Reached) (n : Nat) : ∀ s : State, s.cues.entries.length ≤ n →
    (s.takeCues r n).cues.headElsewhere r ∧ (s.takeCues r n).audio.present = s.audio.present := by
  induction n with
  | zero =>
    intro s h
    refine ⟨fun d rest hd => ?_, rfl⟩
    have hd : s.cues.entries = d :: rest := hd
    rw [hd] at h
    simp at h
  | succ n ih =>
    intro s h
    obtain ⟨hp, hidle | hlt⟩ := takeCue_list r s
    · rw [takeCues_idle hidle]
      exact ⟨hidle, rfl⟩
    · obtain ⟨hd, hp'⟩ := ih (s.takeCue r) (by omega)
      exact ⟨hd, hp'.trans hp⟩

/-- After the boundary work the head entry is due elsewhere (R91). -/
theorem boundaryWork_done (r : Reached) (work : List (Option TrackId)) : ∀ (wraps : List TrackId) (s : State),
    (s.boundaryWork r work wraps).cues.headElsewhere r
      ∧ (s.boundaryWork r work wraps).audio.present = s.audio.present := by
  induction work with
  | nil =>
    intro wraps s
    obtain ⟨hd, hp⟩ := takeCues_done r _ (s.wrapAll wraps) (le_refl _)
    exact ⟨hd, hp.trans (RestKept.wrapAll wraps (RestKept.refl s)).output.2⟩
  | cons x work ih =>
    intro wraps s
    cases x with
    | none =>
      obtain ⟨hd, hp⟩ := ih wraps (s.takeCue r)
      exact ⟨hd, hp.trans (takeCue_list r s).1⟩
    | some t =>
      unfold State.boundaryWork
      split
      · obtain ⟨hd, hp⟩ := ih (wraps.erase t) (s.wrapTrack t)
        exact ⟨hd, hp.trans (((RestKept.refl s).decayTrack t).roll t).output.2⟩
      · exact ih wraps s

/-- With no cue in the list the boundary work is the wraps alone (R91). -/
theorem boundaryWork_noCues (r : Reached) (work : List (Option TrackId)) : ∀ (wraps : List TrackId) {s₀ s : State},
    RestKept s₀ s → s₀.cues.entries = [] → RestKept s₀ (s.boundaryWork r work wraps) := by
  have idle : ∀ {s₀ s : State}, RestKept s₀ s → s₀.cues.entries = [] → s.cues.headElsewhere r := by
    intro s₀ s h h0 d rest hd
    rw [h.cues, h0] at hd
    cases hd
  induction work with
  | nil =>
    intro wraps s₀ s h h0
    have hw := RestKept.wrapAll wraps h
    show RestKept s₀ ((s.wrapAll wraps).takeCues r _)
    rwa [takeCues_idle (idle hw h0)]
  | cons x work ih =>
    intro wraps s₀ s h h0
    cases x with
    | none =>
      show RestKept s₀ ((s.takeCue r).boundaryWork r work wraps)
      rw [takeCue_idle (idle h h0)]
      exact ih wraps h h0
    | some t =>
      unfold State.boundaryWork
      split
      · exact ih _ ((h.decayTrack t).roll t) h0
      · exact ih _ h h0

end Sys2Proof.Machine


/-! # A RUNNING cycle moves at an arrival (R4, R6, R91) -/

namespace Sys2Proof.Machine

open Sys2Proof

/-- The port's stream moved on leaves the counts of the pass and whether the link is PRESENT (R163). -/
theorem synced_eq (n : Nat) (bits : BitVec 256) (ord : Order) (f : FrameIn) (s : State) :
    ∃ a, s.synced n bits ord f = { s with audio := a } ∧ a.passErrors = s.audio.passErrors
      ∧ a.reported = s.audio.reported ∧ a.present = s.audio.present := by
  refine ⟨_, rfl, ?_⟩
  split <;> exact ⟨rfl, rfl, rfl⟩

/-- The cycle timer moved on by an arrival on a RUNNING cycle (R4). -/
theorem move_eq (k : Cycle) (len : Nat) : k.move len =
    ({ k with
        origin := false
        pos := if k.origin = true ∨ k.pos + 1 = len then 0 else k.pos + 1
        pass := if k.origin = false ∧ k.pos + 1 = len then (k.pass + 1) % 256 else k.pass },
      !k.origin && decide (k.pos + 1 = len)) := by
  unfold Cycle.move
  cases ho : k.origin with
  | true => simp
  | false =>
    by_cases hp : k.pos + 1 = len
    · simp [hp]
    · simp [hp]

/-- The events of the boundaries that an arrival has reached, stamped with a place (R6). -/
def Reached.events (r : Reached) (pass pos : Nat) : List Event :=
  (if r.wrap = true then
    [({ kind := .cycleWrap, urgent := false, track := none, layer := none, cue := none,
        pass := pass, pos := pos, detail := BitVec.ofNat 16 r.pass } : Event)] else [])
  ++ (match r.beat with
    | some (j, bar) =>
      [{ kind := .beat, urgent := false, track := none, layer := none, cue := none, pass := pass, pos := pos
         detail := BitVec.ofNat 16 (j + if bar = true then 32768 else 0) }]
    | none => [])

/-- What announcing the boundaries changes: the port controllers, which are offered the events in order. -/
theorem announce_eq (r : Reached) (s : State) :
    (∃ a b, s.announce r = { s with portA := a, portB := b })
      ∧ ∀ p, (s.announce r).port p = (r.events s.cycle.pass s.cycle.shownPos).foldl (fun x e => x.offer e) (s.port p) := by
  obtain ⟨pass, pos, beat, wrap⟩ := r
  cases wrap <;> cases beat
  all_goals exact ⟨⟨_, _, rfl⟩, fun p => by cases p <;> rfl⟩

/-- An arrival on a RUNNING cycle moves the cycle timer, clears the flags of the pass at a wrap, and announces (R4,
R6, R130, R166). -/
theorem advance_running {len : Nat} {c : Cycle} {r : Reached} {s : State} (hrun : s.cycle.state = .running)
    (hl : s.cycle.len = some len) (hc : c = (s.cycle.move len).1)
    (hr : r = { pass := c.pass, pos := c.pos, beat := c.reachedBeat len, wrap := (s.cycle.move len).2 }) :
    s.advance = ((if r.wrap = true then ({ s with cycle := c } : State).clearPassFlags else
      { s with cycle := c }).announce r, some r) := by
  unfold State.advance
  rw [hrun, hl, hr, hc]

/-- The state that an arrival on a RUNNING cycle hands to the blocks, field by field. -/
theorem advanced_fields {c : Cycle} {r : Reached} {a : Audio} {s v : State}
    (hv : v = (if r.wrap = true then ({ s with cycle := c, audio := a } : State).clearPassFlags else
      { s with cycle := c, audio := a }).announce r) :
    v.cycle = c ∧ v.tracks = s.tracks ∧ v.layers = s.layers ∧ v.cues = s.cues ∧ v.capture = s.capture ∧ v.mem = s.mem
      ∧ v.fold = s.fold ∧ v.switches = s.switches ∧ v.power = s.power
      ∧ v.mixer = (if r.wrap = true then { s.mixer with frontReported := false, earReported := false } else s.mixer)
      ∧ v.audio.passErrors = (if r.wrap = true then 0 else a.passErrors)
      ∧ v.audio.reported = (if r.wrap = true then false else a.reported)
      ∧ v.audio.present = a.present
      ∧ ∀ p, v.port p = (r.events c.pass c.shownPos).foldl (fun x e => x.offer e) (s.port p) := by
  subst hv
  by_cases hw : r.wrap = true
  · obtain ⟨⟨pa, pb, e⟩, hp⟩ := announce_eq r ({ s with cycle := c, audio := a } : State).clearPassFlags
    rw [if_pos hw, if_pos hw, if_pos hw, if_pos hw]
    refine ⟨?_, ?_, ?_, ?_, ?_, ?_, ?_, ?_, ?_, ?_, ?_, ?_, ?_, fun p => (hp p).trans (by cases p <;> rfl)⟩ <;>
      rw [e] <;> rfl
  · obtain ⟨⟨pa, pb, e⟩, hp⟩ := announce_eq r { s with cycle := c, audio := a }
    rw [if_neg hw, if_neg hw, if_neg hw, if_neg hw]
    refine ⟨?_, ?_, ?_, ?_, ?_, ?_, ?_, ?_, ?_, ?_, ?_, ?_, ?_, fun p => (hp p).trans (by cases p <;> rfl)⟩ <;> rw [e]

/-- The boundary work leaves no cue due at the place reached, and with no cue in the list it does not move the cycle
timer (R91). -/
theorem atBoundary_done (ord : Order) (r : Reached) (s : State) :
    (s.atBoundary ord (some r)).cues.headElsewhere r
      ∧ (s.atBoundary ord (some r)).audio.present = s.audio.present
      ∧ (s.cues.entries = [] → s.cycle.state ≠ .defining → (s.atBoundary ord (some r)).cycle = s.cycle) := by
  obtain ⟨hd, hp⟩ := boundaryWork_done r ord.work (if r.wrap then s.wrapping r.pass else []) s
  exact ⟨hd, hp, fun h0 hst =>
    ((boundaryWork_noCues r ord.work (if r.wrap then s.wrapping r.pass else []) (RestKept.refl s) h0).quiet hst).1⟩

/-- O50: a FRAME SYNC that closes a frame on a RUNNING cycle. -/
theorem exec_frameSync_running {n len : Nat} {bits : BitVec 256} {ord : Order} {f : FrameIn} {s : State}
    (hres : s.power.resetHeld = false) (hp : s.power.part = .run) (hf : s.audio.frame = some f)
    (hrun : s.cycle.state = .running) (hl : s.cycle.len = some len) {c : Cycle} {r : Reached}
    (hc : c = ((s.countFrame).cycle.move len).1)
    (hr : r = { pass := c.pass, pos := c.pos, beat := c.reachedBeat len, wrap := (s.countFrame.cycle.move len).2 }) :
    ∃ a : Audio, a.passErrors = s.audio.passErrors ∧ a.reported = s.audio.reported ∧ a.present = s.audio.present
      ∧ ∃ v t : State, v = (if r.wrap = true then ({ s with cycle := c, audio := a } : State).clearPassFlags else
          { s with cycle := c, audio := a }).announce r
        ∧ exec (.frameSync n bits ord) s = .next t
        ∧ t.cues = (v.atBoundary ord (some r)).cues
        ∧ (s.cues.entries = [] → t.cycle = c)
        ∧ (s.audio.present = true → f.count + n = 256 →
          t = v.arrivalWork ord (frameSamples (f.bits ||| bits)) (some r)) := by
  obtain ⟨a, hs, hpe, hre, hpr⟩ := synced_eq n bits ord f s
  obtain ⟨t, e, hcues, hcycle, hwhole⟩ := exec_frameSync_run (n := n) (bits := bits) (ord := ord) hres hp hf
  have hadv := advance_running (s := (s.synced n bits ord f).countFrame) (len := len) (c := c) (r := r)
    (by rw [hs]; exact hrun) (by rw [hs]; exact hl) (by rw [hs, hc]; rfl) (by rw [hs, hr]; rfl)
  have hv : (s.synced n bits ord f).countFrame.advance.1 =
      (if r.wrap = true then ({ s with cycle := c, audio := a } : State).clearPassFlags else
        { s with cycle := c, audio := a }).announce r := by
    rw [hadv, hs]
    rfl
  obtain ⟨hvc, -, -, hvcues, -, -, -, -, -, -, -, -, hvp, -⟩ := advanced_fields (s := s) hv
  generalize (s.synced n bits ord f).countFrame.advance.1 = v at hv hvc hvcues hvp hcues hcycle hwhole
  rw [congrArg Prod.snd hadv] at hcues hcycle hwhole
  dsimp only at hcues hcycle hwhole
  have hk := arrivalWork_timerKept ord (s.synced n bits ord f).audio.held (some r) v
  obtain ⟨-, hbp, hbc⟩ := atBoundary_done ord r v
  have hcst : c.state ≠ .defining := by
    rw [hc, move_eq]
    show s.cycle.state ≠ .defining
    rw [hrun]
    decide
  refine ⟨a, hpe, hre, hpr, v, t, hv, e, hcues.trans hk.cues, fun h0 => ?_, fun hpres hn => ?_⟩
  · have hb := hbc (by rw [hvcues]; exact h0) (by rw [hvc]; exact hcst)
    exact hcycle.trans ((hk.cycle (by rw [hb, hvc]; exact hcst)).trans (hb.trans hvc))
  · obtain ⟨hheld, ht⟩ := hwhole (hk.present.trans (hbp.trans (hvp.trans (hpr.trans hpres)))) hn
    rw [← hheld]
    exact ht

end Sys2Proof.Machine


/-! # The capture unit at an arrival (R58, R62, R65, R66) -/

namespace Sys2Proof.Machine

open Sys2Proof

/-! ### The order of the blocks' work (R164) -/

/-- Settling ends an arrival's work; it does not touch the output frame formed before it. -/
theorem arrivalWork_mixed {ord : Order} {f : Frame} {r : Option Reached} {s w : State}
    (hw : w = ((({ s.atBoundary ord r with fresh := [] } : State).captureArrival s.cycle.here f ord).closeLimits
      (List.finRange 6)).mix f s.cycle.here (r.bind Reached.beat)) :
    (s.arrivalWork ord f r).audio.pendingOut = w.audio.pendingOut
      ∧ (w.cycle.state ≠ .defining → (s.arrivalWork ord f r).audio = w.audio
        ∧ (s.arrivalWork ord f r).mixer = w.mixer) := by
  have hs : RestKept w (s.arrivalWork ord f r) := by
    rw [hw]
    exact (RestKept.refl _).settle
  exact ⟨hs.output.1, fun hd => ⟨(hs.quiet hd).2.2, (hs.quiet hd).2.1⟩⟩

theorem overtakeAll_eq (place : Point) (l : List (Fin 12)) :
    ∀ s : State, s.overtakeAll place l = l.foldl (fun x i => x.overtake place i) s := by
  induction l with
  | nil => exact fun _ => rfl
  | cons i l ih => exact fun s => ih _

theorem liveAll_eq (f : Frame) (l : List (Fin 12)) :
    ∀ s : State, s.liveAll f l = l.foldl (fun x i => x.liveOne f i) s := by
  induction l with
  | nil => exact fun _ => rfl
  | cons i l ih => exact fun s => ih _

theorem captureArrival_eq {place : Point} {f : Frame} {ord : Order} {s v w : State}
    (hv : v = (List.finRange 12).foldl (fun x i => x.overtake place i) s)
    (hw : w = { v with capture := { v.capture with
      rings := sparsePut silence (v.cycle.frameCount % 8192) f v.capture.rings } }) :
    s.captureArrival place f ord =
      ((ord.records ++ (List.finRange 12).filter (fun i => !ord.records.contains i)).foldl
        (fun x i => x.liveOne f i) (if ord.waitingFirst = true then w.settleCapture 16 else w)).settleCapture 16 := by
  have h : (s.overtakeAll place (List.finRange 12)).writeRing f = w := by
    rw [overtakeAll_eq, ← hv, hw]
    rfl
  unfold State.captureArrival
  rw [h]
  dsimp only
  rw [liveAll_eq]
  rfl

/-! ### The record sample (R58) -/

theorem foldl_addIf {α : Type} (p : α → Bool) (g : α → Int) (l : List α) :
    ∀ a : Int, l.foldl (fun acc i => if p i then acc + g i else acc) a = a + ((l.filter p).map g).sum := by
  induction l with
  | nil => simp
  | cons x l ih =>
    intro a
    rw [List.foldl_cons, ih]
    cases h : p x <;> simp [h, Int.add_assoc]

/-- A record sample is the clamped sum of the slots in the source mask. -/
theorem recordSample_eq (mask : BitVec 8) (f : Frame) : recordSample mask f =
    clamp24 (((List.finRange 8).filter fun j => mask.getLsbD j.val).map fun j => (f[j]).toInt).sum := by
  unfold recordSample
  rw [foldl_addIf, Int.zero_add]

/-! ### A full buffer handed over (R62, R66) -/

theorem setRecord_setRecord (i : Fin 12) (a b : Option CapRec) (s : State) :
    (s.setRecord i a).setRecord i b = s.setRecord i b := by
  simp only [State.setRecord, Vector.set_set]

/-- The record once its buffer is handed over. -/
def CapRec.emptied (r : CapRec) : CapRec := { r with buf := [], nextOff := stampSub r.readStamp r.startStamp }

/-- The burst that a record's buffer makes. -/
def CapRec.burst (now : Nat) (r : CapRec) : Burst :=
  { layer := r.layer, offset := r.nextOff, samples := r.buf, queuedAt := now }

section

variable {i : Fin 12} {r : CapRec} {l : Layer} {s : State}

/-- A hand-over once its block stands: the burst joins the queue, or is lost when that is full. -/
theorem handOver_taken {z : State} (hr : s.capture.records[i] = some r) (hp : r.phase = .inStep)
    (hz : (if r.nextOff % 4096 = 0 then s.allocate r.layer else some s) = some z) :
    s.handOver i = (let y := z.setRecord i (some r.emptied)
      if y.mem.queue.length < 8 then { y with mem := { y.mem with queue := y.mem.queue ++ [r.burst y.now] } }
      else y.overrun y.cycle.here r.layer { first := r.nextOff, len := r.buf.length }) := by
  unfold State.handOver
  rw [hr]
  dsimp only
  rw [hz]
  dsimp only
  rw [if_neg (show ¬ (r.phase = .draining ∧ r.endStamp = some r.readStamp) from fun h => by simp [hp] at h)]
  rfl

theorem handOver_refused (hr : s.capture.records[i] = some r) (h0 : r.nextOff % 4096 = 0) (hf : s.mem.free = []) :
    s.handOver i = s.exhaust r.layer r.nextOff := by
  have hz : (if r.nextOff % 4096 = 0 then s.allocate r.layer else some s) = none := by
    rw [if_pos h0]
    unfold State.allocate
    rw [hf]
    cases s.layer? r.layer <;> rfl
  unfold State.handOver
  rw [hr]
  dsimp only
  rw [hz]

end

/-! ### A record IN STEP takes the frame (R62) -/

theorem liveOne_other {f : Frame} {i : Fin 12} {s : State}
    (h : ∀ r, s.capture.records[i] = some r → r.phase ≠ .inStep ∨ r.readStamp ≠ s.cycle.frameCount) :
    s.liveOne f i = s := by
  unfold State.liveOne
  split
  · next r hr =>
    rw [if_neg]
    rintro ⟨hp, hs⟩
    obtain h | h := h r hr
    · exact h hp
    · exact h hs
  · rfl

/-- The record once it has taken a sample. -/
def CapRec.taking (x : Sample) (r : CapRec) : CapRec :=
  { r with buf := r.buf ++ [x], readStamp := stampAdd r.readStamp 1 }

theorem liveOne_takes {f : Frame} {i : Fin 12} {r : CapRec} {x : Sample} {s : State}
    (hr : s.capture.records[i] = some r) (hp : r.phase = .inStep) (hs : r.readStamp = s.cycle.frameCount)
    (hx : x = recordSample (s.track r.track).sources f) :
    s.liveOne f i = if 64 ≤ r.buf.length + 1 then (s.setRecord i (some (r.taking x))).handOver i
      else s.setRecord i (some (r.taking x)) := by
  unfold State.liveOne
  rw [hr]
  dsimp only
  rw [if_pos ⟨hp, hs⟩, ← hx]
  simp only [List.length_append, List.length_singleton]
  rfl

/-- The four outcomes of a full buffer (R62, R66): queued with or without a block taken, lost to a full queue, or
refused for memory. -/
theorem liveOne_full {f : Frame} {i : Fin 12} {r : CapRec} {x : Sample} {next : Nat} {s v : State}
    (hr : s.capture.records[i] = some r) (hp : r.phase = .inStep) (hs : r.readStamp = s.cycle.frameCount)
    (hnext : next = stampAdd r.readStamp 1) (hx : x = recordSample (s.track r.track).sources f)
    (hv : v = s.setRecord i (some { r with buf := [], readStamp := next, nextOff := stampSub next r.startStamp }))
    (hfull : r.buf.length = 63) (burst : Burst)
    (hb : burst = { layer := r.layer, offset := r.nextOff, samples := r.buf ++ [x], queuedAt := s.now }) :
    (r.nextOff % 4096 ≠ 0 → s.mem.queue.length < 8 →
      s.liveOne f i = { v with mem := { s.mem with queue := s.mem.queue ++ [burst] } })
    ∧ (∀ (l : Layer) (blk : Nat) (more : List Nat), r.nextOff % 4096 = 0 → s.layer? r.layer = some l →
      s.mem.free = blk :: more → s.mem.queue.length < 8 →
      s.liveOne f i = { v with mem := { s.mem with
        free := more, queue := s.mem.queue ++ [burst] } }.setLayer r.layer { l with extents := l.extents ++ [blk] })
    ∧ (∀ l, r.nextOff % 4096 ≠ 0 → s.layer? r.layer = some l → 8 ≤ s.mem.queue.length →
      s.liveOne f i = (v.setLayer r.layer
        { l with
          holes := addHole { first := r.nextOff, len := 64 } l.holes
          damaged := true }).takeFault
        { kind := .writeOverrun, requester := .capture, block := l.extents[r.nextOff / 4096]?
          layer := some r.layer, track := some l.track, pass := s.cycle.pass, pos := s.cycle.shownPos })
    ∧ (r.nextOff % 4096 = 0 → s.mem.free = [] →
      s.liveOne f i = (s.setRecord i (some { r with
        buf := r.buf ++ [x], readStamp := next })).exhaust r.layer r.nextOff) := by
  subst hnext
  have hlive : s.liveOne f i = (s.setRecord i (some (r.taking x))).handOver i := by
    rw [liveOne_takes hr hp hs hx, if_pos (by omega)]
  have hrec : (s.setRecord i (some (r.taking x))).capture.records[i] = some (r.taking x) :=
    (record_setRecord i i _ s).trans (if_pos rfl)
  have hset : (s.setRecord i (some (r.taking x))).setRecord i (some (r.taking x).emptied) = v := by
    rw [setRecord_setRecord, hv]
    rfl
  have hlen : (r.taking x).buf.length = 64 := by simp [CapRec.taking, hfull]
  have hqueue : v.mem.queue = s.mem.queue := by rw [hv]; rfl
  have hburst : (r.taking x).burst v.now = burst := by rw [hb, hv]; rfl
  refine ⟨fun h0 hq => ?_, fun l blk more h0 hl hf hq => ?_, fun l h0 hl hq => ?_, fun h0 hf => ?_⟩
  · rw [hlive, handOver_taken (r := r.taking x) hrec hp (if_neg h0)]
    dsimp only
    rw [hset, if_pos (by rw [hqueue]; exact hq), hburst, hqueue, hv]
    rfl
  · have hall : (if (r.taking x).nextOff % 4096 = 0
        then (s.setRecord i (some (r.taking x))).allocate (r.taking x).layer
        else some (s.setRecord i (some (r.taking x)))) =
        some (({ s.setRecord i (some (r.taking x)) with mem := { s.mem with free := more } } : State).setLayer r.layer
          { l with extents := l.extents ++ [blk] }) := by
      rw [if_pos (show (r.taking x).nextOff % 4096 = 0 from h0)]
      unfold State.allocate
      rw [show (s.setRecord i (some (r.taking x))).layer? (r.taking x).layer = some l from hl,
        show (s.setRecord i (some (r.taking x))).mem.free = blk :: more from hf]
      rfl
    rw [hlive, handOver_taken (r := r.taking x) hrec hp hall]
    refine (if_pos hq).trans ?_
    rw [hv, ← hburst, hv]
    simp only [State.setRecord, State.setLayer, Vector.set_set]
    rfl
  · rw [hlive, handOver_taken (r := r.taking x) hrec hp (if_neg h0)]
    dsimp only
    rw [hset, if_neg (by rw [hqueue]; omega), hlen]
    have hvl : v.layer? r.layer = some l := by
      rw [hv]
      exact hl
    refine (overrun_here hvl (by show (64 : Nat) ≠ 0; decide)).trans ?_
    rw [hv]
    rfl
  · rw [hlive]
    exact handOver_refused (r := r.taking x) hrec h0 hf

/-! ### An overtaken record (R65) -/

theorem overtake_other {place : Point} {i : Fin 12} {s : State}
    (h : ∀ r, s.capture.records[i] = some r → r.phase = .inStep
      ∨ stampAdd r.readStamp 8192 ≠ s.cycle.frameCount ∨ r.endStamp = some r.readStamp) :
    s.overtake place i = s := by
  unfold State.overtake
  split
  · rfl
  · next r hr =>
    rw [if_neg]
    unfold CapRec.overtaken
    obtain h | h | h := h r hr <;> simp [h]

/-- An overtaken record moves on past the range that it gives up. -/
theorem overtake_gives {place : Point} {i : Fin 12} {r : CapRec} {o first stop : Nat} {s v : State}
    (hr : s.capture.records[i] = some r) (hp : r.phase ≠ .inStep) (hs : stampAdd r.readStamp 8192 = s.cycle.frameCount)
    (he : r.endStamp ≠ some r.readStamp) (ho : o = stampSub r.readStamp r.startStamp)
    (hfirst : first = (if 64 ≤ r.buf.length then o else r.nextOff))
    (hstop : stop = (match r.endStamp with
      | some e => min ((o / 64 + 1) * 64) (stampSub e r.startStamp)
      | none => (o / 64 + 1) * 64)) (hlt : first < stop)
    (hv : v = s.setRecord i (some (if 64 ≤ r.buf.length then { r with readStamp := stampAdd r.startStamp stop }
      else { r with readStamp := stampAdd r.startStamp stop, buf := [], nextOff := stop }))) :
    s.overtake place i = v.giveUp place r.layer { first := first, len := stop - first } := by
  have hrange : r.lostRange = { first := first, len := stop - first } := by
    rw [hstop, hfirst, ho]
    rfl
  have hend : ({ first := first, len := stop - first } : Range).stop = stop := by
    show first + (stop - first) = stop
    omega
  have hover : r.overtaken s.cycle.frameCount = true := by
    unfold CapRec.overtaken
    simp [hp, hs, he]
  unfold State.overtake
  rw [hr]
  dsimp only
  rw [if_pos hover, hrange, hend, hv]

/-- The multiples of 4,096 in a range that lies within the blocks of a layer need no block. -/
theorem blocksNeeded_none {id first stop : Nat} {l : Layer} {s : State} (hl : s.layer? id = some l) (hlt : first < stop)
    (he : l.extents.length * 4096 ≥ stop) : s.blocksNeeded id { first := first, len := stop - first } = [] := by
  unfold State.blocksNeeded
  rw [hl]
  refine List.filter_eq_nil_iff.mpr fun o ho => ?_
  unfold blockStarts Range.stop ceilDiv at ho
  simp only [List.mem_filter, List.mem_map, List.mem_range] at ho
  obtain ⟨⟨k, hk, rfl⟩, -⟩ := ho
  simp only [decide_eq_true_eq]
  omega

/-- A burst range that begins a 4,096-sample range without block needs that block. -/
theorem blocksNeeded_one {id first stop : Nat} {l : Layer} {s : State} (hl : s.layer? id = some l) (hlt : first < stop)
    (hw : stop ≤ first + 64) (h0 : first % 4096 = 0) (he : l.extents.length = first / 4096) :
    s.blocksNeeded id { first := first, len := stop - first } = [first] := by
  obtain ⟨k, rfl⟩ : ∃ k, first = k * 4096 := ⟨first / 4096, by omega⟩
  have hneed := blocksNeeded_remainder s id (k * 4096) stop l hl (by unfold ceilDiv; omega) hlt
  have hone : ceilDiv stop 4096 - l.extents.length = 1 := by
    unfold ceilDiv
    omega
  rw [hneed, hone]
  have hk : l.extents.length = k := by omega
  simp [hk]

/-- What an overtaken record gives up (R65, R143): a hole where the blocks suffice or one is free, and the layer's end
where none is. -/
theorem giveUp_cases {place : Point} {id first stop : Nat} {l : Layer} {v : State} (hl : v.layer? id = some l)
    (hlt : first < stop) (hw : stop ≤ first + 64) (o' : Occurrence) (hole : Layer → Layer)
    (ho' : o' = { kind := .writeOverrun, requester := .capture, block := none, layer := some id
                  track := some l.track, pass := place.pass, pos := place.pos })
    (hhole : hole = (fun l => { l with
      holes := addHole { first := first, len := stop - first } l.holes, damaged := true })) :
    (l.extents.length * 4096 ≥ stop → v.giveUp place id { first := first, len := stop - first } =
      (v.setLayer id (hole l)).takeFault { o' with block := l.extents[first / 4096]? })
    ∧ (∀ blk more, first % 4096 = 0 → l.extents.length = first / 4096 → v.mem.free = blk :: more →
      v.giveUp place id { first := first, len := stop - first } =
        ({ v with mem := { v.mem with free := more } }.setLayer id
          (hole { l with extents := l.extents ++ [blk] })).takeFault { o' with block := some blk })
    ∧ (first % 4096 = 0 → l.extents.length = first / 4096 → v.mem.free = [] →
      v.giveUp place id { first := first, len := stop - first } = v.exhaust id first) := by
  have hover : ∀ {z : State} {m : Layer}, z.layer? id = some m →
      z.overrun place id { first := first, len := stop - first } =
        (z.setLayer id (m.addHole { first := first, len := stop - first })).takeFault
          (.met place .writeOverrun .capture (m.blockOf first) id m.track) := by
    intro z m hm
    unfold State.overrun
    rw [hm]
    dsimp only
    rw [if_neg (by omega)]
  refine ⟨fun he => ?_, fun blk more h0 he hf => ?_, fun h0 he hf => ?_⟩
  · unfold State.giveUp
    rw [blocksNeeded_none hl hlt he]
    refine (hover hl).trans ?_
    rw [hhole, ho']
    rfl
  · unfold State.giveUp
    rw [blocksNeeded_one hl hlt hw h0 he, allocateEach_enough id [first] v l hl (by simp [hf]) (by simp)]
    refine (hover (layer?_setLayer_same ..)).trans ?_
    have hblk : (l.extents ++ [blk])[first / 4096]? = some blk := by rw [← he]; simp
    simp only [hf, List.length_singleton, List.take_succ_cons, List.take_zero, List.drop_succ_cons, List.drop_zero,
      Layer.blockOf, hblk, hhole, ho', State.setLayer, insert_insert]
    rfl
  · have hshort : v.allocateEach id [first] = (v, some first) := by
      unfold State.allocateEach State.allocate
      rw [hf]
      cases v.layer? id <;> rfl
    unfold State.giveUp
    rw [blocksNeeded_one hl hlt hw h0 he, hshort]
    dsimp only
    rw [overrun_nothing (Nat.sub_self first)]

end Sys2Proof.Machine


/-! # Memory that runs out under a recording (R66, R76), and O50 -/

namespace Sys2Proof.Machine

open Sys2Proof

/-! ### A layer cut for want of a block (R76) -/

section

variable {id n : Nat} {l : Layer} {s v : State}

theorem exhaust_opened (hl : s.layer? id = some l) (ho : l.state = .opened)
    (hv : v = s.raise .memoryFull (some l.track) (some id) (sat16 (n / 64))) :
    s.exhaust id n = v.closeOpen l.track n 0 false false := by
  unfold State.exhaust
  rw [hl]
  dsimp only
  rw [if_pos ho, hv]

theorem exhaust_notOpened (hl : s.layer? id = some l) (ho : l.state ≠ .opened)
    (hv : v = s.raise .memoryFull (some l.track) (some id) (sat16 (n / 64))) :
    s.exhaust id n = v.cutClosed id n := by
  unfold State.exhaust
  rw [hl]
  dsimp only
  rw [if_neg ho, hv]

theorem reaim_layer (hl : s.layer? id = some l) : ∃ b, (s.reaim id).layer? id = some { l with buf := b } := by
  unfold State.reaim
  rw [layer?_modLayer, if_pos rfl, hl]
  exact ⟨_, rfl⟩

/-- The layer that a close keeps, whatever its buffer is aimed at. -/
theorem keepLayer_layer {t : TrackId} {f : Layer → Layer} {g : Track → Track} {fresh : Bool}
    (hl : s.layer? id = some l) :
    ∃ b, (s.keepLayer t id n f g fresh).layer? id = some { f (l.cutTo n) with buf := b } := by
  obtain ⟨m, fr, a, b, e⟩ := keepLayer_eq (t := t) (n := n) (f := f) (g := g) (fresh := fresh) hl
  obtain ⟨buf, hr⟩ := reaim_layer (s := (s.setLayer id (f (l.cutTo n))).modTrack t g) (l := f (l.cutTo n))
    (layer?_setLayer_same ..)
  rw [e]
  exact ⟨buf, hr⟩

/-- An overdub or replace layer closed at the samples before the refused block. -/
theorem closeOpen_layered {t : TrackId} (ho : (s.track t).openLayer = some id) (hl : s.layer? id = some l)
    (hst : (s.track t).state = .overdubbing ∨ (s.track t).state = .replacing) (h0 : n ≠ 0) {before : Nat}
    {fresh stop : Bool} :
    (s.closeOpen t n before fresh stop).track t =
        { s.track t with state := .playing, openLayer := none, marker := none }
      ∧ ∃ b, (s.closeOpen t n before fresh stop).layer? id = some { l.cutTo n with
        state := .closed, tail := true, buf := b } := by
  have hclose : s.closeOpen t n before fresh stop = s.closeLayered t id n fresh := by
    unfold State.closeOpen
    rw [ho]
    dsimp only
    rw [if_neg (by obtain h | h := hst <;> rw [h] <;> decide), if_neg h0]
  rw [hclose, closeLayered_eq, keepLayer_track hl, if_pos rfl]
  exact ⟨rfl, keepLayer_layer hl⟩

/-- A first layer on a RUNNING cycle closed at the samples before the refused block, with the span of R34. -/
theorem closeOpen_first {t : TrackId} {len pass pos span start kept : Nat} (ho : (s.track t).openLayer = some id)
    (hl : s.layer? id = some l) (hst : (s.track t).state = .recording) (hc : s.cycle.state = .running)
    (hlen : s.cycle.len = some len) (hs : l.start = .first pass pos) (h0 : n ≠ 0)
    (hfix : fixSpan len pass pos n = (span, start, kept)) {before : Nat} {fresh stop : Bool} :
    (s.closeOpen t n before fresh stop).track t = { s.track t with
        state := .playing, span := some span, heldSpan := none, openLayer := none, marker := none }
      ∧ ∃ b, (s.closeOpen t n before fresh stop).layer? id = some { l.cutTo kept with
        state := .closed, start := .at start, tail := true, buf := b } := by
  have hclose : s.closeOpen t n before fresh stop =
      s.keepFirst t id (span, start, kept) (fresh && decide (kept = n)) := by
    unfold State.closeOpen
    rw [ho]
    dsimp only
    rw [if_pos hst, closeFirst_keeps (by rw [hc]; decide) hl hs h0]
    dsimp only
    rw [show s.cycle.shownLen = len by simp [Cycle.shownLen, hlen], hfix]
  obtain ⟨htr, hla, -⟩ := keepFirst_kept (t := t) (fix := (span, start, kept)) (fresh := fresh && decide (kept = n)) hl
    (fun _ => by simp [hlen])
  rw [hclose]
  exact ⟨htr, _, hla⟩

/-- A closed layer cut before the refused block (R76). -/
theorem cutClosed_keeps (hl : s.layer? id = some l) (hst : l.state = .closed) (h0 : n ≠ 0) :
    (s.cutClosed id n).tracks = s.tracks
      ∧ ∃ b, (s.cutClosed id n).layer? id = some { l.cutTo n with tail := true, buf := b } := by
  have hend : (s.endAt id n).layer? id = some (l.cutTo n) := by simp [layer?_endAt, hl]
  have hmod : ((s.endAt id n).modLayer id fun l => { l with tail := true }).layer? id =
      some { l.cutTo n with tail := true } := by
    rw [layer?_modLayer, if_pos rfl, hend]
    rfl
  unfold State.cutClosed
  rw [hl]
  dsimp only
  rw [if_neg h0, if_neg (by rw [hst]; decide)]
  refine ⟨?_, ?_⟩
  · obtain ⟨m, e⟩ := endAt_eq n hl
    unfold State.reaim
    rw [tracks_modLayer, tracks_modLayer, e]
    rfl
  · exact reaim_layer hmod

/-- A closed layer that keeps no sample is gone, from its track too (R28, R76). -/
theorem cutClosed_gone (hl : s.layer? id = some l) (hs : s.layers.Pairwise (fun e f => e.1 < f.1)) (hf : s.fold = none) :
    (s.cutClosed id 0).layer? id = none ∧ Entry.single id ∉ ((s.cutClosed id 0).track l.track).stack
      ∧ id ∉ ((s.cutClosed id 0).track l.track).redo := by
  have hsettled : ∀ (t : TrackId) (u : State), ((u.settleTrack t).track t).stack = (u.track t).stack
      ∧ ((u.settleTrack t).track t).redo = (u.track t).redo := by
    intro t u
    unfold State.settleTrack
    dsimp only
    split
    · exact ⟨rfl, rfl⟩
    · rw [track_setTrack_same]
      exact ⟨rfl, rfl⟩
  have hnoted : ∀ (t : TrackId) (old : Track) (u : State), BesideCues u (u.noteTrack t old) := by
    intro t old u
    unfold State.noteTrack
    split
    · exact BesideCues.refl u
    · exact raiseTrack_beside t u
  unfold State.cutClosed
  rw [hl]
  dsimp only
  rw [if_pos rfl, hf]
  dsimp only
  obtain ⟨hstack, hredo⟩ := hsettled l.track ((s.freeLayer .discarded id).modTrack l.track (Track.dropLayer id))
  rw [(hnoted _ _ _).layer?, (hnoted _ _ _).track, settleTrack_layer?, hstack, hredo, track_modTrack, if_pos rfl]
  refine ⟨freeLayer_gone .discarded id hs, ?_, ?_⟩ <;> simp [Track.dropLayer]

end

/-! ### O50 -/

/-- Settles O50: the cycle timer's own step and the boundary work, the order of the blocks' work, and the capture
unit's work on a record IN STEP, on one overtaken, and on a layer that no block is left for. -/
theorem runningCycleMovesAtArrivals : Obligations.RunningCycleMovesAtArrivals := by
  refine ⟨?_, ?_, ?_, ?_, ?_, ?_⟩
  · intro n bits ord f len s hres hp hf hrun hl c r hc hr
    have hmove := move_eq s.countFrame.cycle len
    have hc' : c = (s.countFrame.cycle.move len).1 := by
      rw [hmove, hc]
      rfl
    obtain ⟨a, hpe, hre, -, v, t, hv, he, hcues, hcycle, hwhole⟩ :=
      exec_frameSync_running (n := n) (bits := bits) (ord := ord) hres hp hf hrun hl hc' (r := r)
        (by rw [hmove, hr]; rfl)
    obtain ⟨h1, h2, h3, h4, h5, h6, h7, h8, h9, h10, h11, h12, -, hports⟩ := advanced_fields hv
    rw [hpe] at h11
    rw [hre] at h12
    refine ⟨v, t, he, h1, h2, h3, h4, h5, h6, h7, h8, h9, h10, h11, h12, fun p => ?_, hcues, ?_,
      hcycle, hwhole⟩
    · have hshown : c.shownPos = c.pos := by rw [hc]; rfl
      have hport := hports p
      rw [hshown, hr] at hport
      rw [hr]
      exact hport
    · rw [hcues]
      exact (atBoundary_done ord r v).1
  · intro ord f r s w hw
    exact arrivalWork_mixed hw
  · intro place f ord s v w hv hw
    exact captureArrival_eq hv hw
  · intro f i s
    refine ⟨liveOne_other, fun r hr hp hs x next v hnext hx hv => ?_⟩
    have hx : x = recordSample (s.track r.track).sources f := by rw [recordSample_eq, hx]
    refine ⟨fun hlt => ?_, fun hfull burst hb => liveOne_full hr hp hs hnext hx hv hfull burst hb⟩
    rw [liveOne_takes hr hp hs hx, if_neg (by omega), hnext]
    rfl
  · intro place i s
    refine ⟨overtake_other, fun r l hr hp hs he hl o first stop ho hfirst hstop hlt hw v o' hole hv ho' hhole => ?_⟩
    have hvl : v.layer? r.layer = some l := by
      rw [hv]
      exact hl
    have hfree : v.mem = s.mem := by
      rw [hv]
      rfl
    rw [overtake_gives hr hp hs he ho hfirst hstop hlt hv, ← hfree]
    exact giveUp_cases hvl hlt hw o' hole ho' hhole
  · intro id n l s u v hl hu hv
    have hv : v = s.raise .memoryFull (some l.track) (some id) (sat16 (n / 64)) := hv
    have hvl : v.layer? id = some l := by
      rw [hv]
      exact hl
    have hvt : v.tracks = s.tracks := by
      rw [hv]
      rfl
    have htrack : v.track l.track = s.track l.track := congrArg (·[l.track]) hvt
    have hcyc : v.cycle = s.cycle := by
      rw [hv]
      rfl
    refine ⟨fun ho => hu.trans (exhaust_opened hl ho hv), fun ho hopen hst h0 => ?_,
      fun len pass pos span start kept ho hopen hst hc hlen hs h0 hfix => ?_, fun hst h0 => ?_, fun hst h0 hs hf => ?_⟩
    · obtain ⟨htr, b, hla⟩ := closeOpen_layered (t := l.track) (by rw [htrack, hopen]) hvl
        (by rw [htrack]; exact hst) h0 (before := 0) (fresh := false) (stop := false)
      rw [hu, exhaust_opened hl ho hv, htr, htrack]
      exact ⟨rfl, _, hla, rfl⟩
    · obtain ⟨htr, b, hla⟩ := closeOpen_first (t := l.track) (by rw [htrack, hopen]) hvl (by rw [htrack, hst])
        (by rw [hcyc, hc]) (by rw [hcyc, hlen]) hs h0 hfix (before := 0) (fresh := false) (stop := false)
      rw [hu, exhaust_opened hl ho hv, htr, htrack]
      exact ⟨rfl, _, hla, rfl, rfl, rfl, rfl⟩
    · obtain ⟨htr, b, hla⟩ := cutClosed_keeps hvl hst h0
      rw [hu, exhaust_notOpened hl (by rw [hst]; decide) hv, htr]
      exact ⟨hvt, _, hla, rfl⟩
    · subst h0
      rw [hu, exhaust_notOpened hl (by rw [hst]; decide) hv]
      exact cutClosed_gone hvl (by rw [hv]; exact hs) (by rw [hv]; exact hf)

end Sys2Proof.Machine


/-! # The pools from within: what PoolsWithin says of the layer records and of the tracks (R27 to R29, R43, R85)

`Registered` is the part about the layer records, their capture records and windows, and the cues; `TracksWithin` the
part about stacks, redo lists and the folding pair. `PoolsLike` says that an operation leaves both as they stand. -/

namespace Sys2Proof.Machine

open Sys2Proof

/-! ### The layer records in use by id -/

/-- The ids of the layer records in use (R27). -/
def State.ids (s : State) : List Nat := s.layers.map Prod.fst

theorem keys_insert {α : Type} (k : Nat) (v : α) (l : List (Nat × α)) (j : Nat) :
    j ∈ (assocInsert k v l).map Prod.fst ↔ j = k ∨ j ∈ l.map Prod.fst := by
  induction l with
  | nil => simp [assocInsert]
  | cons x l ih =>
    unfold assocInsert
    split
    · simp
    · split
      · next h => simp [← h]
      · simp only [List.map_cons, List.mem_cons, ih]
        tauto

theorem find_isSome {α : Type} (k : Nat) (l : List (Nat × α)) : (assocFind k l).isSome = true ↔ k ∈ l.map Prod.fst := by
  induction l with
  | nil => simp [assocFind]
  | cons x l ih =>
    unfold assocFind
    split
    · next h => simp [h]
    · next h => simp [ih, Ne.symm h]

theorem mem_ids {id : Nat} {s : State} : id ∈ s.ids ↔ (s.layer? id).isSome = true := (find_isSome _ _).symm

theorem mem_ids_of_layer {id : Nat} {l : Layer} {s : State} (h : s.layer? id = some l) : id ∈ s.ids :=
  mem_ids.mpr (by rw [h]; rfl)

theorem not_mem_ids {id : Nat} {s : State} : id ∉ s.ids ↔ s.layer? id = none := by
  rw [mem_ids, Option.not_isSome_iff_eq_none]

/-! ### The two parts of PoolsWithin -/

/-- The track, the members and the result of a running fold. -/
def Fold.key (f : Fold) : TrackId × Nat × Nat × Nat := (f.track, f.older, f.newer, f.result)

/-- The layer records with ids 1 to 40, each listed once and, save those of `x`, placed; capture records and windows of
layers in use alone; at most 16 cues, one for each slot (R27, R85). -/
structure Registered (x : Nat → Prop) (s : State) : Prop where
  sorted : s.layers.Pairwise (fun e f => e.1 < f.1)
  range : ∀ id ∈ s.ids, 1 ≤ id ∧ id ≤ 40
  placed : ∀ id ∈ s.ids, x id ∨ s.placed id
  records : ∀ (i : Fin 12) (r : CapRec), s.capture.records[i] = some r → r.layer ∈ s.ids
  windows : ∀ (p : Port) (w : Window), s.window p = some w → w.layer ∈ s.ids
  cues : s.cues.entries.length ≤ 16
  slots : s.cues.entries.Pairwise (fun c d => ¬ (c.target = d.target ∧ c.action.family = d.action.family))

/-- At most 8 entries in a stack and 4 layers in a redo list, the fold's pair in the stack of its track and no pair
elsewhere (R29, R43). -/
structure TracksWithin (s : State) : Prop where
  stack : ∀ t, (s.track t).stack.length ≤ 8
  redo : ∀ t, (s.track t).redo.length ≤ 4
  pairs : ∀ t, stackPairs (s.track t).stack = s.foldPair t

theorem poolsWithin_iff {s : State} : PoolsWithin s ↔ Registered (fun _ => False) s ∧ TracksWithin s := by
  constructor
  · intro h
    refine ⟨⟨h.ids, fun id hid => ?_, fun id hid => ?_, fun i r hr => mem_ids.mpr (h.records i r hr),
      fun p w hw => mem_ids.mpr (h.windows p w hw), h.cues, h.slots⟩, ⟨h.stack, h.redo, h.pairs⟩⟩
    · obtain ⟨e, he, rfl⟩ := List.mem_map.mp hid
      exact h.range e he
    · obtain ⟨e, he, rfl⟩ := List.mem_map.mp hid
      exact .inr (h.placed e he)
  · rintro ⟨hr, ht⟩
    exact ⟨hr.sorted, fun e he => hr.range _ (List.mem_map_of_mem he),
      fun e he => (hr.placed _ (List.mem_map_of_mem he)).resolve_left id, ht.stack, ht.redo, ht.pairs,
      fun i r h => mem_ids.mp (hr.records i r h), fun p w h => mem_ids.mp (hr.windows p w h), hr.cues, hr.slots⟩

theorem PoolsWithin.registered {s : State} (h : PoolsWithin s) : Registered (fun _ => False) s := (poolsWithin_iff.mp h).1

theorem PoolsWithin.tracksWithin {s : State} (h : PoolsWithin s) : TracksWithin s := (poolsWithin_iff.mp h).2

theorem Registered.within {s : State} (h : Registered (fun _ => False) s) (ht : TracksWithin s) : PoolsWithin s :=
  poolsWithin_iff.mpr ⟨h, ht⟩

/-- Other layers need no place where those of the first do not, or have one. -/
theorem Registered.mono {x y : Nat → Prop} {s : State} (h : Registered x s)
    (hxy : ∀ id ∈ s.ids, x id → y id ∨ s.placed id) : Registered y s :=
  ⟨h.sorted, h.range, fun id hid => (h.placed id hid).elim (hxy id hid) .inr, h.records, h.windows, h.cues, h.slots⟩

theorem foldPair_key (t : TrackId) (s : State) : s.foldPair t =
    match s.fold.map Fold.key with
    | some (t', o, n, _) => if t' = t then [(o, n)] else []
    | none => [] := by
  unfold State.foldPair
  cases s.fold <;> rfl

theorem placed_key (id : Nat) (s : State) : s.placed id ↔
    (∃ t, id ∈ stackIds (s.track t).stack ∨ id ∈ (s.track t).redo)
      ∨ ∃ k, s.fold.map Fold.key = some k ∧ k.2.2.2 = id := by
  unfold State.placed
  cases s.fold with
  | none => simp
  | some f => simp [Fold.key]

/-! ### Operations that leave the pools -/

/-- The parts of the state that the bounds of the pools speak of. -/
def State.pools (s : State) : List (Nat × Layer) × Vector Track 6 × Option Fold × Vector (Option CapRec) 12
    × Option Window × Option Window × List Cue :=
  (s.layers, s.tracks, s.fold, s.capture.records, s.mem.windowA, s.mem.windowB, s.cues.entries)

/-- The pools stand: the same layer records, stacks, redo lists and cues, the fold of the same layers, and no capture
record or window of a further layer. -/
structure PoolsLike (s u : State) : Prop where
  sorted : s.layers.Pairwise (fun e f => e.1 < f.1) → u.layers.Pairwise (fun e f => e.1 < f.1)
  ids : ∀ id, id ∈ u.ids ↔ id ∈ s.ids
  stack : ∀ t, (u.track t).stack = (s.track t).stack
  redo : ∀ t, (u.track t).redo = (s.track t).redo
  fold : u.fold.map Fold.key = s.fold.map Fold.key
  records : ∀ (i : Fin 12) (r : CapRec), u.capture.records[i] = some r →
    ∃ (j : Fin 12) (q : CapRec), s.capture.records[j] = some q ∧ q.layer = r.layer
  windows : ∀ (p : Port) (w : Window), u.window p = some w → ∃ v, s.window p = some v ∧ v.layer = w.layer
  cues : u.cues.entries = s.cues.entries

theorem PoolsLike.placed {s u : State} (h : PoolsLike s u) (id : Nat) : u.placed id ↔ s.placed id := by
  simp only [placed_key, h.stack, h.redo, h.fold]

theorem Registered.like {x : Nat → Prop} {s u : State} (h : Registered x s) (k : PoolsLike s u) : Registered x u where
  sorted := k.sorted h.sorted
  range id hid := h.range id ((k.ids id).mp hid)
  placed id hid := (h.placed id ((k.ids id).mp hid)).imp_right (k.placed id).mpr
  records i r hr := by
    obtain ⟨j, q, hq, hl⟩ := k.records i r hr
    exact (k.ids _).mpr (hl ▸ h.records j q hq)
  windows p w hw := by
    obtain ⟨v, hv, hl⟩ := k.windows p w hw
    exact (k.ids _).mpr (hl ▸ h.windows p v hv)
  cues := by rw [k.cues]; exact h.cues
  slots := by rw [k.cues]; exact h.slots

theorem TracksWithin.like {s u : State} (h : TracksWithin s) (k : PoolsLike s u) : TracksWithin u where
  stack t := by rw [k.stack]; exact h.stack t
  redo t := by rw [k.redo]; exact h.redo t
  pairs t := by rw [k.stack, h.pairs, foldPair_key, foldPair_key, k.fold]

theorem PoolsWithin.like {s u : State} (h : PoolsWithin s) (k : PoolsLike s u) : PoolsWithin u :=
  (h.registered.like k).within (h.tracksWithin.like k)

theorem PoolsLike.absent {s u : State} (h : PoolsLike s u) {id : Nat} (hid : s.layer? id = none) : u.layer? id = none :=
  not_mem_ids.mp fun hu => not_mem_ids.mpr hid ((h.ids id).mp hu)

theorem PoolsLike.present {s u : State} (h : PoolsLike s u) {id : Nat} (hid : id ∈ s.ids) : id ∈ u.ids :=
  (h.ids id).mpr hid

namespace PoolsLike

variable {s₀ s u : State}

theorem refl (s : State) : PoolsLike s s :=
  ⟨fun h => h, fun _ => Iff.rfl, fun _ => rfl, fun _ => rfl, rfl, fun i r h => ⟨i, r, h, rfl⟩,
    fun _ w h => ⟨w, h, rfl⟩, rfl⟩

theorem trans (h : PoolsLike s₀ s) (k : PoolsLike s u) : PoolsLike s₀ u where
  sorted hs := k.sorted (h.sorted hs)
  ids id := (k.ids id).trans (h.ids id)
  stack t := (k.stack t).trans (h.stack t)
  redo t := (k.redo t).trans (h.redo t)
  fold := k.fold.trans h.fold
  records i r hr := by
    obtain ⟨j, q, hq, hl⟩ := k.records i r hr
    obtain ⟨j', q', hq', hl'⟩ := h.records j q hq
    exact ⟨j', q', hq', hl'.trans hl⟩
  windows p w hw := by
    obtain ⟨v, hv, hl⟩ := k.windows p w hw
    obtain ⟨v', hv', hl'⟩ := h.windows p v hv
    exact ⟨v', hv', hl'.trans hl⟩
  cues := k.cues.trans h.cues

/-- An update that leaves every part that the bounds speak of. -/
theorem same (h : PoolsLike s₀ s) (hu : u.pools = s.pools) : PoolsLike s₀ u := by
  simp only [State.pools, Prod.mk.injEq] at hu
  obtain ⟨hl, ht, hf, hr, ha, hb, hc⟩ := hu
  refine h.trans ⟨fun hs => by rwa [hl], fun id => by rw [State.ids, hl]; rfl, fun t => by rw [State.track, ht]; rfl,
    fun t => by rw [State.track, ht]; rfl, by rw [hf], fun i r h => ⟨i, r, by rwa [← hr], rfl⟩,
    fun p w hw => ⟨w, ?_, rfl⟩, hc⟩
  cases p
  · exact ha.symm.trans hw
  · exact hb.symm.trans hw

theorem ite {c : Prop} [Decidable c] {v : State} (hu : PoolsLike s₀ u) (hv : PoolsLike s₀ v) :
    PoolsLike s₀ (if c then u else v) := by
  split
  · exact hu
  · exact hv

/-! ### Ports, events, faults and waits -/

theorem setPort (h : PoolsLike s₀ s) (p : Port) (c : PortCtl) : PoolsLike s₀ (s.setPort p c) := by
  cases p <;> exact h.same rfl

theorem raiseEvent (h : PoolsLike s₀ s) (e : Event) : PoolsLike s₀ (s.raiseEvent e) := h.same rfl

theorem raise (h : PoolsLike s₀ s) (k : EventKind) (t : Option TrackId) (l : Option Nat) (d : Nat) :
    PoolsLike s₀ (s.raise k t l d) := h.same rfl

theorem takeFault (h : PoolsLike s₀ s) (o : Occurrence) : PoolsLike s₀ (s.takeFault o) := by
  unfold State.takeFault
  exact ite (h.same rfl) (h.same rfl)

theorem fillReply (h : PoolsLike s₀ s) (p : Port) (st : Status) (tag code : Byte) (l : List Byte) :
    PoolsLike s₀ (s.fillReply p st tag code l) := h.setPort _ _

theorem completeReply (h : PoolsLike s₀ s) (p : Port) (st : Status) (l : List Byte) :
    PoolsLike s₀ (s.completeReply p st l) := by
  unfold State.completeReply
  split
  · exact h.fillReply _ _ _ _ _
  · exact h

theorem setWait (h : PoolsLike s₀ s) (who : Background) (w : Wait) : PoolsLike s₀ (s.setWait who w) := by
  cases who <;> exact h.same rfl

theorem withMem (h : PoolsLike s₀ s) {m : MemCtl} (ha : m.windowA = s.mem.windowA) (hb : m.windowB = s.mem.windowB) :
    PoolsLike s₀ { s with mem := m } := h.same (by simp only [State.pools, ha, hb])

theorem setGrant (h : PoolsLike s₀ s) (g : Option Grant) : PoolsLike s₀ (s.setGrant g) := h.same rfl

/-! ### Layer records -/

/-- A layer record in use set anew. -/
theorem setLayer (h : PoolsLike s₀ s) {id : Nat} (hid : id ∈ s.ids) (l : Layer) : PoolsLike s₀ (s.setLayer id l) := by
  refine h.trans ⟨insert_sorted, fun j => ?_, fun _ => rfl, fun _ => rfl, rfl, fun i r h => ⟨i, r, h, rfl⟩,
    fun _ w h => ⟨w, h, rfl⟩, rfl⟩
  refine (keys_insert id l s.layers j).trans ⟨?_, .inr⟩
  rintro (rfl | hj)
  · exact hid
  · exact hj

theorem modLayer (h : PoolsLike s₀ s) (id : Nat) (f : Layer → Layer) : PoolsLike s₀ (s.modLayer id f) := by
  unfold State.modLayer
  split
  · next l hl => exact h.setLayer (mem_ids_of_layer hl) _
  · exact h

theorem reaim (h : PoolsLike s₀ s) (id : Nat) : PoolsLike s₀ (s.reaim id) := h.modLayer _ _

/-- Every layer record changed in place. -/
theorem mapLayers (h : PoolsLike s₀ s) {f : Nat × Layer → Nat × Layer} (hf : ∀ e, (f e).1 = e.1) :
    PoolsLike s₀ { s with layers := s.layers.map f } := by
  refine h.trans ⟨fun hs => ?_, fun j => ?_, fun _ => rfl, fun _ => rfl, rfl, fun i r h => ⟨i, r, h, rfl⟩,
    fun p w h => ⟨w, by cases p <;> exact h, rfl⟩, rfl⟩
  · rw [List.pairwise_map]
    simpa only [hf] using hs
  · have he : (Prod.fst ∘ f) = (Prod.fst : Nat × Layer → Nat) := funext hf
    simp only [State.ids, List.map_map, he]

theorem settleBuffers (h : PoolsLike s₀ s) : PoolsLike s₀ s.settleBuffers := by
  unfold State.settleBuffers
  exact h.mapLayers fun e => by split <;> rfl

theorem reaimAllZero (h : PoolsLike s₀ s) : PoolsLike s₀ s.reaimAllZero := by
  unfold State.reaimAllZero
  exact h.mapLayers fun e => by split <;> rfl

/-! ### Tracks -/

theorem setTrack (h : PoolsLike s₀ s) (t : TrackId) {tr : Track} (hs : tr.stack = (s.track t).stack)
    (hr : tr.redo = (s.track t).redo) : PoolsLike s₀ (s.setTrack t tr) := by
  refine h.trans ⟨fun hs => hs, fun _ => Iff.rfl, fun t' => ?_, fun t' => ?_, rfl, fun i r h => ⟨i, r, h, rfl⟩,
    fun _ w h => ⟨w, h, rfl⟩, rfl⟩
  · rw [track_setTrack]
    split
    · next e => rw [hs, e]
    · rfl
  · rw [track_setTrack]
    split
    · next e => rw [hr, e]
    · rfl

theorem modTrack (h : PoolsLike s₀ s) (t : TrackId) {f : Track → Track}
    (hf : ∀ tr, (f tr).stack = tr.stack ∧ (f tr).redo = tr.redo) : PoolsLike s₀ (s.modTrack t f) :=
  h.setTrack t (hf _).1 (hf _).2

theorem raiseTrack (h : PoolsLike s₀ s) (t : TrackId) : PoolsLike s₀ (s.raiseTrack t) := h.raise _ _ _ _

theorem noteTrack (h : PoolsLike s₀ s) (t : TrackId) (old : Track) : PoolsLike s₀ (s.noteTrack t old) :=
  ite h (h.raiseTrack t)

theorem settleTrack (h : PoolsLike s₀ s) (t : TrackId) : PoolsLike s₀ (s.settleTrack t) := by
  unfold State.settleTrack
  exact ite h (h.setTrack t rfl rfl)

theorem markFresh (h : PoolsLike s₀ s) (b : Bool) (id : Nat) : PoolsLike s₀ (s.markFresh b id) :=
  ite (h.same rfl) h

theorem moveRamps (h : PoolsLike s₀ s) : PoolsLike s₀ s.moveRamps := by
  refine h.trans ⟨fun hs => hs, fun _ => Iff.rfl, fun t => ?_, fun t => ?_, rfl, fun i r h => ⟨i, r, h, rfl⟩,
    fun p w h => ⟨w, by cases p <;> exact h, rfl⟩, rfl⟩
  · simp [State.moveRamps, State.track]
  · simp [State.moveRamps, State.track]

/-! ### The fold engine -/

/-- The fold engine moved on with the same layers, or the same engine. -/
theorem withFold (h : PoolsLike s₀ s) {f g : Fold} (hf : s.fold = some f) (hg : g.key = f.key) :
    PoolsLike s₀ { s with fold := some g } := by
  refine h.trans ⟨fun hs => hs, fun _ => Iff.rfl, fun _ => rfl, fun _ => rfl, ?_, fun i r h => ⟨i, r, h, rfl⟩,
    fun p w h => ⟨w, by cases p <;> exact h, rfl⟩, rfl⟩
  rw [hf, Option.map_some, Option.map_some, hg]

theorem unfoldMembers (keep : List Nat) :
    ∀ {s : State}, PoolsLike s₀ s → PoolsLike s₀ (keep.foldl (fun s id => State.unfoldMember id s) s) := by
  induction keep with
  | nil => exact fun h => h
  | cons id keep ih => exact fun h => ih (h.modLayer id _)

theorem settleFold (h : PoolsLike s₀ s) : PoolsLike s₀ s.settleFold := by
  unfold State.settleFold
  split
  · exact h
  · next f hf =>
    dsimp only
    split
    · exact h
    · split
      · exact h.withFold hf rfl
      · split
        · exact withFold (h.modTrack _ (by exact fun _ => ⟨rfl, rfl⟩)) hf rfl
        · exact h

theorem decayAll (f : Nat) (l : List Nat) : ∀ {s : State}, PoolsLike s₀ s → PoolsLike s₀ (s.decayAll f l) := by
  induction l with
  | nil => exact fun h => h
  | cons id l ih => exact fun h => ih (h.modLayer id _)

theorem decayFold (h : PoolsLike s₀ s) (t : TrackId) (f : Nat) : PoolsLike s₀ (s.decayFold t f) := by
  unfold State.decayFold
  split
  · next fd hf =>
    split
    · exact h.withFold hf rfl
    · exact h
  · exact h

/-! ### Capture records and windows -/

/-- A capture record freed, or replaced by one of the same layer. -/
theorem setRecord (h : PoolsLike s₀ s) {i : Fin 12} {q : CapRec} (hq : s.capture.records[i] = some q)
    {r : Option CapRec} (hr : ∀ r', r = some r' → r'.layer = q.layer) : PoolsLike s₀ (s.setRecord i r) := by
  refine h.trans ⟨fun hs => hs, fun _ => Iff.rfl, fun _ => rfl, fun _ => rfl, rfl, fun j r' hj => ?_,
    fun p w h => ⟨w, by cases p <;> exact h, rfl⟩, rfl⟩
  rw [record_setRecord] at hj
  split at hj
  · exact ⟨i, q, hq, (hr r' hj).symm⟩
  · exact ⟨j, r', hj, rfl⟩

/-- Every capture record freed or changed, its layer the same. -/
theorem mapRecords (h : PoolsLike s₀ s) {f : Option CapRec → Option CapRec}
    (hf : ∀ q r, f q = some r → ∃ q', q = some q' ∧ q'.layer = r.layer) (c : Capture)
    (hc : c.records = s.capture.records.map f) : PoolsLike s₀ { s with capture := c } := by
  refine h.trans ⟨fun hs => hs, fun _ => Iff.rfl, fun _ => rfl, fun _ => rfl, rfl, fun i r hr => ?_,
    fun p w h => ⟨w, by cases p <;> exact h, rfl⟩, rfl⟩
  change c.records[i] = some r at hr
  simp only [hc, Fin.getElem_fin, Vector.getElem_map] at hr
  obtain ⟨q, hq, hl⟩ := hf _ _ hr
  exact ⟨i, q, hq, hl⟩

theorem refill_layer {c : Capture} {mask : BitVec 8} {n : Nat} {q r : CapRec} (h : q.refill c mask n = some r) :
    r.layer = q.layer := by
  unfold CapRec.refill at h
  dsimp only at h
  (repeat' split at h)
  · obtain rfl := Option.some.inj h; rfl
  · obtain rfl := Option.some.inj h; rfl
  · obtain rfl := Option.some.inj h; rfl
  · cases h
  · obtain rfl := Option.some.inj h; rfl

theorem refillAll (h : PoolsLike s₀ s) : PoolsLike s₀ s.refillAll := by
  refine h.mapRecords (fun q r hr => ?_) _ rfl
  cases q with
  | none => cases hr
  | some q => exact ⟨q, rfl, (refill_layer hr).symm⟩

theorem endCapture (h : PoolsLike s₀ s) (id n : Nat) : PoolsLike s₀ (s.endCapture id n) := by
  unfold State.endCapture
  split
  · exact h
  · refine h.mapRecords (fun q r hr => ?_) _ rfl
    cases q with
    | none => cases hr
    | some q =>
      refine ⟨q, rfl, ?_⟩
      dsimp only at hr
      split at hr
      · obtain e | ⟨q', e, hl, -⟩ := CapRec.endAt_cases n _ q
        · rw [e] at hr
          cases hr
        · rw [e] at hr
          obtain rfl := Option.some.inj hr
          exact hl.symm
      · obtain rfl := Option.some.inj hr
        rfl

theorem shutWindows (h : PoolsLike s₀ s) (p : Port) : PoolsLike s₀ (s.setWindow p none) := by
  refine h.trans ⟨fun hs => by simpa using hs, fun _ => by simp [State.ids], fun _ => by simp [State.track],
    fun _ => by simp [State.track], by simp, fun i r h => ⟨i, r, by simpa using h, rfl⟩, fun q w hw => ⟨w, ?_, rfl⟩,
    by simp⟩
  cases p <;> cases q <;> first | exact hw | cases hw

/-- A window replaced by one on the same layer. -/
theorem setWindow (h : PoolsLike s₀ s) {p : Port} {v w : Window} (hv : s.window p = some v) (hw : w.layer = v.layer) :
    PoolsLike s₀ (s.setWindow p (some w)) := by
  refine h.trans ⟨fun hs => by simpa using hs, fun _ => by simp [State.ids], fun _ => by simp [State.track],
    fun _ => by simp [State.track], by simp, fun i r h => ⟨i, r, by simpa using h, rfl⟩, fun q w' hq => ?_,
    by simp⟩
  by_cases e : q = p
  · subst e
    rw [window_setWindow] at hq
    obtain rfl := Option.some.inj hq
    exact ⟨v, hv, hw.symm⟩
  · exact ⟨w', by cases p <;> cases q <;> first | exact hq | exact absurd rfl e, rfl⟩

theorem loseWindow (h : PoolsLike s₀ s) (p : Port) (c : LostCause) : PoolsLike s₀ (s.loseWindow p c) := by
  have hl := ((h.shutWindows p).setWait (portBackground p) Wait.idle)
  unfold State.loseWindow
  split
  · exact h
  · dsimp only
    split
    · exact (hl.raise _ _ _ _).completeReply _ _ _
    · exact hl.raise _ _ _ _

theorem loseWindowOn (h : PoolsLike s₀ s) (id : Nat) (c : LostCause) (p : Port) :
    PoolsLike s₀ (s.loseWindowOn id c p) := by
  unfold State.loseWindowOn
  split
  · exact ite (h.loseWindow _ _) h
  · exact h

theorem loseWindowsOn (h : PoolsLike s₀ s) (id : Nat) (c : LostCause) : PoolsLike s₀ (s.loseWindowsOn id c) :=
  (h.loseWindowOn _ _ _).loseWindowOn _ _ _

theorem cutTo_layer (n : Nat) (w : Window) : (w.cutTo n).layer = w.layer := by
  unfold Window.cutTo
  dsimp only
  split <;> rfl

theorem cutWindow (h : PoolsLike s₀ s) (id n : Nat) (p : Port) : PoolsLike s₀ (s.cutWindow id n p) := by
  unfold State.cutWindow
  split
  · next w hw => exact ite (h.setWindow hw (cutTo_layer n w)) h
  · exact h

theorem cutReads (h : PoolsLike s₀ s) (id n : Nat) : PoolsLike s₀ (s.cutReads id n) := ite (h.same rfl) h

theorem truncate (h : PoolsLike s₀ s) (id n : Nat) : PoolsLike s₀ (s.truncate id n) := by
  unfold State.truncate
  split
  · exact h
  · next l hl =>
    refine cutWindow (cutWindow (setLayer ?_ ?_ _) _ _ _) _ _ _
    · exact h.withMem rfl rfl
    · exact mem_ids_of_layer hl

theorem endAt (h : PoolsLike s₀ s) (id n : Nat) : PoolsLike s₀ (s.endAt id n) :=
  ((h.cutReads id n).endCapture id n).truncate id n

theorem allocate (h : PoolsLike s₀ s) {id : Nat} (e : s.allocate id = some u) : PoolsLike s₀ u := by
  unfold State.allocate at e
  split at e
  · next l b rest hl _ =>
    obtain rfl := Option.some.inj e
    refine setLayer ?_ ?_ _
    · exact h.withMem rfl rfl
    · exact mem_ids_of_layer hl
  · cases e

theorem allocateEach (id : Nat) (l : List Nat) :
    ∀ {s : State}, PoolsLike s₀ s → PoolsLike s₀ (s.allocateEach id l).1 := by
  induction l with
  | nil => exact fun h => h
  | cons o l ih =>
    intro s h
    unfold State.allocateEach
    split
    · next e => exact ih (h.allocate e)
    · exact h

theorem overrun (h : PoolsLike s₀ s) (place : Point) (id : Nat) (r : Range) : PoolsLike s₀ (s.overrun place id r) := by
  unfold State.overrun
  split
  · exact h
  · next l hl => exact ite h ((h.setLayer (mem_ids_of_layer hl) _).takeFault _)

theorem windowDone (h : PoolsLike s₀ s) {p : Port} {v w : Window} (hv : s.window p = some v) (hw : w.layer = v.layer) :
    PoolsLike s₀ (s.windowDone p w) := (h.setWindow (w := { w with done := true, req := .absent }) hv hw).raise _ _ _ _

theorem settleRead (h : PoolsLike s₀ s) (p : Port) : PoolsLike s₀ (s.settleRead p) := by
  unfold State.settleRead
  split
  · exact h
  · next w hw =>
    (repeat' split)
    all_goals first | exact h | exact h.windowDone hw rfl | exact h.setWindow hw rfl

theorem settleWait (h : PoolsLike s₀ s) (who : Background) : PoolsLike s₀ (s.settleWait who) := by
  unfold State.settleWait
  (repeat' split)
  · exact h
  · exact h.setWait _ _
  · exact h.setWait _ _

/-! ### The cycle timer -/

theorem setCycle (h : PoolsLike s₀ s) (c : Cycle) : PoolsLike s₀ (s.setCycle c) := ite (h.same rfl) (h.same rfl)

theorem emptyCycle (h : PoolsLike s₀ s) : PoolsLike s₀ s.emptyCycle := h.setCycle _

theorem closeDefining (h : PoolsLike s₀ s) (n : Nat) (stop : Bool) : PoolsLike s₀ (s.closeDefining n stop) :=
  ite (h.emptyCycle.raise _ _ _ _) (((h.setCycle _).raise _ _ _ _).raise _ _ _ _)

theorem startDefining (h : PoolsLike s₀ s) : PoolsLike s₀ s.startDefining := ite (h.setCycle _) h

end PoolsLike

end Sys2Proof.Machine


/-! # The pools through freeing, closing and folding (R28, R33, R34, R42 to R48)

Each operation that takes a layer out of the pool or moves it within the stacks keeps the bounds of the pools. -/

namespace Sys2Proof.Machine

open Sys2Proof

/-! ### Stacks with an entry taken out or a pair split -/

theorem mem_stackIds_cons {j : Nat} {e : Entry} {l : List Entry} :
    j ∈ stackIds (e :: l) ↔ j ∈ stackIds [e] ∨ j ∈ stackIds l := by
  cases e <;> simp [stackIds, or_assoc]

theorem mem_stackIds_append {j : Nat} {l m : List Entry} : j ∈ stackIds (l ++ m) ↔ j ∈ stackIds l ∨ j ∈ stackIds m := by
  induction l with
  | nil => simp [stackIds]
  | cons e l ih => rw [List.cons_append, mem_stackIds_cons, ih, mem_stackIds_cons (l := l), or_assoc]

theorem stackPairs_append (l m : List Entry) : stackPairs (l ++ m) = stackPairs l ++ stackPairs m := by
  induction l with
  | nil => rfl
  | cons e l ih => cases e <;> simp [stackPairs, ih]

theorem stackPairs_singles (l : List Nat) : stackPairs (l.map Entry.single) = [] := by
  induction l with
  | nil => rfl
  | cons i l ih => exact ih

theorem mem_stackIds_singles {j : Nat} {l : List Nat} : j ∈ stackIds (l.map Entry.single) ↔ j ∈ l := by
  induction l with
  | nil => simp [stackIds]
  | cons i l ih => simp [stackIds, ih]

theorem mem_stackIds_of_single {j : Nat} {l : List Entry} (h : Entry.single j ∈ l) : j ∈ stackIds l := by
  induction l with
  | nil => cases h
  | cons e l ih =>
    obtain rfl | h := List.mem_cons.mp h
    · exact List.mem_cons_self
    · exact mem_stackIds_cons.mpr (.inr (ih h))

/-- A layer of a stack is an entry of its own or a member of a pair. -/
theorem mem_stackIds_iff {j : Nat} {l : List Entry} :
    j ∈ stackIds l ↔ Entry.single j ∈ l ∨ ∃ p ∈ stackPairs l, j = p.1 ∨ j = p.2 := by
  induction l with
  | nil => simp [stackIds, stackPairs]
  | cons e l ih =>
    cases e with
    | single i => simp [stackIds, stackPairs, ih, or_assoc]
    | pair o n =>
      by_cases hl : Entry.single j ∈ l
      · simp [stackIds, stackPairs, ih, hl]
      · simp [stackIds, stackPairs, ih, hl, or_assoc]

theorem mem_stackPairs {p : Nat × Nat} {l : List Entry} : p ∈ stackPairs l ↔ Entry.pair p.1 p.2 ∈ l := by
  induction l with
  | nil => simp [stackPairs]
  | cons e l ih =>
    cases e with
    | single i => simp [stackPairs, ih]
    | pair o n => simp [stackPairs, ih, Prod.ext_iff]

theorem stackPairs_dropSingle (id : Nat) (l : List Entry) :
    stackPairs (l.filter (fun e => e != .single id)) = stackPairs l := by
  induction l with
  | nil => rfl
  | cons e l ih =>
    cases e with
    | single i =>
      by_cases hi : i = id
      · subst hi
        simpa [stackPairs] using ih
      · simpa [stackPairs, hi] using ih
    | pair o n => simpa [stackPairs] using ih

theorem mem_stackIds_dropSingle {j id : Nat} {l : List Entry} (hj : j ≠ id) (h : j ∈ stackIds l) :
    j ∈ stackIds (l.filter (fun e => e != .single id)) := by
  rw [mem_stackIds_iff, stackPairs_dropSingle]
  exact (mem_stackIds_iff.mp h).imp_left fun hs => by simp [hs, hj]

theorem length_dropSingle_lt {id : Nat} {l : List Entry} (h : Entry.single id ∈ l) :
    (l.filter (fun e => e != .single id)).length < l.length :=
  List.length_filter_lt_length_iff_exists.mpr ⟨_, h, by simp⟩

theorem stackPairs_split (keep : List Nat) (l : List Entry) : stackPairs (splitPair keep l) = [] := by
  induction l with
  | nil => rfl
  | cons e l ih =>
    cases e with
    | single i => exact ih
    | pair o n => rw [splitPair, stackPairs_append, stackPairs_singles, ih, List.append_nil]

/-- A layer of a stack is still in it once its pair is split, members of a pair that are not kept left out. -/
theorem mem_stackIds_split {j : Nat} {keep : List Nat} {l : List Entry} (h : j ∈ stackIds l)
    (hk : ∀ p ∈ stackPairs l, j = p.1 ∨ j = p.2 → j ∈ keep) : j ∈ stackIds (splitPair keep l) := by
  induction l with
  | nil => cases h
  | cons e l ih =>
    cases e with
    | single i =>
      rw [stackIds, List.mem_cons] at h
      rw [splitPair, stackIds, List.mem_cons]
      exact h.imp_right fun h => ih h hk
    | pair o n =>
      rw [splitPair, mem_stackIds_append, mem_stackIds_singles]
      rw [mem_stackIds_cons] at h
      obtain h | h := h
      · have hon : j = o ∨ j = n := by simpa [stackIds] using h
        exact .inl (List.mem_filter.mpr ⟨by simpa using hon, by simpa using hk (o, n) List.mem_cons_self hon⟩)
      · exact .inr (ih h fun p hp => hk p (List.mem_cons_of_mem _ hp))

theorem splitPair_noPairs (keep : List Nat) {l : List Entry} (h : stackPairs l = []) : splitPair keep l = l := by
  induction l with
  | nil => rfl
  | cons e l ih =>
    cases e with
    | single i => rw [splitPair, ih h]
    | pair o n => cases h

/-- Splitting the one pair of a stack makes it longer by one entry, and only where both members are kept. -/
theorem length_split {o n : Nat} {keep : List Nat} {l : List Entry} (h : stackPairs l = [(o, n)]) :
    (splitPair keep l).length ≤ l.length
      ∨ (splitPair keep l).length = l.length + 1 ∧ Entry.single o ∈ splitPair keep l := by
  induction l with
  | nil => cases h
  | cons e l ih =>
    cases e with
    | single i =>
      rw [splitPair]
      refine (ih h).imp (fun h => ?_) fun h => ⟨?_, List.mem_cons_of_mem _ h.2⟩
      · exact Nat.succ_le_succ h
      · exact congrArg (· + 1) h.1
    | pair o' n' =>
      rw [stackPairs, List.cons.injEq, Prod.mk.injEq] at h
      obtain ⟨⟨rfl, rfl⟩, hl⟩ := h
      rw [splitPair, splitPair_noPairs keep hl]
      by_cases ho : o' ∈ keep <;> by_cases hn : n' ∈ keep <;> simp [ho, hn]

/-! ### Layers taken out of the pool (R28) -/

theorem freeLayer_fold (c : LostCause) (id : Nat) (s : State) : (s.freeLayer c id).fold = s.fold :=
  ((Spares.refl 0 (fun _ => True) s).freeLayer c trivial).fold

theorem freeLayer_cues (c : LostCause) (id : Nat) (s : State) : (s.freeLayer c id).cues = s.cues :=
  ((RestKept.refl s).freeLayer c id).cues

theorem ids_freeLayer {c : LostCause} {id j : Nat} {s : State} (hs : s.layers.Pairwise (fun e f => e.1 < f.1)) :
    j ∈ (s.freeLayer c id).ids ↔ j ≠ id ∧ j ∈ s.ids := by
  cases hl : s.layer? id with
  | none =>
    rw [freeLayer_none hl]
    refine ⟨fun h => ⟨?_, h⟩, And.right⟩
    rintro rfl
    exact not_mem_ids.mpr hl h
  | some l =>
    rw [mem_ids, mem_ids, (freedAs_freeLayer (c := c) hs hl).layer]
    by_cases hj : j = id <;> simp [hj]

/-- The pool keeps its records and cues where the layers that need a place have one. -/
theorem Registered.rehouse {x y : Nat → Prop} {s u : State} (h : Registered x s)
    (hu : (u.layers, u.capture.records, u.mem.windowA, u.mem.windowB, u.cues.entries) =
      (s.layers, s.capture.records, s.mem.windowA, s.mem.windowB, s.cues.entries))
    (hp : ∀ id ∈ s.ids, y id ∨ u.placed id) : Registered y u := by
  simp only [Prod.mk.injEq] at hu
  obtain ⟨hl, hr, ha, hb, hc⟩ := hu
  have hi : u.ids = s.ids := by rw [State.ids, hl]; rfl
  refine ⟨hl ▸ h.sorted, hi ▸ h.range, hi ▸ hp, fun i r e => ?_, fun p w e => ?_, hc ▸ h.cues, hc ▸ h.slots⟩
  · rw [hi]
    exact h.records i r (hr ▸ e)
  · rw [hi]
    cases p
    · exact h.windows .a w (ha.symm.trans e)
    · exact h.windows .b w (hb.symm.trans e)

theorem TracksWithin.of_tracks {s u : State} (h : TracksWithin s) (ht : ∀ t, u.track t = s.track t)
    (hf : u.fold = s.fold) : TracksWithin u where
  stack t := by rw [ht]; exact h.stack t
  redo t := by rw [ht]; exact h.redo t
  pairs t := by rw [ht, h.pairs, State.foldPair, State.foldPair, hf]

theorem placed_of_tracks {s u : State} {id : Nat} (ht : ∀ t, u.track t = s.track t) (hf : u.fold = s.fold) :
    u.placed id ↔ s.placed id := by
  simp only [State.placed, ht, hf]

theorem Registered.freeLayer {x : Nat → Prop} {s : State} (h : Registered x s) (c : LostCause) (id : Nat) :
    Registered x (s.freeLayer c id) := by
  cases hl : s.layer? id with
  | none => rwa [freeLayer_none hl]
  | some l =>
    have ht : Tidy (s.freeLayer c id) :=
      Tidy.freeLayer ⟨h.sorted, fun i r hr => mem_ids.mp (h.records i r hr), fun p w hw => mem_ids.mp (h.windows p w hw)⟩
        c id
    refine ⟨ht.sorted, fun j hj => h.range j ((ids_freeLayer h.sorted).mp hj).2,
      fun j hj => (h.placed j ((ids_freeLayer h.sorted).mp hj).2).imp_right
        (placed_of_tracks (fun t => freeLayer_track c id t s) (freeLayer_fold c id s)).mpr,
      fun i r hr => mem_ids.mpr (ht.records i r hr), fun p w hw => mem_ids.mpr (ht.windows p w hw), ?_, ?_⟩
    · rw [freeLayer_cues]
      exact h.cues
    · rw [freeLayer_cues]
      exact h.slots

theorem PoolsWithin.freeLayer {s : State} (h : PoolsWithin s) (c : LostCause) (id : Nat) :
    PoolsWithin (s.freeLayer c id) :=
  (h.registered.freeLayer c id).within
    (h.tracksWithin.of_tracks (fun t => freeLayer_track c id t s) (freeLayer_fold c id s))

theorem PoolsWithin.freeAll (c : LostCause) (ids : List Nat) : ∀ {s : State}, PoolsWithin s → PoolsWithin (s.freeAll c ids) := by
  induction ids with
  | nil => exact fun h => h
  | cons id ids ih => exact fun h => ih (h.freeLayer c id)

/-- A layer that is gone taken out of a track's stack and redo list. -/
theorem Registered.dropLayer {x : Nat → Prop} {s : State} (h : Registered x s) {t : TrackId} {id : Nat} {f : Track → Track}
    (hid : s.layer? id = none)
    (hf : ∀ tr, (f tr).stack = (tr.dropLayer id).stack ∧ (f tr).redo = (tr.dropLayer id).redo) :
    Registered x (s.modTrack t f) := by
  refine h.rehouse rfl fun j hj => (h.placed j hj).imp_right fun hp => ?_
  have hne : j ≠ id := by
    rintro rfl
    exact not_mem_ids.mpr hid hj
  obtain ⟨t', ht'⟩ | hr := hp
  · refine .inl ⟨t', ?_⟩
    rw [track_modTrack]
    split
    · next e =>
      subst e
      rw [(hf _).1, (hf _).2]
      exact ht'.imp (mem_stackIds_dropSingle hne) fun hr => List.mem_filter.mpr ⟨hr, by simpa using hne⟩
    · exact ht'
  · exact .inr hr

theorem TracksWithin.dropLayer {s : State} (h : TracksWithin s) {t : TrackId} {id : Nat} {f : Track → Track}
    (hf : ∀ tr, (f tr).stack = (tr.dropLayer id).stack ∧ (f tr).redo = (tr.dropLayer id).redo) :
    TracksWithin (s.modTrack t f) where
  stack t' := by
    rw [track_modTrack]
    split
    · rw [(hf _).1]
      exact (List.length_filter_le _ _).trans (h.stack t)
    · exact h.stack t'
  redo t' := by
    rw [track_modTrack]
    split
    · rw [(hf _).2]
      exact (List.length_filter_le _ _).trans (h.redo t)
    · exact h.redo t'
  pairs t' := by
    rw [track_modTrack]
    split
    · next e =>
      subst e
      rw [(hf _).1]
      exact (stackPairs_dropSingle id _).trans (h.pairs t)
    · exact h.pairs t'

theorem PoolsWithin.dropLayer {s : State} (h : PoolsWithin s) {t : TrackId} {id : Nat} {f : Track → Track}
    (hid : s.layer? id = none)
    (hf : ∀ tr, (f tr).stack = (tr.dropLayer id).stack ∧ (f tr).redo = (tr.dropLayer id).redo) :
    PoolsWithin (s.modTrack t f) := (h.registered.dropLayer hid hf).within (h.tracksWithin.dropLayer hf)

/-- A layer freed and taken out of a track. -/
theorem PoolsWithin.discard {s : State} (h : PoolsWithin s) (c : LostCause) (t : TrackId) (id : Nat) {f : Track → Track}
    (hf : ∀ tr, (f tr).stack = (tr.dropLayer id).stack ∧ (f tr).redo = (tr.dropLayer id).redo) :
    PoolsWithin ((s.freeLayer c id).modTrack t f) := (h.freeLayer c id).dropLayer (freeLayer_gone c id h.ids) hf

theorem PoolsWithin.discardImport {s : State} (h : PoolsWithin s) (id : Nat) (c : LostCause) :
    PoolsWithin (s.discardImport id c) := by
  unfold State.discardImport
  split
  · exact h
  · exact (h.discard c _ id fun _ => ⟨rfl, rfl⟩).like (((PoolsLike.refl _).settleTrack _).noteTrack _ _)

theorem PoolsWithin.discardImports (c : LostCause) (ids : List Nat) :
    ∀ {s : State}, PoolsWithin s → PoolsWithin (s.discardImports c ids) := by
  induction ids with
  | nil => exact fun h => h
  | cons id ids ih => exact fun h => ih (h.discardImport id c)

/-! ### Closes (R33, R34, R42) -/

theorem PoolsWithin.discardOpen {s : State} (h : PoolsWithin s) (t : TrackId) (id : Nat) :
    PoolsWithin (s.discardOpen t id) :=
  (h.discard .discarded t id (f := fun tr => { tr.dropLayer id with state := .playing, marker := none })
    fun _ => ⟨rfl, rfl⟩).like (((PoolsLike.refl _).settleTrack t).raiseTrack t)

theorem PoolsLike.closeLayered {s₀ s : State} (h : PoolsLike s₀ s) (t : TrackId) (id n : Nat) (fresh : Bool) :
    PoolsLike s₀ (s.closeLayered t id n fresh) :=
  (((((((h.endAt id n).modLayer id _).modTrack t (by exact fun _ => ⟨rfl, rfl⟩)).markFresh fresh id).reaim id).raise
    _ _ _ _).raiseTrack t)

theorem PoolsWithin.closeFirst {s : State} (h : PoolsWithin s) (t : TrackId) (id n : Nat) (fresh stop : Bool) :
    PoolsWithin (s.closeFirst t id n fresh stop) := by
  unfold State.closeFirst
  dsimp only
  generalize (if decide (s.cycle.state = .defining) = true then min n s.cycle.pos else n) = n'
  have hc : PoolsWithin (if decide (s.cycle.state = .defining) = true then s.closeDefining n' stop else s) :=
    h.like (.ite ((PoolsLike.refl s).closeDefining _ _) (.refl s))
  generalize (if decide (s.cycle.state = .defining) = true then s.closeDefining n' stop else s) = v at hc ⊢
  split
  · exact hc
  · split
    · exact hc.discardOpen t id
    · exact hc.like (((((((((PoolsLike.refl v).endAt _ _).modLayer id _).modTrack t
        (by exact fun _ => ⟨rfl, rfl⟩)).markFresh _ id).reaim id).raise _ _ _ _).raiseTrack t))

theorem PoolsWithin.closeRolled {s : State} (h : PoolsWithin s) (t : TrackId) (id n : Nat) (l : Layer) :
    PoolsWithin (s.closeRolled t id n l) := by
  unfold State.closeRolled
  split
  · exact h.discard .discarded t id fun _ => ⟨rfl, rfl⟩
  · have hk := PoolsLike.ite (c := n = l.length) (.refl s) (((PoolsLike.refl s).endAt id n).reaim id)
    exact h.like ((hk.modLayer id _).raise _ _ _ _)

theorem PoolsWithin.closeAtRoll {s : State} (h : PoolsWithin s) (t : TrackId) (rolled successor before : Nat) :
    PoolsWithin (s.closeAtRoll t rolled successor before) := by
  unfold State.closeAtRoll
  dsimp only
  have hf := h.discard .discarded t successor (f := fun tr =>
    { tr.dropLayer successor with state := .playing, openLayer := none, marker := none }) fun _ => ⟨rfl, rfl⟩
  split
  · exact (hf.closeRolled t _ _ _).like (((PoolsLike.refl _).settleTrack t).raiseTrack t)
  · exact hf.like (((PoolsLike.refl _).settleTrack t).raiseTrack t)

theorem PoolsWithin.closeOpen {s : State} (h : PoolsWithin s) (t : TrackId) (n before : Nat) (fresh stop : Bool) :
    PoolsWithin (s.closeOpen t n before fresh stop) := by
  unfold State.closeOpen
  (repeat' split)
  · exact h
  · exact h.closeFirst _ _ _ _ _
  · exact h.closeAtRoll _ _ _ _
  · exact h.discardOpen _ _
  · exact h.discardOpen _ _
  · exact h.like ((PoolsLike.refl s).closeLayered _ _ _ _)

theorem PoolsWithin.closeAtCut {s : State} (h : PoolsWithin s) (t : TrackId) (k : Cut) (stop : Bool) :
    PoolsWithin (s.closeAtCut t k stop) := by
  unfold State.closeAtCut
  split
  · exact h
  · exact h.closeOpen _ _ _ _ _

theorem PoolsWithin.closeTracks (k : Cut) (stop : Bool) (l : List TrackId) :
    ∀ {s : State}, PoolsWithin s → PoolsWithin (s.closeTracks k stop l) := by
  induction l with
  | nil => exact fun h => h
  | cons t l ih => exact fun h => ih (h.closeAtCut t k stop)

theorem PoolsWithin.closeLimits (l : List TrackId) : ∀ {s : State}, PoolsWithin s → PoolsWithin (s.closeLimits l) := by
  induction l with
  | nil => exact fun h => h
  | cons t l ih =>
    intro s h
    unfold State.closeLimits
    split
    · exact ih (h.closeAtCut _ _ _)
    · exact ih h

/-! ### A fold abandoned (R48) -/

/-- The engine IDLE and the fold result freed. -/
def State.endFold (f : Fold) (s : State) : State :=
  State.freeLayer .cleared f.result (State.setWait .fold Wait.idle { s with fold := none })

/-- A fold abandoned with its pair split, before the retirement that a split of 9 entries brings (R48). -/
def State.splitFold (f : Fold) (cause : FoldCause) (keep : List Nat) (s : State) : State :=
  (keep.foldl (fun s id => State.unfoldMember id s)
    ((s.endFold f).modTrack f.track fun tr => { tr with stack := splitPair keep tr.stack })).raise
      .foldAbandoned (some f.track) (some f.result) cause.ctorIdx

theorem abandonFold_split {f : Fold} {cause : FoldCause} {keep : List Nat} {s : State} (hf : s.fold = some f)
    (hc : cause ≠ .cleared) : s.abandonFold cause keep =
      (let v := s.splitFold f cause keep
       if (v.track f.track).stack.length ≤ 8 then v
       else ((v.freeLayer .retired f.older).modTrack f.track (Track.dropLayer f.older)).raise .layerRetired none
         (some f.older) (((v.layer? f.older).map Layer.gain).getD 0)) := by
  unfold State.abandonFold
  rw [hf]
  dsimp only
  rw [if_neg hc]
  rfl

theorem endFold_track (f : Fold) (s : State) (t : TrackId) : (s.endFold f).track t = s.track t := freeLayer_track _ _ _ _

theorem endFold_fold (f : Fold) (s : State) : (s.endFold f).fold = none := freeLayer_fold _ _ _

/-- The tracks that split the pair: the fold's own loses it, and the others stand. -/
theorem splitFold_track (f : Fold) (cause : FoldCause) (keep : List Nat) (s : State) (t : TrackId) :
    (s.splitFold f cause keep).track t =
      if f.track = t then { s.track t with stack := splitPair keep (s.track t).stack } else s.track t := by
  have hk : ∀ (keep : List Nat) (v : State), (keep.foldl (fun s id => State.unfoldMember id s) v).track t = v.track t := by
    intro keep
    induction keep with
    | nil => exact fun _ => rfl
    | cons id keep ih => exact fun v => (ih _).trans (by simp [State.unfoldMember, State.track])
  refine (hk keep _).trans ?_
  rw [track_modTrack]
  split
  · next e => rw [endFold_track, e]
  · exact endFold_track _ _ _

theorem splitFold_fold (f : Fold) (cause : FoldCause) (keep : List Nat) (s : State) :
    (s.splitFold f cause keep).fold = none := by
  have hk : ∀ (keep : List Nat) (v : State), (keep.foldl (fun s id => State.unfoldMember id s) v).fold = v.fold := by
    intro keep
    induction keep with
    | nil => exact fun _ => rfl
    | cons id keep ih => exact fun v => (ih _).trans (fold_modLayer _ _ _)
  exact (hk keep _).trans (endFold_fold f s)

/-- A fold gone: its result has no place left. -/
theorem Registered.idleFold {f : Fold} {s : State} (h : Registered (fun _ => False) s) (hf : s.fold = some f) :
    Registered (fun j => j = f.result) { s with fold := none } := by
  refine h.rehouse rfl fun j hj => ?_
  obtain ht | ⟨f', hf', hr⟩ := (h.placed j hj).resolve_left id
  · exact .inr (.inl ht)
  · obtain rfl := Option.some.inj (hf'.symm.trans hf)
    exact .inl hr.symm

theorem Registered.endFold {f : Fold} {s : State} (h : Registered (fun _ => False) s) (hf : s.fold = some f) :
    Registered (fun _ => False) (s.endFold f) := by
  have h1 := ((h.idleFold hf).like ((PoolsLike.refl _).setWait .fold Wait.idle)).freeLayer .cleared f.result
  refine h1.mono fun j hj e => ?_
  subst e
  exact absurd rfl ((ids_freeLayer (s := State.setWait .fold Wait.idle { s with fold := none }) h.sorted).mp hj).1

theorem endFold_absent {f : Fold} {j : Nat} {s : State} (h : s.layer? j = none) : (s.endFold f).layer? j = none :=
  ((Spares.refl 0 (fun _ => True) (State.setWait .fold Wait.idle { s with fold := none })).freeLayer .cleared
    trivial).absent j h

section

variable {x : Nat → Prop} {f : Fold} {cause : FoldCause} {keep : List Nat} {s : State}

/-- The members that a fold's end does not keep need no place, or are gone. -/
theorem Registered.splitFold (h : PoolsWithin s) (hf : s.fold = some f)
    (hk : ∀ j, j = f.older ∨ j = f.newer → j ∉ keep → x j ∨ s.layer? j = none) :
    Registered x (s.splitFold f cause keep) := by
  have he := h.registered.endFold hf
  have hm : Registered x ((s.endFold f).modTrack f.track fun tr => { tr with stack := splitPair keep tr.stack }) := by
    refine he.rehouse rfl fun j hj => ?_
    have hs : s.layer? j ≠ none := fun hn => not_mem_ids.mpr (endFold_absent hn) hj
    obtain ⟨t, ht⟩ | ⟨g, hg, -⟩ := (he.placed j hj).resolve_left id
    · by_cases hx : x j
      · exact .inl hx
      · refine .inr (.inl ⟨t, ?_⟩)
        rw [track_modTrack]
        split
        · next e =>
          subst e
          refine ht.imp_left fun hst => mem_stackIds_split hst fun p hp hjp => ?_
          rw [endFold_track, h.pairs, State.foldPair, hf] at hp
          simp only [if_pos, List.mem_singleton] at hp
          subst hp
          by_contra hn
          exact (hk j hjp hn).elim hx hs
        · exact ht
    · rw [endFold_fold] at hg
      cases hg
  exact hm.like (((PoolsLike.refl _).unfoldMembers keep).raise _ _ _ _)

theorem stackPairs_of_fold (h : TracksWithin s) (hf : s.fold = some f) :
    stackPairs (s.track f.track).stack = [(f.older, f.newer)] := by
  rw [h.pairs, State.foldPair, hf]
  exact if_pos rfl

theorem stackPairs_other {t : TrackId} (h : TracksWithin s) (hf : s.fold = some f) (ht : f.track ≠ t) :
    stackPairs (s.track t).stack = [] := by
  rw [h.pairs, State.foldPair, hf]
  exact if_neg ht

theorem stackPairs_idle {t : TrackId} (h : TracksWithin s) (hf : s.fold = none) :
    stackPairs (s.track t).stack = [] := by
  rw [h.pairs, State.foldPair, hf]

theorem foldPair_none (t : TrackId) (hf : s.fold = none) : s.foldPair t = [] := by rw [State.foldPair, hf]

/-- Of an abandoned fold's track the stack has no pair, and 8 entries at most once the retirement is over (R48). -/
theorem TracksWithin.abandonFold (h : TracksWithin s) (hf : s.fold = some f) (hc : cause ≠ .cleared) :
    TracksWithin (s.abandonFold cause keep) := by
  have hpairs : ∀ t, stackPairs ((s.splitFold f cause keep).track t).stack = (s.splitFold f cause keep).foldPair t := by
    intro t
    rw [foldPair_none t (splitFold_fold _ _ _ _), splitFold_track]
    split
    · exact stackPairs_split _ _
    · next e => exact stackPairs_other h hf e
  have hredo : ∀ t, ((s.splitFold f cause keep).track t).redo.length ≤ 4 := by
    intro t
    rw [splitFold_track]
    split <;> exact h.redo t
  have hother : ∀ t, f.track ≠ t → ((s.splitFold f cause keep).track t).stack.length ≤ 8 := by
    intro t ht
    rw [splitFold_track, if_neg ht]
    exact h.stack t
  have hsplit := splitFold_track f cause keep s f.track
  rw [if_pos rfl] at hsplit
  rw [abandonFold_split hf hc]
  dsimp only
  generalize s.splitFold f cause keep = v at *
  by_cases h8 : (v.track f.track).stack.length ≤ 8
  · rw [if_pos h8]
    refine ⟨fun t => ?_, hredo, hpairs⟩
    by_cases ht : f.track = t
    · exact ht ▸ h8
    · exact hother t ht
  · rw [if_neg h8]
    have hw : TracksWithin (((v.freeLayer .retired f.older).modTrack f.track (Track.dropLayer f.older))) := by
      refine ⟨fun t => ?_, fun t => ?_, fun t => ?_⟩
      · rw [track_modTrack]
        split
        · rw [freeLayer_track]
          have hl := length_split (keep := keep) (stackPairs_of_fold h hf)
          have hs := h.stack f.track
          rw [hsplit] at h8 ⊢
          obtain hl | ⟨hl, hm⟩ := hl
          · exact absurd (hl.trans hs) h8
          · have := length_dropSingle_lt hm
            show (List.filter (fun e => e != .single f.older) (splitPair keep (s.track f.track).stack)).length ≤ 8
            omega
        · next e =>
          rw [freeLayer_track]
          exact hother t e
      · rw [track_modTrack]
        split
        · rw [freeLayer_track]
          exact (List.length_filter_le _ _).trans (hredo _)
        · rw [freeLayer_track]
          exact hredo t
      · rw [track_modTrack]
        have hfp : ((v.freeLayer .retired f.older).modTrack f.track (Track.dropLayer f.older)).foldPair t =
            v.foldPair t := by
          rw [State.foldPair, State.foldPair, fold_modTrack, freeLayer_fold]
        rw [hfp, freeLayer_track, freeLayer_track, ← hpairs]
        split
        · next e =>
          subst e
          exact stackPairs_dropSingle _ _
        · rfl
    exact hw.like ((PoolsLike.refl _).raise _ _ _ _)

theorem Registered.abandonFold (h : PoolsWithin s) (hf : s.fold = some f) (hc : cause ≠ .cleared)
    (hk : ∀ j, j = f.older ∨ j = f.newer → j ∉ keep → x j ∨ s.layer? j = none) :
    Registered x (s.abandonFold cause keep) := by
  have hv := Registered.splitFold (cause := cause) h hf hk
  rw [abandonFold_split hf hc]
  dsimp only
  split
  · exact hv
  · exact (((hv.freeLayer .retired f.older)).dropLayer (freeLayer_gone _ _ hv.sorted) fun _ => ⟨rfl, rfl⟩).like
      ((PoolsLike.refl _).raise _ _ _ _)

end

/-- A fold abandoned with both members kept (R48). -/
theorem PoolsWithin.abandonFold {f : Fold} {cause : FoldCause} {s : State} (h : PoolsWithin s) (hf : s.fold = some f)
    (hc : cause ≠ .cleared) : PoolsWithin (s.abandonFold cause [f.older, f.newer]) :=
  (Registered.abandonFold h hf hc fun j hj hn => absurd (by simpa using hj) hn).within
    (h.tracksWithin.abandonFold hf hc)

theorem PoolsWithin.abandonRunningFold {s : State} (h : PoolsWithin s) {cause : FoldCause} (hc : cause ≠ .cleared) :
    PoolsWithin (s.abandonRunningFold cause) := by
  unfold State.abandonRunningFold
  split
  · next f hf => exact h.abandonFold hf hc
  · exact h

/-! ### A fold goes on, starts and completes (R30, R45, R47) -/

theorem PoolsWithin.beginFoldBurst {s : State} (h : PoolsWithin s) : PoolsWithin s.beginFoldBurst := by
  unfold State.beginFoldBurst
  split
  · exact h
  · next f hf =>
    dsimp only
    split
    · exact h.abandonFold hf (by decide)
    · next v hv =>
      have hk : PoolsLike s v ∧ v.fold = some f := by
        split at hv
        · refine ⟨(PoolsLike.refl s).allocate hv, ?_⟩
          unfold State.allocate at hv
          split at hv
          · obtain rfl := Option.some.inj hv
            exact hf
          · cases hv
        · obtain rfl := Option.some.inj hv
          exact ⟨.refl s, hf⟩
      split
      · exact h.like (hk.1.withFold hk.2 rfl)
      · exact h.like hk.1

/-- The pair of a stack that holds one, replaced by a layer. -/
theorem stackPairs_replaced {o n r : Nat} {l : List Entry} (h : ∀ p ∈ stackPairs l, p = (o, n)) :
    stackPairs (l.map fun e => if e = .pair o n then .single r else e) = [] := by
  induction l with
  | nil => rfl
  | cons e l ih =>
    cases e with
    | single i => exact ih h
    | pair o' n' =>
      obtain ⟨rfl, rfl⟩ := Prod.mk.inj (h (o', n') List.mem_cons_self)
      simpa [stackPairs] using ih fun p hp => h p (List.mem_cons_of_mem _ hp)

/-- A fold's pair replaced by its result, which has its place with that; the members have none left (R45). -/
theorem Registered.replacePair {f : Fold} {v : State} (h : Registered (fun j => j = f.result) v) (hf : v.fold = none)
    (hp : stackPairs (v.track f.track).stack = [(f.older, f.newer)]) :
    Registered (fun j => j = f.older ∨ j = f.newer) (v.modTrack f.track fun tr =>
      { tr with stack := tr.stack.map fun e => if e = .pair f.older f.newer then .single f.result else e }) := by
  have hpair : Entry.pair f.older f.newer ∈ (v.track f.track).stack :=
    mem_stackPairs.mp (by rw [hp]; exact List.mem_cons_self)
  refine h.rehouse rfl fun j hj => ?_
  by_cases hm : j = f.older ∨ j = f.newer
  · exact .inl hm
  refine .inr (.inl ?_)
  obtain hr | ⟨t, ht⟩ | ⟨g, hg, -⟩ := h.placed j hj
  · refine ⟨f.track, .inl ?_⟩
    rw [track_modTrack, if_pos rfl, hr]
    exact mem_stackIds_of_single (List.mem_map.mpr ⟨_, hpair, if_pos rfl⟩)
  · refine ⟨t, ?_⟩
    rw [track_modTrack]
    split
    · next e =>
      subst e
      refine ht.imp_left fun hst => ?_
      obtain hs | ⟨p, hpm, hj'⟩ := mem_stackIds_iff.mp hst
      · exact mem_stackIds_of_single (List.mem_map.mpr ⟨_, hs, if_neg (by simp)⟩)
      · rw [hp, List.mem_singleton] at hpm
        subst hpm
        exact absurd hj' hm
    · exact ht
  · rw [hf] at hg
    cases hg

theorem TracksWithin.replacePair {f : Fold} {v : State} (h : TracksWithin { v with fold := some f })
    (hf : v.fold = none) : TracksWithin (v.modTrack f.track fun tr =>
      { tr with stack := tr.stack.map fun e => if e = .pair f.older f.newer then .single f.result else e }) := by
  refine ⟨fun t => ?_, fun t => ?_, fun t => ?_⟩
  · rw [track_modTrack]
    split
    · exact (List.length_map _).le.trans (h.stack _)
    · exact h.stack t
  · rw [track_modTrack]
    split
    · exact h.redo _
    · exact h.redo t
  · have hp : stackPairs (v.track f.track).stack = [(f.older, f.newer)] :=
      stackPairs_of_fold (s := { v with fold := some f }) h rfl
    rw [foldPair_none t (by exact hf), track_modTrack]
    split
    · exact stackPairs_replaced fun p hpm => by simpa [hp] using hpm
    · next e => exact stackPairs_other (s := { v with fold := some f }) h rfl e

/-- A fold complete: the result has its pair's place, and the members are gone (R45). -/
theorem PoolsWithin.completeFold {s : State} (h : PoolsWithin s) : PoolsWithin s.completeFold := by
  unfold State.completeFold
  split
  · exact h
  · next f hf =>
    dsimp only
    generalize ([f.older, f.newer].any fun id => ((s.layer? id).map Layer.damaged).getD false) = damaged
    have hlike := ((PoolsLike.refl { s with fold := none }).setWait .fold Wait.idle).modLayer f.result fun l =>
      { l with state := .closed, gain := f.pendingGain, damaged := l.damaged || damaged }
    have h1 := (h.registered.idleFold hf).like hlike
    have htr : ∀ t, (State.modLayer f.result (fun l =>
        { l with state := .closed, gain := f.pendingGain, damaged := l.damaged || damaged })
        (State.setWait .fold Wait.idle { s with fold := none })).track t = s.track t := fun t => by
      simp [State.track]
    have hfo : (State.modLayer f.result (fun l =>
        { l with state := .closed, gain := f.pendingGain, damaged := l.damaged || damaged })
        (State.setWait .fold Wait.idle { s with fold := none })).fold = none := by simp
    generalize State.modLayer f.result (fun l =>
      { l with state := .closed, gain := f.pendingGain, damaged := l.damaged || damaged })
      (State.setWait .fold Wait.idle { s with fold := none }) = v at *
    have h2 := h1.replacePair hfo (by rw [htr]; exact stackPairs_of_fold h.tracksWithin hf)
    have h3 := (h.tracksWithin.of_tracks (u := { v with fold := some f }) htr hf.symm).replacePair hfo
    generalize v.modTrack f.track (fun tr =>
        { tr with stack := tr.stack.map fun e => if e = .pair f.older f.newer then .single f.result else e }) = w at *
    have h4 := (h2.freeLayer .folded f.older).freeLayer .folded f.newer
    have h5 : PoolsWithin ((w.freeLayer .folded f.older).freeLayer .folded f.newer) := by
      refine (h4.mono fun j hj hm => ?_).within ((h3.of_tracks (fun t => freeLayer_track _ _ _ _)
        (freeLayer_fold _ _ _)).of_tracks (fun t => freeLayer_track _ _ _ _) (freeLayer_fold _ _ _))
      obtain ⟨hn, hj⟩ := (ids_freeLayer (h2.freeLayer .folded f.older).sorted).mp hj
      obtain ⟨ho, -⟩ := (ids_freeLayer h2.sorted).mp hj
      exact absurd hm (by simp [hn, ho])
    exact h5.like (((PoolsLike.refl _).reaim _).raise _ _ _ _)

/-- A new layer record: its place is still to come. -/
theorem Registered.addLayer {x : Nat → Prop} {s : State} (h : Registered x s) {id : Nat} (h1 : 1 ≤ id) (h40 : id ≤ 40)
    (l : Layer) : Registered (fun j => x j ∨ j = id) (s.setLayer id l) := by
  have hids : ∀ j, j ∈ (s.setLayer id l).ids ↔ j = id ∨ j ∈ s.ids := keys_insert id l s.layers
  refine ⟨insert_sorted h.sorted, fun j hj => ?_, fun j hj => ?_, fun i r hr => (hids _).mpr (.inr (h.records i r hr)),
    fun p w hw => (hids _).mpr (.inr (h.windows p w hw)), h.cues, h.slots⟩
  · obtain rfl | hj := (hids j).mp hj
    · exact ⟨h1, h40⟩
    · exact h.range j hj
  · obtain rfl | hj := (hids j).mp hj
    · exact .inl (.inr rfl)
    · exact (h.placed j hj).imp_left .inl

/-- The two oldest entries of a stack made the pair of a fold: its result has its place with that (R43). -/
theorem PoolsWithin.beginPair {v : State} {g : Fold} {t : TrackId} {a b rid : Nat} {rest : List Entry}
    (hg : g.key = (t, a, b, rid)) (hr : Registered (fun j => j = rid) v) (ht : TracksWithin v) (hf : v.fold = none)
    (hst : (v.track t).stack = .single a :: .single b :: rest) :
    PoolsWithin { v.modTrack t (fun tr => { tr with stack := .pair a b :: rest }) with fold := some g } := by
  simp only [Fold.key, Prod.mk.injEq] at hg
  obtain ⟨rfl, rfl, rfl, rfl⟩ := hg
  generalize hw : v.modTrack g.track (fun tr => { tr with stack := .pair g.older g.newer :: rest }) = w
  have hwr : Registered (fun j => j = g.result) w := by
    subst hw
    refine hr.rehouse rfl fun j hj => (hr.placed j hj).imp_right ?_
    rintro (⟨t', ht'⟩ | ⟨g', hg, -⟩)
    · refine .inl ⟨t', ?_⟩
      rw [track_modTrack]
      split
      · next e =>
        subst e
        rwa [hst] at ht'
      · exact ht'
    · rw [hf] at hg
      cases hg
  have htr : ∀ t', ({ w with fold := some g } : State).track t' = if g.track = t' then
      { v.track g.track with stack := .pair g.older g.newer :: rest } else v.track t' :=
    fun t' => (show State.track w t' = _ by rw [← hw, track_modTrack])
  have hpt : stackPairs rest = [] := by
    have hp := stackPairs_idle (t := g.track) ht hf
    rwa [hst] at hp
  have hlen := ht.stack g.track
  rw [hst, List.length_cons, List.length_cons] at hlen
  refine Registered.within (hwr.rehouse rfl fun j hj => .inr ?_) ⟨fun t' => ?_, fun t' => ?_, fun t' => ?_⟩
  · obtain rfl | ht' | ⟨g', hg, -⟩ := hwr.placed j hj
    · exact .inr ⟨g, rfl, rfl⟩
    · exact .inl ht'
    · rw [← hw, fold_modTrack, hf] at hg
      cases hg
  · rw [htr]
    split
    · simp only [List.length_cons]
      omega
    · exact ht.stack t'
  · rw [htr]
    split
    · exact ht.redo g.track
    · exact ht.redo t'
  · rw [htr]
    split
    · next e => simp [stackPairs, hpt, State.foldPair, e]
    · next e =>
      rw [stackPairs_idle ht hf]
      simp [State.foldPair, e]

/-- A fold started on the two oldest entries of a stack (R30, R43). -/
theorem PoolsWithin.startFold {s : State} (h : PoolsWithin s) {t : TrackId} {a b rid : Nat} {rest : List Entry}
    (hf : s.fold = none) (hst : (s.track t).stack = .single a :: .single b :: rest) (h1 : 1 ≤ rid) (h40 : rid ≤ 40) :
    PoolsWithin (s.startFold t a b rid rest) := by
  unfold State.startFold
  split
  · next la lb hla hlb =>
    have hl : PoolsLike s ((s.setLayer a { la with state := .folding }).setLayer b { lb with state := .folding }) := by
      have ha := (PoolsLike.refl s).setLayer (mem_ids_of_layer hla) { la with state := .folding }
      exact ha.setLayer (ha.present (mem_ids_of_layer hlb)) _
    refine PoolsWithin.beginFoldBurst (PoolsWithin.beginPair rfl ?_
      (TracksWithin.of_tracks (h.tracksWithin.like hl) (fun _ => rfl) rfl) hf hst)
    exact ((h.registered.like hl).addLayer h1 h40 _).mono fun j _ hj => hj.elim False.elim .inl
  · exact h

end Sys2Proof.Machine


/-! # The pools through capture, opening, rolls and the actions on a track (R30 to R42, R60 to R76) -/

namespace Sys2Proof.Machine

open Sys2Proof

/-! ### Admission (R30) -/

theorem freeId_range {s : State} {id : Nat} (h : s.freeId = some id) : 1 ≤ id ∧ id ≤ 40 := by
  obtain ⟨n, hn, rfl⟩ := List.mem_map.mp (List.mem_of_find?_eq_some h)
  rw [List.mem_range] at hn
  omega

theorem track_withFold (f : Option Fold) (t : TrackId) (s : State) : ({ s with fold := f } : State).track t = s.track t :=
  rfl

/-- A block is to be had for a layer in use where one is free (R143). -/
theorem allocate_ne_none {s : State} {id : Nat} {l : Layer} (hl : s.layer? id = some l) (hm : s.mem.free ≠ []) :
    s.allocate id ≠ none := by
  obtain ⟨b, rest, hf⟩ := List.exists_cons_of_ne_nil hm
  unfold State.allocate
  rw [hl, hf]
  exact Option.some_ne_none _

/-- A burst of a fold begun with a block to be had, or with no need of one, leaves the tracks (R45). -/
theorem beginFoldBurst_track {s : State} {f : Fold} {t : TrackId} (hf : s.fold = some f)
    (ha : f.nextOff % 4096 = 0 → s.allocate f.result ≠ none) : s.beginFoldBurst.track t = s.track t := by
  unfold State.beginFoldBurst
  rw [hf]
  dsimp only
  split
  · next hn =>
    split at hn
    · next hz => exact absurd hn (ha hz)
    · cases hn
  · next v hv =>
    have hk : v.track t = s.track t := by
      split at hv
      · unfold State.allocate at hv
        split at hv
        · obtain rfl := Option.some.inj hv
          rfl
        · cases hv
      · obtain rfl := Option.some.inj hv
        rfl
    split <;> exact hk

/-- A fold that is started makes the stack of its track one entry shorter (R43). -/
theorem startFold_shorter {s : State} {t : TrackId} {a b rid : Nat} {rest : List Entry} (h : PoolsWithin s)
    (hst : (s.track t).stack = .single a :: .single b :: rest) (ha : s.isClosed a = true) (hb : s.isClosed b = true)
    (hm : s.mem.free ≠ []) : ((s.startFold t a b rid rest).track t).stack.length < 8 := by
  have hlen := h.stack t
  rw [hst, List.length_cons, List.length_cons] at hlen
  obtain ⟨la, hla⟩ : ∃ l, s.layer? a = some l := by
    unfold State.isClosed at ha
    split at ha
    · next l hl => exact ⟨l, hl⟩
    · cases ha
  obtain ⟨lb, hlb⟩ : ∃ l, s.layer? b = some l := by
    unfold State.isClosed at hb
    split at hb
    · next l hl => exact ⟨l, hl⟩
    · cases hb
  unfold State.startFold
  rw [hla, hlb]
  dsimp only
  refine lt_of_eq_of_lt (congrArg (fun tr : Track => tr.stack.length) (beginFoldBurst_track (t := t) rfl fun _ => ?_)) ?_
  · exact allocate_ne_none (layer?_setLayer_same rid _ _) hm
  · rw [track_withFold, track_modTrack, if_pos rfl, List.length_cons]
    omega

/-- What an admission leaves: the pools within their bounds, the lowest free id, and room in the stack (R30). -/
theorem PoolsWithin.takeRoom {s u : State} (h : PoolsWithin s) {t : TrackId} {id : Nat}
    (e : s.takeRoom t = .ok (u, id)) : PoolsWithin u ∧ u.freeId = some id ∧ (u.track t).stack.length < 8 := by
  unfold State.takeRoom at e
  split at e
  · cases e
  · next rid hid =>
    dsimp only at e
    split at e
    · next hlt =>
      cases e
      exact ⟨h, hid, hlt⟩
    · split at e
      · next a b rest hst =>
        split at e
        · next hc =>
          simp only [Bool.and_eq_true, Bool.not_eq_true', Option.isNone_iff_eq_none] at hc
          obtain ⟨⟨⟨⟨hf, ha⟩, hb⟩, hm⟩, -⟩ := hc
          split at e
          · next id' hid' =>
            cases e
            obtain ⟨h1, h40⟩ := freeId_range hid
            exact ⟨h.startFold hf hst h1 h40, hid', startFold_shorter h hst ha hb (by simpa using hm)⟩
          · cases e
        · cases e
      · cases e

/-! ### Redo lists freed (R32), cuts and losses (R65 to R67, R76) -/

theorem PoolsWithin.freeRedo {s : State} (h : PoolsWithin s) (t : TrackId) : PoolsWithin (s.freeRedo t) := by
  unfold State.freeRedo
  dsimp only
  have hv := h.freeAll .undone (s.track t).redo.reverse
  have hgone : ∀ j ∈ (s.track t).redo, (s.freeAll .undone (s.track t).redo.reverse).layer? j = none := fun j hj =>
    freeAll_gone _ _ ⟨h.ids, h.records, h.windows⟩ (List.mem_reverse.mpr hj)
  have htr : ∀ t', (s.freeAll .undone (s.track t).redo.reverse).track t' = s.track t' := fun t' => freeAll_track _ _ _ _
  generalize s.freeAll .undone (s.track t).redo.reverse = v at *
  refine Registered.within (hv.registered.rehouse rfl fun j hj => .inr ?_) ⟨fun t' => ?_, fun t' => ?_, fun t' => ?_⟩
  · obtain ⟨t', ht'⟩ | hr := (hv.registered.placed j hj).resolve_left id
    · refine .inl ⟨t', ?_⟩
      rw [track_modTrack]
      split
      · next e =>
        subst e
        refine .inl (ht'.resolve_right fun hr => not_mem_ids.mpr (hgone j ?_) hj)
        rwa [htr] at hr
      · exact ht'
    · exact .inr hr
  · rw [track_modTrack]
    split
    · exact hv.stack t
    · exact hv.stack t'
  · rw [track_modTrack]
    split
    · exact Nat.zero_le _
    · exact hv.redo t'
  · rw [track_modTrack]
    split
    · next e => exact e ▸ hv.pairs t
    · exact hv.pairs t'

theorem PoolsWithin.cutClosed {s : State} (h : PoolsWithin s) (id n : Nat) : PoolsWithin (s.cutClosed id n) := by
  unfold State.cutClosed
  split
  · exact h
  · next l _ =>
    dsimp only
    split
    · refine PoolsWithin.like (PoolsWithin.discard ?_ _ _ _ fun _ => ⟨rfl, rfl⟩)
        (((PoolsLike.refl _).settleTrack _).noteTrack _ _)
      split
      · next f hf =>
        split
        · exact h.abandonFold hf (by decide)
        · exact h
      · exact h
    · have hk := ((PoolsLike.refl s).endAt id n).modLayer id fun l => { l with tail := true }
      exact h.like (.ite hk (hk.reaim id))

theorem PoolsWithin.exhaust {s : State} (h : PoolsWithin s) (id n : Nat) : PoolsWithin (s.exhaust id n) := by
  unfold State.exhaust
  split
  · exact h
  · next l _ =>
    have hr := h.like ((PoolsLike.refl s).raise .memoryFull (some l.track) (some id) (sat16 (n / 64)))
    dsimp only
    split
    · exact hr.closeOpen _ _ _ _ _
    · exact hr.cutClosed _ _

theorem PoolsWithin.giveUp {s : State} (h : PoolsWithin s) (place : Point) (id : Nat) (r : Range) :
    PoolsWithin (s.giveUp place id r) := by
  have ha := PoolsLike.allocateEach id (s.blocksNeeded id r) (PoolsLike.refl s)
  unfold State.giveUp
  split
  · next v e =>
    rw [e] at ha
    exact h.like (ha.overrun place id r)
  · next v o e =>
    rw [e] at ha
    exact (h.like (ha.overrun place id _)).exhaust id o

theorem PoolsWithin.handOver {s : State} (h : PoolsWithin s) (i : Fin 12) : PoolsWithin (s.handOver i) := by
  unfold State.handOver
  split
  · exact h
  · next r hr =>
    split
    · exact h.exhaust _ _
    · next v hv =>
      have hk : PoolsLike s v ∧ v.capture.records[i] = some r := by
        split at hv
        · refine ⟨(PoolsLike.refl s).allocate hv, ?_⟩
          unfold State.allocate at hv
          split at hv
          · obtain rfl := Option.some.inj hv
            exact hr
          · cases hv
        · obtain rfl := Option.some.inj hv
          exact ⟨.refl s, hr⟩
      obtain ⟨hk, hr⟩ := hk
      dsimp only
      have hs := hk.setRecord hr (r := if r.phase = .draining ∧ r.endStamp = some r.readStamp then none else
        some { r with buf := [], nextOff := stampSub r.readStamp r.startStamp }) fun r' e => by
          split at e
          · cases e
          · obtain rfl := Option.some.inj e
            rfl
      exact h.like (.ite (hs.same rfl) (hs.overrun _ _ _))

theorem PoolsWithin.settleCapture (n : Nat) : ∀ {s : State}, PoolsWithin s → PoolsWithin (s.settleCapture n) := by
  induction n with
  | zero => exact fun h => h.like (PoolsLike.refl _).refillAll
  | succ n ih =>
    intro s h
    have hr := h.like (PoolsLike.refl s).refillAll
    unfold State.settleCapture
    dsimp only
    split
    · split
      · exact ih (hr.handOver _)
      · exact hr
    · exact hr

theorem PoolsWithin.overtake {s : State} (h : PoolsWithin s) (place : Point) (i : Fin 12) :
    PoolsWithin (s.overtake place i) := by
  unfold State.overtake
  split
  · exact h
  · next r hr =>
    split
    · refine (h.like ((PoolsLike.refl s).setRecord hr fun r' e => ?_)).giveUp _ _ _
      obtain rfl := Option.some.inj e
      split <;> rfl
    · exact h

theorem PoolsWithin.overtakeAll (place : Point) (l : List (Fin 12)) :
    ∀ {s : State}, PoolsWithin s → PoolsWithin (s.overtakeAll place l) := by
  induction l with
  | nil => exact fun h => h
  | cons i l ih => exact fun h => ih (h.overtake place i)

theorem PoolsWithin.liveOne {s : State} (h : PoolsWithin s) (f : Frame) (i : Fin 12) : PoolsWithin (s.liveOne f i) := by
  unfold State.liveOne
  split
  · next r hr =>
    split
    · have hs := h.like ((PoolsLike.refl s).setRecord hr (r := some { r with
        buf := r.buf ++ [recordSample (s.track r.track).sources f], readStamp := stampAdd r.readStamp 1 })
        fun r' e => by obtain rfl := Option.some.inj e; rfl)
      dsimp only
      split
      · exact hs.handOver i
      · exact hs
    · exact h
  · exact h

theorem PoolsWithin.liveAll (f : Frame) (l : List (Fin 12)) :
    ∀ {s : State}, PoolsWithin s → PoolsWithin (s.liveAll f l) := by
  induction l with
  | nil => exact fun h => h
  | cons i l ih => exact fun h => ih (h.liveOne f i)

theorem PoolsLike.writeRing {s₀ s : State} (h : PoolsLike s₀ s) (f : Frame) : PoolsLike s₀ (s.writeRing f) := by
  unfold State.writeRing
  exact h.same rfl

theorem PoolsWithin.captureArrival {s : State} (h : PoolsWithin s) (place : Point) (f : Frame) (ord : Order) :
    PoolsWithin (s.captureArrival place f ord) := by
  have hw := (PoolsWithin.overtakeAll place (List.finRange 12) h).like (PoolsLike.writeRing (.refl _) f)
  unfold State.captureArrival
  dsimp only
  refine PoolsWithin.settleCapture _ (PoolsWithin.liveAll _ _ ?_)
  split
  · exact PoolsWithin.settleCapture _ hw
  · exact hw

/-! ### Opening a layer (R32, R60, R67) -/

theorem PoolsWithin.stealRecord {s : State} (h : PoolsWithin s) (i : Fin 12) : PoolsWithin (s.stealRecord i) := by
  unfold State.stealRecord
  split
  · exact h
  · next r hr =>
    exact (h.like ((PoolsLike.refl s).setRecord hr (r := none) fun _ e => by cases e)).giveUp _ _ _

/-- A capture record put in use for a layer of the pool. -/
theorem PoolsWithin.setRecord {s : State} (h : PoolsWithin s) (i : Fin 12) {r : CapRec} (hr : r.layer ∈ s.ids) :
    PoolsWithin (s.setRecord i (some r)) := by
  obtain ⟨hreg, ht⟩ := poolsWithin_iff.mp h
  refine Registered.within ⟨hreg.sorted, hreg.range, hreg.placed, fun j q hj => ?_, fun p w hw => ?_, hreg.cues,
    hreg.slots⟩ (ht.of_tracks (fun _ => rfl) rfl)
  · rw [record_setRecord] at hj
    split at hj
    · obtain rfl := Option.some.inj hj
      exact hr
    · exact hreg.records j q hj
  · cases p
    · exact hreg.windows .a w hw
    · exact hreg.windows .b w hw

theorem PoolsWithin.placeRecord {s : State} (h : PoolsWithin s) {r : CapRec} (hr : r.layer ∈ s.ids) :
    PoolsWithin (s.placeRecord r) := by
  unfold State.placeRecord
  split
  · exact h.setRecord _ hr
  · split
    · next i _ =>
      dsimp only
      split
      · next hs => exact (h.stealRecord i).setRecord i (mem_ids.mpr hs)
      · exact h.stealRecord i
    · exact h

/-- A new layer record made the newest entry of its track's stack. -/
theorem PoolsWithin.pushLayer {s : State} (h : PoolsWithin s) {t : TrackId} {id : Nat} (h1 : 1 ≤ id) (h40 : id ≤ 40)
    (hn : (s.track t).stack.length < 8) (l : Layer) {f : Track → Track}
    (hf : ∀ tr, (f tr).stack = tr.stack ++ [.single id] ∧ (f tr).redo = tr.redo) :
    PoolsWithin ((s.setLayer id l).modTrack t f) := by
  have hr := h.registered.addLayer h1 h40 l
  refine Registered.within (hr.rehouse rfl fun j hj => .inr ?_) ⟨fun t' => ?_, fun t' => ?_, fun t' => ?_⟩
  · obtain (hj | rfl) | ⟨t', ht'⟩ | hf' := hr.placed j hj
    · cases hj
    · refine .inl ⟨t, .inl ?_⟩
      rw [track_modTrack, if_pos rfl, (hf _).1, mem_stackIds_append]
      exact .inr List.mem_cons_self
    · refine .inl ⟨t', ?_⟩
      rw [track_modTrack]
      split
      · next e =>
        subst e
        rw [(hf _).1, (hf _).2, mem_stackIds_append]
        exact ht'.imp_left .inl
      · exact ht'
    · exact .inr hf'
  · rw [track_modTrack]
    split
    · rw [(hf _).1, List.length_append]
      exact hn
    · exact h.stack t'
  · rw [track_modTrack]
    split
    · rw [(hf _).2]
      exact h.redo t
    · exact h.redo t'
  · rw [track_modTrack]
    split
    · next e =>
      subst e
      rw [(hf _).1, stackPairs_append]
      exact (List.append_nil _).trans (h.pairs t)
    · exact h.pairs t'

theorem PoolsWithin.openLayer {s : State} (h : PoolsWithin s) {t : TrackId} {id : Nat} (hid : 1 ≤ id ∧ id ≤ 40)
    (hn : (s.track t).stack.length < 8) (l : Layer) (stamp : Nat) (ph : Phase) (dest : TrackState) :
    PoolsWithin (s.openLayer t id l stamp ph dest) := by
  refine (h.pushLayer hid.1 hid.2 hn l (by exact fun _ => ⟨rfl, rfl⟩)).placeRecord ?_
  exact (keys_insert id l s.layers id).mpr (.inl rfl)
end Sys2Proof.Machine


/-! # The pools through wraps and the actions on tracks (R26 to R42) -/

namespace Sys2Proof.Machine

open Sys2Proof

/-! ### Undo and redo (R35, R36) -/

/-- A layer taken out of the stack to the head of a redo list that keeps its layers in use (R35). -/
theorem PoolsWithin.leadRedo {u : State} {t : TrackId} {id : Nat} {redo : List Nat} (h : Registered (fun j => j = id) u)
    (ht : TracksWithin u) (hn : redo.length ≤ 3) (hk : ∀ j ∈ u.ids, j ∈ (u.track t).redo → j ∈ redo) :
    PoolsWithin (u.modTrack t fun tr => { tr.dropLayer id with redo := id :: redo }) := by
  refine Registered.within (h.rehouse rfl fun j hj => .inr ?_) ⟨fun t' => ?_, fun t' => ?_, fun t' => ?_⟩
  · by_cases hid : j = id
    · refine .inl ⟨t, .inr ?_⟩
      rw [track_modTrack, if_pos rfl, hid]
      exact List.mem_cons_self
    obtain ⟨t', ht'⟩ | hf := (h.placed j hj).resolve_left hid
    · refine .inl ⟨t', ?_⟩
      rw [track_modTrack]
      split
      · next e =>
        subst e
        exact ht'.imp (mem_stackIds_dropSingle hid) fun hm => List.mem_cons_of_mem _ (hk j hj hm)
      · exact ht'
    · exact .inr hf
  · rw [track_modTrack]
    split
    · exact (List.length_filter_le _ _).trans (ht.stack t)
    · exact ht.stack t'
  · rw [track_modTrack]
    split
    · exact Nat.succ_le_succ hn
    · exact ht.redo t'
  · rw [track_modTrack]
    split
    · next e =>
      subst e
      exact (stackPairs_dropSingle id _).trans (ht.pairs t)
    · exact ht.pairs t'

/-- A layer made the head of the redo list: it has its place with that (R35). -/
theorem PoolsWithin.toRedo {s : State} {t : TrackId} {id : Nat} (h : Registered (fun j => j = id) s)
    (ht : TracksWithin s) : PoolsWithin (s.toRedo t id) := by
  have hl := ((PoolsLike.refl s).loseWindowsOn id .undone).modLayer id fun l =>
    { l with state := .undone, buf := ReadBuf.aimed 0 }
  unfold State.toRedo
  dsimp only
  have hr := h.like hl
  have htr := ht.like hl
  generalize (s.loseWindowsOn id .undone).modLayer id (fun l => { l with state := .undone, buf := ReadBuf.aimed 0 }) = v at *
  split
  · next oldest l e =>
    refine PoolsWithin.leadRedo (hr.freeLayer .undone oldest)
      (htr.of_tracks (fun _ => freeLayer_track _ _ _ _) (freeLayer_fold _ _ _)) (List.length_take_le _ _) fun j hj hm => ?_
    have hne := ((ids_freeLayer hr.sorted).mp hj).1
    rw [freeLayer_track, ← List.take_append_drop 3 (v.track t).redo, List.mem_append] at hm
    refine hm.resolve_right fun hd => ?_
    have hlast : l = [] := by
      have hlen := htr.redo t
      have hdl := congrArg List.length e
      rw [List.length_drop, List.length_cons] at hdl
      exact List.length_eq_zero_iff.mp (by omega)
    rw [e, hlast, List.mem_singleton] at hd
    exact hne hd
  · next e =>
    refine PoolsWithin.leadRedo hr htr (List.length_take_le _ _) fun j _ hm => ?_
    rwa [← List.take_append_drop 3 (v.track t).redo, e, List.append_nil] at hm

theorem PoolsWithin.settleNoted {s : State} (h : PoolsWithin s) (t : TrackId) (old : Track) :
    PoolsWithin ((s.settleTrack t).noteTrack t old) := h.like (((PoolsLike.refl s).settleTrack t).noteTrack t old)

/-- A pair that stands in a stack is that of the running fold. -/
theorem PoolsWithin.pair_fold {s : State} (h : PoolsWithin s) {t : TrackId} {o n : Nat}
    (hp : Entry.pair o n ∈ (s.track t).stack) : ∃ f, s.fold = some f ∧ f.track = t ∧ f.older = o ∧ f.newer = n := by
  have hm : (o, n) ∈ s.foldPair t := h.pairs t ▸ mem_stackPairs.mpr hp
  unfold State.foldPair at hm
  split at hm
  · next f hf =>
    split at hm
    · next e =>
      simp only [List.mem_singleton, Prod.mk.injEq] at hm
      exact ⟨f, hf, e, hm.1.symm, hm.2.symm⟩
    · cases hm
  · cases hm

theorem PoolsWithin.actUndo {s u : State} (h : PoolsWithin s) {t : TrackId} (e : s.actUndo t = .ok u) : PoolsWithin u := by
  unfold State.actUndo at e
  dsimp only at e
  split at e
  · cases e
  · next older newer hlast =>
    obtain rfl := Except.ok.inj e
    obtain ⟨f, hf, rfl, rfl, rfl⟩ := h.pair_fold (List.mem_of_getLast? hlast)
    refine PoolsWithin.settleNoted (PoolsWithin.toRedo (Registered.abandonFold h hf (by decide) fun j hj hn => .inl ?_)
      (h.tracksWithin.abandonFold hf (by decide))) _ _
    exact hj.resolve_left fun e => hn (List.mem_singleton.mpr e)
  · next id hlast =>
    split at e
    · cases e
    · next l hl =>
      have hr := PoolsWithin.toRedo (t := t) (id := id) (h.registered.mono fun _ _ => False.elim) h.tracksWithin
      split at e
      · obtain rfl := Except.ok.inj e
        have hd := h.discard .undone t id (f := fun tr => { tr.dropLayer id with state := .playing, marker := none })
          fun _ => ⟨rfl, rfl⟩
        refine PoolsWithin.settleNoted (hd.like ?_) _ _
        exact .ite (PoolsLike.refl _).emptyCycle (.refl _)
      · obtain rfl := Except.ok.inj e
        exact (h.discard .undone t id (f := Track.dropLayer id) fun _ => ⟨rfl, rfl⟩).settleNoted _ _
      · exact Except.ok.inj e ▸ hr.settleNoted _ _
      · exact Except.ok.inj e ▸ hr.settleNoted _ _
      · exact Except.ok.inj e ▸ hr.settleNoted _ _

/-- The head of a redo list made the newest entry of the stack (R36). -/
theorem PoolsWithin.pushRedo {v : State} (h : PoolsWithin v) {t : TrackId} {id : Nat} {rest : List Nat} {tr : Track}
    (hredo : (v.track t).redo = id :: rest) (hn : (v.track t).stack.length < 8)
    (hs : tr.stack = (v.track t).stack ++ [.single id]) (hr : tr.redo = rest) : PoolsWithin (v.setTrack t tr) := by
  refine Registered.within (h.registered.rehouse rfl fun j hj => .inr ?_) ⟨fun t' => ?_, fun t' => ?_, fun t' => ?_⟩
  · obtain ⟨t', ht'⟩ | hf := (h.registered.placed j hj).resolve_left False.elim
    · refine .inl ⟨t', ?_⟩
      rw [track_setTrack]
      split
      · next e =>
        subst e
        rw [hredo, List.mem_cons, ← or_assoc] at ht'
        rw [hs, hr, mem_stackIds_append]
        exact ht'.imp_left fun hm => hm.imp_right fun e => List.mem_singleton.mpr e
      · exact ht'
    · exact .inr hf
  · rw [track_setTrack]
    split
    · rw [hs, List.length_append]
      exact hn
    · exact h.stack t'
  · rw [track_setTrack]
    have hl := h.redo t
    rw [hredo] at hl
    split
    · exact hr ▸ (Nat.le_succ _).trans hl
    · exact h.redo t'
  · rw [track_setTrack]
    split
    · next e =>
      subst e
      rw [hs, stackPairs_append]
      exact (List.append_nil _).trans (h.pairs t)
    · exact h.pairs t'

theorem PoolsWithin.actRedo {s u : State} (h : PoolsWithin s) {t : TrackId} (e : s.actRedo t = .ok u) : PoolsWithin u := by
  unfold State.actRedo at e
  dsimp only at e
  split at e
  · cases e
  · next hn =>
    split at e
    · cases e
    · split at e
      · cases e
      · next id rest hredo =>
        obtain rfl := Except.ok.inj e
        have hv := h.like ((PoolsLike.refl s).modLayer id fun l => { l with state := .closed })
        have htr : (s.modLayer id fun l => { l with state := .closed }).track t = s.track t := by simp [State.track]
        refine PoolsWithin.like (hv.pushRedo (t := t) (id := id) (rest := rest) ?_ ?_ ?_ rfl)
          (((PoolsLike.refl _).reaim id).noteTrack t _)
        · rw [htr, hredo]
        · rw [htr]
          omega
        · rw [htr]

/-! ### Clearing (R37) -/

/-- The running fold of a track abandoned as the track is cleared (R37, R48). -/
def State.clearFold (t : TrackId) (s : State) : State :=
  match s.fold with
  | some f => if f.track = t then s.abandonFold .cleared [] else s
  | none => s

theorem emptyTrack_clearFold (t : TrackId) (s : State) : s.emptyTrack t =
    ((s.clearFold t).freeAll .cleared ((stackIds ((s.clearFold t).track t).stack).reverse
      ++ ((s.clearFold t).track t).redo)).modTrack t Track.cleared := rfl

/-- The running fold of a track cleared: its result is gone and the engine idle, its pair for the clearing to take. -/
theorem PoolsWithin.clearFold {s : State} (h : PoolsWithin s) (t : TrackId) :
    Registered (fun _ => False) (s.clearFold t) ∧ (∀ t', (s.clearFold t).track t' = s.track t')
      ∧ (∀ t', t ≠ t' → (s.clearFold t).foldPair t' = s.foldPair t') ∧ (s.clearFold t).foldPair t = [] := by
  unfold State.clearFold
  split
  · next f hf =>
    split
    · next e =>
      subst e
      rw [abandonFold_cleared hf]
      have hr := (h.registered.endFold hf).like ((PoolsLike.refl (s.endFold f)).raise .foldAbandoned (some f.track)
        (some f.result) FoldCause.cleared.ctorIdx)
      have ht := endFold_track f s
      have hn := endFold_fold f s
      dsimp only
      rw [if_pos (by exact (congrArg (fun tr : Track => tr.stack.length) (ht f.track)).le.trans (h.stack f.track))]
      refine ⟨hr, ht, fun t' hne => ?_, foldPair_none _ hn⟩
      rw [foldPair_none _ (by exact hn), State.foldPair, hf]
      exact (if_neg hne).symm
    · next e =>
      refine ⟨h.registered, fun _ => rfl, fun _ _ => rfl, ?_⟩
      rw [State.foldPair, hf]
      exact if_neg e
  · next hf => exact ⟨h.registered, fun _ => rfl, fun _ _ => rfl, foldPair_none _ hf⟩

theorem Registered.freeAll {x : Nat → Prop} (c : LostCause) (ids : List Nat) :
    ∀ {s : State}, Registered x s → Registered x (s.freeAll c ids) := by
  induction ids with
  | nil => exact fun h => h
  | cons id ids ih => exact fun h => ih (h.freeLayer c id)

theorem freeAll_fold (c : LostCause) (ids : List Nat) : ∀ s : State, (s.freeAll c ids).fold = s.fold := by
  induction ids with
  | nil => exact fun _ => rfl
  | cons id ids ih => exact fun s => (ih _).trans (freeLayer_fold c id s)

theorem PoolsWithin.emptyTrack {s : State} (h : PoolsWithin s) (t : TrackId) : PoolsWithin (s.emptyTrack t) := by
  obtain ⟨hr, ht, hother, hown⟩ := h.clearFold t
  rw [emptyTrack_clearFold]
  generalize s.clearFold t = v at *
  have hgone : ∀ j, j ∈ stackIds (v.track t).stack ∨ j ∈ (v.track t).redo →
      (v.freeAll .cleared ((stackIds (v.track t).stack).reverse ++ (v.track t).redo)).layer? j = none := fun j hj =>
    freeAll_gone _ _ ⟨hr.sorted, fun i r e => mem_ids.mp (hr.records i r e), fun p w e => mem_ids.mp (hr.windows p w e)⟩
      (List.mem_append.mpr (hj.imp_left List.mem_reverse.mpr))
  have hf := Registered.freeAll .cleared ((stackIds (v.track t).stack).reverse ++ (v.track t).redo) hr
  have htr : ∀ t', (v.freeAll .cleared ((stackIds (v.track t).stack).reverse ++ (v.track t).redo)).track t' = v.track t' :=
    fun t' => freeAll_track _ _ _ _
  have hfo := freeAll_fold .cleared ((stackIds (v.track t).stack).reverse ++ (v.track t).redo) v
  generalize v.freeAll .cleared ((stackIds (v.track t).stack).reverse ++ (v.track t).redo) = w at *
  have hpair : ∀ t', (w.modTrack t Track.cleared).foldPair t' = v.foldPair t' := fun t' => by
    rw [State.foldPair, fold_modTrack, hfo, State.foldPair]
  refine Registered.within (hf.rehouse rfl fun j hj => .inr ?_) ⟨fun t' => ?_, fun t' => ?_, fun t' => ?_⟩
  · obtain ⟨t', ht'⟩ | hp := (hf.placed j hj).resolve_left id
    · refine .inl ⟨t', ?_⟩
      rw [track_modTrack]
      split
      · next e =>
        subst e
        rw [htr] at ht'
        exact absurd hj (not_mem_ids.mpr (hgone j ht'))
      · exact ht'
    · exact .inr hp
  · rw [track_modTrack]
    split
    · exact Nat.zero_le _
    · rw [htr, ht]
      exact h.stack t'
  · rw [track_modTrack]
    split
    · exact Nat.zero_le _
    · rw [htr, ht]
      exact h.redo t'
  · rw [hpair, track_modTrack]
    split
    · next e => exact e ▸ hown.symm
    · next e => rw [hother t' e, htr, ht, h.pairs]

theorem PoolsWithin.clearTrack {s : State} (h : PoolsWithin s) (t : TrackId) : PoolsWithin (s.clearTrack t) := by
  unfold State.clearTrack
  dsimp only
  split
  · exact h
  · exact (h.emptyTrack t).like (.ite (PoolsLike.refl _).emptyCycle (.refl _))

theorem PoolsWithin.clearTracks {s : State} (h : PoolsWithin s) : PoolsWithin s.clearTracks := by
  obtain ⟨hc, hfold, htr, hempty⟩ := clearTracks_clears s
  obtain ⟨hl, hrec, hwin⟩ := hempty h
  have hcues : s.clearTracks.cues = s.cues := by
    rw [clearTracks_eq]
    refine (RestKept.raiseEmptied _ _ (RestKept.emptyTracks _ ?_)).cues
    unfold State.stopFold
    split
    · exact (RestKept.refl s).abandonFold _ _
    · exact .refl s
  have hids : ∀ j, j ∉ s.clearTracks.ids := fun j => by simp [State.ids, hl]
  refine Registered.within ⟨by rw [hl]; exact .nil, fun j hj => absurd hj (hids j), fun j hj => absurd hj (hids j),
    fun i r e => ?_, fun p w e => ?_, hcues ▸ h.cues, hcues ▸ h.slots⟩ ⟨fun t => ?_, fun t => ?_, fun t => ?_⟩
  · rw [hrec] at e
    cases e
  · rw [hwin] at e
    cases e
  · rw [htr]
    exact Nat.zero_le _
  · rw [htr]
    exact Nat.zero_le _
  · rw [htr, foldPair_none t hfold]
    rfl

/-! ### Track wraps (R39 to R41) -/

theorem PoolsWithin.retire {s : State} (h : PoolsWithin s) (t : TrackId) (id : Nat) : PoolsWithin (s.retire t id) :=
  (h.discard .retired t id (f := Track.dropLayer id) fun _ => ⟨rfl, rfl⟩).like ((PoolsLike.refl _).raise _ _ _ _)

/-- Layers retired one after the other keep the pools and the fold, and are gone (R40). -/
theorem PoolsWithin.retireAll (t : TrackId) (l : List Nat) : ∀ {s : State}, PoolsWithin s →
    PoolsWithin (s.retireAll t l) ∧ (s.retireAll t l).fold = s.fold
      ∧ ∀ j, j ∈ l ∨ s.layer? j = none → (s.retireAll t l).layer? j = none := by
  induction l with
  | nil => exact fun h => ⟨h, rfl, fun j hj => hj.resolve_left List.not_mem_nil⟩
  | cons id l ih =>
    intro s h
    obtain ⟨hw, hf, hg⟩ := ih (h.retire t id)
    have hfold : (s.retire t id).fold = s.fold := freeLayer_fold _ _ _
    refine ⟨hw, hf.trans hfold, fun j hj => hg j ?_⟩
    rw [List.mem_cons, or_right_comm] at hj
    refine hj.symm.imp_right fun hj => ?_
    obtain rfl | hn := hj
    · exact freeLayer_gone .retired _ h.ids
    · exact ((Clearing.refl s).freeLayer .retired id).absent j hn

/-- The members of a running fold on a track. -/
def State.foldMembers (t : TrackId) (s : State) : List Nat :=
  match s.fold with
  | some f => if f.track = t then [f.older, f.newer] else []
  | none => []

/-- The gains of a track's wrap scaled, those that fade still in the pool (R39, R46). -/
def State.decayed (t : TrackId) (s : State) : State :=
  (s.decayAll (s.track t).feedback (s.decaying t)).decayFold t (s.track t).feedback

/-- The layers that a track's wrap retires (R40). -/
def State.fading (t : TrackId) (s : State) : List Nat := (s.decaying t).filter (s.decayed t).faded

/-- The members of the fold that fade retired, and the fold abandoned with those that stay (R40, R48). -/
def State.retireMembers (t : TrackId) (gone members : List Nat) (s : State) : State :=
  let s := s.retireAll t (gone.filter members.contains)
  if gone.any members.contains then s.abandonFold .retired (members.filter fun i => !gone.contains i) else s

theorem decayTrack_eq (t : TrackId) (s : State) : s.decayTrack t =
    (let gone := s.fading t
     let members := (s.decayed t).foldMembers t
     let v := ((s.decayed t).retireMembers t gone members).retireAll t (gone.filter fun i => !members.contains i)
     if gone.isEmpty then v else (v.settleTrack t).noteTrack t (s.track t)) := rfl

theorem foldMembers_of_fold {t : TrackId} {f : Fold} {s : State} (hf : s.fold = some f) :
    s.foldMembers t = if f.track = t then [f.older, f.newer] else [] := by
  rw [State.foldMembers, hf]

theorem PoolsWithin.retireMembers {s : State} (h : PoolsWithin s) (t : TrackId) (gone : List Nat) :
    PoolsWithin (s.retireMembers t gone (s.foldMembers t)) := by
  unfold State.retireMembers
  obtain ⟨hw, hfold, hgone⟩ := PoolsWithin.retireAll t (gone.filter (s.foldMembers t).contains) h
  dsimp only
  split
  · next hany =>
    cases hf : s.fold with
    | none =>
      rw [hf] at hfold
      rwa [State.abandonFold, hfold]
    | some f =>
      rw [hf] at hfold
      rw [foldMembers_of_fold hf] at *
      by_cases ht : f.track = t
      · rw [if_pos ht] at *
        refine (Registered.abandonFold hw hfold (by decide) fun j hj hn => .inr (hgone j (.inl ?_))).within
          (hw.tracksWithin.abandonFold hfold (by decide))
        have hm : j ∈ [f.older, f.newer] := by simpa using hj
        have hg : gone.contains j = true := by
          by_contra hg
          exact hn (List.mem_filter.mpr ⟨hm, by simpa using hg⟩)
        exact List.mem_filter.mpr ⟨List.contains_iff_mem.mp hg, List.contains_iff_mem.mpr hm⟩
      · rw [if_neg ht] at hany
        simp at hany
  · exact hw

theorem PoolsWithin.decayTrack {s : State} (h : PoolsWithin s) (t : TrackId) : PoolsWithin (s.decayTrack t) := by
  have hd : PoolsWithin (s.decayed t) :=
    h.like ((PoolsLike.decayAll (s.track t).feedback (s.decaying t) (.refl s)).decayFold t (s.track t).feedback)
  rw [decayTrack_eq]
  dsimp only
  have hr := ((hd.retireMembers t (s.fading t)).retireAll t
    ((s.fading t).filter fun i => !((s.decayed t).foldMembers t).contains i)).1
  split
  · exact hr
  · exact hr.settleNoted t _

theorem PoolsWithin.roll {s : State} (h : PoolsWithin s) (t : TrackId) : PoolsWithin (s.roll t) := by
  unfold State.roll
  dsimp only
  split
  · next id span _ _ =>
    split
    · next r l _ _ =>
      split
      · exact h
      · have hk := ((((PoolsLike.refl s).endCapture id (span * s.cycle.shownLen - l.startQ)).modLayer id
          fun l' => { l' with state := .closed, length := span * s.cycle.shownLen - l.startQ }).modTrack t
            (f := fun tr => { tr with openLayer := none, marker := none }) (by exact fun _ => ⟨rfl, rfl⟩))
        have hw := h.like hk
        split
        · next v id' e =>
          obtain ⟨hv, hid, hn⟩ := hw.takeRoom e
          exact (hv.openLayer (freeId_range hid) hn _ _ _ _).like
            ((PoolsLike.modTrack (.refl _) t (by exact fun _ => ⟨rfl, rfl⟩)).raise _ _ _ _)
        · exact hw.like (((((PoolsLike.refl _).modTrack t (by exact fun _ => ⟨rfl, rfl⟩)).raise _ _ _ _).raise
            _ _ _ _).raiseTrack t)
    · exact h
  · exact h

theorem PoolsWithin.wrapTrack {s : State} (h : PoolsWithin s) (t : TrackId) : PoolsWithin (s.wrapTrack t) :=
  (h.decayTrack t).roll t

theorem PoolsWithin.wrapAll (l : List TrackId) : ∀ {s : State}, PoolsWithin s → PoolsWithin (s.wrapAll l) := by
  induction l with
  | nil => exact fun h => h
  | cons t l ih => exact fun h => ih (h.wrapTrack t)

/-! ### Punch-ins, closes and the whole cycle (R21, R22, R32, R33) -/

theorem freeRedo_stack (t t' : TrackId) (s : State) : ((s.freeRedo t).track t').stack = (s.track t').stack := by
  unfold State.freeRedo
  rw [track_modTrack]
  split
  · next e => rw [freeAll_track, e]
  · rw [freeAll_track]

theorem PoolsWithin.actRecord {s u : State} (h : PoolsWithin s) {t : TrackId} {k : Cut} (e : s.actRecord t k = .ok u) :
    PoolsWithin u := by
  unfold State.actRecord at e
  split at e
  · cases e
  · split at e
    · cases e
    · next v id hr =>
      obtain rfl := Except.ok.inj e
      obtain ⟨hv, hid, hn⟩ := h.takeRoom hr
      have hw := (hv.freeRedo t).like (PoolsLike.startDefining (.refl _))
      refine (hw.openLayer (freeId_range hid) ?_ _ _ _ _).like ((PoolsLike.refl _).raiseTrack t)
      rw [(PoolsLike.startDefining (.refl (v.freeRedo t))).stack, freeRedo_stack]
      exact hn

theorem PoolsWithin.actLayer {s u : State} (h : PoolsWithin s) {t : TrackId} {cover : Bool} {k : Cut}
    (e : s.actLayer t cover k = .ok u) : PoolsWithin u := by
  unfold State.actLayer at e
  split at e
  · split at e
    · cases e
    · next v id hr =>
      obtain rfl := Except.ok.inj e
      obtain ⟨hv, hid, hn⟩ := h.takeRoom hr
      refine ((hv.freeRedo t).openLayer (freeId_range hid) ?_ _ _ _ _).like ((PoolsLike.refl _).raiseTrack t)
      rw [freeRedo_stack]
      exact hn
  · cases e

theorem PoolsWithin.actClose {s u : State} (h : PoolsWithin s) {t : TrackId} {k : Cut} (e : s.actClose t k = .ok u) :
    PoolsWithin u := by
  unfold State.actClose at e
  split at e
  · exact Except.ok.inj e ▸ h.closeAtCut t k false
  · exact Except.ok.inj e ▸ h.closeAtCut t k false
  · exact Except.ok.inj e ▸ h.closeAtCut t k false
  · cases e
  · cases e

theorem PoolsLike.actMute {s₀ s : State} (h : PoolsLike s₀ s) (t : TrackId) (target : Nat) :
    PoolsLike s₀ (s.actMute t target) := (h.modTrack t (by exact fun _ => ⟨rfl, rfl⟩)).noteTrack t _

/-! ### Cues that leave the list (4.7) -/

/-- Cues taken out of the list keep the bounds. -/
theorem PoolsWithin.fewerCues {s : State} (h : PoolsWithin s) {c : CueList}
    (hc : List.Sublist c.entries s.cues.entries) : PoolsWithin { s with cues := c } := by
  obtain ⟨hr, ht⟩ := poolsWithin_iff.mp h
  exact Registered.within ⟨hr.sorted, hr.range, hr.placed, hr.records, fun p w hw => by
    cases p
    · exact hr.windows .a w hw
    · exact hr.windows .b w hw, hc.length_le.trans hr.cues, hr.slots.sublist hc⟩ (ht.of_tracks (fun _ => rfl) rfl)

theorem PoolsWithin.dropCue {s : State} (h : PoolsWithin s) (r : DropReason) (c : Cue) : PoolsWithin (s.dropCue r c) :=
  (h.fewerCues (c := { s.cues with entries := s.cues.entries.filter (fun d => d.id != c.id) })
    List.filter_sublist).like ((PoolsLike.refl _).raiseEvent _)

theorem PoolsWithin.dropCues (r : DropReason) (l : List Cue) : ∀ {s : State}, PoolsWithin s → PoolsWithin (s.dropCues r l) := by
  induction l with
  | nil => exact fun h => h
  | cons c l ih => exact fun h => ih (h.dropCue r c)

theorem PoolsWithin.supersedeSlot {s : State} (h : PoolsWithin s) (target : Option TrackId) (f : Family) :
    PoolsWithin (s.supersedeSlot target f) := by
  unfold State.supersedeSlot
  split
  · exact h.dropCue _ _
  · exact h

theorem PoolsWithin.actStopAll {s : State} (h : PoolsWithin s) (k : Cut) : PoolsWithin (s.actStopAll k) := by
  unfold State.actStopAll
  split
  · have hd := (h.closeTracks k false (List.finRange 6)).dropCues .stopped
      (s.closeTracks k false (List.finRange 6)).cues.entries
    exact hd.like (((PoolsLike.refl _).setCycle _).raise _ _ _ _).reaimAllZero
  · exact (h.closeTracks k true _).dropCues .stopped _
  · exact h
  · exact h

theorem PoolsWithin.actPlayAll {s u : State} (h : PoolsWithin s) (e : s.actPlayAll = .ok u) : PoolsWithin u := by
  unfold State.actPlayAll at e
  split at e
  · obtain rfl := Except.ok.inj e
    exact h.like (((PoolsLike.refl s).setCycle _).raise _ _ _ _)
  · exact Except.ok.inj e ▸ h
  · cases e
  · cases e

theorem PoolsLike.withSwitches {s₀ s : State} (h : PoolsLike s₀ s) (w : Switches) :
    PoolsLike s₀ { s with switches := w } := h.same rfl

theorem PoolsWithin.actClearTrack {s : State} (h : PoolsWithin s) (t : TrackId) : PoolsWithin (s.actClearTrack t) := by
  have hd : PoolsWithin ((s.clearTrack t).dropTrackCues t) := (h.clearTrack t).dropCues .cleared _
  exact hd.like ((PoolsLike.withSwitches (.refl _) _).noteTrack t _)

theorem PoolsWithin.actClearAll {s : State} (h : PoolsWithin s) : PoolsWithin s.actClearAll := by
  have hc : PoolsWithin s.clearCycle := by
    unfold State.clearCycle
    exact h.like (((PoolsLike.refl s).setCycle _).same rfl)
  have hd : PoolsWithin (s.clearCycle.clearTracks.dropAllCues .cleared) := hc.clearTracks.dropCues .cleared _
  unfold State.actClearAll State.forgetRecent
  exact hd.like ((PoolsLike.refl _).same rfl)

/-- An action accepted by its owner keeps the bounds (R83, R92). -/
theorem PoolsWithin.act {s u : State} (h : PoolsWithin s) {a : Action} {target : Option TrackId} {k : Cut}
    (e : s.act a target k = .ok u) : PoolsWithin u := by
  unfold State.act at e
  split at e
  · exact h.actRecord e
  · exact h.actLayer e
  · exact h.actLayer e
  · exact h.actClose e
  · exact Except.ok.inj e ▸ h.like (PoolsLike.actMute (.refl s) _ _)
  · exact Except.ok.inj e ▸ h.like (PoolsLike.actMute (.refl s) _ _)
  · exact h.actUndo e
  · exact h.actRedo e
  · exact Except.ok.inj e ▸ h.actStopAll k
  · exact h.actPlayAll e
  · cases e

end Sys2Proof.Machine


/-! # The pools through cues, presses, the mixer and what follows a change (R81 to R95, R105 to R114, R117, R208 to R210) -/

namespace Sys2Proof.Machine

open Sys2Proof

/-! ### Entries that join the list (R85 to R89) -/

theorem insertCue_perm (c : Cycle) (e : Cue) (l : List Cue) : (insertCue c e l).Perm (e :: l) := by
  induction l with
  | nil => exact .refl _
  | cons x l ih =>
    unfold insertCue
    split
    · exact .refl _
    · exact (ih.cons x).trans (.swap e x l)

/-- Another list of cues within the bounds (R85). -/
theorem PoolsWithin.withCues {s : State} (h : PoolsWithin s) {c : CueList} (hn : c.entries.length ≤ 16)
    (hs : c.entries.Pairwise (fun a b => ¬ (a.target = b.target ∧ a.action.family = b.action.family))) :
    PoolsWithin { s with cues := c } := by
  obtain ⟨hr, ht⟩ := poolsWithin_iff.mp h
  exact Registered.within ⟨hr.sorted, hr.range, hr.placed, hr.records, fun p w hw => by
    cases p
    · exact hr.windows .a w hw
    · exact hr.windows .b w hw, hn, hs⟩ (ht.of_tracks (fun _ => rfl) rfl)

theorem PoolsWithin.makeCue {s : State} (h : PoolsWithin s) (p : Port) (a : Action) (target : Option TrackId)
    (q : Quantum) (press : PressTime) (pass pos : Nat) (hn : s.cues.entries.length < 16)
    (hs : ∀ c ∈ s.cues.entries, ¬ (c.target = target ∧ c.action.family = a.family)) :
    PoolsWithin (s.makeCue p a target q press pass pos).1 := by
  have hp := insertCue_perm s.cycle
    { id := pickCueId (s.cues.entries.map Cue.id) 17 s.cues.nextId, origin := p, joinedA := false, joinedB := false
      action := a, target := target, quantum := q, press := press, duePass := pass, duePos := pos } s.cues.entries
  refine h.withCues ?_ ?_
  · exact hp.length_eq.trans_le hn
  · refine (hp.pairwise_iff fun {x y} hxy => fun e => hxy ⟨e.1.symm, e.2.symm⟩).mpr
      (List.pairwise_cons.mpr ⟨fun c hc e => hs c hc ⟨e.1.symm, e.2.symm⟩, h.slots⟩)

theorem PoolsWithin.joinCue {s : State} (h : PoolsWithin s) (id : Nat) (p : Port) : PoolsWithin (s.joinCue id p) := by
  have hj : ∀ c : Cue, (c.join p).target = c.target ∧ (c.join p).action = c.action := by
    intro c
    cases p <;> exact ⟨rfl, rfl⟩
  have hc : ∀ c : Cue, (if c.id = id then c.join p else c).target = c.target
      ∧ (if c.id = id then c.join p else c).action = c.action := by
    intro c
    split
    · exact hj c
    · exact ⟨rfl, rfl⟩
  refine h.withCues ((List.length_map _).trans_le h.cues) (List.pairwise_map.mpr (h.slots.imp fun {a b} hab => ?_))
  rwa [(hc a).1, (hc a).2, (hc b).1, (hc b).2]

theorem inSlot_iff {target : Option TrackId} {f : Family} {c : Cue} :
    Cue.inSlot target f c = true ↔ c.target = target ∧ c.action.family = f := by
  simp [Cue.inSlot]

theorem PoolsWithin.placeCue {s : State} (h : PoolsWithin s) (p : Port) (a : Action) (target : Option TrackId)
    (q : Quantum) (press : PressTime) (pass pos : Nat) :
    PoolsWithin (s.placeCue p a target q press pass pos).1 := by
  unfold State.placeCue
  dsimp only
  split
  · next e he =>
    have hmem := List.mem_of_find?_eq_some he
    have hslot := inSlot_iff.mp (List.find?_some he)
    split
    · exact h.joinCue _ _
    · refine (h.dropCue .superseded e).makeCue _ _ _ _ _ _ _ ?_ fun c hc hcs => ?_
      · refine lt_of_lt_of_le (List.length_filter_lt_length_iff_exists.mpr ⟨e, hmem, by simp⟩) h.cues
      · obtain ⟨hc, hne⟩ := List.mem_filter.mp hc
        have : Std.Symm fun c d : Cue => ¬ (c.target = d.target ∧ c.action.family = d.action.family) :=
          ⟨fun _ _ hcd e => hcd ⟨e.1.symm, e.2.symm⟩⟩
        exact h.slots.forall hc hmem (fun eq => by simp [eq] at hne) ⟨hcs.1.trans hslot.1.symm, hcs.2.trans hslot.2.symm⟩
  · next he =>
    split
    · next hn =>
      refine h.makeCue _ _ _ _ _ _ _ hn fun c hc hcs => ?_
      have := List.find?_eq_none.mp he c hc
      exact this (inSlot_iff.mpr hcs)
    · exact h

/-! ### The quantised path and cues taken (R81, R83, R91) -/

theorem PoolsWithin.actAtOnce {s : State} (h : PoolsWithin s) (a : Action) (target : Option TrackId) (e : Eff) :
    PoolsWithin (s.actAtOnce a target e).1 := by
  have hb : PoolsWithin (if a.isAll then s.supersedeSlot target a.family else s) := by
    split
    · exact h.supersedeSlot _ _
    · exact h
  unfold State.actAtOnce
  dsimp only
  split
  · exact h
  · next u hu =>
    have hv := hb.act hu
    dsimp only
    split
    · exact hv
    · exact hv.supersedeSlot _ _

theorem PoolsWithin.quantised {s : State} (h : PoolsWithin s) (p : Port) (a : Action) (target : Option TrackId)
    (q : Quantum) (press : PressTime) : PoolsWithin (s.quantised p a target q press).1 := by
  unfold State.quantised
  split
  · exact h
  · exact h.actAtOnce _ _ _
  · exact h.placeCue _ _ _ _ _ _ _

theorem PoolsWithin.takeCue {s : State} (h : PoolsWithin s) (r : Reached) : PoolsWithin (s.takeCue r) := by
  unfold State.takeCue
  split
  · exact h
  · next c rest hc =>
    split
    · have hd := h.fewerCues (c := { s.cues with entries := rest }) (by rw [hc]; exact List.sublist_cons_self c rest)
      dsimp only
      split
      · next u hu => exact (hd.act hu).like ((PoolsLike.refl _).raiseEvent _)
      · exact hd.like ((PoolsLike.refl _).raiseEvent _)
    · exact h

theorem PoolsWithin.takeCues (r : Reached) (n : Nat) : ∀ {s : State}, PoolsWithin s → PoolsWithin (s.takeCues r n) := by
  induction n with
  | zero => exact fun h => h
  | succ n ih => exact fun h => ih (h.takeCue r)

theorem PoolsWithin.boundaryWork (r : Reached) (l : List (Option TrackId)) :
    ∀ (wraps : List TrackId) {s : State}, PoolsWithin s → PoolsWithin (s.boundaryWork r l wraps) := by
  induction l with
  | nil => exact fun wraps s h => PoolsWithin.takeCues r _ (PoolsWithin.wrapAll wraps h)
  | cons w l ih =>
    intro wraps s h
    cases w with
    | none => exact ih wraps (h.takeCue r)
    | some t =>
      unfold State.boundaryWork
      split
      · exact ih _ (h.wrapTrack t)
      · exact ih _ h

/-! ### Presses (R105 to R114) -/

theorem PoolsLike.noteRecent {s₀ s : State} (h : PoolsLike s₀ s) (p : Port) (t : TrackId) (a : Action)
    (press : PressTime) (ans : Answer) : PoolsLike s₀ (s.noteRecent p t a press ans) := by
  unfold State.noteRecent
  split
  · exact h.withSwitches _
  · exact h

theorem PoolsLike.setSwitchPort {s₀ s : State} (h : PoolsLike s₀ s) (p : Port) (c : SwitchPort) :
    PoolsLike s₀ (s.setSwitchPort p c) := by
  cases p <;> exact h.withSwitches _

theorem PoolsLike.withCycle {s₀ s : State} (h : PoolsLike s₀ s) (c : Cycle) : PoolsLike s₀ { s with cycle := c } :=
  h.same rfl

theorem PoolsLike.startCycle {s₀ s : State} (h : PoolsLike s₀ s) (n : Nat) (d : DefinedBy) :
    PoolsLike s₀ (s.startCycle n d) := ((h.setCycle _).raise _ _ _ _).raise _ _ _ _

theorem PoolsLike.actTap {s₀ s : State} (h : PoolsLike s₀ s) (stamp : Nat) : PoolsLike s₀ (s.actTap stamp).1 := by
  unfold State.actTap
  split
  · exact h
  · split
    · split
      · exact h.startCycle _ _
      · exact h.withCycle _
    · exact h.withCycle _

theorem PoolsWithin.resolved {s : State} (h : PoolsWithin s) (p : Port) (t : TrackId) (act : SwAction) (q : Quantum)
    (press : PressTime) : PoolsWithin (s.resolved p t act q press).1 := by
  unfold State.resolved
  split
  · exact h
  · next a _ =>
    have hq := (h.quantised p a (some t) q press).like (.noteRecent (.refl _) p t a press
      (s.quantised p a (some t) q press).2)
    dsimp only
    split
    · split
      · exact h.dropCue _ _
      · exact hq
    · exact hq

theorem PoolsWithin.toggle {s : State} (h : PoolsWithin s) (p : Port) (t : TrackId) (act : SwAction) (q : Quantum)
    (press : PressTime) : PoolsWithin (s.toggle p t act q press).1 := by
  have hr := h.resolved p t act q press
  unfold State.toggle
  split
  · split
    · exact h.joinCue _ _
    · exact hr
  · split
    · split
      · exact h
      · exact hr
    · exact hr

theorem PoolsWithin.handOn {s : State} (h : PoolsWithin s) (p : Port) (act : SwAction) (t : TrackId) (q : Quantum)
    (press : PressTime) : PoolsWithin (s.handOn p act t q press).1.1 := by
  have hc : ∀ a target, PoolsWithin (s.handCue p a target q press).1 := fun a target => h.quantised p a target q press
  cases act with
  | none => exact h
  | recordCycle => exact h.toggle _ _ _ _ _
  | overdubToggle => exact h.toggle _ _ _ _ _
  | replaceToggle => exact h.toggle _ _ _ _ _
  | close => exact hc _ _
  | muteToggle => exact hc _ _
  | undo => exact hc _ _
  | redo => exact hc _ _
  | playStopAll => exact hc _ _
  | clearTrack => exact h.actClearTrack t
  | tap => exact h.like (PoolsLike.actTap (.refl s) _)
  | selectNext => exact h.like (PoolsLike.setSwitchPort (.refl s) _ _)
  | selectPrevious => exact h.like (PoolsLike.setSwitchPort (.refl s) _ _)

theorem PoolsWithin.issue {s : State} (h : PoolsWithin s) (p : Port) (code : SwitchCode) (kind : IssueKind)
    (act : SwAction) (target : SwTarget) (q : Quantum) (press : PressTime) :
    PoolsWithin (s.issue p code kind act target q press) := by
  unfold State.issue
  split
  · exact h
  · exact (h.handOn _ _ _ _ _).like (PoolsLike.setSwitchPort (.refl _) _ _)

theorem PoolsWithin.setMachine {s : State} (h : PoolsWithin s) (p : Port) (code : SwitchCode) (m : Machine) :
    PoolsWithin (s.setMachine p code m) := h.like (PoolsLike.setSwitchPort (.refl s) _ _)

theorem PoolsWithin.switchDown {s : State} (h : PoolsWithin s) (p : Port) (code : SwitchCode) :
    PoolsWithin (s.switchDown p code).1 := by
  unfold State.switchDown
  split
  · exact h.setMachine _ _ _
  · exact (h.setMachine _ _ _).issue _ _ _ _ _ _ _
  · exact h
  · exact h

theorem PoolsWithin.switchUp {s : State} (h : PoolsWithin s) (p : Port) (code : SwitchCode) :
    PoolsWithin (s.switchUp p code).1 := by
  unfold State.switchUp
  split
  · dsimp only
    split
    · exact (h.setMachine _ _ _).issue _ _ _ _ _ _ _
    · exact h.setMachine _ _ _
  · exact h.setMachine _ _ _
  · exact h
  · exact h

theorem PoolsWithin.holdDue {s : State} (h : PoolsWithin s) (p : Port) (code : SwitchCode) :
    PoolsWithin (s.holdDue p code) := by
  unfold State.holdDue
  split
  · dsimp only
    (repeat' split)
    · exact h
    · exact (h.setMachine _ _ _).issue _ _ _ _ _ _ _
    · exact h.setMachine _ _ _
  · exact h

theorem PoolsWithin.windowDue {s : State} (h : PoolsWithin s) (p : Port) (code : SwitchCode) :
    PoolsWithin (s.windowDue p code) := by
  unfold State.windowDue
  split
  · split
    · exact h
    · exact (h.setMachine _ _ _).issue _ _ _ _ _ _ _
  · exact h

/-! ### The mixer (R117 to R130) -/

namespace PoolsLike

variable {s₀ s u : State}

theorem withMixer (h : PoolsLike s₀ s) (m : Mixer) : PoolsLike s₀ { s with mixer := m } := h.same rfl

theorem withAudio (h : PoolsLike s₀ s) (a : Audio) : PoolsLike s₀ { s with audio := a } := h.same rfl

theorem withPower (h : PoolsLike s₀ s) (p : Power) : PoolsLike s₀ { s with power := p } := h.same rfl

theorem layerSample (h : PoolsLike s₀ s) (id k : Nat) : PoolsLike s₀ (s.layerSample id k).1 := by
  unfold State.layerSample
  split
  · exact h
  · next l hl =>
    split
    · exact h.setLayer (mem_ids_of_layer hl) _
    · exact (h.setLayer (mem_ids_of_layer hl) _).takeFault _

theorem layerPart (h : PoolsLike s₀ s) (q id : Nat) (covers : List Nat) : PoolsLike s₀ (s.layerPart q id covers).1 := by
  unfold State.layerPart
  split
  · exact h
  · split
    · exact h.layerSample _ _
    · exact h

theorem sumLayers (t : TrackId) (q : Nat) (l : List Nat) :
    ∀ {s : State}, PoolsLike s₀ s → PoolsLike s₀ (s.sumLayers t q l).1 := by
  induction l with
  | nil => exact fun h => h
  | cons id l ih => exact fun h => ih (h.layerPart q id _)

theorem trackSum (h : PoolsLike s₀ s) (t : TrackId) : PoolsLike s₀ (s.trackSum t).1 := by
  unfold State.trackSum
  split
  · exact sumLayers _ _ _ h
  · exact h

theorem trackSums (l : List TrackId) : ∀ {s : State}, PoolsLike s₀ s → PoolsLike s₀ (s.trackSums l).1 := by
  induction l with
  | nil => exact fun h => h
  | cons t l ih => exact fun h => ih (h.trackSum t)

theorem clip (h : PoolsLike s₀ s) (ear : Bool) (place : Point) : PoolsLike s₀ (s.clip ear place) := by
  unfold State.clip
  dsimp only
  exact .ite (h.withMixer _) ((h.withMixer _).raiseEvent _)

theorem mix (h : PoolsLike s₀ s) (f : Frame) (place : Point) (beat : Option (Nat × Bool)) :
    PoolsLike s₀ (s.mix f place beat) := by
  have hm := trackSums (List.finRange 6) h.moveRamps
  unfold State.mix
  dsimp only
  refine withAudio ?_ _
  have hb := hm.withMixer { (s.moveRamps.trackSums (List.finRange 6)).1.mixer with
    burst := ((s.moveRamps.trackSums (List.finRange 6)).1.mixer.clickAt
      ((s.moveRamps.trackSums (List.finRange 6)).1.cycle.state == .running) beat).bind Click.next }
  exact .ite (clip (.ite (hb.clip _ _) hb) _ _) (.ite (hb.clip _ _) hb)

end PoolsLike

/-! ### What follows a change (R64, R141, R153) -/

theorem window_allocate {s u : State} {id : Nat} (e : s.allocate id = some u) (p : Port) : u.window p = s.window p := by
  unfold State.allocate at e
  split at e
  · obtain rfl := Option.some.inj e
    cases p <;> rfl
  · cases e

theorem PoolsWithin.requestCommit {s : State} (h : PoolsWithin s) (p : Port) : PoolsWithin (s.requestCommit p) := by
  unfold State.requestCommit
  split
  · exact h
  · next w hw =>
    split
    · exact h
    · dsimp only
      split
      · split
        · next u hu =>
          exact h.like (((PoolsLike.refl s).allocate hu).setWindow ((window_allocate hu p).trans hw) rfl)
        · exact h.discardImport _ _
      · exact h.like ((PoolsLike.refl s).setWindow hw rfl)

theorem PoolsWithin.settleWrite {s : State} (h : PoolsWithin s) (p : Port) : PoolsWithin (s.settleWrite p) := by
  unfold State.settleWrite
  split
  · exact h
  · split
    · split
      · exact h
      · exact h.requestCommit p
    · exact h

theorem PoolsWithin.settle {s : State} (h : PoolsWithin s) : PoolsWithin s.settle :=
  (PoolsWithin.settleCapture handOverRounds h).like
    (((((((PoolsLike.refl _).settleFold.settleRead .a).settleRead .b).settleBuffers.settleWait .fold).settleWait
      .windowA).settleWait .windowB))

/-! ### Power (R207 to R210) -/

theorem PoolsWithin.enterRest {s : State} (h : PoolsWithin s) (c : LostCause) (d : RestDetail) :
    PoolsWithin (s.enterRest c d) := by
  have hr := h.like (((PoolsLike.refl s).withPower { s.power with part := .rest }).withCycle
    { s.cycle with tap := TapSeq.empty })
  unfold State.enterRest
  dsimp only
  exact (PoolsWithin.dropCues .rest _ hr).like
    (((((PoolsLike.refl _).loseWindow .a c).loseWindow .b c).withMixer _).raise _ _ _ _)

theorem PoolsWithin.powerLow {s : State} (h : PoolsWithin s) : PoolsWithin s.powerLow := by
  unfold State.powerLow
  dsimp only
  have hc := (h.closeTracks .next false (List.finRange 6)).abandonRunningFold (cause := .powerLow) (by decide)
  have hd := PoolsWithin.discardImports .powerLow (((s.closeTracks .next false
    (List.finRange 6)).abandonRunningFold .powerLow).importing) hc
  exact ((hd.like ((((PoolsLike.refl _).loseWindow .a .powerLow).loseWindow .b .powerLow).raise _ _ _ _)).enterRest
    _ _).settle

theorem PoolsWithin.pinAsserted {s : State} (h : PoolsWithin s) : PoolsWithin s.pinAsserted := by
  have hp : PoolsWithin (s.setPin true) := h.like ((PoolsLike.refl s).withPower _)
  unfold State.pinAsserted
  dsimp only
  split
  · exact hp.powerLow
  · exact hp.like ((PoolsLike.refl _).raise _ _ _ _)
  · exact hp

theorem PoolsLike.withMode {s₀ s : State} (h : PoolsLike s₀ s) (m : MemMode) :
    PoolsLike s₀ { s with mem := { s.mem with mode := m } } := h.same rfl

theorem PoolsWithin.wakeUp {s : State} (h : PoolsWithin s) : PoolsWithin s.wakeUp := by
  have hp := h.like (((PoolsLike.refl s).withMode .serving).withPower { s.power with part := .run })
  exact (hp.like ((PoolsLike.refl _).raise .runEntered none none 0)).settle

theorem PoolsWithin.testDone {s : State} (h : PoolsWithin s) : PoolsWithin s.testDone := by
  have hp := h.like (((PoolsLike.refl s).withMode .serving).withPower { s.power with part := .run })
  unfold State.testDone
  dsimp only
  split
  · exact (hp.like ((PoolsLike.refl _).raiseEvent _)).powerLow
  · exact hp.like ((PoolsLike.refl _).raiseEvent _)

end Sys2Proof.Machine


/-! # The pools through the arbiter, the audio port and the transfers (R139 to R169, R185 to R193) -/

namespace Sys2Proof.Machine

open Sys2Proof

/-! ### Grants and completions (R140) -/

theorem readFor_layer {rd : Reading} {l : Layer} {s : State} (h : s.readFor rd = some l) : s.layer? rd.layer = some l := by
  unfold State.readFor at h
  split at h
  · exact h
  · cases h

namespace PoolsLike

variable {s₀ s u : State}

theorem grantPlayback (h : PoolsLike s₀ s) (id : Nat) (r : Range) : PoolsLike s₀ (s.grantPlayback id r) := by
  unfold State.grantPlayback
  split
  · exact h
  · next l hl => exact (h.setGrant (some (.playback (l.reading id r)))).setLayer (mem_ids_of_layer (s := s) hl) _

theorem grantFold (h : PoolsLike s₀ s) : PoolsLike s₀ s.grantFold := by
  unfold State.grantFold
  split
  · exact h
  · next f hf =>
    split
    · exact setGrant (withFold (g := { f with granted := true }) h hf rfl) _
    · dsimp only
      split
      · exact h
      · exact setGrant (withFold (g := { f with granted := true }) h hf rfl) _
    · exact h

theorem grantWindow (h : PoolsLike s₀ s) (p : Port) : PoolsLike s₀ (s.grantWindow p) := by
  unfold State.grantWindow
  split
  · exact h
  · next w hw =>
    split
    · next t _ _ =>
      have hg := h.setWindow (w := { w with req := .granted t }) hw rfl
      dsimp only
      split
      · exact hg.setGrant _
      · exact h
      · exact hg.setGrant _
    · exact h
    · exact h

theorem withPointer (h : PoolsLike s₀ s) (b : Background) :
    PoolsLike s₀ { s with mem := { s.mem with pointer := b } } := h.same rfl

theorem grantBackground (h : PoolsLike s₀ s) (b : Background) : PoolsLike s₀ (s.grantBackground b) := by
  unfold State.grantBackground
  cases b
  · exact (h.grantFold.setWait _ _).withPointer _
  · exact ((h.grantWindow .a).setWait _ _).withPointer _
  · exact ((h.grantWindow .b).setWait _ _).withPointer _

theorem grantNext (h : PoolsLike s₀ s) : PoolsLike s₀ s.grantNext := by
  unfold State.grantNext
  split
  · exact h.same rfl
  · split
    · exact h.grantPlayback _ _
    · split
      · exact h.grantBackground _
      · split
        · exact h.same rfl
        · split
          · exact h.grantBackground _
          · exact h

theorem suspectBlock (h : PoolsLike s₀ s) (rd : Reading) (b : Nat) : PoolsLike s₀ (s.suspectBlock rd b) := by
  unfold State.suspectBlock
  split
  · exact h
  · next l hl => exact h.setLayer (mem_ids_of_layer (readFor_layer hl)) _

theorem readChecked (h : PoolsLike s₀ s) (who : Requester) (o : Nat) (chk : WordCheck) (rd : Reading) :
    PoolsLike s₀ (s.readChecked who o chk rd).1 := by
  unfold State.readChecked
  (repeat' split)
  · exact h
  · exact h
  · exact h.takeFault _
  · exact h
  · exact h
  · dsimp only
    exact (h.suspectBlock _ _).takeFault _

theorem readFrom (who : Requester) (checks : List WordCheck) (l : List Nat) :
    ∀ {rd : Reading} {s : State}, PoolsLike s₀ s → PoolsLike s₀ (s.readFrom who checks l rd).1 := by
  induction l with
  | nil => exact fun h => h
  | cons i l ih => exact fun h => ih (h.readChecked _ _ _ _)

theorem readRun (h : PoolsLike s₀ s) (who : Requester) (checks : List WordCheck) (rd : Reading) :
    PoolsLike s₀ (s.readRun who checks rd).1 := readFrom _ _ _ h

theorem playbackDone (h : PoolsLike s₀ s) (rd : Reading) (checks : List WordCheck) :
    PoolsLike s₀ (s.playbackDone rd checks) := by
  have hr := h.readRun .playback checks rd
  unfold State.playbackDone
  dsimp only
  split
  · exact hr
  · next l hl =>
    split
    · exact hr.setLayer (mem_ids_of_layer (readFor_layer hl)) _
    · exact hr

theorem storeBurst (h : PoolsLike s₀ s) (block : Option Nat) (o : Nat) (xs : List Sample) :
    PoolsLike s₀ { s with mem := s.mem.storeBurst block o xs } := by
  refine h.withMem ?_ ?_
  · cases block <;> rfl
  · cases block <;> rfl

theorem captureDone (h : PoolsLike s₀ s) (b : Burst) (block : Option Nat) (live : Bool) :
    PoolsLike s₀ (s.captureDone b block live) := by
  unfold State.captureDone
  exact .ite ((h.storeBurst _ _ _).modLayer _ _) (h.storeBurst _ _ _)

theorem foldReadDone (h : PoolsLike s₀ s) (rd : Reading) (newer : Bool) (checks : List WordCheck) :
    PoolsLike s₀ (s.foldReadDone rd newer checks) := by
  have hr := h.readRun .fold checks rd
  unfold State.foldReadDone
  dsimp only
  split
  · exact hr
  · next f hf =>
    split
    · have hk := hr.withFold (g := if rd.cut then { f with granted := false } else
        f.took newer rd.range.first (s.readRun .fold checks rd).2) hf (by
          split
          · rfl
          · unfold Fold.took
            split <;> rfl)
      exact .ite (hk.modLayer _ _) hk
    · exact hr

theorem windowReadDone (h : PoolsLike s₀ s) (p : Port) (rd : Reading) (checks : List WordCheck) :
    PoolsLike s₀ (s.windowReadDone p rd checks) := by
  have hr := h.readRun (match p with | .a => .windowA | .b => .windowB) checks rd
  unfold State.windowReadDone
  dsimp only
  split
  · exact hr
  · next w hw =>
    split
    · exact hr.setWindow hw rfl
    · exact hr

theorem importDone (h : PoolsLike s₀ s) (p : Port) (id : Nat) : PoolsLike s₀ (s.importDone p id) := by
  unfold State.importDone
  split
  · exact h
  · next l hl =>
    refine (reaim (modTrack ((((h.setLayer (mem_ids_of_layer hl) _).shutWindows p).setWait _ _).raise _ _ _ _) _ ?_)
      id).noteTrack _ _
    intro tr
    split <;> exact ⟨rfl, rfl⟩

theorem commitDone (h : PoolsLike s₀ s) (p : Port) (block : Option Nat) (o : Nat) (xs : List Sample) :
    PoolsLike s₀ (s.commitDone p block o xs) := by
  have hb := h.storeBurst block o xs
  unfold State.commitDone
  dsimp only
  split
  · exact hb
  · next w hw =>
    split
    · next l _ _ hl =>
      have hw' : (State.setLayer w.layer { l.store o xs.length with committed := o + xs.length }
        { s with mem := s.mem.storeBurst block o xs }).window p = some w := by
          rw [← hw]
          cases p <;> rfl
      have hk := (hb.setLayer (mem_ids_of_layer hl) { l.store o xs.length with committed := o + xs.length }).setWindow
        (w := { w with buf := [], req := .absent }) hw' rfl
      (repeat' split)
      · exact (hk.importDone p w.layer).completeReply _ _ _
      · exact hk.importDone p w.layer
      · exact ((hk.shutWindows p).setWait _ _).completeReply _ _ _
      · exact hk
    · exact hb

end PoolsLike

theorem PoolsWithin.arbitrate {s : State} (h : PoolsWithin s) : PoolsWithin s.arbitrate := by
  unfold State.arbitrate
  split
  · exact (h.like (PoolsLike.grantNext (.refl s))).settle
  · exact h

theorem PoolsWithin.completeRefresh {s : State} (h : PoolsWithin s) : PoolsWithin s.completeRefresh := by
  unfold State.completeRefresh
  split
  · exact h.like ((PoolsLike.refl s).setGrant _)
  · exact h

theorem PoolsWithin.completePlayback {s : State} (h : PoolsWithin s) (checks : List WordCheck) :
    PoolsWithin (s.completePlayback checks) := by
  unfold State.completePlayback
  split
  · exact (h.like (((PoolsLike.refl s).setGrant none).playbackDone _ checks)).settle
  · exact h

theorem PoolsWithin.completeCapture {s : State} (h : PoolsWithin s) : PoolsWithin s.completeCapture := by
  unfold State.completeCapture
  split
  · exact (h.like (((PoolsLike.refl s).setGrant none).captureDone _ _ _)).settle
  · exact h

theorem PoolsWithin.foldWriteDone {s : State} (h : PoolsWithin s) (block : Option Nat) (o : Nat) (xs : List Sample) :
    PoolsWithin (s.foldWriteDone block o xs) := by
  have hb := (PoolsLike.refl s).storeBurst block o xs
  unfold State.foldWriteDone
  dsimp only
  split
  · exact h.like hb
  · next f hf =>
    split
    · have hk := PoolsLike.withFold (g := { f with nextOff := o + xs.length, out := none, granted := false })
        (hb.modLayer f.result (Layer.store o xs.length)) ((fold_modLayer _ _ _).trans hf) rfl
      split
      · exact (h.like hk).completeFold
      · exact (h.like hk).beginFoldBurst
    · exact h.like hb

theorem PoolsWithin.completeFoldBurst {s : State} (h : PoolsWithin s) (checks : List WordCheck) :
    PoolsWithin (s.completeFoldBurst checks) := by
  unfold State.completeFoldBurst
  split
  · exact (h.like (((PoolsLike.refl s).setGrant none).foldReadDone _ _ _)).settle
  · exact ((h.like ((PoolsLike.refl s).setGrant none)).foldWriteDone _ _ _).settle
  · exact h

theorem PoolsWithin.completeWindowRead {s : State} (h : PoolsWithin s) (checks : List WordCheck) :
    PoolsWithin (s.completeWindowRead checks) := by
  unfold State.completeWindowRead
  split
  · exact (h.like (((PoolsLike.refl s).setGrant none).windowReadDone _ _ _)).settle
  · exact h

theorem PoolsWithin.completeCommit {s : State} (h : PoolsWithin s) : PoolsWithin s.completeCommit := by
  unfold State.completeCommit
  split
  · exact (h.like (((PoolsLike.refl s).setGrant none).commitDone _ _ _ _)).settle
  · exact h

/-! ### Deadlines, the start-up test and self-refresh (R141 to R144, R154, R159, R160) -/

theorem PoolsLike.lockout {s₀ s : State} (h : PoolsLike s₀ s) (who : Background) : PoolsLike s₀ (s.lockout who) := by
  unfold State.lockout
  split
  · exact .ite (h.setWait _ _) h
  · exact h

theorem PoolsWithin.writeDeadline {s : State} (h : PoolsWithin s) : PoolsWithin s.writeDeadline := by
  unfold State.writeDeadline
  split
  · exact h
  · next b rest _ =>
    have hq : PoolsLike s { s with mem := { s.mem with queue := rest } } := (PoolsLike.refl s).same rfl
    split
    · dsimp only
      split
      · exact (h.like hq).settle
      · next l hl => exact (h.like ((hq.setLayer (mem_ids_of_layer hl) _).takeFault _)).settle
    · exact h

theorem PoolsWithin.windowTimedOut {s : State} (h : PoolsWithin s) (p : Port) : PoolsWithin (s.windowTimedOut p) := by
  unfold State.windowTimedOut
  split
  · exact h
  · next w hw =>
    have hk := (PoolsLike.refl s).setWindow (w := { w with req := .absent, timedOut := true, closing := false }) hw rfl
    split
    · split
      · exact (h.like (.ite (hk.completeReply p .timeout []) hk)).settle
      · exact h
    · exact h
    · exact h

theorem PoolsLike.testCorrected {s₀ : State} (b n : Nat) :
    ∀ {s : State}, PoolsLike s₀ s → PoolsLike s₀ (s.testCorrected b n) := by
  induction n with
  | zero => exact fun h => h
  | succ n ih => exact fun h => ih (h.takeFault _)

theorem PoolsLike.testBlock {s₀ s : State} (h : PoolsLike s₀ s) (n : Nat) (passed : Bool) :
    PoolsLike s₀ (s.testBlock n passed) := by
  unfold State.testBlock
  split
  · have hc := PoolsLike.testCorrected s.mem.testNext n h
    dsimp only
    generalize s.testCorrected s.mem.testNext n = v at hc
    split
    · exact hc.same rfl
    · refine takeFault ?_ _
      exact hc.same rfl
  · exact h

theorem PoolsWithin.finishTest {s : State} (h : PoolsWithin s) : PoolsWithin s.finishTest := by
  unfold State.finishTest
  split
  · exact h.testDone
  · exact h

/-! ### Frame arrivals (R3 to R6, R161 to R169) -/

theorem PoolsLike.advance {s₀ s : State} (h : PoolsLike s₀ s) : PoolsLike s₀ s.advance.1 := by
  unfold State.advance
  split
  · next len _ _ =>
    have ha : ∀ (r : Reached) {v : State}, PoolsLike s₀ v → PoolsLike s₀ (v.announce r) := fun r v hv => by
      have hw : PoolsLike s₀ (if r.wrap then v.raise .cycleWrap none none r.pass else v) := .ite (hv.raise _ _ _ _) hv
      unfold State.announce
      dsimp only
      split
      · exact hw.raise _ _ _ _
      · exact hw
    have hc := h.withCycle (s.cycle.move len).1
    exact ha _ (.ite (hc.same rfl) hc)
  · exact h.withCycle _
  · exact h

theorem PoolsWithin.atBoundary {s : State} (h : PoolsWithin s) (ord : Order) (r : Option Reached) :
    PoolsWithin (s.atBoundary ord r) := by
  unfold State.atBoundary
  split
  · exact PoolsWithin.boundaryWork _ _ _ h
  · exact h

theorem PoolsLike.withFresh {s₀ s : State} (h : PoolsLike s₀ s) (l : List Nat) : PoolsLike s₀ { s with fresh := l } :=
  h.same rfl

theorem PoolsWithin.arrivalWork {s : State} (h : PoolsWithin s) (ord : Order) (f : Frame) (r : Option Reached) :
    PoolsWithin (s.arrivalWork ord f r) := by
  have hb := (h.atBoundary ord r).like ((PoolsLike.refl _).withFresh [])
  unfold State.arrivalWork
  dsimp only
  refine PoolsWithin.settle (PoolsWithin.like ?_ (PoolsLike.mix (.refl _) _ _ _))
  exact PoolsWithin.closeLimits _ (hb.captureArrival _ _ _)

theorem PoolsLike.mixSilence {s₀ s : State} (h : PoolsLike s₀ s) : PoolsLike s₀ s.mixSilence := h.withAudio _

theorem PoolsWithin.arrive {s : State} (h : PoolsWithin s) (ord : Order) (f : Frame) : PoolsWithin (s.arrive ord f).1 := by
  have hc : PoolsLike s s.countFrame := (PoolsLike.refl s).withCycle _
  unfold State.arrive
  split
  · have ha := h.like hc.advance
    unfold State.arriveRun
    generalize s.countFrame.advance = r at ha ⊢
    obtain ⟨v, at_⟩ := r
    dsimp only at ha ⊢
    exact ha.arrivalWork ord f at_
  · exact h.like (hc.writeRing f).mixSilence
  · exact h.like (PoolsLike.refl s).mixSilence

theorem PoolsWithin.closeFrame {s : State} (h : PoolsWithin s) (n : Nat) (bits : BitVec 256) (ord : Order) :
    PoolsWithin (s.closeFrame n bits ord) := by
  have hb : ∀ {v : State} (place : Point), PoolsWithin v → PoolsWithin (v.audioBack place) := fun place hv => by
    unfold State.audioBack
    split
    · exact hv
    · exact hv.like (((PoolsLike.refl _).withAudio _).raiseEvent _)
  have hl : ∀ {v : State} (place : Point), PoolsWithin v → PoolsWithin (v.linkError place) := fun place hv => by
    unfold State.linkError
    dsimp only
    split
    · exact hv.like (((PoolsLike.refl _).withAudio _).raiseEvent _)
    · exact hv.like ((PoolsLike.refl _).withAudio _)
  unfold State.closeFrame
  dsimp only
  have hk : PoolsWithin (if decide (n = 256) = true then { s with audio := { s.audio with held := frameSamples bits } } else s) :=
    h.like (.ite ((PoolsLike.refl s).withAudio _) (.refl s))
  generalize (if decide (n = 256) = true then { s with audio := { s.audio with held := frameSamples bits } } else s) = v
    at hk ⊢
  split
  · exact hb _ (hk.arrive _ _)
  · exact hl _ (hb _ (hk.arrive _ _))

theorem PoolsWithin.frameSync {s : State} (h : PoolsWithin s) (n : Nat) (bits : BitVec 256) (ord : Order) :
    PoolsWithin (s.frameSync n bits ord) := by
  have hs := h.like ((PoolsLike.refl s).withAudio (s.audio.sync s.now n ord.beforeExpiry))
  unfold State.frameSync
  dsimp only
  split
  · exact hs
  · exact hs.closeFrame _ _ _

theorem PoolsLike.watchdog {s₀ s : State} (h : PoolsLike s₀ s) : PoolsLike s₀ s.watchdog := by
  unfold State.watchdog
  split
  · exact .ite ((h.withAudio _).raise _ _ _ _) h
  · exact h
end Sys2Proof.Machine


/-! # The pools through every command (R27 to R29, R43, R85) -/

namespace Sys2Proof.Machine

open Sys2Proof

/-- An update that leaves every part that the bounds of the pools speak of. -/
theorem PoolsWithin.plain {s u : State} (h : PoolsWithin s) (hu : u.pools = s.pools) : PoolsWithin u :=
  h.like ((PoolsLike.refl s).same hu)

theorem PoolsWithin.setPort {s : State} (h : PoolsWithin s) (p : Port) (c : PortCtl) : PoolsWithin (s.setPort p c) :=
  h.like ((PoolsLike.refl s).setPort p c)

/-! ### Transfers in segments (R185, R190 to R193) -/

theorem PoolsWithin.riseIf {s : State} (h : PoolsWithin s) (p : Port) (rise : Bool) : PoolsWithin (s.riseIf p rise) := by
  unfold State.riseIf
  split
  · exact h.setPort _ _
  · exact h

theorem PoolsWithin.segment {s : State} (h : PoolsWithin s) {p : Port} {k : TransferKind} {fall : Bool} {n : Nat}
    {rise : Bool} {body : State → State} (hb : ∀ s, PoolsWithin s → PoolsWithin (body s)) :
    PoolsWithin (s.segment p k fall n rise body) := by
  refine KeptByBlocks.whenLive (fun s h => ?_) h
  have hs : PoolsWithin (if fall then s.beginTransfer p k else s) := by
    split
    · exact h.setPort _ _
    · exact h
  dsimp only
  generalize (if fall then s.beginTransfer p k else s) = u at hs ⊢
  split
  · exact (hb _ hs).riseIf _ _
  · split
    · exact (hs.setPort _ _).riseIf _ _
    · exact hs

namespace PoolsLike

variable {s₀ s : State}

theorem shiftOut (h : PoolsLike s₀ s) (p : Port) (t : Transfer) (b : Byte) : PoolsLike s₀ (s.shiftOut p t b) :=
  h.setPort _ _

theorem replyByte (h : PoolsLike s₀ s) (p : Port) : PoolsLike s₀ (s.replyByte p) := by
  unfold State.replyByte
  split
  · exact h
  · dsimp only
    exact .ite (h.shiftOut _ _ _) (.ite ((h.shiftOut _ _ _).setPort _ _) (h.shiftOut _ _ _))

theorem eventByte (h : PoolsLike s₀ s) (p : Port) (t : Transfer) (left j : Nat) :
    PoolsLike s₀ (s.eventByte p t left j) := by
  unfold State.eventByte
  split
  · exact h.shiftOut _ _ _
  · exact .ite ((h.shiftOut _ _ _).setPort _ _) (h.shiftOut _ _ _)

theorem eventsByte (h : PoolsLike s₀ s) (p : Port) : PoolsLike s₀ (s.eventsByte p) := by
  unfold State.eventsByte
  (repeat' split)
  · exact h
  · exact h.shiftOut _ _ _
  · exact h.shiftOut _ _ _
  · exact h.eventByte _ _ _ _
  · exact h.shiftOut _ _ _

theorem latchWindow (h : PoolsLike s₀ s) (p : Port) : PoolsLike s₀ (s.latchWindow p) := by
  unfold State.latchWindow
  split
  · next w hw => exact h.setWindow hw rfl
  · exact h

theorem takeSample (h : PoolsLike s₀ s) (p : Port) : PoolsLike s₀ (s.takeSample p) := by
  unfold State.takeSample
  split
  · exact h
  · next w hw =>
    dsimp only
    split
    · refine settleRead (h.setWindow hw ?_) p
      rfl
    · split
      · exact h.windowDone hw rfl
      · refine settleRead (h.setWindow hw ?_) p
        rfl

theorem sampleByte (h : PoolsLike s₀ s) (p : Port) (t : Transfer) (j : Nat) : PoolsLike s₀ (s.sampleByte p t j) := by
  have hs : ∀ b, PoolsLike s₀ (s.shiftOut p t b) := fun b => h.shiftOut p t b
  unfold State.sampleByte
  split
  · exact hs _
  · dsimp only
    split
    · exact (hs _).takeSample p
    · unfold State.markShifting
      split
      · next w hw => exact (hs _).setWindow hw rfl
      · exact hs _

end PoolsLike

theorem PoolsWithin.reportFlag {s : State} (h : PoolsWithin s) (p : Port) (timedOut : Bool) :
    PoolsWithin (s.reportFlag p timedOut) := by
  unfold State.reportFlag
  split
  · split
    · next w hw =>
      have hk := (PoolsLike.refl s).setWindow (w := { w with timedOut := false }) hw rfl
      exact (h.like (hk.settleRead p)).settleWrite p
    · exact h
  · exact h

theorem PoolsWithin.windowReadByte {s : State} (h : PoolsWithin s) (p : Port) : PoolsWithin (s.windowReadByte p) := by
  unfold State.windowReadByte
  (repeat' split)
  · exact h
  · exact h.like (((PoolsLike.refl s).shiftOut _ _ _).latchWindow p)
  · exact (h.like ((PoolsLike.refl s).shiftOut _ _ _)).reportFlag _ _
  · exact h.like ((PoolsLike.refl s).sampleByte _ _ _)
  · exact h.like ((PoolsLike.refl s).shiftOut _ _ _)

theorem PoolsWithin.sampleIn {s : State} (h : PoolsWithin s) (p : Port) (x : Sample) (within : Bool) :
    PoolsWithin (s.sampleIn p x within) := by
  unfold State.sampleIn
  split
  · exact h
  · next w hw =>
    (repeat' split)
    · exact h
    · refine PoolsWithin.settleWrite (h.like ((PoolsLike.refl s).setWindow hw ?_)) p
      rfl
    · exact h.like ((PoolsLike.refl s).setWindow hw rfl)

theorem PoolsWithin.windowWriteByte {s : State} (h : PoolsWithin s) (p : Port) (b : Byte) :
    PoolsWithin (s.windowWriteByte p b) := by
  have hs : ∀ t c, PoolsWithin (s.shiftOut p t c) := fun t c => h.like ((PoolsLike.refl s).shiftOut p t c)
  unfold State.windowWriteByte
  (repeat' split)
  · exact h.setPort _ _
  · exact h
  · exact hs _ _
  · exact hs _ _
  · exact (hs _ _).reportFlag _ _
  · exact (hs _ _).sampleIn _ _ _
  · exact hs _ _
  · exact hs _ _

theorem PoolsWithin.windowWriteBytes (p : Port) (l : List Byte) :
    ∀ {s : State}, PoolsWithin s → PoolsWithin (s.windowWriteBytes p l) := by
  induction l with
  | nil => exact fun h => h
  | cons b l ih => exact fun h => ih (h.windowWriteByte p b)

/-! ### Requests and their owners (R187 to R189) -/

theorem PoolsWithin.screen {s : State} (hs : PoolsWithin s) {always lenOk : Bool} {h : Req} {code : Nat} {owner : Owner}
    (ho : ∀ s, PoolsWithin s → PoolsWithin (owner s).1) : PoolsWithin (s.screen always lenOk h code owner) := by
  have taken : PoolsWithin (s.takeRequest h code owner) := by
    have hp := ho _ (hs.setPort h.port { s.port h.port with reply := .pending h.tag (BitVec.ofNat 8 code) })
    unfold State.takeRequest
    split
    · next u st l e => rw [e] at hp; exact hp.setPort _ _
    · next u e => rw [e] at hp; exact hp
  unfold State.screen
  (repeat' split)
  · exact hs.setPort _ _
  · exact hs.setPort _ _
  · exact taken
  · exact hs.setPort _ _

theorem PoolsWithin.request {s : State} (hs : PoolsWithin s) {h : Req} {code n : Nat} {owner : Owner}
    (ho : ∀ s, PoolsWithin s → PoolsWithin (owner s).1) : PoolsWithin (s.request h code n owner) :=
  KeptByBlocks.whenLive (fun _ h => (h.setPort _ _).screen ho) hs

theorem PoolsWithin.requestAlways {s : State} (hs : PoolsWithin s) {h : Req} {code : Nat} {owner : Owner}
    (ho : ∀ s, PoolsWithin s → PoolsWithin (owner s).1) : PoolsWithin (s.requestAlways h code owner) :=
  KeptByBlocks.whenLive (fun _ h => (h.setPort _ _).screen ho) hs

section

variable {s : State}

theorem PoolsWithin.ownSetTempo (h : PoolsWithin s) (t b : Nat) : PoolsWithin (ownSetTempo t b s).1 := by
  unfold Machine.ownSetTempo
  (repeat' split)
  · exact h
  · exact h
  · exact h
  · exact h.like (((PoolsLike.refl s).withCycle _).startCycle _ _)

theorem PoolsWithin.ownSetLength (h : PoolsWithin s) (n : Nat) : PoolsWithin (ownSetLength n s).1 := by
  unfold Machine.ownSetLength
  (repeat' split)
  · exact h
  · exact h
  · exact h.like ((PoolsLike.refl s).startCycle _ _)

theorem PoolsWithin.ownTap (h : PoolsWithin s) : PoolsWithin (ownTap s).1 := by
  have ht := h.like (PoolsLike.actTap (.refl s) s.cycle.frameCount)
  unfold Machine.ownTap
  split <;> next e => rw [e] at ht; exact ht

theorem PoolsWithin.handQuantised (h : PoolsWithin s) (p : Port) (a : Action) (t : Option TrackId) (q : Quantum) :
    PoolsWithin (s.handQuantised p a t q).1 := by
  have hq := h.quantised p a t q s.pressNow
  unfold State.handQuantised
  dsimp only [State.answer]
  split
  · exact hq.settle
  · exact hq

theorem PoolsWithin.ownAll (h : PoolsWithin s) (p : Port) (a : Action) (q : Byte) : PoolsWithin (ownAll p a q s).1 := by
  unfold Machine.ownAll
  split
  · exact h.handQuantised _ _ _ _
  · exact h

theorem PoolsWithin.ownTrack (h : PoolsWithin s) (p : Port) (a : Action) (t q : Byte) :
    PoolsWithin (ownTrack p a t q s).1 := by
  unfold Machine.ownTrack
  split
  · exact h.handQuantised _ _ _ _
  · exact h

theorem PoolsWithin.ownClearAll (h : PoolsWithin s) (q : Byte) : PoolsWithin (ownClearAll q s).1 := by
  unfold Machine.ownClearAll
  split
  · exact h.actClearAll.settle
  · exact h

theorem PoolsWithin.ownClearTrack (h : PoolsWithin s) (t q : Byte) : PoolsWithin (ownClearTrack t q s).1 := by
  unfold Machine.ownClearTrack
  split
  · exact (h.actClearTrack _).settle
  · exact h

theorem PoolsWithin.ownSetTrack (h : PoolsWithin s) (t : Byte) (fb fr er : Nat) (src : Byte) :
    PoolsWithin (ownSetTrack t fb fr er src s).1 := by
  unfold Machine.ownSetTrack
  split
  · exact h.like ((PoolsLike.refl s).modTrack _ (by exact fun _ => ⟨rfl, rfl⟩))
  · exact h

theorem PoolsWithin.ownSetLayerGain (h : PoolsWithin s) (id g : Nat) : PoolsWithin (ownSetLayerGain id g s).1 := by
  unfold Machine.ownSetLayerGain
  split
  · exact h
  · next l hl =>
    split
    · exact h
    · exact h.like ((PoolsLike.refl s).setLayer (mem_ids_of_layer hl) _)

theorem PoolsWithin.ownCancelCue (h : PoolsWithin s) (id : Nat) : PoolsWithin (ownCancelCue id s).1 := by
  unfold Machine.ownCancelCue
  split
  · exact h.dropCue _ _
  · exact h

theorem PoolsWithin.ownSwitch (h : PoolsWithin s) {report : Port → SwitchCode → State → State × Bool}
    (hr : ∀ p c s, PoolsWithin s → PoolsWithin (report p c s).1) (p : Port) (c : Byte) :
    PoolsWithin (ownSwitch report p c s).1 := by
  unfold Machine.ownSwitch
  split
  · exact (hr _ _ _ h).settle
  · exact h

/-- A window opened on a layer of the pool (R151). -/
theorem PoolsWithin.setWindow (h : PoolsWithin s) (p : Port) {w : Window} (hw : w.layer ∈ s.ids) :
    PoolsWithin (s.setWindow p (some w)) := by
  obtain ⟨hr, ht⟩ := poolsWithin_iff.mp h
  have hs := (PoolsLike.refl s).shutWindows p
  refine Registered.within ⟨?_, ?_, ?_, ?_, fun q v hv => ?_, ?_, ?_⟩ ((ht.like hs).of_tracks (fun t => ?_) ?_)
  · cases p <;> exact hr.sorted
  · cases p <;> exact hr.range
  · cases p <;> exact hr.placed
  · cases p <;> exact hr.records
  · have hi : (s.setWindow p (some w)).ids = s.ids := by cases p <;> rfl
    rw [hi]
    by_cases e : q = p
    · subst e
      rw [window_setWindow] at hv
      exact Option.some.inj hv ▸ hw
    · refine hr.windows q v ?_
      rw [← hv]
      cases p <;> cases q <;> first | rfl | exact absurd rfl e
  · cases p <;> exact hr.cues
  · cases p <;> exact hr.slots
  · cases p <;> rfl
  · cases p <;> rfl

theorem PoolsWithin.shutWindow (h : PoolsWithin s) (p : Port) : PoolsWithin (s.shutWindow p) :=
  h.like (((PoolsLike.refl s).shutWindows p).setWait _ _)

theorem PoolsWithin.ownOpenWindow (h : PoolsWithin s) (p : Port) (id o : Nat) (d m : Byte) :
    PoolsWithin (ownOpenWindow p id o d m s).1 := by
  unfold Machine.ownOpenWindow
  split
  · exact h
  · split
    · exact h
    · split
      · split
        · exact h
        · next l hl =>
          split
          · exact h
          · exact (h.setWindow p (mem_ids_of_layer hl)).settle
      · exact h

theorem PoolsWithin.ownCloseWindow (h : PoolsWithin s) (p : Port) : PoolsWithin (ownCloseWindow p s).1 := by
  unfold Machine.ownCloseWindow
  split
  · exact h
  · split
    · exact h
    · next w hw =>
      split
      · exact (h.shutWindow p).settle
      · exact (h.shutWindow p).settle
      · have hk := h.like ((PoolsLike.refl s).setWindow (w := { w with closing := true }) hw rfl)
        have hc : PoolsWithin (s.closeCommit p w) := by
          unfold State.closeCommit
          dsimp only
          split
          · exact hk.requestCommit p
          · exact hk
          · exact hk
        exact hc.settle

theorem PoolsWithin.placeImport (h : PoolsWithin s) (p : Port) {id : Nat} (i : Import) (hid : 1 ≤ id ∧ id ≤ 40)
    (hn : (s.track i.track).stack.length < 8) : PoolsWithin (s.placeImport p id i) := by
  unfold State.placeImport
  dsimp only
  rw [← freeRedo_stack i.track] at hn
  refine ((h.freeRedo i.track).pushLayer hid.1 hid.2 hn _ (by exact fun _ => ⟨rfl, rfl⟩)).setWindow p ?_
  exact (keys_insert id _ (s.freeRedo i.track).layers id).mpr (.inl rfl)

theorem PoolsWithin.ownImportLayer (h : PoolsWithin s) (p : Port) (arg : Option Import) :
    PoolsWithin (ownImportLayer p arg s).1 := by
  unfold Machine.ownImportLayer
  (repeat' split)
  · exact h
  · exact h
  · exact h
  · exact h
  · next e =>
    obtain ⟨hv, hid, hn⟩ := h.takeRoom e
    exact (hv.placeImport p _ (freeId_range hid) hn).settle

theorem PoolsWithin.ownSetWindowTimeout (h : PoolsWithin s) (p : Port) (n : Nat) :
    PoolsWithin (ownSetWindowTimeout p n s).1 := by
  unfold Machine.ownSetWindowTimeout
  split
  · cases p <;> exact h.plain rfl
  · exact h

theorem PoolsWithin.ownRest (h : PoolsWithin s) : PoolsWithin (ownRest s).1 := by
  unfold Machine.ownRest
  (repeat' split)
  · exact h
  · exact (h.enterRest _ _).settle
  · exact h

theorem PoolsWithin.ownWake (h : PoolsWithin s) : PoolsWithin (ownWake s).1 := by
  unfold Machine.ownWake
  split
  · exact h.wakeUp
  · exact h

end

/-- The part in reset has no layers and no cues (R207). -/
theorem poolsWithin_resetTo (held : Bool) (s : State) : PoolsWithin (s.resetTo held) := by
  have htr : ∀ t, (s.resetTo held).track t = Track.reset t := fun t => by
    simp [State.resetTo, State.afterReset, State.track]
  have hrec : ∀ i : Fin 12, (s.resetTo held).capture.records[i] = none := fun i => by
    simp [State.resetTo, State.afterReset, Capture.reset]
  have hl : ∀ e, e ∉ (s.resetTo held).layers := fun e => List.not_mem_nil
  refine ⟨.nil, fun e he => absurd he (hl e), fun e he => absurd he (hl e), fun t => ?_, fun t => ?_, fun t => ?_, fun i r hr => ?_, fun p w hw => ?_, Nat.zero_le _, .nil⟩
  · rw [htr]
    exact Nat.zero_le _
  · rw [htr]
    exact Nat.zero_le _
  · rw [htr]
    rfl
  · rw [hrec] at hr
    cases hr
  · cases p <;> cases hw

open KeptByBlocks in
/-- Every command keeps the pools within their bounds. -/
theorem PoolsWithin.exec {s : State} (h : PoolsWithin s) (c : Instr) : ∃ t, Machine.exec c s = .next t ∧ PoolsWithin t := by
  have answered : ∀ (s : State) (st : Status) (l : List Byte), PoolsWithin s → PoolsWithin (s.answer st l).1 :=
    fun _ _ _ h => h
  cases c with
  | reset => exact ⟨s.resetTo false, rfl, poolsWithin_resetTo false s⟩
  | resetnLow => exact ⟨s.resetTo true, rfl, poolsWithin_resetTo true s⟩
  | resetPart r =>
    refine ⟨_, rfl, h.request fun v _ => ?_⟩
    unfold ownResetPart
    exact poolsWithin_resetTo false v
  | frameSync n bits ord => exact ⟨_, rfl, whenLive (fun _ h => h.frameSync n bits ord) h⟩
  | pwrlowAssert =>
    refine ⟨_, rfl, ?_⟩
    split
    · exact h
    · exact h.pinAsserted
  | pwrlowRelease => exact ⟨_, rfl, h.like ((PoolsLike.refl s).withPower _)⟩
  | watchdogExpiry => exact ⟨_, rfl, whenLive (fun s h => h.like (PoolsLike.refl s).watchdog) h⟩
  | holdDeadline p code => exact ⟨_, rfl, whenLive (fun _ h => (h.holdDue p code).settle) h⟩
  | windowDeadline p code => exact ⟨_, rfl, whenLive (fun _ h => (h.windowDue p code).settle) h⟩
  | backgroundLockout who => exact ⟨_, rfl, whenLive (fun s h => h.like ((PoolsLike.refl s).lockout who)) h⟩
  | writeTimeout => exact ⟨_, rfl, whenLive (fun _ h => h.writeDeadline) h⟩
  | windowRequestTimeout p => exact ⟨_, rfl, whenLive (fun _ h => h.windowTimedOut p) h⟩
  | refreshDue =>
    refine ⟨_, rfl, whenLive (fun s h => ?_) h⟩
    unfold State.refreshFallsDue
    split
    · exact h.plain rfl
    · exact h
  | arbiterGrant => exact ⟨_, rfl, whenLive (fun _ h => h.arbitrate) h⟩
  | refreshComplete => exact ⟨_, rfl, whenLive (fun _ h => h.completeRefresh) h⟩
  | playbackReadComplete checks => exact ⟨_, rfl, whenLive (fun _ h => h.completePlayback checks) h⟩
  | captureWriteComplete => exact ⟨_, rfl, whenLive (fun _ h => h.completeCapture) h⟩
  | foldBurstComplete checks => exact ⟨_, rfl, whenLive (fun _ h => h.completeFoldBurst checks) h⟩
  | windowReadComplete checks => exact ⟨_, rfl, whenLive (fun _ h => h.completeWindowRead checks) h⟩
  | windowCommitComplete => exact ⟨_, rfl, whenLive (fun _ h => h.completeCommit) h⟩
  | waitingBurstHandover => exact ⟨_, rfl, whenLive (fun _ h => h.settle) h⟩
  | blockTest n ok => exact ⟨_, rfl, whenLive (fun s h => h.like ((PoolsLike.refl s).testBlock n ok)) h⟩
  | memoryTestDone => exact ⟨_, rfl, whenLive (fun _ h => h.finishTest) h⟩
  | enterSelfRefresh =>
    refine ⟨_, rfl, whenLive (fun s h => ?_) h⟩
    unfold State.selfRefresh
    split
    · exact h.like ((PoolsLike.refl s).withMode _)
    · exact h
  | requestCut p arrived => exact ⟨_, rfl, whenLive (fun _ h => (h.setPort _ _).setPort _ _) h⟩
  | unknownRequest r code =>
    refine ⟨_, rfl, whenLive (fun s h => ?_) h⟩
    dsimp only
    split <;> exact (h.setPort _ _).setPort _ _
  | readReply p fall n rise =>
    exact ⟨_, rfl, h.segment fun _ h => KeptByBlocks.repeatStep (fun s h => h.like ((PoolsLike.refl s).replyByte p)) n h⟩
  | readEvents p fall n rise =>
    exact ⟨_, rfl, h.segment fun _ h => KeptByBlocks.repeatStep (fun s h => h.like ((PoolsLike.refl s).eventsByte p)) n h⟩
  | windowRead p fall n rise =>
    exact ⟨_, rfl, h.segment fun _ h => (KeptByBlocks.repeatStep (fun _ h => h.windowReadByte p) n h).settle⟩
  | windowWrite p fall bytes rise => exact ⟨_, rfl, h.segment fun _ h => (PoolsWithin.windowWriteBytes p bytes h).settle⟩
  | status r => exact ⟨_, rfl, h.requestAlways fun s => answered s _ _⟩
  | identify r => exact ⟨_, rfl, h.requestAlways fun s => answered s _ _⟩
  | setInterest r kinds =>
    refine ⟨_, rfl, h.request fun s h => ?_⟩
    unfold ownSetInterest
    split
    · exact h
    · exact h.setPort _ _
  | setMaskLevel r level =>
    refine ⟨_, rfl, h.request fun s h => ?_⟩
    unfold ownSetMaskLevel
    split
    · exact h.setPort _ _
    · exact h
  | postNote r note =>
    refine ⟨_, rfl, whenLive (fun _ h => (h.setPort _ _).screen fun s h => ?_) h⟩
    unfold ownPostNote
    split
    · exact h
    · exact (h.setPort _ _).setPort _ _
  | takeNote r =>
    refine ⟨_, rfl, h.request fun s h => ?_⟩
    unfold ownTakeNote
    split
    · exact h
    · exact (h.setPort _ _).setPort _ _
  | setTempo r t b => exact ⟨_, rfl, h.request fun _ h => h.ownSetTempo _ _⟩
  | setLength r n => exact ⟨_, rfl, h.request fun _ h => h.ownSetLength _⟩
  | setGrid r b p =>
    refine ⟨_, rfl, h.request fun s h => ?_⟩
    unfold ownSetGrid
    split
    · exact h
    · exact h.plain rfl
  | setGrace r n => exact ⟨_, rfl, h.request fun _ h => h.plain rfl⟩
  | tap r => exact ⟨_, rfl, h.request fun _ h => h.ownTap⟩
  | playAll r q => exact ⟨_, rfl, h.request fun _ h => h.ownAll _ _ _⟩
  | stopAll r q => exact ⟨_, rfl, h.request fun _ h => h.ownAll _ _ _⟩
  | clearAll r q => exact ⟨_, rfl, h.request fun _ h => h.ownClearAll _⟩
  | record r t q => exact ⟨_, rfl, h.request fun _ h => h.ownTrack _ _ _ _⟩
  | overdub r t q => exact ⟨_, rfl, h.request fun _ h => h.ownTrack _ _ _ _⟩
  | replace r t q => exact ⟨_, rfl, h.request fun _ h => h.ownTrack _ _ _ _⟩
  | close r t q => exact ⟨_, rfl, h.request fun _ h => h.ownTrack _ _ _ _⟩
  | mute r t q => exact ⟨_, rfl, h.request fun _ h => h.ownTrack _ _ _ _⟩
  | unmute r t q => exact ⟨_, rfl, h.request fun _ h => h.ownTrack _ _ _ _⟩
  | undo r t q => exact ⟨_, rfl, h.request fun _ h => h.ownTrack _ _ _ _⟩
  | redo r t q => exact ⟨_, rfl, h.request fun _ h => h.ownTrack _ _ _ _⟩
  | clearTrack r t q => exact ⟨_, rfl, h.request fun _ h => h.ownClearTrack _ _⟩
  | setTrack r t fb fr er src => exact ⟨_, rfl, h.request fun _ h => h.ownSetTrack _ _ _ _ _⟩
  | setLayerGain r id g => exact ⟨_, rfl, h.request fun _ h => h.ownSetLayerGain _ _⟩
  | readTrack r t => exact ⟨_, rfl, h.request fun s h => by unfold ownReadTrack; split <;> exact h⟩
  | readLayer r id => exact ⟨_, rfl, h.request fun s h => by unfold ownReadLayer; split <;> exact h⟩
  | cancelCue r id => exact ⟨_, rfl, h.request fun _ h => h.ownCancelCue _⟩
  | readCues r => exact ⟨_, rfl, h.request fun s => answered s _ _⟩
  | setSwitch r c a b d g q =>
    refine ⟨_, rfl, h.request fun s h => ?_⟩
    unfold ownSetSwitch
    split
    · exact h.like ((PoolsLike.refl s).withSwitches _)
    · exact h
  | setPressTiming r hold double => exact ⟨_, rfl, h.request fun s h => h.like ((PoolsLike.refl s).withSwitches _)⟩
  | switchDown r c => exact ⟨_, rfl, h.request fun _ h => h.ownSwitch (fun p c _ h => h.switchDown p c) _ _⟩
  | switchUp r c => exact ⟨_, rfl, h.request fun _ h => h.ownSwitch (fun p c _ h => h.switchUp p c) _ _⟩
  | selectTrack r t =>
    refine ⟨_, rfl, h.request fun s h => ?_⟩
    unfold ownSelectTrack
    split
    · exact h.like (PoolsLike.setSwitchPort (.refl s) _ _)
    · exact h
  | setMonitor r i fr er =>
    refine ⟨_, rfl, h.request fun s h => ?_⟩
    unfold ownSetMonitor
    split
    · exact h.like ((PoolsLike.refl s).withMixer _)
    · exact h
  | setBus r fr er => exact ⟨_, rfl, h.request fun s h => h.like ((PoolsLike.refl s).withMixer _)⟩
  | setClick r on level =>
    refine ⟨_, rfl, h.request fun s h => ?_⟩
    unfold ownSetClick
    split
    · exact h.like ((PoolsLike.refl s).withMixer _)
    · exact h
  | setOutput r i k n =>
    refine ⟨_, rfl, h.request fun s h => ?_⟩
    unfold ownSetOutput
    split
    · exact h.like ((PoolsLike.refl s).withMixer _)
    · exact h
  | setEdge r n => exact ⟨_, rfl, h.request fun s h => h.like ((PoolsLike.refl s).withMixer _)⟩
  | readClips r clear =>
    refine ⟨_, rfl, h.request fun s h => ?_⟩
    unfold ownReadClips
    split
    · exact h.like ((PoolsLike.refl s).withMixer _)
    · exact h
    · exact h
  | openWindow r id o d m => exact ⟨_, rfl, h.request fun _ h => h.ownOpenWindow _ _ _ _ _⟩
  | closeWindow r => exact ⟨_, rfl, h.request fun _ h => h.ownCloseWindow _⟩
  | importLayer r t sp st n cv g => exact ⟨_, rfl, h.request fun _ h => h.ownImportLayer _ _⟩
  | setWindowTimeout r n => exact ⟨_, rfl, h.request fun _ h => h.ownSetWindowTimeout _ _⟩
  | setLinkThreshold r n =>
    refine ⟨_, rfl, h.request fun s h => ?_⟩
    unfold ownSetLinkThreshold
    split
    · exact h
    · exact h.like ((PoolsLike.refl s).withAudio _)
  | clearLinkCount r => exact ⟨_, rfl, h.request fun s h => h.like ((PoolsLike.refl s).withAudio _)⟩
  | readFaults r => exact ⟨_, rfl, h.request fun s => answered s _ _⟩
  | clearFaults r q =>
    refine ⟨_, rfl, h.request fun s h => ?_⟩
    unfold ownClearFaults
    (repeat' split)
    · exact h
    · exact h.plain rfl
    · exact h
  | rest r => exact ⟨_, rfl, h.request fun _ h => h.ownRest⟩
  | wake r => exact ⟨_, rfl, h.request fun _ h => h.ownWake⟩

/-- Settles O9: each command keeps the layer records (`Registered`) and the tracks (`TracksWithin`) within their bounds,
and idling touches neither. -/
theorem poolsAndStacksStayWithin : Obligations.PoolsAndStacksStayWithin := by
  unfold Obligations.PoolsAndStacksStayWithin
  intro s t h e
  unfold step at e
  split at e
  · obtain rfl := Host.Outcome.next.inj e
    exact h.plain rfl
  · next c rest _ =>
    obtain ⟨u, hu, hr⟩ := PoolsWithin.exec (s := { s with pending := rest }) (h.plain rfl) c
    obtain rfl := Host.Outcome.next.inj (hu.symm.trans e)
    exact hr

end Sys2Proof.Machine


/-! # O26: MUTE and UNMUTE with quantum NONE -/

namespace Sys2Proof.Machine

open Sys2Proof

/-- With quantum NONE an action of no transport family and not of the whole cycle acts at the current frame, whatever
the part state and the cycle state (R17, R24). -/
theorem dueOf_beside {a : Action} {press : PressTime} {s : State} (ht : a.isTransport = false) (hA : a.isAll = false) :
    s.dueOf a .none press = .atOnce s.cycle.current := by
  unfold State.dueOf
  dsimp only
  split
  · simp [ht, hA]
  · split
    · simp [ht]
    · simp
    · rfl

/-- MUTE and UNMUTE acting: the target set, and TRACK STATE where that changes it (R38). -/
theorem actMute_eq (t : TrackId) (target : Nat) (s : State) : s.actMute t target =
    (let v := s.setTrack t { s.track t with muteTarget := target }
     if (s.track t).muteTarget = target then v
     else v.raise .trackState (some t) none ((s.track t).state.ctorIdx + if target = 0 then 32768 else 0)) := by
  unfold State.actMute State.noteTrack State.raiseTrack Track.detail State.modTrack
  dsimp only
  rw [track_setTrack, if_pos rfl]
  simp [eq_comm]

/-- Settles O26: in every part state and cycle state the due is the current frame, and the act is `actMute`. -/
theorem muteAndUnmuteSetTheTarget : Obligations.MuteAndUnmuteSetTheTarget := by
  unfold Obligations.MuteAndUnmuteSetTheTarget
  intro h mute t tb s v target code hs ht htarget hcode hv
  have acted : ∀ (a : Action), a.isAll = false → a.isTransport = false → a.family = .mute →
      (s.handedOn h a.code).act a (some t) .next = .ok ((s.handedOn h a.code).actMute t target) →
      exec (a.request h tb 0) s =
        .next ((((s.handedOn h a.code).actMute t target).supersedeSlot (some t) .mute).settle.replied h a.code .ok
          s.cycle.nowBytes) := fun a hA hT hf hact => by
    have he := exec_actionRequest_current (a := a) (tb := tb) (qb := 0) (target := some t) (q := .none)
      (by simpa [Action.argLen, hA] using hs) rfl (by simp [Action.targetOf, hA, ht]) (dueOf_beside hT hA)
      (by simpa [State.beforeAct, hA] using hact)
    simpa [hA, hf] using he
  cases mute with
  | true =>
    subst hv htarget hcode
    refine (acted .mute rfl rfl rfl rfl).trans ?_
    rw [actMute_eq, track_handedOn]
    rfl
  | false =>
    subst hv htarget hcode
    refine (acted .unmute rfl rfl rfl rfl).trans ?_
    rw [actMute_eq, track_handedOn]
    rfl

end Sys2Proof.Machine


/-! # O36: the reading requests answer from the state and change nothing -/

namespace Sys2Proof.Machine

open Sys2Proof

/-! ### Bytes of one place (R197) -/

theorem bytes_one (n : Nat) : bytes 1 n = codeByte n := rfl

theorem length_bytes (w n : Nat) : (bytes w n).length = w := by simp [bytes]

theorem flagByte_eq (b : Bool) : flagByte b = [if b then 1 else 0] := by cases b <;> rfl

theorem length_flagByte (b : Bool) : (flagByte b).length = 1 := by cases b <;> rfl

/-- The i-th of lists of one length, one after the other. -/
theorem take_drop_flatten {α : Type} {k : Nat} {L : List (List α)} (r : List α) (hL : ∀ x ∈ L, x.length = k) :
    ∀ {i : Nat} (hi : i < L.length), ((L.flatten ++ r).drop (k * i)).take k = L[i] := by
  induction L with
  | nil => exact fun hi => absurd hi (Nat.not_lt_zero _)
  | cons x L ih =>
    intro i hi
    obtain ⟨hx, hL⟩ := List.forall_mem_cons.mp hL
    rw [List.flatten_cons, List.append_assoc]
    cases i with
    | zero =>
      rw [Nat.mul_zero, List.drop_zero, ← hx, List.take_left]
      rfl
    | succ i =>
      rw [Nat.mul_succ, Nat.add_comm, ← List.drop_drop, ← hx, List.drop_left, hx]
      exact ih hL (Nat.lt_of_succ_lt_succ hi)

/-! ### STATUS (R195) -/

/-- The bytes of STATUS before those of the tracks. -/
def State.statusHead (s : State) : List Byte :=
  [BitVec.ofNat 8 s.power.part.ctorIdx, BitVec.ofNat 8 s.cycle.state.ctorIdx]
    ++ bytes 3 s.cycle.shownLen ++ bytes 3 s.cycle.shownPos
    ++ bytes 1 s.cycle.pass ++ bytes 1 s.cycle.beats ++ bytes 1 s.cycle.perBar

/-- The bytes of STATUS after those of the tracks. -/
def State.statusTail (s : State) : List Byte :=
  bytes 2 s.mem.free.length ++ bytes 2 s.mem.bad.length ++ bytes 1 s.cues.entries.length
    ++ [if s.faults.summary then 1 else 0, if s.audio.present then 0 else 1]
    ++ bytes 2 s.audio.linkErrors

theorem statusBytes_eq (s : State) :
    s.statusBytes = s.statusHead ++ ((s.tracks.toList.map Track.statusBytes).flatten ++ s.statusTail) := by
  simp only [State.statusBytes, State.statusHead, State.statusTail, flagByte_eq, codeByte, List.append_assoc,
    List.cons_append, List.nil_append]
  cases s.audio.present <;> rfl

theorem length_statusHead (s : State) : s.statusHead.length = 11 := by
  simp [State.statusHead, length_bytes]

theorem length_statusTail (s : State) : s.statusTail.length = 9 := by
  simp [State.statusTail, length_bytes]

theorem length_track_statusBytes (tr : Track) : tr.statusBytes.length = 3 := by
  simp [Track.statusBytes, length_bytes, length_flagByte, codeByte]

theorem length_trackBytes (s : State) : (s.tracks.toList.map Track.statusBytes).flatten.length = 18 := by
  rw [List.length_flatten, List.map_map]
  have : (List.length ∘ Track.statusBytes) = fun _ => 3 := funext length_track_statusBytes
  simp [this]

/-! ### The other reads, entry by entry (R53, R54, R99, R182) -/

/-- A list of items, each made bytes by a function (R197). -/
theorem listBytes_map {α : Type} (f g : α → List Byte) (l : List α) (h : ∀ x, f x = g x) :
    listBytes (l.map f) = bytes 1 l.length ++ l.flatMap g := by
  rw [listBytes, List.length_map, List.flatMap_def, bytes_one, funext h]

theorem listBytes_holes (l : List Range) : listBytes (l.map fun r => bytes 4 r.first ++ bytes 4 r.len) =
    bytes 1 l.length ++ l.flatMap (fun x => bytes 4 x.first ++ bytes 4 x.len) := listBytes_map _ _ _ fun _ => rfl

theorem trackBytes_eq (s : State) (t : TrackId) (r : Track) (hr : r = s.track t) : s.trackBytes t =
    bytes 1 r.state.ctorIdx ++ bytes 1 (r.span.getD 0) ++ bytes 1 (r.heldSpan.getD 0)
      ++ bytes 2 r.feedback ++ bytes 2 r.frontSend ++ bytes 2 r.earSend ++ [r.sources]
      ++ bytes 2 r.muteTarget ++ bytes 2 r.ramp ++ bytes 1 r.stack.length
      ++ bytes 1 r.stack.length ++ r.stack.flatMap entryBytes
      ++ bytes 1 (r.openLayer.getD 0) ++ bytes 1 r.redo.length ++ r.redo.flatMap (bytes 1)
      ++ bytes 1 ((r.marker.map Prod.fst).getD 0) ++ bytes 1 ((r.marker.map Prod.snd).getD 0)
      ++ bytes 2 r.foldClips ++ s.foldBytes t := by
  subst hr
  simp only [State.trackBytes, listBytes_map entryBytes entryBytes _ fun _ => rfl,
    listBytes_map (fun i : Nat => codeByte i) (bytes 1) _ fun _ => rfl, spanByte, layerByte, bytes_one,
    List.append_assoc]

theorem layerBytes_eq (s : State) (id : Nat) (l : Layer) (sus : List Nat)
    (hsus : sus = l.extents.filter l.suspects.contains) : s.layerBytes id l =
    bytes 1 id ++ bytes 1 l.track.val ++ bytes 1 l.state.ctorIdx ++ bytes 1 l.origin.ctorIdx
      ++ startBytes l.start ++ bytes 4 (s.lengthOf id l)
      ++ [if l.cover then 1 else 0, if l.head then 1 else 0, if l.tail then 1 else 0]
      ++ bytes 2 l.gain ++ [if l.damaged then 1 else 0]
      ++ bytes 1 l.holes.length ++ l.holes.flatMap (fun x => bytes 4 x.first ++ bytes 4 x.len)
      ++ bytes 2 l.extents.length ++ bytes 2 sus.length
      ++ bytes 1 (sus.take 255).length ++ (sus.take 255).flatMap (bytes 2) := by
  subst hsus
  simp only [State.layerBytes, listBytes_holes, listBytes_map (fun b : Nat => bytes 2 b) (bytes 2) _ fun _ => rfl,
    flagByte_eq, bytes_one, List.append_assoc, List.cons_append, List.nil_append]

/-- The bytes of an entry of READ CUES (R99). -/
def cueFields (cycle : Cycle) (c : Cue) : List Byte :=
  bytes 2 c.id ++ [(match c.origin with | .a => 0 | .b => 1 : Byte)]
    ++ bytes 1 ((if c.joinedA then 1 else 0) + (if c.joinedB then 2 else 0))
    ++ bytes 1 c.action.ctorIdx ++ bytes 1 c.action.family.ctorIdx
    ++ [(match c.target with | some t => BitVec.ofNat 8 t.val | none => Config.targetAllCode : Byte)]
    ++ bytes 1 c.quantum.ctorIdx ++ bytes 1 c.press.pass ++ bytes 3 c.press.pos
    ++ bytes 4 (c.press.time / 16000) ++ bytes 1 c.duePass ++ bytes 3 c.duePos
    ++ bytes 4 (cycle.forwardDistance c.duePass c.duePos)

theorem cue_bytes_eq (cycle : Cycle) (c : Cue) : c.bytes cycle = cueFields cycle c := by
  have ho : codeByte (portCode c.origin) = [(match c.origin with | .a => 0 | .b => 1 : Byte)] := by
    cases c.origin <;> rfl
  have ht : cueTargetByte c.target =
      [(match c.target with | some t => BitVec.ofNat 8 t.val | none => Config.targetAllCode : Byte)] := by
    cases c.target <;> rfl
  simp only [Cue.bytes, cueFields, ho, ht, portSetCode, pointBytes, millisBytes, Config.ticksPerMs, bytes_one,
    List.append_assoc]

theorem cuesBytes_eq (s : State) : s.cuesBytes =
    bytes 1 s.cues.entries.length ++ bytes 2 s.cues.nextId ++ bytes 1 s.cycle.pass
      ++ bytes 3 s.cycle.shownPos ++ bytes 1 s.cues.entries.length
      ++ s.cues.entries.flatMap (cueFields s.cycle) := by
  simp only [State.cuesBytes, listBytes_map (fun c : Cue => c.bytes s.cycle) (cueFields s.cycle) _
    (cue_bytes_eq s.cycle), pointBytes, List.append_assoc]

theorem recordBytes_eq (o : Occurrence) (n : Nat) : recordBytes (o, n) =
    bytes 1 o.kind.ctorIdx ++ [if o.kind.hard then 1 else 0] ++ bytes 1 o.requester.ctorIdx
      ++ bytes 2 (o.block.getD 65535) ++ bytes 1 (o.layer.getD 0) ++ bytes 1 ((o.track.map Fin.val).getD 255)
      ++ bytes 1 o.pass ++ bytes 3 o.pos ++ bytes 2 n := by
  have hk : codeByte (if o.kind.hard then 1 else 0) = [if o.kind.hard then 1 else 0] := by cases o.kind.hard <;> rfl
  have ht : trackByte o.track = bytes 1 ((o.track.map Fin.val).getD 255) := by cases o.track <;> rfl
  simp only [recordBytes, hk, ht, blockBytes, layerByte, pointBytes, bytes_one, List.append_assoc]

theorem faults_bytes_eq (f : Faults) : f.bytes =
    (match f.record with
      | none => [0]
      | some (o, n) => [1] ++ bytes 1 o.kind.ctorIdx ++ [if o.kind.hard then 1 else 0]
          ++ bytes 1 o.requester.ctorIdx ++ bytes 2 (o.block.getD 65535) ++ bytes 1 (o.layer.getD 0)
          ++ bytes 1 ((o.track.map Fin.val).getD 255) ++ bytes 1 o.pass ++ bytes 3 o.pos ++ bytes 2 n)
      ++ bytes 2 f.seq
      ++ [if f.seenCorrected then 1 else 0, if f.seenUnderrun then 1 else 0
        , if f.seenUncorrectable then 1 else 0, if f.seenWriteTimeout then 1 else 0
        , if f.seenWriteOverrun then 1 else 0]
      ++ bytes 2 f.correctedCount ++ bytes 2 f.underrunCount ++ [if f.second then 1 else 0]
      ++ [if f.seenCorrected || f.seenUnderrun || f.seenUncorrectable || f.seenWriteTimeout
          || f.seenWriteOverrun then 1 else 0] := by
  cases hf : f.record with
  | none =>
    simp only [Faults.bytes, hf, flagByte_eq, Faults.summary, List.append_assoc, List.cons_append, List.nil_append]
    rfl
  | some r =>
    obtain ⟨o, n⟩ := r
    simp only [Faults.bytes, hf, recordBytes_eq, flagByte_eq, Faults.summary, List.append_assoc, List.cons_append,
      List.nil_append]
    rfl

/-! ### The reads answer from the state before (R53, R54, R99, R134, R182, R195, R196) -/

/-- What the reads compute does not look at the ports. -/
theorem statusBytes_handedOn (h : Req) (code : Nat) (s : State) :
    (s.handedOn h code).statusBytes = s.statusBytes := by simp [State.statusBytes]

theorem trackBytes_handedOn (h : Req) (code : Nat) (t : TrackId) (s : State) :
    (s.handedOn h code).trackBytes t = s.trackBytes t := by simp [State.trackBytes, State.foldBytes]

theorem layerBytes_handedOn (h : Req) (code id : Nat) (l : Layer) (s : State) :
    (s.handedOn h code).layerBytes id l = s.layerBytes id l := by
  simp [State.layerBytes, State.lengthOf, State.taken, State.recordOf]

theorem cuesBytes_handedOn (h : Req) (code : Nat) (s : State) :
    (s.handedOn h code).cuesBytes = s.cuesBytes := by simp [State.cuesBytes]

/-- Settles O36: each read answers what it computes from the state before, and the lists of bytes are those of the rules. -/
theorem readsChangeNothing : Obligations.ReadsChangeNothing := by
  unfold Obligations.ReadsChangeNothing
  intro h s
  refine ⟨fun hr hn => ⟨?_, ?_⟩, fun tb hs => ?_, fun lb hs => ?_, fun hs => ?_, fun hs => ?_, fun hs => ?_, ?_, ?_,
    fun t => ?_, ?_, fun t r hr => ?_, fun id l sus hsus => ?_, ?_, fun f => faults_bytes_eq f, rfl, rfl, rfl, rfl, rfl, rfl,
    rfl, rfl, rfl, rfl⟩
  · exact congrArg _ (requestAlways_answered hr hn (by rw [State.answer, statusBytes_handedOn]))
  · exact congrArg _ (requestAlways_answered hr hn rfl)
  · refine congrArg Host.Outcome.next (?_ : s.request h 43 1 (ownReadTrack tb) = _)
    cases ht : argTrack tb with
    | none => exact request_answered hs (by decide) (by rw [ownReadTrack, ht]; rfl)
    | some t => exact request_answered hs (by decide) (by rw [ownReadTrack, ht, ← trackBytes_handedOn h 43]; rfl)
  · refine congrArg Host.Outcome.next (?_ : s.request h 44 1 (ownReadLayer lb.toNat) = _)
    cases hl : s.layer? lb.toNat with
    | none => exact request_answered hs (by decide) (by rw [ownReadLayer, layer?_handedOn, hl]; rfl)
    | some l =>
      exact request_answered hs (by decide) (by rw [ownReadLayer, layer?_handedOn, hl, ← layerBytes_handedOn h 44]; rfl)
  · exact congrArg _ (request_answered hs (by decide) (by rw [State.answer, cuesBytes_handedOn]))
  · exact congrArg _ (request_answered hs (by decide) (by rw [State.answer, faults_handedOn]))
  · refine congrArg _ (request_answered hs (by decide) ?_)
    show State.answer _ .ok (s.handedOn h 69).clipBytes = _
    rw [State.answer, State.clipBytes, mixer_handedOn, cycle_handedOn]
  · rw [statusBytes_eq, List.length_append, List.length_append, length_statusHead, length_trackBytes, length_statusTail]
  · rw [statusBytes_eq, ← length_statusHead s, List.take_left]
    rfl
  · rw [statusBytes_eq, ← length_statusHead s, ← List.drop_drop, List.drop_left]
    refine (take_drop_flatten (k := 3) _ (fun x hx => ?_) (i := t.val) ?_).trans ?_
    · obtain ⟨tr, -, rfl⟩ := List.mem_map.mp hx
      exact length_track_statusBytes tr
    · simp
    · simp only [List.getElem_map, Vector.getElem_toList, Track.statusBytes, flagByte_eq, decide_eq_true_eq]
      rfl
  · rw [statusBytes_eq, show 29 = s.statusHead.length + (s.tracks.toList.map Track.statusBytes).flatten.length by
      rw [length_statusHead, length_trackBytes], ← List.drop_drop, List.drop_left, List.drop_left]
    rfl
  · exact trackBytes_eq s t r hr
  · exact layerBytes_eq s id l sus hsus
  · exact cuesBytes_eq s

end Sys2Proof.Machine


/-! # O28: CLEAR TRACK -/

namespace Sys2Proof.Machine

open Sys2Proof

theorem BesideCues.raise (k : EventKind) (t : Option TrackId) (l : Option Nat) (d : Nat) (s : State) :
    BesideCues s (s.raise k t l d) := ⟨_, _, _, rfl⟩

theorem BesideCues.noteTrack (t : TrackId) (old : Track) (s : State) : BesideCues s (s.noteTrack t old) := by
  unfold State.noteTrack
  split
  · exact .refl s
  · exact .raise _ _ _ _ s

theorem noteTrack_cues (t : TrackId) (old : Track) (s : State) : (s.noteTrack t old).cues = s.cues := by
  unfold State.noteTrack
  split <;> rfl

theorem BesideCues.window {s u : State} (h : BesideCues s u) (p : Port) : u.window p = s.window p := by
  obtain ⟨c, a, b, rfl⟩ := h
  cases p <;> rfl

/-! ### Layers freed one after the other (R28) -/

theorem layer?_freeLayer {c : LostCause} {id : Nat} {s : State} (hs : s.layers.Pairwise (fun e f => e.1 < f.1))
    (j : Nat) : (s.freeLayer c id).layer? j = if j = id then none else s.layer? j := by
  cases hl : s.layer? id with
  | none =>
    rw [freeLayer_none hl]
    split
    · next e => rw [e, hl]
    · rfl
  | some l => simpa using (freedAs_freeLayer (c := c) hs hl).layer j

theorem layer?_freeAll {c : LostCause} (ids : List Nat) : ∀ {s : State}, Tidy s → ∀ j,
    (s.freeAll c ids).layer? j = if j ∈ ids then none else s.layer? j := by
  induction ids with
  | nil => exact fun _ _ => rfl
  | cons id ids ih =>
    intro s ht j
    refine (ih (ht.freeLayer c id) j).trans ?_
    rw [layer?_freeLayer ht.sorted]
    by_cases hj : j = id <;> by_cases hm : j ∈ ids <;> simp [hj, hm]

/-! ### One track emptied (R37) -/

theorem Track.cleared_dropLayer (id : Nat) (tr : Track) : (tr.dropLayer id).cleared = tr.cleared := rfl

/-- Clearing a track stops a fold of its own, and leaves the other tracks and what the tracks' settings say. -/
theorem clearFold_track (t : TrackId) (s : State) :
    ((s.clearFold t).track t).cleared = (s.track t).cleared ∧ (∀ t', t' ≠ t → (s.clearFold t).track t' = s.track t')
      ∧ (s.clearFold t).fold = (match s.fold with
        | some f => if f.track = t then none else some f
        | none => none) := by
  unfold State.clearFold
  cases hf : s.fold with
  | none => exact ⟨rfl, fun _ _ => rfl, hf⟩
  | some f =>
    dsimp only
    by_cases ht : f.track = t
    · rw [if_pos ht, if_pos ht, abandonFold_cleared hf]
      have htr := endFold_track f s
      have hfo := endFold_fold f s
      dsimp only
      split
      · exact ⟨congrArg Track.cleared (htr t), fun t' _ => htr t', hfo⟩
      · refine ⟨?_, fun t' hne => ?_, ?_⟩
        · refine (congrArg Track.cleared ((track_modTrack f.track t _ _).trans (if_pos ht))).trans ?_
          rw [Track.cleared_dropLayer, freeLayer_track, ht]
          exact congrArg Track.cleared (htr t)
        · refine ((track_modTrack f.track t' _ _).trans (if_neg fun e => hne (e.symm.trans ht))).trans ?_
          rw [freeLayer_track]
          exact htr t'
        · exact (freeLayer_fold _ _ _).trans hfo
    · rw [if_neg ht, if_neg ht]
      exact ⟨rfl, fun _ _ => rfl, hf⟩

theorem emptyTrack_tracks (t : TrackId) (s : State) :
    (s.emptyTrack t).track t = (s.track t).cleared ∧ (∀ t', t' ≠ t → (s.emptyTrack t).track t' = s.track t')
      ∧ (s.emptyTrack t).fold = (match s.fold with
        | some f => if f.track = t then none else some f
        | none => none) := by
  obtain ⟨ht, ho, hf⟩ := clearFold_track t s
  rw [emptyTrack_clearFold]
  refine ⟨?_, fun t' hne => ?_, ?_⟩
  · rw [track_modTrack, if_pos rfl, freeAll_track, ht]
  · rw [track_modTrack, if_neg (Ne.symm hne), freeAll_track, ho t' hne]
  · rw [fold_modTrack, freeAll_fold, hf]

/-- The result of a running fold on a track. -/
def State.foldResults (t : TrackId) (s : State) : List Nat :=
  match s.fold with
  | some f => if f.track = t then [f.result] else []
  | none => []

theorem mem_foldResults {t : TrackId} {s : State} {j : Nat} :
    j ∈ s.foldResults t ↔ ∃ f, s.fold = some f ∧ f.track = t ∧ f.result = j := by
  unfold State.foldResults
  cases s.fold with
  | none => simp
  | some f => by_cases ht : f.track = t <;> simp [ht, eq_comm (a := j)]

theorem clearFold_layer? {t : TrackId} {s : State} (h : PoolsWithin s) (j : Nat) :
    (s.clearFold t).layer? j = if j ∈ s.foldResults t then none else s.layer? j := by
  unfold State.clearFold State.foldResults
  cases hf : s.fold with
  | none => simp
  | some f =>
    dsimp only
    by_cases ht : f.track = t
    · have htr := endFold_track f s f.track
      have hl : (s.endFold f).layer? j = if j = f.result then none else s.layer? j :=
        layer?_freeLayer (s := State.setWait .fold Wait.idle { s with fold := none }) h.ids j
      have hle : ((s.endFold f).track f.track).stack.length ≤ 8 :=
        (congrArg (fun tr : Track => tr.stack.length) htr).le.trans (h.stack f.track)
      simp only [if_pos ht, List.mem_singleton]
      rw [abandonFold_cleared hf]
      dsimp only
      rw [if_pos (by exact hle)]
      exact hl
    · simp [if_neg ht]

/-- Within the pools' bounds the layers of a track's stack and redo list and its fold result leave the pool as it is
emptied, and every other layer stands (R28, R37, R48). -/
theorem emptyTrack_layer? {t : TrackId} {s : State} (h : PoolsWithin s) (j : Nat) : (s.emptyTrack t).layer? j =
    if (j ∈ stackIds (s.track t).stack ∨ j ∈ (s.track t).redo) ∨ j ∈ s.foldResults t then none else s.layer? j := by
  obtain ⟨hr, ht, -, -⟩ := h.clearFold t
  have htidy : Tidy (s.clearFold t) := ⟨hr.sorted, fun i r e => mem_ids.mp (hr.records i r e),
    fun p w e => mem_ids.mp (hr.windows p w e)⟩
  rw [emptyTrack_clearFold]
  refine (layer?_freeAll _ htidy j).trans ?_
  rw [clearFold_layer? h, ht]
  by_cases hs : j ∈ stackIds (s.track t).stack <;> by_cases hd : j ∈ (s.track t).redo <;> simp [hs, hd]

/-! ### What CLEAR TRACK leaves (R37, R97, R102) -/

/-- The cycle emptied by a clearing of the defining recording (R9). -/
theorem emptyCycle_cycle_of_defining {s : State} (h : s.cycle.state = .defining) : s.emptyCycle.cycle =
    { s.cycle with
      state := .empty, len := none, pos := 0, pass := 0, origin := false, gen := (s.cycle.gen + 1) % 65536 } := by
  unfold State.emptyCycle State.setCycle
  rw [if_neg (by simp [h])]
  rfl

theorem emptyCycle_frame (s : State) : (s.emptyCycle.tracks, s.emptyCycle.layers, s.emptyCycle.fold, s.emptyCycle.capture,
    s.emptyCycle.cues, s.emptyCycle.switches, s.emptyCycle.mem, s.emptyCycle.faults) =
    (s.tracks, s.layers, s.fold, s.capture, s.cues, s.switches, s.mem, s.faults) := by
  unfold State.emptyCycle State.setCycle
  split <;> rfl

/-- The clearing of a track with something to clear: it is emptied, and the cycle where it held the defining
recording (R9, R37). -/
structure TrackCleared (t : TrackId) (s v : State) : Prop where
  track : v.track t = (s.track t).cleared
  others : ∀ t', t' ≠ t → v.track t' = s.track t'
  cycle : v.cycle = (if (s.track t).state = .recording ∧ s.cycle.state = .defining then { s.cycle with
      state := .empty, len := none, pos := 0, pass := 0, origin := false
      gen := (s.cycle.gen + 1) % 65536 } else s.cycle)
  fold : v.fold = (match s.fold with
    | some f => if f.track = t then none else some f
    | none => none)
  layer? : PoolsWithin s → ∀ j, v.layer? j =
    if (j ∈ stackIds (s.track t).stack ∨ j ∈ (s.track t).redo) ∨ j ∈ s.foldResults t then none else s.layer? j

theorem endFold_cyc (f : Fold) (s : State) : (s.endFold f).cycle = s.cycle :=
  (freeLayer_cyc _ _ _).trans (setWait_cyc _ _ _)

theorem emptyTrack_sameCycle (t : TrackId) (s : State) : (s.emptyTrack t).cycle = s.cycle := by
  rw [emptyTrack_clearFold, modTrack_cyc, freeAll_sameCycle]
  unfold State.clearFold
  split
  · next f hf =>
    split
    · rw [abandonFold_cleared hf]
      dsimp only
      split
      · exact endFold_cyc f s
      · exact (freeLayer_cyc _ _ _).trans (endFold_cyc f s)
    · rfl
  · rfl

theorem clearTrack_cleared {t : TrackId} {s : State}
    (h : (s.track t).state ≠ .empty ∨ (s.track t).stack ≠ [] ∨ (s.track t).redo ≠ []) :
    TrackCleared t s (s.clearTrack t) := by
  obtain ⟨ht, ho, hf⟩ := emptyTrack_tracks t s
  have hcy := emptyTrack_sameCycle t s
  have hl := fun hp => emptyTrack_layer? (t := t) (s := s) hp
  unfold State.clearTrack
  dsimp only
  rw [if_neg (by tauto)]
  split
  · next hd =>
    have hfr := emptyCycle_frame (s.emptyTrack t)
    simp only [Prod.mk.injEq] at hfr
    obtain ⟨htr, hla, hfo, -⟩ := hfr
    refine ⟨?_, fun t' hne => ?_, ?_, hfo.trans hf, fun hp j => ?_⟩
    · rw [← ht, State.track, htr]
      rfl
    · rw [← ho t' hne, State.track, htr]
      rfl
    · rw [if_pos (by rwa [hcy] at hd), emptyCycle_cycle_of_defining hd.2, hcy]
    · rw [← hl hp j, State.layer?, hla]
      rfl
  · next hd => exact ⟨ht, ho, by rw [if_neg (by rwa [hcy] at hd), hcy], hf, hl⟩

theorem clearTrack_beside (t : TrackId) (s : State) : (s.clearTrack t).cues = s.cues
    ∧ (s.clearTrack t).switches = s.switches ∧ (s.clearTrack t).faults = s.faults := by
  have he : RestKept s (s.emptyTrack t) := (RestKept.refl s).emptyTrack t
  have hf := ((Clearing.refl s).emptyTrack t).faults
  unfold State.clearTrack
  dsimp only
  split
  · exact ⟨rfl, rfl, rfl⟩
  · split
    · have hfr := emptyCycle_frame (s.emptyTrack t)
      simp only [Prod.mk.injEq] at hfr
      obtain ⟨-, -, -, -, hc, hsw, -, hfa⟩ := hfr
      exact ⟨hc.trans he.cues, hsw.trans he.switches, hfa.trans hf⟩
    · exact ⟨he.cues, he.switches, hf⟩

/-- The steps of CLEAR TRACK after the clearing: the track's cues dropped, its recent record forgotten, and TRACK STATE. -/
theorem actClearTrack_steps (t : TrackId) (s : State) : BesideCues ((s.clearTrack t).forgetTrack t) (s.actClearTrack t)
    ∧ (s.actClearTrack t).cues = ((s.clearTrack t).dropTrackCues t).cues := by
  obtain ⟨c, a, b, e⟩ := BesideCues.dropCues .cleared ((s.clearTrack t).cues.entries.filter fun c => c.target == some t)
    (s.clearTrack t)
  refine ⟨BesideCues.trans ⟨c, a, b, ?_⟩ (BesideCues.noteTrack t (s.track t) _), noteTrack_cues _ _ _⟩
  unfold State.dropTrackCues
  rw [e]
  rfl

theorem dropTrackCues_entries (t : TrackId) (s : State) :
    (∀ c ∈ (s.dropTrackCues t).cues.entries, c.target ≠ some t)
      ∧ ∀ c ∈ s.cues.entries, c.target ≠ some t →
        (∀ d ∈ s.cues.entries, d.target = some t → d.id ≠ c.id) → c ∈ (s.dropTrackCues t).cues.entries := by
  obtain ⟨he, -⟩ := dropCues_cues .cleared (s.cues.entries.filter fun c => c.target == some t) s
  unfold State.dropTrackCues
  rw [he]
  refine ⟨fun c hc ht => ?_, fun c hc ht hd => List.mem_filter.mpr ⟨hc, ?_⟩⟩
  · obtain ⟨hc, hn⟩ := List.mem_filter.mp hc
    simp only [Bool.not_eq_true', ← Bool.not_eq_true, List.contains_iff_mem] at hn
    exact hn (List.mem_map_of_mem (List.mem_filter.mpr ⟨hc, by simpa using ht⟩))
  · simp only [Bool.not_eq_true', ← Bool.not_eq_true, List.contains_iff_mem, List.mem_map, List.mem_filter, beq_iff_eq]
    rintro ⟨d, ⟨hm, htd⟩, e⟩
    exact hd d hm htd e

/-- Settles O28: CLEAR TRACK is `clearTrack` (a `TrackCleared`, or nothing) and then the cues and the recent record. -/
theorem clearTrackEmptiesTheTrack : Obligations.ClearTrackEmptiesTheTrack := by
  unfold Obligations.ClearTrackEmptiesTheTrack
  intro h t tb q s hs ht hq
  obtain ⟨x, hx⟩ : ∃ x, x = s.handedOn h 40 := ⟨_, rfl⟩
  have hb : BesideCues s x := hx ▸ BesideCues.handedOn h 40 s
  have hcues : x.cues = s.cues := by rw [hx, cues_handedOn]
  obtain ⟨hu, huc⟩ := actClearTrack_steps t x
  obtain ⟨hc, hsw, hfa⟩ := clearTrack_beside t x
  obtain ⟨hgone, hkept⟩ := dropTrackCues_entries t (x.clearTrack t)
  rw [hc, hcues] at hkept
  refine ⟨x.actClearTrack t, ?_, fun h1 h2 h3 => ?_, fun hn => ?_, by rwa [huc], by rwa [huc], ?_, fun t' hne => ?_, ?_,
    ?_, ?_⟩
  · obtain ⟨qq, hqq⟩ := argQuantum_valid hq
    refine congrArg _ (request_answered hs (by decide) ?_)
    rw [ownClearTrack, ht, hqq, hx]
    rfl
  · have he : x.clearTrack t = x := by
      unfold State.clearTrack
      dsimp only
      rw [hb.track, if_pos ⟨h1, h2, h3⟩]
    rw [he] at hu
    exact ⟨hu.tracks.trans hb.tracks, hu.layers.trans hb.layers, hu.cycle.trans hb.cycle, hu.mem.trans hb.mem⟩
  · rw [← hb.track] at hn
    obtain ⟨htr, hothers, hcycle, hfold, hlayer⟩ := clearTrack_cleared hn
    refine ⟨?_, fun t' hne => ?_, ?_, ?_, fun hp freed hfreed => ?_⟩
    · rw [hu.track]
      exact htr.trans (congrArg Track.cleared (hb.track t))
    · rw [hu.track]
      exact (hothers t' hne).trans (hb.track t')
    · rw [hu.cycle]
      refine Eq.trans hcycle ?_
      rw [hb.track, hb.cycle]
    · rw [hu.fold]
      refine hfold.trans ?_
      rw [hb.fold] <;> rfl
    · have hpx : PoolsWithin x := hx ▸ hp.setPort _ _
      have hpu := hpx.actClearTrack t
      have hl : ∀ j, (x.actClearTrack t).layer? j = if (j ∈ stackIds (s.track t).stack ∨ j ∈ (s.track t).redo)
          ∨ j ∈ s.foldResults t then none else s.layer? j := fun j => by
        rw [hu.layer?]
        refine (hlayer hpx j).trans ?_
        have hfr : x.foldResults t = s.foldResults t := by rw [State.foldResults, State.foldResults, hb.fold]
        rw [hb.track, hb.layer?, hfr]
      have hiff : ∀ j, freed j ↔ (j ∈ stackIds (s.track t).stack ∨ j ∈ (s.track t).redo) ∨ j ∈ s.foldResults t :=
        fun j => by rw [hfreed, mem_foldResults, or_assoc]
      refine ⟨fun j hj => ?_, fun j hj => ?_, fun i r hr hj => ?_, fun p w hw hj => ?_⟩
      · rw [hl, if_pos ((hiff j).mp hj)]
      · rw [hl, if_neg (mt (hiff j).mpr hj)]
      · have hin := hpu.records i r hr
        rw [hl, if_pos ((hiff _).mp hj)] at hin
        cases hin
      · have hin := hpu.windows p w hw
        rw [hl, if_pos ((hiff _).mp hj)] at hin
        cases hin
  · rw [hu.switches]
    simp [State.forgetTrack]
  · rw [hu.switches]
    have : t.val ≠ t'.val := fun e => hne (Fin.ext e).symm
    have hrec : (x.clearTrack t).switches.recent = s.switches.recent := congrArg Switches.recent (hsw.trans hb.switches)
    refine (Vector.getElem_set_ne (x := none) t.isLt _ this).trans ?_
    simp only [hrec, Fin.getElem_fin]
  · rw [hu.switches]
    exact (congrArg Switches.map hsw).trans (congrArg Switches.map hb.switches)
  · rw [hu.faults]
    exact hfa.trans hb.faults
  · rw [actClearTrack_words, hb.mem]

end Sys2Proof.Machine


/-! # O27: UNDO and REDO of single entries -/

namespace Sys2Proof.Machine

open Sys2Proof

/-! ### Requests of a track with quantum NONE outside the transport family (R17, R46) -/

/-- Such an action, once done, is the reply's state up to the cue list and the events. -/
theorem exec_now_ok {h : Req} {a : Action} {t : TrackId} {tb : Byte} {s u : State} (hs : s.serves h 2)
    (ht : argTrack tb = some t) (hT : a.isTransport = false) (hA : a.isAll = false)
    (ha : (s.handedOn h a.code).act a (some t) .next = .ok u) :
    ∃ v, BesideCues u v ∧ exec (a.request h tb 0) s = .next (v.settle.replied h a.code .ok s.cycle.nowBytes) := by
  have he := exec_actionRequest_current (a := a) (tb := tb) (qb := 0) (target := some t) (q := .none)
    (by simpa [Action.argLen, hA] using hs) rfl (by simp [Action.targetOf, hA, ht]) (dueOf_beside hT hA)
    (by simpa [State.beforeAct, hA] using ha)
  exact ⟨_, .supersedeSlot (some t) a.family u, by simpa [hA] using he⟩

theorem exec_now_refused {h : Req} {a : Action} {t : TrackId} {tb : Byte} {s : State} {st : Status}
    (hs : s.serves h 2) (ht : argTrack tb = some t) (hT : a.isTransport = false) (hA : a.isAll = false)
    (hst : st ≠ .ok) (ha : (s.handedOn h a.code).act a (some t) .next = .error st) :
    exec (a.request h tb 0) s = .next ((s.handedOn h a.code).replied h a.code st []) := by
  refine exec_actionRequest_refused (a := a) (target := some t) (q := .none)
    (by simpa [Action.argLen, hA] using hs) rfl (by simp [Action.targetOf, hA, ht]) hst
    (quantised_refusedAtOnce (dueOf_beside hT hA) ?_)
  show ((s.handedOn h a.code).beforeAct a (some t)).act a (some t) .next = .error st
  simpa [State.beforeAct, hA] using ha

/-! ### A track that settles (R26) -/

/-- A track record settled, where the importing layers are those that a test finds. -/
def Track.settled (imports : Nat → Bool) (tr : Track) : Track :=
  if (stackIds tr.stack).any (fun i => !imports i) = true then tr
  else { tr with
    state := .empty, span := none
    heldSpan := if tr.redo ≠ [] ∨ (stackIds tr.stack).any imports = true then
        (match tr.span with | some span => some span | none => tr.heldSpan) else none
    openLayer := none, marker := none }

theorem settleTrack_track (t : TrackId) (s : State) :
    (s.settleTrack t).track t = (s.track t).settled s.isImporting := by
  unfold State.settleTrack Track.settled State.holdsImport
  dsimp only
  split
  · rfl
  · rw [track_setTrack, if_pos rfl]
    cases (s.track t).redo <;> cases (s.track t).span <;> simp

theorem settleTrack_other {t t' : TrackId} (h : t' ≠ t) (s : State) : (s.settleTrack t).track t' = s.track t' := by
  unfold State.settleTrack
  dsimp only
  split
  · rfl
  · rw [track_setTrack, if_neg (Ne.symm h)]

theorem any_congr {f g : Nat → Bool} {l : List Nat} (h : ∀ i ∈ l, f i = g i) : l.any f = l.any g := by
  rw [Bool.eq_iff_iff, List.any_eq_true, List.any_eq_true]
  exact exists_congr fun i => and_congr_right fun hi => by rw [h i hi]

theorem Track.settled_congr {f g : Nat → Bool} {tr : Track} (h : ∀ i ∈ stackIds tr.stack, f i = g i) :
    tr.settled f = tr.settled g := by
  have hp : (stackIds tr.stack).any f = (stackIds tr.stack).any g := any_congr h
  have hn : ((stackIds tr.stack).any fun i => !f i) = (stackIds tr.stack).any fun i => !g i :=
    any_congr fun i hi => by rw [h i hi]
  simp only [Track.settled, hp, hn]

theorem settleTrack_window (t : TrackId) (s : State) (p : Port) : (s.settleTrack t).window p = s.window p := by
  unfold State.settleTrack
  dsimp only
  split
  · rfl
  · cases p <;> rfl

theorem Track.settled_lists (f : Nat → Bool) (tr : Track) :
    (tr.settled f).stack = tr.stack ∧ (tr.settled f).redo = tr.redo := by
  unfold Track.settled
  split <;> exact ⟨rfl, rfl⟩

theorem isImporting_congr {s u : State} {id : Nat} (h : u.layer? id = s.layer? id) :
    u.isImporting id = s.isImporting id := by
  unfold State.isImporting
  rw [h]

/-! ### The newest layer out of its stack (R35) -/

theorem filter_single_eq {id : Nat} {below : List Entry} (h : Entry.single id ∉ below) :
    (below ++ [Entry.single id]).filter (fun e => e != .single id) = below := by
  have hb : below.filter (fun e => e != .single id) = below :=
    List.filter_eq_self.mpr fun e he => bne_iff_ne.mpr fun (hid : e = .single id) => h (hid ▸ he)
  rw [List.filter_append, hb]
  simp

theorem single_not_mem {id : Nat} {below : List Entry} (h : id ∉ stackIds below) : Entry.single id ∉ below :=
  mt mem_stackIds_of_single h

theorem filter_redo_eq {id : Nat} {l : List Nat} (h : id ∉ l) : l.filter (fun i => i != id) = l :=
  List.filter_eq_self.mpr fun _ hi => bne_iff_ne.mpr fun e => h (e ▸ hi)

theorem layer?_modTrack (t : TrackId) (f : Track → Track) (s : State) (j : Nat) :
    (s.modTrack t f).layer? j = s.layer? j := rfl

theorem freeLayer_other (c : LostCause) {id j : Nat} (h : j ≠ id) (s : State) :
    (s.freeLayer c id).layer? j = s.layer? j := by
  cases hl : s.layer? id with
  | none => rw [freeLayer_none hl]
  | some l =>
    obtain ⟨m, a, b, e⟩ := freeLayer_eq (c := c) hl
    rw [e]
    exact find_erase_other s.layers h

theorem loseWindowsOn_parts (id : Nat) (c : LostCause) (s : State) :
    (s.loseWindowsOn id c).tracks = s.tracks ∧ (s.loseWindowsOn id c).layers = s.layers := by
  obtain ⟨m₁, a₁, b₁, e₁, -⟩ := loseWindowOn_eq id c .a s
  obtain ⟨m₂, a₂, b₂, e₂, -⟩ := loseWindowOn_eq id c .b (s.loseWindowOn id c .a)
  unfold State.loseWindowsOn
  rw [e₂, e₁]
  exact ⟨rfl, rfl⟩

/-- A window on a freed layer is lost (R28, R158). -/
theorem freeLayer_window {c : LostCause} {id : Nat} {p : Port} {w : Window} {s : State} {l : Layer}
    (hl : s.layer? id = some l) (hw : s.window p = some w) (hid : w.layer = id) : (s.freeLayer c id).window p = none := by
  obtain ⟨m₁, a₁, b₁, e₁, -, -, -, -, w₁, -⟩ := loseWindowOn_eq id c .a s
  obtain ⟨m₂, a₂, b₂, e₂, -, -, -, -, w₂, -⟩ := loseWindowOn_eq id c .b (s.loseWindowOn id c .a)
  have hlost : ((s.loseWindowOn id c .a).loseWindowOn id c .b).window p = none := by
    rw [w₂, w₁]
    cases p <;> simp [hw, hid]
  unfold State.freeLayer State.loseWindowsOn
  rw [hl]
  cases p <;> exact hlost

/-- The layer that goes to the redo list, before the list is cut to four (R35, R158). -/
def State.undoLayer (id : Nat) (s : State) : State :=
  (s.loseWindowsOn id .undone).modLayer id fun l => { l with state := .undone, buf := ReadBuf.aimed 0 }

theorem undoLayer_track (id : Nat) (t : TrackId) (s : State) : (s.undoLayer id).track t = s.track t := by
  unfold State.undoLayer State.track
  rw [tracks_modLayer, (loseWindowsOn_parts id .undone s).1]

theorem undoLayer_layer? (id j : Nat) (s : State) : (s.undoLayer id).layer? j =
    if j = id then (s.layer? id).map fun l => { l with state := .undone, buf := ReadBuf.aimed 0 } else s.layer? j := by
  have hl : ∀ i, (s.loseWindowsOn id .undone).layer? i = s.layer? i := fun i =>
    congrArg (assocFind i) (loseWindowsOn_parts id .undone s).2
  unfold State.undoLayer
  rw [layer?_modLayer, hl, hl]

/-- The redo list takes the layer at its head, and its oldest layer leaves the pool when it held four (R35). -/
theorem toRedo_cut (t : TrackId) (id : Nat) (s : State) : s.toRedo t id =
    (match (s.track t).redo.drop 3 with
      | oldest :: _ => (s.undoLayer id).freeLayer .undone oldest
      | [] => s.undoLayer id).modTrack t fun tr =>
        { tr.dropLayer id with redo := id :: (s.track t).redo.take 3 } := by
  unfold State.toRedo
  dsimp only
  rw [← undoLayer_track id t s]
  rfl

theorem toRedo_track (t : TrackId) (id : Nat) (s : State) : (s.toRedo t id).track t =
    { (s.track t).dropLayer id with redo := id :: (s.track t).redo.take 3 } := by
  rw [toRedo_cut, track_modTrack, if_pos rfl]
  split
  · rw [freeLayer_track, undoLayer_track]
  · rw [undoLayer_track]

theorem toRedo_other {t t' : TrackId} (h : t' ≠ t) (id : Nat) (s : State) :
    (s.toRedo t id).track t' = s.track t' := by
  rw [toRedo_cut, track_modTrack, if_neg (Ne.symm h)]
  split
  · rw [freeLayer_track, undoLayer_track]
  · exact undoLayer_track _ _ _

theorem toRedo_layer? {t : TrackId} {j : Nat} {s : State} (h : j ∉ (s.track t).redo.drop 3) (id : Nat) :
    (s.toRedo t id).layer? j = if j = id then
      (s.layer? id).map fun l => { l with state := .undone, buf := ReadBuf.aimed 0 } else s.layer? j := by
  refine Eq.trans ?_ (undoLayer_layer? id j s)
  rw [toRedo_cut]
  refine (layer?_modTrack _ _ _ _).trans ?_
  split
  · next oldest l e =>
    exact freeLayer_other _ (fun hj => h (by simp [e, hj])) _
  · rfl

theorem toRedo_cyc (t : TrackId) (id : Nat) (s : State) : (s.toRedo t id).cycle = s.cycle := by
  have hu : (s.undoLayer id).cycle = s.cycle := (modLayer_cyc _ _ _).trans (loseWindowsOn_cyc _ _ _)
  rw [toRedo_cut, modTrack_cyc]
  split
  · rw [freeLayer_cyc, hu]
  · exact hu

/-! ### The cases of UNDO (R35) -/

section
variable {t : TrackId} {below : List Entry} {id : Nat} {l : Layer} {s : State}
  (hst : (s.track t).stack = below ++ [.single id]) (hl : s.layer? id = some l)
include hst hl

theorem actUndo_closed (hc : l.state = .closed) :
    s.actUndo t = .ok (((s.toRedo t id).settleTrack t).noteTrack t (s.track t)) := by
  simp [State.actUndo, hst, hl, hc]

theorem actUndo_importing (hi : l.state = .importing) : s.actUndo t =
    .ok ((((s.freeLayer .undone id).modTrack t (Track.dropLayer id)).settleTrack t).noteTrack t (s.track t)) := by
  simp [State.actUndo, hst, hl, hi]

theorem actUndo_open (ho : l.state = .opened) :
    ∃ v : State, v = (s.freeLayer .undone id).modTrack t (fun tr =>
        { tr.dropLayer id with state := .playing, marker := none })
      ∧ s.actUndo t = .ok (((if (s.track t).state = .recording ∧ v.cycle.state = .defining then v.emptyCycle else v).settleTrack
        t).noteTrack t (s.track t)) := by
  refine ⟨_, rfl, ?_⟩
  simp [State.actUndo, hst, hl, ho]

end

/-! ### UNDO as a request (R35) -/

section
variable {h : Req} {t : TrackId} {tb : Byte} {s : State}

/-- UNDO that acts and settles its track. -/
theorem exec_undo_settled {v : State} {old : Track} (hs : s.serves h 2) (ht : argTrack tb = some t)
    (ha : (s.handedOn h 38).actUndo t = .ok ((v.settleTrack t).noteTrack t old)) :
    ∃ u, BesideCues (v.settleTrack t) u
      ∧ exec (.undo h tb 0) s = .next (u.settle.replied h 38 .ok s.cycle.nowBytes) := by
  obtain ⟨u, hb, he⟩ := exec_now_ok (a := .undo) hs ht rfl rfl ha
  exact ⟨u, (BesideCues.noteTrack t old _).trans hb, he⟩

variable {below : List Entry} {id : Nat} {l : Layer} (hs : s.serves h 2) (ht : argTrack tb = some t)
  (hst : (s.track t).stack = below ++ [.single id]) (hl : s.layer? id = some l)
include hs ht hst hl

/-- UNDO of a CLOSED newest layer is `toRedo` on a state that differs from the one before in the ports alone. -/
theorem exec_undo_closed (hc : l.state = .closed) : ∃ x u, BesideCues s x
    ∧ BesideCues ((x.toRedo t id).settleTrack t) u
    ∧ exec (.undo h tb 0) s = .next (u.settle.replied h 38 .ok s.cycle.nowBytes) := by
  have hx := BesideCues.handedOn h 38 s
  obtain ⟨u, hu, he⟩ := exec_undo_settled hs ht
    (actUndo_closed (s := s.handedOn h 38) (by rw [hx.track, hst]) (by rw [hx.layer?, hl]) hc)
  exact ⟨_, u, hx, hu, he⟩

theorem exec_undo_importing (hi : l.state = .importing) : ∃ x u, BesideCues s x
    ∧ BesideCues (((x.freeLayer .undone id).modTrack t (Track.dropLayer id)).settleTrack t) u
    ∧ exec (.undo h tb 0) s = .next (u.settle.replied h 38 .ok s.cycle.nowBytes) := by
  have hx := BesideCues.handedOn h 38 s
  obtain ⟨u, hu, he⟩ := exec_undo_settled hs ht
    (actUndo_importing (s := s.handedOn h 38) (by rw [hx.track, hst]) (by rw [hx.layer?, hl]) hi)
  exact ⟨_, u, hx, hu, he⟩

theorem exec_undo_open (ho : l.state = .opened) : ∃ x u v, BesideCues s x
    ∧ v = (x.freeLayer .undone id).modTrack t (fun tr => { tr.dropLayer id with state := .playing, marker := none })
    ∧ BesideCues ((if (s.track t).state = .recording ∧ s.cycle.state = .defining then v.emptyCycle else v).settleTrack t)
      u
    ∧ exec (.undo h tb 0) s = .next (u.settle.replied h 38 .ok s.cycle.nowBytes) := by
  have hx := BesideCues.handedOn h 38 s
  obtain ⟨v, hv, ha⟩ := actUndo_open (s := s.handedOn h 38) (by rw [hx.track, hst]) (by rw [hx.layer?, hl]) ho
  have hcy : v.cycle = s.cycle := by rw [hv, modTrack_cyc, freeLayer_cyc, hx.cycle]
  rw [hx.track, hcy] at ha
  obtain ⟨u, hu, he⟩ := exec_undo_settled hs ht ha
  exact ⟨_, u, v, hx, hv, hu, he⟩

end

/-- REDO of a track's first redone layer (R36). -/
theorem actRedo_head {t : TrackId} {id : Nat} {rest : List Nat} {s : State} (hn : (s.track t).stack.length < 8)
    (ho : (s.track t).openLayer = none) (hr : (s.track t).redo = id :: rest) : ∃ v : State,
      v = (s.modLayer id fun l => { l with state := .closed }).setTrack t { s.track t with
        stack := (s.track t).stack ++ [.single id], redo := rest, state := .playing
        span := (s.track t).span.orElse (fun _ => (s.track t).heldSpan), heldSpan := none }
      ∧ s.actRedo t = .ok ((v.reaim id).noteTrack t (s.track t)) := by
  refine ⟨_, rfl, ?_⟩
  simp [State.actRedo, Nat.not_le.mpr hn, ho, hr]

/-! ### The track of a newest layer taken out -/

section
variable {tr : Track} {below : List Entry} {id : Nat} (hst : tr.stack = below ++ [.single id])
  (hb : Entry.single id ∉ below)
include hst hb

theorem dropLayer_stack : (tr.dropLayer id).stack = below := by
  unfold Track.dropLayer
  rw [hst, filter_single_eq hb]

theorem dropLayer_newest (hr : id ∉ tr.redo) : tr.dropLayer id = { tr with
    stack := below, openLayer := (tr.dropLayer id).openLayer, marker := (tr.dropLayer id).marker } := by
  unfold Track.dropLayer
  rw [hst, filter_single_eq hb, filter_redo_eq hr]

theorem dropLayer_opened (hr : id ∉ tr.redo) (ho : tr.openLayer = some id) :
    { tr.dropLayer id with state := .playing, marker := none } =
      { tr with state := .playing, stack := below, openLayer := none, marker := none } := by
  rw [dropLayer_newest hst hb hr]
  simp [Track.dropLayer, ho]

/-- A layer that is not open and of no roll marker leaves the rest of its track. -/
theorem dropLayer_beside (hr : id ∉ tr.redo) (ho : tr.openLayer ≠ some id)
    (hm : ∀ m, tr.marker = some m → m.1 ≠ id ∧ m.2 ≠ id) : tr.dropLayer id = { tr with stack := below } := by
  rw [dropLayer_newest hst hb hr]
  have hmark : (tr.dropLayer id).marker = tr.marker := by
    unfold Track.dropLayer
    cases e : tr.marker with
    | none => rfl
    | some m =>
      obtain ⟨h1, h2⟩ := hm m e
      exact if_neg (by simp [h1, h2])
  rw [hmark]
  simp [Track.dropLayer, ho]

/-- A closed newest layer at the head of its track's redo list. -/
theorem dropLayer_toRedo (ho : tr.openLayer ≠ some id) (hm : ∀ m, tr.marker = some m → m.1 ≠ id ∧ m.2 ≠ id)
    (redo : List Nat) : { tr.dropLayer id with redo := redo } = { tr with stack := below, redo := redo } := by
  have h := dropLayer_beside (tr := { tr with redo := [] }) hst hb List.not_mem_nil ho hm
  exact congrArg (fun x : Track => { x with redo := redo }) h

end

/-! ### The obligation -/

/-- The clauses of UNDO that leave what is below the newest layer to settle: an opened, an importing and a closed one. -/
theorem undo_settles_below {h : Req} {t : TrackId} {tb : Byte} {s : State} (hs : s.serves h 2) (ht : argTrack tb = some t)
    {below : List Entry} {id : Nat} {l : Layer} (hst : (s.track t).stack = below ++ [.single id])
    (hb : id ∉ stackIds below) (hr : id ∉ (s.track t).redo) (hl : s.layer? id = some l) :
    (l.state = .opened → (s.track t).openLayer = some id →
      ∃ u : State, exec (.undo h tb 0) s = .next (u.settle.replied h 38 .ok s.cycle.nowBytes)
        ∧ u.track t = Track.settled s.isImporting { s.track t with
            state := .playing, stack := below, openLayer := none, marker := none }
        ∧ (∀ t', t' ≠ t → u.track t' = s.track t')
        ∧ (s.layers.Pairwise (fun x y => x.1 < y.1) → u.layer? id = none)
        ∧ u.cycle = if (s.track t).state = .recording ∧ s.cycle.state = .defining then { s.cycle with
            state := .empty, len := none, pos := 0, pass := 0, origin := false
            gen := (s.cycle.gen + 1) % 65536 } else s.cycle)
    ∧ ((s.track t).openLayer ≠ some id → (∀ m, (s.track t).marker = some m → m.1 ≠ id ∧ m.2 ≠ id) →
      (l.state = .importing →
        ∃ u : State, exec (.undo h tb 0) s = .next (u.settle.replied h 38 .ok s.cycle.nowBytes)
          ∧ u.track t = Track.settled s.isImporting { s.track t with stack := below }
          ∧ (∀ t', t' ≠ t → u.track t' = s.track t')
          ∧ (s.layers.Pairwise (fun x y => x.1 < y.1) → u.layer? id = none)
          ∧ (∀ p w, s.window p = some w → w.layer = id → u.window p = none)
          ∧ u.cycle = s.cycle)
      ∧ (l.state = .closed → (∀ i ∈ (s.track t).redo, i ∉ stackIds below) →
        ∃ u : State, exec (.undo h tb 0) s = .next (u.settle.replied h 38 .ok s.cycle.nowBytes)
          ∧ u.track t = Track.settled s.isImporting { s.track t with
              stack := below, redo := id :: (s.track t).redo.take 3 }
          ∧ (∀ t', t' ≠ t → u.track t' = s.track t') ∧ u.cycle = s.cycle)) := by
  have hsb := single_not_mem hb
  have settles : ∀ {x v : State} {tr : Track}, BesideCues s x → v.track t = tr → tr.stack = below →
      (∀ i ∈ stackIds below, v.layer? i = x.layer? i) →
      (v.settleTrack t).track t = tr.settled s.isImporting := fun hx hv hbelow hlay => by
    rw [settleTrack_track, hv]
    exact Track.settled_congr fun i hi => isImporting_congr ((hlay i (hbelow ▸ hi)).trans (hx.layer? i))
  have others : ∀ i ∈ stackIds below, i ≠ id := fun i hi e => hb (e ▸ hi)
  refine ⟨fun ho hop => ?_, fun hop hm => ⟨fun hi => ?_, fun hc hd => ?_⟩⟩
  · obtain ⟨x, u, v, hx, hv, hu, he⟩ := exec_undo_open hs ht hst hl ho
    have hlv : ∀ j, v.layer? j = (x.freeLayer .undone id).layer? j := fun j => by rw [hv]; rfl
    have hvt : v.track t = { s.track t with state := .playing, stack := below, openLayer := none, marker := none } := by
      rw [hv, track_modTrack, if_pos rfl, freeLayer_track, hx.track, dropLayer_opened hst hsb hr hop]
    have hvo : ∀ t', t' ≠ t → v.track t' = s.track t' := fun t' hne => by
      rw [hv, track_modTrack, if_neg (Ne.symm hne), freeLayer_track, hx.track]
    have hvc : v.cycle = s.cycle := by rw [hv, modTrack_cyc, freeLayer_cyc, hx.cycle]
    obtain ⟨v', hv'⟩ : ∃ v', v' = if (s.track t).state = .recording ∧ s.cycle.state = .defining then v.emptyCycle else v :=
      ⟨_, rfl⟩
    rw [← hv'] at hu
    have kept : v'.tracks = v.tracks ∧ v'.layers = v.layers ∧ v'.cycle =
        if (s.track t).state = .recording ∧ s.cycle.state = .defining then { s.cycle with
          state := .empty, len := none, pos := 0, pass := 0, origin := false
          gen := (s.cycle.gen + 1) % 65536 } else s.cycle := by
      rw [hv']
      split
      · next hd =>
        have hf := emptyCycle_frame v
        simp only [Prod.mk.injEq] at hf
        exact ⟨hf.1, hf.2.1, by rw [emptyCycle_cycle_of_defining (by rw [hvc]; exact hd.2), hvc]⟩
      · exact ⟨rfl, rfl, hvc⟩
    obtain ⟨htr, hla, hcy⟩ := kept
    have hlay : ∀ j, v'.layer? j = v.layer? j := fun j => congrArg (assocFind j) hla
    have htrk : ∀ t', v'.track t' = v.track t' := fun t' => by simp only [State.track, htr]
    refine ⟨u, he, ?_, fun t' hne => ?_, fun hp => ?_, ?_⟩
    · rw [hu.track]
      exact settles hx ((htrk t).trans hvt) rfl fun i hi =>
        (hlay i).trans ((hlv i).trans (freeLayer_other _ (others i hi) x))
    · rw [hu.track, settleTrack_other hne, htrk, hvo t' hne]
    · rw [hu.layer?, settleTrack_layer?, hlay, hlv]
      exact freeLayer_gone _ _ (hx.layers ▸ hp)
    · rw [hu.cycle, settleTrack_cyc, hcy]
  · obtain ⟨x, u, hx, hu, he⟩ := exec_undo_importing hs ht hst hl hi
    refine ⟨u, he, ?_, fun t' hne => ?_, fun hp => ?_, fun p w hw hid => ?_, ?_⟩
    · rw [hu.track]
      refine settles hx ?_ rfl fun i hi => freeLayer_other _ (others i hi) x
      rw [track_modTrack, if_pos rfl, freeLayer_track, hx.track, dropLayer_beside hst hsb hr hop hm]
    · rw [hu.track, settleTrack_other hne, track_modTrack, if_neg (Ne.symm hne), freeLayer_track, hx.track]
    · rw [hu.layer?, settleTrack_layer?]
      exact freeLayer_gone _ _ (hx.layers ▸ hp)
    · rw [hu.window, settleTrack_window]
      exact freeLayer_window (hx.layer? id ▸ hl) (hx.window p ▸ hw) hid
    · rw [hu.cycle, settleTrack_cyc, modTrack_cyc, freeLayer_cyc, hx.cycle]
  · obtain ⟨x, u, hx, hu, he⟩ := exec_undo_closed hs ht hst hl hc
    refine ⟨u, he, ?_, fun t' hne => ?_, ?_⟩
    · rw [hu.track]
      refine settles hx ?_ rfl fun i hi => ?_
      · rw [toRedo_track, hx.track, dropLayer_toRedo hst hsb hop hm]
      · rw [toRedo_layer? (by rw [hx.track]; exact fun h => hd i (List.mem_of_mem_drop h) hi), if_neg (others i hi)]
    · rw [hu.track, settleTrack_other hne, toRedo_other hne, hx.track]
    · rw [hu.cycle, settleTrack_cyc, toRedo_cyc, hx.cycle]

/-- Settles O27: each case of UNDO and REDO is `actUndo` or `actRedo` of that case, and the track settles. -/
theorem undoAndRedoMoveTheNewestLayer : Obligations.UndoAndRedoMoveTheNewestLayer := by
  unfold Obligations.UndoAndRedoMoveTheNewestLayer
  intro h t tb s hs ht
  have h8 := BesideCues.handedOn h 38 s
  have h9 := BesideCues.handedOn h 39 s
  refine ⟨fun he => ?_, fun hf => ?_, fun hn hr => ?_, fun below id l hst hb hd hl hc => ?_,
    fun id rest l ho hr hn hl => ?_, fun below id l hst hb hr hl left hleft => ?_⟩
  · refine exec_now_refused (a := .undo) hs ht rfl rfl (by decide) ?_
    show State.actUndo t (s.handedOn h 38) = _
    simp [State.actUndo, h8.track, he]
  · refine exec_now_refused (a := .redo) hs ht rfl rfl (by decide) ?_
    show State.actRedo t (s.handedOn h 39) = _
    simp [State.actRedo, h9.track, hf]
  · refine exec_now_refused (a := .redo) hs ht rfl rfl (by decide) ?_
    show State.actRedo t (s.handedOn h 39) = _
    obtain hr | hr := hr <;> simp [State.actRedo, h9.track, Nat.not_le.mpr hn, hr]
  · obtain ⟨x, u, hx, hu, he⟩ := exec_undo_closed hs ht hst hl hc
    have htrk : (u.track t) = Track.settled (x.toRedo t id).isImporting
        { (s.track t).dropLayer id with redo := id :: (s.track t).redo.take 3 } := by
      rw [hu.track, settleTrack_track, toRedo_track, hx.track]
    refine ⟨u, he, ?_, ?_, ?_, ?_, ?_⟩
    · rw [htrk, (Track.settled_lists _ _).1]
      exact dropLayer_stack hst hb
    · rw [htrk, (Track.settled_lists _ _).2]
    · rw [hu.layer?, settleTrack_layer?, toRedo_layer? (by rwa [hx.track]), if_pos rfl, hx.layer?, hl]
      rfl
    · rw [hu.cycle, settleTrack_cyc, toRedo_cyc, hx.cycle]
    · rw [hu.mem, settleTrack_words, toRedo_words, hx.mem]
  · obtain ⟨v, hv, ha⟩ := actRedo_head (s := s.handedOn h 39) (by rw [h9.track]; exact hn) (by rw [h9.track]; exact ho)
      (by rw [h9.track]; exact hr)
    obtain ⟨u, hu, he⟩ := exec_now_ok (a := .redo) hs ht rfl rfl ha
    replace hu := (BesideCues.noteTrack t _ _).trans hu
    have hvl : v.layer? id = some { l with state := .closed } := by
      rw [hv]
      refine (layer?_modLayer id id _ (s.handedOn h 39)).trans ?_
      rw [if_pos rfl, h9.layer?, hl]
      rfl
    have hvc : v.cycle = s.cycle := by rw [hv, setTrack_cyc, modLayer_cyc, h9.cycle]
    have htrk : ∀ t', u.track t' = v.track t' := fun t' => by
      rw [hu.track, State.reaim, State.track, tracks_modLayer]
      rfl
    refine ⟨u, { l with state := .closed, buf := ReadBuf.aimed (v.aimOf { l with state := .closed }) }, he, ?_, ?_, rfl,
      fun hcr => ?_, ?_, ?_⟩
    · rw [htrk, hv, track_setTrack, if_pos rfl, h9.track]
    · rw [hu.layer?, State.reaim, layer?_modLayer, if_pos rfl, hvl]
      rfl
    · refine (aimed_aimOf fun hrun => ?_).trans ?_
      · rw [hvc] at hrun ⊢
        exact hcr.present.mpr (.inl hrun)
      · rw [hvc, htrk]
        rfl
    · rw [hu.cycle, reaim_cyc, hvc]
    · rw [hu.mem, State.reaim, mem_modLayer, hv, mem_setTrack, mem_modLayer, h9.mem]
  · have hsettled : ∀ tr : Track, tr.stack = below → tr.settled s.isImporting = left tr := by
      rintro tr rfl
      rw [hleft]
      rfl
    obtain ⟨hopened, hrest⟩ := undo_settles_below hs ht hst hb hr hl
    refine ⟨fun ho hop => ?_, fun hop hm => ?_⟩
    · obtain ⟨u, he, htr, hothers, hgone, hcy⟩ := hopened ho hop
      refine ⟨u, he, htr.trans (hsettled _ rfl), hothers, hgone, fun h1 h2 => ?_, fun hnd => ?_⟩
      · rw [hcy, if_pos ⟨h1, h2⟩]
      · rw [hcy, if_neg (by tauto)]
    · obtain ⟨himp, hcl⟩ := hrest hop hm
      rw [hsettled _ rfl] at himp hcl
      exact ⟨himp, hcl⟩

end Sys2Proof.Machine


/-! # O25: CLOSE of an overdub or replace layer -/

namespace Sys2Proof.Machine

open Sys2Proof

/-- The open layer of a track that is OVERDUBBING or REPLACING. -/
structure LayerOpen (t : TrackId) (id : Nat) (l : Layer) (s : State) : Prop where
  overdubs : (s.track t).state = .overdubbing ∨ (s.track t).state = .replacing
  openLayer : (s.track t).openLayer = some id
  layer : s.layer? id = some l

/-- What the close of an overdub or replace layer at n samples leaves (R33, R149). -/
structure ClosedAt (t : TrackId) (id n : Nat) (l : Layer) (s u : State) : Prop where
  track : u.track t = { s.track t with state := .playing, openLayer := none, marker := none }
  layer : u.layer? id = some { l with
    state := .closed, length := n, tail := true
    extents := l.extents.take (ceilDiv n 4096)
    suspects := l.suspects.filter (fun b => (l.extents.take (ceilDiv n 4096)).contains b)
    holes := cutRanges n l.holes, stored := cutRanges n l.stored
    buf := s.cycle.aimedBuffer (u.track l.track).span l.startQ n }

section
variable {t : TrackId} {id : Nat} {l : Layer} {s : State}

theorem LayerOpen.not_recording (h : LayerOpen t id l s) : (s.track t).state ≠ .recording := by
  obtain e | e := h.overdubs <;> rw [e] <;> decide

theorem LayerOpen.beside {u : State} (h : LayerOpen t id l s) (hu : BesideCues s u) : LayerOpen t id l u :=
  ⟨by rw [hu.track]; exact h.overdubs, by rw [hu.track]; exact h.openLayer, by rw [hu.layer?]; exact h.layer⟩

theorem ClosedAt.between {n : Nat} {x v u : State} (h : ClosedAt t id n l x v) (hx : BesideCues s x)
    (hu : BesideCues v u) : ClosedAt t id n l s u :=
  ⟨by rw [hu.track, h.track, hx.track], by rw [hu.layer?, hu.track, h.layer, hx.cycle]⟩

theorem closeLayered_closedAt {n : Nat} (fresh : Bool) (hl : s.layer? id = some l)
    (hc : s.cycle.state = .running → s.cycle.len.isSome = true) :
    ClosedAt t id n l s (s.closeLayered t id n fresh) := by
  rw [closeLayered_eq]
  exact ⟨by rw [keepLayer_track hl, if_pos rfl], keepLayer_layer? hl hc⟩

/-- The close of an overdub or replace layer that has taken samples (R33). -/
theorem closeOpen_eq_closeLayered {n before : Nat} {fresh stop : Bool} (h : LayerOpen t id l s) (h0 : n ≠ 0) :
    s.closeOpen t n before fresh stop = s.closeLayered t id n fresh := by
  unfold State.closeOpen
  rw [h.openLayer]
  dsimp only
  rw [if_neg h.not_recording, if_neg h0]

/-- Without a roll, an overdub or replace layer that keeps no sample is discarded (R33). -/
theorem closeOpen_discards {before : Nat} {fresh stop : Bool} (h : LayerOpen t id l s) (hm : (s.track t).marker = none) :
    s.closeOpen t 0 before fresh stop = s.discardOpen t id := by
  unfold State.closeOpen
  rw [h.openLayer]
  dsimp only
  rw [if_neg h.not_recording, if_pos rfl, hm]

theorem closeAtCut_recorded {k : Cut} {stop : Bool} {r : CapRec} (ho : (s.track t).openLayer = some id)
    (hr : s.recordOf id = some r) : s.closeAtCut t k stop = s.closeOpen t (s.cycle.keptAt r.startStamp k)
      (s.cycle.cutBefore r.startStamp k) (decide (k = .next ∨ k = .arriving)) stop := by
  unfold State.closeAtCut
  rw [ho]
  dsimp only
  rw [hr]
  rfl

/-- What is left of the stack where the discarded layer alone is taken from it (R33). -/
theorem discardOpen_stack (t : TrackId) (id : Nat) (s : State) :
    ((s.discardOpen t id).track t).stack = (s.track t).stack.filter (fun x => x != .single id) := by
  rw [discardOpen_track, settleTrack_track, (Track.settled_lists _ _).1, track_modTrack, if_pos rfl, freeLayer_track]
  rfl

end

/-- CLOSE that acts at once on an overdub or replace layer is `closeAtCut` at the cut of its due (R33). -/
theorem exec_close_atOnce {h : Req} {t : TrackId} {tb qb : Byte} {q : Quantum} {e : Eff} {id : Nat} {l : Layer}
    {s : State} (hs : s.serves h 2) (ht : argTrack tb = some t) (hq : argQuantum qb = some q)
    (hd : s.dueOf .close q s.pressNow = .atOnce e) (ho : LayerOpen t id l s) :
    ∃ x u, BesideCues s x ∧ BesideCues (x.closeAtCut t e.cut false) u
      ∧ exec (.close h tb qb) s = .next (u.settle.replied h 35 .ok
          (bytes 1 e.point.pass ++ bytes 3 e.point.pos ++ flagByte e.back)) := by
  have hx := BesideCues.handedOn h 35 s
  refine ⟨_, _, hx, BesideCues.supersedeSlot (some t) .transport _,
    exec_actionRequest_atOnce (a := .close) (target := some t) hs hq (by simp [Action.targetOf, Action.isAll, ht])
      hd ?_⟩
  show State.actClose t e.cut (s.handedOn h 35) = _
  unfold State.actClose
  obtain hst | hst := (ho.beside hx).overdubs <;> rw [hst]

/-- Settles O25: the close is `closeAtCut` at the next frame, or at the boundary of the back-dated due. -/
theorem closeEndsAnOpenLayer : Obligations.CloseEndsAnOpenLayer := by
  unfold Obligations.CloseEndsAnOpenLayer
  intro h t tb len s hs hpart hc hlen ht
  have hsome : s.cycle.state = .running → s.cycle.len.isSome = true := fun _ => by simp [hlen]
  have hndef : s.cycle.state ≠ .defining := by simp [hc]
  refine ⟨fun hst => ?_, fun hst id n l r ho hl hr hn h0 => ?_,
    fun hst qb q e id n l r hcr hq hd hback ho hl hr hn => ?_⟩
  · have hx := BesideCues.handedOn h 35 s
    exact exec_actionRequest_refused (a := .close) (target := some t) hs (q := .none) rfl
      (by simp [Action.targetOf, Action.isAll, ht]) (by decide)
      (quantised_refusedAtOnce ((dueOf_handedOn _ _ _ _ _ _).trans (dueOf_none hpart hc hlen))
        (actClose_badState (s := s.handedOn h 35) (by rwa [hx.track])))
  · have hopen : LayerOpen t id l s := ⟨hst, ho, hl⟩
    obtain ⟨x, u, hx, hu, he⟩ := exec_close_atOnce hs ht (q := .none) (qb := 0) rfl (dueOf_none hpart hc hlen) hopen
    have hox := hopen.beside hx
    have hclose : x.closeAtCut t s.cycle.current.cut false = x.closeLayered t id n true := by
      rw [closeAtCut_recorded hox.openLayer ((hx.recordOf id).trans hr), hx.cycle]
      have hk : s.cycle.keptAt r.startStamp s.cycle.current.cut = n := hn.symm
      rw [hk, closeOpen_eq_closeLayered hox h0]
      rfl
    have hclosed := (closeLayered_closedAt (t := t) (n := n) true hox.layer (by rwa [hx.cycle])).between hx
      (hclose ▸ hu)
    refine ⟨u, _, he, ?_, hclosed.track, fun t' hne => ?_, hclosed.layer, rfl⟩
    · rw [hu.cycle, closeAtCut_cyc _ _ _ _ (by rwa [hx.cycle]), hx.cycle]
    · rw [hu.track, (closeAtCut_spares t _ false x).track t' hne, hx.track]
  · have hopen : LayerOpen t id l s := ⟨hst, ho, hl⟩
    obtain ⟨x, u, hx, hu, he⟩ := exec_close_atOnce hs ht hq hd hopen
    have hox := hopen.beside hx
    obtain rfl | ⟨-, b, -, -, heff⟩ := dueOf_now_atOnce hcr hpart hc hlen hd
    · cases hback
    have hclose : x.closeAtCut t e.cut false = x.closeOpen t n (s.cycle.cutBefore r.startStamp e.cut) false false := by
      rw [closeAtCut_recorded hox.openLayer ((hx.recordOf id).trans hr), hx.cycle]
      have hk : s.cycle.keptAt r.startStamp e.cut = n := by rw [hn, heff]; rfl
      rw [hk, heff]
      rfl
    refine ⟨u, ?_, ?_, fun t' hne => ?_, fun h0 => ?_, fun h0 hm hsorted => ?_⟩
    · rw [he, hback]
      rfl
    · rw [hu.cycle, closeAtCut_cyc _ _ _ _ (by rwa [hx.cycle]), hx.cycle]
    · rw [hu.track, (closeAtCut_spares t _ false x).track t' hne, hx.track]
    · rw [hclose, closeOpen_eq_closeLayered hox h0] at hu
      have hclosed := (closeLayered_closedAt (t := t) (n := n) false hox.layer (by rwa [hx.cycle])).between hx hu
      exact ⟨hclosed.track, _, hclosed.layer, rfl⟩
    · rw [hclose, h0, closeOpen_discards hox (by rw [hx.track]; exact hm)] at hu
      obtain ⟨hgone, hidle, -⟩ := discardOpen_gone t id hox.openLayer (by rwa [hx.layers])
      exact ⟨by rw [hu.layer?, hgone], by rw [hu.track, hidle], by rw [hu.track, discardOpen_stack, hx.track]⟩

end Sys2Proof.Machine


/-! # O30: decay and retirement at a track wrap -/

namespace Sys2Proof.Machine

open Sys2Proof

/-! ### Gains scaled (R39, R46) -/

/-- A layer whose gain a wrap scales by a feedback. -/
def Layer.scaledBy (f : Nat) (l : Layer) : Layer := { l with gain := scaleGain l.gain f }

theorem decayAll_layer? (f : Nat) (ids : List Nat) : ∀ (s : State), ids.Nodup → ∀ j, (s.decayAll f ids).layer? j =
    if j ∈ ids then (s.layer? j).map (Layer.scaledBy f) else s.layer? j := by
  induction ids with
  | nil => exact fun _ _ _ => rfl
  | cons id ids ih =>
    intro s hn j
    obtain ⟨hid, hn⟩ := List.nodup_cons.mp hn
    refine (ih _ hn j).trans ?_
    rw [layer?_modLayer]
    by_cases hj : j = id
    · subst hj
      rw [if_neg hid, if_pos rfl, if_pos List.mem_cons_self]
      rfl
    · rw [if_neg hj]
      simp only [List.mem_cons, hj, false_or]

theorem decayAll_parts (f : Nat) (ids : List Nat) : ∀ (s : State), (s.decayAll f ids).tracks = s.tracks
    ∧ (s.decayAll f ids).fold = s.fold := by
  induction ids with
  | nil => exact fun _ => ⟨rfl, rfl⟩
  | cons id ids ih =>
    intro s
    obtain ⟨ht, hf⟩ := ih (s.modLayer id fun l => { l with gain := scaleGain l.gain f })
    exact ⟨ht.trans (tracks_modLayer _ _ _), hf.trans (fold_modLayer _ _ _)⟩

theorem decayFold_parts (t : TrackId) (f : Nat) (s : State) :
    (s.decayFold t f).tracks = s.tracks ∧ (s.decayFold t f).layers = s.layers := by
  unfold State.decayFold
  split
  · split <;> exact ⟨rfl, rfl⟩
  · exact ⟨rfl, rfl⟩

theorem decayed_track (t t' : TrackId) (s : State) : (s.decayed t).track t' = s.track t' := by
  unfold State.decayed State.track
  rw [(decayFold_parts t _ _).1, (decayAll_parts _ _ _).1]

theorem decayed_fold (t : TrackId) (s : State) : (s.decayed t).fold = s.fold.map fun f =>
    if f.track = t then { f with pendingGain := max 64 (scaleGain f.pendingGain (s.track t).feedback) } else f := by
  have hf := (decayAll_parts (s.track t).feedback (s.decaying t) s).2
  unfold State.decayed State.decayFold
  cases hs : s.fold with
  | none =>
    rw [hs] at hf
    rw [hf]
    exact hf
  | some f =>
    rw [hs] at hf
    rw [hf]
    by_cases ht : f.track = t
    · simp only [if_pos ht, Option.map_some]
    · simp only [if_neg ht, Option.map_some, hf]

theorem mem_decaying {t : TrackId} {s : State} {j : Nat} : j ∈ s.decaying t ↔ j ∈ stackIds (s.track t).stack
    ∧ j ∉ s.fresh ∧ ∃ l, s.layer? j = some l ∧ (l.state = .closed ∨ l.state = .folding) := by
  unfold State.decaying
  rw [List.mem_filter]
  refine and_congr_right fun _ => ?_
  cases s.layer? j with
  | none => simp
  | some l => simp [and_comm]

section
variable {t : TrackId} {s : State}

theorem decayed_layer? (hn : (stackIds (s.track t).stack).Nodup) (j : Nat) : (s.decayed t).layer? j =
    if j ∈ s.decaying t then (s.layer? j).map (Layer.scaledBy (s.track t).feedback) else s.layer? j := by
  refine Eq.trans ?_ (decayAll_layer? (s.track t).feedback (s.decaying t) s (hn.filter _) j)
  exact congrArg (assocFind j) (decayFold_parts t _ _).2

theorem mem_fading (hn : (stackIds (s.track t).stack).Nodup) {j : Nat} {l : Layer} (hl : s.layer? j = some l) :
    j ∈ s.fading t ↔ j ∈ s.decaying t ∧ scaleGain l.gain (s.track t).feedback < 64 := by
  unfold State.fading State.faded
  rw [List.mem_filter]
  refine and_congr_right fun hd => ?_
  rw [decayed_layer? hn, if_pos hd, hl]
  exact decide_eq_true_iff

theorem PoolsWithin.decayed (h : PoolsWithin s) (t : TrackId) : PoolsWithin (s.decayed t) :=
  h.like ((PoolsLike.decayAll (s.track t).feedback (s.decaying t) (.refl s)).decayFold t (s.track t).feedback)

end

/-! ### Layers retired (R40) -/

section
variable {t : TrackId} {s : State}

theorem retireAll_other {j : Nat} (l : List Nat) : ∀ {s : State}, j ∉ l → (s.retireAll t l).layer? j = s.layer? j := by
  induction l with
  | nil => exact fun _ => rfl
  | cons id l ih =>
    intro s hj
    obtain ⟨hid, hl⟩ := List.ne_and_not_mem_of_not_mem_cons hj
    exact (ih hl).trans (freeLayer_other .retired hid s)

theorem retireAll_stack (l : List Nat) : ∀ (s : State), ((s.retireAll t l).track t).stack =
    (s.track t).stack.filter fun e => decide (∀ i ∈ l, e ≠ .single i) := by
  induction l with
  | nil => exact fun s => by simp [State.retireAll]
  | cons id l ih =>
    intro s
    refine (ih _).trans ?_
    have hs : ((s.retire t id).track t).stack = (s.track t).stack.filter fun e => e != .single id := by
      show (((s.freeLayer .retired id).modTrack t (Track.dropLayer id)).track t).stack = _
      rw [track_modTrack, if_pos rfl, freeLayer_track]
      rfl
    rw [hs, List.filter_filter]
    refine List.filter_congr fun e _ => ?_
    rw [Bool.eq_iff_iff]
    simp only [Bool.and_eq_true, decide_eq_true_iff, bne_iff_ne, List.forall_mem_cons, and_comm]

theorem mem_retireAll_stack {l : List Nat} {i : Nat} :
    Entry.single i ∈ ((s.retireAll t l).track t).stack ↔ Entry.single i ∈ (s.track t).stack ∧ i ∉ l := by
  rw [retireAll_stack, List.mem_filter, decide_eq_true_iff]
  refine and_congr_right fun _ => ⟨fun h hi => h i hi rfl, fun h j hj e => h (Entry.single.inj e ▸ hj)⟩

theorem retireAll_stackPairs (l : List Nat) : ∀ (s : State),
    stackPairs ((s.retireAll t l).track t).stack = stackPairs (s.track t).stack := by
  induction l with
  | nil => exact fun _ => rfl
  | cons id l ih =>
    intro s
    refine (ih _).trans ?_
    show stackPairs (((s.freeLayer .retired id).modTrack t (Track.dropLayer id)).track t).stack = _
    rw [track_modTrack, if_pos rfl, freeLayer_track]
    exact stackPairs_dropSingle id _

end

/-! ### The members of the fold that a wrap retires (R40, R48) -/

theorem unfoldMembers_layer? (keep : List Nat) (j : Nat) : ∀ (s : State),
    (keep.foldl (fun s id => State.unfoldMember id s) s).layer? j =
      if j ∈ keep then (s.layer? j).map fun l => { l with state := .closed } else s.layer? j := by
  induction keep with
  | nil => exact fun _ => rfl
  | cons id keep ih =>
    intro s
    refine (ih (s.unfoldMember id)).trans ?_
    rw [State.unfoldMember, layer?_modLayer]
    by_cases hj : j = id
    · subst hj
      cases s.layer? j <;> simp
    · rw [if_neg hj]
      simp only [List.mem_cons, hj, false_or]

theorem splitFold_layer? {f : Fold} {s : State} (hs : s.layers.Pairwise (fun e f => e.1 < f.1)) (cause : FoldCause)
    (keep : List Nat) (j : Nat) : (s.splitFold f cause keep).layer? j = if j = f.result then none
      else if j ∈ keep then (s.layer? j).map fun l => { l with state := .closed } else s.layer? j := by
  have he : (s.endFold f).layer? j = if j = f.result then none else s.layer? j :=
    layer?_freeLayer (s := State.setWait .fold Wait.idle { s with fold := none }) hs j
  refine (unfoldMembers_layer? keep j _).trans ?_
  rw [layer?_modTrack, he]
  by_cases hj : j = f.result <;> simp [hj]

theorem splitPair_length_of_gone {o n : Nat} {keep : List Nat} (hk : o ∉ keep ∨ n ∉ keep) : ∀ {l : List Entry},
    stackPairs l = [(o, n)] → (splitPair keep l).length ≤ l.length := by
  intro l
  induction l with
  | nil => exact nofun
  | cons e l ih =>
    cases e with
    | single i => exact fun h => Nat.succ_le_succ (ih h)
    | pair a b =>
      intro h
      obtain ⟨hab, hl⟩ := List.cons.inj h
      obtain ⟨rfl, rfl⟩ := Prod.mk.inj hab
      rw [splitPair, splitPair_noPairs keep hl]
      obtain hk | hk := hk <;> by_cases ha : a ∈ keep <;> by_cases hb : b ∈ keep <;> simp_all

/-- With a member gone the split of the pair retires no other layer (R48). -/
theorem abandonFold_eq_splitFold {f : Fold} {cause : FoldCause} {keep : List Nat} {s : State} (h : TracksWithin s)
    (hf : s.fold = some f) (hc : cause ≠ .cleared) (hk : f.older ∉ keep ∨ f.newer ∉ keep) :
    s.abandonFold cause keep = s.splitFold f cause keep := by
  rw [abandonFold_split hf hc]
  refine if_pos ?_
  rw [splitFold_track, if_pos rfl]
  exact (splitPair_length_of_gone hk (stackPairs_of_fold h hf)).trans (h.stack f.track)

theorem mem_splitPair {keep : List Nat} {i : Nat} {l : List Entry} : Entry.single i ∈ splitPair keep l ↔
    Entry.single i ∈ l ∨ i ∈ keep ∧ ∃ p ∈ stackPairs l, i = p.1 ∨ i = p.2 := by
  induction l with
  | nil => simp [splitPair, stackPairs]
  | cons e l ih =>
    cases e with
    | single j => simp [splitPair, stackPairs, ih, or_assoc]
    | pair a b =>
      simp only [splitPair, stackPairs, List.mem_append, ih, List.mem_map, List.mem_filter, List.contains_iff_mem,
        Entry.single.injEq, exists_eq_right, List.mem_cons, List.not_mem_nil, or_false, reduceCtorEq, false_or,
        exists_eq_or_imp]
      generalize (∃ p ∈ stackPairs l, i = p.1 ∨ i = p.2) = paired
      tauto

section
variable {t : TrackId} {f : Fold} {gone : List Nat} {s : State}

theorem retireMembers_spared {members : List Nat} (h : ∀ j ∈ members, j ∉ gone) : s.retireMembers t gone members = s := by
  have hany : gone.any members.contains = false := by
    simpa [List.any_eq_false] using fun j hj hm => h j hm hj
  have hfil : gone.filter members.contains = [] := by
    simpa [List.filter_eq_nil_iff] using fun j hj hm => h j hm hj
  unfold State.retireMembers
  rw [hfil, hany]
  rfl

/-- A fold that loses a member at a wrap: the member and the result gone, a member that stays single and CLOSED. -/
structure MembersRetired (t : TrackId) (f : Fold) (gone : List Nat) (s v : State) : Prop where
  fold : v.fold = none
  layer : ∀ j, v.layer? j = if j = f.result ∨ j ∈ gone ∧ (j = f.older ∨ j = f.newer) then none
    else if j = f.older ∨ j = f.newer then (s.layer? j).map fun l => { l with state := .closed } else s.layer? j
  stack : ∀ i, Entry.single i ∈ (v.track t).stack ↔
    Entry.single i ∈ (s.track t).stack ∧ ¬ (i ∈ gone ∧ (i = f.older ∨ i = f.newer))
      ∨ (i = f.older ∨ i = f.newer) ∧ i ∉ gone
  pairs : stackPairs (v.track t).stack = []

theorem retireMembers_ended (h : PoolsWithin s) (hf : s.fold = some f) (ht : f.track = t)
    (hm : f.older ∈ gone ∨ f.newer ∈ gone) : MembersRetired t f gone s (s.retireMembers t gone [f.older, f.newer]) := by
  obtain ⟨hw, hfold, hgone⟩ := PoolsWithin.retireAll t (gone.filter [f.older, f.newer].contains) h
  rw [hf] at hfold
  have hany : gone.any [f.older, f.newer].contains = true := by
    rw [List.any_eq_true]
    obtain hm | hm := hm
    · exact ⟨_, hm, by simp⟩
    · exact ⟨_, hm, by simp⟩
  have hmem : ∀ j, j ∈ gone.filter [f.older, f.newer].contains ↔ j ∈ gone ∧ (j = f.older ∨ j = f.newer) := fun j => by
    simp [List.mem_filter]
  have hkeep : ∀ j, j ∈ [f.older, f.newer].filter (fun i => !gone.contains i) ↔
      (j = f.older ∨ j = f.newer) ∧ j ∉ gone := fun j => by simp [List.mem_filter]
  have hv : s.retireMembers t gone [f.older, f.newer] =
      (s.retireAll t (gone.filter [f.older, f.newer].contains)).splitFold f .retired
        ([f.older, f.newer].filter fun i => !gone.contains i) := by
    unfold State.retireMembers
    dsimp only
    rw [if_pos hany]
    refine abandonFold_eq_splitFold hw.tracksWithin hfold (by decide) ?_
    rw [hkeep, hkeep]
    tauto
  have htr := splitFold_track f .retired ([f.older, f.newer].filter fun i => !gone.contains i)
    (s.retireAll t (gone.filter [f.older, f.newer].contains)) t
  rw [if_pos ht] at htr
  rw [hv]
  refine ⟨splitFold_fold _ _ _ _, fun j => ?_, fun i => ?_, ?_⟩
  · rw [splitFold_layer? hw.ids]
    by_cases hr : j = f.result
    · rw [if_pos hr, if_pos (.inl hr)]
    · by_cases hg : j ∈ gone ∧ (j = f.older ∨ j = f.newer)
      · rw [if_neg hr, if_neg (by rw [hkeep]; tauto), hgone j (.inl ((hmem j).mpr hg)), if_pos (Or.inr hg)]
      · rw [if_neg hr, if_neg (not_or.mpr ⟨hr, hg⟩), retireAll_other _ (by rw [hmem]; exact hg)]
        exact if_congr ((hkeep j).trans ⟨And.left, fun hj => ⟨hj, fun hgj => hg ⟨hgj, hj⟩⟩⟩) rfl rfl
  · rw [htr, mem_splitPair, mem_retireAll_stack, hmem, hkeep, retireAll_stackPairs, ← ht,
      stackPairs_of_fold h.tracksWithin hf]
    simp only [List.mem_singleton, exists_eq_left]
    tauto
  · rw [htr]
    exact stackPairs_split _ _

end

/-! ### Decay and retirement (R39, R40, R46, R48) -/

section
variable {t : TrackId} {s : State}

/-- The layers, the fold and the stack that a track's wrap leaves are those of its retirements. -/
theorem decayTrack_view (t : TrackId) (s : State) : ∃ v : State,
    v = ((s.decayed t).retireMembers t (s.fading t) ((s.decayed t).foldMembers t)).retireAll t
        ((s.fading t).filter fun i => !((s.decayed t).foldMembers t).contains i)
      ∧ (s.decayTrack t).fold = v.fold ∧ (∀ j, (s.decayTrack t).layer? j = v.layer? j)
      ∧ ((s.decayTrack t).track t).stack = (v.track t).stack := by
  refine ⟨_, rfl, ?_⟩
  rw [decayTrack_eq]
  dsimp only
  split
  · exact ⟨rfl, fun _ => rfl, rfl⟩
  · generalize State.retireAll t _ _ = v
    have hn := BesideCues.noteTrack t (s.track t) (v.settleTrack t)
    refine ⟨hn.fold.trans ?_, fun j => (hn.layer? j).trans (settleTrack_layer? t v j), ?_⟩
    · unfold State.settleTrack
      dsimp only
      split <;> rfl
    · rw [hn.track, settleTrack_track]
      exact (Track.settled_lists _ _).1

/-- A wrap that retires no member of a fold on its track. -/
theorem decayTrack_spared (h : PoolsWithin s) (hm : ∀ j ∈ (s.decayed t).foldMembers t, j ∉ s.fading t) :
    (s.decayTrack t).fold = (s.decayed t).fold
      ∧ (∀ j, (s.decayTrack t).layer? j = if j ∈ s.fading t then none else (s.decayed t).layer? j)
      ∧ ∀ i, Entry.single i ∈ ((s.decayTrack t).track t).stack ↔ Entry.single i ∈ (s.track t).stack ∧ i ∉ s.fading t := by
  obtain ⟨v, hv, hfold, hlayer, hstack⟩ := decayTrack_view t s
  have hall : ((s.fading t).filter fun i => !((s.decayed t).foldMembers t).contains i) = s.fading t :=
    List.filter_eq_self.mpr fun j hj => by
      simpa using fun hmj => hm j hmj hj
  rw [retireMembers_spared hm, hall] at hv
  subst hv
  obtain ⟨-, hf, hgone⟩ := (h.decayed t).retireAll t (s.fading t)
  refine ⟨hfold.trans hf, fun j => (hlayer j).trans ?_, fun i => ?_⟩
  · split
    · next hj => exact hgone j (.inl hj)
    · next hj => exact retireAll_other _ hj
  · rw [hstack, mem_retireAll_stack, decayed_track]

/-- A wrap that retires a member of the fold on its track. -/
theorem decayTrack_ended {f : Fold} (h : PoolsWithin s) (hf : s.fold = some f) (ht : f.track = t)
    (hm : f.older ∈ s.fading t ∨ f.newer ∈ s.fading t) :
    (s.decayTrack t).fold = none ∧ stackPairs ((s.decayTrack t).track t).stack = []
      ∧ (∀ j, (s.decayTrack t).layer? j = if j = f.result ∨ j ∈ s.fading t then none
        else if j = f.older ∨ j = f.newer then ((s.decayed t).layer? j).map fun l => { l with state := .closed }
        else (s.decayed t).layer? j)
      ∧ ∀ i, Entry.single i ∈ ((s.decayTrack t).track t).stack ↔
        (Entry.single i ∈ (s.track t).stack ∨ i = f.older ∨ i = f.newer) ∧ i ∉ s.fading t := by
  obtain ⟨v, hv, hfold, hlayer, hstack⟩ := decayTrack_view t s
  have hfd : (s.decayed t).fold =
      some { f with pendingGain := max 64 (scaleGain f.pendingGain (s.track t).feedback) } := by
    rw [decayed_fold, hf, Option.map_some, if_pos ht]
  have hd := h.decayed t
  have hmem : (s.decayed t).foldMembers t = [f.older, f.newer] := (foldMembers_of_fold hfd).trans (if_pos ht)
  have hr := retireMembers_ended hd hfd ht hm
  have hp := hd.retireMembers t (s.fading t)
  rw [hmem] at hv hp
  dsimp only at hr hp
  generalize (s.decayed t).retireMembers t (s.fading t) [f.older, f.newer] = w at *
  subst hv
  obtain ⟨-, hf', hgone⟩ := hp.retireAll t ((s.fading t).filter fun i => !([f.older, f.newer].contains i))
  have hrest : ∀ j, j ∈ (s.fading t).filter (fun i => !([f.older, f.newer].contains i)) ↔
      j ∈ s.fading t ∧ ¬ (j = f.older ∨ j = f.newer) := fun j => by simp [List.mem_filter]
  refine ⟨hfold.trans (hf'.trans hr.fold), ?_, fun j => (hlayer j).trans ?_, fun i => ?_⟩
  · rw [hstack, retireAll_stackPairs]
    exact hr.pairs
  · by_cases hj : j ∈ s.fading t ∧ ¬ (j = f.older ∨ j = f.newer)
    · rw [hgone j (.inl ((hrest j).mpr hj)), if_pos (.inr hj.1)]
    · rw [retireAll_other _ (by rw [hrest]; exact hj), hr.layer]
      exact if_congr (by dsimp only; tauto) rfl rfl
  · rw [hstack, mem_retireAll_stack, hrest, hr.stack, decayed_track]
    dsimp only
    tauto

end

end Sys2Proof.Machine


/-! # O30: the roll of an open layer -/

namespace Sys2Proof.Machine

open Sys2Proof

theorem port_raise (k : EventKind) (t : Option TrackId) (la : Option Nat) (d : Nat) (s : State) (p : Port) :
    (s.raise k t la d).port p = (s.port p).offer (s.event k t la none d) := by cases p <;> rfl

theorem port_congr {s u : State} (ha : u.portA = s.portA) (hb : u.portB = s.portB) (p : Port) : u.port p = s.port p := by
  cases p
  · exact ha
  · exact hb

theorem endCapture_captureOnly (id n : Nat) (s : State) : ∃ c, s.endCapture id n = { s with capture := c } := by
  unfold State.endCapture
  split
  · exact ⟨s.capture, rfl⟩
  · exact ⟨_, rfl⟩

theorem modLayer_layersOnly (id : Nat) (f : Layer → Layer) (s : State) :
    ∃ l, s.modLayer id f = { s with layers := l } := by
  unfold State.modLayer
  split
  · exact ⟨_, rfl⟩
  · exact ⟨s.layers, rfl⟩

/-- The open layer ended at its roll, and its track without it (R41). -/
def State.rolledFrom (t : TrackId) (id n : Nat) (s : State) : State :=
  ((s.endCapture id n).modLayer id fun l => { l with state := .closed, length := n }).modTrack t fun tr =>
    { tr with openLayer := none, marker := none }

section
variable {t : TrackId} {id n : Nat} {s : State}

/-- Rolling a layer touches its record, its layer and its track. -/
theorem rolledFrom_parts (t : TrackId) (id n : Nat) (s : State) : (s.rolledFrom t id n).cycle = s.cycle
    ∧ (s.rolledFrom t id n).fold = s.fold ∧ (s.rolledFrom t id n).portA = s.portA
    ∧ (s.rolledFrom t id n).portB = s.portB ∧ (s.rolledFrom t id n).capture = (s.endCapture id n).capture
    ∧ (s.rolledFrom t id n).track t = { s.track t with openLayer := none, marker := none } := by
  obtain ⟨c, hc⟩ := endCapture_captureOnly id n s
  obtain ⟨l, hl⟩ := modLayer_layersOnly id (fun l => { l with state := .closed, length := n }) (s.endCapture id n)
  have ht : (s.rolledFrom t id n).track t = { (s.endCapture id n).track t with openLayer := none, marker := none } := by
    unfold State.rolledFrom
    rw [track_modTrack, if_pos rfl, State.track, tracks_modLayer]
    rfl
  have htr : (s.endCapture id n).track t = s.track t := by rw [hc]; rfl
  rw [htr] at ht
  refine ⟨?_, ?_, ?_, ?_, ?_, ht⟩ <;> rw [State.rolledFrom, hl]
  · rw [hc]; rfl
  · rw [hc]; rfl
  · rw [hc]; rfl
  · rw [hc]; rfl
  · rfl

theorem rolledFrom_layer? (j : Nat) : (s.rolledFrom t id n).layer? j =
    if j = id then (s.layer? id).map fun l => { l with state := .closed, length := n } else s.layer? j := by
  have hc : ∀ j, (s.endCapture id n).layer? j = s.layer? j := fun j => by
    obtain ⟨c, hc⟩ := endCapture_captureOnly id n s
    rw [hc]
    rfl
  refine (layer?_modLayer id j _ (s.endCapture id n)).trans ?_
  rw [hc, hc]

theorem rolledFrom_freeId : (s.rolledFrom t id n).freeId = s.freeId := by
  unfold State.freeId
  congr 1
  funext j
  rw [rolledFrom_layer?]
  split
  · next e => subst e; cases s.layer? j <;> rfl
  · rfl

theorem rolledFrom_freeRecord (h : s.freeRecord.isSome = true) : (s.rolledFrom t id n).freeRecord.isSome = true := by
  obtain ⟨i, hi⟩ := Option.isSome_iff_exists.mp h
  have hnone := (freeRecord_some.mp hi).1
  unfold State.freeRecord
  rw [List.find?_isSome]
  refine ⟨i, List.mem_finRange i, ?_⟩
  rw [(rolledFrom_parts t id n s).2.2.2.2.1]
  unfold State.endCapture
  split
  · rw [hnone]
    rfl
  · simp only [Fin.getElem_fin] at hnone
    simp [hnone]

/-- A recorded layer that takes no part in the roll: a first layer, or one whose first frame is the arriving frame
(R41, R61, R72). -/
theorem roll_stays {span : Nat} {l : Layer} {r : CapRec} (ho : (s.track t).openLayer = some id)
    (hsp : (s.track t).span = some span) (hl : s.layer? id = some l) (hr : s.recordOf id = some r)
    (h : (s.track t).state = .recording ∨ r.startStamp = s.cycle.frameCount) : s.roll t = s := by
  simp only [State.roll, ho, hsp, hr, hl, if_pos h]

theorem roll_rolls {span : Nat} {l : Layer} {r : CapRec} (ho : (s.track t).openLayer = some id)
    (hsp : (s.track t).span = some span) (hl : s.layer? id = some l) (hr : s.recordOf id = some r)
    (h : ¬ ((s.track t).state = .recording ∨ r.startStamp = s.cycle.frameCount)) {v : State}
    (hv : v = s.rolledFrom t id (span * s.cycle.shownLen - l.startQ)) :
    s.roll t = (match v.takeRoom t with
      | .ok (w, id') => ((w.openLayer t id' (Layer.fresh t .opened .rolled (.at 0) l.cover false) w.cycle.frameCount
          (if r.phase = .inStep then .inStep else .filling) (s.track t).state).modTrack t fun tr =>
            { tr with marker := some (id, id') }).raise .layerRolled none (some id) id'
      | .error st => (((v.modTrack t fun tr => { tr with state := .playing }).raiseClosed t id).raise .stackFull (some t)
          none (stackFullDetail st)).raiseTrack t) := by
  subst hv
  simp only [State.roll, ho, hsp, hr, hl, if_neg h]
  rfl

/-- A layer opened where a capture record is free. -/
theorem openLayer_free {id' stamp : Nat} {l : Layer} {phase : Phase} {dest : TrackState} {i : Fin 12}
    (h : s.freeRecord = some i) : s.openLayer t id' l stamp phase dest =
      ((s.setLayer id' l).modTrack t fun tr =>
        { tr with stack := tr.stack ++ [.single id'], openLayer := some id', state := dest }).setRecord i
          (some (.opening t id' stamp phase)) := by
  unfold State.openLayer State.placeRecord
  dsimp only
  have hf : ((s.setLayer id' l).modTrack t fun tr =>
      { tr with stack := tr.stack ++ [.single id'], openLayer := some id', state := dest }).freeRecord = some i := h
  rw [hf]
  rfl

theorem recordOf_setRecord_other {j : Nat} {i : Fin 12} {new : CapRec} (hj : new.layer ≠ j)
    (hi : s.capture.records[i] = none) : (s.setRecord i (some new)).recordOf j = s.recordOf j := by
  refine recordOf_congr fun k => ?_
  show CapRec.ofLayer j ((s.capture.records.set i.val (some new) i.isLt)[k]) = _
  simp only [Fin.getElem_fin, Vector.getElem_set]
  split
  · next e =>
    have : s.capture.records[k.val] = none := by simpa [← e] using hi
    rw [this]
    simp [CapRec.ofLayer, hj]
  · rfl

end

/-- An admitted roll (R41, R61, R72). -/
structure Rolls (t : TrackId) (id id' kept : Nat) (l : Layer) (r : CapRec) (s u : State) : Prop where
  closed : u.layer? id = some { l with state := .closed, length := kept }
  successor : u.layer? id' = some (Layer.fresh t .opened .rolled (.at 0) l.cover false)
  track : u.track t = { s.track t with
    stack := (s.track t).stack ++ [.single id'], openLayer := some id', marker := some (id, id') }
  record : ∃ i : Fin 12, u.capture.records[i] = some
    (CapRec.opening t id' s.cycle.frameCount (if r.phase = .inStep then .inStep else .filling))
  drains : ∀ q, u.recordOf id = some q → q.phase = .draining ∧ q.endStamp = some (stampAdd q.startStamp kept)
  port : ∀ p, u.port p = (s.port p).offer (s.event .layerRolled none (some id) none id')

/-- A refused roll: the track is PLAYING without an open layer (R41). -/
structure RollRefused (t : TrackId) (id kept span : Nat) (st : Status) (l : Layer) (s u : State) : Prop where
  closed : u.layer? id = some { l with state := .closed, length := kept }
  track : u.track t = { s.track t with state := .playing, openLayer := none, marker := none }
  port : ∀ p, u.port p = (((s.port p).offer (s.event .layerClosed none (some id) none span)).offer
    (s.event .stackFull (some t) none none (stackFullDetail st))).offer (s.event .trackState (some t) none none
      (2 + if (s.track t).muteTarget = 0 then 32768 else 0))

section
variable {t : TrackId} {id span : Nat} {l : Layer} {r : CapRec} {s : State}
  (ho : (s.track t).openLayer = some id) (hsp : (s.track t).span = some span) (hl : s.layer? id = some l)
  (hr : s.recordOf id = some r) (h : ¬ ((s.track t).state = .recording ∨ r.startStamp = s.cycle.frameCount))
include ho hsp hl hr h

theorem roll_admitted {id' : Nat} (hid : s.freeId = some id') (hn : (s.track t).stack.length < 8)
    (hf : s.freeRecord.isSome = true) : Rolls t id id' (span * s.cycle.shownLen - l.startQ) l r s (s.roll t) := by
  have hroll := roll_rolls ho hsp hl hr h rfl
  generalize span * s.cycle.shownLen - l.startQ = kept at hroll ⊢
  obtain ⟨hcy, -, hpa, hpb, hcap, htr⟩ := rolledFrom_parts t id kept s
  obtain ⟨i, hi⟩ := Option.isSome_iff_exists.mp (rolledFrom_freeRecord (t := t) (id := id) (n := kept) hf)
  have hne : id ≠ id' := fun e => by
    have := layer?_freeId hid
    rw [← e, hl] at this
    cases this
  have hlay := rolledFrom_layer? (t := t) (id := id) (n := kept) (s := s)
  have hroom : (s.rolledFrom t id kept).takeRoom t = .ok (s.rolledFrom t id kept, id') :=
    takeRoom_room (rolledFrom_freeId.trans hid) (by rw [htr]; exact hn)
  have hnone := (freeRecord_some.mp hi).1
  rw [hroom] at hroll
  dsimp only at hroll
  rw [hcy, openLayer_free hi] at hroll
  generalize s.rolledFrom t id kept = v at *
  rw [hroll]
  refine ⟨?_, layer?_setLayer_same _ _ _, ?_, ⟨i, ?_⟩, fun q hq => ?_, fun p => ?_⟩
  · refine (layer?_setLayer id' id _ v).trans ?_
    rw [if_neg hne, hlay, if_pos rfl, hl]
    rfl
  · rw [(BesideCues.raise _ _ _ _ _).track, track_modTrack, if_pos rfl]
    have hopened := track_modTrack t t (fun tr => { tr with
      stack := tr.stack ++ [.single id'], openLayer := some id', state := (s.track t).state })
      (v.setLayer id' (Layer.fresh t .opened .rolled (.at 0) l.cover false))
    rw [if_pos rfl] at hopened
    have hv : (v.setLayer id' (Layer.fresh t .opened .rolled (.at 0) l.cover false)).track t = v.track t := rfl
    rw [hv, htr] at hopened
    exact congrArg (fun tr : Track => { tr with marker := some (id, id') }) hopened
  · show (v.capture.records.set i.val _ i.isLt)[i] = _
    simp
  · have hrec : (v.setRecord i (some (.opening t id' s.cycle.frameCount
        (if r.phase = .inStep then .inStep else .filling)))).recordOf id = some q := hq
    rw [recordOf_setRecord_other hne.symm hnone] at hrec
    refine endCapture_recordOf (by rw [hr]; simp) ?_
    rw [← hrec]
    exact recordOf_congr fun k => by rw [hcap]
  · refine (port_raise _ _ _ _ _ p).trans ?_
    have hp : v.port p = s.port p := port_congr hpa hpb p
    have he : v.event .layerRolled none (some id) none id' = s.event .layerRolled none (some id) none id' := by
      unfold State.event
      rw [hcy]
    rw [← hp, ← he]
    exact congrArg (fun c : PortCtl => c.offer _) (by cases p <;> rfl)

theorem roll_refused {st : Status}
    (hroom : (s.rolledFrom t id (span * s.cycle.shownLen - l.startQ)).takeRoom t = .error st) :
    RollRefused t id (span * s.cycle.shownLen - l.startQ) span st l s (s.roll t) := by
  have hroll := roll_rolls ho hsp hl hr h rfl
  generalize span * s.cycle.shownLen - l.startQ = kept at *
  obtain ⟨hcy, -, hpa, hpb, -, htr⟩ := rolledFrom_parts t id kept s
  have hlay := rolledFrom_layer? (t := t) (id := id) (n := kept) (s := s)
  rw [hroom] at hroll
  dsimp only at hroll
  generalize s.rolledFrom t id kept = v at *
  rw [hroll]
  have htrack : (v.modTrack t fun tr => { tr with state := .playing }).track t =
      { s.track t with state := .playing, openLayer := none, marker := none } := by
    rw [track_modTrack, if_pos rfl, htr]
  have hevent : ∀ k tr la d, (v.modTrack t fun tr => { tr with state := .playing }).event k tr la none d =
      s.event k tr la none d := fun k tr la d => by
    show v.event k tr la none d = _
    unfold State.event
    rw [hcy]
  refine ⟨?_, htrack, fun p => ?_⟩
  · refine (hlay id).trans ?_
    rw [if_pos rfl, hl]
    rfl
  · have hp : (v.modTrack t fun tr => { tr with state := .playing }).port p = s.port p :=
      (port_congr (s := v) rfl rfl p).trans (port_congr hpa hpb p)
    generalize (v.modTrack t fun tr => { tr with state := .playing }) = w at *
    refine (port_raise _ _ _ _ _ p).trans ?_
    rw [port_raise, State.raiseClosed, port_raise]
    show (((w.port p).offer (w.event _ _ _ _ ((w.track t).span.getD 0))).offer (w.event _ _ _ _ _)).offer
      (w.event _ _ _ _ (w.track t).detail) = _
    rw [hevent, hevent, hevent, hp, htrack]
    simp only [hsp, Option.getD_some]
    rfl

end

end Sys2Proof.Machine


/-! # O30: a close at the roll, and the obligation -/

namespace Sys2Proof.Machine

open Sys2Proof

theorem track_modLayer (id : Nat) (f : Layer → Layer) (t : TrackId) (s : State) :
    (s.modLayer id f).track t = s.track t := by simp only [State.track, tracks_modLayer]

/-- What a close back-dated over the roll leaves of the rolled-from layer (R42, R149). -/
structure RollTaken (t : TrackId) (rolled n : Nat) (l : Layer) (s c : State) : Prop where
  gone : n = 0 → c.layer? rolled = none
  playing : n ≠ 0 → (c.track t).state = .playing
  whole : n ≠ 0 → n = l.length → c.layer? rolled = some { l with tail := true }
  cut : n ≠ 0 → n ≠ l.length → c.layer? rolled = some { l.cutTo n with
    tail := true, buf := s.cycle.aimedBuffer (s.track l.track).span l.startQ n }

section
variable {t : TrackId} {rolled id n : Nat} {l : Layer} {s : State}

/-- The track of a taken-back roll, its successor gone (R42). -/
def State.unrolled (t : TrackId) (id : Nat) (s : State) : State :=
  (s.freeLayer .discarded id).modTrack t fun tr =>
    { tr.dropLayer id with state := .playing, openLayer := none, marker := none }

theorem unrolled_track (t t' : TrackId) (id : Nat) (s : State) : (s.unrolled t id).track t' = if t = t' then
    { (s.track t).dropLayer id with state := .playing, openLayer := none, marker := none } else s.track t' := by
  unfold State.unrolled
  rw [track_modTrack, freeLayer_track, freeLayer_track]

theorem unrolled_span (t t' : TrackId) (id : Nat) (s : State) :
    ((s.unrolled t id).track t').span = (s.track t').span := by
  rw [unrolled_track]
  split
  · next e => rw [← e]; rfl
  · rfl

theorem unrolled_cycle (t : TrackId) (id : Nat) (s : State) : (s.unrolled t id).cycle = s.cycle :=
  (modTrack_cyc _ _ _).trans (freeLayer_cyc _ _ _)

theorem closeRolled_track_of_kept (h0 : n ≠ 0) (hl : s.layer? rolled = some l) (t' : TrackId) :
    (s.closeRolled t rolled n l).track t' = s.track t' := by
  unfold State.closeRolled
  rw [if_neg h0]
  refine ((BesideCues.raise _ _ _ _ _).track t').trans ?_
  rw [track_modLayer]
  by_cases hn : n = l.length
  · rw [if_pos hn]
  · obtain ⟨m, e⟩ := endAt_eq n hl
    rw [if_neg hn, State.reaim, track_modLayer, e]
    rfl

/-- What is kept of the rolled-from layer: all of it, or what lies before the cut with its buffer aimed (R42, R149). -/
theorem closeRolled_layer? (h0 : n ≠ 0) (hl : s.layer? rolled = some l)
    (hc : s.cycle.state = .running → s.cycle.len.isSome = true) :
    (s.closeRolled t rolled n l).layer? rolled = some (if n = l.length then { l with tail := true } else
      { l.cutTo n with
        tail := true, buf := s.cycle.aimedBuffer (s.track l.track).span l.startQ n }) := by
  unfold State.closeRolled
  rw [if_neg h0]
  refine ((BesideCues.raise _ _ _ _ _).layer? rolled).trans ?_
  rw [layer?_modLayer, if_pos rfl]
  by_cases hn : n = l.length
  · rw [if_pos hn, if_pos hn, hl]
    rfl
  · rw [if_neg hn, if_neg hn]
    have he : (s.endAt rolled n).layer? rolled = some (l.cutTo n) := by simp [layer?_endAt, hl]
    obtain ⟨m, e⟩ := endAt_eq n hl
    have hcy : (s.endAt rolled n).cycle = s.cycle := by rw [e]; rfl
    have htr : ∀ t', (s.endAt rolled n).track t' = s.track t' := fun t' => by rw [e]; rfl
    rw [layer?_reaim rolled he (by rwa [hcy]), hcy, htr]
    rfl

theorem closeAtRoll_taken {before span len : Nat} (hs : s.layers.Pairwise (fun e f => e.1 < f.1))
    (hsp : (s.track t).span = some span) (hlen : s.cycle.len = some len) (hne : rolled ≠ id)
    (hl : s.layer? rolled = some l) (himp : l.state ≠ .importing) (hst : Entry.single rolled ∈ (s.track t).stack)
    (hn : n = if before = 0 then l.length else min l.length (span * len - l.startQ - before)) :
    RollTaken t rolled n l s (s.closeAtRoll t rolled id before) := by
  have hlu : (s.unrolled t id).layer? rolled = some l := (freeLayer_other .discarded hne s).trans hl
  have hsorted : (s.unrolled t id).layers.Pairwise (fun e f => e.1 < f.1) :=
    ((Spares.refl t (fun _ => True) s).freeLayer .discarded trivial).sorted hs
  have hlength : (s.unrolled t id).rolledLength t before l = n := by
    rw [hn]
    unfold State.rolledLength Cycle.shownLen
    rw [unrolled_span, unrolled_cycle, hsp, hlen]
    rfl
  have hclose : s.closeAtRoll t rolled id before =
      (((s.unrolled t id).closeRolled t rolled n l).settleTrack t).raiseTrack t := by
    rw [← hlength]
    show (State.settleTrack t (match (s.unrolled t id).layer? rolled with
      | some l => (s.unrolled t id).closeRolled t rolled ((s.unrolled t id).rolledLength t before l) l
      | none => s.unrolled t id)).raiseTrack t = _
    rw [hlu]
  have hsome : (s.unrolled t id).cycle.state = .running → (s.unrolled t id).cycle.len.isSome = true := fun _ => by
    rw [unrolled_cycle, hlen]
    rfl
  have htrk := unrolled_track t t id s
  rw [if_pos rfl] at htrk
  have hkept : n ≠ 0 → ((s.unrolled t id).closeRolled t rolled n l).layer? rolled =
      some (if n = l.length then { l with tail := true } else { l.cutTo n with
        tail := true, buf := s.cycle.aimedBuffer (s.track l.track).span l.startQ n }) := fun h0 => by
    rw [closeRolled_layer? h0 hlu hsome, unrolled_cycle, unrolled_span]
  rw [hclose]
  have hb := raiseTrack_beside t (((s.unrolled t id).closeRolled t rolled n l).settleTrack t)
  refine ⟨fun h0 => ?_, fun h0 => ?_, fun h0 hw => ?_, fun h0 hc => ?_⟩
  · rw [hb.layer?, settleTrack_layer?]
    unfold State.closeRolled
    rw [if_pos h0]
    exact freeLayer_gone _ _ hsorted
  · rw [hb.track, settleTrack_track, closeRolled_track_of_kept h0 hlu, htrk]
    have hin : rolled ∈ stackIds ((s.track t).dropLayer id).stack :=
      mem_stackIds_of_single (List.mem_filter.mpr ⟨hst, bne_iff_ne.mpr fun e => hne (Entry.single.inj e)⟩)
    have hsound : ((s.unrolled t id).closeRolled t rolled n l).isImporting rolled = false := by
      unfold State.isImporting
      rw [hkept h0]
      by_cases hw : n = l.length <;> simp [hw, himp, Layer.cutTo]
    unfold Track.settled
    rw [if_pos (List.any_eq_true.mpr ⟨rolled, hin, by rw [hsound]; rfl⟩)]
  · rw [hb.layer?, settleTrack_layer?, hkept h0, if_pos hw]
  · rw [hb.layer?, settleTrack_layer?, hkept h0, if_neg hc]

/-- The close of a successor that has taken no sample at its cut takes the roll back (R42). -/
theorem closeAtCut_unrolls {k : Cut} {stop : Bool} {r : CapRec}
    (hst : (s.track t).state = .overdubbing ∨ (s.track t).state = .replacing)
    (ho : (s.track t).openLayer = some id) (hm : (s.track t).marker = some (rolled, id)) (hr : s.recordOf id = some r)
    (hk : s.cycle.keptAt r.startStamp k = 0) :
    s.closeAtCut t k stop = s.closeAtRoll t rolled id (s.cycle.cutBefore r.startStamp k) := by
  have hnr : (s.track t).state ≠ .recording := by
    obtain e | e := hst <;> rw [e] <;> decide
  rw [closeAtCut_recorded ho hr, hk]
  unfold State.closeOpen
  rw [ho]
  dsimp only
  rw [if_neg hnr, if_pos rfl, hm]
  exact if_pos rfl

end

/-! ### Admission refused (R30) -/

theorem isClosed_iff {id : Nat} {s : State} : s.isClosed id = true ↔ ∃ l, s.layer? id = some l ∧ l.state = .closed := by
  unfold State.isClosed
  cases s.layer? id <;> simp

theorem takeRoom_noRecord {t : TrackId} {s : State} (h : s.freeId = none) : s.takeRoom t = .error .noMemory := by
  unfold State.takeRoom
  rw [h]

/-- A full stack on which no fold can start (R30). -/
theorem takeRoom_full {t : TrackId} {id : Nat} {s : State} (hid : s.freeId = some id) (hn : 8 ≤ (s.track t).stack.length)
    (h : s.fold.isSome = true ∨ s.mem.free = [] ∨ 39 ≤ s.layers.length
      ∨ (¬ ∃ a b rest la lb, (s.track t).stack = .single a :: .single b :: rest ∧ s.layer? a = some la
          ∧ la.state = .closed ∧ s.layer? b = some lb ∧ lb.state = .closed)) : s.takeRoom t = .error .stackFull := by
  unfold State.takeRoom
  rw [hid]
  dsimp only
  rw [if_neg (Nat.not_lt.mpr hn)]
  split
  · next a b rest hst =>
    refine if_neg fun hcond => ?_
    simp only [Bool.and_eq_true, Bool.not_eq_true', decide_eq_true_eq, Option.isNone_iff_eq_none] at hcond
    obtain ⟨⟨⟨⟨hidle, ha⟩, hb⟩, hfree⟩, hroom⟩ := hcond
    obtain h | h | h | h := h
    · rw [hidle] at h
      cases h
    · rw [h] at hfree
      cases hfree
    · omega
    · obtain ⟨la, hla, hca⟩ := isClosed_iff.mp ha
      obtain ⟨lb, hlb, hcb⟩ := isClosed_iff.mp hb
      exact h ⟨a, b, rest, la, lb, hst, hla, hca, hlb, hcb⟩
  · rfl

/-- The fading layers of no fold on the track go, and the others stand, whether or not the wrap ends the fold (R40). -/
theorem decayTrack_layers {t : TrackId} {s : State} (h : PoolsWithin s) {id : Nat}
    (hid : ∀ f, s.fold = some f → f.track = t → id ≠ f.older ∧ id ≠ f.newer ∧ id ≠ f.result) :
    ((s.decayTrack t).layer? id = if id ∈ s.fading t then none else (s.decayed t).layer? id)
      ∧ (Entry.single id ∈ ((s.decayTrack t).track t).stack ↔ Entry.single id ∈ (s.track t).stack ∧ id ∉ s.fading t) := by
  by_cases hm : ∀ j ∈ (s.decayed t).foldMembers t, j ∉ s.fading t
  · obtain ⟨-, hlayer, hstack⟩ := decayTrack_spared h hm
    exact ⟨hlayer id, hstack id⟩
  · have hfold := decayed_fold t s
    cases hf : s.fold with
    | none =>
      rw [hf] at hfold
      exact absurd (fun j hj => by simp [State.foldMembers, hfold] at hj) hm
    | some f =>
      rw [hf] at hfold
      by_cases ht : f.track = t
      · rw [Option.map_some, if_pos ht] at hfold
        have hmem := foldMembers_of_fold (t := t) hfold
        dsimp only at hmem
        rw [hmem, if_pos ht] at hm
        have hone : f.older ∈ s.fading t ∨ f.newer ∈ s.fading t := by
          by_contra hnone
          refine hm fun j hj => ?_
          simp only [List.mem_cons, List.not_mem_nil, or_false] at hj
          obtain rfl | rfl := hj
          · exact fun h => hnone (.inl h)
          · exact fun h => hnone (.inr h)
        obtain ⟨-, -, hlayer, hstack⟩ := decayTrack_ended h hf ht hone
        obtain ⟨h1, h2, h3⟩ := hid f hf ht
        refine ⟨(hlayer id).trans ?_, (hstack id).trans ?_⟩
        · by_cases hfade : id ∈ s.fading t
          · rw [if_pos (.inr hfade), if_pos hfade]
          · rw [if_neg (not_or.mpr ⟨h3, hfade⟩), if_neg (not_or.mpr ⟨h1, h2⟩), if_neg hfade]
        · simp [h1, h2]
      · rw [Option.map_some, if_neg ht] at hfold
        exact absurd (fun j hj => by simp [foldMembers_of_fold hfold, ht] at hj) hm

/-- Settles O30: decay by `decayTrack_layers` and `decayTrack_ended`, the roll by `roll_admitted` and `roll_refused`,
the close at the roll by `closeAtRoll_taken`. -/
theorem trackWrapsDecayAndRoll : Obligations.TrackWrapsDecayAndRoll := by
  unfold Obligations.TrackWrapsDecayAndRoll
  rintro t s d u rfl rfl
  refine ⟨rfl, fun hp hn g hg decays hdecays => ⟨fun id l hl hid => ?_, fun f lo ln hf ht hlo hln hdo hdn hro hrn => ?_⟩,
    fun id span len kept l r ho hsp hlen hl hr hk => ?_,
    fun id rolled span len age taken before n point l r hst ho hm hne hsp hlen hr hl himp hin hs htaken h1 hage hbefore hn
      c hc => ?_⟩
  · have hdec : decays id ↔ id ∈ s.decaying t := by rw [hdecays, mem_decaying]
    have hgl : g l.gain = scaleGain l.gain (s.track t).feedback := by rw [hg]; rfl
    obtain ⟨hlayer, hstack⟩ := decayTrack_layers hp hid
    have hfade : id ∈ s.fading t ↔ decays id ∧ g l.gain < 64 := by rw [mem_fading hn hl, ← hdec, ← hgl]
    rw [decayed_layer? hn, hl] at hlayer
    rw [hfade] at hstack
    refine ⟨fun hd => ?_, fun hd h64 => ⟨?_, fun hsin => ?_⟩, fun hd h64 => ⟨?_, fun hsin => ?_⟩⟩
    · rw [hlayer, if_neg (fun h => hd (hfade.mp h).1), if_neg (mt hdec.mpr hd)]
    · rw [hlayer, if_neg (fun h => absurd (hfade.mp h).2 (Nat.not_lt.mpr h64)), if_pos (hdec.mp hd), hgl]
      rfl
    · exact hstack.mpr ⟨hsin, fun h => absurd h.2 (Nat.not_lt.mpr h64)⟩
    · rw [hlayer, if_pos (hfade.mpr ⟨hd, h64⟩)]
    · exact (hstack.mp hsin).2 ⟨hd, h64⟩
  · have member : ∀ {j : Nat} {lj : Layer}, s.layer? j = some lj → decays j →
        (j ∈ s.fading t ↔ g lj.gain < 64)
          ∧ (s.decayed t).layer? j = some { lj with gain := g lj.gain } := fun {j lj} hj hd => by
      have hdj : j ∈ s.decaying t := by rwa [hdecays, ← mem_decaying] at hd
      have hgj : g lj.gain = scaleGain lj.gain (s.track t).feedback := by rw [hg]; rfl
      rw [mem_fading hn hj, decayed_layer? hn, if_pos hdj, hj, hgj]
      exact ⟨and_iff_right hdj, rfl⟩
    obtain ⟨hfo, hlo'⟩ := member hlo hdo
    obtain ⟨hfn, hln'⟩ := member hln hdn
    have hpend : g f.pendingGain = scaleGain f.pendingGain (s.track t).feedback := by rw [hg]; rfl
    have ended := fun hone : g lo.gain < 64 ∨ g ln.gain < 64 => decayTrack_ended hp hf ht (hone.imp hfo.mpr hfn.mpr)
    refine ⟨fun ho64 hn64 => ?_, fun hone => ?_, fun hgone => ?_, fun hgone => ?_, fun hgone hkept => ?_,
      fun hkept hgone => ?_⟩
    · have hold : f.older ∉ s.fading t := fun h => absurd (hfo.mp h) (Nat.not_lt.mpr ho64)
      have hnew : f.newer ∉ s.fading t := fun h => absurd (hfn.mp h) (Nat.not_lt.mpr hn64)
      have hfold : (s.decayed t).fold =
          some { f with pendingGain := max 64 (scaleGain f.pendingGain (s.track t).feedback) } := by
        rw [decayed_fold, hf, Option.map_some, if_pos ht]
      obtain ⟨hdf, hdl, -⟩ := decayTrack_spared hp fun j hj => by
        rw [foldMembers_of_fold hfold, if_pos ht] at hj
        simp only [List.mem_cons, List.not_mem_nil, or_false] at hj
        obtain rfl | rfl := hj
        · exact hold
        · exact hnew
      exact ⟨by rw [hdf, hfold, hpend], by rw [hdl, if_neg hold, hlo'], by rw [hdl, if_neg hnew, hln']⟩
    · obtain ⟨hdf, hdp, hdl, -⟩ := ended hone
      exact ⟨hdf, by rw [hdl, if_pos (.inl rfl)], hdp⟩
    · obtain ⟨-, -, hdl, -⟩ := ended (.inl hgone)
      rw [hdl, if_pos (.inr (hfo.mpr hgone))]
    · obtain ⟨-, -, hdl, -⟩ := ended (.inr hgone)
      rw [hdl, if_pos (.inr (hfn.mpr hgone))]
    · obtain ⟨-, -, hdl, hds⟩ := ended (.inl hgone)
      have hnew : f.newer ∉ s.fading t := fun h => absurd (hfn.mp h) (Nat.not_lt.mpr hkept)
      refine ⟨(hds _).mpr ⟨.inr (.inr rfl), hnew⟩, ?_⟩
      rw [hdl, if_neg (not_or.mpr ⟨hrn.symm, hnew⟩), if_pos (.inr rfl), hln']
      rfl
    · obtain ⟨-, -, hdl, hds⟩ := ended (.inr hgone)
      have hold : f.older ∉ s.fading t := fun h => absurd (hfo.mp h) (Nat.not_lt.mpr hkept)
      refine ⟨(hds _).mpr ⟨.inr (.inl rfl), hold⟩, ?_⟩
      rw [hdl, if_neg (not_or.mpr ⟨hro.symm, hold⟩), if_pos (.inl rfl), hlo']
      rfl
  · have hshown : s.cycle.shownLen = len := by simp [Cycle.shownLen, hlen]
    refine ⟨roll_stays ho hsp hl hr, fun hst hstamp e he => ⟨fun id' hid hlt hfree => ?_, fun code hcode => ?_⟩⟩
    · have hrolls := roll_admitted ho hsp hl hr (not_or.mpr ⟨hst, hstamp⟩) hid hlt hfree
      rw [hshown, ← hk] at hrolls
      exact ⟨hrolls.closed, hrolls.successor, hrolls.track, hrolls.record, hrolls.drains, by
        rw [he]
        exact hrolls.port⟩
    · obtain ⟨-, hfold, -, -, -, htr⟩ := rolledFrom_parts t id (span * s.cycle.shownLen - l.startQ) s
      have hfree := rolledFrom_freeId (t := t) (id := id) (n := span * s.cycle.shownLen - l.startQ) (s := s)
      obtain ⟨st, hroom, hcd⟩ : ∃ st, (s.rolledFrom t id (span * s.cycle.shownLen - l.startQ)).takeRoom t = .error st
          ∧ stackFullDetail st = code := by
        obtain ⟨rfl, hno⟩ | ⟨rfl, hid, hfull, hbusy⟩ := hcode
        · exact ⟨.noMemory, takeRoom_noRecord (hfree.trans hno), rfl⟩
        · obtain ⟨id', hid'⟩ := Option.isSome_iff_exists.mp hid
          refine ⟨.stackFull, takeRoom_full (hfree.trans hid') (by rw [htr]; exact hfull) (.inl (by rwa [hfold])), rfl⟩
      have href := roll_refused ho hsp hl hr (not_or.mpr ⟨hst, hstamp⟩) hroom
      rw [hshown, ← hk] at href
      exact ⟨href.closed, href.track, by
        rw [he, ← hcd]
        exact href.port⟩
  · have hback : s.cycle.keptAt r.startStamp (.back age point) = 0 := by
      show stampSub (stampAdd s.cycle.frameCount 1) r.startStamp - 1 - age = 0
      rw [← htaken]
      omega
    have hbef : s.cycle.cutBefore r.startStamp (.back age point) = before := by
      show age - (stampSub (stampAdd s.cycle.frameCount 1) r.startStamp - 1) = before
      rw [← htaken]
      omega
    have hclose := closeAtCut_unrolls (stop := false) hst ho hm hr hback
    rw [hbef] at hclose
    have hgone := closeAtRoll_gone t rolled id before hs
    have htake := closeAtRoll_taken (before := before) hs hsp hlen hne hl himp hin hn
    rw [hc, hclose]
    refine ⟨hgone.1, hgone.2.1, hgone.2.2, htake.gone, fun h0 => ?_, fun hone => ?_⟩
    · by_cases hw : n = l.length
      · exact ⟨htake.playing h0, _, htake.whole h0 hw, by rw [if_pos hw], fun h => absurd hw h⟩
      · refine ⟨htake.playing h0, _, htake.cut h0 hw, ?_, fun _ => rfl⟩
        rw [if_neg hw]
        rfl
    · have hnext : s.cycle.keptAt r.startStamp .arriving = 0 := by
        show stampSub (stampAdd s.cycle.frameCount 1) r.startStamp - 1 = 0
        rw [← htaken]
        omega
      have hzero : s.cycle.keptAt r.startStamp (.back 0 point) = 0 := by
        show stampSub (stampAdd s.cycle.frameCount 1) r.startStamp - 1 - 0 = 0
        rw [← htaken]
        omega
      have hcuts : s.cycle.cutBefore r.startStamp .arriving = s.cycle.cutBefore r.startStamp (.back 0 point) := by
        show 0 = 0 - (stampSub (stampAdd s.cycle.frameCount 1) r.startStamp - 1)
        omega
      rw [closeAtCut_unrolls hst ho hm hr hnext, closeAtCut_unrolls hst ho hm hr hzero, hcuts]

end Sys2Proof.Machine


/-! # O31: admission, and a fold started on a full stack -/

namespace Sys2Proof.Machine

open Sys2Proof

/-- A pool with fewer than 40 layers has a free id (2.3). -/
theorem freeId_of_few {s : State} {l : List Nat} (hl : l.length < 40) (h : ∀ j, s.layer? j ≠ none → j ∈ l) :
    ∃ id, s.freeId = some id := by
  by_contra hno
  have hnone : s.freeId = none := by
    cases e : s.freeId with
    | none => rfl
    | some id => exact absurd ⟨id, e⟩ hno
  unfold State.freeId at hnone
  have hsub : (List.range 40).map (· + 1) ⊆ l := fun j hj => h j fun hj' => by
    have := List.find?_eq_none.mp hnone j hj
    simp [hj'] at this
  have hnodup : ((List.range 40).map (· + 1)).Nodup := List.nodup_range.map fun _ _ e => Nat.succ.inj e
  have hlen := (List.subperm_of_subset hnodup hsub).length_le
  simp only [List.length_map, List.length_range] at hlen
  omega

theorem mem_keys {α : Type} {j : Nat} : ∀ {l : List (Nat × α)}, assocFind j l ≠ none → j ∈ l.map Prod.fst := by
  intro l
  induction l with
  | nil => exact fun h => absurd rfl h
  | cons x l ih =>
    obtain ⟨k, w⟩ := x
    unfold assocFind
    intro h
    split at h
    · next e => simp_all
    · exact List.mem_cons_of_mem _ (ih h)

/-! ### A result burst that takes a block (R45, R150) -/

theorem beginFoldBurst_taking {f : Fold} {s : State} {lr lo ln : Layer} {blk : Nat} {more : List Nat}
    (hf : s.fold = some f) (h0 : f.nextOff % 4096 = 0) (hm : s.mem.free = blk :: more)
    (hr : s.layer? f.result = some lr) (ho : s.layer? f.older = some lo) (hn : s.layer? f.newer = some ln)
    (hro : f.older ≠ f.result) (hrn : f.newer ≠ f.result) :
    ∃ reads : List FoldRead, s.beginFoldBurst =
      { ({ s with mem := { s.mem with free := more } }).setLayer f.result { lr with extents := lr.extents ++ [blk] } with
        fold := some { f with reads := reads, gotOlder := [], gotNewer := [], out := none, granted := false } } := by
  have halloc : s.allocate f.result = some (({ s with mem := { s.mem with free := more } }).setLayer f.result
      { lr with extents := lr.extents ++ [blk] }) := by
    unfold State.allocate
    rw [hr, hm]
  have hlay := fun j => layer?_setLayer f.result j { lr with extents := lr.extents ++ [blk] }
    { s with mem := { s.mem with free := more } }
  refine ⟨memberReads false lo (lr.startQ + f.nextOff) (lr.startQ + f.nextOff + f.burstLen lr)
    ++ memberReads true ln (lr.startQ + f.nextOff) (lr.startQ + f.nextOff + f.burstLen lr), ?_⟩
  unfold State.beginFoldBurst
  rw [hf]
  dsimp only
  rw [if_pos h0, halloc]
  dsimp only
  rw [hlay, hlay, hlay, if_pos rfl, if_neg hro, if_neg hrn]
  have ho' : ({ s with mem := { s.mem with free := more } } : State).layer? f.older = some lo := ho
  have hn' : ({ s with mem := { s.mem with free := more } } : State).layer? f.newer = some ln := hn
  rw [ho', hn']
  rfl

/-! ### A fold started (R30 step 3, R43) -/

/-- The result record of a fold of two layers, as it is made (R43). -/
def foldResult (t : TrackId) (la lb : Layer) : Layer :=
  { track := t, state := .folding, origin := .folded, start := .at (min la.startQ lb.startQ)
    length := max (la.startQ + la.length) (lb.startQ + lb.length) - min la.startQ lb.startQ
    cover := false, head := false, tail := false, gain := 32768, damaged := la.damaged || lb.damaged, holes := []
    extents := [], suspects := [], stored := [], creator := none, committed := 0, buf := ReadBuf.aimed 0 }

/-- The fold engine as a fold begins (R43). -/
def Fold.begun (t : TrackId) (a b rid : Nat) (la lb : Layer) (edge : Nat) (reads : List FoldRead) : Fold :=
  { track := t, older := a, newer := b, result := rid, gainOlder := la.gain, gainNewer := lb.gain, edge := edge
    pendingGain := 32768, nextOff := 0, clips := 0, reads := reads, gotOlder := [], gotNewer := [], out := none
    granted := false }

/-- What a fold started on the two oldest entries changes (R30, R43). -/
structure FoldStarted (t : TrackId) (a b rid : Nat) (rest : List Entry) (la lb : Layer) (blk : Nat) (more : List Nat)
    (s u : State) : Prop where
  track : ∀ t', u.track t' = if t = t' then { s.track t with stack := .pair a b :: rest } else s.track t'
  layer : ∀ j, u.layer? j = if j = rid then some { foldResult t la lb with extents := [blk] }
    else if j = b then some { lb with state := .folding } else if j = a then some { la with state := .folding }
    else s.layer? j
  free : u.mem.free = more
  fold : ∃ reads, u.fold = some (Fold.begun t a b rid la lb s.mixer.edge reads)

section
variable {t : TrackId} {a b rid blk : Nat} {rest : List Entry} {la lb : Layer} {more : List Nat} {s : State}

theorem startFold_started (ha : s.layer? a = some la) (hb : s.layer? b = some lb) (hr : s.layer? rid = none)
    (hm : s.mem.free = blk :: more) : FoldStarted t a b rid rest la lb blk more s (s.startFold t a b rid rest) := by
  have har : a ≠ rid := fun e => by rw [e, hr] at ha; cases ha
  have hbr : b ≠ rid := fun e => by rw [e, hr] at hb; cases hb
  obtain ⟨v, hv⟩ : ∃ v, v = (((s.setLayer a { la with state := .folding }).setLayer b
      { lb with state := .folding }).setLayer rid (foldResult t la lb)).modTrack t
        fun tr => { tr with stack := .pair a b :: rest } := ⟨_, rfl⟩
  obtain ⟨f, hf⟩ : ∃ f : Fold, f = Fold.begun t a b rid la lb s.mixer.edge [] := ⟨_, rfl⟩
  have hstart : s.startFold t a b rid rest = ({ v with fold := some f } : State).beginFoldBurst := by
    unfold State.startFold
    rw [ha, hb, hv, hf]
    rfl
  have hvl : ∀ j, v.layer? j = if j = rid then some (foldResult t la lb) else if j = b then some { lb with state := .folding }
      else if j = a then some { la with state := .folding } else s.layer? j := fun j => by
    rw [hv, layer?_modTrack, layer?_setLayer, layer?_setLayer, layer?_setLayer]
  have hvm : v.mem.free = blk :: more := by rw [hv]; exact hm
  have hvt : ∀ t', v.track t' = if t = t' then { s.track t with stack := .pair a b :: rest } else s.track t' := fun t' => by
    rw [hv]
    exact track_modTrack t t' _ _
  obtain ⟨lo, hlo⟩ : ∃ lo, v.layer? a = some lo := by
    rw [hvl, if_neg har]
    by_cases hab : a = b
    · exact ⟨_, if_pos hab⟩
    · exact ⟨_, (if_neg hab).trans (if_pos rfl)⟩
  obtain ⟨ln, hln⟩ : ∃ ln, v.layer? b = some ln := ⟨_, (hvl b).trans ((if_neg hbr).trans (if_pos rfl))⟩
  obtain ⟨reads, hbegin⟩ := beginFoldBurst_taking (s := { v with fold := some f }) (f := f) (lr := foldResult t la lb)
    (lo := lo) (ln := ln) rfl (by rw [hf]; rfl) hvm (by rw [hf]; exact (hvl rid).trans (if_pos rfl)) (by rw [hf]; exact hlo)
    (by rw [hf]; exact hln) (by rw [hf]; exact har) (by rw [hf]; exact hbr)
  rw [hstart, hbegin]
  have hres : f.result = rid := by rw [hf]; rfl
  refine ⟨hvt, fun j => ?_, rfl, reads, by rw [hf]; rfl⟩
  refine (layer?_setLayer f.result j _ { v with fold := some f, mem := { v.mem with free := more } }).trans ?_
  rw [hres]
  by_cases hj : j = rid
  · rw [if_pos hj, if_pos hj]
    rfl
  · refine (if_neg hj).trans ((hvl j).trans ?_)
    rw [if_neg hj, if_neg hj]

/-- A fold started leaves an id for the layer that asked for room (R30). -/
theorem startFold_freeId (ha : s.layer? a = some la) (hb : s.layer? b = some lb) (hr : s.layer? rid = none)
    (hm : s.mem.free = blk :: more) (hn : s.layers.length ≤ 38) : ∃ id, (s.startFold t a b rid rest).freeId = some id := by
  have hs := startFold_started (t := t) (rest := rest) ha hb hr hm
  refine freeId_of_few (l := rid :: s.layers.map Prod.fst) (by simp; omega) fun j hj => ?_
  rw [hs.layer] at hj
  by_cases hjr : j = rid
  · rw [hjr]
    exact List.mem_cons_self
  · refine List.mem_cons_of_mem _ (mem_keys ?_)
    rw [if_neg hjr] at hj
    show s.layer? j ≠ none
    by_cases hjb : j = b
    · rw [hjb, hb]
      exact Option.some_ne_none lb
    · by_cases hja : j = a
      · rw [hja, ha]
        exact Option.some_ne_none la
      · rwa [if_neg hjb, if_neg hja] at hj

theorem takeRoom_folds {id : Nat} (hid : s.freeId = some id) (h8 : 8 ≤ (s.track t).stack.length)
    (hst : (s.track t).stack = .single a :: .single b :: rest) (ha : s.layer? a = some la) (hac : la.state = .closed)
    (hb : s.layer? b = some lb) (hbc : lb.state = .closed) (hf : s.fold = none) (hm : s.mem.free = blk :: more)
    (hn : s.layers.length ≤ 38) : ∃ id', (s.startFold t a b id rest).freeId = some id'
      ∧ s.takeRoom t = .ok (s.startFold t a b id rest, id') := by
  obtain ⟨id', hid'⟩ := startFold_freeId (t := t) (rest := rest) ha hb (layer?_freeId hid) hm hn
  refine ⟨id', hid', ?_⟩
  have hcond : (s.fold.isNone && s.isClosed a && s.isClosed b && !s.mem.free.isEmpty
      && decide (2 ≤ 40 - s.layers.length)) = true := by
    rw [isClosed_iff.mpr ⟨la, ha, hac⟩, isClosed_iff.mpr ⟨lb, hb, hbc⟩, hf, hm]
    simp
    omega
  unfold State.takeRoom
  rw [hid]
  dsimp only
  rw [if_neg (Nat.not_lt.mpr h8), hst]
  dsimp only
  rw [if_pos hcond, hid']

end

/-! ### Admission refused (R30) -/

/-- Why no fold can start for a layer that asks for room on a full stack (R30, R43). -/
def State.NoFold (t : TrackId) (s : State) : Prop :=
  s.fold.isSome = true ∨ s.mem.free = [] ∨ 39 ≤ s.layers.length
    ∨ ¬ ∃ a b rest la lb, (s.track t).stack = .single a :: .single b :: rest ∧ s.layer? a = some la
        ∧ la.state = .closed ∧ s.layer? b = some lb ∧ lb.state = .closed

theorem takeRoom_error {t : TrackId} {st : Status} {s : State} (h : s.takeRoom t = .error st) :
    s.freeId = none ∧ st = .noMemory
      ∨ ∃ id, s.freeId = some id ∧ 8 ≤ (s.track t).stack.length ∧ s.NoFold t ∧ st = .stackFull := by
  cases hid : s.freeId with
  | none =>
    rw [takeRoom_noRecord hid] at h
    exact .inl ⟨rfl, (Except.error.inj h).symm⟩
  | some id =>
    refine .inr ⟨id, rfl, ?_⟩
    by_cases h8 : (s.track t).stack.length < 8
    · rw [takeRoom_room hid h8] at h
      cases h
    · have h8 := Nat.not_lt.mp h8
      have hno : s.NoFold t := by
        by_contra hcan
        simp only [State.NoFold, not_or, Bool.not_eq_true, Option.isSome_eq_false_iff, Option.isNone_iff_eq_none,
          Nat.not_le, not_not] at hcan
        obtain ⟨hf, hm, hn, a, b, rest, la, lb, hst, ha, hac, hb, hbc⟩ := hcan
        obtain ⟨blk, more, hm⟩ := List.exists_cons_of_ne_nil hm
        obtain ⟨id', -, hok⟩ := takeRoom_folds hid h8 hst ha hac hb hbc hf hm (by omega)
        rw [hok] at h
        cases h
      refine ⟨h8, hno, ?_⟩
      rw [takeRoom_full hid h8 hno] at h
      exact (Except.error.inj h).symm

/-- Admission is refused alike in a state that differs in the cue list and the ports (R30). -/
theorem takeRoom_error_beside {t : TrackId} {st : Status} {s x : State} (hx : BesideCues s x)
    (h : s.takeRoom t = .error st) : x.takeRoom t = .error st := by
  obtain ⟨hid, rfl⟩ | ⟨id, hid, h8, hno, rfl⟩ := takeRoom_error h
  · exact takeRoom_noRecord ((freeId_beside hx).trans hid)
  · refine takeRoom_full ((freeId_beside hx).trans hid) (by rwa [hx.track]) ?_
    rw [hx.fold, hx.mem, hx.layers, hx.track]
    simp only [hx.layer?]
    exact hno

/-- With quantum NONE on a RUNNING cycle an action acts at the current frame (R17). -/
theorem dueOf_running_none {a : Action} {press : PressTime} {s : State} (hp : s.power.part ≠ .rest)
    (hc : s.cycle.state = .running) : s.dueOf a .none press = .atOnce s.cycle.current := by
  unfold State.dueOf
  dsimp only
  rw [if_neg hp, hc]
  cases s.cycle.len <;> rfl

theorem actLayer_refused {t : TrackId} {cover : Bool} {k : Cut} {st : Status} {s : State}
    (hpl : (s.track t).state = .playing) (hsp : (s.track t).span.isSome = true) (hr : s.takeRoom t = .error st) :
    s.actLayer t cover k = .error st := by
  obtain ⟨span, hsp⟩ := Option.isSome_iff_exists.mp hsp
  unfold State.actLayer
  rw [hpl, hsp, hr]

/-- OVERDUB and REPLACE with quantum NONE answer the status of the admission that refused them (R30, R31). -/
theorem exec_layer_refused {h : Req} {cover : Bool} {t : TrackId} {tb : Byte} {st : Status} {s : State}
    (hs : s.serves h 2) (hp : s.power.part ≠ .rest) (hc : s.cycle.state = .running) (ht : argTrack tb = some t)
    (hpl : (s.track t).state = .playing) (hsp : (s.track t).span.isSome = true) (hr : s.takeRoom t = .error st) :
    exec (if cover then .replace h tb 0 else .overdub h tb 0) s =
      .next ((s.handedOn h (if cover then 34 else 33)).replied h (if cover then 34 else 33) st []) := by
  have hst : st ≠ .ok := by
    obtain ⟨-, rfl⟩ | ⟨-, -, -, -, rfl⟩ := takeRoom_error hr <;> decide
  have refused : ∀ (a : Action) (code : Nat), a.code = code → a.argLen = 2 → a.targetOf tb = some (some t) →
      (∀ x : State, (x.beforeAct a (some t)).act a (some t) .next = x.actLayer t cover .next) →
      exec (a.request h tb 0) s = .next ((s.handedOn h code).replied h code st []) := fun a code hcode hlen htg hact => by
    subst hcode
    have hx := BesideCues.handedOn h a.code s
    refine exec_actionRequest_refused (target := some t) (q := .none) (by rwa [hlen]) rfl htg hst
      (quantised_refusedAtOnce ((dueOf_handedOn _ _ _ _ _ _).trans (dueOf_running_none hp hc)) ?_)
    refine (hact _).trans (actLayer_refused ?_ ?_ (takeRoom_error_beside hx hr))
    · rwa [hx.track]
    · rwa [hx.track]
  cases cover with
  | true => exact refused .replace 34 rfl rfl (by simp [Action.targetOf, Action.isAll, ht]) fun _ => rfl
  | false => exact refused .overdub 33 rfl rfl (by simp [Action.targetOf, Action.isAll, ht]) fun _ => rfl

end Sys2Proof.Machine


/-! # O31: a fold's samples, its end, and UNDO of its pair -/

namespace Sys2Proof.Machine

open Sys2Proof

/-! ### The samples of a result burst (R44) -/

theorem foldSample_toInt (l : Layer) (got : List (Nat × Sample)) (q : Nat) : (foldSample l got q).toInt =
    if l.startQ ≤ q ∧ q < l.startQ + l.length then ((assocFind (q - l.startQ) got).getD 0).toInt else 0 := by
  have hin : (l.startQ ≤ q ∧ q - l.startQ < l.length) ↔ l.startQ ≤ q ∧ q < l.startQ + l.length := by omega
  unfold foldSample
  by_cases h : l.startQ ≤ q ∧ q < l.startQ + l.length
  · rw [if_pos h, if_pos (hin.mpr h)]
  · rw [if_neg h, if_neg (mt hin.mp h)]
    rfl

theorem coverWeight_eq (edge q start length : Nat) (head tail : Bool) : coverWeight edge q start length head tail =
    if start ≤ q ∧ q < start + length then 32768 - edgeWeight edge (q - start) length head tail else 32768 := by
  have hin : (start ≤ q ∧ q - start < length) ↔ start ≤ q ∧ q < start + length := by omega
  unfold coverWeight
  exact if_congr hin rfl rfl

/-- With no read left the burst at hand is formed, and its clamps counted (R44, R150). -/
theorem settleFold_forms {f : Fold} {lo ln lr : Layer} {s : State} (hf : s.fold = some f) (hg : f.granted = false)
    (hout : f.out = none) (hr : f.reads = []) (hlo : s.layer? f.older = some lo) (hln : s.layer? f.newer = some ln)
    (hlr : s.layer? f.result = some lr) {sums : List Int} {n : Nat}
    (hs : sums = (List.range (f.burstLen lr)).map fun i => f.sumAt lo ln (lr.startQ + f.nextOff + i))
    (hn : n = (sums.filter clamps24).length) : s.settleFold =
      { s.setTrack f.track { s.track f.track with foldClips := min 65535 ((s.track f.track).foldClips + n) } with
        fold := some { f with out := some (sums.map clamp24), clips := min 65535 (f.clips + n) } } := by
  have hp : s.pendingReads f = [] := by rw [State.pendingReads, hr, List.dropWhile_nil]
  unfold State.settleFold
  rw [hf]
  dsimp only
  rw [hg, hout, hp, hlo, hln, hlr]
  subst hn hs
  obtain ⟨_, _, _, _, _, _, _, _, _, _, reads, _, _, _, _⟩ := f
  subst hr
  rfl

/-! ### A completed fold (R47) -/

theorem withoutWindow_grant (id : Nat) (p : Port) (m : MemCtl) : (m.withoutWindow id p).grant = m.grant := by
  unfold MemCtl.withoutWindow
  cases p <;> dsimp only <;> split <;> rfl

/-- With the memory free, freeing a layer grants nothing (R28). -/
theorem freeLayer_grantNone {s : State} (c : LostCause) (id : Nat) (h : s.mem.grant = none) :
    (s.freeLayer c id).mem.grant = none := by
  cases hl : s.layer? id with
  | none => rwa [freeLayer_none hl]
  | some l =>
    obtain ⟨a, b, e⟩ := freeLayer_mem (c := c) hl
    have hg : ((s.mem.withoutWindow id .a).withoutWindow id .b).grant = none := by
      rw [withoutWindow_grant, withoutWindow_grant, h]
    rw [e]
    show (((s.mem.withoutWindow id .a).withoutWindow id .b).grant).map (Grant.orphan id) = none
    rw [hg]
    rfl

/-- The state of a fold at its completion, or as it is given up, before layers are freed. -/
structure FoldHeld (f : Fold) (lo ln lr : Layer) (s : State) : Prop where
  fold : s.fold = some f
  sorted : s.layers.Pairwise (fun e f => e.1 < f.1)
  older : s.layer? f.older = some lo
  newer : s.layer? f.newer = some ln
  result : s.layer? f.result = some lr
  distinct : f.older ≠ f.newer ∧ f.result ≠ f.older ∧ f.result ≠ f.newer

/-- A stack with the result of a fold in the place of its pair. -/
def Fold.placeResult (f : Fold) (l : List Entry) : List Entry :=
  l.map fun e => if e = .pair f.older f.newer then .single f.result else e

/-- What a completed fold leaves (R47, R149). -/
structure FoldCompleted (f : Fold) (lo ln lr : Layer) (s u : State) : Prop where
  fold : u.fold = none
  older : u.layer? f.older = none
  newer : u.layer? f.newer = none
  result : ∃ b, u.layer? f.result = some { lr with
      state := .closed, gain := f.pendingGain, damaged := lr.damaged || (lo.damaged || ln.damaged), buf := b }
    ∧ (CycleInRange s.cycle → b = s.cycle.aimedBuffer (s.track lr.track).span lr.startQ lr.length)
  track : u.track f.track = { s.track f.track with stack := f.placeResult (s.track f.track).stack }
  grant : s.mem.grant = none → u.mem.grant = none
  free : u.mem.free = s.mem.free ++ lo.extents.filter (fun b => !lo.suspects.contains b)
    ++ ln.extents.filter (fun b => !ln.suspects.contains b)
  ports : s.window .a = none → s.window .b = none → ∀ p, u.port p =
    (s.port p).offer (s.event .foldDone (some f.track) (some f.result) none f.clips)

/-- The result closed in the pair's place, the members still in the pool (R47). -/
def State.foldResultIn (f : Fold) (damaged : Bool) (s : State) : State :=
  ((State.setWait .fold Wait.idle { s with fold := none }).modLayer f.result fun l =>
    { l with state := .closed, gain := f.pendingGain, damaged := l.damaged || damaged }).modTrack f.track fun tr =>
      { tr with stack := f.placeResult tr.stack }

theorem foldResultIn_parts (f : Fold) (damaged : Bool) (s : State) : (s.foldResultIn f damaged).fold = none
    ∧ (s.foldResultIn f damaged).cycle = s.cycle ∧ (s.foldResultIn f damaged).portA = s.portA
    ∧ (s.foldResultIn f damaged).portB = s.portB ∧ (s.foldResultIn f damaged).mem.free = s.mem.free
    ∧ (s.foldResultIn f damaged).mem.grant = s.mem.grant
    ∧ (∀ p, (s.foldResultIn f damaged).window p = s.window p)
    ∧ (∀ t, ((s.foldResultIn f damaged).track t).span = (s.track t).span) := by
  obtain ⟨l, hl⟩ := modLayer_layersOnly f.result (fun l =>
    { l with state := .closed, gain := f.pendingGain, damaged := l.damaged || damaged })
    (State.setWait .fold Wait.idle { s with fold := none })
  have htr : ∀ t, ((s.foldResultIn f damaged).track t).span = (s.track t).span := fun t => by
    unfold State.foldResultIn
    rw [track_modTrack, track_modLayer, track_modLayer]
    split
    · next e => rw [← e]; rfl
    · rfl
  refine ⟨?_, ?_, ?_, ?_, ?_, ?_, fun p => ?_, htr⟩ <;> rw [State.foldResultIn, hl]
  · rfl
  · rfl
  · rfl
  · rfl
  · rfl
  · rfl
  · cases p <;> rfl

theorem foldResultIn_layer? (f : Fold) (damaged : Bool) (s : State) (j : Nat) : (s.foldResultIn f damaged).layer? j =
    if j = f.result then (s.layer? f.result).map fun l =>
      { l with state := .closed, gain := f.pendingGain, damaged := l.damaged || damaged } else s.layer? j :=
  layer?_modLayer f.result j _ (State.setWait .fold Wait.idle { s with fold := none })

theorem foldResultIn_track (f : Fold) (damaged : Bool) (s : State) : (s.foldResultIn f damaged).track f.track =
    { s.track f.track with stack := f.placeResult (s.track f.track).stack } := by
  unfold State.foldResultIn
  rw [track_modTrack, if_pos rfl, track_modLayer]
  rfl

theorem foldResultIn_sorted {s : State} (f : Fold) (damaged : Bool) (h : s.layers.Pairwise (fun e f => e.1 < f.1)) :
    (s.foldResultIn f damaged).layers.Pairwise (fun e f => e.1 < f.1) :=
  ((Spares.refl 0 (fun _ => True) (State.setWait .fold Wait.idle { s with fold := none })).modLayer trivial _).sorted h

theorem completeFold_completed {f : Fold} {lo ln lr : Layer} {s : State} (h : FoldHeld f lo ln lr s) :
    FoldCompleted f lo ln lr s s.completeFold := by
  obtain ⟨hf, hs, hlo, hln, hlr, hon, hro, hrn⟩ := h
  obtain ⟨damaged, hdam⟩ : ∃ d, d = [f.older, f.newer].any fun id => ((s.layer? id).map Layer.damaged).getD false := ⟨_, rfl⟩
  have hcomplete : s.completeFold = ((((s.foldResultIn f damaged).freeLayer .folded f.older).freeLayer .folded
      f.newer).reaim f.result).raise .foldDone (some f.track) (some f.result) f.clips := by
    unfold State.completeFold
    rw [hf, hdam]
    rfl
  have hdam : damaged = (lo.damaged || ln.damaged) := by
    rw [hdam]
    simp [hlo, hln]
  obtain ⟨hvf, hvc, hva, hvb, hvm, hvg, hvw, hvsp⟩ := foldResultIn_parts f damaged s
  have hvl := foldResultIn_layer? f damaged s
  have hvt := foldResultIn_track f damaged s
  have hvs := foldResultIn_sorted f damaged hs
  generalize s.foldResultIn f damaged = v at *
  have hvo : v.layer? f.older = some lo := by rw [hvl, if_neg hro.symm, hlo]
  have h1 := freedAs_freeLayer (c := .folded) hvs hvo
  have htr1 := fun t => freeLayer_track .folded f.older t v
  have hcy1 := (freeLayer_cyc .folded f.older v).trans hvc
  have hfo1 := (freeLayer_fold .folded f.older v).trans hvf
  have hgr1 := fun h : s.mem.grant = none => freeLayer_grantNone .folded f.older (hvg.trans h)
  generalize v.freeLayer .folded f.older = v1 at *
  have hvn : v1.layer? f.newer = some ln := by
    rw [h1.layer, if_neg (by simpa using hon.symm), hvl, if_neg hrn.symm, hln]
  have h2 := freedAs_freeLayer (c := .folded) (h1.sorted hvs) hvn
  have htr2 := fun t => (freeLayer_track .folded f.newer t v1).trans (htr1 t)
  have hcy2 := (freeLayer_cyc .folded f.newer v1).trans hcy1
  have hfo2 := (freeLayer_fold .folded f.newer v1).trans hfo1
  have hgr2 := fun h : s.mem.grant = none => freeLayer_grantNone .folded f.newer (hgr1 h)
  generalize v1.freeLayer .folded f.newer = v2 at *
  have hlay : ∀ j, v2.layer? j = if j = f.newer ∨ j = f.older then none else v.layer? j := fun j => by
    rw [h2.layer, h1.layer]
    by_cases hn : j = f.newer <;> by_cases ho : j = f.older <;> simp [hn, ho]
  have hres : v2.layer? f.result = some { lr with
      state := .closed, gain := f.pendingGain, damaged := lr.damaged || damaged } := by
    rw [hlay, if_neg (not_or.mpr ⟨hrn, hro⟩), hvl, if_pos rfl, hlr]
    rfl
  have hu := BesideCues.raise .foldDone (some f.track) (some f.result) f.clips (v2.reaim f.result)
  obtain ⟨l3, hl3⟩ := modLayer_layersOnly f.result (fun l => { l with buf := ReadBuf.aimed (v2.aimOf l) }) v2
  have hreaim : ∀ j, (v2.reaim f.result).layer? j = if j = f.result then
      (v2.layer? f.result).map fun l => { l with buf := ReadBuf.aimed (v2.aimOf l) } else v2.layer? j :=
    fun j => layer?_modLayer f.result j _ v2
  have hfree : v2.mem.free = s.mem.free ++ lo.extents.filter (fun b => !lo.suspects.contains b)
      ++ ln.extents.filter (fun b => !ln.suspects.contains b) := by
    rw [h2.free, h1.free, hvm]
    simp only [List.flatMap_cons, List.flatMap_nil, List.append_nil, hvo, hvn]
  rw [hcomplete]
  refine ⟨hu.fold.trans ?_, ?_, ?_, ⟨ReadBuf.aimed (v2.aimOf { lr with
    state := .closed, gain := f.pendingGain, damaged := lr.damaged || damaged }), ?_, fun hcr => ?_⟩, ?_, fun hg => ?_,
    ?_, fun ha hb p => ?_⟩
  · rw [State.reaim, fold_modLayer, hfo2]
  · rw [hu.layer?, hreaim, if_neg hro.symm, hlay, if_pos (.inr rfl)]
  · rw [hu.layer?, hreaim, if_neg hrn.symm, hlay, if_pos (.inl rfl)]
  · rw [hu.layer?, hreaim, if_pos rfl, hres, ← hdam]
    rfl
  · refine (aimed_aimOf fun hrun => ?_).trans ?_
    · rw [hcy2] at hrun ⊢
      exact hcr.present.mpr (.inl hrun)
    · rw [hcy2]
      refine congrArg (fun sp => s.cycle.aimedBuffer sp lr.startQ lr.length) ?_
      rw [htr2]
      exact hvsp lr.track
  · rw [hu.track, State.reaim, track_modLayer, htr2, hvt]
  · rw [hu.mem, State.reaim, mem_modLayer, hgr2 hg]
  · rw [hu.mem, State.reaim, mem_modLayer, hfree]
  · obtain ⟨ha1, hb1⟩ := h1.ports ((hvw .a).trans ha) ((hvw .b).trans hb)
    obtain ⟨ha2, hb2⟩ := h2.ports (by rw [h1.win, hvw, ha]; rfl) (by rw [h1.win, hvw, hb]; rfl)
    have hport : (v2.reaim f.result).port p = s.port p := by
      refine port_congr ?_ ?_ p <;> rw [State.reaim, hl3]
      · exact ha2.trans (ha1.trans hva)
      · exact hb2.trans (hb1.trans hvb)
    rw [port_raise, hport]
    refine congrArg (fun e => (s.port p).offer e) ?_
    unfold State.event
    rw [reaim_cyc, hcy2]

/-! ### A fold given up (R48) -/

theorem unfoldMembers_layersOnly (keep : List Nat) : ∀ s : State,
    ∃ l, keep.foldl (fun s id => State.unfoldMember id s) s = { s with layers := l } := by
  induction keep with
  | nil => exact fun s => ⟨s.layers, rfl⟩
  | cons id keep ih =>
    intro s
    obtain ⟨l, hl⟩ := modLayer_layersOnly id (fun l => { l with state := .closed }) s
    obtain ⟨l', hl'⟩ := ih (s.unfoldMember id)
    refine ⟨l', hl'.trans ?_⟩
    rw [State.unfoldMember, hl]

theorem endFold_ports {f : Fold} {lr : Layer} {s : State} (hs : s.layers.Pairwise (fun e f => e.1 < f.1))
    (hr : s.layer? f.result = some lr) (ha : s.window .a = none) (hb : s.window .b = none) (p : Port) :
    (s.endFold f).port p = s.port p := by
  have hf := freedAs_freeLayer (c := .cleared) (s := State.setWait .fold Wait.idle { s with fold := none }) hs hr
  obtain ⟨h1, h2⟩ := hf.ports ha hb
  exact port_congr h1 h2 p

/-- A fold split tells of it by one event, where no window is lost with the result (R48). -/
theorem splitFold_port {f : Fold} {cause : FoldCause} {keep : List Nat} {lr : Layer} {s : State}
    (hs : s.layers.Pairwise (fun e f => e.1 < f.1)) (hr : s.layer? f.result = some lr) (ha : s.window .a = none)
    (hb : s.window .b = none) (p : Port) : (s.splitFold f cause keep).port p =
      (s.port p).offer (s.event .foldAbandoned (some f.track) (some f.result) none cause.ctorIdx) := by
  obtain ⟨l, hl⟩ := unfoldMembers_layersOnly keep ((s.endFold f).modTrack f.track fun tr =>
    { tr with stack := splitPair keep tr.stack })
  have hp := endFold_ports hs hr ha hb p
  refine (port_raise _ _ _ _ _ p).trans ?_
  rw [hl, ← hp]
  have he : (s.endFold f).event .foldAbandoned (some f.track) (some f.result) none cause.ctorIdx =
      s.event .foldAbandoned (some f.track) (some f.result) none cause.ctorIdx := by
    unfold State.event
    rw [endFold_cyc]
  rw [← he]
  cases p <;> rfl

theorem splitFold_cyc (f : Fold) (cause : FoldCause) (keep : List Nat) (s : State) :
    (s.splitFold f cause keep).cycle = s.cycle := by
  obtain ⟨l, hl⟩ := unfoldMembers_layersOnly keep ((s.endFold f).modTrack f.track fun tr =>
    { tr with stack := splitPair keep tr.stack })
  refine (raise_cyc _ _ _ _ _).trans ?_
  rw [hl]
  exact endFold_cyc f s

theorem splitFold_window {f : Fold} {cause : FoldCause} {keep : List Nat} {lr : Layer} {s : State}
    (hs : s.layers.Pairwise (fun e f => e.1 < f.1)) (hr : s.layer? f.result = some lr) {p : Port}
    (h : s.window p = none) : (s.splitFold f cause keep).window p = none := by
  obtain ⟨l, hl⟩ := unfoldMembers_layersOnly keep ((s.endFold f).modTrack f.track fun tr =>
    { tr with stack := splitPair keep tr.stack })
  have hw : (s.endFold f).window p = none := by
    have hf := freedAs_freeLayer (c := .cleared) (s := State.setWait .fold Wait.idle { s with fold := none }) hs hr
    refine (hf.win p).trans ?_
    have hn : (State.setWait .fold Wait.idle { s with fold := none }).window p = none := by cases p <;> exact h
    rw [hn]
    rfl
  refine ((BesideCues.raise _ _ _ _ _).window p).trans ?_
  rw [hl]
  exact hw

theorem splitFold_sorted {f : Fold} {cause : FoldCause} {keep : List Nat} {s : State}
    (hs : s.layers.Pairwise (fun e f => e.1 < f.1)) :
    (s.splitFold f cause keep).layers.Pairwise (fun e f => e.1 < f.1) := by
  have he : (s.endFold f).layers.Pairwise (fun e f => e.1 < f.1) :=
    ((Spares.refl 0 (fun _ => True) (State.setWait .fold Wait.idle { s with fold := none })).freeLayer .cleared
      trivial).sorted hs
  have hk : ∀ (keep : List Nat) (v : State), v.layers.Pairwise (fun e f => e.1 < f.1) →
      (keep.foldl (fun s id => State.unfoldMember id s) v).layers.Pairwise (fun e f => e.1 < f.1) := by
    intro keep
    induction keep with
    | nil => exact fun _ h => h
    | cons id keep ih =>
      exact fun v h => ih _ (((Spares.refl 0 (fun _ => True) v).modLayer trivial _).sorted h)
  exact hk keep _ he

/-- A fold given up for want of a block, on a track with room for its members or with one entry too many (R48). -/
structure FoldGivenUp (f : Fold) (lo ln : Layer) (rest : List Entry) (s u : State) : Prop where
  fold : u.fold = none
  result : u.layer? f.result = none
  newer : u.layer? f.newer = some { ln with state := .closed }
  both : rest.length < 7 → (u.track f.track).stack = .single f.older :: .single f.newer :: rest
    ∧ u.layer? f.older = some { lo with state := .closed }
  one : rest.length = 7 → (u.track f.track).stack = .single f.newer :: rest ∧ u.layer? f.older = none
  port : s.window .a = none → s.window .b = none → ∀ p, u.port p = (if rest.length = 7 then
      ((s.port p).offer (s.event .foldAbandoned (some f.track) (some f.result) none 3)).offer
        (s.event .layerRetired none (some f.older) none lo.gain)
    else (s.port p).offer (s.event .foldAbandoned (some f.track) (some f.result) none 3))

theorem abandonFold_givenUp {f : Fold} {lo ln lr : Layer} {rest : List Entry} {s : State} (h : FoldHeld f lo ln lr s)
    (hst : (s.track f.track).stack = .pair f.older f.newer :: rest) (hp : stackPairs rest = [])
    (hor : Entry.single f.older ∉ rest) (h7 : rest.length ≤ 7) :
    FoldGivenUp f lo ln rest s (s.abandonFold .noMemory [f.older, f.newer]) := by
  obtain ⟨hf, hs, hlo, hln, hlr, hon, hro, hrn⟩ := h
  have hlay := splitFold_layer? (f := f) hs .noMemory [f.older, f.newer]
  have hstack : ((s.splitFold f .noMemory [f.older, f.newer]).track f.track).stack =
      .single f.older :: .single f.newer :: rest := by
    rw [splitFold_track, if_pos rfl]
    simp [hst, splitPair, splitPair_noPairs _ hp]
  have hport := fun ha hb p => splitFold_port (cause := .noMemory) (keep := [f.older, f.newer]) hs hlr ha hb p
  have hcy := splitFold_cyc f .noMemory [f.older, f.newer] s
  have hfold := splitFold_fold f .noMemory [f.older, f.newer] s
  have hsorted := splitFold_sorted (f := f) (cause := .noMemory) (keep := [f.older, f.newer]) hs
  have hwin := fun p => splitFold_window (p := p) (cause := .noMemory) (keep := [f.older, f.newer]) hs hlr
  rw [abandonFold_split hf (by decide)]
  dsimp only
  generalize s.splitFold f .noMemory [f.older, f.newer] = v at *
  have hvr : v.layer? f.result = none := by rw [hlay, if_pos rfl]
  have hvo : v.layer? f.older = some { lo with state := .closed } := by
    rw [hlay, if_neg hro.symm, if_pos (by simp), hlo]
    rfl
  have hvn : v.layer? f.newer = some { ln with state := .closed } := by
    rw [hlay, if_neg hrn.symm, if_pos (by simp), hln]
    rfl
  by_cases hlen : rest.length = 7
  · rw [if_neg (by rw [hstack]; simp [hlen])]
    have hu := BesideCues.raise .layerRetired none (some f.older) (((v.layer? f.older).map Layer.gain).getD 0)
      ((v.freeLayer .retired f.older).modTrack f.track (Track.dropLayer f.older))
    refine ⟨?_, ?_, ?_, fun hlt => absurd hlt (by omega), fun _ => ⟨?_, ?_⟩, fun ha hb p => ?_⟩
    · exact hu.fold.trans ((freeLayer_fold _ _ _).trans hfold)
    · rw [hu.layer?, layer?_modTrack, freeLayer_other _ hro, hvr]
    · rw [hu.layer?, layer?_modTrack, freeLayer_other _ hon.symm, hvn]
    · rw [hu.track, track_modTrack, if_pos rfl, freeLayer_track]
      show (v.track f.track).stack.filter _ = _
      rw [hstack]
      have hrest : rest.filter (fun e => e != .single f.older) = rest :=
        List.filter_eq_self.mpr fun e he => bne_iff_ne.mpr fun (e' : e = .single f.older) => hor (e' ▸ he)
      simp [hrest, hon.symm]
    · rw [hu.layer?, layer?_modTrack]
      exact freeLayer_gone _ _ hsorted
    · have hfree := freedAs_freeLayer (c := .retired) hsorted hvo
      obtain ⟨h1, h2⟩ := hfree.ports (hwin .a ha) (hwin .b hb)
      have hpv : ((v.freeLayer .retired f.older).modTrack f.track (Track.dropLayer f.older)).port p = v.port p :=
        port_congr (s := v) h1 h2 p
      rw [if_pos hlen, port_raise, hpv, hport ha hb]
      refine congrArg (fun e => PortCtl.offer e _) ?_
      unfold State.event
      rw [modTrack_cyc, freeLayer_cyc, hcy, hvo]
      rfl
  · rw [if_pos (by rw [hstack]; simp; omega)]
    refine ⟨hfold, hvr, hvn, fun _ => ⟨hstack, hvo⟩, fun h => absurd h hlen, fun ha hb p => ?_⟩
    rw [if_neg hlen, hport ha hb]
    rfl

theorem beginFoldBurst_starved {f : Fold} {s : State} (hf : s.fold = some f) (h0 : f.nextOff % 4096 = 0)
    (hm : s.mem.free = []) : s.beginFoldBurst = s.abandonFold .noMemory [f.older, f.newer] := by
  have halloc : s.allocate f.result = none := by
    unfold State.allocate
    rw [hm]
    split <;> simp_all
  unfold State.beginFoldBurst
  rw [hf]
  dsimp only
  rw [if_pos h0, halloc]

/-! ### FOLD BURST COMPLETE of a result write (R45, R47) -/

/-- The state in which a result write is stored and its fold goes on (R45). -/
def State.resultStored (f : Fold) (blk : Option Nat) (o : Nat) (xs : List Sample) (s : State) : State :=
  { (State.modLayer f.result (Layer.store o xs.length)
      { s with mem := ({ s.mem with grant := none } : MemCtl).storeBurst blk o xs }) with
    fold := some { f with nextOff := o + xs.length, out := none, granted := false } }

theorem exec_foldWrite {f : Fold} {lr : Layer} {blk : Option Nat} {o : Nat} {xs : List Sample} {checks : List WordCheck}
    {s : State} (hp : s.power.resetHeld = false) (hg : s.mem.grant = some (.foldWrite blk o xs)) (hf : s.fold = some f)
    (hgr : f.granted = true) (hout : f.out.isSome = true) (hlr : s.layer? f.result = some lr) :
    exec (.foldBurstComplete checks) s = .next (if lr.length ≤ o + xs.length then
      (s.resultStored f blk o xs).completeFold else (s.resultStored f blk o xs).beginFoldBurst).settle := by
  obtain ⟨st, hst, -⟩ := store_eq lr o xs.length
  have hlive : exec (.foldBurstComplete checks) s = .next (((s.setGrant none).foldWriteDone blk o xs).settle) := by
    show execFoldBurstComplete checks s = _
    unfold execFoldBurstComplete State.whenLive State.completeFoldBurst
    rw [hp, hg]
    rfl
  have hlen : ((s.resultStored f blk o xs).layer? f.result).map Layer.length = some lr.length := by
    refine (congrArg (Option.map Layer.length) (layer?_modLayer f.result f.result _ _)).trans ?_
    rw [if_pos rfl]
    have hl : ({ s with mem := ({ s.mem with grant := none } : MemCtl).storeBurst blk o xs } : State).layer? f.result =
        some lr := hlr
    rw [hl, Option.map_some, hst]
    rfl
  have hdone : (s.setGrant none).foldWriteDone blk o xs =
      if (((s.resultStored f blk o xs).layer? f.result).map Layer.length).getD 0 ≤ o + xs.length then
        (s.resultStored f blk o xs).completeFold else (s.resultStored f blk o xs).beginFoldBurst := by
    unfold State.foldWriteDone State.setGrant State.resultStored
    dsimp only
    rw [hf]
    dsimp only
    rw [hgr, hout]
    rfl
  rw [hlive, hdone, hlen]
  rfl

/-- Storing a burst changes the words of the loop memory alone (R137). -/
theorem storeBurst_wordsOnly (m : MemCtl) (blk : Option Nat) (o : Nat) (xs : List Sample) :
    ∃ w, m.storeBurst blk o xs = { m with words := w } := by
  unfold MemCtl.storeBurst
  cases blk with
  | none => exact ⟨m.words, rfl⟩
  | some b => exact ⟨_, rfl⟩

end Sys2Proof.Machine


/-! # O31: FOLD BURST COMPLETE, UNDO of the pair, and the obligation -/

namespace Sys2Proof.Machine

open Sys2Proof

/-! ### The state of a stored result write (R45) -/

/-- The fold engine as a result write's completion leaves it (R45). -/
def Fold.written (f : Fold) (o n : Nat) : Fold := { f with nextOff := o + n, out := none, granted := false }

section
variable {f : Fold} {lo ln lr : Layer} {s : State} (blk : Option Nat) (o : Nat) (xs : List Sample)

theorem resultStored_held (h : FoldHeld f lo ln lr s) : ∃ st, FoldHeld (f.written o xs.length) lo ln
    { lr with stored := st } (s.resultStored f blk o xs) := by
  obtain ⟨-, hs, hlo, hln, hlr, hon, hro, hrn⟩ := h
  obtain ⟨st, hst, -⟩ := store_eq lr o xs.length
  have hlay : ∀ j, (s.resultStored f blk o xs).layer? j =
      if j = f.result then (s.layer? f.result).map (Layer.store o xs.length) else s.layer? j := fun j =>
    layer?_modLayer f.result j (Layer.store o xs.length)
      { s with mem := ({ s.mem with grant := none } : MemCtl).storeBurst blk o xs }
  have hsorted : (s.resultStored f blk o xs).layers.Pairwise (fun e f => e.1 < f.1) :=
    ((Spares.refl 0 (fun _ => True) { s with mem := ({ s.mem with grant := none } : MemCtl).storeBurst blk o xs }).modLayer
      (id := f.result) trivial (Layer.store o xs.length)).sorted hs
  refine ⟨st, rfl, hsorted, ?_, ?_, ?_, hon, hro, hrn⟩
  · refine (hlay f.older).trans ?_
    rw [if_neg hro.symm, hlo]
  · refine (hlay f.newer).trans ?_
    rw [if_neg hrn.symm, hln]
  · refine (hlay f.result).trans ?_
    rw [if_pos rfl, hlr, Option.map_some, hst]

theorem resultStored_parts (f : Fold) (s : State) : (s.resultStored f blk o xs).cycle = s.cycle
    ∧ (s.resultStored f blk o xs).tracks = s.tracks ∧ (s.resultStored f blk o xs).portA = s.portA
    ∧ (s.resultStored f blk o xs).portB = s.portB ∧ (s.resultStored f blk o xs).mem.free = s.mem.free
    ∧ (s.resultStored f blk o xs).mem.grant = none ∧ ∀ p, (s.resultStored f blk o xs).window p = s.window p := by
  obtain ⟨w, hw⟩ := storeBurst_wordsOnly { s.mem with grant := none } blk o xs
  obtain ⟨l, hl⟩ := modLayer_layersOnly f.result (Layer.store o xs.length)
    { s with mem := ({ s.mem with grant := none } : MemCtl).storeBurst blk o xs }
  unfold State.resultStored
  rw [hl, hw]
  exact ⟨rfl, rfl, rfl, rfl, rfl, rfl, fun p => by cases p <;> rfl⟩

end

theorem event_congr {s u : State} (h : u.cycle = s.cycle) (k : EventKind) (t : Option TrackId) (la cue : Option Nat)
    (d : Nat) : u.event k t la cue d = s.event k t la cue d := by
  unfold State.event
  rw [h]

/-! ### UNDO of a folding pair (R35, R48) -/

theorem toRedo_fold (t : TrackId) (id : Nat) (s : State) : (s.toRedo t id).fold = s.fold := by
  have hu : (s.undoLayer id).fold = s.fold := by
    obtain ⟨m₁, a₁, b₁, e₁, -⟩ := loseWindowOn_eq id .undone .a s
    obtain ⟨m₂, a₂, b₂, e₂, -⟩ := loseWindowOn_eq id .undone .b (s.loseWindowOn id .undone .a)
    unfold State.undoLayer State.loseWindowsOn
    rw [fold_modLayer, e₂, e₁]
  rw [toRedo_cut, fold_modTrack]
  split
  · rw [freeLayer_fold, hu]
  · exact hu

/-- A layer not in the pool is not brought there by another that goes to a redo list. -/
theorem toRedo_absent {t : TrackId} {id j : Nat} {s : State} (hj : j ≠ id) (h : s.layer? j = none) :
    (s.toRedo t id).layer? j = none := by
  have hu : (s.undoLayer id).layer? j = none := by rw [undoLayer_layer?, if_neg hj, h]
  rw [toRedo_cut, layer?_modTrack]
  split
  · exact ((Spares.refl t (fun _ => True) _).freeLayer .undone trivial).absent j hu
  · exact hu

theorem settleTrack_fold (t : TrackId) (s : State) : (s.settleTrack t).fold = s.fold := by
  unfold State.settleTrack
  dsimp only
  split <;> rfl

theorem actUndo_pair {t : TrackId} {o n : Nat} {below : List Entry} {s : State}
    (hst : (s.track t).stack = below ++ [.pair o n]) : s.actUndo t =
      .ok ((((s.abandonFold .undone [o]).toRedo t n).settleTrack t).noteTrack t (s.track t)) := by
  simp [State.actUndo, hst]

/-- What UNDO of a pair that stands alone in its stack leaves of the track and the layers (R35, R48). -/
structure PairUndone (f : Fold) (t : TrackId) (lo ln : Layer) (s u : State) : Prop where
  fold : u.fold = none
  result : u.layer? f.result = none
  stack : (u.track t).stack = [.single f.older]
  redo : (u.track t).redo = f.newer :: (s.track t).redo.take 3
  older : u.layer? f.older = some { lo with state := .closed }
  newer : u.layer? f.newer = some { ln with state := .undone, buf := ReadBuf.aimed 0 }

theorem toRedo_pairUndone {f : Fold} {t : TrackId} {lo ln : Layer} {s : State}
    (hs : s.layers.Pairwise (fun e f => e.1 < f.1)) (hf : s.fold = some f) (ht : f.track = t)
    (hst : (s.track t).stack = [.pair f.older f.newer]) (hlo : s.layer? f.older = some lo)
    (hln : s.layer? f.newer = some ln) (hon : f.older ≠ f.newer) (hro : f.result ≠ f.older) (hrn : f.result ≠ f.newer)
    (hr : ∀ i ∈ (s.track t).redo, i ≠ f.older ∧ i ≠ f.newer) :
    PairUndone f t lo ln s (((s.abandonFold .undone [f.older]).toRedo t f.newer).settleTrack t) := by
  have hlay := splitFold_layer? (f := f) hs .undone [f.older]
  have htr := splitFold_track f .undone [f.older] s t
  have hfold := splitFold_fold f .undone [f.older] s
  rw [if_pos ht, hst] at htr
  have hsplit : splitPair [f.older] [.pair f.older f.newer] = [.single f.older] := by
    simp [splitPair, hon.symm]
  rw [hsplit] at htr
  have hab : s.abandonFold .undone [f.older] = s.splitFold f .undone [f.older] := by
    rw [abandonFold_split hf (by decide)]
    refine if_pos ?_
    rw [ht, htr]
    simp
  rw [hab]
  generalize s.splitFold f .undone [f.older] = v at *
  have hredo : (v.track t).redo = (s.track t).redo := by rw [htr]
  have hnot : ∀ j, j = f.older ∨ j = f.newer → j ∉ (v.track t).redo.drop 3 := fun j hj hm => by
    rw [hredo] at hm
    obtain ⟨h1, h2⟩ := hr j (List.mem_of_mem_drop hm)
    exact hj.elim h1 h2
  refine ⟨?_, ?_, ?_, ?_, ?_, ?_⟩
  · rw [settleTrack_fold, toRedo_fold, hfold]
  · rw [settleTrack_layer?]
    exact toRedo_absent hrn (by rw [hlay, if_pos rfl])
  · rw [settleTrack_track, (Track.settled_lists _ _).1, toRedo_track]
    show (v.track t).stack.filter _ = _
    rw [htr]
    simp [hon]
  · rw [settleTrack_track, (Track.settled_lists _ _).2, toRedo_track, hredo]
  · rw [settleTrack_layer?, toRedo_layer? (hnot _ (.inl rfl)), if_neg hon, hlay, if_neg hro.symm, if_pos (by simp), hlo]
    rfl
  · rw [settleTrack_layer?, toRedo_layer? (hnot _ (.inr rfl)), if_pos rfl, hlay, if_neg hrn.symm,
      if_neg (by simpa using hon.symm), hln]
    rfl

/-! ### The obligation -/

/-- Settles O31: admission by `takeRoom_folds` and `takeRoom_full`, a fold's end by `completeFold_completed`,
`abandonFold_givenUp` and `toRedo_pairUndone`, its samples by `settleFold_forms`. -/
theorem stackAdmissionAndFolds : Obligations.StackAdmissionAndFolds := by
  unfold Obligations.StackAdmissionAndFolds
  intro t s
  refine ⟨takeRoom_noRecord, fun id hid => ⟨takeRoom_room hid, fun h8 hno => takeRoom_full hid h8 hno,
    fun a b blk rest la lb more h8 hst hab ha hac hb hbc hf hm hn => ?_⟩,
    fun h cover tb st hs hp hc ht hpl hsp hr => exec_layer_refused hs hp hc ht hpl hsp hr,
    fun f lo ln lr blk o xs checks hp hs hg hf hgr hout hlo hln hlr hon hro hrn e he => ?_,
    fun h tb f lo ln hs ht hsorted hf hft hst hlo hln hon hro hrn hlen hr => ?_,
    fun f lo ln lr s hf hg hout hr hlo hln hlr part cover sums clamped hpart hcover hsums hclamped => ?_⟩
  · have hrid := layer?_freeId hid
    obtain ⟨id', hid', hok⟩ := takeRoom_folds hid h8 hst ha hac hb hbc hf hm hn
    have hstart := startFold_started (t := t) (rest := rest) ha hb hrid hm
    obtain ⟨reads, hfold⟩ := hstart.fold
    have har : a ≠ id := fun h => by rw [h, hrid] at ha; cases ha
    have hbr : b ≠ id := fun h => by rw [h, hrid] at hb; cases hb
    have hne : id' ≠ id := fun h => by
      have hnone := layer?_freeId hid'
      rw [h, hstart.layer, if_pos rfl] at hnone
      cases hnone
    refine ⟨_, id', _, hok, hid', hne, ?_, fun t' hne => ?_, ?_, ?_, ?_, hstart.free, hfold, rfl⟩
    · rw [hstart.track, if_pos rfl]
    · rw [hstart.track, if_neg (Ne.symm hne)]
    · rw [hstart.layer, if_neg har, if_neg hab, if_pos rfl]
    · rw [hstart.layer, if_neg hbr, if_pos rfl]
    · rw [hstart.layer, if_pos rfl]
      rfl
  · have hexec := exec_foldWrite (checks := checks) hp hg hf hgr hout hlr
    obtain ⟨st, hheld⟩ := resultStored_held blk o xs ⟨hf, hs, hlo, hln, hlr, hon, hro, hrn⟩
    obtain ⟨hcy, htrs, hpa, hpb, hfree, hgrant, hwin⟩ := resultStored_parts blk o xs f s
    have htr : ∀ t', (s.resultStored f blk o xs).track t' = s.track t' := fun t' => by simp only [State.track, htrs]
    have hport : ∀ p, (s.resultStored f blk o xs).port p = s.port p := port_congr hpa hpb
    generalize s.resultStored f blk o xs = v at *
    refine ⟨fun hlast => ?_, fun rest hmore h4096 hnone hst hpairs hor h7 => ?_⟩
    · rw [if_pos hlast] at hexec
      have hdone := completeFold_completed hheld
      obtain ⟨b, hres, hbuf⟩ := hdone.result
      refine ⟨_, _, hexec, hdone.fold, hdone.grant hgrant, hdone.older, hdone.newer, hres, rfl, fun hcr => ?_, ?_, ?_,
        fun ha hb p => ?_⟩
      · refine (hbuf (by rwa [hcy])).trans ?_
        rw [hcy, htr]
        rfl
      · refine hdone.track.trans ?_
        show { v.track f.track with stack := f.placeResult (v.track f.track).stack } = _
        rw [htr]
        rfl
      · rw [hdone.free, hfree]
      · rw [hdone.ports ((hwin .a).trans ha) ((hwin .b).trans hb), hport, he, event_congr hcy]
        rfl
    · rw [if_neg (Nat.not_le.mpr hmore), beginFoldBurst_starved hheld.fold h4096 (hfree.trans hnone)] at hexec
      have hup := abandonFold_givenUp hheld ((congrArg Track.stack (htr f.track)).trans hst) hpairs hor h7
      refine ⟨_, hexec, hup.fold, hup.result, hup.newer, hup.both, hup.one, fun ha hb p => ?_⟩
      rw [hup.port ((hwin .a).trans ha) ((hwin .b).trans hb), hport, he, event_congr hcy, event_congr hcy]
      rfl
  · have hx := BesideCues.handedOn h 38 s
    have hact := actUndo_pair (t := t) (below := []) (s := s.handedOn h 38) (by rw [hx.track, hst]; rfl)
    obtain ⟨u, hu, hexec⟩ := exec_undo_settled hs ht hact
    have hdone := toRedo_pairUndone (s := s.handedOn h 38) (by rwa [hx.layers]) (hx.fold.trans hf) hft
      (by rw [hx.track, hst]) ((hx.layer? _).trans hlo) ((hx.layer? _).trans hln) hon hro hrn
      (by rw [hx.track]; exact hr)
    refine ⟨u, hexec, hu.fold.trans hdone.fold, (hu.layer? _).trans hdone.result, ?_, ?_, (hu.layer? _).trans hdone.older,
      (hu.layer? _).trans hdone.newer⟩
    · rw [hu.track, hdone.stack]
    · rw [hu.track, hdone.redo, hx.track]
  · have hcontrib : ∀ (m : Layer) (got : List (Nat × Sample)) (covers : List Nat) (gain q : Nat),
        part m got covers gain q = memberPart f.edge q m got covers gain := fun m got covers gain q => by
      rw [hpart, memberPart, contribution, foldSample_toInt]
    have hcov : ∀ q, cover q = if ln.cover then
        [coverWeight f.edge q ln.startQ ln.length ln.head ln.tail] else [] := fun q => by
      rw [hcover, coverWeight_eq]
    have hsum : sums = (List.range (f.burstLen lr)).map fun i => f.sumAt lo ln (lr.startQ + f.nextOff + i) := by
      rw [hsums]
      refine List.map_congr_left fun i _ => ?_
      rw [hcontrib, hcontrib, hcov]
      rfl
    have hclamp : clamped = (sums.filter clamps24).length := by
      rw [hclamped]
      refine congrArg List.length (List.filter_congr fun x _ => ?_)
      rw [clamps24, Bool.decide_or]
    exact settleFold_forms hf hg hout hr hlo hln hlr hsum hclamp

end Sys2Proof.Machine


/-! # O57: a memory without a grant stays without one but for the arbiter -/

namespace Sys2Proof.Machine

open Sys2Proof

/-- No grant of the arbiter is in progress (R140). -/
def GrantFree (s : State) : Prop := s.mem.grant = none

namespace GrantFree

variable {s u : State}

theorem same (h : GrantFree s) (hu : u.mem.grant = s.mem.grant) : GrantFree u := hu.trans h

theorem ite {c : Prop} [Decidable c] (hu : GrantFree s) (hv : GrantFree u) : GrantFree (if c then s else u) := by
  split
  · exact hu
  · exact hv

theorem withFold (h : GrantFree s) (f : Option Fold) : GrantFree { s with fold := f } := h

/-! ### Updates of the state -/

theorem raise (h : GrantFree s) (k : EventKind) (t : Option TrackId) (l : Option Nat) (d : Nat) :
    GrantFree (s.raise k t l d) := h

theorem takeFault (h : GrantFree s) (o : Occurrence) : GrantFree (s.takeFault o) := by
  unfold State.takeFault
  dsimp only
  split <;> exact h

theorem completeReply (h : GrantFree s) (p : Port) (st : Status) (l : List Byte) : GrantFree (s.completeReply p st l) := by
  obtain ⟨a, b, e⟩ := completeReply_ports p st l s
  rw [e]
  exact h

theorem modTrack (h : GrantFree s) (t : TrackId) (f : Track → Track) : GrantFree (s.modTrack t f) := h

theorem setLayer (h : GrantFree s) (id : Nat) (l : Layer) : GrantFree (s.setLayer id l) := h

theorem modLayer (h : GrantFree s) (id : Nat) (f : Layer → Layer) : GrantFree (s.modLayer id f) :=
  h.same (by rw [mem_modLayer])

theorem setRecord (h : GrantFree s) (i : Fin 12) (r : Option CapRec) : GrantFree (s.setRecord i r) := h

theorem setWindow (h : GrantFree s) (p : Port) (w : Option Window) : GrantFree (s.setWindow p w) := by
  cases p <;> exact h

theorem setWait (h : GrantFree s) (who : Background) (w : Wait) : GrantFree (s.setWait who w) := by
  cases who <;> exact h

theorem allocate (h : GrantFree s) {id : Nat} (e : s.allocate id = some u) : GrantFree u := by
  unfold State.allocate at e
  split at e
  · obtain rfl := Option.some.inj e
    exact h
  · cases e

theorem reaim (h : GrantFree s) (id : Nat) : GrantFree (s.reaim id) := h.modLayer _ _

theorem noteTrack (h : GrantFree s) (t : TrackId) (old : Track) : GrantFree (s.noteTrack t old) := by
  unfold State.noteTrack
  split <;> exact h

theorem settleTrack (h : GrantFree s) (t : TrackId) : GrantFree (s.settleTrack t) := by
  unfold State.settleTrack
  dsimp only
  split <;> exact h

theorem markFresh (h : GrantFree s) (b : Bool) (id : Nat) : GrantFree (s.markFresh b id) := by
  unfold State.markFresh
  split <;> exact h

/-! ### Layers freed and ended (R28, R69) -/

theorem freeLayer (h : GrantFree s) (c : LostCause) (id : Nat) : GrantFree (s.freeLayer c id) :=
  freeLayer_grantNone c id h

theorem cutWindow (h : GrantFree s) (id n : Nat) (p : Port) : GrantFree (s.cutWindow id n p) := by
  unfold State.cutWindow
  split
  · split
    · exact h.setWindow _ _
    · exact h
  · exact h

theorem truncate (h : GrantFree s) (id n : Nat) : GrantFree (s.truncate id n) := by
  unfold State.truncate
  split
  · exact h
  · refine (GrantFree.cutWindow ?_ _ _ _).cutWindow _ _ _
    exact h

theorem cutReads (h : GrantFree s) (id n : Nat) : GrantFree (s.cutReads id n) := by
  unfold State.cutReads
  split
  · exact congrArg (Option.map _) h
  · exact h

theorem endCapture (h : GrantFree s) (id n : Nat) : GrantFree (s.endCapture id n) := by
  obtain ⟨c, e⟩ := endCapture_captureOnly id n s
  rw [e]
  exact h

theorem endAt (h : GrantFree s) (id n : Nat) : GrantFree (s.endAt id n) :=
  ((h.cutReads id n).endCapture id n).truncate id n

/-! ### The fold (R45, R48, R150) -/

theorem unfoldMembers (keep : List Nat) :
    ∀ {s : State}, GrantFree s → GrantFree (keep.foldl (fun s id => State.unfoldMember id s) s) := by
  induction keep with
  | nil => exact fun h => h
  | cons id keep ih => exact fun h => ih (h.modLayer _ _)

theorem abandonFold (h : GrantFree s) (c : FoldCause) (keep : List Nat) : GrantFree (s.abandonFold c keep) := by
  unfold State.abandonFold
  split
  · exact h
  · next f _ =>
    have hf := ((h.withFold none).setWait .fold Wait.idle).freeLayer .cleared f.result
    have retired : ∀ v : State, GrantFree v → GrantFree (if (v.track f.track).stack.length ≤ 8 then v
        else ((v.freeLayer .retired f.older).modTrack f.track (Track.dropLayer f.older)).raise .layerRetired none
          (some f.older) (((v.layer? f.older).map Layer.gain).getD 0)) :=
      fun v hv => hv.ite (((hv.freeLayer _ _).modTrack _ _).raise _ _ _ _)
    refine retired _ (GrantFree.raise (hf.ite (unfoldMembers keep (hf.modTrack _ _))) _ _ _ _)

theorem beginFoldBurst (h : GrantFree s) : GrantFree s.beginFoldBurst := by
  unfold State.beginFoldBurst
  split
  · exact h
  · next f _ =>
    have taken : ∀ u, (if f.nextOff % 4096 = 0 then s.allocate f.result else some s) = some u → GrantFree u := by
      intro u e
      split at e
      · exact h.allocate e
      · obtain rfl := Option.some.inj e
        exact h
    dsimp only
    split
    · exact h.abandonFold _ _
    · next u e =>
      split <;> exact taken u e

theorem completeFold (h : GrantFree s) : GrantFree s.completeFold := by
  unfold State.completeFold
  split
  · exact h
  · exact ((((((h.withFold none).setWait _ _).modLayer _ _).modTrack _ _).freeLayer _ _).freeLayer _ _).reaim _

theorem settleFold (h : GrantFree s) : GrantFree s.settleFold := by
  unfold State.settleFold
  dsimp only
  (repeat' split) <;> exact h

/-! ### Closes (R33, R34, R42) -/

theorem closeDefining (h : GrantFree s) (n : Nat) (stop : Bool) : GrantFree (s.closeDefining n stop) := by
  have moved : ∀ c : Cycle, GrantFree (s.setCycle c) := fun c => by
    unfold State.setCycle
    split <;> exact h
  unfold State.closeDefining
  split <;> exact moved _

theorem discardOpen (h : GrantFree s) (t : TrackId) (id : Nat) : GrantFree (s.discardOpen t id) :=
  ((h.freeLayer _ _).modTrack _ _).settleTrack _

theorem keepLayer (h : GrantFree s) (t : TrackId) (id n : Nat) (f : Layer → Layer) (g : Track → Track) (fresh : Bool) :
    GrantFree (s.keepLayer t id n f g fresh) :=
  ((((h.endAt _ _).modLayer _ _).modTrack _ _).markFresh _ _).reaim _

theorem closeFirst (h : GrantFree s) (t : TrackId) (id n : Nat) (fresh stop : Bool) :
    GrantFree (s.closeFirst t id n fresh stop) := by
  unfold State.closeFirst
  dsimp only
  generalize (if decide (s.cycle.state = .defining) = true then min n s.cycle.pos else n) = n'
  have hc : GrantFree (if decide (s.cycle.state = .defining) = true then s.closeDefining n' stop else s) :=
    (h.closeDefining n' stop).ite h
  generalize (if decide (s.cycle.state = .defining) = true then s.closeDefining n' stop else s) = u at hc ⊢
  split
  · exact hc
  · split
    · exact hc.discardOpen _ _
    · exact hc.keepLayer t id _ _ _ _

theorem closeRolled (h : GrantFree s) (t : TrackId) (id n : Nat) (l : Layer) : GrantFree (s.closeRolled t id n l) := by
  unfold State.closeRolled
  split
  · exact (h.freeLayer _ _).modTrack _ _
  · exact ((h.ite ((h.endAt _ _).reaim _)).modLayer _ _).raise _ _ _ _

theorem closeAtRoll (h : GrantFree s) (t : TrackId) (rolled successor before : Nat) :
    GrantFree (s.closeAtRoll t rolled successor before) := by
  have hf := (h.freeLayer .discarded successor).modTrack t fun tr =>
    { tr.dropLayer successor with state := .playing, openLayer := none, marker := none }
  unfold State.closeAtRoll
  dsimp only
  split
  · exact (hf.closeRolled _ _ _ _).settleTrack _
  · exact hf.settleTrack _

theorem closeOpen (h : GrantFree s) (t : TrackId) (n before : Nat) (fresh stop : Bool) :
    GrantFree (s.closeOpen t n before fresh stop) := by
  unfold State.closeOpen
  (repeat' split)
  · exact h
  · exact h.closeFirst _ _ _ _ _
  · exact h.closeAtRoll _ _ _ _
  · exact h.discardOpen _ _
  · exact h.discardOpen _ _
  · exact h.keepLayer t _ n _ _ _

/-! ### The capture unit (R64, R67, R76) -/

theorem overrun (h : GrantFree s) (place : Point) (id : Nat) (r : Range) : GrantFree (s.overrun place id r) := by
  unfold State.overrun
  (repeat' split)
  · exact h
  · exact h
  · exact (h.setLayer _ _).takeFault _

theorem cutClosed (h : GrantFree s) (id n : Nat) : GrantFree (s.cutClosed id n) := by
  unfold State.cutClosed
  split
  · exact h
  · split
    · have hf : GrantFree (match s.fold with
          | some f => if f.older = id ∨ f.newer = id then s.abandonFold .noMemory [f.older, f.newer] else s
          | none => s) := by
        split
        · exact (h.abandonFold _ _).ite h
        · exact h
      exact (((hf.freeLayer _ _).modTrack _ _).settleTrack _).noteTrack _ _
    · have hk := (h.endAt id n).modLayer id fun l => { l with tail := true }
      exact hk.ite (hk.reaim id)

theorem exhaust (h : GrantFree s) (id n : Nat) : GrantFree (s.exhaust id n) := by
  unfold State.exhaust
  split
  · exact h
  · exact GrantFree.ite ((h.raise _ _ _ _).closeOpen _ _ _ _ _) ((h.raise _ _ _ _).cutClosed _ _)

theorem handOver (h : GrantFree s) (i : Fin 12) : GrantFree (s.handOver i) := by
  unfold State.handOver
  split
  · exact h
  · next r _ =>
    have taken : ∀ u, (if r.nextOff % 4096 = 0 then s.allocate r.layer else some s) = some u → GrantFree u := by
      intro u e
      split at e
      · exact h.allocate e
      · obtain rfl := Option.some.inj e
        exact h
    split
    · exact h.exhaust _ _
    · next u e =>
      have hr := fun q => (taken u e).setRecord i q
      exact GrantFree.ite (hr _) ((hr _).overrun _ _ _)

theorem settleCapture (n : Nat) : ∀ {s : State}, GrantFree s → GrantFree (s.settleCapture n) := by
  induction n with
  | zero => exact fun h => h
  | succ n ih =>
    intro s h
    have hr : GrantFree s.refillAll := h
    unfold State.settleCapture
    dsimp only
    (repeat' split)
    · exact ih (hr.handOver _)
    · exact hr
    · exact hr

/-! ### Settling -/

theorem settleRead (h : GrantFree s) (p : Port) : GrantFree (s.settleRead p) := by
  unfold State.settleRead
  (repeat' split)
  case h_2.isFalse.isTrue => exact (h.setWindow _ _).raise _ _ _ _
  case h_3.isTrue => exact h.setWindow _ _
  case h_4.isTrue => exact h.setWindow _ _
  case h_4.isFalse.isFalse => exact h.setWindow _ _
  all_goals exact h

theorem settleWait (h : GrantFree s) (who : Background) : GrantFree (s.settleWait who) := by
  unfold State.settleWait
  (repeat' split)
  · exact h
  · exact h.setWait _ _
  · exact h.setWait _ _

/-- What follows from a change grants nothing: that is the arbiter's (R140). -/
theorem settle (h : GrantFree s) : GrantFree s.settle := by
  have hb : GrantFree (((s.settleCapture handOverRounds).settleFold.settleRead .a).settleRead .b).settleBuffers :=
    (((h.settleCapture handOverRounds).settleFold).settleRead .a).settleRead .b
  exact ((hb.settleWait .fold).settleWait .windowA).settleWait .windowB

end GrantFree

end Sys2Proof.Machine


/-! # O57: completions of writes and reads -/

namespace Sys2Proof.Machine

open Sys2Proof

theorem whenLive_live {f : State → State} {s : State} (h : s.power.resetHeld = false) : s.whenLive f = f s := by
  unfold State.whenLive
  rw [h]
  rfl

/-! ### What a write stores (R144) -/

/-- What a word reads as once a burst is stored in a block. -/
def MemCtl.storedAt (m : MemCtl) (block o : Nat) (xs : List Sample) (a : Nat) : Sample :=
  if block * 4096 + o % 4096 ≤ a ∧ a < block * 4096 + o % 4096 + xs.length then
    xs.getD (a - (block * 4096 + o % 4096)) 0
  else m.readWord a

theorem readWord_of_words {m n : MemCtl} (h : n.words = m.words) (a : Nat) : n.readWord a = m.readWord a := by
  unfold MemCtl.readWord
  rw [h]

theorem storeBurst_words_congr {m n : MemCtl} (h : n.words = m.words) (blk : Option Nat) (o : Nat) (xs : List Sample) :
    (n.storeBurst blk o xs).words = (m.storeBurst blk o xs).words := by
  unfold MemCtl.storeBurst
  cases blk with
  | none => exact h
  | some b =>
    dsimp only
    rw [h]

/-- A memory with the words of a stored burst reads as its samples there, and as before elsewhere. -/
theorem readWord_stored {m n : MemCtl} {block o : Nat} {xs : List Sample} (hm : Memory.wf m)
    (h : n.words = (m.storeBurst (some block) o xs).words) (a : Nat) : n.readWord a = m.storedAt block o xs a :=
  (readWord_of_words h a).trans (readWord_storeBurst block o a xs hm)

/-- A completion that stores a burst: what it leaves has the words of the burst, and no grant. -/
structure Stores (blk : Option Nat) (o : Nat) (xs : List Sample) (s u : State) : Prop where
  words : u.mem.words = (s.mem.storeBurst blk o xs).words
  free : GrantFree u

theorem Stores.settled {block o : Nat} {xs : List Sample} {s u : State} (h : Stores (some block) o xs s u)
    (hm : Memory.wf s.mem) : u.settle.mem.grant = none ∧ ∀ a, u.settle.mem.readWord a = s.mem.storedAt block o xs a :=
  ⟨h.free.settle, readWord_stored hm ((settle_words u).trans h.words)⟩

theorem storedBurst_words (s : State) (blk : Option Nat) (o : Nat) (xs : List Sample) :
    ({ s.setGrant none with mem := (s.setGrant none).mem.storeBurst blk o xs } : State).mem.words =
      (s.mem.storeBurst blk o xs).words :=
  storeBurst_words_congr (m := s.mem) (n := (s.setGrant none).mem) rfl blk o xs

theorem storedBurst_free (s : State) (blk : Option Nat) (o : Nat) (xs : List Sample) :
    GrantFree { s.setGrant none with mem := (s.setGrant none).mem.storeBurst blk o xs } := by
  obtain ⟨w, hw⟩ := storeBurst_wordsOnly (s.setGrant none).mem blk o xs
  rw [hw]
  rfl

theorem captureDone_stores (b : Burst) (blk : Option Nat) (live : Bool) (s : State) :
    Stores blk b.offset b.samples s ((s.setGrant none).captureDone b blk live) := by
  have hw := storedBurst_words s blk b.offset b.samples
  have hg := storedBurst_free s blk b.offset b.samples
  unfold State.captureDone
  dsimp only
  split
  · exact ⟨by rw [mem_modLayer]; exact hw, hg.modLayer _ _⟩
  · exact ⟨hw, hg⟩

theorem foldWriteDone_stores (blk : Option Nat) (o : Nat) (xs : List Sample) (s : State) :
    Stores blk o xs s ((s.setGrant none).foldWriteDone blk o xs) := by
  have hw := storedBurst_words s blk o xs
  have hg := storedBurst_free s blk o xs
  unfold State.foldWriteDone
  dsimp only
  generalize ({ s.setGrant none with mem := (s.setGrant none).mem.storeBurst blk o xs } : State) = v at *
  split
  · exact ⟨hw, hg⟩
  · next f _ =>
    have hm : (v.modLayer f.result (Layer.store o xs.length)).mem.words = (s.mem.storeBurst blk o xs).words := by
      rw [mem_modLayer]
      exact hw
    have hf := (hg.modLayer f.result (Layer.store o xs.length)).withFold
      (some { f with nextOff := o + xs.length, out := none, granted := false })
    split
    · split
      · exact ⟨(completeFold_words _).trans hm, hf.completeFold⟩
      · exact ⟨(beginFoldBurst_words _).trans hm, hf.beginFoldBurst⟩
    · exact ⟨hw, hg⟩

theorem GrantFree.importDone {s : State} (h : GrantFree s) (p : Port) (id : Nat) : GrantFree (s.importDone p id) := by
  unfold State.importDone
  split
  · exact h
  · exact GrantFree.noteTrack ((GrantFree.modTrack (GrantFree.raise (((h.setLayer _ _).setWindow _ _).setWait _ _) _ _ _ _)
      _ _).reaim _) _ _

theorem commitDone_stores (p : Port) (blk : Option Nat) (o : Nat) (xs : List Sample) (s : State) :
    Stores blk o xs s ((s.setGrant none).commitDone p blk o xs) := by
  have hw := storedBurst_words s blk o xs
  have hg := storedBurst_free s blk o xs
  unfold State.commitDone
  dsimp only
  generalize ({ s.setGrant none with mem := (s.setGrant none).mem.storeBurst blk o xs } : State) = v at *
  split
  · exact ⟨hw, hg⟩
  · next w _ =>
    split
    · next l _ _ _ =>
      have hset := (hg.setLayer w.layer { l.store o xs.length with committed := o + xs.length }).setWindow p
        (some { w with buf := [], req := .absent })
      have hsw : ((v.setLayer w.layer { l.store o xs.length with committed := o + xs.length }).setWindow p
          (some { w with buf := [], req := .absent })).mem.words = (s.mem.storeBurst blk o xs).words := by
        rw [setWindow_words]
        exact hw
      generalize (v.setLayer w.layer { l.store o xs.length with committed := o + xs.length }).setWindow p
          (some { w with buf := [], req := .absent }) = x at *
      have replied : ∀ y : State, Stores blk o xs s y → Stores blk o xs s (if w.closing then y.completeReply p .ok
          ({ w with buf := [], req := .absent } : Window).writeResults else y) := fun y hy => by
        split
        · exact ⟨(completeReply_words _ _ _ _).trans hy.words, hy.free.completeReply _ _ _⟩
        · exact hy
      split
      · exact replied _ ⟨(importDone_words _ _ _).trans hsw, hset.importDone p _⟩
      · split
        · next hclosing =>
          have hshut := replied ((x.setWindow p none).setWait (portBackground p) Wait.idle)
            ⟨by rw [setWait_words, setWindow_words, hsw], (hset.setWindow p none).setWait _ _⟩
          rwa [if_pos hclosing] at hshut
        · exact ⟨hsw, hset⟩
    · exact ⟨hw, hg⟩

/-! ### Words that read good (R139, R147) -/

/-- The samples of a range read without a fault, 0 in a hole (R147). -/
def MemCtl.readClean (m : MemCtl) (rd : Reading) : List Sample :=
  (List.range rd.range.len).map fun i =>
    if inRanges (rd.range.first + i) rd.holes then 0
    else match rd.block with
      | some b => m.readWord (b * 4096 + (rd.range.first + i) % 4096)
      | none => 0

theorem readFrom_good {checks : List WordCheck} (hg : allGood checks) (who : Requester) (rd : Reading) (s : State) :
    ∀ is, s.readFrom who checks is rd = (s, is.map fun i => if inRanges (rd.range.first + i) rd.holes then 0
      else s.delivered rd (rd.range.first + i)) := by
  intro is
  induction is with
  | nil => rfl
  | cons i is ih =>
    have hone : s.readChecked who (rd.range.first + i) (checkAt checks i) rd = (s, rd,
        if inRanges (rd.range.first + i) rd.holes then 0 else s.delivered rd (rd.range.first + i)) := by
      unfold State.readChecked
      rw [hg i]
      split <;> rfl
    unfold State.readFrom
    rw [hone]
    dsimp only
    rw [ih]
    rfl

/-- With every word good a read delivers the stored samples of its range and takes no fault (R139). -/
theorem readRun_good {checks : List WordCheck} {rd : Reading} {l : Layer} {s : State} (hg : allGood checks)
    (hlive : rd.live = true) (hl : s.layer? rd.layer = some l) (hh : l.holes = rd.holes) (who : Requester) :
    s.readRun who checks rd = (s, s.mem.readClean rd) := by
  unfold State.readRun
  rw [readFrom_good hg]
  refine congrArg (Prod.mk s) (List.map_congr_left fun i _ => ?_)
  have hfor : s.readFor rd = some l := by rw [State.readFor, hlive, ← hl]; rfl
  unfold State.delivered
  rw [hfor, Option.map_some, hh, Option.getD_some]
  split
  · rfl
  · cases rd.block <;> rfl

theorem readFor_live {rd : Reading} {s : State} (h : rd.live = true) : s.readFor rd = s.layer? rd.layer := by
  rw [State.readFor, h]
  rfl

/-- A playback read places what it delivers where its buffer has it in flight (R139, R147, R149). -/
theorem playbackDone_of_run {rd : Reading} {checks : List WordCheck} {s u : State} {xs : List Sample} {l : Layer}
    (hr : s.readRun .playback checks rd = (u, xs)) (hlive : rd.live = true) (hl : u.layer? rd.layer = some l) :
    s.playbackDone rd checks = if l.buf.flight then u.setLayer rd.layer
      { l with buf := l.buf.placed l (u.bufferEnd rd.layer l) rd.range xs } else u := by
  unfold State.playbackDone
  rw [hr]
  dsimp only
  rw [readFor_live hlive, hl]
  dsimp only
  rw [place_eq_placed, lengthOf_eq_bufferEnd]

theorem exec_playback {rd : Reading} {checks : List WordCheck} {s : State} (hp : s.power.resetHeld = false)
    (hg : s.mem.grant = some (.playback rd)) :
    exec (.playbackReadComplete checks) s = .next ((s.setGrant none).playbackDone rd checks).settle := by
  show execPlaybackReadComplete checks s = _
  unfold execPlaybackReadComplete
  rw [whenLive_live hp, State.completePlayback, hg]

theorem exec_foldRead {rd : Reading} {newer : Bool} {checks : List WordCheck} {s : State}
    (hp : s.power.resetHeld = false) (hg : s.mem.grant = some (.foldRead rd newer)) :
    exec (.foldBurstComplete checks) s = .next ((s.setGrant none).foldReadDone rd newer checks).settle := by
  show execFoldBurstComplete checks s = _
  unfold execFoldBurstComplete
  rw [whenLive_live hp, State.completeFoldBurst, hg]

theorem exec_windowRead {p : Port} {rd : Reading} {checks : List WordCheck} {s : State}
    (hp : s.power.resetHeld = false) (hg : s.mem.grant = some (.windowRead p rd)) :
    exec (.windowReadComplete checks) s = .next ((s.setGrant none).windowReadDone p rd checks).settle := by
  show execWindowReadComplete checks s = _
  unfold execWindowReadComplete
  rw [whenLive_live hp, State.completeWindowRead, hg]

theorem exec_commit {p : Port} {blk : Option Nat} {o : Nat} {xs : List Sample} {s : State}
    (hp : s.power.resetHeld = false) (hg : s.mem.grant = some (.windowCommit p blk o xs)) :
    exec .windowCommitComplete s = .next ((s.setGrant none).commitDone p blk o xs).settle := by
  show execWindowCommitComplete s = _
  unfold execWindowCommitComplete
  rw [whenLive_live hp, State.completeCommit, hg]

theorem exec_capture {b : Burst} {blk : Option Nat} {live : Bool} {s : State} (hp : s.power.resetHeld = false)
    (hg : s.mem.grant = some (.capture b blk live)) :
    exec .captureWriteComplete s = .next ((s.setGrant none).captureDone b blk live).settle := by
  show execCaptureWriteComplete s = _
  unfold execCaptureWriteComplete
  rw [whenLive_live hp, State.completeCapture, hg]

theorem reading_not_bad {checks : List WordCheck} (hg : allGood checks) (rd : Reading) : rd.bad checks = false := by
  unfold Reading.bad
  rw [List.any_eq_false]
  intro i _
  rw [hg i]
  simp

/-- A member read that the fold waits for (R44, R150). -/
theorem foldReadDone_of_run {rd : Reading} {newer : Bool} {checks : List WordCheck} {s u : State} {xs : List Sample}
    {f : Fold} (hr : s.readRun .fold checks rd = (u, xs)) (hf : u.fold = some f) (hg : f.granted = true)
    (hout : f.out = none) : s.foldReadDone rd newer checks =
      (let v := { u with fold := some (if rd.cut then { f with granted := false } else f.took newer rd.range.first xs) }
       if rd.bad checks then State.modLayer f.result (fun l => { l with damaged := true }) v else v) := by
  unfold State.foldReadDone
  rw [hr]
  dsimp only
  rw [hf]
  dsimp only
  rw [hg, hout]
  rfl

/-- A window read that its window waits for (R152). -/
theorem windowReadDone_of_run {p : Port} {rd : Reading} {checks : List WordCheck} {s u : State} {xs : List Sample}
    {w : Window} {at_ : Nat}
    (hr : s.readRun (match p with | .a => .windowA | .b => .windowB) checks rd = (u, xs)) (hw : u.window p = some w)
    (hm : w.mode = .read) (hq : w.req = .granted at_) : s.windowReadDone p rd checks = u.setWindow p (some { w with
      buf := if rd.cut = true then [] else (match w.dir with | .forward => xs | .reverse => xs.reverse)
      req := .absent }) := by
  unfold State.windowReadDone
  generalize hy : State.readRun _ checks rd s = y
  obtain rfl : y = (u, xs) := hy.symm.trans hr
  dsimp only
  rw [hw]
  dsimp only
  rw [hm, hq]
  dsimp only
  cases rd.cut <;> cases w.dir <;> rfl

end Sys2Proof.Machine


/-! # O57: faults of unwanted reads, cut layers, and commits -/

namespace Sys2Proof.Machine

open Sys2Proof

/-! ### One word read with a fault (R139, R172) -/

section
variable {rd : Reading} {chk : WordCheck} {who : Requester} {s : State}

theorem readRun_single (hlen : rd.range.len = 1) : s.readRun who [chk] rd =
    ((s.readChecked who rd.range.first chk rd).1, [(s.readChecked who rd.range.first chk rd).2.2]) := by
  unfold State.readRun
  rw [hlen]
  rfl

theorem takeFault_layer? (o : Occurrence) (j : Nat) : (s.takeFault o).layer? j = s.layer? j := by
  unfold State.takeFault
  dsimp only
  split <;> rfl

variable {b : Nat} (hh : inRanges rd.range.first rd.holes = false) (hb : rd.block = some b)
include hh hb

theorem readChecked_corrected : (s.readChecked who rd.range.first .corrected rd).1 =
    s.takeFault (.met s.cycle.here .corrected who (some b) rd.layer rd.track) := by
  unfold State.readChecked
  rw [hh, hb]
  rfl

/-- A word of a block suspect already takes no further fault (R139). -/
theorem readChecked_suspect (hs : rd.suspect = true) :
    s.readChecked who rd.range.first .uncorrectable rd = (s, rd, 0) := by
  unfold State.readChecked
  rw [hh, hb]
  dsimp only
  rw [hs]
  rfl

theorem readChecked_uncorrectable {l : Layer} (hs : rd.suspect = false) (hlive : rd.live = true)
    (hl : s.layer? rd.layer = some l) (hin : b ∈ l.extents) (hnew : b ∉ l.suspects) :
    (s.readChecked who rd.range.first .uncorrectable rd).1 =
      (s.setLayer rd.layer { l with damaged := true, suspects := l.suspects ++ [b] }).takeFault
        (.met s.cycle.here .uncorrectable who (some b) rd.layer rd.track) := by
  unfold State.readChecked
  rw [hh, hb]
  dsimp only
  rw [hs]
  have hmark : s.suspectBlock rd b = s.setLayer rd.layer { l with damaged := true, suspects := l.suspects ++ [b] } := by
    unfold State.suspectBlock
    rw [readFor_live hlive, hl]
    simp [hin, hnew]
  rw [← hmark]
  rfl

end

/-! ### Reads granted for a layer that is cut (R140, R149) -/

theorem endAt_grant {id n : Nat} {l : Layer} {s : State} (hl : s.layer? id = some l) (hs : l.state ≠ .opened)
    (hn : n < l.length) :
    (s.endAt id n).mem.grant = s.mem.grant.map (Grant.onReading (Reading.truncated id)) := by
  have hcut := grant_cutReads hl hs hn
  have hwindow : ∀ (p : Port) (v : State), (v.cutWindow id n p).mem.grant = v.mem.grant := fun p v => by
    unfold State.cutWindow
    split
    · split
      · cases p <;> rfl
      · rfl
    · rfl
  have htruncate : ∀ v : State, (v.truncate id n).mem.grant = v.mem.grant := fun v => by
    unfold State.truncate
    split
    · rfl
    · rw [hwindow, hwindow]
      rfl
  obtain ⟨c, e⟩ := endCapture_captureOnly id n (s.cutReads id n)
  unfold State.endAt
  rw [htruncate, e]
  exact hcut

/-- A layer no longer OPEN that is cut for want of a block keeps n samples, and its buffer is aimed unless it waits in a
redo list (R76, R149). -/
theorem exhaust_cut {id n : Nat} {l : Layer} {s : State} (hl : s.layer? id = some l) (hs : l.state ≠ .opened)
    (h0 : n ≠ 0) (hr : CycleInRange s.cycle) : ∃ l', (s.exhaust id n).layer? id = some l' ∧ l'.length = n
      ∧ l'.buf = (if l.state = .undone then l.buf
        else s.cycle.aimedBuffer (s.track l.track).span l.startQ n) := by
  obtain ⟨v, hv⟩ : ∃ v, v = s.raise .memoryFull (some l.track) (some id) (sat16 (n / 64)) := ⟨_, rfl⟩
  rw [exhaust_notOpened hl hs hv]
  have hbv : BesideCues s v := hv ▸ .raise _ _ _ _ s
  have hlv : v.layer? id = some l := (hbv.layer? id).trans hl
  obtain ⟨m, e⟩ := endAt_eq n hlv
  obtain ⟨la, hla⟩ := modLayer_layersOnly id (fun l : Layer => { l with tail := true }) (v.endAt id n)
  have hcut : ((v.endAt id n).modLayer id fun l => { l with tail := true }).layer? id =
      some { l.cutTo n with tail := true } := by
    rw [layer?_modLayer, if_pos rfl, layer?_endAt, if_pos rfl, hlv]
    rfl
  have hcy : ((v.endAt id n).modLayer id fun l => { l with tail := true }).cycle = s.cycle := by
    rw [hla, e]
    exact hbv.cycle
  have htr : ∀ t, ((v.endAt id n).modLayer id fun l => { l with tail := true }).track t = s.track t := fun t => by
    rw [hla, e]
    exact hbv.track t
  unfold State.cutClosed
  rw [hlv]
  dsimp only
  rw [if_neg h0]
  by_cases hu : l.state = .undone
  · rw [if_pos hu, if_pos hu]
    exact ⟨_, hcut, rfl, rfl⟩
  · rw [if_neg hu, if_neg hu]
    refine ⟨_, layer?_reaim id hcut fun hrun => ?_, rfl, ?_⟩
    · rw [hcy] at hrun ⊢
      exact hr.present.mpr (.inl hrun)
    · rw [hcy, htr]
      rfl

/-! ### Commits (R153, R155, R157) -/

theorem completeReply_eq (p : Port) (st : Status) (results : List Byte) (s : State) : s.completeReply p st results =
    (match (s.port p).reply with
      | .pending tag code => s.setPort p { s.port p with
          reply := .full { status := st, tag := tag, code := code, results := results } }
      | _ => s) := rfl

theorem port_setWindow (p q : Port) (w : Option Window) (s : State) : (s.setWindow p w).port q = s.port q := by
  cases p <;> cases q <;> rfl

theorem port_setWait (who : Background) (w : Wait) (q : Port) (s : State) : (s.setWait who w).port q = s.port q := by
  cases who <;> cases q <;> rfl

/-- A burst committed within an importing layer (R145, R157). -/
theorem store_importing {l : Layer} {o n : Nat} (hs : l.state = .importing) (h0 : n ≠ 0) (hn : o + n ≤ l.length) :
    l.store o n = { l with stored := insertRange { first := o, len := n } l.stored } := by
  have hmin : min n (l.length - o) = n := by omega
  have hne : l.state ≠ .opened := by
    rw [hs]
    decide
  unfold Layer.store
  rw [if_neg hne, hmin]
  exact if_neg h0

section
variable {p : Port} {blk : Option Nat} {o : Nat} {xs : List Sample} {w : Window} {l : Layer} {at_ : Nat} {s : State}

/-- The state in which a commit's samples are stored, and its layer with them (R153). -/
def State.committed (blk : Option Nat) (o : Nat) (xs : List Sample) (id : Nat) (l : Layer) (s : State) : State :=
  ({ s with mem := { s.mem.storeBurst blk o xs with grant := none } } : State).setLayer id
    { l.store o xs.length with committed := o + xs.length }

theorem storeBurst_grantNone (m : MemCtl) (blk : Option Nat) (o : Nat) (xs : List Sample) :
    ({ m with grant := none } : MemCtl).storeBurst blk o xs = { m.storeBurst blk o xs with grant := none } := by
  cases blk <;> rfl

/-- A commit that its window waits for: the import done with the last, a CLOSE WINDOW that waited answered (R153, R155,
R157). -/
theorem commitDone_waited (hw : s.window p = some w) (hm : w.mode = .write) (hq : w.req = .granted at_)
    (hl : s.layer? w.layer = some l) : (s.setGrant none).commitDone p blk o xs =
      (let v := (s.committed blk o xs w.layer l).setWindow p (some { w with buf := [], req := .absent })
       let reply := fun u : State =>
        if w.closing then u.completeReply p .ok ({ w with buf := [], req := .absent } : Window).writeResults else u
       if l.length ≤ o + xs.length then reply (v.importDone p w.layer)
       else if w.closing then reply ((v.setWindow p none).setWait (portBackground p) Wait.idle)
       else v) := by
  have hmem := storeBurst_grantNone s.mem blk o xs
  unfold State.commitDone State.setGrant
  dsimp only
  rw [hmem]
  have hwin : ({ s with mem := { s.mem.storeBurst blk o xs with grant := none } } : State).window p = some w := by
    obtain ⟨ws, e⟩ := storeBurst_wordsOnly s.mem blk o xs
    rw [e, ← hw]
    cases p <;> rfl
  have hlay : ({ s with mem := { s.mem.storeBurst blk o xs with grant := none } } : State).layer? w.layer = some l := hl
  rw [hwin]
  dsimp only
  rw [hm, hq, hlay]
  rfl

end

/-! ### A completed import (R157) -/

/-- A track that an import ends on: an EMPTY one is PLAYING over its held span (R157). -/
def Track.imported (tr : Track) : Track :=
  if tr.state = .empty then { tr with state := .playing, span := tr.heldSpan, heldSpan := none } else tr

/-- A port once an import is done: WINDOW DONE, and TRACK STATE where the track came to play (R26, R157). -/
def State.importEvents (p : Port) (id : Nat) (t : TrackId) (c : PortCtl) (s : State) : PortCtl :=
  let a := c.offer (s.event .windowDone none (some id) none (portCode p))
  if (s.track t).state = .empty then
    a.offer (s.event .trackState (some t) none none (2 + if (s.track t).muteTarget = 0 then 32768 else 0))
  else a

/-- What a completed import leaves (R149, R157), its ports after `g` has changed each. -/
structure ImportDone (p : Port) (id : Nat) (l : Layer) (g : Port → PortCtl → PortCtl) (s u : State) : Prop where
  window : u.window p = none
  layer : ∃ b, u.layer? id = some { l with state := .closed, buf := b }
    ∧ (CycleInRange s.cycle → b = s.cycle.aimedBuffer (u.track l.track).span l.startQ l.length)
  words : u.mem.words = s.mem.words
  cycle : u.cycle = s.cycle
  track : u.track l.track = (s.track l.track).imported
  others : ∀ t, t ≠ l.track → u.track t = s.track t
  port : ∀ q, u.port q = g q (s.importEvents p id l.track (s.port q))

theorem importDone_done {p : Port} {id : Nat} {l : Layer} {s : State} (hl : s.layer? id = some l) :
    ImportDone p id l (fun _ c => c) s (s.importDone p id) := by
  obtain ⟨v, hv⟩ : ∃ v, v = ((((s.setLayer id { l with state := .closed }).setWindow p none).setWait (portBackground p)
      Wait.idle).raise .windowDone none (some id) (portCode p)).modTrack l.track Track.imported := ⟨_, rfl⟩
  have hdone : s.importDone p id = (v.reaim id).noteTrack l.track (s.track l.track) := by
    unfold State.importDone
    rw [hl, hv]
    rfl
  have hvl : v.layer? id = some { l with state := .closed } := by
    rw [hv]
    refine Eq.trans ?_ (layer?_setLayer_same id { l with state := .closed } s)
    cases p <;> rfl
  have hvt : ∀ t, v.track t = if l.track = t then (s.track l.track).imported else s.track t := fun t => by
    rw [hv]
    refine (track_modTrack l.track t Track.imported _).trans ?_
    cases p <;> rfl
  have hvc : v.cycle = s.cycle := by rw [hv]; cases p <;> rfl
  have hvw : v.window p = none := by rw [hv]; cases p <;> rfl
  have hvm : v.mem.words = s.mem.words := by rw [hv]; cases p <;> rfl
  have hvp : ∀ q, v.port q = (s.port q).offer (s.event .windowDone none (some id) none (portCode p)) := fun q => by
    rw [hv]
    cases p <;> cases q <;> rfl
  obtain ⟨la, hla⟩ := modLayer_layersOnly id (fun l => { l with buf := ReadBuf.aimed (v.aimOf l) }) v
  have hr : v.reaim id = { v with layers := la } := hla
  have hrl : (v.reaim id).layer? id = some { l with
      state := .closed, buf := ReadBuf.aimed (v.aimOf { l with state := .closed }) } := by
    rw [State.reaim, layer?_modLayer, if_pos rfl, hvl]
    rfl
  have hb := BesideCues.noteTrack l.track (s.track l.track) (v.reaim id)
  have htr : ∀ t, (v.reaim id).track t = v.track t := fun t => by rw [hr]; rfl
  rw [hdone]
  refine ⟨?_, ⟨_, (hb.layer? id).trans hrl, fun hcr => ?_⟩, ?_, ?_, ?_, fun t hne => ?_, fun q => ?_⟩
  · rw [hb.window, hr]
    refine Eq.trans ?_ hvw
    cases p <;> rfl
  · refine (aimed_aimOf fun hrun => ?_).trans ?_
    · rw [hvc] at hrun ⊢
      exact hcr.present.mpr (.inl hrun)
    · rw [hvc, hb.track, htr]
      rfl
  · rw [hb.mem, hr, ← hvm]
  · rw [hb.cycle, hr, ← hvc]
  · rw [hb.track, htr, hvt, if_pos rfl]
  · rw [hb.track, htr, hvt, if_neg (Ne.symm hne)]
  · have hport : (v.reaim id).port q = (s.port q).offer (s.event .windowDone none (some id) none (portCode p)) := by
      rw [← hvp, hr]
      cases q <;> rfl
    have hcy : (v.reaim id).cycle = s.cycle := (reaim_cyc id v).trans hvc
    unfold State.noteTrack State.importEvents
    dsimp only
    rw [htr, hvt, if_pos rfl, ← hport]
    by_cases he : (s.track l.track).state = .empty
    · have himp : (s.track l.track).imported = { s.track l.track with
          state := .playing, span := (s.track l.track).heldSpan, heldSpan := none } := if_pos he
      rw [if_neg (by rw [himp, he]; simp), if_pos he, State.raiseTrack, port_raise, event_congr hcy, htr, hvt, if_pos rfl,
        himp]
      rfl
    · have himp : (s.track l.track).imported = s.track l.track := if_neg he
      rw [if_pos (by rw [himp]; exact ⟨rfl, rfl⟩), if_neg he]

/-- A port whose reply, where it waits for one, is full. -/
def PortCtl.answered (results : List Byte) (c : PortCtl) : PortCtl :=
  match c.reply with
  | .pending tag code => { c with reply := .full { status := .ok, tag := tag, code := code, results := results } }
  | _ => c

theorem completeReply_answered (p : Port) (results : List Byte) (s : State) :
    s.completeReply p .ok results = s.setPort p ((s.port p).answered results) := by
  rw [completeReply_eq, PortCtl.answered]
  cases hr : (s.port p).reply with
  | pending tag code => rfl
  | _ => cases p <;> rfl

/-- An import that a CLOSE WINDOW waited for answers it besides (R155, R157). -/
theorem ImportDone.answered {p : Port} {id : Nat} {l : Layer} {s u : State} (h : ImportDone p id l (fun _ c => c) s u)
    (results : List Byte) (due : Bool) : ImportDone p id l
      (fun q c => if q = p ∧ due = true then c.answered results else c) s
      (if due then u.completeReply p .ok results else u) := by
  cases due with
  | false => exact { h with port := fun q => (h.port q).trans (if_neg (by simp)).symm }
  | true =>
    rw [if_pos rfl, completeReply_answered]
    obtain ⟨hwindow, hlayer, hwords, hcycle, htrack, hothers, hport⟩ := h
    cases p
    · refine ⟨hwindow, hlayer, hwords, hcycle, htrack, hothers, fun q => ?_⟩
      cases q with
      | a => rw [if_pos ⟨rfl, rfl⟩, ← hport]; rfl
      | b => rw [if_neg (by simp), ← hport]; rfl
    · refine ⟨hwindow, hlayer, hwords, hcycle, htrack, hothers, fun q => ?_⟩
      cases q with
      | a => rw [if_neg (by simp), ← hport]; rfl
      | b => rw [if_pos ⟨rfl, rfl⟩, ← hport]; rfl

end Sys2Proof.Machine


/-! # O57: the statement -/

namespace Sys2Proof.Machine

open Sys2Proof

theorem exec_foldWriteDone {blk : Option Nat} {o : Nat} {xs : List Sample} {checks : List WordCheck} {s : State}
    (hp : s.power.resetHeld = false) (hg : s.mem.grant = some (.foldWrite blk o xs)) :
    exec (.foldBurstComplete checks) s = .next ((s.setGrant none).foldWriteDone blk o xs).settle := by
  show execFoldBurstComplete checks s = _
  unfold execFoldBurstComplete
  rw [whenLive_live hp, State.completeFoldBurst, hg]

/-- What the completion of a capture burst leaves but its words (R144). -/
structure CaptureKept (b : Burst) (live : Bool) (s u : State) : Prop where
  frame : u = { s with layers := u.layers, mem := u.mem }
  mem : u.mem = { s.mem with words := u.mem.words, grant := none }
  others : ∀ id, id ≠ b.layer ∨ live = false → u.layer? id = s.layer? id
  layer : ∀ l, live = true → s.layer? b.layer = some l →
    u.layer? b.layer = some (l.store b.offset b.samples.length)

theorem captureDone_kept (b : Burst) (blk : Option Nat) (live : Bool) (s : State) :
    CaptureKept b live s ((s.setGrant none).captureDone b blk live) := by
  obtain ⟨w, hw⟩ := storeBurst_wordsOnly (s.setGrant none).mem blk b.offset b.samples
  unfold State.captureDone
  dsimp only
  rw [hw]
  cases live with
  | false => exact ⟨rfl, rfl, fun _ _ => rfl, fun _ h => nomatch h⟩
  | true =>
    rw [if_pos rfl]
    obtain ⟨v, hv⟩ : ∃ v : State, v = { s.setGrant none with mem := { (s.setGrant none).mem with words := w } } :=
      ⟨_, rfl⟩
    have hlayer : ∀ id, v.layer? id = s.layer? id := fun id => by rw [hv]; rfl
    rw [← hv]
    obtain ⟨la, e⟩ := modLayer_layersOnly b.layer (Layer.store b.offset b.samples.length) v
    refine ⟨by rw [e, hv]; rfl, by rw [e, hv]; rfl, fun id h => ?_, fun l _ hl => ?_⟩
    · rw [layer?_modLayer, if_neg (h.resolve_right (by simp)), hlayer]
    · rw [layer?_modLayer, if_pos rfl, hlayer, hl]
      rfl

theorem reading_bad {rd : Reading} (hlen : rd.range.len = 1) (hh : inRanges rd.range.first rd.holes = false) :
    rd.bad [.uncorrectable] = true := by
  unfold Reading.bad
  rw [hlen]
  simp [hh, checkAt]

/-- A playback read of one word whose buffer was aimed anew: its samples go nowhere, and its fault is taken all the same
(R139). -/
theorem exec_playback_unwanted {rd : Reading} {chk : WordCheck} {l : Layer} {s v : State}
    (hp : s.power.resetHeld = false) (hg : s.mem.grant = some (.playback rd)) (hlive : rd.live = true)
    (hlen : rd.range.len = 1) (hl : v.layer? rd.layer = some l) (hfl : l.buf.flight = false)
    (hv : ((s.setGrant none).readChecked .playback rd.range.first chk rd).1 = v) :
    exec (.playbackReadComplete [chk]) s = .next v.settle := by
  rw [exec_playback hp hg, playbackDone_of_run (readRun_single hlen) hlive (by rw [hv]; exact hl),
    if_neg (by rw [hfl]; decide), hv]

section
variable {p : Port} {blk : Option Nat} {o : Nat} {xs : List Sample} {w : Window} {l : Layer} {at_ : Nat} {s : State}

/-- The window of a commit, and the state with it, before its import is done or its CLOSE WINDOW answered (R153). -/
def State.recommitted (p : Port) (w : Window) (s : State) : State :=
  s.setWindow p (some { w with buf := [], req := .absent })

theorem exec_commit_waited (hp : s.power.resetHeld = false) (hg : s.mem.grant = some (.windowCommit p blk o xs))
    (hw : s.window p = some w) (hm : w.mode = .write) (hq : w.req = .granted at_) (hnext : w.next = o + xs.length)
    (hl : s.layer? w.layer = some l) : exec .windowCommitComplete s = .next (
      let v := s.committed blk o xs w.layer l
      let reply := fun u : State => if w.closing then u.completeReply p .ok
        (bytes 4 (o + xs.length) ++ bytes 2 w.excess ++ flagByte w.timedOut) else u
      if l.length ≤ o + xs.length then reply ((v.recommitted p w).importDone p w.layer)
      else if w.closing then reply ((v.setWindow p none).setWait (portBackground p) Wait.idle)
      else v.recommitted p w).settle := by
  have hshut : ∀ v : State, (v.recommitted p w).setWindow p none = v.setWindow p none := by
    cases p <;> exact fun _ => rfl
  rw [exec_commit hp hg, commitDone_waited hw hm hq hl, ← hnext]
  dsimp only
  rw [← hshut (s.committed blk o xs w.layer l)]
  rfl

theorem importDone_recommitted (hl : s.layer? w.layer = some l) :
    ImportDone p w.layer l (fun _ c => c) s ((s.recommitted p w).importDone p w.layer) := by
  have h := importDone_done (p := p) (s := s.recommitted p w) (l := l) (id := w.layer) (by cases p <;> exact hl)
  obtain ⟨hwindow, hlayer, hwords, hcycle, htrack, hothers, hport⟩ := h
  cases p with
  | a => exact ⟨hwindow, hlayer, hwords, hcycle, htrack, hothers, hport⟩
  | b => exact ⟨hwindow, hlayer, hwords, hcycle, htrack, hothers, hport⟩

end

/-! ### A wanted read (R139, R147) -/

section
variable {checks : List WordCheck} {rd : Reading} {l : Layer} {s : State} (hp : s.power.resetHeld = false)
  (hgood : allGood checks) (hlive : rd.live = true) (hl : s.layer? rd.layer = some l) (hh : l.holes = rd.holes)
include hp hgood hlive hl hh

theorem exec_playback_good (hg : s.mem.grant = some (.playback rd)) : exec (.playbackReadComplete checks) s =
    .next (if l.buf.flight then (s.setGrant none).setLayer rd.layer
      { l with buf := l.buf.placed l (s.bufferEnd rd.layer l) rd.range (s.mem.readClean rd) }
      else s.setGrant none).settle := by
  rw [exec_playback hp hg,
    playbackDone_of_run (readRun_good (s := s.setGrant none) hgood hlive hl hh .playback) hlive hl]
  rfl

theorem exec_foldRead_good {newer : Bool} {f : Fold} (hg : s.mem.grant = some (.foldRead rd newer))
    (hf : s.fold = some f) (hgr : f.granted = true) (hout : f.out = none) : exec (.foldBurstComplete checks) s =
    .next ({ s.setGrant none with fold := some (if rd.cut then { f with granted := false }
      else f.took newer rd.range.first (s.mem.readClean rd)) } : State).settle := by
  rw [exec_foldRead hp hg,
    foldReadDone_of_run (readRun_good (s := s.setGrant none) hgood hlive hl hh .fold) hf hgr hout]
  dsimp only
  rw [reading_not_bad hgood]
  rfl

theorem exec_windowRead_good {p : Port} {w : Window} {at_ : Nat} (hg : s.mem.grant = some (.windowRead p rd))
    (hw : s.window p = some w) (hm : w.mode = .read) (hq : w.req = .granted at_) :
    exec (.windowReadComplete checks) s = .next ((s.setGrant none).setWindow p (some { w with
      buf := if rd.cut = true then [] else
        (match w.dir with | .forward => s.mem.readClean rd | .reverse => (s.mem.readClean rd).reverse)
      req := .absent })).settle := by
  have hwin : (s.setGrant none).window p = some w := by
    rw [← hw]
    cases p <;> rfl
  rw [exec_windowRead hp hg,
    windowReadDone_of_run (readRun_good (s := s.setGrant none) hgood hlive hl hh _) hwin hm hq]
  rfl

end

/-- Settles O57: each completion through its own equation, with the words of a burst, the samples of a read and the
layer of a commit as the lemmas above say them. -/
theorem completionsMoveTheirSamples : Obligations.CompletionsMoveTheirSamples := by
  unfold Obligations.CompletionsMoveTheirSamples
  refine ⟨?_, ?_, ?_, fun s id n l rd hl hs hn hid => ?_, fun s id n l hl hs h0 hr => exhaust_cut hl hs h0 hr, ?_, ?_,
    fun f newer first xs => by cases newer <;> rfl⟩
  · intro s block o xs hp hm stored hst
    have hstored : stored = s.mem.storedAt block o xs := hst
    rw [hstored]
    refine ⟨?_, fun checks hg => ⟨_, exec_foldWriteDone hp hg, (foldWriteDone_stores _ _ _ _).settled hm⟩,
      fun p hg => ⟨_, exec_commit hp hg, (commitDone_stores _ _ _ _ _).settled hm⟩⟩
    rintro b live rfl rfl hg
    obtain ⟨hfree, hwords⟩ := (captureDone_stores b (some block) live s).settled hm
    obtain ⟨hframe, hmem, hothers, hlayer⟩ := captureDone_kept b (some block) live s
    refine ⟨_, _, exec_capture hp hg, hfree, hwords, rfl, hframe, hmem, hothers, fun l hlive hl => ?_⟩
    obtain ⟨st, e, hin⟩ := store_eq l b.offset b.samples.length
    exact ⟨st, (hlayer l hlive hl).trans (congrArg some e), hin⟩
  · intro s checks rd l xs hp hgood hlive hl hh hxs
    have hclean : xs = s.mem.readClean rd := hxs
    rw [hclean]
    refine ⟨fun hg => ?_, fun f newer hg hf hgr hout => exec_foldRead_good hp hgood hlive hl hh hg hf hgr hout,
      fun p w at_ hg hw hm hq => exec_windowRead_good hp hgood hlive hl hh hg hw hm hq⟩
    have hread := exec_playback_good hp hgood hlive hl hh hg
    refine ⟨fun hfl => ?_, fun hfl => ?_⟩
    · rw [hread, if_pos hfl]
      rfl
    · rw [hread, if_neg (by rw [hfl]; decide)]
      rfl
  · intro s rd newer f lr b hp hg hf hgr hout hlr hlen hh hb hsus
    have hrun : (s.setGrant none).readRun .fold [.uncorrectable] rd = (s.setGrant none, [0]) := by
      rw [readRun_single hlen, readChecked_suspect hh hb hsus]
    have hbad : rd.bad [.uncorrectable] = true := reading_bad hlen hh
    rw [exec_foldRead hp hg, foldReadDone_of_run hrun hf hgr hout]
    dsimp only
    rw [hbad, if_pos rfl, State.modLayer]
    generalize hv : ({ s.setGrant none with fold := some (if rd.cut = true then { f with granted := false }
      else f.took newer rd.range.first [0]) } : State) = v
    have hvl : v.layer? f.result = some lr := hv ▸ hlr
    rw [hvl, ← hv]
    rfl
  · have hcut : rd.truncated id = { rd with cut := true } := by simp [Reading.truncated, hid]
    refine ⟨fun newer hg => ?_, fun p hg => ?_⟩
    · rw [endAt_grant hl hs hn, hg, Option.map_some, Grant.onReading, hcut]
    · rw [endAt_grant hl hs hn, hg, Option.map_some, Grant.onReading, hcut]
  · intro s rd l b hp hlive hl hfl hlen hh hb hg o ho
    rw [ho]
    refine ⟨?_, fun hs hin hnew => ?_, fun hs => ?_⟩
    · exact exec_playback_unwanted hp hg hlive hlen ((takeFault_layer? _ _).trans hl) hfl
        (readChecked_corrected (s := s.setGrant none) hh hb)
    · refine exec_playback_unwanted hp hg hlive hlen (l := { l with damaged := true, suspects := l.suspects ++ [b] })
        ?_ hfl (readChecked_uncorrectable (s := s.setGrant none) hh hb hs hlive hl hin hnew)
      exact (takeFault_layer? _ _).trans (layer?_setLayer_same _ _ _)
    · exact exec_playback_unwanted hp hg hlive hlen hl hfl
        (congrArg Prod.fst (readChecked_suspect (s := s.setGrant none) hh hb hs))
  · intro s p blk o xs w l at_ hp hg hw hm hq hnext hl hs hne hle l' v results hl' hv hres
    have h0 : xs.length ≠ 0 := fun h => hne (List.length_eq_zero_iff.mp h)
    have hcommitted : s.committed blk o xs w.layer l = v := by
      rw [State.committed, store_importing hs h0 hle, hv, hl']
    rw [exec_commit_waited hp hg hw hm hq hnext hl, hcommitted, ← hres]
    dsimp only
    have hport : ∀ q, v.port q = s.port q := fun q => by rw [hv]; cases q <;> rfl
    refine ⟨fun hlt hc => ?_, fun hlt hc u hu => ?_, fun hlast => ?_⟩
    · rw [if_neg (by omega), if_neg (by rw [hc]; decide)]
      rfl
    · have hshut : (v.setWindow p none).setWait (portBackground p) Wait.idle = u := hu.symm
      have hup : u.port p = s.port p := by rw [hu, port_setWait, port_setWindow, hport]
      rw [if_neg (by omega), if_pos hc, if_pos hc, hshut, completeReply_eq, hup]
      refine ⟨fun tag code hr => by rw [hr], fun hr => ?_⟩
      cases hrep : (s.port p).reply with
      | pending tag code => exact absurd hrep (hr tag code)
      | _ => rfl
    · rw [if_pos hlast.ge]
      have hvl : v.layer? w.layer = some l' := by rw [hv]; exact layer?_setLayer_same _ _ _
      have hvt : ∀ t, v.track t = s.track t := fun t => by rw [hv]; rfl
      have hvc : v.cycle = s.cycle := by rw [hv]; rfl
      have hlt : l'.track = l.track := by rw [hl']
      have hlq : l'.startQ = l.startQ := by rw [hl']; rfl
      have hll : l'.length = l.length := by rw [hl']
      obtain ⟨hwin, ⟨bl, hlay, hbuf⟩, hwords, hcyc, htrack, hothers, hports⟩ :=
        (importDone_recommitted (p := p) hvl).answered results w.closing
      rw [hlq, hll, hvc, hlt] at hbuf
      rw [hlt, hvt] at htrack
      refine ⟨_, { l' with state := .closed, buf := bl }, rfl, hwin, hlay, rfl, hbuf, hwords, hcyc.trans hvc,
        fun t ht => (hothers t (hlt ▸ ht)).trans (hvt t), htrack, fun q ev a b hev ha hb => ?_⟩
      have hevents : v.importEvents p w.layer l'.track (v.port q) = b := by
        rw [hlt, hport, hb, ha, hev, State.importEvents, hvt]
        dsimp only
        rw [event_congr hvc, event_congr hvc]
        rfl
      rw [hports, hevents, PortCtl.answered]
      cases b.reply <;> simp

end Sys2Proof.Machine


/-! # O2: the state right after reset -/

namespace Sys2Proof.Machine

open Sys2Proof

theorem track_reset (t : TrackId) : State.reset.track t = Track.reset t := by
  simp [State.reset, State.afterReset, State.track]

theorem record_reset (i : Fin 12) : State.reset.capture.records[i] = none := by
  simp [State.reset, State.afterReset, Capture.reset]

theorem machine_reset (p : Port) (c : SwitchCode) : State.reset.machine p c = .up := by
  cases p <;> simp [State.machine, State.switchPort, State.reset, State.afterReset, Switches.reset, SwitchPort.reset]

theorem switchMap_reset (c : SwitchCode) : State.reset.switches.map[c] = MapEntry.reset := by
  simp [State.reset, State.afterReset, Switches.reset]

theorem recent_reset (t : TrackId) : State.reset.switches.recent[t] = none := by
  simp [State.reset, State.afterReset, Switches.reset]

theorem monitors_reset (i : SlotId) :
    State.reset.mixer.frontMonitor[i] = 0 ∧ State.reset.mixer.earMonitor[i] = 0 := by
  simp [State.reset, State.afterReset, Mixer.reset]

theorem switchPort_reset (p : Port) : State.reset.switchPort p = SwitchPort.reset := by
  cases p <;> rfl

theorem waitOf_reset (who : Background) : State.reset.waitOf who = Wait.idle := by
  cases who <;> rfl

theorem window_reset (p : Port) : State.reset.window p = none := by
  cases p <;> rfl

theorem seen_reset (k : FaultKind) : State.reset.faults.seen k = false := by
  cases k <;> rfl

theorem port_reset (p : Port) : State.reset.port p = PortCtl.reset := by
  cases p <;> rfl

/-- The default interest set: kinds 1 to 30 but CYCLE WRAP 3 and BEAT 4, and no bit beyond the 32 of the set (R198). -/
theorem defaultInterest_bit (k : Nat) :
    defaultInterest.getLsbD k = (decide (1 ≤ k ∧ k ≤ 30) && k != 3 && k != 4) := by
  by_cases hk : k < 32
  · have small : ∀ j : Fin 32,
        defaultInterest.getLsbD j = (decide (1 ≤ j.val ∧ j.val ≤ 30) && j.val != 3 && j.val != 4) := by decide
    exact small ⟨k, hk⟩
  · have beyond : ¬ (1 ≤ k ∧ k ≤ 30) := by omega
    rw [BitVec.getLsbD_of_ge _ _ (by omega), decide_eq_false beyond]
    rfl

/-- Settles O2: each entry of a table by its own lemma, and every other value as the definition of reset gives it. -/
theorem resetStateValues : Obligations.ResetStateValues := by
  unfold Obligations.ResetStateValues
  have hport : ∀ p : Port, (State.reset.port p).transfer = none ∧ (State.reset.port p).reply = .empty
      ∧ (State.reset.port p).queue = [] ∧ (State.reset.port p).lost = 0 ∧ (State.reset.port p).mask = .opened
      ∧ (State.reset.port p).mailbox = none
      ∧ (∀ k, (State.reset.port p).interest.getLsbD k = (decide (1 ≤ k ∧ k ≤ 30) && k != 3 && k != 4)) := by
    intro p
    rw [port_reset]
    exact ⟨rfl, rfl, rfl, rfl, rfl, rfl, defaultInterest_bit⟩
  have hswitch : ∀ p : Port, (State.reset.switchPort p).selected = 0 ∧ (State.reset.switchPort p).last = none
      ∧ (State.reset.switchPort p).issues = 0 := by
    intro p
    rw [switchPort_reset]
    exact ⟨rfl, rfl, rfl⟩
  refine ⟨rfl, rfl, track_reset, rfl, rfl, rfl, rfl, fun _ => rfl, record_reset, rfl, rfl, rfl, machine_reset,
    switchMap_reset, hswitch, recent_reset, monitors_reset, ?_⟩
  refine ⟨rfl, rfl, rfl, rfl, rfl, rfl, rfl, rfl, rfl, rfl, rfl, rfl, rfl, rfl, rfl, rfl, rfl, rfl,
    waitOf_reset, window_reset, ?_⟩
  exact ⟨rfl, rfl, rfl, rfl, rfl, rfl, rfl, rfl, rfl, rfl, rfl, rfl, rfl, rfl, rfl, rfl, seen_reset, rfl, rfl, rfl,
    hport⟩

end Sys2Proof.Machine


/-! # O54: capture records with waiting bursts (R63, R64) -/

namespace Sys2Proof.Machine

open Sys2Proof

/-! ### Moves into a record's buffer (R63) -/

/-- The record samples of `n` frames from the read stamp on, in the buffer (R58, R63). -/
def CapRec.moved (c : Capture) (mask : BitVec 8) (n : Nat) (r : CapRec) : CapRec :=
  { r with
    buf := r.buf ++ (List.range n).map fun k => recordSample mask (c.ringAt (stampAdd r.readStamp k))
    readStamp := stampAdd r.readStamp n }

/-- The frames that a record out of step may move: those arrived, those up to its end where it drains, those for which
it has room (R63). -/
theorem movable_eq {frameCount : Nat} {r : CapRec} (hp : r.phase ≠ .inStep) :
    r.movable frameCount = min (64 - r.buf.length) (match r.endStamp with
      | some e => if r.phase = .draining then
          min (stampSub (stampAdd frameCount 1) r.readStamp) (stampSub e r.readStamp)
        else stampSub (stampAdd frameCount 1) r.readStamp
      | none => stampSub (stampAdd frameCount 1) r.readStamp) := by
  unfold CapRec.movable
  cases hph : r.phase with
  | inStep => exact absurd hph hp
  | filling => cases r.endStamp <;> simp only [reduceCtorEq, if_false]
  | draining => cases r.endStamp <;> simp only [if_true]

theorem refill_filling {c : Capture} {mask : BitVec 8} {frameCount : Nat} {r r' : CapRec} (hp : r.phase = .filling)
    (hr : r.moved c mask (r.movable frameCount) = r') : r.refill c mask frameCount = some
      (if r'.readStamp = stampAdd frameCount 1 ∧ r'.buf.length < 64 then { r' with phase := .inStep } else r') := by
  subst hr
  simp only [CapRec.refill, CapRec.moved, hp, apply_ite some]

theorem refill_draining {c : Capture} {mask : BitVec 8} {frameCount : Nat} {r r' : CapRec} (hp : r.phase = .draining)
    (hr : r.moved c mask (r.movable frameCount) = r') : r.refill c mask frameCount =
      if r'.buf = [] ∧ r'.endStamp = some r'.readStamp then none else some r' := by
  subst hr
  simp only [CapRec.refill, CapRec.moved, hp, Bool.and_eq_true, List.isEmpty_iff, decide_eq_true_eq]

theorem refillAll_record (s : State) (i : Fin 12) : s.refillAll.capture.records[i] =
    (s.capture.records[i]).bind fun r => r.refill s.capture (s.track r.track).sources s.cycle.frameCount := by
  simp only [State.refillAll, Fin.getElem_fin, Vector.getElem_map]
  cases s.capture.records[i.val] <;> rfl

/-! ### The record that goes first (R64) -/

theorem waiting_iff (r : CapRec) : r.waiting = true ↔ r.phase ≠ .inStep ∧ (64 ≤ r.buf.length
    ∨ (r.phase = .draining ∧ r.buf ≠ [] ∧ r.endStamp = some r.readStamp)) := by
  unfold CapRec.waiting
  cases r.phase <;> simp

/-- How far a record's read stamp lies behind the next frame to arrive (R64). -/
def CapRec.age (frameCount : Nat) (r : CapRec) : Nat := stampSub (stampAdd frameCount 1) r.readStamp

/-- Record i goes before record j: the older read stamp, then the lower track, then the lower index (R64). -/
def CapRec.precedes (frameCount : Nat) (i : Fin 12) (r : CapRec) (j : Fin 12) (q : CapRec) : Prop :=
  q.age frameCount < r.age frameCount
    ∨ (q.age frameCount = r.age frameCount ∧ (r.track < q.track ∨ (r.track = q.track ∧ i ≤ j)))

theorem handsFirst_iff (n : Nat) (a b : CapRec) :
    handsFirst n a b = true ↔ b.age n < a.age n ∨ (a.age n = b.age n ∧ a.track < b.track) := by
  simp only [handsFirst, Bool.or_eq_true, Bool.and_eq_true, decide_eq_true_eq]
  rfl

section

variable {n : Nat} {i j k : Fin 12} {r q x : CapRec}

theorem precedes_refl (n : Nat) (i : Fin 12) (r : CapRec) : r.precedes n i i r := .inr ⟨rfl, .inr ⟨rfl, le_rfl⟩⟩

theorem precedes_of_handsFirst (h : handsFirst n r q = true) : r.precedes n i j q := by
  obtain h | ⟨ha, ht⟩ := (handsFirst_iff n r q).mp h
  · exact .inl h
  · exact .inr ⟨ha.symm, .inl ht⟩

/-- A record not put behind one of a higher index stays before it. -/
theorem precedes_of_not_handsFirst (hij : i ≤ j) (h : ¬ handsFirst n q r = true) : r.precedes n i j q := by
  rw [handsFirst_iff] at h
  simp only [CapRec.precedes, Fin.lt_def, Fin.le_def, Fin.ext_iff] at *
  omega

theorem precedes_trans (hrq : r.precedes n i j q) (hqx : q.precedes n j k x) : r.precedes n i k x := by
  simp only [CapRec.precedes, Fin.lt_def, Fin.le_def, Fin.ext_iff] at *
  omega

end

/-- One record looked at in the search for the one that goes first. -/
def State.waitingStep (s : State) (best : Option (Fin 12)) (i : Fin 12) : Option (Fin 12) :=
  match s.capture.records[i] with
  | none => best
  | some r =>
    if r.waiting then
      match best with
      | none => some i
      | some j =>
        match s.capture.records[j] with
        | some q => if handsFirst s.cycle.frameCount r q then some i else best
        | none => some i
    else best

/-- A record of a list that waits and goes before every other of the list that waits. -/
def State.GoesFirst (s : State) (l : List (Fin 12)) (i : Fin 12) : Prop :=
  ∃ r, s.capture.records[i] = some r ∧ r.waiting = true ∧ ∀ j ∈ l, ∀ q, s.capture.records[j] = some q →
    q.waiting = true → r.precedes s.cycle.frameCount i j q

/-- What a search through a list finds: none where no record of the list waits, or the one that goes first. -/
def State.FoundIn (s : State) (l : List (Fin 12)) : Option (Fin 12) → Prop
  | none => ∀ j ∈ l, ∀ q, s.capture.records[j] = some q → q.waiting = false
  | some i => i ∈ l ∧ s.GoesFirst l i

section

variable {s : State} {l : List (Fin 12)} {k : Fin 12} {best : Option (Fin 12)}

/-- A record that does not wait changes nothing for a search. -/
theorem State.FoundIn.skip (h : s.FoundIn l best) (hk : ∀ q, s.capture.records[k] = some q → q.waiting = false) :
    s.FoundIn (l ++ [k]) best := by
  cases best with
  | none =>
    intro j hj q hq
    obtain hj | hj := List.mem_append.mp hj
    · exact h j hj q hq
    · obtain rfl := List.mem_singleton.mp hj
      exact hk q hq
  | some i =>
    obtain ⟨hi, r, hr, hw, hfirst⟩ := h
    refine ⟨List.mem_append_left _ hi, r, hr, hw, fun j hj q hq hqw => ?_⟩
    obtain hj | hj := List.mem_append.mp hj
    · exact hfirst j hj q hq hqw
    · obtain rfl := List.mem_singleton.mp hj
      rw [hk q hq] at hqw
      cases hqw

/-- A waiting record of a higher index takes the lead exactly where it goes before the one found. -/
theorem State.FoundIn.step {r : CapRec} (h : s.FoundIn l best) (hlt : ∀ j ∈ l, j < k)
    (hr : s.capture.records[k] = some r) (hw : r.waiting = true) : s.FoundIn (l ++ [k]) (s.waitingStep best k) := by
  have leads : (∀ j ∈ l, ∀ q, s.capture.records[j] = some q → q.waiting = true →
      r.precedes s.cycle.frameCount k j q) → s.FoundIn (l ++ [k]) (some k) := by
    refine fun hfirst => ⟨by simp, r, hr, hw, fun j hj q hq hqw => ?_⟩
    obtain hj | hj := List.mem_append.mp hj
    · exact hfirst j hj q hq hqw
    · obtain rfl := List.mem_singleton.mp hj
      obtain rfl := Option.some.inj (hr.symm.trans hq)
      exact precedes_refl _ _ _
  unfold State.waitingStep
  rw [hr]
  dsimp only
  rw [if_pos hw]
  cases best with
  | none =>
    refine leads fun j hj q hq hqw => ?_
    rw [h j hj q hq] at hqw
    cases hqw
  | some i =>
    obtain ⟨hi, x, hx, hxw, hfirst⟩ := h
    dsimp only
    rw [hx]
    dsimp only
    split
    · next hh => exact leads fun j hj q hq hqw => precedes_trans (precedes_of_handsFirst hh) (hfirst j hj q hq hqw)
    · next hh =>
      refine ⟨List.mem_append_left _ hi, x, hx, hxw, fun j hj q hq hqw => ?_⟩
      obtain hj | hj := List.mem_append.mp hj
      · exact hfirst j hj q hq hqw
      · obtain rfl := List.mem_singleton.mp hj
        obtain rfl := Option.some.inj (hr.symm.trans hq)
        exact precedes_of_not_handsFirst (hlt i hi).le hh

end

/-- A search through records of rising index finds the one that goes first: each record is put against the best of
those before it. -/
theorem foldl_waitingStep (s : State) (l : List (Fin 12)) :
    l.Pairwise (· < ·) → s.FoundIn l (l.foldl s.waitingStep none) := by
  induction l using List.reverseRecOn with
  | nil => exact fun _ j hj => absurd hj (List.not_mem_nil)
  | append_singleton l k ih =>
    intro hsorted
    obtain ⟨hl, -, hlt⟩ := List.pairwise_append.mp hsorted
    have hk : ∀ j ∈ l, j < k := fun j hj => hlt j hj k (List.mem_singleton_self k)
    have hfound := ih hl
    rw [List.foldl_append, List.foldl_cons, List.foldl_nil]
    generalize l.foldl s.waitingStep none = best at hfound ⊢
    cases hr : s.capture.records[k] with
    | none =>
      have hstep : s.waitingStep best k = best := by rw [State.waitingStep, hr]
      rw [hstep]
      refine hfound.skip fun q hq => ?_
      rw [hr] at hq
      cases hq
    | some r =>
      cases hw : r.waiting with
      | true => exact hfound.step hk hr hw
      | false =>
        have hstep : s.waitingStep best k = best := by rw [State.waitingStep, hr]; simp [hw]
        rw [hstep]
        refine hfound.skip fun q hq => ?_
        obtain rfl := Option.some.inj (hr.symm.trans hq)
        exact hw

/-- The record handed over next is the waiting one that goes first, and there is none exactly where none waits (R64). -/
theorem nextWaiting_found (s : State) : s.FoundIn (List.finRange 12) s.nextWaiting :=
  foldl_waitingStep s _ (List.pairwise_lt_finRange 12)

theorem nextWaiting_none_iff (s : State) :
    s.nextWaiting = none ↔ ∀ (i : Fin 12) (r : CapRec), s.capture.records[i] = some r → r.waiting = false := by
  have hfound := nextWaiting_found s
  cases hn : s.nextWaiting with
  | none =>
    rw [hn] at hfound
    exact ⟨fun _ i => hfound i (List.mem_finRange i), fun _ => rfl⟩
  | some i =>
    rw [hn] at hfound
    obtain ⟨-, r, hr, hw, -⟩ := hfound
    refine ⟨fun h => absurd h (Option.some_ne_none i), fun h => ?_⟩
    rw [h i r hr] at hw
    cases hw

end Sys2Proof.Machine


/-! # O54: hand-overs while blocks are to be had (R64, R66, R143) -/

namespace Sys2Proof.Machine

open Sys2Proof

/-- Bursts have joined the write-behind queue behind those there, and no layer has lost a block: the cycle and the
words of the loop memory stand (R64, R66, R143). -/
structure BurstsJoin (more : List Burst) (s u : State) : Prop where
  queue : u.mem.queue = s.mem.queue ++ more
  extents : ∀ id l, s.layer? id = some l → ∃ l', u.layer? id = some l' ∧ l.extents <+: l'.extents
  cycle : u.cycle = s.cycle
  words : u.mem.words = s.mem.words

namespace BurstsJoin

variable {more rest : List Burst} {s u v : State}

/-- Work beside the queue and the layer records brings no burst. -/
theorem beside (hq : u.mem.queue = s.mem.queue) (hl : u.layers = s.layers) (hc : u.cycle = s.cycle)
    (hw : u.mem.words = s.mem.words) : BurstsJoin [] s u where
  queue := by rw [hq, List.append_nil]
  extents := fun id l h => ⟨l, by rw [State.layer?, hl]; exact h, List.prefix_rfl⟩
  cycle := hc
  words := hw

theorem refl (s : State) : BurstsJoin [] s s := beside rfl rfl rfl rfl

theorem trans (h : BurstsJoin more s u) (k : BurstsJoin rest u v) : BurstsJoin (more ++ rest) s v where
  queue := by rw [k.queue, h.queue, List.append_assoc]
  extents := fun id l hl => by
    obtain ⟨l', hl', hp⟩ := h.extents id l hl
    obtain ⟨l'', hl'', hp'⟩ := k.extents id l' hl'
    exact ⟨l'', hl'', hp.trans hp'⟩
  cycle := k.cycle.trans h.cycle
  words := k.words.trans h.words

theorem trans_beside (h : BurstsJoin more s u) (k : BurstsJoin [] u v) : BurstsJoin more s v := by
  have ht := h.trans k
  rwa [List.append_nil] at ht

end BurstsJoin

/-! ### What settling does after the capture unit (R141, R147, R150, R152) -/

theorem settleFold_joinsNone (s : State) : BurstsJoin [] s s.settleFold := by
  unfold State.settleFold
  dsimp only
  (repeat' split) <;> exact .beside rfl rfl rfl rfl

theorem setWindow_joinsNone (p : Port) (w : Option Window) (s : State) : BurstsJoin [] s (s.setWindow p w) := by
  cases p <;> exact .beside rfl rfl rfl rfl

theorem setWait_joinsNone (who : Background) (w : Wait) (s : State) : BurstsJoin [] s (s.setWait who w) := by
  cases who <;> exact .beside rfl rfl rfl rfl

theorem windowDone_joinsNone (p : Port) (w : Window) (s : State) : BurstsJoin [] s (s.windowDone p w) :=
  (setWindow_joinsNone p _ s).trans_beside (.beside rfl rfl rfl rfl)

theorem settleRead_joinsNone (p : Port) (s : State) : BurstsJoin [] s (s.settleRead p) := by
  unfold State.settleRead
  (repeat' split)
  case h_2.isFalse.isTrue => exact windowDone_joinsNone _ _ _
  case h_3.isTrue => exact setWindow_joinsNone _ _ _
  case h_4.isTrue => exact setWindow_joinsNone _ _ _
  case h_4.isFalse.isFalse => exact setWindow_joinsNone _ _ _
  all_goals exact .refl s

theorem settleBuffers_joinsNone (s : State) : BurstsJoin [] s s.settleBuffers where
  queue := (List.append_nil _).symm
  extents := fun id l hl => by
    rw [layer?_settleBuffers, hl]
    refine ⟨_, rfl, ?_⟩
    dsimp only
    split <;> exact List.prefix_rfl
  cycle := rfl
  words := rfl

theorem settleWait_joinsNone (who : Background) (s : State) : BurstsJoin [] s (s.settleWait who) := by
  unfold State.settleWait
  (repeat' split)
  · exact .refl s
  · exact setWait_joinsNone _ _ _
  · exact setWait_joinsNone _ _ _

/-- Settling hands over waiting bursts, and all that follows in it leaves the queue and the blocks. -/
theorem settle_joinsNone (s : State) : BurstsJoin [] (s.settleCapture handOverRounds) s.settle := by
  have hread := (settleFold_joinsNone (s.settleCapture handOverRounds)).trans_beside (settleRead_joinsNone .a _)
  have hbuffers := (hread.trans_beside (settleRead_joinsNone .b _)).trans_beside (settleBuffers_joinsNone _)
  have hwaits := (hbuffers.trans_beside (settleWait_joinsNone .fold _)).trans_beside (settleWait_joinsNone .windowA _)
  exact hwaits.trans_beside (settleWait_joinsNone .windowB _)

/-! ### One hand-over (R66, R143) -/

theorem allocate_some_iff {id : Nat} {s z : State} : s.allocate id = some z ↔ ∃ l blk rest, s.layer? id = some l
    ∧ s.mem.free = blk :: rest ∧ z = ({ s with mem := { s.mem with free := rest } }).setLayer id
      { l with extents := l.extents ++ [blk] } := by
  unfold State.allocate
  cases s.layer? id with
  | none => simp
  | some l =>
    cases s.mem.free with
    | nil => simp
    | cons blk rest => simp [eq_comm]

theorem allocate_joinsNone {id : Nat} {s z : State} (hz : s.allocate id = some z) : BurstsJoin [] s z := by
  obtain ⟨l, blk, rest, hl, -, rfl⟩ := allocate_some_iff.mp hz
  refine ⟨(List.append_nil _).symm, fun j m hm => ?_, rfl, rfl⟩
  rw [layer?_setLayer]
  split
  · next hj =>
    obtain rfl := Option.some.inj (hl.symm.trans (hj ▸ hm))
    exact ⟨_, rfl, List.prefix_append _ _⟩
  · exact ⟨m, hm, List.prefix_rfl⟩

theorem allocate_free {id : Nat} {s z : State} (hz : s.allocate id = some z) :
    s.mem.free.length = z.mem.free.length + 1 := by
  obtain ⟨l, blk, rest, -, hf, rfl⟩ := allocate_some_iff.mp hz
  rw [hf]
  rfl

section

variable {i : Fin 12} {r : CapRec} {s z : State}

/-- The state in which the block that a record's burst needs stands, where it is to be had (R66, R143). -/
def State.withBlock (r : CapRec) (s : State) : Option State :=
  if r.nextOff % 4096 = 0 then s.allocate r.layer else some s

theorem withBlock_joinsNone (hz : s.withBlock r = some z) : BurstsJoin [] s z := by
  unfold State.withBlock at hz
  split at hz
  · exact allocate_joinsNone hz
  · obtain rfl := Option.some.inj hz
    exact .refl s

theorem withBlock_free (hz : s.withBlock r = some z) : s.mem.free.length ≤ z.mem.free.length + 1 := by
  unfold State.withBlock at hz
  split at hz
  · exact (allocate_free hz).le
  · obtain rfl := Option.some.inj hz
    omega

theorem withBlock_now (hz : s.withBlock r = some z) : z.now = s.now := by
  unfold State.withBlock at hz
  split at hz
  · exact allocate_now _ _ _ hz
  · obtain rfl := Option.some.inj hz
    rfl

/-- A hand-over once its block stands and the queue has room: the burst joins the queue. -/
theorem handOver_queued (hr : s.capture.records[i] = some r) (hz : s.withBlock r = some z)
    (hq : z.mem.queue.length < 8) : ∃ q, s.handOver i =
      { z.setRecord i q with mem := { z.mem with queue := z.mem.queue ++ [r.burst z.now] } } := by
  unfold State.withBlock at hz
  unfold State.handOver
  rw [hr]
  dsimp only
  rw [hz]
  dsimp only
  exact ⟨_, if_pos hq⟩

/-- A block is to be had where one is free and the layer is there, or where none is needed. -/
theorem withBlock_some (hf : s.mem.free ≠ []) (hl : r.nextOff % 4096 = 0 → (s.layer? r.layer).isSome = true) :
    ∃ z, s.withBlock r = some z := by
  refine Option.ne_none_iff_exists'.mp ?_
  unfold State.withBlock
  split
  · next h0 =>
    obtain ⟨l, h⟩ := Option.isSome_iff_exists.mp (hl h0)
    exact allocate_ne_none h hf
  · exact Option.some_ne_none s

/-- A burst that finds no block while one is free is of a layer that is gone, and stays with its record. -/
theorem handOver_gone (hr : s.capture.records[i] = some r) (hz : s.withBlock r = none) (hf : s.mem.free ≠ []) :
    s.handOver i = s := by
  have hl : s.layer? r.layer = none := by
    by_contra hne
    obtain ⟨z, h⟩ := withBlock_some hf fun _ => Option.isSome_iff_ne_none.mpr hne
    rw [hz] at h
    cases h
  unfold State.withBlock at hz
  unfold State.handOver
  rw [hr]
  dsimp only
  rw [hz]
  dsimp only
  unfold State.exhaust
  rw [hl]

theorem handOver_queued_joins (hr : s.capture.records[i] = some r) (hz : s.withBlock r = some z)
    (hq : s.mem.queue.length < 8) : BurstsJoin [r.burst z.now] s (s.handOver i)
      ∧ (s.handOver i).mem.free = z.mem.free ∧ (s.handOver i).layers = z.layers := by
  have hjoin := withBlock_joinsNone hz
  have hzq : z.mem.queue = s.mem.queue := by rw [hjoin.queue, List.append_nil]
  obtain ⟨q, e⟩ := handOver_queued hr hz (by rw [hzq]; exact hq)
  rw [e]
  refine ⟨?_, rfl, rfl⟩
  exact hjoin.trans (u := z) (rest := [r.burst z.now])
    ⟨rfl, fun id l hl => ⟨l, hl, List.prefix_rfl⟩, rfl, rfl⟩

end

/-! ### All hand-overs of a settling (R64) -/

/-- Blocks enough are free for every burst that can still join before 4 are queued. -/
def State.Stocked (s : State) : Prop := s.mem.queue.length ≤ 4 ∧ 4 ≤ s.mem.queue.length + s.mem.free.length

theorem refillAll_joinsNone (s : State) : BurstsJoin [] s s.refillAll := .beside rfl rfl rfl rfl

theorem handOver_stocked (i : Fin 12) {s : State} (h : s.Stocked) (hlt : s.mem.queue.length < 4) :
    (s.handOver i).Stocked ∧ ∃ more, BurstsJoin more s (s.handOver i) := by
  obtain ⟨-, hfree⟩ := h
  cases hr : s.capture.records[i] with
  | none =>
    have e : s.handOver i = s := by rw [State.handOver, hr]
    rw [e]
    exact ⟨⟨hlt.le, hfree⟩, [], .refl s⟩
  | some r =>
    cases hz : s.withBlock r with
    | none =>
      have hne : s.mem.free ≠ [] := List.ne_nil_of_length_pos (by omega)
      rw [handOver_gone hr hz hne]
      exact ⟨⟨hlt.le, hfree⟩, [], .refl s⟩
    | some z =>
      obtain ⟨hjoin, hf, -⟩ := handOver_queued_joins hr hz (by omega)
      have hlen : (s.handOver i).mem.queue.length = s.mem.queue.length + 1 := by
        rw [hjoin.queue, List.length_append, List.length_singleton]
      have hblock := withBlock_free hz
      refine ⟨⟨by omega, ?_⟩, _, hjoin⟩
      rw [hf]
      omega

theorem settleCapture_stocked (n : Nat) : ∀ {s : State}, s.Stocked →
    (s.settleCapture n).mem.queue.length ≤ 4 ∧ ∃ more, BurstsJoin more s (s.settleCapture n) := by
  induction n with
  | zero => exact fun {s} h => ⟨h.1, [], refillAll_joinsNone s⟩
  | succ n ih =>
    intro s h
    have hrefilled : s.refillAll.Stocked := h
    unfold State.settleCapture
    dsimp only
    split
    · next hlt =>
      split
      · next i _ =>
        obtain ⟨hstock, more, hjoin⟩ := handOver_stocked i hrefilled hlt
        obtain ⟨hlen, rest, hrest⟩ := ih hstock
        exact ⟨hlen, _, ((refillAll_joinsNone s).trans hjoin).trans hrest⟩
      · exact ⟨h.1, [], refillAll_joinsNone s⟩
    · exact ⟨h.1, [], refillAll_joinsNone s⟩

/-- With 4 bursts queued or none waiting, nothing is handed over (R64). -/
theorem settleCapture_stands {n : Nat} {s : State} (hr : s.refillAll = s)
    (h : 4 ≤ s.mem.queue.length ∨ s.nextWaiting = none) : s.settleCapture n = s := by
  cases n with
  | zero => exact hr
  | succ n =>
    unfold State.settleCapture
    rw [hr]
    dsimp only
    obtain h | h := h
    · exact if_neg (by omega)
    · rw [h]
      exact ite_self s

/-- The record that goes first is handed over before the others (R64). -/
theorem settleCapture_first {n : Nat} {i : Fin 12} {s : State} (hr : s.refillAll = s) (hq : s.mem.queue.length < 4)
    (hi : s.nextWaiting = some i) : s.settleCapture (n + 1) = (s.handOver i).settleCapture n := by
  rw [State.settleCapture, hr, if_pos hq, hi]

/-! ### WAITING BURST HANDOVER -/

theorem exec_handover {s : State} (hp : s.power.resetHeld = false) :
    exec .waitingBurstHandover s = .next s.settle :=
  congrArg Host.Outcome.next (whenLive_live hp)

/-- The block that the first burst takes is appended to its layer (R66). -/
theorem withBlock_extents {r : CapRec} {blk : Nat} {rest : List Nat} {s z : State} {l : Layer}
    (hz : s.withBlock r = some z) (h0 : r.nextOff % 4096 = 0) (hl : s.layer? r.layer = some l)
    (hf : s.mem.free = blk :: rest) : z.layer? r.layer = some { l with extents := l.extents ++ [blk] } := by
  unfold State.withBlock at hz
  rw [if_pos h0] at hz
  obtain ⟨l', blk', rest', hl', hf', rfl⟩ := allocate_some_iff.mp hz
  obtain rfl := Option.some.inj (hl.symm.trans hl')
  obtain ⟨rfl, -⟩ := List.cons.inj (hf.symm.trans hf')
  exact layer?_setLayer_same _ _ _

/-- Settles O54: a round of settling hands the first burst over, the rounds after it and the rest of settling only add
bursts and blocks; the search for the record that goes first and the moves of a refill are as stated. -/
theorem waitingBurstsAreHandedOver : Obligations.WaitingBurstsAreHandedOver := by
  unfold Obligations.WaitingBurstsAreHandedOver
  intro s
  refine ⟨fun hp hr => ⟨fun h => ?_, fun i r hq hi hrec hfree blk rest hf hlayer => ?_⟩, fun age hage => ?_,
    waiting_iff, fun r r' n hph hn hr' => ?_, refillAll_record s⟩
  · have hjoin := settle_joinsNone s
    rw [settleCapture_stands hr h] at hjoin
    exact ⟨_, exec_handover hp, by rw [hjoin.queue, List.append_nil], hjoin.cycle, hjoin.words⟩
  · obtain ⟨z, hz⟩ := withBlock_some (by rw [hf]; exact List.cons_ne_nil _ _) hlayer
    obtain ⟨hjoin, -, hlayers⟩ := handOver_queued_joins hrec hz (by omega)
    obtain ⟨hstock, -⟩ := handOver_stocked i (s := s) ⟨hq.le, by omega⟩ hq
    obtain ⟨hlen, more, hmore⟩ := settleCapture_stocked 15 hstock
    have hsettle := settle_joinsNone s
    rw [handOverRounds, settleCapture_first hr hq hi] at hsettle
    have hrest := hmore.trans_beside hsettle
    have hall := hjoin.trans hrest
    refine ⟨_, more, exec_handover hp, ?_, ?_, fun h0 l hl => ?_, hall.cycle, hall.words⟩
    · rw [hall.queue, withBlock_now hz]
      rfl
    · rw [hsettle.queue, List.append_nil]
      exact hlen
    · refine hrest.extents r.layer { l with extents := l.extents ++ [blk] } ?_
      rw [State.layer?, hlayers]
      exact withBlock_extents hz h0 hl hf
  · subst hage
    refine ⟨nextWaiting_none_iff s, fun i hi => ?_⟩
    have hfound := nextWaiting_found s
    rw [hi] at hfound
    obtain ⟨-, r, hr, hw, hfirst⟩ := hfound
    exact ⟨r, hr, hw, fun j => hfirst j (List.mem_finRange j)⟩
  · have hmoved : r.moved s.capture (s.track r.track).sources (r.movable s.cycle.frameCount) = r' := by
      rw [hr', hn.trans (movable_eq hph).symm]
      rfl
    cases hphase : r.phase with
    | inStep => exact absurd hphase hph
    | filling => exact refill_filling hphase hmoved
    | draining => exact refill_draining hphase hmoved

end Sys2Proof.Machine


/-! # O56: playback buffers that wait, and the emptiest of them (R140, R147) -/

namespace Sys2Proof.Machine

open Sys2Proof

theorem mem_playbackWaiting {s : State} {n id : Nat} {r : Range} : (n, id, r) ∈ s.playbackWaiting ↔
    ∃ l, (id, l) ∈ s.layers ∧ n = l.buf.data.length ∧ s.playbackRange id l = some r := by
  unfold State.playbackWaiting
  rw [List.mem_filterMap]
  constructor
  · rintro ⟨⟨j, l⟩, hl, h⟩
    obtain ⟨q, hq, he⟩ := Option.map_eq_some_iff.mp h
    cases he
    exact ⟨l, hl, rfl, hq⟩
  · rintro ⟨l, hl, rfl, hr⟩
    exact ⟨(id, l), hl, by rw [hr]; rfl⟩

/-- The buffers that wait are listed by rising id, as the layer records are. -/
theorem playbackWaiting_sorted {s : State} (h : s.layers.Pairwise (fun e f => e.1 < f.1)) :
    s.playbackWaiting.Pairwise (fun x y => x.2.1 < y.2.1) := by
  refine List.Pairwise.filterMap _ (fun e f hlt x hx y hy => ?_) h
  obtain ⟨r, -, rfl⟩ := Option.map_eq_some_iff.mp hx
  obtain ⟨q, -, rfl⟩ := Option.map_eq_some_iff.mp hy
  exact hlt

theorem bestBuffer_some {l : List (Nat × Nat × Range)} (h : l ≠ []) : ∃ x, bestBuffer l = some x := by
  cases l with
  | nil => exact absurd rfl h
  | cons a l =>
    unfold bestBuffer
    split
    · exact ⟨_, rfl⟩
    · split <;> exact ⟨_, rfl⟩

/-- The best of a list is its head, unless the best of the rest has fewer samples. -/
theorem bestBuffer_cons {a x : Nat × Nat × Range} {l : List (Nat × Nat × Range)} (h : bestBuffer (a :: l) = some x) :
    (x = a ∧ ∀ y, bestBuffer l = some y → a.1 ≤ y.1) ∨ (bestBuffer l = some x ∧ x.1 < a.1) := by
  rw [bestBuffer] at h
  cases hb : bestBuffer l with
  | none =>
    rw [hb] at h
    obtain rfl := Option.some.inj h
    exact .inl ⟨rfl, fun y hy => nomatch hy⟩
  | some y =>
    rw [hb] at h
    dsimp only at h
    split at h
    · next hle =>
      obtain rfl := Option.some.inj h
      exact .inl ⟨rfl, fun z hz => Option.some.inj hz ▸ hle⟩
    · next hgt =>
      obtain rfl := Option.some.inj h
      exact .inr ⟨rfl, Nat.not_le.mp hgt⟩

/-- PLAYBACK goes to a buffer of the list with the fewest samples (R140). -/
theorem bestBuffer_least {l : List (Nat × Nat × Range)} :
    ∀ {x}, bestBuffer l = some x → x ∈ l ∧ ∀ y ∈ l, x.1 ≤ y.1 := by
  induction l with
  | nil => exact fun h => nomatch h
  | cons a l ih =>
    intro x h
    obtain ⟨rfl, hle⟩ | ⟨hx, hlt⟩ := bestBuffer_cons h
    · refine ⟨List.mem_cons_self, List.forall_mem_cons.mpr ⟨le_rfl, fun y hy => ?_⟩⟩
      obtain ⟨z, hz⟩ := bestBuffer_some (List.ne_nil_of_mem hy)
      exact (hle z hz).trans ((ih hz).2 y hy)
    · obtain ⟨hmem, hmin⟩ := ih hx
      exact ⟨List.mem_cons_of_mem a hmem, List.forall_mem_cons.mpr ⟨hlt.le, hmin⟩⟩

/-- Of the buffers with the fewest samples it goes to the one of the lowest id (R140). -/
theorem bestBuffer_lowest {l : List (Nat × Nat × Range)} : ∀ {x}, l.Pairwise (fun x y => x.2.1 < y.2.1) →
    bestBuffer l = some x → ∀ y ∈ l, y.1 = x.1 → x.2.1 ≤ y.2.1 := by
  induction l with
  | nil => exact fun _ h => nomatch h
  | cons a l ih =>
    intro x hs h
    obtain ⟨hhead, htail⟩ := List.pairwise_cons.mp hs
    obtain ⟨rfl, -⟩ | ⟨hx, hlt⟩ := bestBuffer_cons h
    · exact List.forall_mem_cons.mpr ⟨fun _ => le_rfl, fun y hy _ => (hhead y hy).le⟩
    · exact List.forall_mem_cons.mpr ⟨fun he => absurd he hlt.ne', ih htail hx⟩

end Sys2Proof.Machine


/-! # O56: the arbiter's grants by class (R140, R141) -/

namespace Sys2Proof.Machine

open Sys2Proof

/-! ### The classes in their order (R140) -/

theorem exec_arbitrates {s : State} (hp : s.power.resetHeld = false) : exec .arbiterGrant s = .next s.arbitrate :=
  congrArg Host.Outcome.next (whenLive_live hp)

theorem arbitrate_stands {s : State} (h : s.mem.mode ≠ .serving ∨ s.mem.grant ≠ none) : s.arbitrate = s :=
  if_neg (not_and_or.mpr h)

theorem exec_grants {s t : State} (hp : s.power.resetHeld = false) (hm : s.mem.mode = .serving)
    (hg : s.mem.grant = none) (ht : s.grantNext = t) : exec .arbiterGrant s = .next t.settle := by
  rw [exec_arbitrates hp, State.arbitrate, if_pos ⟨hm, hg⟩, ht]

section

variable {s : State}

theorem grantNext_refresh (h : s.mem.refreshWaiting = true) : s.grantNext =
    { s with mem := { s.mem with refreshWaiting := false, grant := some .refresh } } := if_pos h

theorem grantNext_playback {n id : Nat} {r : Range} (hr : s.mem.refreshWaiting = false)
    (hb : bestBuffer s.playbackWaiting = some (n, id, r)) : s.grantNext = s.grantPlayback id r := by
  rw [State.grantNext, if_neg (by simp [hr]), hb]

/-- Without a refresh and a playback buffer that waits, a raised background requester comes first. -/
theorem grantNext_raised {who : Background} (hr : s.mem.refreshWaiting = false) (hb : s.playbackWaiting = [])
    (hw : s.raisedWaiting = some who) : s.grantNext = s.grantBackground who := by
  rw [State.grantNext, if_neg (by simp [hr]), hb, bestBuffer]
  dsimp only
  rw [hw]

theorem grantNext_capture {b : Burst} {rest : List Burst} (hr : s.mem.refreshWaiting = false)
    (hb : s.playbackWaiting = []) (hw : s.raisedWaiting = none) (hq : s.mem.queue = b :: rest) :
    s.grantNext = s.grantCapture b rest := by
  rw [State.grantNext, if_neg (by simp [hr]), hb, bestBuffer]
  dsimp only
  rw [hw]
  dsimp only
  rw [hq]

/-- With nothing else to grant, the next background requester that waits, and nothing where none does. -/
theorem grantNext_background (hr : s.mem.refreshWaiting = false) (hb : s.playbackWaiting = [])
    (hw : s.raisedWaiting = none) (hq : s.mem.queue = []) :
    s.grantNext = (s.anyWaiting.map s.grantBackground).getD s := by
  rw [State.grantNext, if_neg (by simp [hr]), hb, bestBuffer]
  dsimp only
  rw [hw]
  dsimp only
  rw [hq]
  dsimp only
  cases s.anyWaiting <;> rfl

theorem grantPlayback_layer {id : Nat} {r : Range} {l : Layer} (hl : s.layer? id = some l) : s.grantPlayback id r =
    (s.setGrant (some (.playback (l.reading id r)))).setLayer id { l with buf := { l.buf with flight := true } } := by
  rw [State.grantPlayback, hl]

end

/-! ### Background requesters from the pointer on (R141) -/

theorem find_first {α : Type} {p : α → Bool} {order before rest : List α} {x : α} (ho : order = before ++ x :: rest)
    (hx : p x = true) (hb : ∀ y ∈ before, p y = false) : order.find? p = some x :=
  List.find?_eq_some_iff_append.mpr ⟨hx, before, rest, ho, fun y hy => by rw [hb y hy]; rfl⟩

section

variable {s : State} {who : Background} {before rest : List Background}

theorem raisedWaiting_first (ho : backgroundsFrom s.mem.pointer = before ++ who :: rest)
    (hw : s.backgroundWaiting who = true) (hr : (s.waitOf who).raised = true)
    (hb : ∀ b ∈ before, ¬ (s.backgroundWaiting b = true ∧ (s.waitOf b).raised = true)) :
    s.raisedWaiting = some who :=
  find_first ho (by rw [hw, hr]; rfl) fun b hm => by
    rw [← Bool.not_eq_true, Bool.and_eq_true]
    exact hb b hm

theorem raisedWaiting_none (h : ∀ b, ¬ (s.backgroundWaiting b = true ∧ (s.waitOf b).raised = true)) :
    s.raisedWaiting = none :=
  List.find?_eq_none.mpr fun b _ => by
    rw [Bool.and_eq_true]
    exact h b

theorem anyWaiting_first (ho : backgroundsFrom s.mem.pointer = before ++ who :: rest)
    (hw : s.backgroundWaiting who = true) (hb : ∀ b ∈ before, s.backgroundWaiting b = false) :
    s.anyWaiting = some who := find_first ho hw hb

theorem anyWaiting_none (h : ∀ b, s.backgroundWaiting b = false) : s.anyWaiting = none :=
  List.find?_eq_none.mpr fun b _ => by simp [h b]

end

/-! ### A background grant (R141, R150, R152, R153) -/

/-- The state once a background requester has had its grant: lowered, the pointer past it (R141). -/
def State.passed (who : Background) (s : State) : State :=
  { s.setWait who Wait.idle with mem := { (s.setWait who Wait.idle).mem with pointer := nextBackground who } }

theorem grantBackground_passed (who : Background) (s : State) : ∃ u : State, s.grantBackground who = u.passed who :=
  ⟨_, rfl⟩

theorem grantBackground_fold (s : State) : s.grantBackground .fold = s.grantFold.passed .fold := rfl

theorem grantBackground_window (p : Port) (s : State) :
    s.grantBackground (portBackground p) = (s.grantWindow p).passed (portBackground p) := by
  cases p <;> rfl

theorem passed_pointer (who : Background) (s : State) : (s.passed who).mem.pointer = nextBackground who := rfl

theorem passed_waitOf (who : Background) (s : State) : (s.passed who).waitOf who = Wait.idle := by
  cases who <;> rfl

theorem grantFold_write {f : Fold} {xs : List Sample} {s : State} (hf : s.fold = some f) (ho : f.out = some xs) :
    s.grantFold = { s with fold := some { f with granted := true } }.setGrant
      (some (.foldWrite ((s.layer? f.result).bind fun l => l.blockOf f.nextOff) f.nextOff xs)) := by
  unfold State.grantFold
  rw [hf]
  dsimp only
  rw [ho]

theorem grantFold_read {f : Fold} {r : FoldRead} {rest : List FoldRead} {id : Nat} {l : Layer} {s : State}
    (hf : s.fold = some f) (ho : f.out = none) (hr : f.reads = r :: rest)
    (hid : id = if r.newer = true then f.newer else f.older) (hl : s.layer? id = some l) :
    s.grantFold = { s with fold := some { f with granted := true } }.setGrant
      (some (.foldRead (l.reading id { first := r.first, len := min r.len (l.length - r.first) }) r.newer)) := by
  unfold State.grantFold
  rw [hf]
  dsimp only
  rw [ho, hr]
  dsimp only
  rw [← hid, hl]

section

variable {p : Port} {w : Window} {t limit : Nat} {l : Layer} {r : Range} {s : State}

/-- The range that a READ window asks for: the rest of its burst range in its direction (R152). -/
theorem nextRange_eq (hr : r = (match w.dir with
      | .forward => { first := w.next, len :=
          (if l.state = .opened then (w.next / 64 + 1) * 64 else min ((w.next / 64 + 1) * 64) l.length) - w.next }
      | .reverse => { first := w.next / 64 * 64, len := w.next % 64 + 1 })) (h0 : r.len ≠ 0) :
    w.nextRange l.windowEnd = some r := by
  unfold Window.nextRange Layer.windowEnd
  cases hd : w.dir with
  | reverse =>
    rw [hd] at hr
    rw [hr]
  | forward =>
    rw [hd] at hr
    subst hr
    by_cases ho : l.state = .opened
    · simp only [ho, if_true] at h0 ⊢
      exact if_neg (by omega)
    · simp only [ho, if_false] at h0 ⊢
      exact if_neg (by omega)

theorem windowReady_some (hw : s.window p = some w) (hm : w.mode = .read) (hq : w.req = .waiting t limit)
    (hl : s.layer? w.layer = some l) (hn : w.nextRange l.windowEnd = some r) (hready : l.ready r = true) :
    s.windowReady p = some r := by
  unfold State.windowReady
  rw [hw]
  dsimp only
  rw [hm, hq, hl]
  dsimp only
  rw [hn]
  exact if_pos hready

theorem grantWindow_read (hw : s.window p = some w) (hm : w.mode = .read) (hq : w.req = .waiting t limit)
    (hl : s.layer? w.layer = some l) (hready : s.windowReady p = some r) : s.grantWindow p =
      (s.setWindow p (some { w with req := .granted t })).setGrant (some (.windowRead p (l.reading w.layer r))) := by
  unfold State.grantWindow
  rw [hw]
  dsimp only
  rw [hq]
  dsimp only
  rw [hm, hready, hl]

theorem grantWindow_write (hw : s.window p = some w) (hm : w.mode = .write) (hq : w.req = .waiting t limit) :
    s.grantWindow p = (s.setWindow p (some { w with req := .granted t })).setGrant
      (some (.windowCommit p ((s.layer? w.layer).bind fun l => l.blockOf (w.next - w.buf.length))
        (w.next - w.buf.length) w.buf)) := by
  unfold State.grantWindow
  rw [hw]
  dsimp only
  rw [hq]
  dsimp only
  rw [hm]

theorem passed_window (p : Port) (g : Grant) (x : Option Window) (s : State) :
    ((s.setWindow p x).setGrant (some g)).passed (portBackground p) =
      (let v := (s.setWindow p x).setWait (portBackground p) Wait.idle
       { v with mem := { v.mem with grant := some g, pointer := nextBackground (portBackground p) } }) := by
  cases p <;> rfl

end

/-! ### Topping up (R147) -/

theorem settleBuffers_unused {id : Nat} {l : Layer} {s : State} (hl : s.layer? id = some l)
    (h : ¬ s.BufferUsed id l) : s.settleBuffers.layer? id = some l := by
  rw [layer?_settleBuffers, hl, Option.map_some, if_neg (mt (bufInUse_iff s id l).mp h)]

theorem settleBuffers_used {id : Nat} {l : Layer} {s : State} (hl : s.layer? id = some l) (h : s.BufferUsed id l) :
    ∃ b, ToppedUp l (s.bufferEnd id l) l.buf b ∧ s.settleBuffers.layer? id = some { l with buf := b } := by
  refine ⟨_, placeHoles_toppedUp l _ 65 l.buf (Nat.le_add_right _ _), ?_⟩
  rw [layer?_settleBuffers, hl, Option.map_some, if_pos ((bufInUse_iff s id l).mpr h), lengthOf_eq_bufferEnd]

/-! ### O56 -/

section

variable {s : State} (hp : s.power.resetHeld = false) (hm : s.mem.mode = .serving) (hg : s.mem.grant = none)

include hp hm hg

/-- A waiting playback buffer is granted the range that it looks at, the emptiest first (R140, R147). -/
theorem exec_grants_playback (hr : s.mem.refreshWaiting = false) (hne : s.playbackWaiting ≠ []) :
    ∃ n id r, (n, id, r) ∈ s.playbackWaiting ∧ (∀ m j q, (m, j, q) ∈ s.playbackWaiting → n ≤ m)
      ∧ (s.layers.Pairwise (fun e f => e.1 < f.1) → ∀ m j q, (m, j, q) ∈ s.playbackWaiting → m = n → id ≤ j)
      ∧ ∃ l, s.layer? id = some l ∧ exec .arbiterGrant s = .next
        ((s.setGrant (some (.playback (l.reading id r)))).setLayer id
          { l with buf := { l.buf with flight := true } }).settle := by
  obtain ⟨⟨n, id, r⟩, hbest⟩ := bestBuffer_some hne
  obtain ⟨hmem, hmin⟩ := bestBuffer_least hbest
  obtain ⟨m, hlm, -, -⟩ := mem_playbackWaiting.mp hmem
  obtain ⟨l, hl⟩ := Option.isSome_iff_exists.mp ((find_isSome id s.layers).mpr (List.mem_map_of_mem hlm))
  refine ⟨n, id, r, hmem, fun m j q h => hmin _ h,
    fun hs m j q h he => bestBuffer_lowest (playbackWaiting_sorted hs) hbest _ h he, l, hl, ?_⟩
  exact exec_grants hp hm hg ((grantNext_playback hr hbest).trans (grantPlayback_layer hl))

/-- With an empty queue and no raised requester, the next background requester that waits is granted (R140, R141). -/
theorem exec_grants_background {who : Background} {before rest : List Background} (hr : s.mem.refreshWaiting = false)
    (hb : s.playbackWaiting = []) (hnone : s.raisedWaiting = none) (hq : s.mem.queue = [])
    (ho : backgroundsFrom s.mem.pointer = before ++ who :: rest) (hw : s.backgroundWaiting who = true)
    (hbef : ∀ b ∈ before, s.backgroundWaiting b = false) :
    exec .arbiterGrant s = .next (s.grantBackground who).settle := by
  refine exec_grants hp hm hg ?_
  rw [grantNext_background hr hb hnone hq, anyWaiting_first ho hw hbef]
  rfl

/-- With no requester nothing is granted (R140). -/
theorem exec_grants_nothing (hr : s.mem.refreshWaiting = false) (hb : s.playbackWaiting = [])
    (hq : s.mem.queue = []) (hidle : ∀ b, s.backgroundWaiting b = false) : exec .arbiterGrant s = .next s.settle := by
  refine exec_grants hp hm hg ?_
  rw [grantNext_background hr hb (raisedWaiting_none fun b h => by simp [hidle b] at h) hq, anyWaiting_none hidle]
  rfl

end

/-- Settles O56: the classes in their order, each grant as its requester stands, and the buffers that wait. -/
theorem arbiterGrantsInOrder : Obligations.ArbiterGrantsInOrder := by
  unfold Obligations.ArbiterGrantsInOrder
  intro s hp after order hafter horder
  obtain rfl : after = nextBackground := by
    rw [hafter]
    funext b
    cases b <;> rfl
  have hfrom : backgroundsFrom s.mem.pointer = order := horder.symm
  refine ⟨fun h => ?_, fun hm hg => ⟨fun hr => ?_, exec_grants_playback hp hm hg, fun hr hb => ⟨?_, ?_⟩⟩,
    fun who => ?_, fun f hf => ⟨fun xs ho => ?_, fun r rest id l ho hr hid hl => ?_⟩,
    fun p who w t limit v hwho hw hq hv => ?_, fun n id r => ?_, fun id l hl => ?_⟩
  · rw [exec_arbitrates hp, arbitrate_stands h]
  · exact exec_grants hp hm hg (grantNext_refresh hr)
  · intro who before rest ho hw hraised hbef
    exact exec_grants hp hm hg (grantNext_raised hr hb (raisedWaiting_first (hfrom.trans ho) hw hraised hbef))
  · intro h
    have hnone := raisedWaiting_none h
    refine ⟨fun b rest hq => exec_grants hp hm hg (grantNext_capture hr hb hnone hq), fun hq => ⟨?_, ?_⟩⟩
    · intro who before rest ho
      exact exec_grants_background hp hm hg hr hb hnone hq (hfrom.trans ho)
    · exact exec_grants_nothing hp hm hg hr hb hq
  · obtain ⟨u, hu⟩ := grantBackground_passed who s
    rw [hu]
    exact ⟨passed_pointer who u, passed_waitOf who u⟩
  · rw [grantBackground_fold, grantFold_write hf ho]
    rfl
  · rw [grantBackground_fold, grantFold_read hf ho hr hid hl]
    rfl
  · have hport : who = portBackground p := by
      rw [hwho]
      cases p <;> rfl
    subst hport hv
    refine ⟨fun l r hm hl hr h0 hready => ?_, fun o hm ho => ?_⟩
    · have hwait := windowReady_some hw hm hq hl (nextRange_eq hr h0) hready
      rw [grantBackground_window, grantWindow_read hw hm hq hl hwait, passed_window]
      rfl
    · rw [grantBackground_window, grantWindow_write hw hm hq, passed_window, ho]
      rfl
  · rw [mem_playbackWaiting]
    refine exists_congr fun l => and_congr_right fun _ => and_congr_right fun _ => ?_
    rw [playbackRange_iff, ready_iff]
    tauto
  · exact ⟨settleBuffers_unused hl, settleBuffers_used hl⟩

end Sys2Proof.Machine


/-! # Cues that take effect and CANCEL CUE (R6, R91, R92, R94) -/

namespace Sys2Proof.Machine

open Sys2Proof

/-! ### The boundary work in the order given (R6, R30, R91) -/

/-- The tracks that wrap with a pass are those that have a span and whose span divides it (R6, R16). -/
theorem mem_wrapping {t : TrackId} {pass : Nat} {s : State} :
    t ∈ s.wrapping pass ↔ ∃ span, (s.track t).span = some span ∧ pass % span = 0 := by
  simp only [State.wrapping, List.mem_filter, List.mem_finRange, true_and]
  cases (s.track t).span <;> simp

theorem boundaryWork_track (r : Reached) (t : TrackId) (w : List (Option TrackId)) (wraps : List TrackId) (s : State) :
    s.boundaryWork r (some t :: w) wraps =
      if t ∈ wraps then (s.wrapTrack t).boundaryWork r w (wraps.erase t) else s.boundaryWork r w wraps := by
  simp only [State.boundaryWork, List.contains_iff_mem]

/-- With no wrap left, what the order does not name is the cues, from the head on (R91). -/
theorem boundaryWork_cuesLeft (r : Reached) (s : State) :
    s.boundaryWork r [] [] =
      if s.cues.entries = [] then s else (s.takeCue r).takeCues r (s.cues.entries.length - 1) := by
  show s.takeCues r s.cues.entries.length = _
  cases s.cues.entries with
  | nil => rfl
  | cons c rest => rfl

/-! ### The head entry taken (R91, R92) -/

section

variable {r : Reached} {s u : State} {c : Cue} {rest : List Cue}

theorem headElsewhere_nil (h : s.cues.entries = []) : s.cues.headElsewhere r := by
  intro d l hd
  rw [h] at hd
  cases hd

theorem headElsewhere_cons (h : s.cues.entries = c :: rest) (hr : ¬ (c.duePass = r.pass ∧ c.duePos = r.pos)) :
    s.cues.headElsewhere r := by
  intro d l hd
  rw [h] at hd
  obtain ⟨rfl, -⟩ := List.cons.inj hd
  exact hr

/-- An owner that accepts the head's action: it acts on the state without the entry, and CUE DONE follows (R92). -/
theorem takeCue_done (h : s.cues.entries = c :: rest) (hp : c.duePass = r.pass) (hq : c.duePos = r.pos)
    (ha : ({ s with cues := { s.cues with entries := rest } } : State).act c.action c.target .arriving = .ok u) :
    s.takeCue r = u.raiseEvent { u.cueEvent .cueDone c c.detail with pass := r.pass, pos := r.pos } := by
  simp only [State.takeCue, h, hp, hq, and_self, if_true, ha]

/-- An owner that refuses the head's action: the entry alone leaves, and CUE DROPPED gives the reason (R92). -/
theorem takeCue_dropped {st : Status} (h : s.cues.entries = c :: rest) (hp : c.duePass = r.pass)
    (hq : c.duePos = r.pos) {v : State} (hv : v = { s with cues := { s.cues with entries := rest } })
    (ha : v.act c.action c.target .arriving = .error st) :
    s.takeCue r = v.raiseEvent
      { v.cueEvent .cueDropped c (c.detail + 256 * (dropReasonOf st).ctorIdx) with pass := r.pass, pos := r.pos } := by
  subst hv
  simp only [State.takeCue, h, hp, hq, and_self, if_true, ha]

end

/-! ### CANCEL CUE (R94) -/

section

variable {h : Req} {cue : BitVec 16} {s : State}

theorem exec_cancelCue_found (hs : s.serves h 2) {c : Cue}
    (hc : s.cues.entries.find? (fun c => c.id == cue.toNat) = some c) :
    exec (.cancelCue h cue) s =
      .next (((s.handedOn h 48).dropCue .cancelled c).replied h 48 .ok (bytes 2 cue.toNat)) := by
  refine congrArg _ (request_answered hs (by decide) ?_)
  simp only [ownCancelCue, cues_handedOn, hc]
  rfl

theorem exec_cancelCue_notFound (hs : s.serves h 2)
    (hc : s.cues.entries.find? (fun c => c.id == cue.toNat) = none) :
    exec (.cancelCue h cue) s = .next ((s.handedOn h 48).replied h 48 .notFound []) := by
  refine congrArg _ (request_answered hs (by decide) ?_)
  simp only [ownCancelCue, cues_handedOn, hc]
  rfl

/-- What dropping an entry as CANCELLED does to the state handed on: the entries of its id leave, and CUE DROPPED is
stamped with the current place (R92, R94). -/
theorem dropCue_cancelled_handedOn (h : Req) (code : Nat) (c : Cue) (s : State) :
    (s.handedOn h code).dropCue .cancelled c =
      { s.handedOn h code with
        cues := { s.cues with entries := s.cues.entries.filter (fun d => d.id != c.id) } }.raiseEvent
        { kind := .cueDropped, urgent := false, track := c.target, layer := none, cue := some c.id
          pass := s.cycle.pass, pos := s.cycle.shownPos, detail := BitVec.ofNat 16 (c.detail + 256) } := by
  simp only [State.dropCue, State.reportDrop, State.removeCue, State.cueEvent, State.event, cues_handedOn,
    cycle_handedOn]
  rfl

end

/-- Settles O34: the boundary work step by step and how it ends, the head entry's three cases, and CANCEL CUE. -/
theorem cuesTakeEffectOrAreCancelled : Obligations.CuesTakeEffectOrAreCancelled := by
  unfold Obligations.CuesTakeEffectOrAreCancelled
  intro s
  refine ⟨fun r ord wraps => ⟨rfl, rfl, fun t => mem_wrapping, fun w => rfl,
      fun t w => boundaryWork_track r t w wraps s, fun t => rfl, boundaryWork_cuesLeft r s,
      (boundaryWork_done r ord.work wraps s).1⟩,
    fun r => ⟨fun h => takeCue_idle (headElsewhere_nil h), fun c rest h hr => takeCue_idle (headElsewhere_cons h hr),
      ?_⟩,
    fun h cue hs => ⟨fun c hc => ?_, exec_cancelCue_notFound hs⟩⟩
  · intro c rest v h hp hq hv
    refine ⟨fun u ha => ?_, fun st ha => takeCue_dropped h hp hq hv ha⟩
    subst hv
    exact takeCue_done h hp hq ha
  · rw [exec_cancelCue_found hs hc, dropCue_cancelled_handedOn]

end Sys2Proof.Machine


/-! # Entries of the cue list: their order, their ids and the ports that join (R85 to R90) -/

namespace Sys2Proof.Machine

open Sys2Proof

/-! ### A list in order of due (R85) -/

/-- How far ahead of the current place the due of an entry lies (R85). -/
def Cycle.distanceTo (c : Cycle) (e : Cue) : Nat := c.forwardDistance e.duePass e.duePos

/-- A new entry stands after entries whose due is nearer or equal, and before one whose due is farther (R85). -/
theorem insertCue_place (c : Cycle) (e : Cue) (l : List Cue) :
    ∃ before after, l = before ++ after ∧ insertCue c e l = before ++ e :: after
      ∧ (∀ x ∈ before, c.distanceTo x ≤ c.distanceTo e) ∧ ∀ x ∈ after.head?, c.distanceTo e < c.distanceTo x := by
  induction l with
  | nil => exact ⟨[], [], rfl, rfl, by simp, by simp⟩
  | cons y l ih =>
    by_cases hy : c.distanceTo e < c.distanceTo y
    · exact ⟨[], y :: l, rfl, if_pos hy, by simp, by simpa using hy⟩
    · obtain ⟨before, after, hl, hi, hb, ha⟩ := ih
      refine ⟨y :: before, after, congrArg (y :: ·) hl, (if_neg hy).trans (congrArg (y :: ·) hi), ?_, ha⟩
      exact List.forall_mem_cons.mpr ⟨Nat.le_of_not_lt hy, hb⟩

/-- A list in order of due stays in order when an entry is placed (R85). -/
theorem insertCue_ordered {c : Cycle} {e : Cue} {l : List Cue}
    (h : l.Pairwise fun x y => c.distanceTo x ≤ c.distanceTo y) :
    (insertCue c e l).Pairwise fun x y => c.distanceTo x ≤ c.distanceTo y := by
  obtain ⟨before, after, rfl, hi, hb, ha⟩ := insertCue_place c e l
  rw [hi]
  obtain ⟨hbefore, hafter, hacross⟩ := List.pairwise_append.mp h
  have hfar : ∀ y ∈ after, c.distanceTo e ≤ c.distanceTo y := by
    cases after with
    | nil => simp
    | cons z after =>
      have hz : c.distanceTo e ≤ c.distanceTo z := (ha z rfl).le
      exact List.forall_mem_cons.mpr ⟨hz, fun y hy => hz.trans ((List.pairwise_cons.mp hafter).1 y hy)⟩
  refine List.pairwise_append.mpr ⟨hbefore, List.pairwise_cons.mpr ⟨hfar, hafter⟩, fun x hx => ?_⟩
  exact List.forall_mem_cons.mpr ⟨hb x hx, hacross x hx⟩

/-! ### The next cue id not in use (R86) -/

/-- The id k places after n, 65,535 followed by 1 (R86). -/
def cueIdAfter (n k : Nat) : Nat := (n - 1 + k) % 65535 + 1

theorem cueIdAfter_zero {n : Nat} (h1 : 1 ≤ n) (h2 : n ≤ 65535) : cueIdAfter n 0 = n := by
  unfold cueIdAfter
  omega

theorem nextCueId_range {n : Nat} (h : n ≤ 65535) : 1 ≤ nextCueId n ∧ nextCueId n ≤ 65535 := by
  unfold nextCueId
  split <;> omega

theorem cueIdAfter_next {n : Nat} (h1 : 1 ≤ n) (h2 : n ≤ 65535) (k : Nat) :
    cueIdAfter (nextCueId n) k = cueIdAfter n (k + 1) := by
  unfold cueIdAfter nextCueId
  split <;> omega

/-- The ids of one round are different. -/
theorem cueIdAfter_inj {n j k : Nat} (hj : j < 65535) (hk : k < 65535) (h : cueIdAfter n j = cueIdAfter n k) :
    j = k := by
  unfold cueIdAfter at h
  omega

/-- The search passes ids in use alone, and stops before its fuel is spent only at one not in use. -/
theorem pickCueId_scan (used : List Nat) (fuel : Nat) : ∀ n, 1 ≤ n → n ≤ 65535 →
    ∃ k ≤ fuel, pickCueId used fuel n = cueIdAfter n k ∧ (∀ j < k, cueIdAfter n j ∈ used)
      ∧ (k < fuel → cueIdAfter n k ∉ used) := by
  induction fuel with
  | zero => exact fun n h1 h2 => ⟨0, le_refl _, (cueIdAfter_zero h1 h2).symm, by simp, by simp⟩
  | succ fuel ih =>
    intro n h1 h2
    have h0 := cueIdAfter_zero h1 h2
    by_cases hn : n ∈ used
    · obtain ⟨k, hk, hpick, hused, hfree⟩ := ih (nextCueId n) (nextCueId_range h2).1 (nextCueId_range h2).2
      simp only [cueIdAfter_next h1 h2] at hpick hused hfree
      refine ⟨k + 1, by omega, by simp [pickCueId, hn, hpick], fun j hj => ?_, fun hk => hfree (by omega)⟩
      cases j with
      | zero => rwa [h0]
      | succ j => exact hused j (by omega)
    · exact ⟨0, by omega, by simp [pickCueId, hn, h0], by simp, fun _ => by rwa [h0]⟩

/-- A search passes at most as many ids as are in use. -/
theorem passed_le_length {used : List Nat} {n k : Nat} (hk : k ≤ 65535) (h : ∀ j < k, cueIdAfter n j ∈ used) :
    k ≤ used.length := by
  have hnodup : ((List.range k).map (cueIdAfter n)).Nodup := by
    refine List.Nodup.map_on (fun i hi j hj he => ?_) List.nodup_range
    rw [List.mem_range] at hi hj
    exact cueIdAfter_inj (by omega) (by omega) he
  have hsub : (List.range k).map (cueIdAfter n) ⊆ used := by
    intro x hx
    obtain ⟨j, hj, rfl⟩ := List.mem_map.mp hx
    exact h j (List.mem_range.mp hj)
  simpa using (List.subperm_of_subset hnodup hsub).length_le

/-- With at most 16 ids in use the search ends at the first one from the next cue id on that is free (R86). -/
theorem pickCueId_first {used : List Nat} {n : Nat} (hu : used.length ≤ 16) (h1 : 1 ≤ n) (h2 : n ≤ 65535) :
    ∃ k, k ≤ 16 ∧ pickCueId used 17 n = cueIdAfter n k ∧ pickCueId used 17 n ∉ used
      ∧ ∀ j < k, cueIdAfter n j ∈ used := by
  obtain ⟨k, hk, hpick, hused, hfree⟩ := pickCueId_scan used 17 n h1 h2
  have hle := passed_le_length (by omega) hused
  refine ⟨k, by omega, hpick, ?_, hused⟩
  rw [hpick]
  exact hfree (by omega)

/-! ### A port that joins (R87) -/

theorem Cue.join_eq (p : Port) (c : Cue) :
    c.join p = { c with joinedA := c.joinedA || decide (p = .a), joinedB := c.joinedB || decide (p = .b) } := by
  cases p <;> simp [Cue.join]

theorem joinCue_eq (id : Nat) (p : Port) (s : State) :
    s.joinCue id p = { s with cues := { s.cues with entries := s.cues.entries.map fun c =>
      if c.id = id then
        { c with joinedA := c.joinedA || decide (p = .a), joinedB := c.joinedB || decide (p = .b) }
      else c } } := by
  simp only [State.joinCue, Cue.join_eq]

/-! ### An action due ahead (R87 to R90) -/

section

variable {p : Port} {a : Action} {target : Option TrackId} {q : Quantum} {press : PressTime} {pass pos : Nat}
  {s : State} {e : Cue}

/-- The slot's entry has the same action and due: joined (R87). -/
theorem placeCue_joined (h : s.slot target a.family = some e)
    (he : e.action = a ∧ e.duePass = pass ∧ e.duePos = pos) :
    s.placeCue p a target q press pass pos = (s.joinCue e.id p,
      { status := .joined, cue := some e.id, point := some ⟨pass, pos⟩, back := none }) := by
  simp only [State.placeCue, h, if_pos he]

/-- The slot's entry has another action or due: dropped SUPERSEDED, and a new entry made (R88). -/
theorem placeCue_superseding (h : s.slot target a.family = some e)
    (he : ¬ (e.action = a ∧ e.duePass = pass ∧ e.duePos = pos)) :
    s.placeCue p a target q press pass pos =
      (((s.dropCue .superseded e).makeCue p a target q press pass pos).1,
        { status := .accepted, cue := some ((s.dropCue .superseded e).makeCue p a target q press pass pos).2
          point := some ⟨pass, pos⟩, back := none }) := by
  simp only [State.placeCue, h, if_neg he]

/-- The slot is empty and the list has room: a new entry made (R89). -/
theorem placeCue_new (h : s.slot target a.family = none) (hn : s.cues.entries.length < 16) :
    s.placeCue p a target q press pass pos = ((s.makeCue p a target q press pass pos).1,
      { status := .accepted, cue := some (s.makeCue p a target q press pass pos).2
        point := some ⟨pass, pos⟩, back := none }) := by
  simp only [State.placeCue, h, if_pos hn]

/-- The slot is empty and 16 entries wait: FULL (R89). -/
theorem placeCue_full (h : s.slot target a.family = none) (hn : 16 ≤ s.cues.entries.length) :
    s.placeCue p a target q press pass pos = (s, Answer.of .full) := by
  simp only [State.placeCue, h, if_neg (Nat.not_lt.mpr hn)]

end

theorem slot_handedOn (h : Req) (code : Nat) (target : Option TrackId) (f : Family) (s : State) :
    (s.handedOn h code).slot target f = s.slot target f := by
  simp only [State.slot, cues_handedOn]

section

variable {h : Req} {a : Action} {tb qb : Byte} {target : Option TrackId} {q : Quantum} {pass pos : Nat} {s v : State}
  (hs : s.serves h a.argLen) (ht : a.targetOf tb = some target) (hq : argQuantum qb = some q)
  (hd : s.dueOf a q s.pressNow = .due pass pos)

include hs ht hq hd

/-- A quantised request due ahead is answered as the cue list places it; nothing has acted, so nothing settles. -/
theorem exec_actionRequest_placed {ans : Answer} (hst : ans.status ≠ .ok)
    (e : (s.handedOn h a.code).placeCue h.port a target q s.pressNow pass pos = (v, ans)) :
    exec (a.request h tb qb) s = .next (v.replied h a.code ans.status ans.results) := by
  rw [exec_actionRequest hs hq ht ((quantised_due ((dueOf_handedOn _ _ _ _ _ _).trans hd)).trans e), if_neg hst]

/-- A request that names an entry answers its id and its due (R90). -/
theorem exec_actionRequest_entry {st : Status} {id : Nat} (hst : st ≠ .ok)
    (e : (s.handedOn h a.code).placeCue h.port a target q s.pressNow pass pos =
      (v, { status := st, cue := some id, point := some ⟨pass, pos⟩, back := none })) :
    exec (a.request h tb qb) s = .next (v.replied h a.code st (bytes 2 id ++ bytes 1 pass ++ bytes 3 pos)) := by
  rw [exec_actionRequest_placed hs ht hq hd hst e, List.append_assoc]
  rfl

end

/-- Settles O32: the four answers of the cue list to an action due ahead, the order of the list, the ids, and joining. -/
theorem quantisedActionsWaitInTheCueList : Obligations.QuantisedActionsWaitInTheCueList := by
  unfold Obligations.QuantisedActionsWaitInTheCueList
  refine ⟨?_, fun c e l far hfar hc => ?_, fun used n hu h1 h2 => ⟨?_, pickCueId_first hu h1 h2⟩, joinCue_eq⟩
  · intro h a tb qb target q pass pos s hs ht hq hd
    have hslot := slot_handedOn h a.code target a.family s
    refine ⟨fun e he h1 h2 h3 => ?_, fun e he hne v id hv hid => ?_, fun hn hlen id hid => ?_, fun hn hlen => ?_⟩
    · exact exec_actionRequest_entry hs ht hq hd (by decide) (placeCue_joined (hslot.trans he) ⟨h1, h2, h3⟩)
    · subst hv hid
      exact exec_actionRequest_entry hs ht hq hd (by decide) (placeCue_superseding (hslot.trans he) hne)
    · rw [exec_actionRequest_entry hs ht hq hd (by decide)
        (placeCue_new (hslot.trans hn) (by rwa [cues_handedOn]))]
      subst hid
      simp only [State.makeCue, cues_handedOn, cycle_handedOn]
    · exact exec_actionRequest_placed hs ht hq hd (by decide)
        (placeCue_full (hslot.trans hn) (by rwa [cues_handedOn]))
  · obtain rfl : far = c.distanceTo := by
      rw [hfar]
      funext x
      rw [Cycle.distanceTo, Cycle.forwardDistance, Nat.mod_eq_of_lt hc]
    exact ⟨insertCue_place c e l, insertCue_ordered⟩
  · unfold nextCueId
    exact if_congr (by omega) rfl rfl

end Sys2Proof.Machine


/-! # The switch map, press timing and the selected track (R103, R104, R115) -/

namespace Sys2Proof.Machine

open Sys2Proof

/-! ### SET SWITCH (R103) -/

/-- An argument that names nothing makes no map entry. -/
theorem argEntry_none {t ho d g q : Byte}
    (h : argSwAction t = none ∨ argSwAction ho = none ∨ argSwAction d = none ∨ argSwTarget g = none
      ∨ argQuantum q = none) : argEntry t ho d g q = none := by
  unfold argEntry
  split
  · next ht hh hd hg hq => simp [ht, hh, hd, hg, hq] at h
  · rfl

theorem argEntry_some {t ho d g q : Byte} {tapAct hold double : SwAction} {target : SwTarget} {quantum : Quantum}
    (ht : argSwAction t = some tapAct) (hh : argSwAction ho = some hold) (hd : argSwAction d = some double)
    (hg : argSwTarget g = some target) (hq : argQuantum q = some quantum) :
    argEntry t ho d g q = some { tap := tapAct, hold := hold.present, double := double.present
                                 target := target, quantum := quantum } := by
  simp only [argEntry, ht, hh, hd, hg, hq]

theorem ownSetSwitch_badArg {c : Byte} {e : Option MapEntry} {s : State} (h : argSwitch c = none ∨ e = none) :
    ownSetSwitch c e s = (s, some (.badArg, [])) := by
  unfold ownSetSwitch
  split
  · next hc => simp [hc] at h
  · rfl

theorem ownSetSwitch_some {c : Byte} {code : SwitchCode} {entry : Option MapEntry} {e : MapEntry} {s : State}
    (hc : argSwitch c = some code) (he : entry = some e) :
    ownSetSwitch c entry s = (s.setEntry code e, some (.ok, mapEntryBytes e)) := by
  simp only [ownSetSwitch, hc, he, State.answer]

/-! ### SELECT TRACK (R115) -/

theorem ownSelectTrack_none {p : Port} {tb : Byte} {s : State} (h : argTrack tb = none) :
    ownSelectTrack p tb s = (s, some (.badArg, [])) := by
  simp only [ownSelectTrack, h, State.answer]

theorem ownSelectTrack_some {p : Port} {tb : Byte} {t : TrackId} {s : State} (h : argTrack tb = some t) :
    ownSelectTrack p tb s = (s.selectTo p t, some (.ok, codeByte t.val)) := by
  simp only [ownSelectTrack, h, State.answer]

/-- Settles O37: each owner's answer, handed on by the request. -/
theorem switchMapAndTiming : Obligations.SwitchMapAndTiming := by
  unfold Obligations.SwitchMapAndTiming
  intro h s
  refine ⟨fun c t ho d g q hs => ⟨fun hn => ?_, ?_⟩, fun ho d hs => ?_, fun tb hs => ⟨fun ht => ?_, fun t ht => ?_⟩⟩
  · exact congrArg _ (request_answered hs (by decide) (ownSetSwitch_badArg (hn.imp_right argEntry_none)))
  · rintro code tapAct hold double target quantum hc ht hh hd hg hq e rfl
    have answered := request_answered (code := 56) hs (by decide)
      (ownSetSwitch_some hc (argEntry_some ht hh hd hg hq))
    refine (congrArg Host.Outcome.next answered).trans ?_
    simp only [State.setEntry, switches_handedOn, SwAction.present]
  · have answered := request_answered (code := 57) (owner := ownSetPressTiming ho.toNat d.toNat) hs (by decide) rfl
    refine (congrArg Host.Outcome.next answered).trans ?_
    simp only [clampNat, switches_handedOn]
  · exact congrArg _ (request_answered hs (by decide) (ownSelectTrack_none ht))
  · refine (congrArg Host.Outcome.next (request_answered hs (by decide) (ownSelectTrack_some ht))).trans ?_
    simp only [State.selectTo, switchPort_handedOn]
    rfl

end Sys2Proof.Machine


/-! # Toggles: joins, the projected state, and a cancel by name (R95, R112 to R114) -/

namespace Sys2Proof.Machine

open Sys2Proof

/-- Milliseconds as crystal periods (log entry 2). -/
theorem ms_eq (n : Nat) : Config.ms n = 16000 * n := Nat.mul_comm _ _

/-- Two moments are less than 100 ms apart, either way round (R113). -/
theorem joinClose_iff {a b : Nat} : joinClose a b = true ↔ a < b + 1600000 ∧ b < a + 1600000 := by
  simp only [joinClose, ms_eq, Bool.and_eq_true, decide_eq_true_eq]

theorem joinClose_eq_false_iff {a b : Nat} : joinClose a b = false ↔ a + 1600000 ≤ b ∨ b + 1600000 ≤ a := by
  rw [← Bool.not_eq_true, joinClose_iff]
  omega

theorem Port.other_ne (p : Port) : p ≠ p.other := by cases p <;> decide

/-- R114's two ways to contradict: a close against an opening, and an opening against a close. -/
theorem contradicts_iff {pending x : Action} : contradicts pending x = true ↔
    (x = .close ∧ (pending = .record ∨ pending = .overdub ∨ pending = .replace))
      ∨ (pending = .close ∧ (x = .record ∨ x = .overdub ∨ x = .replace)) := by
  constructor
  · unfold contradicts
    split <;> simp
  · rintro (⟨rfl, rfl | rfl | rfl⟩ | ⟨rfl, rfl | rfl | rfl⟩) <;> rfl

section

variable {p : Port} {t : TrackId} {act : SwAction} {q : Quantum} {press : PressTime} {s : State} {e : Cue} {x : Action}

/-! ### Joins (R113) -/

theorem toggle_joinsEntry (h : s.slot (some t) .transport = some e) (ho : e.origin = p.other)
    (hc : joinClose e.press.time press.time = true) :
    s.toggle p t act q press = (s.joinCue e.id p, .join,
      { status := .joined, cue := some e.id, point := some ⟨e.duePass, e.duePos⟩, back := none }) := by
  simp only [State.toggle, h, if_pos (And.intro ho hc)]

theorem toggle_joinsRecent {r : Recent} (h : s.slot (some t) .transport = none)
    (hr : s.switches.recent[t] = some r) (ho : r.port = p.other) (hc : joinClose r.time press.time = true) :
    s.toggle p t act q press =
      (s, .cue r.action, { status := .joined, cue := none, point := some r.point, back := none }) := by
  simp only [State.toggle, h, hr, if_pos (And.intro ho hc)]

/-- No entry, or else no recent action, of the other port lies close enough: the toggle is resolved. -/
theorem toggle_resolved
    (he : ∀ e, s.slot (some t) .transport = some e → ¬ (e.origin = p.other ∧ joinClose e.press.time press.time = true))
    (hr : s.slot (some t) .transport = none → ∀ r, s.switches.recent[t] = some r →
      ¬ (r.port = p.other ∧ joinClose r.time press.time = true)) :
    s.toggle p t act q press = s.resolved p t act q press := by
  unfold State.toggle
  split
  · next e h => rw [if_neg (he e h)]
  · next h =>
    split
    · next r h' => rw [if_neg (hr h r h')]
    · rfl

/-- What joins no press: its own port's, or one 100 ms or more away. -/
theorem not_joining {o : Port} {a b : Nat} (h : o = p ∨ a + 1600000 ≤ b ∨ b + 1600000 ≤ a) :
    ¬ (o = p.other ∧ joinClose a b = true) := by
  rintro ⟨ho, hc⟩
  rcases h with h | h
  · exact Port.other_ne p (h.symm.trans ho)
  · exact Bool.false_ne_true ((joinClose_eq_false_iff.mpr h).symm.trans hc)

/-! ### Resolved toggles (R112, R114) -/

theorem resolved_refused (h : resolveToggle act (s.projected t) = none) :
    s.resolved p t act q press = (s, .refusedToggle, Answer.of .badState) := by
  simp only [State.resolved, h]

theorem resolved_cancels (h : resolveToggle act (s.projected t) = some x) (he : s.slot (some t) .transport = some e)
    (hc : e.origin = p ∧ contradicts e.action x = true) :
    s.resolved p t act q press = (s.dropCue .cancelled e, .cancel,
      { status := .ok, cue := some e.id, point := none, back := none }) := by
  simp only [State.resolved, h, he, if_pos hc]

/-- A toggle that cancels nothing goes the quantised path, and is noted if it acted at once. -/
theorem resolved_quantised {v : State} {ans : Answer} (h : resolveToggle act (s.projected t) = some x)
    (he : ∀ e, s.slot (some t) .transport = some e → ¬ (e.origin = p ∧ contradicts e.action x = true))
    (hq : s.quantised p x (some t) q press = (v, ans)) :
    s.resolved p t act q press = (v.noteRecent p t x press ans, .cue x, ans) := by
  unfold State.resolved
  simp only [h, hq]
  split
  · next e h' => rw [if_neg (he e h')]
  · rfl

end

/-- Settles O39: the joins, then the resolution at the projected state, and the table of R112. -/
theorem matchingPressesJoin : Obligations.MatchingPressesJoin := by
  unfold Obligations.MatchingPressesJoin
  refine ⟨fun p t a q press s e he ho h1 h2 => toggle_joinsEntry he ho (joinClose_iff.mpr ⟨h1, h2⟩),
    fun p t a q press s r he hr ho h1 h2 => toggle_joinsRecent he hr ho (joinClose_iff.mpr ⟨h1, h2⟩),
    ?_, rfl, rfl, rfl, rfl, rfl, rfl, ?_⟩
  · intro p t a q press s own st hown hentry hrecent hst
    have hto : s.toggle p t a q press = s.resolved p t a q press :=
      toggle_resolved (fun e he => not_joining (hentry e (hown.symm.trans he)))
        (fun he r hr => not_joining (hrecent (hown.symm.trans he) r hr))
    have hproj : s.projected t = st := by
      rw [hst, ← hown]
      unfold State.projected
      split
      · rfl
      · next e _ => cases e.action <;> rfl
    rw [hto, ← hproj]
    refine ⟨resolved_refused, ?_⟩
    rintro x hx against rfl
    refine ⟨fun e he hag => ?_, fun hag v ans hq => ?_⟩
    · exact resolved_cancels hx (hown.trans he) (hag.imp_right contradicts_iff.mpr)
    · rw [resolved_quantised hx
        (fun e he hc => hag e (hown.symm.trans he) (hc.imp_right contradicts_iff.mp)) hq]
      unfold State.noteRecent
      split <;> rfl
  · rintro a st (rfl | rfl | rfl) <;> rfl

end Sys2Proof.Machine


/-! # Press machines and issues (R105 to R108, R110, R111, R114) -/

namespace Sys2Proof.Machine

open Sys2Proof

@[simp] theorem machine_handedOn (h : Req) (code : Nat) (p : Port) (c : SwitchCode) (s : State) :
    (s.handedOn h code).machine p c = s.machine p c := by
  simp only [State.machine, switchPort_handedOn]

/-! ### What an event does to a machine in each of its states (R105 to R108) -/

section

variable {p : Port} {c : SwitchCode} {s : State} {press : PressTime} {deadline : Nat} {copy : EntryCopy}

theorem switchDown_up (h : s.machine p c = .up) : s.switchDown p c =
    (s.setMachine p c (.down s.pressNow (some (s.now + Config.ms s.switches.holdMs))), false) := by
  simp only [State.switchDown, h]

theorem switchDown_down {d : Option Nat} (h : s.machine p c = .down press d) : s.switchDown p c = (s, true) := by
  simp only [State.switchDown, h]

theorem switchDown_held (h : s.machine p c = .held) : s.switchDown p c = (s, true) := by
  simp only [State.switchDown, h]

theorem switchDown_awaitSecond (h : s.machine p c = .awaitSecond press deadline copy) : s.switchDown p c =
    ((s.setMachine p c .held).issue p c .double copy.double copy.target copy.quantum s.pressNow, false) := by
  simp only [State.switchDown, h]

theorem switchUp_up (h : s.machine p c = .up) : s.switchUp p c = (s, true) := by
  simp only [State.switchUp, h]

theorem switchUp_held (h : s.machine p c = .held) : s.switchUp p c = (s.setMachine p c .up, false) := by
  simp only [State.switchUp, h]

theorem switchUp_awaitSecond (h : s.machine p c = .awaitSecond press deadline copy) : s.switchUp p c = (s, true) := by
  simp only [State.switchUp, h]

/-- The end of a short press whose entry has no double action: the tap (R107). -/
theorem switchUp_down_tap {d : Option Nat} (h : s.machine p c = .down press d)
    (hd : (s.switches.map[c]).double = none) : s.switchUp p c =
    ((s.setMachine p c .up).issue p c .tap (s.switches.map[c]).tap (s.switches.map[c]).target
      (s.switches.map[c]).quantum press, false) := by
  simp only [State.switchUp, h, hd]

/-- The end of a short press whose entry has a double action: the wait for the second press (R107). -/
theorem switchUp_down_await {d : Option Nat} {double : SwAction} (h : s.machine p c = .down press d)
    (hd : (s.switches.map[c]).double = some double) : s.switchUp p c =
    (s.setMachine p c (.awaitSecond press (s.now + Config.ms s.switches.doubleMs)
      { tap := (s.switches.map[c]).tap, double := double, target := (s.switches.map[c]).target
        quantum := (s.switches.map[c]).quantum }), false) := by
  simp only [State.switchUp, h, hd]

theorem holdDue_hold {a : SwAction} (h : s.machine p c = .down press (some deadline)) (hd : deadline ≤ s.now)
    (ha : (s.switches.map[c]).hold = some a) : s.holdDue p c =
    (s.setMachine p c .held).issue p c .hold a (s.switches.map[c]).target (s.switches.map[c]).quantum
      s.pressNow := by
  simp only [State.holdDue, h, if_neg (Nat.not_lt.mpr hd), ha]

theorem holdDue_spent (h : s.machine p c = .down press (some deadline)) (hd : deadline ≤ s.now)
    (ha : (s.switches.map[c]).hold = none) : s.holdDue p c = s.setMachine p c (.down press none) := by
  simp only [State.holdDue, h, if_neg (Nat.not_lt.mpr hd), ha]

/-- Before its moment, and in another state, a hold deadline has no effect (log entry 12). -/
theorem holdDue_early (h : ∀ press d, s.machine p c = .down press (some d) → s.now < d) : s.holdDue p c = s := by
  unfold State.holdDue
  split
  · next press d e => exact if_pos (h press d e)
  · rfl

theorem windowDue_due (h : s.machine p c = .awaitSecond press deadline copy) (hd : deadline ≤ s.now) :
    s.windowDue p c =
      (s.setMachine p c .up).issue p c .deferredTap copy.tap copy.target copy.quantum press := by
  simp only [State.windowDue, h, if_neg (Nat.not_lt.mpr hd)]

/-- Before its moment, and in another state, a window deadline has no effect (log entry 12). -/
theorem windowDue_early (h : ∀ press d copy, s.machine p c = .awaitSecond press d copy → s.now < d) :
    s.windowDue p c = s := by
  unfold State.windowDue
  split
  · next press d copy e => exact if_pos (h press d copy e)
  · rfl

end

/-! ### Switch reports and expiries as commands (R105 to R108, R115) -/

section

variable {report : Port → SwitchCode → State → State × Bool} {p : Port} {cb : Byte} {s : State}

theorem ownSwitch_none (hc : argSwitch cb = none) : ownSwitch report p cb s = (s, some (.badArg, [])) := by
  simp only [ownSwitch, hc, State.answer]

/-- A report settles what follows from it, and its reply reads the port after that (R115). -/
theorem ownSwitch_some {c : SwitchCode} {v : State} {ignored : Bool} (hc : argSwitch cb = some c)
    (hr : report p c s = (v, ignored)) :
    ownSwitch report p cb s = (v.settle, some (.ok, v.settle.switchResults p c ignored)) := by
  simp only [ownSwitch, hc, hr, State.answer]

end

section

variable {h : Req} {cb : Byte} {c : SwitchCode} {s v : State} {ignored : Bool}
  (hs : s.serves h 1) (hc : argSwitch cb = some c)

include hs hc

theorem exec_switchDown (hr : (s.handedOn h 58).switchDown h.port c = (v, ignored)) :
    exec (.switchDown h cb) s = .next (v.settle.replied h 58 .ok (v.settle.switchResults h.port c ignored)) :=
  congrArg _ (request_answered hs (by decide) (ownSwitch_some hc hr))

theorem exec_switchUp (hr : (s.handedOn h 59).switchUp h.port c = (v, ignored)) :
    exec (.switchUp h cb) s = .next (v.settle.replied h 59 .ok (v.settle.switchResults h.port c ignored)) :=
  congrArg _ (request_answered hs (by decide) (ownSwitch_some hc hr))

end

section

variable {p : Port} {c : SwitchCode} {s v : State} (hr : s.power.resetHeld = false)

include hr

theorem exec_holdDeadline (h : s.holdDue p c = v) : exec (.holdDeadline p c) s = .next v.settle := by
  subst h
  exact congrArg _ (whenLive_live hr)

theorem exec_windowDeadline (h : s.windowDue p c = v) : exec (.windowDeadline p c) s = .next v.settle := by
  subst h
  exact congrArg _ (whenLive_live hr)

end

/-! ### Issues (R110, R111, R114) -/

/-- The track that a target names, SELECTED by the port's selected track (R110). -/
def SwTarget.resolve (selected : TrackId) : SwTarget → TrackId
  | .track t => t
  | .selected => selected

theorem issue_none {p : Port} {code : SwitchCode} {kind : IssueKind} {target : SwTarget} {q : Quantum}
    {press : PressTime} {s : State} : s.issue p code kind .none target q press = s := if_pos rfl

/-- An issue hands its action on, and the port counts and records it (R111). -/
theorem issue_eq {p : Port} {code : SwitchCode} {kind : IssueKind} {a : SwAction} {target : SwTarget} {q : Quantum}
    {press : PressTime} {s v : State} {handed : Handed} {ans : Answer} {out : OutTarget} (ha : a ≠ .none)
    (hv : s.handOn p a (target.resolve (s.switchPort p).selected) q press = ((v, handed, ans), out)) :
    s.issue p code kind a target q press = v.setSwitchPort p { v.switchPort p with
      issues := ((v.switchPort p).issues + 1) % 256
      last := some { code := code, kind := kind, action := handed, target := out, status := ans.status,
                     cue := ans.cue, point := ans.point, time := v.now } } := by
  unfold State.issue
  rw [if_neg ha]
  cases target <;> (simp only [SwTarget.resolve] at hv; simp only [hv])

section

variable {p : Port} {t : TrackId} {q : Quantum} {press : PressTime} {s v : State} {ans : Answer}

theorem handOn_toggle {a : SwAction} (h : a = .recordCycle ∨ a = .overdubToggle ∨ a = .replaceToggle) :
    s.handOn p a t q press = (s.toggle p t a q press, .track t) := by
  rcases h with rfl | rfl | rfl <;> rfl

/-- The actions on a track that have a family of their own go the quantised path (R110). -/
theorem handOn_trackCue {a : SwAction} {x : Action}
    (h : a = .close ∧ x = .close ∨ a = .undo ∧ x = .undo ∨ a = .redo ∧ x = .redo
      ∨ a = .muteToggle ∧ x = (if (s.track t).muteTarget = 0 then .unmute else .mute))
    (hq : s.quantised p x (some t) q press = (v, ans)) :
    s.handOn p a t q press = ((v, .cue x, ans), .track t) := by
  have hand : s.handCue p x (some t) q press = (v, .cue x, ans) := by simp only [State.handCue, hq]
  rw [← hand]
  rcases h with ⟨rfl, rfl⟩ | ⟨rfl, rfl⟩ | ⟨rfl, rfl⟩ | ⟨rfl, rfl⟩ <;> rfl

theorem handOn_playStopAll {x : Action} (hx : x = (if s.cycle.state = .paused then .playAll else .stopAll))
    (hq : s.quantised p x none q press = (v, ans)) :
    s.handOn p .playStopAll t q press = ((v, .cue x, ans), .all) := by
  subst hx
  simp only [State.handOn, State.handCue, hq]

theorem handOn_tap {st : Status} {n : Nat} {len : Option Nat} (h : s.actTap press.frame = (v, st, n, len)) :
    s.handOn p .tap t q press = ((v, .tap, Answer.of st), .absent) := by
  simp only [State.handOn, h]

end

/-- The next track round (R114). -/
theorem track_next (t : TrackId) : t + 1 = Fin.ofNat 6 (t.val + 1) := by
  revert t
  decide

/-- The previous track round (R114). -/
theorem track_previous (t : TrackId) : t - 1 = Fin.ofNat 6 (t.val + 5) := by
  revert t
  decide

/-- Settles O38: the machine's states by the event, the deadlines, and the issues by action. -/
theorem pressMachinesMove : Obligations.PressMachinesMove := by
  unfold Obligations.PressMachinesMove
  refine ⟨fun h cb s hs => ⟨fun hc => ⟨?_, ?_⟩, ?_⟩, fun p c s hr => ⟨?_, ?_, ?_, ?_⟩, ?_⟩
  · exact congrArg _ (request_answered hs (by decide) (ownSwitch_none hc))
  · exact congrArg _ (request_answered hs (by decide) (ownSwitch_none hc))
  · rintro c hc _ _ rfl rfl
    have hd : (s.handedOn h 58).machine h.port c = s.machine h.port c := machine_handedOn ..
    have hu : (s.handedOn h 59).machine h.port c = s.machine h.port c := machine_handedOn ..
    cases hm : s.machine h.port c with
    | up =>
      refine ⟨_, _, _, _, exec_switchDown hs hc (switchDown_up (hd.trans hm)),
        exec_switchUp hs hc (switchUp_up (hu.trans hm)), ?_⟩
      simp only [pressNow_handedOn, now_handedOn, switches_handedOn, ms_eq, and_self]
    | down press deadline =>
      cases hx : (s.switches.map[c]).double with
      | none =>
        refine ⟨_, _, _, _, exec_switchDown hs hc (switchDown_down (hd.trans hm)),
          exec_switchUp hs hc (switchUp_down_tap (hu.trans hm) (by rwa [switches_handedOn])), ?_⟩
        simp only [switches_handedOn, and_self]
      | some double =>
        refine ⟨_, _, _, _, exec_switchDown hs hc (switchDown_down (hd.trans hm)),
          exec_switchUp hs hc (switchUp_down_await (hu.trans hm) (by rwa [switches_handedOn])), ?_⟩
        simp only [now_handedOn, switches_handedOn, ms_eq, and_self]
    | held =>
      exact ⟨_, _, _, _, exec_switchDown hs hc (switchDown_held (hd.trans hm)),
        exec_switchUp hs hc (switchUp_held (hu.trans hm)), rfl, rfl, rfl, rfl⟩
    | awaitSecond press deadline copy =>
      refine ⟨_, _, _, _, exec_switchDown hs hc (switchDown_awaitSecond (hd.trans hm)),
        exec_switchUp hs hc (switchUp_awaitSecond (hu.trans hm)), ?_⟩
      simp only [pressNow_handedOn, and_self]
  · exact fun press d hm hd => ⟨fun a ha => exec_holdDeadline hr (holdDue_hold hm hd ha),
      fun ha => exec_holdDeadline hr (holdDue_spent hm hd ha)⟩
  · exact fun press d copy hm hd => exec_windowDeadline hr (windowDue_due hm hd)
  · exact fun hm => exec_holdDeadline hr (holdDue_early hm)
  · exact fun hm => exec_windowDeadline hr (windowDue_early hm)
  · rintro p code kind target q press s t done only issued ht rfl rfl rfl
    obtain rfl : t = target.resolve (s.switchPort p).selected := by
      rw [ht]
      cases target <;> rfl
    refine ⟨issue_none, fun a v handed ans ha hv => ?_, fun a x v ans ha hv => ?_, fun x v ans hx hv => ?_,
      issue_eq (by decide) rfl, fun v st n len hv => issue_eq (by decide) (handOn_tap hv), ?_, ?_⟩
    · refine issue_eq ?_ ((handOn_toggle ha).trans (congrArg (·, _) hv))
      rintro rfl
      simp at ha
    · refine issue_eq ?_ (handOn_trackCue ha hv)
      rintro rfl
      simp at ha
    · exact issue_eq (by decide) (handOn_playStopAll hx hv)
    · rw [← track_next]
      exact issue_eq (by decide) rfl
    · rw [← track_previous]
      exact issue_eq (by decide) rfl

end Sys2Proof.Machine


/-! # The mixer's settings (R126, R128, R131 to R134) -/

namespace Sys2Proof.Machine

open Sys2Proof

/-! ### Arguments of two values (R197) -/

theorem argClick_none {b : Byte} (h : 1 < b.toNat) : argClick b = none := by
  unfold argClick
  split
  · omega
  · omega
  · rfl

/-- The click enable is ON at 0 and OFF at 1 (log entry 9). -/
theorem argClick_some {b : Byte} (h : b.toNat ≤ 1) : argClick b = some (decide (b.toNat = 0)) := by
  obtain h0 | h1 : b.toNat = 0 ∨ b.toNat = 1 := by omega
  · simp only [argClick, h0, decide_true]
  · simp only [argClick, h1, Nat.one_ne_zero, decide_false]

theorem argFlag_none {b : Byte} (h : 1 < b.toNat) : argFlag b = none := by
  unfold argFlag
  split
  · omega
  · omega
  · rfl

section

variable {sb : Byte} {i : SlotId} {s : State}

/-! ### SET MONITOR (R126) -/

theorem ownSetMonitor_none {f e : Nat} (h : argSlot sb = none) : ownSetMonitor sb f e s = (s, some (.badArg, [])) := by
  simp only [ownSetMonitor, h, State.answer]

theorem ownSetMonitor_some {f e : Nat} (h : argSlot sb = some i) : ownSetMonitor sb f e s =
    ({ s with mixer := s.mixer.setMonitor i f e }, some (.ok, codeByte i.val ++ bytes 2 f ++ bytes 2 e)) := by
  simp only [ownSetMonitor, h, State.answer]

/-! ### SET CLICK (R128) -/

theorem ownSetClick_none {en : Byte} {n : Nat} (h : 1 < en.toNat) : ownSetClick en n s = (s, some (.badArg, [])) := by
  simp only [ownSetClick, argClick_none h, State.answer]

theorem ownSetClick_some {en : Byte} {n : Nat} (h : en.toNat ≤ 1) : ownSetClick en n s =
    ({ s with mixer := { s.mixer with clickOn := decide (en.toNat = 0), clickLevel := min 8388607 n } },
      some (.ok, [en] ++ bytes 3 (min 8388607 n))) := by
  simp only [ownSetClick, argClick_some h, State.answer]

/-! ### SET OUTPUT (R133) -/

theorem ownSetOutput_badArg {source : Option Source} (h : argSlot sb = none ∨ source = none) :
    ownSetOutput sb source s = (s, some (.badArg, [])) := by
  unfold ownSetOutput
  split
  · next j src hi => simp [hi] at h
  · rfl

theorem ownSetOutput_some {source : Option Source} {src : Source} (hi : argSlot sb = some i)
    (hsrc : source = some src) : ownSetOutput sb source s =
      ({ s with mixer := { s.mixer with outputs := s.mixer.outputs.set i.val src i.isLt } },
        some (.ok, codeByte i.val ++ sourceBytes src)) := by
  simp only [ownSetOutput, hi, hsrc, State.answer]

/-! ### READ CLIPS (R134) -/

theorem clipBytes_handedOn (h : Req) (code : Nat) (s : State) : (s.handedOn h code).clipBytes = s.clipBytes := by
  simp only [State.clipBytes, mixer_handedOn, cycle_handedOn]

/-- The results are those from before the counts go to 0. -/
theorem ownReadClips_clear : ownReadClips 1 s =
    ({ s with mixer := { s.mixer with frontClips := 0, earClips := 0 } }, some (.ok, s.clipBytes)) := rfl

theorem ownReadClips_badArg {cl : Byte} (h : 1 < cl.toNat) : ownReadClips cl s = (s, some (.badArg, [])) := by
  simp only [ownReadClips, argFlag_none h, State.answer]

end

/-- Settles O40: each owner's answer, handed on by the request. -/
theorem mixerSettings : Obligations.MixerSettings := by
  unfold Obligations.MixerSettings
  intro h s
  refine ⟨fun sb f e hs => ⟨fun hi => ?_, fun i hi => ?_⟩, fun f e hs => ?_,
    fun en lv hs => ⟨fun hen => ?_, fun hen => ?_⟩, fun sb k n hs => ⟨fun hn => ?_, fun i src hi hsrc => ?_⟩,
    fun r hs => ?_, fun cl hs => ⟨?_, fun hcl => ?_⟩⟩
  · exact congrArg _ (request_answered hs (by decide) (ownSetMonitor_none hi))
  · refine (congrArg Host.Outcome.next (request_answered hs (by decide) (ownSetMonitor_some hi))).trans ?_
    rw [Mixer.setMonitor, mixer_handedOn, bytes_one]
  · have answered := request_answered (code := 65) (owner := ownSetBus f.toNat e.toNat) hs (by decide) rfl
    refine (congrArg Host.Outcome.next answered).trans ?_
    rw [mixer_handedOn]
  · exact congrArg _ (request_answered hs (by decide) (ownSetClick_none hen))
  · refine (congrArg Host.Outcome.next (request_answered hs (by decide) (ownSetClick_some hen))).trans ?_
    rw [mixer_handedOn]
  · exact congrArg _ (request_answered hs (by decide) (ownSetOutput_badArg hn))
  · refine (congrArg Host.Outcome.next (request_answered hs (by decide) (ownSetOutput_some hi hsrc))).trans ?_
    rw [mixer_handedOn, bytes_one]
  · have answered := request_answered (code := 68) (owner := ownSetEdge r.toNat) hs (by decide) rfl
    refine (congrArg Host.Outcome.next answered).trans ?_
    rw [mixer_handedOn]
  · rintro rfl
    refine (congrArg Host.Outcome.next (request_answered hs (by decide) ownReadClips_clear)).trans ?_
    rw [clipBytes_handedOn, mixer_handedOn]
    rfl
  · exact congrArg _ (request_answered hs (by decide) (ownReadClips_badArg hcl))

end Sys2Proof.Machine


/-! # Edges, clicks, mute ramps and hole lists (R120, R124, R127, R146) -/

namespace Sys2Proof.Machine

open Sys2Proof

/-! ### Edge weights (R120) -/

theorem edgeWeight_eq (edge k length : Nat) (head tail : Bool) : edgeWeight edge k length head tail =
    min (if head = true ∧ k < edge then 32768 * (k + 1) / (edge + 1) else 32768)
      (if tail = true ∧ length ≤ k + edge then 32768 * (length - k) / (edge + 1) else 32768) := by
  simp only [edgeWeight, Bool.and_eq_true, decide_eq_true_eq, Nat.sub_le_iff_le_add]

/-- A tail is the head of the layer read backwards (R120). -/
theorem edgeWeight_mirror {edge k length : Nat} (h : k < length) :
    edgeWeight edge k length false true = edgeWeight edge (length - 1 - k) length true false := by
  have near : length ≤ k + edge ↔ length - 1 - k < edge := by omega
  have place : length - 1 - k + 1 = length - k := by omega
  simp only [edgeWeight_eq, near, place, Bool.false_eq_true, false_and, true_and, if_false]
  exact Nat.min_comm _ _

/-! ### Click bursts (R127) -/

/-- Each half-period turns the sign of the click. -/
theorem Click.value_turns {h : Nat} (hpos : 0 < h) (level n : Nat) :
    ({ n := h + n, h := h } : Click).value level = -({ n := n, h := h } : Click).value level := by
  simp only [Click.value, Nat.add_div_left n hpos]
  split <;> split <;> omega

/-- What turns its sign with every half-period sums to nothing over whole periods. -/
theorem sum_of_turns {h : Nat} {f : Nat → Int} (hf : ∀ n, f (h + n) = -f n) (periods : Nat) :
    ((List.range ((h + h) * periods)).map f).sum = 0 := by
  have half : ((List.range h).map fun n => f (h + n)).sum = -((List.range h).map f).sum := by
    simp only [hf, List.sum_neg, List.map_map, Function.comp_def]
  have period : ∀ n, f (h + h + n) = f n := fun n => by rw [Nat.add_assoc, hf, hf, Int.neg_neg]
  induction periods with
  | zero => rfl
  | succ k ih =>
    rw [Nat.mul_succ, Nat.add_comm, List.range_add, List.range_add]
    simp only [List.map_append, List.map_map, List.sum_append, Function.comp_def, period, half, ih]
    omega

/-- The 240 frames of a burst are whole periods of either kind of click. -/
theorem clickBurst_sum {half : Nat} (h : half = 12 ∨ half = 24) (level : Nat) :
    ((List.range 240).map fun n => ({ n := n, h := half : Click }).value level).sum = 0 := by
  have sums := sum_of_turns (f := fun n => ({ n := n, h := half } : Click).value level)
    (Click.value_turns (by omega) level)
  rcases h with rfl | rfl
  · exact sums 10
  · exact sums 5

/-! ### Mute ramps (R124) -/

theorem rampStep_up {m target : Nat} (h : m ≤ target) : rampStep m target = min target (m + 128) := by
  unfold rampStep
  split <;> omega

theorem rampStep_down {m target : Nat} (h : target ≤ m) : rampStep m target = max target (m - 128) := by
  unfold rampStep
  split <;> omega

/-- `n` steps go `n` times as far as one, and stop at the target all the same. -/
theorem rampStep_iterate_up {m target : Nat} (h : m ≤ target) (n : Nat) :
    (rampStep · target)^[n] m = min target (m + 128 * n) := by
  induction n with
  | zero => simp only [Function.iterate_zero_apply]; omega
  | succ n ih =>
    rw [Function.iterate_succ_apply', ih, rampStep_up (Nat.min_le_left _ _)]
    omega

theorem rampStep_iterate_down {m target : Nat} (h : target ≤ m) (n : Nat) :
    (rampStep · target)^[n] m = max target (m - 128 * n) := by
  induction n with
  | zero => simp only [Function.iterate_zero_apply]; omega
  | succ n ih =>
    rw [Function.iterate_succ_apply', ih, rampStep_down (Nat.le_max_left _ _)]
    omega

/-- 256 steps of 128 span the whole range of ramp values, so a ramp ends at its target. -/
theorem rampStep_ends {m target : Nat} (hm : m ≤ 32768) (ht : target ≤ 32768) :
    (List.range 256).foldl (fun x _ => rampStep x target) m = target := by
  rw [List.foldl_const, List.length_range]
  obtain h | h := Nat.le_total m target
  · rw [rampStep_iterate_up h]
    omega
  · rw [rampStep_iterate_down h]
    omega

/-! ### Ranges that meet, and their hulls (R146) -/

theorem Range.meets_iff {r x : Range} :
    r.meets x = true ↔ r.first ≤ x.first + x.len ∧ x.first ≤ r.first + r.len := by
  simp only [Range.meets, Bool.and_eq_true, decide_eq_true_eq]
  rfl

theorem Range.hull_first (r x : Range) : (r.hull x).first = min r.first x.first := rfl

theorem Range.hull_stop (r x : Range) :
    (r.hull x).first + (r.hull x).len = max (r.first + r.len) (x.first + x.len) := by
  simp only [Range.hull, Range.stop]
  omega

theorem Range.hull_len {r x : Range} (h : r.len ≠ 0) : (r.hull x).len ≠ 0 := by
  simp only [Range.hull, Range.stop]
  omega

/-! ### Ranges in order and apart (R146) -/

/-- A hole list in its form: no range empty, and each ends before the next begins, without touching it. -/
def RangesApart (l : List Range) : Prop :=
  (∀ x ∈ l, x.len ≠ 0) ∧ l.Pairwise (fun x y => x.first + x.len < y.first)

theorem rangesApart_cons {x : Range} {l : List Range} :
    RangesApart (x :: l) ↔ x.len ≠ 0 ∧ (∀ y ∈ l, x.first + x.len < y.first) ∧ RangesApart l := by
  simp only [RangesApart, List.forall_mem_cons, List.pairwise_cons]
  tauto

/-- An offset below a range and every range of a list lies below all that joining them gives. -/
theorem lt_first_of_mem_insertRange {b : Nat} {l : List Range} : ∀ {r : Range}, b < r.first →
    (∀ x ∈ l, b < x.first) → ∀ x ∈ insertRange r l, b < x.first := by
  induction l with
  | nil => simp only [insertRange, List.mem_singleton]; rintro r hr - x rfl; exact hr
  | cons y l ih =>
    intro r hr hl
    obtain ⟨hy, hl⟩ := List.forall_mem_cons.mp hl
    unfold insertRange
    split
    · exact ih (lt_min hr hy) hl
    · split
      · exact List.forall_mem_cons.mpr ⟨hr, List.forall_mem_cons.mpr ⟨hy, hl⟩⟩
      · exact List.forall_mem_cons.mpr ⟨hy, ih hr hl⟩

theorem RangesApart.insertRange {l : List Range} : ∀ {r : Range}, r.len ≠ 0 → RangesApart l →
    RangesApart (insertRange r l) := by
  induction l with
  | nil => exact fun hr _ => rangesApart_cons.mpr ⟨hr, by simp, by simp [RangesApart]⟩
  | cons y l ih =>
    intro r hr h
    obtain ⟨hy, hyl, hl⟩ := rangesApart_cons.mp h
    unfold Machine.insertRange
    split
    · exact ih (Range.hull_len hr) hl
    · next hmeets =>
      rw [Range.meets_iff] at hmeets
      split
      · refine rangesApart_cons.mpr ⟨hr, List.forall_mem_cons.mpr ⟨by omega, fun z hz => ?_⟩, h⟩
        have := hyl z hz
        omega
      · exact rangesApart_cons.mpr ⟨hy, lt_first_of_mem_insertRange (by omega) hyl, ih hr hl⟩

theorem insertRange_length_le (l : List Range) : ∀ r : Range, (insertRange r l).length ≤ l.length + 1 := by
  induction l with
  | nil => exact fun r => Nat.le_refl 1
  | cons y l ih =>
    intro r
    unfold insertRange
    split
    · exact (ih _).trans (Nat.le_succ _)
    · split
      · exact Nat.le_refl _
      · exact Nat.succ_le_succ (ih r)

/-- A range that meets one of the list takes no place of its own. -/
theorem insertRange_length_le_of_meets {r : Range} {l : List Range} (h : RangesApart l) (hm : ∃ x ∈ l, r.meets x = true) :
    (insertRange r l).length ≤ l.length := by
  induction l with
  | nil => simp at hm
  | cons y l ih =>
    obtain ⟨hy, hyl, hl⟩ := rangesApart_cons.mp h
    unfold insertRange
    split
    · exact insertRange_length_le l _
    · next hno =>
      obtain ⟨x, hx, hmx⟩ : ∃ x ∈ l, r.meets x = true := by simpa [hno] using hm
      split
      · have := hyl x hx
        rw [Range.meets_iff] at hno hmx
        omega
      · exact Nat.succ_le_succ (ih hl ⟨x, hx, hmx⟩)

/-! ### A hole added (R146) -/

theorem inRanges_concat (o : Nat) (l : List Range) (w : Range) :
    inRanges o (l ++ [w]) = true ↔ inRanges o l = true ∨ (w.first ≤ o ∧ o < w.first + w.len) := by
  simp only [inRanges, List.any_append, List.any_cons, List.any_nil, Bool.or_eq_true, Bool.and_eq_true,
    decide_eq_true_eq, Bool.or_false]
  rfl

/-- A range that is not empty is added by joining a range to a list: with a place left or a range met, itself to the
whole list; else the fourth range, widened to it, to the first three. -/
theorem addHole_eq_insertRange {r : Range} {l : List Range} (hr : r.len ≠ 0) (h4 : l.length ≤ 4) (hl : RangesApart l) :
    ∃ r' l', addHole r l = insertRange r' l' ∧ r'.len ≠ 0 ∧ RangesApart l' ∧ (insertRange r' l').length ≤ 4 ∧
      ∀ o, (r.first ≤ o ∧ o < r.first + r.len) ∨ inRanges o l = true →
        (r'.first ≤ o ∧ o < r'.first + r'.len) ∨ inRanges o l' = true := by
  unfold addHole
  rw [if_neg hr]
  by_cases hany : (l.any fun x => r.meets x) = true
  · have hlen := insertRange_length_le_of_meets hl (List.any_eq_true.mp hany)
    rw [if_pos (by rw [hany, Bool.true_or])]
    exact ⟨r, l, rfl, hr, hl, hlen.trans h4, fun _ ho => ho⟩
  · by_cases hroom : l.length < 4
    · rw [if_pos (by rw [decide_eq_true hroom, Bool.or_true])]
      exact ⟨r, l, rfl, hr, hl, (insertRange_length_le l r).trans hroom, fun _ ho => ho⟩
    · rw [if_neg (by simp [hany, hroom])]
      obtain rfl | ⟨front, w, rfl⟩ := l.eq_nil_or_concat'
      · simp at hroom
      · rw [List.getLast?_concat, List.dropLast_concat]
        obtain ⟨hlens, happart⟩ := hl
        have hw := hlens w (by simp)
        have hfront : RangesApart front :=
          ⟨fun x hx => hlens x (by simp [hx]), (List.pairwise_append.mp happart).1⟩
        have hlen : front.length ≤ 3 := by simpa [Nat.lt_succ_iff] using h4
        have hcovers := Range.hull_stop w r
        refine ⟨w.hull r, front, rfl, Range.hull_len hw, hfront,
          (insertRange_length_le front _).trans (Nat.succ_le_succ hlen), fun o ho => ?_⟩
        rw [hcovers, Range.hull_first]
        rw [inRanges_concat] at ho
        rcases ho with ho | ho | ho
        · left; omega
        · exact .inr ho
        · left; omega

/-- Settles O60: the mirror of an edge, the turns of a click, the steps of a ramp, and a hole added as a range joined. -/
theorem rampsClicksAndHoles : Obligations.RampsClicksAndHoles := by
  unfold Obligations.RampsClicksAndHoles
  refine ⟨fun edge k length => edgeWeight_mirror, fun half level h => clickBurst_sum h level,
    fun m target hm ht => ⟨fun h => ?_, fun h => ?_, rampStep_ends hm ht⟩, fun r l h4 hlens happart => ?_⟩
  · rw [rampStep_up h]
    omega
  · rw [rampStep_down h]
    omega
  · by_cases hr : r.len = 0
    · have he : addHole r l = l := by rw [addHole, if_pos hr]
      rw [he]
      exact ⟨h4, hlens, happart, fun o ho => ho, fun o h1 h2 => by omega⟩
    · obtain ⟨r', l', he, hr', hl', hlen, hin⟩ := addHole_eq_insertRange hr h4 ⟨hlens, happart⟩
      rw [he]
      obtain ⟨hlens', happart'⟩ := hl'.insertRange hr'
      have hkeeps := fun o ho => (inRanges_insert o l' r' hr').mpr (hin o ho)
      exact ⟨hlen, hlens', happart', fun o ho => hkeeps o (.inr ho), fun o h1 h2 => hkeeps o (.inl ⟨h1, h2⟩)⟩

end Sys2Proof.Machine


/-! # The layers' part of a frame (R118 to R123, R148) -/

namespace Sys2Proof.Machine

open Sys2Proof

/-! ### What the layers' part of an arrival leaves -/

/-- The cycle timer, the tracks and the settings of the mixer stand: all that a frame is formed from but the layers. -/
structure MixKept (s u : State) : Prop where
  cycle : u.cycle = s.cycle
  tracks : u.tracks = s.tracks
  mixer : u.mixer = s.mixer

namespace MixKept

variable {s u w : State}

theorem refl (s : State) : MixKept s s := ⟨rfl, rfl, rfl⟩

theorem trans (h : MixKept s u) (h' : MixKept u w) : MixKept s w :=
  ⟨h'.cycle.trans h.cycle, h'.tracks.trans h.tracks, h'.mixer.trans h.mixer⟩

theorem track (h : MixKept s u) (t : TrackId) : u.track t = s.track t := by
  simp only [State.track, h.tracks]

theorem takeFault (h : MixKept s u) (o : Occurrence) : MixKept s (u.takeFault o) := by
  unfold State.takeFault
  dsimp only
  split <;> exact ⟨h.cycle, h.tracks, h.mixer⟩

theorem setLayer (h : MixKept s u) (id : Nat) (l : Layer) : MixKept s (u.setLayer id l) :=
  ⟨h.cycle, h.tracks, h.mixer⟩

end MixKept

section

variable {id k q : Nat} {l : Layer} {s u : State}

/-! ### One sample of a layer (R119, R148) -/

/-- A sample at the aim is taken; in a hole it is not heard. -/
theorem layerSample_taken {x : Sample} {xs : List Sample} (hl : s.layer? id = some l) (hd : l.buf.data = x :: xs)
    (ha : l.buf.aim = k) : s.layerSample id k =
      (s.setLayer id { l with buf := { l.buf with aim := nextOffset k l.length, data := xs } },
        if inRanges k l.holes then 0 else x) := by
  simp only [State.layerSample, ReadBuf.take, hl, hd, if_pos ha]

/-- An underrun discards the buffer, aims it past the offset, and takes a soft fault (R148). -/
theorem layerSample_underrun (hl : s.layer? id = some l) (h : l.buf.data = [] ∨ l.buf.aim ≠ k) : s.layerSample id k =
    ((s.setLayer id { l with buf := ReadBuf.aimed (nextOffset k l.length) }).takeFault
      (.met s.cycle.here .underrun .playback (l.blockOf k) id l.track), 0) := by
  have he : l.buf.take k l.length = (ReadBuf.aimed (nextOffset k l.length), none) := by
    unfold ReadBuf.take
    split
    · next x xs hd => rw [if_neg (h.resolve_left (by rw [hd]; exact List.cons_ne_nil _ _))]
    · rfl
  simp only [State.layerSample, he, hl]
  rfl

/-- A layer record in use gives a sample from its buffer, or underruns. -/
theorem takes_or_underruns (l : Layer) (k : Nat) :
    (∃ x xs, l.buf.data = x :: xs ∧ l.buf.aim = k) ∨ (l.buf.data = [] ∨ l.buf.aim ≠ k) := by
  cases l.buf.data with
  | nil => exact .inr (.inl rfl)
  | cons x xs =>
    by_cases h : l.buf.aim = k
    · exact .inl ⟨x, xs, rfl, h⟩
    · exact .inr (.inr h)

/-- What is heard of a layer at an offset: the sample that its buffer is aimed at, outside the holes (R119, R148). -/
def Layer.heard (l : Layer) (k : Nat) : Sample :=
  match l.buf.data with
  | x :: _ => if l.buf.aim = k ∧ inRanges k l.holes = false then x else 0
  | [] => 0

theorem heard_nil (hd : l.buf.data = []) : (l.heard k).toInt = 0 := by
  simp only [Layer.heard, hd]
  rfl

theorem heard_cons {x : Sample} {xs : List Sample} (hd : l.buf.data = x :: xs) : (l.heard k).toInt =
    if l.buf.aim = k ∧ inRanges k l.holes = false then x.toInt else 0 := by
  simp only [Layer.heard, hd]
  split <;> rfl

theorem layerSample_heard (hl : s.layer? id = some l) : (s.layerSample id k).2 = l.heard k := by
  obtain ⟨x, xs, hd, ha⟩ | hu := takes_or_underruns l k
  · rw [layerSample_taken hl hd ha]
    simp only [Layer.heard, hd, ha]
    cases inRanges k l.holes <;> rfl
  · rw [layerSample_underrun hl hu]
    unfold Layer.heard
    split
    · next x xs hd => rw [if_neg (mt And.left (hu.resolve_left (by rw [hd]; exact List.cons_ne_nil _ _)))]
    · rfl

theorem layerSample_mixKept (id k : Nat) (s : State) : MixKept s (s.layerSample id k).1 := by
  cases hl : s.layer? id with
  | none => simp only [State.layerSample, hl, MixKept.refl]
  | some l =>
    obtain ⟨x, xs, hd, ha⟩ | hu := takes_or_underruns l k
    · rw [layerSample_taken hl hd ha]
      exact (MixKept.refl s).setLayer _ _
    · rw [layerSample_underrun hl hu]
      exact ((MixKept.refl s).setLayer _ _).takeFault _

theorem layerSample_others {j : Nat} (h : j ≠ id) : (s.layerSample id k).1.layer? j = s.layer? j := by
  cases hl : s.layer? id with
  | none => simp only [State.layerSample, hl]
  | some l =>
    obtain ⟨x, xs, hd, ha⟩ | hu := takes_or_underruns l k
    · rw [layerSample_taken hl hd ha, layer?_setLayer, if_neg h]
    · rw [layerSample_underrun hl hu, takeFault_layer?, layer?_setLayer, if_neg h]

/-! ### One layer's contribution (R119, R120, R123) -/

theorem layerPart_none (covers : List Nat) (hl : s.layer? id = none) : s.layerPart q id covers = (s, 0) := by
  simp only [State.layerPart, hl]

theorem Layer.sounds_iff : l.sounds = true ↔ l.state = .closed ∨ l.state = .folding := by
  simp only [Layer.sounds, Bool.or_eq_true, beq_iff_eq]

/-- A CLOSED or FOLDING layer sounds over its range, and nothing is taken of it outside. -/
theorem layerPart_some (covers : List Nat) (hl : s.layer? id = some l) : s.layerPart q id covers =
    if (l.state = .closed ∨ l.state = .folding) ∧ l.startQ ≤ q ∧ q < l.startQ + l.length then
      ((s.layerSample id (q - l.startQ)).1, contribution (l.heard (q - l.startQ))
        (edgeWeight s.mixer.edge (q - l.startQ) l.length l.head l.tail) covers l.gain)
    else (s, 0) := by
  have hin : (l.sounds && decide (l.startQ ≤ q) && decide (q - l.startQ < l.length)) = true ↔
      (l.state = .closed ∨ l.state = .folding) ∧ l.startQ ≤ q ∧ q < l.startQ + l.length := by
    rw [Bool.and_eq_true, Bool.and_eq_true, decide_eq_true_eq, decide_eq_true_eq, Layer.sounds_iff, and_assoc]
    exact and_congr_right fun _ => by omega
  simp only [State.layerPart, hl, (layerSample_mixKept id (q - l.startQ) s).mixer, layerSample_heard hl]
  exact if_congr hin rfl rfl

theorem layerPart_heard (covers : List Nat) (hl : s.layer? id = some l) : (s.layerPart q id covers).2 =
    if (l.state = .closed ∨ l.state = .folding) ∧ l.startQ ≤ q ∧ q < l.startQ + l.length then
      scale (covers.foldl scale (scale (l.heard (q - l.startQ)).toInt
        (edgeWeight s.mixer.edge (q - l.startQ) l.length l.head l.tail))) l.gain
    else 0 := by
  rw [layerPart_some covers hl]
  split <;> rfl

theorem layerPart_mixKept (q id : Nat) (covers : List Nat) (s : State) : MixKept s (s.layerPart q id covers).1 := by
  cases hl : s.layer? id with
  | none => rw [layerPart_none covers hl]; exact .refl s
  | some l =>
    rw [layerPart_some covers hl]
    split
    · exact layerSample_mixKept _ _ _
    · exact .refl s

theorem layerPart_others {covers : List Nat} {j : Nat} (h : j ≠ id) :
    (s.layerPart q id covers).1.layer? j = s.layer? j := by
  cases hl : s.layer? id with
  | none => rw [layerPart_none covers hl]
  | some l =>
    rw [layerPart_some covers hl]
    split
    · exact layerSample_others h
    · rfl

/-! ### What a contribution and a cover weight depend on -/

theorem layerPart_congr (covers : List Nat) (hk : MixKept s u) (h : u.layer? id = s.layer? id) :
    (u.layerPart q id covers).2 = (s.layerPart q id covers).2 := by
  cases hl : s.layer? id with
  | none => rw [layerPart_none covers hl, layerPart_none covers (h.trans hl)]
  | some l =>
    rw [layerPart_some covers hl, layerPart_some covers (h.trans hl), hk.mixer]
    split <;> rfl

theorem coverOf_none {t : TrackId} (hl : s.layer? id = none) : s.coverOf t q id = none := by
  simp only [State.coverOf, hl]

/-- The weights of the covering layers of a stack: a sounding one over its range, and the open layer of a REPLACING
track over the span that it has covered (R121, R122). -/
theorem coverOf_some {t : TrackId} (hl : s.layer? id = some l) : s.coverOf t q id =
    if l.cover = false then none
    else if l.state = .closed ∨ l.state = .folding then
      some (if l.startQ ≤ q ∧ q < l.startQ + l.length then
        32768 - edgeWeight s.mixer.edge (q - l.startQ) l.length l.head l.tail else 32768)
    else if l.state = .opened ∧ (s.track t).state = .replacing ∧ l.startQ ≤ q then
      some (32768 - edgeWeight s.mixer.edge (q - l.startQ) (q + 1 - l.startQ) l.head false)
    else none := by
  have covered : l.startQ ≤ q → l.startQ ≤ q ∧ q < l.startQ + (q + 1 - l.startQ) := by omega
  simp only [State.coverOf, hl, coverWeight_eq, Layer.sounds_iff, Bool.not_eq_true']
  refine if_congr Iff.rfl rfl (if_congr Iff.rfl rfl ?_)
  split
  · next h => rw [if_pos (covered h.2.2)]
  · rfl

theorem coverOf_congr {t : TrackId} (hk : MixKept s u) (h : u.layer? id = s.layer? id) :
    u.coverOf t q id = s.coverOf t q id := by
  cases hl : s.layer? id with
  | none => simp only [State.coverOf, h, hl]
  | some l => rw [coverOf_some hl, coverOf_some (h.trans hl), hk.mixer, hk.track]

/-! ### Track sums (R118, R121 to R123) -/

/-- The layers of a stack are distinct, so each is heard as it stood before those older than it. -/
theorem sumLayers_eq {t : TrackId} {total : List Nat → Int} (h0 : total [] = 0)
    (hc : ∀ id newer, total (id :: newer) =
      (s.layerPart q id (newer.reverse.filterMap (s.coverOf t q))).2 + total newer) (ids : List Nat) :
    ∀ {u : State}, MixKept s u → (∀ id ∈ ids, u.layer? id = s.layer? id) → ids.Nodup →
      (u.sumLayers t q ids).2 = total ids := by
  induction ids with
  | nil => exact fun _ _ _ => h0.symm
  | cons id newer ih =>
    intro u hk hl hn
    obtain ⟨hid, hnewer⟩ := List.forall_mem_cons.mp hl
    obtain ⟨hnotin, hnd⟩ := List.nodup_cons.mp hn
    have hcovers : newer.reverse.filterMap (u.coverOf t q) = newer.reverse.filterMap (s.coverOf t q) :=
      List.filterMap_congr fun j hj => coverOf_congr hk (hnewer j (List.mem_reverse.mp hj))
    have hrest := ih (hk.trans (layerPart_mixKept q id (newer.reverse.filterMap (s.coverOf t q)) u))
      (fun j hj => (layerPart_others (ne_of_mem_of_not_mem hj hnotin)).trans (hnewer j hj)) hnd
    rw [hc, ← hrest, ← layerPart_congr _ hk hid]
    simp only [State.sumLayers, hcovers]

theorem sumLayers_mixKept (t : TrackId) (q : Nat) (ids : List Nat) :
    ∀ s : State, MixKept s (s.sumLayers t q ids).1 := by
  induction ids with
  | nil => exact MixKept.refl
  | cons id newer ih => exact fun s => (layerPart_mixKept _ _ _ s).trans (ih _)

theorem soundingAt_none {t : TrackId}
    (h : s.cycle.state ≠ .running ∨ s.cycle.origin = true ∨ (s.track t).span = none) : s.soundingAt t = none := by
  unfold State.soundingAt
  split
  · next span hr hspan => rw [if_pos (by simpa [hr, hspan] using h)]
  · rfl

theorem soundingAt_some {t : TrackId} {span len : Nat} (hr : s.cycle.state = .running) (ho : s.cycle.origin = false)
    (hspan : (s.track t).span = some span) (hlen : s.cycle.len = some len) :
    s.soundingAt t = some (s.cycle.pass % span * len + s.cycle.pos) := by
  simp only [State.soundingAt, hr, hspan, ho, Cycle.shownLen, hlen, trackPos]
  rfl

theorem trackSum_silent {t : TrackId} (h : s.soundingAt t = none) : s.trackSum t = (s, 0) := by
  simp only [State.trackSum, h]

theorem trackSum_sounding {t : TrackId} (h : s.soundingAt t = some q) :
    s.trackSum t = s.sumLayers t q (stackIds (s.track t).stack) := by
  simp only [State.trackSum, h]

theorem trackSum_mixKept (t : TrackId) (s : State) : MixKept s (s.trackSum t).1 := by
  unfold State.trackSum
  split
  · exact sumLayers_mixKept _ _ _ s
  · exact .refl s

theorem trackSums_cons (t : TrackId) (ts : List TrackId) (s : State) : s.trackSums (t :: ts) =
    (((s.trackSum t).1.trackSums ts).1, (s.trackSum t).2 :: ((s.trackSum t).1.trackSums ts).2) := rfl

theorem trackSums_mixKept (ts : List TrackId) : ∀ s : State, MixKept s (s.trackSums ts).1 := by
  induction ts with
  | nil => exact MixKept.refl
  | cons t ts ih => exact fun s => (trackSum_mixKept t s).trans (ih _)

theorem mixKept_of_trackSums {ts : List TrackId} {sums : List Int} (h : s.trackSums ts = (u, sums)) : MixKept s u := by
  simpa only [h] using trackSums_mixKept ts s

theorem trackSums_length (ts : List TrackId) : ∀ s : State, (s.trackSums ts).2.length = ts.length := by
  induction ts with
  | nil => exact fun _ => rfl
  | cons t ts ih => exact fun s => congrArg Nat.succ (ih _)

end

end Sys2Proof.Machine


/-! # The buses, the click and the output slots (R124 to R130, R133) -/

namespace Sys2Proof.Machine

open Sys2Proof

/-! ### Clips (R130) -/

/-- CLIP of a bus, FRONT 0 and EAR 1, stamped with the place of the frame (R130). -/
def clipEvent (place : Point) (bus : Nat) : Event :=
  { kind := .clip, urgent := false, track := none, layer := none, cue := none, pass := place.pass, pos := place.pos
    detail := BitVec.ofNat 16 bus }

/-- Whether a bus has had its CLIP in the pass (R130). -/
def Mixer.clipReported (m : Mixer) (ear : Bool) : Bool := if ear = true then m.earReported else m.frontReported

/-- A bus's clip counted and noted as reported (R130). -/
def Mixer.clipped (m : Mixer) (ear : Bool) : Mixer :=
  if ear = true then { m with earClips := min 65535 (m.earClips + 1), earReported := true }
  else { m with frontClips := min 65535 (m.frontClips + 1), frontReported := true }

/-- A clip is counted, and raised at the first of the pass (R130). -/
theorem clip_eq (ear : Bool) (place : Point) (s : State) : s.clip ear place =
    if s.mixer.clipReported ear = true then { s with mixer := s.mixer.clipped ear }
    else { s with mixer := s.mixer.clipped ear }.raiseEvent (clipEvent place (if ear = true then 1 else 0)) := by
  cases ear <;> rfl

/-- A bus whose output the clamp may have changed (R130). -/
def State.clipIf (ear clips : Bool) (place : Point) (s : State) : State :=
  if clips = true then s.clip ear place else s

section

variable (ear clips : Bool) (place : Point) (s : State)

theorem clipIf_tracks : (s.clipIf ear clips place).tracks = s.tracks := by
  rw [State.clipIf, clip_eq]
  split
  · split <;> rfl
  · rfl

theorem clipIf_mixer :
    (s.clipIf ear clips place).mixer = if clips = true then s.mixer.clipped ear else s.mixer := by
  rw [State.clipIf, clip_eq]
  split
  · split <;> rfl
  · rfl

theorem clipIf_port (p : Port) : (s.clipIf ear clips place).port p =
    if (clips && !s.mixer.clipReported ear) = true then
      (s.port p).offer (clipEvent place (if ear = true then 1 else 0))
    else s.port p := by
  rw [State.clipIf, clip_eq]
  cases clips
  · rfl
  · cases s.mixer.clipReported ear <;> cases p <;> rfl

end

/-- The counts and flags that the two buses of a frame leave, FRONT before EAR (R130). -/
theorem clipIf_clipIf_mixer (front ear : Bool) (place : Point) (s : State) :
    ((s.clipIf false front place).clipIf true ear place).mixer = { s.mixer with
      frontClips := if front = true then min 65535 (s.mixer.frontClips + 1) else s.mixer.frontClips
      earClips := if ear = true then min 65535 (s.mixer.earClips + 1) else s.mixer.earClips
      frontReported := s.mixer.frontReported || front
      earReported := s.mixer.earReported || ear } := by
  rw [clipIf_mixer, clipIf_mixer]
  cases front <;> cases ear <;> simp [Mixer.clipped]

theorem clipIf_clipIf_port (front ear : Bool) (place : Point) (s : State) (p : Port) {c : PortCtl}
    (hc : c = if (front && !s.mixer.frontReported) = true then (s.port p).offer (clipEvent place 0) else s.port p) :
    ((s.clipIf false front place).clipIf true ear place).port p =
      if (ear && !s.mixer.earReported) = true then c.offer (clipEvent place 1) else c := by
  have hear : (s.clipIf false front place).mixer.clipReported true = s.mixer.earReported := by
    rw [clipIf_mixer]
    cases front <;> rfl
  have hfront : (s.clipIf false front place).port p = c := (clipIf_port _ _ _ _ _).trans hc.symm
  rw [clipIf_port, hear, hfront]
  rfl

/-! ### Sums over slots and tracks (R124 to R126) -/

theorem foldl_add_eq_sum {α : Type} (g : α → Int) (l : List α) :
    l.foldl (fun acc x => acc + g x) 0 = (l.map g).sum := by
  simpa using foldl_addIf (fun _ => true) g l 0

theorem monitorSum_eq (gains : Vector Nat 8) (f : Frame) :
    monitorSum gains f = ((List.finRange 8).map fun i => scale (f[i]).toInt gains[i]).sum := foldl_add_eq_sum _ _

theorem toList_eq_map_finRange {α : Type} {n : Nat} (v : Vector α n) :
    v.toList = (List.finRange n).map fun i => v[i] :=
  List.ext_getElem (by simp) fun i _ _ => by simp

theorem eq_map_getD {l : List Int} {n : Nat} (h : l.length = n) :
    l = (List.finRange n).map fun i => l.getD i.val 0 :=
  List.ext_getElem (by simpa using h) fun i hi _ => by simp [hi]

theorem postMute_eq {tracks : Vector Track 6} {sums : List Int} (h : sums.length = 6) :
    postMute tracks sums = (List.finRange 6).map fun t => scale (sums.getD t.val 0) (tracks[t]).ramp := by
  unfold postMute
  conv_lhs => rw [eq_map_getD h, toList_eq_map_finRange, List.zip_map', List.map_map]
  rfl

theorem sendSum_eq (send : Track → Nat) (tracks : Vector Track 6) (y : TrackId → Int) :
    sendSum send tracks ((List.finRange 6).map y) =
      ((List.finRange 6).map fun t => scale (y t) (send tracks[t])).sum := by
  rw [sendSum, foldl_add_eq_sum, toList_eq_map_finRange, List.zip_map', List.map_map]
  rfl

/-! ### The frame formed (R117, R129, R133) -/

/-- The burst that sounds at an arrival: none unless RUNNING, one begun at the beat, or the one that runs (R127). -/
theorem clickAt_eq (m : Mixer) (c : CycleState) (beat : Option (Nat × Bool)) : m.clickAt (c == .running) beat =
    if c = .running then (match beat with
      | some (_, bar) => some { n := 0, h := if bar = true then 12 else 24 }
      | none => m.burst)
    else none := by
  unfold Mixer.clickAt
  cases c <;> rfl

theorem moveRamps_track (t : TrackId) (s : State) : s.moveRamps.track t =
    { s.track t with ramp := rampStep (s.track t).ramp (s.track t).muteTarget } := by
  simp [State.moveRamps, State.track]

/-- The signal that an output slot takes from the buses, the tracks after mute, the click and the inputs (R133). -/
def slotSignal (front ear click : Int) (y : TrackId → Int) (input : Frame) : Source → Sample
  | .front => clamp24 front
  | .ear => clamp24 ear
  | .track t => clamp24 (y t)
  | .click => clamp24 click
  | .input i => input[i]
  | .silent => 0

theorem pick_eq (front ear click : Int) (y : TrackId → Int) (input : Frame) (src : Source) :
    ({ front := clamp24 front, ear := clamp24 ear, direct := ((List.finRange 6).map y).map clamp24
       click := clamp24 click, input := input } : Signals).pick src = slotSignal front ear click y input src := by
  cases src with
  | track t => simp [Signals.pick, slotSignal]
  | front | ear | click | input i | silent => rfl

/-- The mixer's work by its parts: the layers, then the click burst, then FRONT's clip and EAR's, then the output. -/
theorem mix_eq {input : Frame} {place : Point} {beat : Option (Nat × Bool)} {s v : State} {sums ys : List Int}
    {burst : Option Click} {click front ear : Int} {g : Signals}
    (hv : s.moveRamps.trackSums (List.finRange 6) = (v, sums)) (hys : ys = postMute v.tracks sums)
    (hburst : burst = v.mixer.clickAt (v.cycle.state == .running) beat)
    (hclick : click = (burst.map fun c => c.value v.mixer.clickLevel).getD 0)
    (hfront : front = scale (sendSum Track.frontSend v.tracks ys + monitorSum v.mixer.frontMonitor input)
      v.mixer.frontBus)
    (hear : ear = scale (sendSum Track.earSend v.tracks ys + monitorSum v.mixer.earMonitor input
      + if v.mixer.clickOn = true then click else 0) v.mixer.earBus)
    (hg : g = { front := clamp24 front, ear := clamp24 ear, direct := ys.map clamp24, click := clamp24 click
                input := input }) {w : State}
    (hw : w = ({ v with mixer := { v.mixer with burst := burst.bind Click.next } }.clipIf false (clamps24 front)
      place).clipIf true (clamps24 ear) place) :
    s.mix input place beat = { w with audio := { w.audio with pendingOut := v.mixer.outputs.map g.pick } } := by
  subst hw hg hear hfront hclick hburst hys
  unfold State.mix
  rw [hv]
  rfl

/-- The frame formed from the state before the arrival, whose tracks and mixer the layers' part leaves (R117, R124 to R133). -/
theorem mix_formed {input : Frame} {place : Point} {beat : Option (Nat × Bool)} {s v w : State} {sums : List Int}
    {burst : Option Click} {click front ear : Int} {y : TrackId → Int}
    (hv : s.moveRamps.trackSums (List.finRange 6) = (v, sums))
    (hburst : burst = s.mixer.clickAt (s.cycle.state == .running) beat)
    (hclick : click = (burst.map fun c => c.value s.mixer.clickLevel).getD 0)
    (hy : y = fun t => scale (sums.getD t.val 0) (rampStep (s.track t).ramp (s.track t).muteTarget))
    (hfront : front = scale (((List.finRange 6).map fun t => scale (y t) (s.track t).frontSend).sum
      + ((List.finRange 8).map fun i => scale (input[i]).toInt s.mixer.frontMonitor[i]).sum) s.mixer.frontBus)
    (hear : ear = scale (((List.finRange 6).map fun t => scale (y t) (s.track t).earSend).sum
      + ((List.finRange 8).map fun i => scale (input[i]).toInt s.mixer.earMonitor[i]).sum
      + if s.mixer.clickOn = true then click else 0) s.mixer.earBus)
    (hw : w = ({ v with mixer := { v.mixer with burst := burst.bind Click.next } }.clipIf false (clamps24 front)
      place).clipIf true (clamps24 ear) place) :
    s.mix input place beat =
      { w with audio := { w.audio with
          pendingOut := s.mixer.outputs.map (slotSignal front ear click y input) } } := by
  have hk : MixKept s.moveRamps v := mixKept_of_trackSums hv
  have hmixer : v.mixer = s.mixer := hk.mixer
  have hcycle : v.cycle = s.cycle := hk.cycle
  have htrack : ∀ t : TrackId, v.tracks[t] =
      { s.track t with ramp := rampStep (s.track t).ramp (s.track t).muteTarget } :=
    fun t => (hk.track t).trans (moveRamps_track t s)
  have hlen : sums.length = 6 := by
    simpa only [hv, List.length_finRange] using trackSums_length (List.finRange 6) s.moveRamps
  have hpost : (List.finRange 6).map y = postMute v.tracks sums := by simp only [postMute_eq hlen, htrack, hy]
  have hburst' : burst = v.mixer.clickAt (v.cycle.state == .running) beat := by rwa [hmixer, hcycle]
  have hclick' : click = (burst.map fun c => c.value v.mixer.clickLevel).getD 0 := by rwa [hmixer]
  rw [mix_eq hv hpost hburst' hclick' (by simpa only [sendSum_eq, htrack, monitorSum_eq, hmixer] using hfront)
    (by simpa only [sendSum_eq, htrack, monitorSum_eq, hmixer] using hear) rfl hw, hmixer,
    ← funext (pick_eq front ear click y input)]

end Sys2Proof.Machine


/-! # O51: the frame that the mixer forms -/

namespace Sys2Proof.Machine

open Sys2Proof

/-- Settles O51: the weights and sums of the layers, an underrun's sample, and the frame formed, slot by slot. -/
theorem mixerFormsTheOutputFrame : Obligations.MixerFormsTheOutputFrame := by
  unfold Obligations.MixerFormsTheOutputFrame
  refine ⟨edgeWeight_eq, fun t s h => trackSum_silent (soundingAt_none h), ?_, ?_, trackSums_cons, ?_⟩
  · intro t span len q s hr ho hspan hlen hq hn cover part total hcover hpart h0 htotal
    rw [trackSum_sounding ((soundingAt_some hr ho hspan hlen).trans (congrArg some hq.symm))]
    refine sumLayers_eq h0 (fun id newer => ?_) _ (.refl s) (fun _ _ => rfl) hn
    have hcov : cover = s.coverOf t q := by
      rw [hcover]
      funext id
      cases hl : s.layer? id with
      | none => rw [coverOf_none hl]
      | some l => exact (coverOf_some hl).symm
    have hheard : part id (newer.reverse.filterMap cover) =
        (s.layerPart q id (newer.reverse.filterMap (s.coverOf t q))).2 := by
      rw [hcov, hpart]
      cases hl : s.layer? id with
      | none => simp only [hl, layerPart_none _ hl]
      | some l =>
        cases hd : l.buf.data with
        | nil => simp only [hl, layerPart_heard _ hl, hd, heard_nil hd]
        | cons x xs => simp only [hl, layerPart_heard _ hl, hd, heard_cons hd]
    rw [htotal, hheard]
  · rintro id k a l s hl hu rfl
    exact layerSample_underrun hl hu
  · rintro input place beat s v u sums hv rfl burst click front ear y hburst hclick hy hfront hear
    have hburst' : burst = s.mixer.clickAt (s.cycle.state == .running) beat :=
      hburst.trans (clickAt_eq _ _ _).symm
    have hclick' : click = (burst.map fun c => c.value s.mixer.clickLevel).getD 0 := by
      rw [hclick]
      cases burst <;> rfl
    have hk : MixKept s.moveRamps v := mixKept_of_trackSums hv
    have hmixer : v.mixer = s.mixer := hk.mixer
    rw [mix_formed hv hburst' hclick' hy hfront hear rfl]
    refine ⟨fun i => ?_, fun t => ?_, ?_, ?_⟩
    · show (s.mixer.outputs.map (slotSignal front ear click y input))[i] = _
      rw [Fin.getElem_fin, Vector.getElem_map]
      rfl
    · refine Eq.trans ?_ ((hk.track t).trans (moveRamps_track t s))
      simp only [State.track, clipIf_tracks]
    · exact (clipIf_clipIf_mixer _ _ _ _).trans (by rw [hmixer]; rfl)
    · rintro e a b p rfl rfl rfl
      rw [← hmixer]
      exact (port_congr rfl rfl p).trans (clipIf_clipIf_port _ _ _ _ _ rfl)

end Sys2Proof.Machine


/-! # O14 and O6: which commands write the loop memory, and its canonical form (R139, R144, R150, R153) -/

namespace Sys2Proof.Machine

open Sys2Proof

/-! ### Commands in general -/

theorem whenLive_words {f : State → State} (hf : ∀ s, (f s).mem.words = s.mem.words) (s : State) :
    (s.whenLive f).mem.words = s.mem.words :=
  KeptByBlocks.whenLive (P := fun u => u.mem.words = s.mem.words) (fun u h => (hf u).trans h) rfl

theorem repeatStep_words {f : State → State} (hf : ∀ s, (f s).mem.words = s.mem.words) (n : Nat) (s : State) :
    (repeatStep f n s).mem.words = s.mem.words :=
  KeptByBlocks.repeatStep (P := fun u => u.mem.words = s.mem.words) (fun u h => (hf u).trans h) n rfl

theorem segment_words {p : Port} {k : TransferKind} {fall : Bool} {n : Nat} {rise : Bool} {body : State → State}
    (hb : ∀ s, (body s).mem.words = s.mem.words) (s : State) :
    (s.segment p k fall n rise body).mem.words = s.mem.words := by
  refine whenLive_words (fun u => ?_) s
  have hf : (if fall then u.beginTransfer p k else u).mem.words = u.mem.words := by
    split
    · exact beginTransfer_words _ _ _
    · rfl
  dsimp only
  generalize (if fall then u.beginTransfer p k else u) = v at hf ⊢
  split
  · rw [riseIf_words, hb, hf]
  · split
    · rw [riseIf_words, shiftZeros_words, hf]
    · exact hf

/-- A request leaves the words that its owner leaves (R187 to R189). -/
theorem screen_words {always lenOk : Bool} {h : Req} {code : Nat} {owner : Owner}
    (ho : ∀ s, (owner s).1.mem.words = s.mem.words) (s : State) :
    (s.screen always lenOk h code owner).mem.words = s.mem.words := by
  have taken : (s.takeRequest h code owner).mem.words = s.mem.words := by
    have hp := ho (s.setPort h.port { s.port h.port with reply := .pending h.tag (BitVec.ofNat 8 code) })
    rw [setPort_words] at hp
    unfold State.takeRequest
    split
    · next e =>
      rw [e] at hp
      rw [fillReply_words, hp]
    · next e =>
      rw [e] at hp
      exact hp
  unfold State.screen
  split
  · exact refuse_words _ _ _ _
  · split
    · exact refuse_words _ _ _ _
    · split
      · exact taken
      · exact refuse_words _ _ _ _

theorem request_words {h : Req} {code n : Nat} {owner : Owner} (ho : ∀ s, (owner s).1.mem.words = s.mem.words)
    (s : State) : (s.request h code n owner).mem.words = s.mem.words :=
  whenLive_words (fun u => (screen_words ho _).trans (shiftRequest_words _ _ u)) s

theorem requestAlways_words {h : Req} {code : Nat} {owner : Owner} (ho : ∀ s, (owner s).1.mem.words = s.mem.words)
    (s : State) : (s.requestAlways h code owner).mem.words = s.mem.words :=
  whenLive_words (fun u => (screen_words ho _).trans (shiftRequest_words _ _ u)) s

@[simp] theorem answer_words (s : State) (st : Status) (l : List Byte) : (s.answer st l).1.mem.words = s.mem.words := rfl

/-! ### Owners of requests -/

section

variable (s : State)

@[simp] theorem ownSetTempo_words (t b : Nat) : (ownSetTempo t b s).1.mem.words = s.mem.words := by
  unfold ownSetTempo
  (repeat' split) <;> simp

@[simp] theorem ownSetLength_words (n : Nat) : (ownSetLength n s).1.mem.words = s.mem.words := by
  unfold ownSetLength
  (repeat' split) <;> simp

@[simp] theorem ownSetGrid_words (b p : Nat) : (ownSetGrid b p s).1.mem.words = s.mem.words := by
  unfold ownSetGrid
  split <;> rfl

@[simp] theorem ownTap_words : (ownTap s).1.mem.words = s.mem.words := by
  have h := actTap_words s.cycle.frameCount s
  unfold ownTap
  split <;> next e => rw [e] at h; exact h

@[simp] theorem handQuantised_words (p : Port) (a : Action) (t : Option TrackId) (q : Quantum) :
    (s.handQuantised p a t q).1.mem.words = s.mem.words := by
  unfold State.handQuantised
  dsimp only [State.answer]
  split <;> simp

@[simp] theorem ownAll_words (p : Port) (a : Action) (q : Byte) : (ownAll p a q s).1.mem.words = s.mem.words := by
  unfold ownAll
  split <;> simp

@[simp] theorem ownTrack_words (p : Port) (a : Action) (t q : Byte) : (ownTrack p a t q s).1.mem.words = s.mem.words := by
  unfold ownTrack
  split <;> simp

@[simp] theorem ownClearAll_words (q : Byte) : (ownClearAll q s).1.mem.words = s.mem.words := by
  unfold ownClearAll
  split <;> simp

@[simp] theorem ownClearTrack_words (t q : Byte) : (ownClearTrack t q s).1.mem.words = s.mem.words := by
  unfold ownClearTrack
  split <;> simp

@[simp] theorem ownSetTrack_words (t : Byte) (fb fr er : Nat) (src : Byte) :
    (ownSetTrack t fb fr er src s).1.mem.words = s.mem.words := by
  unfold ownSetTrack
  split <;> simp

@[simp] theorem ownSetLayerGain_words (id g : Nat) : (ownSetLayerGain id g s).1.mem.words = s.mem.words := by
  unfold ownSetLayerGain
  (repeat' split) <;> simp

@[simp] theorem ownReadTrack_words (t : Byte) : (ownReadTrack t s).1.mem.words = s.mem.words := by
  unfold ownReadTrack
  split <;> rfl

@[simp] theorem ownReadLayer_words (id : Nat) : (ownReadLayer id s).1.mem.words = s.mem.words := by
  unfold ownReadLayer
  split <;> rfl

@[simp] theorem ownCancelCue_words (id : Nat) : (ownCancelCue id s).1.mem.words = s.mem.words := by
  unfold ownCancelCue
  split <;> simp

@[simp] theorem ownSetSwitch_words (c : Byte) (e : Option MapEntry) : (ownSetSwitch c e s).1.mem.words = s.mem.words := by
  unfold ownSetSwitch
  split <;> simp

theorem ownSwitch_words {report : Port → SwitchCode → State → State × Bool}
    (hr : ∀ p c s, (report p c s).1.mem.words = s.mem.words) (p : Port) (c : Byte) :
    (ownSwitch report p c s).1.mem.words = s.mem.words := by
  unfold ownSwitch
  split
  · exact (settle_words _).trans (hr _ _ _)
  · rfl

@[simp] theorem ownSelectTrack_words (p : Port) (t : Byte) : (ownSelectTrack p t s).1.mem.words = s.mem.words := by
  unfold ownSelectTrack
  split <;> simp

@[simp] theorem ownSetMonitor_words (i : Byte) (fr er : Nat) : (ownSetMonitor i fr er s).1.mem.words = s.mem.words := by
  unfold ownSetMonitor
  split <;> rfl

@[simp] theorem ownSetClick_words (on : Byte) (level : Nat) : (ownSetClick on level s).1.mem.words = s.mem.words := by
  unfold ownSetClick
  split <;> rfl

@[simp] theorem ownSetOutput_words (i : Byte) (src : Option Source) :
    (ownSetOutput i src s).1.mem.words = s.mem.words := by
  unfold ownSetOutput
  split <;> rfl

@[simp] theorem ownReadClips_words (clear : Byte) : (ownReadClips clear s).1.mem.words = s.mem.words := by
  unfold ownReadClips
  split <;> rfl

@[simp] theorem ownOpenWindow_words (p : Port) (id o : Nat) (d m : Byte) :
    (ownOpenWindow p id o d m s).1.mem.words = s.mem.words := by
  unfold ownOpenWindow
  (repeat' split) <;> simp

@[simp] theorem ownCloseWindow_words (p : Port) : (ownCloseWindow p s).1.mem.words = s.mem.words := by
  unfold ownCloseWindow
  (repeat' split) <;> simp

@[simp] theorem ownImportLayer_words (p : Port) (arg : Option Import) : (ownImportLayer p arg s).1.mem.words = s.mem.words := by
  unfold ownImportLayer
  (repeat' split)
  · rfl
  · rfl
  · rfl
  · rfl
  · next e => simp [takeRoom_words _ _ _ _ e]

@[simp] theorem ownSetWindowTimeout_words (p : Port) (n : Nat) : (ownSetWindowTimeout p n s).1.mem.words = s.mem.words := by
  unfold ownSetWindowTimeout
  split <;> simp

@[simp] theorem ownSetLinkThreshold_words (n : Nat) : (ownSetLinkThreshold n s).1.mem.words = s.mem.words := by
  unfold ownSetLinkThreshold
  split <;> rfl

@[simp] theorem ownClearFaults_words (q : Nat) : (ownClearFaults q s).1.mem.words = s.mem.words := by
  unfold ownClearFaults
  (repeat' split) <;> rfl

@[simp] theorem ownRest_words : (ownRest s).1.mem.words = s.mem.words := by
  unfold ownRest
  (repeat' split) <;> simp

@[simp] theorem ownWake_words : (ownWake s).1.mem.words = s.mem.words := by
  unfold ownWake
  split <;> simp

@[simp] theorem ownSetInterest_words (p : Port) (k : BitVec 32) : (ownSetInterest p k s).1.mem.words = s.mem.words := by
  unfold ownSetInterest
  split <;> simp

@[simp] theorem ownSetMaskLevel_words (p : Port) (level : Byte) : (ownSetMaskLevel p level s).1.mem.words = s.mem.words := by
  unfold ownSetMaskLevel
  split <;> simp

@[simp] theorem ownPostNote_words (p : Port) (note : List Byte) : (ownPostNote p note s).1.mem.words = s.mem.words := by
  unfold ownPostNote
  split <;> simp

@[simp] theorem ownTakeNote_words (p : Port) : (ownTakeNote p s).1.mem.words = s.mem.words := by
  unfold ownTakeNote
  split <;> simp

theorem pinAsserted_words : s.pinAsserted.mem.words = s.mem.words :=
  pinAsserted_keeps (P := fun u => u.mem.words = s.mem.words) (fun u h => (powerLow_words u).trans h)
    (fun _ _ _ _ _ h => h) (fun _ _ h => h) s rfl

end

/-! ### Every command -/

/-- The commands that store words of the loop memory or lose them: the completions of writes (R144, R150, R153) and the
resets (R207). -/
def changesWords : Instr → Bool
  | .reset | .resetnLow | .resetPart _ | .captureWriteComplete | .foldBurstComplete _ | .windowCommitComplete => true
  | _ => false

/-- Every command but those leaves the words of the loop memory. -/
theorem exec_words {c : Instr} (hc : changesWords c = false) (s : State) :
    ∃ t, exec c s = .next t ∧ t.mem.words = s.mem.words := by
  cases c with
  | reset | resetnLow | resetPart r | captureWriteComplete | foldBurstComplete checks | windowCommitComplete =>
    exact absurd hc (by simp [changesWords])
  | pwrlowAssert =>
    refine ⟨_, rfl, ?_⟩
    split
    · rfl
    · exact pinAsserted_words s
  | pwrlowRelease => exact ⟨_, rfl, rfl⟩
  | frameSync n bits ord => exact ⟨_, rfl, whenLive_words (frameSync_words n bits ord) s⟩
  | watchdogExpiry => exact ⟨_, rfl, whenLive_words watchdog_words s⟩
  | holdDeadline p code => exact ⟨_, rfl, whenLive_words (fun u => by simp) s⟩
  | windowDeadline p code => exact ⟨_, rfl, whenLive_words (fun u => by simp) s⟩
  | backgroundLockout who => exact ⟨_, rfl, whenLive_words (lockout_words who) s⟩
  | writeTimeout => exact ⟨_, rfl, whenLive_words writeDeadline_words s⟩
  | windowRequestTimeout p => exact ⟨_, rfl, whenLive_words (windowTimedOut_words p) s⟩
  | refreshDue => exact ⟨_, rfl, whenLive_words refreshFallsDue_words s⟩
  | arbiterGrant => exact ⟨_, rfl, whenLive_words arbitrate_words s⟩
  | refreshComplete => exact ⟨_, rfl, whenLive_words completeRefresh_words s⟩
  | playbackReadComplete checks => exact ⟨_, rfl, whenLive_words (completePlayback_words checks) s⟩
  | windowReadComplete checks => exact ⟨_, rfl, whenLive_words (completeWindowRead_words checks) s⟩
  | waitingBurstHandover => exact ⟨_, rfl, whenLive_words settle_words s⟩
  | blockTest n ok => exact ⟨_, rfl, whenLive_words (testBlock_words n ok) s⟩
  | memoryTestDone => exact ⟨_, rfl, whenLive_words finishTest_words s⟩
  | enterSelfRefresh => exact ⟨_, rfl, whenLive_words selfRefresh_words s⟩
  | requestCut p arrived => exact ⟨_, rfl, whenLive_words (fun u => by simp) s⟩
  | unknownRequest r code => exact ⟨_, rfl, whenLive_words (fun u => by dsimp only; split <;> simp) s⟩
  | readReply p fall n rise => exact ⟨_, rfl, segment_words (repeatStep_words (replyByte_words p) n) s⟩
  | readEvents p fall n rise => exact ⟨_, rfl, segment_words (repeatStep_words (eventsByte_words p) n) s⟩
  | windowRead p fall n rise =>
    exact ⟨_, rfl, segment_words (fun u => (settle_words _).trans (repeatStep_words (windowReadByte_words p) n u)) s⟩
  | windowWrite p fall bytes rise =>
    exact ⟨_, rfl, segment_words (fun u => (settle_words _).trans (windowWriteBytes_words p bytes u)) s⟩
  | status r | identify r => exact ⟨_, rfl, requestAlways_words (fun u => answer_words u _ _) s⟩
  | postNote r note =>
    exact ⟨_, rfl, whenLive_words (fun u => (screen_words (fun v => ownPostNote_words v _ _) _).trans
      (shiftRequest_words _ _ u)) s⟩
  | setGrace r n | setPressTiming r hold double | setBus r fr er | setEdge r n | clearLinkCount r =>
    exact ⟨_, rfl, request_words (fun _ => rfl) s⟩
  | readCues r | readFaults r => exact ⟨_, rfl, request_words (fun u => answer_words u _ _) s⟩
  | switchDown r code => exact ⟨_, rfl, request_words (fun u => ownSwitch_words u switchDown_words _ _) s⟩
  | switchUp r code => exact ⟨_, rfl, request_words (fun u => ownSwitch_words u switchUp_words _ _) s⟩
  | record r t q | overdub r t q | replace r t q | close r t q | mute r t q | unmute r t q | undo r t q | redo r t q =>
    exact ⟨_, rfl, request_words (fun u => ownTrack_words u _ _ _ _) s⟩
  | playAll r q | stopAll r q => exact ⟨_, rfl, request_words (fun u => ownAll_words u _ _ _) s⟩
  | setInterest | setMaskLevel | takeNote | setTempo | setLength | setGrid | tap | clearAll | clearTrack | setTrack
  | setLayerGain | readTrack | readLayer | cancelCue | setSwitch | selectTrack | setMonitor | setClick | setOutput
  | readClips | openWindow | closeWindow | importLayer | setWindowTimeout | setLinkThreshold | clearFaults | rest
  | wake => exact ⟨_, rfl, request_words (fun u => by simp) s⟩

/-- Settles O14: a command that is neither a write completion nor a reset leaves every word. -/
theorem onlyWritesChangeLoopMemory : Obligations.OnlyWritesChangeLoopMemory := by
  unfold Obligations.OnlyWritesChangeLoopMemory
  intro c s t hreset hlow hpart hcapture hfold hcommit e
  have hc : changesWords c = false := by
    cases c with
    | reset => exact absurd rfl hreset
    | resetnLow => exact absurd rfl hlow
    | resetPart r => exact absurd rfl (hpart r)
    | captureWriteComplete => exact absurd rfl hcapture
    | foldBurstComplete l => exact absurd rfl (hfold l)
    | windowCommitComplete => exact absurd rfl hcommit
    | _ => rfl
  obtain ⟨u, hu, hw⟩ := exec_words hc s
  obtain rfl := Host.Outcome.next.inj (hu.symm.trans e)
  exact readWord_of_words hw

/-! ### The canonical form -/

/-- The memory that a stored burst leaves is in canonical form where it was before (R144). -/
theorem Stores.settled_wf {blk : Option Nat} {o : Nat} {xs : List Sample} {s u : State} (h : Stores blk o xs s u)
    (hm : Memory.wf s.mem) : Memory.wf u.settle.mem :=
  wf_of_words ((settle_words u).trans h.words) (storeBurst_wf hm)

theorem completeCapture_wf (s : State) (h : Memory.wf s.mem) : Memory.wf s.completeCapture.mem := by
  unfold State.completeCapture
  split
  · exact (captureDone_stores _ _ _ s).settled_wf h
  · exact h

theorem completeFoldBurst_wf (checks : List WordCheck) (s : State) (h : Memory.wf s.mem) :
    Memory.wf (s.completeFoldBurst checks).mem := by
  unfold State.completeFoldBurst
  split
  · exact wf_of_words (by simp) h
  · exact (foldWriteDone_stores _ _ _ s).settled_wf h
  · exact h

theorem completeCommit_wf (s : State) (h : Memory.wf s.mem) : Memory.wf s.completeCommit.mem := by
  unfold State.completeCommit
  split
  · exact (commitDone_stores _ _ _ _ s).settled_wf h
  · exact h

/-- The loop memory of a part in reset lists no word (R207). -/
theorem resetTo_wf (held : Bool) (s : State) : Memory.wf (s.resetTo held).mem :=
  ⟨.nil, fun _ he => absurd he List.not_mem_nil⟩

/-- RESET PART keeps what every reset establishes, and what a request that is refused leaves (R186, R207). -/
theorem resetPart_keeps {P : State → Prop} (reset : ∀ s : State, P (s.resetTo false))
    (setPort : ∀ p c (s : State), P s → P (s.setPort p c)) (r : Req) {s : State} (hs : P s) : P (s.request r 114 0 ownResetPart) := by
  refine KeptByBlocks.whenLive (fun u hu => ?_) hs
  unfold State.screen
  (repeat' split)
  · exact setPort _ _ _ (setPort _ _ _ hu)
  · exact setPort _ _ _ (setPort _ _ _ hu)
  · exact reset _
  · exact setPort _ _ _ (setPort _ _ _ hu)

/-- Every command keeps the canonical form: the write completions store words one by one, the resets list none. -/
theorem exec_memoryWf (c : Instr) {s : State} (h : Memory.wf s.mem) : ∃ t, exec c s = .next t ∧ Memory.wf t.mem := by
  by_cases hc : changesWords c = false
  · obtain ⟨t, ht, hw⟩ := exec_words hc s
    exact ⟨t, ht, wf_of_words hw h⟩
  · cases c with
    | reset => exact ⟨_, rfl, resetTo_wf false s⟩
    | resetnLow => exact ⟨_, rfl, resetTo_wf true s⟩
    | resetPart r =>
      exact ⟨_, rfl, resetPart_keeps (P := fun u => Memory.wf u.mem) (resetTo_wf false)
        (fun p c u hu => wf_of_words (setPort_words p c u) hu) r h⟩
    | captureWriteComplete => exact ⟨_, rfl, KeptByBlocks.whenLive (P := fun u => Memory.wf u.mem) completeCapture_wf h⟩
    | foldBurstComplete l =>
      exact ⟨_, rfl, KeptByBlocks.whenLive (P := fun u => Memory.wf u.mem) (completeFoldBurst_wf l) h⟩
    | windowCommitComplete => exact ⟨_, rfl, KeptByBlocks.whenLive (P := fun u => Memory.wf u.mem) completeCommit_wf h⟩
    | _ => exact absurd rfl hc

/-- Settles O6: the command at the front keeps the canonical form, and idling touches no word. -/
theorem memoryStaysCanonical : Obligations.MemoryStaysCanonical := by
  unfold Obligations.MemoryStaysCanonical
  intro s t h e
  unfold step at e
  split at e
  · obtain rfl := Host.Outcome.next.inj e
    exact h
  · next c rest _ =>
    obtain ⟨u, hu, hw⟩ := exec_memoryWf c (s := { s with pending := rest }) h
    obtain rfl := Host.Outcome.next.inj (hu.symm.trans e)
    exact hw

end Sys2Proof.Machine


/-! # O10: blocks on the move

Each block that has been tested stands once on the free list, the bad-block list or the extents of a layer (R137). Taking
a block (R138), giving blocks back (R28, R69) and changing a layer's record move blocks between the three. -/

namespace Sys2Proof.Machine

open Sys2Proof

/-! ### Extents of a list of layer records -/

/-- The blocks on the extents of a list of layer records. -/
def blocksOf (l : List (Nat × Layer)) : List Nat := l.flatMap fun e => e.2.extents

theorem blocksOf_cons (e : Nat × Layer) (l : List (Nat × Layer)) : blocksOf (e :: l) = e.2.extents ++ blocksOf l := rfl

/-- A record of a new id brings its blocks. -/
theorem blocksOf_insert_new {k : Nat} {v : Layer} {l : List (Nat × Layer)} (h : assocFind k l = none) :
    (blocksOf (assocInsert k v l)).Perm (v.extents ++ blocksOf l) := by
  induction l with
  | nil => exact .refl _
  | cons x l ih =>
    unfold assocFind at h
    split at h
    · cases h
    · next hx =>
      unfold assocInsert
      split
      · exact .refl _
      · rw [if_neg (Ne.symm hx), blocksOf_cons, blocksOf_cons]
        exact ((ih h).append_left _).trans (List.perm_append_comm_assoc _ _ _)

/-- A record taken out takes its blocks with it. -/
theorem blocksOf_erase {k : Nat} {v : Layer} {l : List (Nat × Layer)} (h : assocFind k l = some v) :
    (v.extents ++ blocksOf (assocErase k l)).Perm (blocksOf l) := by
  induction l with
  | nil => cases h
  | cons x l ih =>
    unfold assocFind at h
    unfold assocErase
    split at h
    · next hx =>
      rw [if_pos hx, ← Option.some.inj h]
      exact .refl _
    · next hx =>
      rw [if_neg hx, blocksOf_cons, blocksOf_cons]
      exact (List.perm_append_comm_assoc _ _ _).trans ((ih h).append_left _)

/-- A list of greater keys has no record to take out. -/
theorem erase_below {k : Nat} {l : List (Nat × Layer)} (h : ∀ e ∈ l, k < e.1) : assocErase k l = l := by
  induction l with
  | nil => rfl
  | cons x l ih =>
    unfold assocErase
    rw [if_neg (Nat.ne_of_gt (h x List.mem_cons_self)), ih fun e he => h e (List.mem_cons_of_mem _ he)]

/-- A record set anew in a sorted list is the old one taken out and the new one brought. -/
theorem insert_eq_insert_erase {k : Nat} (v : Layer) {l : List (Nat × Layer)} (hs : l.Pairwise (fun e f => e.1 < f.1)) :
    assocInsert k v l = assocInsert k v (assocErase k l) := by
  induction l with
  | nil => rfl
  | cons x l ih =>
    obtain ⟨j, w⟩ := x
    rw [List.pairwise_cons] at hs
    unfold assocErase
    split
    · next hx =>
      subst hx
      cases l with
      | nil => simp [assocInsert]
      | cons y l => simp [assocInsert, hs.1 y]
    · next hx =>
      by_cases hk : k < j
      · rw [erase_below fun e he => lt_trans hk (hs.1 e he)]
      · simp [assocInsert, hk, Ne.symm hx, ih hs.2]

/-- The new blocks of a record in use in place of the old ones. -/
theorem blocksOf_insert {k : Nat} {v : Layer} (w : Layer) {l : List (Nat × Layer)}
    (hs : l.Pairwise (fun e f => e.1 < f.1)) (h : assocFind k l = some v) :
    (v.extents ++ blocksOf (assocInsert k w l)).Perm (w.extents ++ blocksOf l) := by
  have hn : assocFind k (assocErase k l) = none := by rw [find_erase k k hs, if_pos rfl]
  rw [insert_eq_insert_erase w hs]
  exact ((blocksOf_insert_new hn).append_left _).trans
    ((List.perm_append_comm_assoc _ _ _).trans ((blocksOf_erase h).append_left _))

/-! ### Blocks given back (R28) -/

theorem addBad_perm {b : Nat} {l : List Nat} (h : b ∉ l) : (addBad b l).Perm (b :: l) := by
  induction l with
  | nil => exact .refl _
  | cons x l ih =>
    rw [List.mem_cons, not_or] at h
    unfold addBad
    split
    · exact .refl _
    · rw [if_neg h.1]
      exact ((ih h.2).cons x).trans (.swap b x l)

theorem foldl_addBad_perm (bs : List Nat) : ∀ {l : List Nat}, (bs ++ l).Nodup →
    (bs.foldl (fun l b => addBad b l) l).Perm (bs ++ l) := by
  induction bs with
  | nil => exact fun _ => .refl _
  | cons b bs ih =>
    intro l h
    rw [List.cons_append, List.nodup_cons] at h
    have hp := addBad_perm fun hb => h.1 (List.mem_append_right bs hb)
    have hm : (bs ++ addBad b l).Perm (b :: (bs ++ l)) := (hp.append_left bs).trans List.perm_middle
    exact (ih (hm.nodup_iff.mpr (List.nodup_cons.mpr h))).trans hm

/-- Blocks given back stand on the free list and the bad-block list afterwards (R28). -/
theorem giveBack_perm (m : MemCtl) (blocks suspects : List Nat) (h : (blocks ++ m.bad).Nodup) :
    ((m.giveBack blocks suspects).free ++ (m.giveBack blocks suspects).bad).Perm (blocks ++ (m.free ++ m.bad)) := by
  have hsplit := List.filter_append_perm (fun b => suspects.contains b) blocks
  have hbad := foldl_addBad_perm (blocks.filter fun b => suspects.contains b)
    (h.sublist (List.filter_sublist.append_right m.bad))
  rw [List.perm_iff_count] at hsplit hbad ⊢
  intro b
  have h1 := hsplit b
  have h2 := hbad b
  simp only [MemCtl.giveBack, List.count_append] at h1 h2 ⊢
  omega

end Sys2Proof.Machine


/-! # O10: the operations that leave every block in its place, and those that move blocks (R28, R69, R137, R138) -/

namespace Sys2Proof.Machine

open Sys2Proof

/-- Where the blocks are, and what says which blocks have been tested. -/
def State.places (s : State) : List (Nat × List Nat) × List Nat × List Nat × MemMode × Nat × Part :=
  (s.layers.map fun e => (e.1, e.2.extents), s.mem.free, s.mem.bad, s.mem.mode, s.mem.testNext, s.power.part)

namespace BlocksInOnePlace

variable {s u : State}

/-- Blocks that only change places stay in one place each. -/
theorem moved (h : BlocksInOnePlace s) (hs : u.layers.Pairwise (fun e f => e.1 < f.1))
    (hb : (u.mem.free ++ u.mem.bad ++ blocksOf u.layers).Perm (s.mem.free ++ s.mem.bad ++ blocksOf s.layers))
    (hm : (u.mem.mode, u.mem.testNext, u.power.part) = (s.mem.mode, s.mem.testNext, s.power.part)) :
    BlocksInOnePlace u := by
  simp only [Prod.mk.injEq] at hm
  obtain ⟨hmode, hnext, hpart⟩ := hm
  exact ⟨hs, hnext ▸ h.tested, by rw [hmode, hnext]; exact hb.trans h.once, by rw [hmode, hpart]; exact h.starting⟩

/-- An update that leaves every block where it is. -/
theorem same (h : BlocksInOnePlace s) (hu : u.places = s.places) : BlocksInOnePlace u := by
  simp only [State.places, Prod.mk.injEq] at hu
  obtain ⟨hl, hf, hb, hm, ht, hp⟩ := hu
  have hkeys : ∀ l : List (Nat × Layer), l.Pairwise (fun e f => e.1 < f.1) ↔
      (l.map fun e => (e.1, e.2.extents)).Pairwise (fun e f => e.1 < f.1) := fun l => by rw [List.pairwise_map]
  have hblocks : ∀ l : List (Nat × Layer), blocksOf l = (l.map fun e => (e.1, e.2.extents)).flatMap Prod.snd := fun l => by
    rw [List.flatMap_map]
    rfl
  refine h.moved ?_ ?_ (by rw [hm, ht, hp])
  · rw [hkeys, hl, ← hkeys]
    exact h.ids
  · rw [hblocks, hl, ← hblocks, hf, hb]

/-- The blocks on the lists and on the layers are all different. -/
theorem nodup (h : BlocksInOnePlace s) : (s.mem.free ++ s.mem.bad ++ blocksOf s.layers).Nodup :=
  h.once.nodup_iff.mpr List.nodup_range

theorem ite {c : Prop} [Decidable c] (hs : BlocksInOnePlace s) (hu : BlocksInOnePlace u) :
    BlocksInOnePlace (if c then s else u) := by
  split
  · exact hs
  · exact hu

/-! ### Layer records -/

/-- A layer record in use set anew with the blocks it had. -/
theorem setLayer (h : BlocksInOnePlace s) {id : Nat} {l m : Layer} (hl : s.layer? id = some l)
    (hm : m.extents = l.extents := by exact rfl) : BlocksInOnePlace (s.setLayer id m) := by
  have hp := blocksOf_insert m h.ids hl
  rw [hm] at hp
  exact h.moved (insert_sorted h.ids) (((List.perm_append_left_iff _).mp hp).append_left _) rfl

/-- A new layer record, without a block (R27, R137). -/
theorem addLayer (h : BlocksInOnePlace s) {id : Nat} {l : Layer} (hid : s.layer? id = none) (hl : l.extents = []) :
    BlocksInOnePlace (s.setLayer id l) := by
  have hp := blocksOf_insert_new (v := l) hid
  rw [hl, List.nil_append] at hp
  exact h.moved (insert_sorted h.ids) (hp.append_left _) rfl

theorem modLayer (h : BlocksInOnePlace s) (id : Nat) {f : Layer → Layer}
    (hf : ∀ l, (f l).extents = l.extents := by exact fun _ => rfl) :
    BlocksInOnePlace (s.modLayer id f) := by
  unfold State.modLayer
  split
  · next hl => exact h.setLayer hl (hf _)
  · exact h

theorem reaim (h : BlocksInOnePlace s) (id : Nat) : BlocksInOnePlace (s.reaim id) := h.modLayer id

theorem unfoldMembers (keep : List Nat) :
    ∀ {s : State}, BlocksInOnePlace s → BlocksInOnePlace (keep.foldl (fun s id => State.unfoldMember id s) s) := by
  induction keep with
  | nil => exact fun h => h
  | cons id keep ih => exact fun h => ih (h.modLayer id)

theorem decayAll (f : Nat) (l : List Nat) : ∀ {s : State}, BlocksInOnePlace s → BlocksInOnePlace (s.decayAll f l) := by
  induction l with
  | nil => exact fun h => h
  | cons id l ih => exact fun h => ih (h.modLayer id)

/-- Every layer record changed with the blocks it has. -/
theorem mapLayers (h : BlocksInOnePlace s) {f : Nat × Layer → Nat × Layer}
    (hf : ∀ e, (f e).1 = e.1 ∧ (f e).2.extents = e.2.extents) : BlocksInOnePlace { s with layers := s.layers.map f } := by
  refine h.same ?_
  have hg : ((fun e : Nat × Layer => (e.1, e.2.extents)) ∘ f) = fun e => (e.1, e.2.extents) :=
    funext fun e => Prod.ext (hf e).1 (hf e).2
  simp only [State.places, List.map_map, hg]

theorem settleBuffers (h : BlocksInOnePlace s) : BlocksInOnePlace s.settleBuffers := by
  unfold State.settleBuffers
  exact h.mapLayers fun e => by split <;> exact ⟨rfl, rfl⟩

theorem reaimAllZero (h : BlocksInOnePlace s) : BlocksInOnePlace s.reaimAllZero := by
  unfold State.reaimAllZero
  exact h.mapLayers fun e => by split <;> exact ⟨rfl, rfl⟩

/-! ### Ports, events, faults and waits -/

theorem setPort (h : BlocksInOnePlace s) (p : Port) (c : PortCtl) : BlocksInOnePlace (s.setPort p c) := by
  cases p <;> exact h.same rfl

theorem raiseEvent (h : BlocksInOnePlace s) (e : Event) : BlocksInOnePlace (s.raiseEvent e) := h.same rfl

theorem raise (h : BlocksInOnePlace s) (k : EventKind) (t : Option TrackId) (l : Option Nat) (d : Nat) :
    BlocksInOnePlace (s.raise k t l d) := h.same rfl

theorem raiseTrack (h : BlocksInOnePlace s) (t : TrackId) : BlocksInOnePlace (s.raiseTrack t) := h.same rfl

theorem takeFault (h : BlocksInOnePlace s) (o : Occurrence) : BlocksInOnePlace (s.takeFault o) := by
  unfold State.takeFault
  exact ite (h.same rfl) (h.same rfl)

theorem completeReply (h : BlocksInOnePlace s) (p : Port) (st : Status) (l : List Byte) :
    BlocksInOnePlace (s.completeReply p st l) := by
  unfold State.completeReply
  split
  · exact h.setPort _ _
  · exact h

theorem setWait (h : BlocksInOnePlace s) (who : Background) (w : Wait) : BlocksInOnePlace (s.setWait who w) := by
  cases who <;> exact h.same rfl

theorem setGrant (h : BlocksInOnePlace s) (g : Option Grant) : BlocksInOnePlace (s.setGrant g) := h.same rfl

theorem setWindow (h : BlocksInOnePlace s) (p : Port) (w : Option Window) : BlocksInOnePlace (s.setWindow p w) := by
  cases p <;> exact h.same rfl

theorem setSwitchPort (h : BlocksInOnePlace s) (p : Port) (c : SwitchPort) : BlocksInOnePlace (s.setSwitchPort p c) := by
  cases p <;> exact h.same rfl

theorem loseWindow (h : BlocksInOnePlace s) (p : Port) (c : LostCause) : BlocksInOnePlace (s.loseWindow p c) := by
  have hl := ((h.setWindow p none).setWait (portBackground p) Wait.idle)
  unfold State.loseWindow
  split
  · exact h
  · exact ite ((hl.raise _ _ _ _).completeReply _ _ _) (hl.raise _ _ _ _)

theorem loseWindowOn (h : BlocksInOnePlace s) (id : Nat) (c : LostCause) (p : Port) :
    BlocksInOnePlace (s.loseWindowOn id c p) := by
  unfold State.loseWindowOn
  split
  · exact ite (h.loseWindow _ _) h
  · exact h

theorem loseWindowsOn (h : BlocksInOnePlace s) (id : Nat) (c : LostCause) : BlocksInOnePlace (s.loseWindowsOn id c) :=
  (h.loseWindowOn _ _ _).loseWindowOn _ _ _

theorem cutWindow (h : BlocksInOnePlace s) (id n : Nat) (p : Port) : BlocksInOnePlace (s.cutWindow id n p) := by
  unfold State.cutWindow
  split
  · exact ite (h.setWindow _ _) h
  · exact h

theorem cutReads (h : BlocksInOnePlace s) (id n : Nat) : BlocksInOnePlace (s.cutReads id n) := ite (h.same rfl) h

theorem endCapture (h : BlocksInOnePlace s) (id n : Nat) : BlocksInOnePlace (s.endCapture id n) := by
  unfold State.endCapture
  split
  · exact h
  · exact h.same rfl

theorem windowDone (h : BlocksInOnePlace s) (p : Port) (w : Window) : BlocksInOnePlace (s.windowDone p w) :=
  (h.setWindow _ _).raise _ _ _ _

theorem settleRead (h : BlocksInOnePlace s) (p : Port) : BlocksInOnePlace (s.settleRead p) := by
  unfold State.settleRead
  (repeat' split)
  case h_2.isFalse.isTrue => exact h.windowDone _ _
  case h_3.isTrue => exact h.setWindow _ _
  case h_4.isTrue => exact h.setWindow _ _
  case h_4.isFalse.isFalse => exact h.setWindow _ _
  all_goals exact h

theorem settleWait (h : BlocksInOnePlace s) (who : Background) : BlocksInOnePlace (s.settleWait who) := by
  unfold State.settleWait
  (repeat' split)
  · exact h
  · exact h.setWait _ _
  · exact h.setWait _ _

/-! ### Tracks, the cycle timer and the fold engine -/

theorem setTrack (h : BlocksInOnePlace s) (t : TrackId) (tr : Track) : BlocksInOnePlace (s.setTrack t tr) := h.same rfl

theorem modTrack (h : BlocksInOnePlace s) (t : TrackId) (f : Track → Track) : BlocksInOnePlace (s.modTrack t f) := h.same rfl

theorem noteTrack (h : BlocksInOnePlace s) (t : TrackId) (old : Track) : BlocksInOnePlace (s.noteTrack t old) :=
  ite h (h.raise _ _ _ _)

theorem settleTrack (h : BlocksInOnePlace s) (t : TrackId) : BlocksInOnePlace (s.settleTrack t) := by
  unfold State.settleTrack
  exact ite h (h.same rfl)

theorem markFresh (h : BlocksInOnePlace s) (b : Bool) (id : Nat) : BlocksInOnePlace (s.markFresh b id) :=
  ite (h.same rfl) h

theorem setCycle (h : BlocksInOnePlace s) (c : Cycle) : BlocksInOnePlace (s.setCycle c) := ite (h.same rfl) (h.same rfl)

theorem closeDefining (h : BlocksInOnePlace s) (n : Nat) (stop : Bool) : BlocksInOnePlace (s.closeDefining n stop) :=
  ite ((h.setCycle _).raise _ _ _ _) (((h.setCycle _).raise _ _ _ _).raise _ _ _ _)

theorem startCycle (h : BlocksInOnePlace s) (n : Nat) (d : DefinedBy) : BlocksInOnePlace (s.startCycle n d) :=
  ((h.setCycle _).raise _ _ _ _).raise _ _ _ _

theorem withFold (h : BlocksInOnePlace s) (f : Option Fold) : BlocksInOnePlace { s with fold := f } := h.same rfl

theorem settleFold (h : BlocksInOnePlace s) : BlocksInOnePlace s.settleFold := by
  unfold State.settleFold
  dsimp only
  (repeat' split)
  · exact h
  · exact h
  · exact h.withFold _
  · exact (h.modTrack _ _).withFold _
  · exact h

theorem decayFold (h : BlocksInOnePlace s) (t : TrackId) (f : Nat) : BlocksInOnePlace (s.decayFold t f) := by
  unfold State.decayFold
  split
  · exact ite (h.withFold _) h
  · exact h

/-! ### Blocks taken (R138) -/

/-- A block taken leaves the free list for the extents of a layer. -/
theorem allocate (h : BlocksInOnePlace s) {id : Nat} (e : s.allocate id = some u) : BlocksInOnePlace u := by
  unfold State.allocate at e
  split at e
  · next l b rest hl hf =>
    obtain rfl := Option.some.inj e
    have hp := blocksOf_insert { l with extents := l.extents ++ [b] } h.ids hl
    refine h.moved (insert_sorted h.ids) ?_ rfl
    show (rest ++ s.mem.bad ++ blocksOf (assocInsert id { l with extents := l.extents ++ [b] } s.layers)).Perm _
    rw [hf]
    rw [List.perm_iff_count] at hp ⊢
    intro c
    have hc := hp c
    simp only [List.count_append, List.count_cons, List.count_nil] at hc ⊢
    omega
  · cases e

theorem allocateEach (id : Nat) (l : List Nat) :
    ∀ {s : State}, BlocksInOnePlace s → BlocksInOnePlace (s.allocateEach id l).1 := by
  induction l with
  | nil => exact fun h => h
  | cons o l ih =>
    intro s h
    unfold State.allocateEach
    split
    · next e => exact ih (h.allocate e)
    · exact h

/-- A block taken where one is needed. -/
theorem allocateIf (h : BlocksInOnePlace s) {c : Prop} [Decidable c] {id : Nat}
    (e : (if c then s.allocate id else some s) = some u) : BlocksInOnePlace u := by
  split at e
  · exact h.allocate e
  · exact Option.some.inj e ▸ h

/-! ### Blocks given back (R28, R69) -/

/-! The loss of a window changes no layer record. -/

theorem completeReply_layers (p : Port) (st : Status) (l : List Byte) (s : State) :
    (s.completeReply p st l).layers = s.layers := by
  unfold State.completeReply
  split
  · cases p <;> rfl
  · rfl

theorem loseWindow_layers (p : Port) (c : LostCause) (s : State) : (s.loseWindow p c).layers = s.layers := by
  unfold State.loseWindow
  split
  · rfl
  · dsimp only
    split
    · refine (completeReply_layers _ _ _ _).trans ?_
      cases p <;> rfl
    · cases p <;> rfl

theorem loseWindowOn_layers (id : Nat) (c : LostCause) (p : Port) (s : State) :
    (s.loseWindowOn id c p).layers = s.layers := by
  unfold State.loseWindowOn
  split
  · split
    · exact loseWindow_layers _ _ _
    · rfl
  · rfl

theorem loseWindowsOn_layers (id : Nat) (c : LostCause) (s : State) : (s.loseWindowsOn id c).layers = s.layers :=
  (loseWindowOn_layers _ _ _ _).trans (loseWindowOn_layers _ _ _ _)

/-- Blocks of a layer given back leave its extents for the free list and the bad-block list. -/
theorem giveBack (h : BlocksInOnePlace s) {blocks : List Nat} (suspects : List Nat) {layers : List (Nat × Layer)}
    (hb : (blocks ++ blocksOf layers).Perm (blocksOf s.layers)) :
    ((s.mem.giveBack blocks suspects).free ++ (s.mem.giveBack blocks suspects).bad ++ blocksOf layers).Perm
      (s.mem.free ++ s.mem.bad ++ blocksOf s.layers) := by
  have hn : (blocks ++ s.mem.bad).Nodup := by
    have hperm : (s.mem.free ++ s.mem.bad ++ blocksOf s.layers).Perm
        (blocks ++ s.mem.bad ++ (s.mem.free ++ blocksOf layers)) := by
      rw [List.perm_iff_count] at hb ⊢
      intro c
      have hc := hb c
      simp only [List.count_append] at hc ⊢
      omega
    exact (hperm.nodup_iff.mp h.nodup).sublist (List.sublist_append_left _ _)
  have hg := giveBack_perm s.mem blocks suspects hn
  rw [List.perm_iff_count] at hb hg ⊢
  intro c
  have h1 := hb c
  have h2 := hg c
  simp only [List.count_append] at h1 h2 ⊢
  omega

theorem freeLayer (h : BlocksInOnePlace s) (c : LostCause) (id : Nat) : BlocksInOnePlace (s.freeLayer c id) := by
  have hu : BlocksInOnePlace ((s.loseWindowsOn id c).dropRecord id) := (h.loseWindowsOn id c).same rfl
  have hlayers : ((s.loseWindowsOn id c).dropRecord id).layers = s.layers := loseWindowsOn_layers id c s
  unfold State.freeLayer
  split
  · exact h
  · next l hl =>
    dsimp only
    generalize (s.loseWindowsOn id c).dropRecord id = u at hu hlayers ⊢
    refine hu.moved (erase_sorted hu.ids) (hu.giveBack l.suspects (blocksOf_erase ?_)) rfl
    rw [hlayers]
    exact hl

theorem freeAll (c : LostCause) (ids : List Nat) :
    ∀ {s : State}, BlocksInOnePlace s → BlocksInOnePlace (s.freeAll c ids) := by
  induction ids with
  | nil => exact fun h => h
  | cons id ids ih => exact fun h => ih (h.freeLayer c id)

theorem truncate (h : BlocksInOnePlace s) (id n : Nat) : BlocksInOnePlace (s.truncate id n) := by
  unfold State.truncate
  split
  · exact h
  · next l hl =>
    dsimp only
    have hp := blocksOf_insert (l.cutTo n) h.ids hl
    have hb : (l.extents.drop (ceilDiv n 4096) ++ blocksOf (assocInsert id (l.cutTo n) s.layers)).Perm
        (blocksOf s.layers) := ?_
    · refine BlocksInOnePlace.cutWindow (BlocksInOnePlace.cutWindow ?_ _ _ _) _ _ _
      exact h.moved (insert_sorted h.ids) (h.giveBack l.suspects hb) rfl
    refine (List.perm_append_left_iff (l.extents.take (ceilDiv n 4096))).mp ?_
    rw [← List.append_assoc, List.take_append_drop]
    exact hp

end BlocksInOnePlace
end Sys2Proof.Machine


/-! # O10: capture, folds, wraps and the actions on tracks keep each block in one place (R21 to R48, R60 to R76) -/

namespace Sys2Proof.Machine

open Sys2Proof

namespace BlocksInOnePlace

variable {s u : State}

/-! ### Layers ended and closed (R33, R34, R42, R69) -/

theorem endAt (h : BlocksInOnePlace s) (id n : Nat) : BlocksInOnePlace (s.endAt id n) :=
  ((h.cutReads id n).endCapture id n).truncate id n

theorem discardOpen (h : BlocksInOnePlace s) (t : TrackId) (id : Nat) : BlocksInOnePlace (s.discardOpen t id) :=
  (((h.freeLayer _ _).modTrack _ _).settleTrack _).raise _ _ _ _

theorem closeFirst (h : BlocksInOnePlace s) (t : TrackId) (id n : Nat) (fresh stop : Bool) :
    BlocksInOnePlace (s.closeFirst t id n fresh stop) := by
  unfold State.closeFirst
  dsimp only
  generalize (if decide (s.cycle.state = .defining) = true then min n s.cycle.pos else n) = n'
  have hc : BlocksInOnePlace (if decide (s.cycle.state = .defining) = true then s.closeDefining n' stop else s) :=
    ite (h.closeDefining _ _) h
  generalize (if decide (s.cycle.state = .defining) = true then s.closeDefining n' stop else s) = v at hc ⊢
  split
  · exact hc
  · split
    · exact hc.discardOpen _ _
    · exact ((((((hc.endAt _ _).modLayer _).modTrack _ _).markFresh _ _).reaim _).raise _ _ _ _).raiseTrack _

theorem closeLayered (h : BlocksInOnePlace s) (t : TrackId) (id n : Nat) (fresh : Bool) :
    BlocksInOnePlace (s.closeLayered t id n fresh) :=
  ((((((h.endAt _ _).modLayer _).modTrack _ _).markFresh _ _).reaim _).raise _ _ _ _).raiseTrack _

theorem closeRolled (h : BlocksInOnePlace s) (t : TrackId) (id n : Nat) (l : Layer) :
    BlocksInOnePlace (s.closeRolled t id n l) := by
  have hk := BlocksInOnePlace.ite (c := n = l.length) h ((h.endAt id n).reaim id)
  exact ite ((h.freeLayer _ _).modTrack _ _) ((hk.modLayer id).raise _ _ _ _)

theorem closeAtRoll (h : BlocksInOnePlace s) (t : TrackId) (rolled successor before : Nat) :
    BlocksInOnePlace (s.closeAtRoll t rolled successor before) := by
  have hf := (h.freeLayer .discarded successor).modTrack t fun tr =>
    { tr.dropLayer successor with state := .playing, openLayer := none, marker := none }
  unfold State.closeAtRoll
  dsimp only
  split
  · exact ((hf.closeRolled _ _ _ _).settleTrack _).raise _ _ _ _
  · exact (hf.settleTrack _).raise _ _ _ _

theorem closeOpen (h : BlocksInOnePlace s) (t : TrackId) (n before : Nat) (fresh stop : Bool) :
    BlocksInOnePlace (s.closeOpen t n before fresh stop) := by
  unfold State.closeOpen
  (repeat' split)
  · exact h
  · exact h.closeFirst _ _ _ _ _
  · exact h.closeAtRoll _ _ _ _
  · exact h.discardOpen _ _
  · exact h.discardOpen _ _
  · exact h.closeLayered _ _ _ _

theorem closeAtCut (h : BlocksInOnePlace s) (t : TrackId) (k : Cut) (stop : Bool) :
    BlocksInOnePlace (s.closeAtCut t k stop) := by
  unfold State.closeAtCut
  split
  · exact h
  · exact h.closeOpen _ _ _ _ _

theorem closeTracks (k : Cut) (stop : Bool) (l : List TrackId) :
    ∀ {s : State}, BlocksInOnePlace s → BlocksInOnePlace (s.closeTracks k stop l) := by
  induction l with
  | nil => exact fun h => h
  | cons t l ih => exact fun h => ih (h.closeAtCut t k stop)

theorem closeLimits (l : List TrackId) : ∀ {s : State}, BlocksInOnePlace s → BlocksInOnePlace (s.closeLimits l) := by
  induction l with
  | nil => exact fun h => h
  | cons t l ih =>
    intro s h
    unfold State.closeLimits
    split
    · exact ih (h.closeAtCut _ _ _)
    · exact ih h

/-! ### The fold engine (R30, R43, R45, R48) -/

/-- What every end of a fold does: the engine IDLE, the result freed (R48). -/
theorem endFold (h : BlocksInOnePlace s) (f : Fold) : BlocksInOnePlace (s.endFold f) :=
  ((h.withFold none).setWait .fold Wait.idle).freeLayer _ _

/-- A track's oldest layer retired where a pair that splits left its stack too long (R48). -/
theorem retireOlder (h : BlocksInOnePlace s) (t : TrackId) (id : Nat) (gain : Nat) :
    BlocksInOnePlace (((s.freeLayer .retired id).modTrack t (Track.dropLayer id)).raise .layerRetired none (some id) gain) :=
  ((h.freeLayer _ _).modTrack _ _).raise _ _ _ _

theorem abandonFold (h : BlocksInOnePlace s) (c : FoldCause) (keep : List Nat) :
    BlocksInOnePlace (s.abandonFold c keep) := by
  unfold State.abandonFold
  split
  · exact h
  · next f _ =>
    have hf := h.endFold f
    have hk := unfoldMembers keep (hf.modTrack f.track fun tr => { tr with stack := splitPair keep tr.stack })
    dsimp only
    split
    · split
      · exact hf.raise _ _ _ _
      · exact (hf.raise _ _ _ _).retireOlder _ _ _
    · split
      · exact hk.raise _ _ _ _
      · exact (hk.raise _ _ _ _).retireOlder _ _ _

theorem abandonRunningFold (h : BlocksInOnePlace s) (c : FoldCause) : BlocksInOnePlace (s.abandonRunningFold c) := by
  unfold State.abandonRunningFold
  split
  · exact h.abandonFold _ _
  · exact h

theorem beginFoldBurst (h : BlocksInOnePlace s) : BlocksInOnePlace s.beginFoldBurst := by
  unfold State.beginFoldBurst
  split
  · exact h
  · dsimp only
    split
    · exact h.abandonFold _ _
    · next v e =>
      split
      · exact (h.allocateIf e).withFold _
      · exact h.allocateIf e

theorem startFold (h : BlocksInOnePlace s) (t : TrackId) {a b rid : Nat} (rest : List Entry) (hid : s.layer? rid = none) :
    BlocksInOnePlace (s.startFold t a b rid rest) := by
  unfold State.startFold
  split
  · next la lb hla hlb =>
    have ha := h.setLayer (m := { la with state := .folding }) hla
    have hb : ∃ l, (s.setLayer a { la with state := .folding }).layer? b = some l ∧ l.extents = lb.extents := by
      rw [layer?_setLayer]
      split
      · next e =>
        subst e
        obtain rfl := Option.some.inj (hla.symm.trans hlb)
        exact ⟨_, rfl, rfl⟩
      · exact ⟨lb, hlb, rfl⟩
    obtain ⟨l, hl, he⟩ := hb
    have hr : ((s.setLayer a { la with state := .folding }).setLayer b { lb with state := .folding }).layer? rid = none := by
      rw [layer?_setLayer, layer?_setLayer, if_neg, if_neg, hid]
      · rintro rfl
        rw [hid] at hla
        cases hla
      · rintro rfl
        rw [hid] at hlb
        cases hlb
    exact ((((ha.setLayer (m := { lb with state := .folding }) hl he.symm).addLayer hr rfl).modTrack _ _).withFold
      _).beginFoldBurst
  · exact h

/-- An admission leaves every block in one place and the id it answers free (R30). -/
theorem takeRoom (h : BlocksInOnePlace s) {t : TrackId} {id : Nat} (e : s.takeRoom t = .ok (u, id)) :
    BlocksInOnePlace u ∧ u.layer? id = none := by
  unfold State.takeRoom at e
  split at e
  · cases e
  · next rid hid =>
    dsimp only at e
    split at e
    · obtain ⟨rfl, rfl⟩ := Prod.mk.inj (Except.ok.inj e)
      exact ⟨h, layer?_freeId hid⟩
    · split at e
      · split at e
        · split at e
          · next id' hid' =>
            obtain ⟨rfl, rfl⟩ := Prod.mk.inj (Except.ok.inj e)
            exact ⟨h.startFold _ _ (layer?_freeId hid), layer?_freeId hid'⟩
          · cases e
        · cases e
      · cases e

theorem completeFold (h : BlocksInOnePlace s) : BlocksInOnePlace s.completeFold := by
  unfold State.completeFold
  split
  · exact h
  · exact ((((((((h.withFold none).setWait .fold Wait.idle).modLayer _).modTrack _ _).freeLayer _ _).freeLayer _
      _).reaim _).raise _ _ _ _)

/-! ### The capture unit (R62 to R67, R76) -/

theorem setRecord (h : BlocksInOnePlace s) (i : Fin 12) (r : Option CapRec) : BlocksInOnePlace (s.setRecord i r) := h.same rfl

theorem overrun (h : BlocksInOnePlace s) (place : Point) (id : Nat) (r : Range) :
    BlocksInOnePlace (s.overrun place id r) := by
  unfold State.overrun
  split
  · exact h
  · next l hl => exact ite h ((h.setLayer hl).takeFault _)

theorem cutClosed (h : BlocksInOnePlace s) (id n : Nat) : BlocksInOnePlace (s.cutClosed id n) := by
  unfold State.cutClosed
  split
  · exact h
  · split
    · have hf : BlocksInOnePlace (match s.fold with
          | some f => if f.older = id ∨ f.newer = id then s.abandonFold .noMemory [f.older, f.newer] else s
          | none => s) := by
        split
        · exact ite (h.abandonFold _ _) h
        · exact h
      exact (((hf.freeLayer _ _).modTrack _ _).settleTrack _).noteTrack _ _
    · have hk := (h.endAt id n).modLayer id (f := fun l => { l with tail := true })
      dsimp only
      split
      · exact hk
      · exact hk.reaim id

theorem exhaust (h : BlocksInOnePlace s) (id n : Nat) : BlocksInOnePlace (s.exhaust id n) := by
  unfold State.exhaust
  split
  · exact h
  · dsimp only
    split
    · exact (h.raise _ _ _ _).closeOpen _ _ _ _ _
    · exact (h.raise _ _ _ _).cutClosed _ _

theorem giveUp (h : BlocksInOnePlace s) (place : Point) (id : Nat) (r : Range) :
    BlocksInOnePlace (s.giveUp place id r) := by
  have ha := allocateEach id (s.blocksNeeded id r) h
  unfold State.giveUp
  split
  · next e =>
    rw [e] at ha
    exact ha.overrun _ _ _
  · next e =>
    rw [e] at ha
    exact (ha.overrun _ _ _).exhaust _ _

theorem handOver (h : BlocksInOnePlace s) (i : Fin 12) : BlocksInOnePlace (s.handOver i) := by
  unfold State.handOver
  split
  · exact h
  · split
    · exact h.exhaust _ _
    · next v e =>
      have hv := fun r => (h.allocateIf e).setRecord i r
      exact ite ((hv _).same rfl) ((hv _).overrun _ _ _)

theorem refillAll (h : BlocksInOnePlace s) : BlocksInOnePlace s.refillAll := h.same rfl

theorem settleCapture (n : Nat) : ∀ {s : State}, BlocksInOnePlace s → BlocksInOnePlace (s.settleCapture n) := by
  induction n with
  | zero => exact fun h => h.refillAll
  | succ n ih =>
    intro s h
    unfold State.settleCapture
    dsimp only
    (repeat' split)
    · exact ih (h.refillAll.handOver _)
    · exact h.refillAll
    · exact h.refillAll

theorem overtake (h : BlocksInOnePlace s) (place : Point) (i : Fin 12) : BlocksInOnePlace (s.overtake place i) := by
  unfold State.overtake
  split
  · exact h
  · exact ite ((h.setRecord _ _).giveUp _ _ _) h

theorem overtakeAll (place : Point) (l : List (Fin 12)) :
    ∀ {s : State}, BlocksInOnePlace s → BlocksInOnePlace (s.overtakeAll place l) := by
  induction l with
  | nil => exact fun h => h
  | cons i l ih => exact fun h => ih (h.overtake place i)

theorem liveOne (h : BlocksInOnePlace s) (f : Frame) (i : Fin 12) : BlocksInOnePlace (s.liveOne f i) := by
  unfold State.liveOne
  split
  · split
    · dsimp only
      split
      · exact (h.setRecord _ _).handOver _
      · exact h.setRecord _ _
    · exact h
  · exact h

theorem liveAll (f : Frame) (l : List (Fin 12)) :
    ∀ {s : State}, BlocksInOnePlace s → BlocksInOnePlace (s.liveAll f l) := by
  induction l with
  | nil => exact fun h => h
  | cons i l ih => exact fun h => ih (h.liveOne f i)

theorem writeRing (h : BlocksInOnePlace s) (f : Frame) : BlocksInOnePlace (s.writeRing f) := by
  unfold State.writeRing
  exact h.same rfl

theorem captureArrival (h : BlocksInOnePlace s) (place : Point) (f : Frame) (ord : Order) :
    BlocksInOnePlace (s.captureArrival place f ord) := by
  have hw := (overtakeAll place (List.finRange 12) h).writeRing f
  unfold State.captureArrival
  dsimp only
  refine settleCapture _ (liveAll _ _ ?_)
  split
  · exact settleCapture _ hw
  · exact hw

theorem stealRecord (h : BlocksInOnePlace s) (i : Fin 12) : BlocksInOnePlace (s.stealRecord i) := by
  unfold State.stealRecord
  split
  · exact h
  · exact (h.setRecord _ _).giveUp _ _ _

theorem placeRecord (h : BlocksInOnePlace s) (r : CapRec) : BlocksInOnePlace (s.placeRecord r) := by
  unfold State.placeRecord
  dsimp only
  (repeat' split)
  · exact h.setRecord _ _
  · exact (h.stealRecord _).setRecord _ _
  · exact h.stealRecord _
  · exact h

/-- A layer opened under a free id, without a block (R32, R60). -/
theorem openLayer (h : BlocksInOnePlace s) (t : TrackId) {id : Nat} {l : Layer} (stamp : Nat) (ph : Phase)
    (dest : TrackState) (hid : s.layer? id = none) (hl : l.extents = []) :
    BlocksInOnePlace (s.openLayer t id l stamp ph dest) :=
  ((h.addLayer hid hl).modTrack _ _).placeRecord _

/-! ### Undo, redo and clearing (R35 to R37) -/

theorem freeRedo (h : BlocksInOnePlace s) (t : TrackId) : BlocksInOnePlace (s.freeRedo t) := by
  unfold State.freeRedo
  exact (freeAll _ _ h).modTrack _ _

theorem toRedo (h : BlocksInOnePlace s) (t : TrackId) (id : Nat) : BlocksInOnePlace (s.toRedo t id) := by
  have hl := (h.loseWindowsOn id .undone).modLayer id (f := fun l => { l with state := .undone, buf := ReadBuf.aimed 0 })
  unfold State.toRedo
  dsimp only
  split
  · exact (hl.freeLayer _ _).modTrack _ _
  · exact hl.modTrack _ _

theorem emptyCycle (h : BlocksInOnePlace s) : BlocksInOnePlace s.emptyCycle := h.setCycle _

theorem actUndo (h : BlocksInOnePlace s) {t : TrackId} (e : s.actUndo t = .ok u) : BlocksInOnePlace u := by
  have hn : ∀ {v : State}, BlocksInOnePlace v → BlocksInOnePlace ((v.settleTrack t).noteTrack t (s.track t)) :=
    fun hv => (hv.settleTrack t).noteTrack t _
  unfold State.actUndo at e
  dsimp only at e
  split at e
  · cases e
  · exact Except.ok.inj e ▸ hn ((h.abandonFold _ _).toRedo _ _)
  · next id _ =>
    split at e
    · cases e
    · split at e
      · have hf := (h.freeLayer .undone id).modTrack t fun tr =>
          { tr.dropLayer id with state := .playing, marker := none }
        exact Except.ok.inj e ▸ hn (ite hf.emptyCycle hf)
      · exact Except.ok.inj e ▸ hn ((h.freeLayer _ _).modTrack _ _)
      · exact Except.ok.inj e ▸ hn (h.toRedo _ _)
      · exact Except.ok.inj e ▸ hn (h.toRedo _ _)
      · exact Except.ok.inj e ▸ hn (h.toRedo _ _)

theorem actRedo (h : BlocksInOnePlace s) {t : TrackId} (e : s.actRedo t = .ok u) : BlocksInOnePlace u := by
  unfold State.actRedo at e
  dsimp only at e
  split at e
  · cases e
  · split at e
    · cases e
    · split at e
      · cases e
      · next id rest _ =>
        obtain rfl := Except.ok.inj e
        have hl := h.modLayer id (f := fun l => { l with state := .closed })
        exact ((hl.setTrack t _).reaim id).noteTrack t _

theorem clearFold (h : BlocksInOnePlace s) (t : TrackId) : BlocksInOnePlace (s.clearFold t) := by
  unfold State.clearFold
  split
  · exact ite (h.abandonFold _ _) h
  · exact h

theorem emptyTrack (h : BlocksInOnePlace s) (t : TrackId) : BlocksInOnePlace (s.emptyTrack t) :=
  (freeAll _ _ (h.clearFold t)).modTrack _ _

theorem clearTrack (h : BlocksInOnePlace s) (t : TrackId) : BlocksInOnePlace (s.clearTrack t) :=
  ite h (ite (h.emptyTrack t).emptyCycle (h.emptyTrack t))

theorem emptyTracks (l : List TrackId) : ∀ {s : State}, BlocksInOnePlace s → BlocksInOnePlace (s.emptyTracks l) := by
  induction l with
  | nil => exact fun h => h
  | cons t l ih => exact fun h => ih (h.emptyTrack t)

theorem raiseEmptied (old : Vector Track 6) (l : List TrackId) :
    ∀ {s : State}, BlocksInOnePlace s → BlocksInOnePlace (s.raiseEmptied old l) := by
  induction l with
  | nil => exact fun h => h
  | cons t l ih => exact fun h => ih (ite h (h.raiseTrack t))

theorem clearTracks (h : BlocksInOnePlace s) : BlocksInOnePlace s.clearTracks := by
  rw [clearTracks_eq]
  refine raiseEmptied _ _ (emptyTracks _ ?_)
  unfold State.stopFold
  split
  · exact h.abandonFold _ _
  · exact h

/-! ### Track wraps (R39 to R42) -/

theorem retireAll (t : TrackId) (l : List Nat) :
    ∀ {s : State}, BlocksInOnePlace s → BlocksInOnePlace (s.retireAll t l) := by
  induction l with
  | nil => exact fun h => h
  | cons id l ih => exact fun h => ih (h.retireOlder t id _)

theorem decayTrack (h : BlocksInOnePlace s) (t : TrackId) : BlocksInOnePlace (s.decayTrack t) := by
  have hd : BlocksInOnePlace (s.decayed t) := (decayAll (s.track t).feedback (s.decaying t) h).decayFold t _
  have hr : ∀ gone members, BlocksInOnePlace ((s.decayed t).retireMembers t gone members) := fun gone members =>
    ite ((retireAll _ _ hd).abandonFold _ _) (retireAll _ _ hd)
  have hv := retireAll t ((s.fading t).filter fun i => !((s.decayed t).foldMembers t).contains i)
    (hr (s.fading t) ((s.decayed t).foldMembers t))
  rw [decayTrack_eq]
  exact ite hv ((hv.settleTrack t).noteTrack t _)

theorem roll (h : BlocksInOnePlace s) (t : TrackId) : BlocksInOnePlace (s.roll t) := by
  unfold State.roll
  dsimp only
  split
  · next id span _ _ =>
    split
    · next r l _ _ =>
      split
      · exact h
      · have hw := ((h.endCapture id (span * s.cycle.shownLen - l.startQ)).modLayer id (f := fun l' =>
          { l' with state := .closed, length := span * s.cycle.shownLen - l.startQ })).modTrack t
            fun tr => { tr with openLayer := none, marker := none }
        split
        · next v id' e =>
          obtain ⟨hv, hid⟩ := hw.takeRoom e
          exact ((hv.openLayer _ _ _ _ hid rfl).modTrack _ _).raise _ _ _ _
        · exact (((hw.modTrack _ _).raise _ _ _ _).raise _ _ _ _).raiseTrack _
    · exact h
  · exact h

theorem wrapTrack (h : BlocksInOnePlace s) (t : TrackId) : BlocksInOnePlace (s.wrapTrack t) := (h.decayTrack t).roll t

theorem wrapAll (l : List TrackId) : ∀ {s : State}, BlocksInOnePlace s → BlocksInOnePlace (s.wrapAll l) := by
  induction l with
  | nil => exact fun h => h
  | cons t l ih => exact fun h => ih (h.wrapTrack t)

/-! ### Punch-ins and closes, the whole cycle (R21, R22, R32, R33) -/

theorem startDefining (h : BlocksInOnePlace s) : BlocksInOnePlace s.startDefining := ite (h.setCycle _) h

theorem startDefining_layer (id : Nat) (s : State) : s.startDefining.layer? id = s.layer? id := by
  by_cases hc : s.cycle.state = .empty
  · rw [startDefining_empty hc]
    rfl
  · rw [startDefining_not hc]

theorem actRecord (h : BlocksInOnePlace s) {t : TrackId} {k : Cut} (e : s.actRecord t k = .ok u) : BlocksInOnePlace u := by
  unfold State.actRecord at e
  split at e
  · cases e
  · split at e
    · cases e
    · next v id hr =>
      obtain rfl := Except.ok.inj e
      obtain ⟨hv, hid⟩ := h.takeRoom hr
      refine ((hv.freeRedo t).startDefining.openLayer _ _ _ _ ?_ rfl).raiseTrack t
      rw [startDefining_layer]
      exact freeRedo_absent hid

theorem actLayer (h : BlocksInOnePlace s) {t : TrackId} {cover : Bool} {k : Cut} (e : s.actLayer t cover k = .ok u) :
    BlocksInOnePlace u := by
  unfold State.actLayer at e
  split at e
  · split at e
    · cases e
    · next v id hr =>
      obtain rfl := Except.ok.inj e
      obtain ⟨hv, hid⟩ := h.takeRoom hr
      exact ((hv.freeRedo t).openLayer _ _ _ _ (freeRedo_absent hid) rfl).raiseTrack t
  · cases e

theorem actClose (h : BlocksInOnePlace s) {t : TrackId} {k : Cut} (e : s.actClose t k = .ok u) : BlocksInOnePlace u := by
  unfold State.actClose at e
  split at e
  · exact Except.ok.inj e ▸ h.closeAtCut t k false
  · exact Except.ok.inj e ▸ h.closeAtCut t k false
  · exact Except.ok.inj e ▸ h.closeAtCut t k false
  · cases e
  · cases e

theorem actMute (h : BlocksInOnePlace s) (t : TrackId) (target : Nat) : BlocksInOnePlace (s.actMute t target) :=
  (h.modTrack _ _).noteTrack _ _

end BlocksInOnePlace

end Sys2Proof.Machine


/-! # O10: cues, presses, the mixer and the part state keep each block in one place (R81 to R130, R207 to R210) -/

namespace Sys2Proof.Machine

open Sys2Proof

namespace BlocksInOnePlace

variable {s u : State}

/-! ### Cues (R81 to R94) -/

theorem dropCue (h : BlocksInOnePlace s) (r : DropReason) (c : Cue) : BlocksInOnePlace (s.dropCue r c) := h.same rfl

theorem dropCues (r : DropReason) (l : List Cue) :
    ∀ {s : State}, BlocksInOnePlace s → BlocksInOnePlace (s.dropCues r l) := by
  induction l with
  | nil => exact fun h => h
  | cons c l ih => exact fun h => ih (h.dropCue r c)

theorem dropAllCues (h : BlocksInOnePlace s) (r : DropReason) : BlocksInOnePlace (s.dropAllCues r) := dropCues r _ h

theorem supersedeSlot (h : BlocksInOnePlace s) (target : Option TrackId) (f : Family) :
    BlocksInOnePlace (s.supersedeSlot target f) := by
  unfold State.supersedeSlot
  split
  · exact h.dropCue _ _
  · exact h

theorem joinCue (h : BlocksInOnePlace s) (id : Nat) (p : Port) : BlocksInOnePlace (s.joinCue id p) := h.same rfl

theorem placeCue (h : BlocksInOnePlace s) (p : Port) (a : Action) (target : Option TrackId) (q : Quantum)
    (press : PressTime) (pass pos : Nat) : BlocksInOnePlace (s.placeCue p a target q press pass pos).1 := by
  have made : ∀ {v : State}, BlocksInOnePlace v → BlocksInOnePlace (v.makeCue p a target q press pass pos).1 :=
    fun hv => hv.same rfl
  unfold State.placeCue
  dsimp only
  split
  · split
    · exact h.joinCue _ _
    · exact made (h.dropCue _ _)
  · split
    · exact made h
    · exact h

theorem actStopAll (h : BlocksInOnePlace s) (k : Cut) : BlocksInOnePlace (s.actStopAll k) := by
  unfold State.actStopAll
  split
  · exact (((closeTracks _ _ _ h).dropAllCues _).setCycle _ |>.raise _ _ _ _).reaimAllZero
  · exact (closeTracks _ _ _ h).dropAllCues _
  · exact h
  · exact h

theorem actPlayAll (h : BlocksInOnePlace s) (e : s.actPlayAll = .ok u) : BlocksInOnePlace u := by
  unfold State.actPlayAll at e
  split at e
  · obtain rfl := Except.ok.inj e
    exact (h.setCycle _).raise _ _ _ _
  · exact Except.ok.inj e ▸ h
  · cases e
  · cases e

theorem actClearTrack (h : BlocksInOnePlace s) (t : TrackId) : BlocksInOnePlace (s.actClearTrack t) := by
  have hd : BlocksInOnePlace ((s.clearTrack t).dropTrackCues t) := dropCues .cleared _ (h.clearTrack t)
  have hf : BlocksInOnePlace (((s.clearTrack t).dropTrackCues t).forgetTrack t) := hd.same rfl
  exact hf.noteTrack t _

theorem actClearAll (h : BlocksInOnePlace s) : BlocksInOnePlace s.actClearAll := by
  have hc : BlocksInOnePlace s.clearCycle := by
    unfold State.clearCycle
    exact (h.setCycle _).same rfl
  have hd := hc.clearTracks.dropAllCues .cleared
  unfold State.actClearAll State.forgetRecent
  dsimp only
  generalize s.clearCycle.clearTracks.dropAllCues .cleared = v at hd ⊢
  exact hd.same rfl

/-- An action accepted by its owner (R83, R92). -/
theorem act (h : BlocksInOnePlace s) {a : Action} {target : Option TrackId} {k : Cut} (e : s.act a target k = .ok u) :
    BlocksInOnePlace u := by
  unfold State.act at e
  split at e
  · exact h.actRecord e
  · exact h.actLayer e
  · exact h.actLayer e
  · exact h.actClose e
  · exact Except.ok.inj e ▸ h.actMute _ _
  · exact Except.ok.inj e ▸ h.actMute _ _
  · exact h.actUndo e
  · exact h.actRedo e
  · exact Except.ok.inj e ▸ h.actStopAll k
  · exact h.actPlayAll e
  · cases e

theorem actAtOnce (h : BlocksInOnePlace s) (a : Action) (target : Option TrackId) (e : Eff) :
    BlocksInOnePlace (s.actAtOnce a target e).1 := by
  have hb : BlocksInOnePlace (if a.isAll then s.supersedeSlot target a.family else s) := ite (h.supersedeSlot _ _) h
  unfold State.actAtOnce
  dsimp only
  split
  · exact h
  · next v hv => exact ite (hb.act hv) ((hb.act hv).supersedeSlot _ _)

theorem quantised (h : BlocksInOnePlace s) (p : Port) (a : Action) (target : Option TrackId) (q : Quantum)
    (press : PressTime) : BlocksInOnePlace (s.quantised p a target q press).1 := by
  unfold State.quantised
  split
  · exact h
  · exact h.actAtOnce _ _ _
  · exact h.placeCue _ _ _ _ _ _ _

theorem takeCue (h : BlocksInOnePlace s) (r : Reached) : BlocksInOnePlace (s.takeCue r) := by
  unfold State.takeCue
  split
  · exact h
  · next c rest _ =>
    have hd : BlocksInOnePlace { s with cues := { s.cues with entries := rest } } := h.same rfl
    split
    · dsimp only
      split
      · next e => exact (hd.act e).raiseEvent _
      · exact hd.raiseEvent _
    · exact h

theorem takeCues (r : Reached) (n : Nat) : ∀ {s : State}, BlocksInOnePlace s → BlocksInOnePlace (s.takeCues r n) := by
  induction n with
  | zero => exact fun h => h
  | succ n ih => exact fun h => ih (h.takeCue r)

theorem boundaryWork (r : Reached) (l : List (Option TrackId)) :
    ∀ (wraps : List TrackId) {s : State}, BlocksInOnePlace s → BlocksInOnePlace (s.boundaryWork r l wraps) := by
  induction l with
  | nil => exact fun wraps s h => takeCues r _ (wrapAll wraps h)
  | cons w l ih =>
    intro wraps s h
    cases w with
    | none => exact ih wraps (h.takeCue r)
    | some t =>
      unfold State.boundaryWork
      split
      · exact ih _ (h.wrapTrack t)
      · exact ih _ h

/-! ### Presses (R105 to R114) -/

theorem noteRecent (h : BlocksInOnePlace s) (p : Port) (t : TrackId) (a : Action) (press : PressTime) (ans : Answer) :
    BlocksInOnePlace (s.noteRecent p t a press ans) := by
  unfold State.noteRecent
  split
  · exact h.same rfl
  · exact h

theorem actTap (h : BlocksInOnePlace s) (stamp : Nat) : BlocksInOnePlace (s.actTap stamp).1 := by
  unfold State.actTap
  split
  · exact h
  · split
    · split
      · exact h.startCycle _ _
      · exact h.same rfl
    · exact h.same rfl

theorem resolved (h : BlocksInOnePlace s) (p : Port) (t : TrackId) (act : SwAction) (q : Quantum) (press : PressTime) :
    BlocksInOnePlace (s.resolved p t act q press).1 := by
  unfold State.resolved
  split
  · exact h
  · next a _ =>
    have hq := (h.quantised p a (some t) q press).noteRecent p t a press (s.quantised p a (some t) q press).2
    dsimp only
    split
    · split
      · exact h.dropCue _ _
      · exact hq
    · exact hq

theorem toggle (h : BlocksInOnePlace s) (p : Port) (t : TrackId) (act : SwAction) (q : Quantum) (press : PressTime) :
    BlocksInOnePlace (s.toggle p t act q press).1 := by
  have hr := h.resolved p t act q press
  unfold State.toggle
  (repeat' split)
  · exact h.joinCue _ _
  · exact hr
  · exact h
  · exact hr
  · exact hr

theorem handOn (h : BlocksInOnePlace s) (p : Port) (act : SwAction) (t : TrackId) (q : Quantum) (press : PressTime) :
    BlocksInOnePlace (s.handOn p act t q press).1.1 := by
  have hc : ∀ a target, BlocksInOnePlace (s.handCue p a target q press).1 := fun a target => h.quantised p a target q press
  cases act with
  | none => exact h
  | recordCycle | overdubToggle | replaceToggle => exact h.toggle _ _ _ _ _
  | close | muteToggle | undo | redo | playStopAll => exact hc _ _
  | clearTrack => exact h.actClearTrack t
  | tap => exact h.actTap _
  | selectNext | selectPrevious => exact h.setSwitchPort _ _

theorem issue (h : BlocksInOnePlace s) (p : Port) (code : SwitchCode) (kind : IssueKind) (act : SwAction)
    (target : SwTarget) (q : Quantum) (press : PressTime) :
    BlocksInOnePlace (s.issue p code kind act target q press) := by
  unfold State.issue
  split
  · exact h
  · exact (h.handOn _ _ _ _ _).setSwitchPort _ _

theorem setMachine (h : BlocksInOnePlace s) (p : Port) (code : SwitchCode) (m : Machine) :
    BlocksInOnePlace (s.setMachine p code m) := h.setSwitchPort _ _

theorem switchDown (h : BlocksInOnePlace s) (p : Port) (code : SwitchCode) : BlocksInOnePlace (s.switchDown p code).1 := by
  unfold State.switchDown
  split
  · exact h.setMachine _ _ _
  · exact (h.setMachine _ _ _).issue _ _ _ _ _ _ _
  · exact h
  · exact h

theorem switchUp (h : BlocksInOnePlace s) (p : Port) (code : SwitchCode) : BlocksInOnePlace (s.switchUp p code).1 := by
  unfold State.switchUp
  split
  · dsimp only
    split
    · exact (h.setMachine _ _ _).issue _ _ _ _ _ _ _
    · exact h.setMachine _ _ _
  · exact h.setMachine _ _ _
  · exact h
  · exact h

theorem holdDue (h : BlocksInOnePlace s) (p : Port) (code : SwitchCode) : BlocksInOnePlace (s.holdDue p code) := by
  unfold State.holdDue
  split
  · dsimp only
    (repeat' split)
    · exact h
    · exact (h.setMachine _ _ _).issue _ _ _ _ _ _ _
    · exact h.setMachine _ _ _
  · exact h

theorem windowDue (h : BlocksInOnePlace s) (p : Port) (code : SwitchCode) : BlocksInOnePlace (s.windowDue p code) := by
  unfold State.windowDue
  split
  · exact ite h ((h.setMachine _ _ _).issue _ _ _ _ _ _ _)
  · exact h

/-! ### The mixer (R117 to R130) -/

theorem withMixer (h : BlocksInOnePlace s) (m : Mixer) : BlocksInOnePlace { s with mixer := m } := h.same rfl

theorem withAudio (h : BlocksInOnePlace s) (a : Audio) : BlocksInOnePlace { s with audio := a } := h.same rfl

theorem layerSample (h : BlocksInOnePlace s) (id k : Nat) : BlocksInOnePlace (s.layerSample id k).1 := by
  unfold State.layerSample
  split
  · exact h
  · next hl =>
    split
    · exact h.setLayer hl
    · exact (h.setLayer hl).takeFault _

theorem layerPart (h : BlocksInOnePlace s) (q id : Nat) (covers : List Nat) :
    BlocksInOnePlace (s.layerPart q id covers).1 := by
  unfold State.layerPart
  split
  · exact h
  · split
    · exact h.layerSample _ _
    · exact h

theorem sumLayers (t : TrackId) (q : Nat) (l : List Nat) :
    ∀ {s : State}, BlocksInOnePlace s → BlocksInOnePlace (s.sumLayers t q l).1 := by
  induction l with
  | nil => exact fun h => h
  | cons id l ih => exact fun h => ih (h.layerPart q id _)

theorem trackSum (h : BlocksInOnePlace s) (t : TrackId) : BlocksInOnePlace (s.trackSum t).1 := by
  unfold State.trackSum
  split
  · exact sumLayers _ _ _ h
  · exact h

theorem trackSums (l : List TrackId) : ∀ {s : State}, BlocksInOnePlace s → BlocksInOnePlace (s.trackSums l).1 := by
  induction l with
  | nil => exact fun h => h
  | cons t l ih => exact fun h => ih (h.trackSum t)

theorem clip (h : BlocksInOnePlace s) (ear : Bool) (place : Point) : BlocksInOnePlace (s.clip ear place) :=
  ite (h.withMixer _) ((h.withMixer _).raiseEvent _)

theorem moveRamps (h : BlocksInOnePlace s) : BlocksInOnePlace s.moveRamps := h.same rfl

theorem mix (h : BlocksInOnePlace s) (f : Frame) (place : Point) (beat : Option (Nat × Bool)) :
    BlocksInOnePlace (s.mix f place beat) := by
  have hm := trackSums (List.finRange 6) h.moveRamps
  unfold State.mix
  dsimp only
  refine withAudio ?_ _
  have hb := hm.withMixer { (s.moveRamps.trackSums (List.finRange 6)).1.mixer with
    burst := ((s.moveRamps.trackSums (List.finRange 6)).1.mixer.clickAt
      ((s.moveRamps.trackSums (List.finRange 6)).1.cycle.state == .running) beat).bind Click.next }
  exact ite (clip (ite (hb.clip _ _) hb) _ _) (ite (hb.clip _ _) hb)

/-! ### What follows a change (R64, R141, R153) -/

theorem discardImport (h : BlocksInOnePlace s) (id : Nat) (c : LostCause) : BlocksInOnePlace (s.discardImport id c) := by
  unfold State.discardImport
  split
  · exact h
  · exact (((h.freeLayer _ _).modTrack _ _).settleTrack _).noteTrack _ _

theorem discardImports (c : LostCause) (ids : List Nat) :
    ∀ {s : State}, BlocksInOnePlace s → BlocksInOnePlace (s.discardImports c ids) := by
  induction ids with
  | nil => exact fun h => h
  | cons id ids ih => exact fun h => ih (h.discardImport id c)

theorem requestCommit (h : BlocksInOnePlace s) (p : Port) : BlocksInOnePlace (s.requestCommit p) := by
  unfold State.requestCommit
  split
  · exact h
  · split
    · exact h
    · dsimp only
      split
      · split
        · next e => exact (h.allocate e).setWindow _ _
        · exact h.discardImport _ _
      · exact h.setWindow _ _

theorem settleWrite (h : BlocksInOnePlace s) (p : Port) : BlocksInOnePlace (s.settleWrite p) := by
  unfold State.settleWrite
  split
  · exact h
  · split
    · exact ite h (h.requestCommit p)
    · exact h

theorem settle (h : BlocksInOnePlace s) : BlocksInOnePlace s.settle :=
  (((((((settleCapture handOverRounds h).settleFold).settleRead .a).settleRead .b).settleBuffers.settleWait
    .fold).settleWait .windowA).settleWait .windowB)

/-! ### The part state (R159, R160, R207 to R210) -/

/-- A part out of STARTING, the test over: no block moves with the part state and the memory's mode. -/
theorem served (h : BlocksInOnePlace s)
    (hu : (u.layers, u.mem.free, u.mem.bad, u.mem.testNext) = (s.layers, s.mem.free, s.mem.bad, s.mem.testNext))
    (hn : s.mem.mode = .test → s.mem.testNext = 4096) (hm : u.mem.mode ≠ .test) (hp : u.power.part ≠ .starting) :
    BlocksInOnePlace u := by
  simp only [Prod.mk.injEq] at hu
  obtain ⟨hl, hf, hb, ht⟩ := hu
  refine ⟨hl ▸ h.ids, ht ▸ h.tested, ?_, iff_of_false hp hm⟩
  have ho := h.once
  rw [State.extentBlocks, hl, hf, hb, if_neg hm]
  split at ho
  · next e => rwa [hn e] at ho
  · exact ho

/-- Outside STARTING the memory is out of its test. -/
theorem mode_ne_test (h : BlocksInOnePlace s) (hp : s.power.part ≠ .starting) : s.mem.mode ≠ .test :=
  fun e => hp (h.starting.mpr e)

theorem enterRest (h : BlocksInOnePlace s) (hp : s.power.part ≠ .starting) (c : LostCause) (d : RestDetail) :
    BlocksInOnePlace (s.enterRest c d) := by
  have hm := h.mode_ne_test hp
  have hr : BlocksInOnePlace { s with
      power := { s.power with part := .rest }
      cycle := { s.cycle with tap := TapSeq.empty } } :=
    h.served rfl (fun e => absurd e hm) hm (by simp)
  exact (((((hr.dropAllCues .rest).loseWindow .a c).loseWindow .b c).withMixer _).raise _ _ _ _)

theorem powerLow (h : BlocksInOnePlace s) (hp : s.power.part ≠ .starting) : BlocksInOnePlace s.powerLow := by
  have hc := (closeTracks .next false (List.finRange 6) h).abandonRunningFold .powerLow
  have hpart : ((s.closeTracks .next false (List.finRange 6)).abandonRunningFold .powerLow).power = s.power := by simp
  unfold State.powerLow
  dsimp only
  generalize (s.closeTracks .next false (List.finRange 6)).abandonRunningFold .powerLow = v at hc hpart ⊢
  refine settle (enterRest ((((discardImports _ _ hc).loseWindow _ _).loseWindow _ _).raise _ _ _ _) ?_ _ _)
  simpa [hpart] using hp

theorem pinAsserted (h : BlocksInOnePlace s) : BlocksInOnePlace s.pinAsserted := by
  have hp : BlocksInOnePlace (s.setPin true) := h.same rfl
  unfold State.pinAsserted
  dsimp only
  split
  · next hr => exact hp.powerLow (by simp [hr])
  · exact hp.raise _ _ _ _
  · exact hp

theorem wakeUp (h : BlocksInOnePlace s) (hp : s.power.part ≠ .starting) : BlocksInOnePlace s.wakeUp := by
  have hr : BlocksInOnePlace { s with
      power := { s.power with part := .run }
      mem := { s.mem with mode := .serving } } :=
    h.served rfl (fun e => absurd e (h.mode_ne_test hp)) (by simp) (by simp)
  exact (hr.raise _ _ _ _).settle

theorem finishTest (h : BlocksInOnePlace s) : BlocksInOnePlace s.finishTest := by
  unfold State.finishTest
  split
  · next hn =>
    have hr : BlocksInOnePlace { s with
        mem := { s.mem with mode := .serving }
        power := { s.power with part := .run } } := h.served rfl (fun _ => hn.2) (by simp) (by simp)
    exact ite ((hr.raiseEvent _).powerLow (by simp)) (hr.raiseEvent _)
  · exact h

/-- A block tested joins the free list, or the bad-block list where it failed (R159). -/
theorem tested_block (h : BlocksInOnePlace s) (hm : s.mem.mode = .test) (hn : s.mem.testNext < 4096)
    (hl : u.layers = s.layers) (hb : (u.mem.free ++ u.mem.bad).Perm (s.mem.testNext :: (s.mem.free ++ s.mem.bad)))
    (hu : (u.mem.mode, u.mem.testNext, u.power.part) = (s.mem.mode, s.mem.testNext + 1, s.power.part)) :
    BlocksInOnePlace u := by
  simp only [Prod.mk.injEq] at hu
  obtain ⟨hmode, hnext, hpart⟩ := hu
  have ho := h.once
  rw [if_pos hm] at ho
  refine ⟨hl ▸ h.ids, by omega, ?_, by rw [hpart, hmode]; exact h.starting⟩
  rw [State.extentBlocks, hl, hmode, if_pos hm, hnext, List.range_succ]
  refine ((hb.append_right _).trans ?_).trans (List.perm_append_singleton _ _).symm
  exact ho.cons _

theorem testCorrected (b n : Nat) : ∀ {s : State}, BlocksInOnePlace s → BlocksInOnePlace (s.testCorrected b n) := by
  induction n with
  | zero => exact fun h => h
  | succ n ih => exact fun h => ih (h.takeFault _)

end BlocksInOnePlace

end Sys2Proof.Machine


/-! # O10: the arbiter, the audio port, transfers, requests and every command keep each block in one place -/

namespace Sys2Proof.Machine

open Sys2Proof

namespace BlocksInOnePlace

variable {s u : State}

/-! ### The start-up test and self-refresh (R159, R160) -/

theorem testCorrected_tests (b n : Nat) : ∀ s : State,
    ((s.testCorrected b n).mem, (s.testCorrected b n).power, (s.testCorrected b n).layers) = (s.mem, s.power, s.layers) := by
  induction n with
  | zero => exact fun _ => rfl
  | succ n ih =>
    intro s
    refine (ih _).trans ?_
    unfold State.takeFault
    dsimp only
    split <;> rfl

theorem testBlock (h : BlocksInOnePlace s) (n : Nat) (passed : Bool) : BlocksInOnePlace (s.testBlock n passed) := by
  have hc := testCorrected s.mem.testNext n h
  have heq := testCorrected_tests s.mem.testNext n s
  unfold State.testBlock
  split
  · next ht =>
    obtain ⟨hm, hn⟩ := ht
    dsimp only
    generalize s.testCorrected s.mem.testNext n = v at hc heq ⊢
    simp only [Prod.mk.injEq] at heq
    obtain ⟨hmem, -, -⟩ := heq
    rw [← hmem] at hm hn ⊢
    have hbad : v.mem.testNext ∉ v.mem.bad := fun hb => by
      have hr := hc.once.mem_iff.mp (List.mem_append_left _ (List.mem_append_right v.mem.free hb))
      rw [if_pos hm] at hr
      exact Nat.lt_irrefl _ (List.mem_range.mp hr)
    split
    · refine hc.tested_block hm hn rfl ?_ rfl
      rw [List.append_assoc]
      exact List.perm_middle
    · refine BlocksInOnePlace.takeFault ?_ _
      refine hc.tested_block hm hn rfl ?_ rfl
      exact ((addBad_perm hbad).append_left _).trans List.perm_middle
  · exact h

theorem selfRefresh (h : BlocksInOnePlace s) : BlocksInOnePlace s.selfRefresh := by
  unfold State.selfRefresh
  split
  · next hr =>
    have hp : s.power.part ≠ .starting := by simp [hr.1]
    exact h.served rfl (fun e => absurd e (h.mode_ne_test hp)) (by simp) hp
  · exact h

/-! ### Grants and completions (R139, R140) -/

theorem grantPlayback (h : BlocksInOnePlace s) (id : Nat) (r : Range) : BlocksInOnePlace (s.grantPlayback id r) := by
  unfold State.grantPlayback
  split
  · exact h
  · next hl => exact (h.setGrant _).setLayer hl

theorem grantFold (h : BlocksInOnePlace s) : BlocksInOnePlace s.grantFold := by
  unfold State.grantFold
  split
  · exact h
  · split
    · exact (h.withFold _).setGrant _
    · dsimp only
      split
      · exact h
      · exact (h.withFold _).setGrant _
    · exact h

theorem grantWindow (h : BlocksInOnePlace s) (p : Port) : BlocksInOnePlace (s.grantWindow p) := by
  unfold State.grantWindow
  split
  · exact h
  · split
    · dsimp only
      split
      · exact (h.setWindow _ _).setGrant _
      · exact h
      · exact (h.setWindow _ _).setGrant _
    · exact h
    · exact h

theorem withPointer (h : BlocksInOnePlace s) (b : Background) :
    BlocksInOnePlace { s with mem := { s.mem with pointer := b } } := h.same rfl

theorem grantBackground (h : BlocksInOnePlace s) (b : Background) : BlocksInOnePlace (s.grantBackground b) := by
  unfold State.grantBackground
  cases b
  · exact (h.grantFold.setWait _ _).withPointer _
  · exact ((h.grantWindow .a).setWait _ _).withPointer _
  · exact ((h.grantWindow .b).setWait _ _).withPointer _

theorem grantNext (h : BlocksInOnePlace s) : BlocksInOnePlace s.grantNext := by
  unfold State.grantNext
  split
  · exact h.same rfl
  · split
    · exact h.grantPlayback _ _
    · split
      · exact h.grantBackground _
      · split
        · exact h.same rfl
        · split
          · exact h.grantBackground _
          · exact h

theorem suspectBlock (h : BlocksInOnePlace s) (rd : Reading) (b : Nat) : BlocksInOnePlace (s.suspectBlock rd b) := by
  unfold State.suspectBlock
  split
  · exact h
  · next hl => exact h.setLayer (readFor_layer hl)

theorem readChecked (h : BlocksInOnePlace s) (who : Requester) (o : Nat) (chk : WordCheck) (rd : Reading) :
    BlocksInOnePlace (s.readChecked who o chk rd).1 := by
  unfold State.readChecked
  (repeat' split)
  · exact h
  · exact h
  · exact h.takeFault _
  · exact h
  · exact h
  · dsimp only
    exact (h.suspectBlock _ _).takeFault _

theorem readFrom (who : Requester) (checks : List WordCheck) (l : List Nat) :
    ∀ {rd : Reading} {s : State}, BlocksInOnePlace s → BlocksInOnePlace (s.readFrom who checks l rd).1 := by
  induction l with
  | nil => exact fun h => h
  | cons i l ih => exact fun h => ih (h.readChecked _ _ _ _)

theorem readRun (h : BlocksInOnePlace s) (who : Requester) (checks : List WordCheck) (rd : Reading) :
    BlocksInOnePlace (s.readRun who checks rd).1 := readFrom _ _ _ h

theorem playbackDone (h : BlocksInOnePlace s) (rd : Reading) (checks : List WordCheck) :
    BlocksInOnePlace (s.playbackDone rd checks) := by
  have hr := h.readRun .playback checks rd
  unfold State.playbackDone
  dsimp only
  split
  · exact hr
  · next hl =>
    split
    · exact hr.setLayer (readFor_layer hl)
    · exact hr

/-- The words of a burst stored move no block. -/
theorem storeBurst (h : BlocksInOnePlace s) (block : Option Nat) (o : Nat) (xs : List Sample) :
    BlocksInOnePlace { s with mem := s.mem.storeBurst block o xs } := by
  cases block <;> exact h.same rfl

/-- A burst stored for a layer leaves its extents. -/
theorem store_extents (o n : Nat) (l : Layer) : (l.store o n).extents = l.extents := by
  unfold Layer.store
  dsimp only
  split <;> split <;> rfl

theorem captureDone (h : BlocksInOnePlace s) (b : Burst) (block : Option Nat) (live : Bool) :
    BlocksInOnePlace (s.captureDone b block live) :=
  ite ((h.storeBurst _ _ _).modLayer _ (store_extents _ _)) (h.storeBurst _ _ _)

theorem foldReadDone (h : BlocksInOnePlace s) (rd : Reading) (newer : Bool) (checks : List WordCheck) :
    BlocksInOnePlace (s.foldReadDone rd newer checks) := by
  have hr := h.readRun .fold checks rd
  unfold State.foldReadDone
  dsimp only
  split
  · exact hr
  · split
    · split
      · exact (hr.withFold _).modLayer _
      · exact hr.withFold _
    · exact hr

theorem foldWriteDone (h : BlocksInOnePlace s) (block : Option Nat) (o : Nat) (xs : List Sample) :
    BlocksInOnePlace (s.foldWriteDone block o xs) := by
  have hb := h.storeBurst block o xs
  unfold State.foldWriteDone
  dsimp only
  split
  · exact hb
  · next f _ =>
    split
    · have hk := (hb.modLayer f.result (store_extents o xs.length)).withFold
        (some { f with nextOff := o + xs.length, out := none, granted := false })
      split
      · exact hk.completeFold
      · exact hk.beginFoldBurst
    · exact hb

theorem windowReadDone (h : BlocksInOnePlace s) (p : Port) (rd : Reading) (checks : List WordCheck) :
    BlocksInOnePlace (s.windowReadDone p rd checks) := by
  have hr := h.readRun (match p with | .a => .windowA | .b => .windowB) checks rd
  unfold State.windowReadDone
  dsimp only
  split
  · exact hr
  · split
    · exact hr.setWindow _ _
    · exact hr

theorem shutWindow (h : BlocksInOnePlace s) (p : Port) : BlocksInOnePlace (s.shutWindow p) :=
  (h.setWindow _ _).setWait _ _

theorem importDone (h : BlocksInOnePlace s) (p : Port) (id : Nat) : BlocksInOnePlace (s.importDone p id) := by
  unfold State.importDone
  split
  · exact h
  · next l hl =>
    have hw := (((h.setLayer (m := { l with state := .closed }) hl).setWindow p none).setWait (portBackground p)
      Wait.idle).raise .windowDone none (some id) (portCode p)
    exact ((hw.modTrack l.track _).reaim id).noteTrack l.track _

theorem commitDone (h : BlocksInOnePlace s) (p : Port) (block : Option Nat) (o : Nat) (xs : List Sample) :
    BlocksInOnePlace (s.commitDone p block o xs) := by
  have hb := h.storeBurst block o xs
  unfold State.commitDone
  dsimp only
  split
  · exact hb
  · next w _ =>
    split
    · next l _ _ hl =>
      have hk := (hb.setLayer (m := { l.store o xs.length with committed := o + xs.length }) hl
        (store_extents _ _ _)).setWindow p (some { w with buf := [], req := .absent })
      (repeat' split)
      · exact (hk.importDone p w.layer).completeReply _ _ _
      · exact hk.importDone p w.layer
      · exact (hk.shutWindow p).completeReply _ _ _
      · exact hk
    · exact hb

theorem arbitrate (h : BlocksInOnePlace s) : BlocksInOnePlace s.arbitrate := by
  unfold State.arbitrate
  split
  · exact h.grantNext.settle
  · exact h

theorem completeRefresh (h : BlocksInOnePlace s) : BlocksInOnePlace s.completeRefresh := by
  unfold State.completeRefresh
  split
  · exact h.setGrant _
  · exact h

theorem completePlayback (h : BlocksInOnePlace s) (checks : List WordCheck) :
    BlocksInOnePlace (s.completePlayback checks) := by
  unfold State.completePlayback
  split
  · exact ((h.setGrant none).playbackDone _ checks).settle
  · exact h

theorem completeCapture (h : BlocksInOnePlace s) : BlocksInOnePlace s.completeCapture := by
  unfold State.completeCapture
  split
  · exact ((h.setGrant none).captureDone _ _ _).settle
  · exact h

theorem completeFoldBurst (h : BlocksInOnePlace s) (checks : List WordCheck) :
    BlocksInOnePlace (s.completeFoldBurst checks) := by
  unfold State.completeFoldBurst
  split
  · exact ((h.setGrant none).foldReadDone _ _ _).settle
  · exact ((h.setGrant none).foldWriteDone _ _ _).settle
  · exact h

theorem completeWindowRead (h : BlocksInOnePlace s) (checks : List WordCheck) :
    BlocksInOnePlace (s.completeWindowRead checks) := by
  unfold State.completeWindowRead
  split
  · exact ((h.setGrant none).windowReadDone _ _ _).settle
  · exact h

theorem completeCommit (h : BlocksInOnePlace s) : BlocksInOnePlace s.completeCommit := by
  unfold State.completeCommit
  split
  · exact ((h.setGrant none).commitDone _ _ _ _).settle
  · exact h

/-! ### Deadlines (R141 to R144, R154) -/

theorem lockout (h : BlocksInOnePlace s) (who : Background) : BlocksInOnePlace (s.lockout who) := by
  unfold State.lockout
  split
  · exact ite (h.setWait _ _) h
  · exact h

theorem writeDeadline (h : BlocksInOnePlace s) : BlocksInOnePlace s.writeDeadline := by
  unfold State.writeDeadline
  split
  · exact h
  · next b rest _ =>
    have hq : BlocksInOnePlace { s with mem := { s.mem with queue := rest } } := h.same rfl
    split
    · dsimp only
      split
      · exact hq.settle
      · next hl => exact ((hq.setLayer hl).takeFault _).settle
    · exact h

theorem windowTimedOut (h : BlocksInOnePlace s) (p : Port) : BlocksInOnePlace (s.windowTimedOut p) := by
  unfold State.windowTimedOut
  split
  · exact h
  · next w _ =>
    have hk := h.setWindow p (some { w with req := .absent, timedOut := true, closing := false })
    split
    · exact ite (ite (hk.completeReply p .timeout []) hk).settle h
    · exact h
    · exact h

theorem refreshFallsDue (h : BlocksInOnePlace s) : BlocksInOnePlace s.refreshFallsDue := ite (h.same rfl) h

/-! ### Frame arrivals (R3 to R6, R161 to R169) -/

theorem announce (h : BlocksInOnePlace s) (r : Reached) : BlocksInOnePlace (s.announce r) := by
  have hw : BlocksInOnePlace (if r.wrap then s.raise .cycleWrap none none r.pass else s) := ite (h.raise _ _ _ _) h
  unfold State.announce
  dsimp only
  split
  · exact hw.raise _ _ _ _
  · exact hw

theorem withCycle (h : BlocksInOnePlace s) (c : Cycle) : BlocksInOnePlace { s with cycle := c } := h.same rfl

theorem advance (h : BlocksInOnePlace s) : BlocksInOnePlace s.advance.1 := by
  unfold State.advance
  split
  · next len _ _ =>
    have hc := h.withCycle (s.cycle.move len).1
    refine announce (ite ?_ hc) _
    exact hc.same rfl
  · exact h.withCycle _
  · exact h

theorem arrivalWork (h : BlocksInOnePlace s) (ord : Order) (f : Frame) (r : Option Reached) :
    BlocksInOnePlace (s.arrivalWork ord f r) := by
  have ha : BlocksInOnePlace (s.atBoundary ord r) := by
    unfold State.atBoundary
    split
    · exact boundaryWork _ _ _ h
    · exact h
  have hb : BlocksInOnePlace { s.atBoundary ord r with fresh := [] } := ha.same rfl
  unfold State.arrivalWork
  dsimp only
  exact settle (mix (closeLimits _ (hb.captureArrival _ _ _)) _ _ _)

theorem mixSilence (h : BlocksInOnePlace s) : BlocksInOnePlace s.mixSilence := h.withAudio _

theorem arrive (h : BlocksInOnePlace s) (ord : Order) (f : Frame) : BlocksInOnePlace (s.arrive ord f).1 := by
  have hc : BlocksInOnePlace s.countFrame := h.withCycle _
  unfold State.arrive
  split
  · have ha := hc.advance
    unfold State.arriveRun
    generalize s.countFrame.advance = r at ha ⊢
    obtain ⟨v, reached⟩ := r
    dsimp only at ha ⊢
    exact ha.arrivalWork ord f reached
  · exact (hc.writeRing f).mixSilence
  · exact h.mixSilence

theorem closeFrame (h : BlocksInOnePlace s) (n : Nat) (bits : BitVec 256) (ord : Order) :
    BlocksInOnePlace (s.closeFrame n bits ord) := by
  have back : ∀ {v : State} (place : Point), BlocksInOnePlace v → BlocksInOnePlace (v.audioBack place) :=
    fun place hv => ite hv ((hv.withAudio _).raiseEvent _)
  have missed : ∀ {v : State} (place : Point), BlocksInOnePlace v → BlocksInOnePlace (v.linkError place) :=
    fun place hv => ite ((hv.withAudio _).raiseEvent _) (hv.withAudio _)
  have hk : BlocksInOnePlace
      (if decide (n = 256) = true then { s with audio := { s.audio with held := frameSamples bits } } else s) :=
    ite (h.withAudio _) h
  unfold State.closeFrame
  dsimp only
  generalize (if decide (n = 256) = true then { s with audio := { s.audio with held := frameSamples bits } } else s) = v
    at hk ⊢
  split
  · exact back _ (hk.arrive _ _)
  · exact missed _ (back _ (hk.arrive _ _))

theorem frameSync (h : BlocksInOnePlace s) (n : Nat) (bits : BitVec 256) (ord : Order) :
    BlocksInOnePlace (s.frameSync n bits ord) := by
  have hs := h.withAudio (s.audio.sync s.now n ord.beforeExpiry)
  unfold State.frameSync
  dsimp only
  split
  · exact hs
  · exact hs.closeFrame _ _ _

theorem watchdog (h : BlocksInOnePlace s) : BlocksInOnePlace s.watchdog := by
  unfold State.watchdog
  split
  · exact ite ((h.withAudio _).raise _ _ _ _) h
  · exact h

/-! ### Transfers (R185, R190 to R193) -/

theorem riseIf (h : BlocksInOnePlace s) (p : Port) (rise : Bool) : BlocksInOnePlace (s.riseIf p rise) :=
  ite (h.setPort _ _) h

theorem segment (h : BlocksInOnePlace s) {p : Port} {k : TransferKind} {fall : Bool} {n : Nat} {rise : Bool}
    {body : State → State} (hb : ∀ s, BlocksInOnePlace s → BlocksInOnePlace (body s)) :
    BlocksInOnePlace (s.segment p k fall n rise body) := by
  refine KeptByBlocks.whenLive (fun s h => ?_) h
  have hs : BlocksInOnePlace (if fall then s.beginTransfer p k else s) := ite (h.setPort _ _) h
  dsimp only
  generalize (if fall then s.beginTransfer p k else s) = v at hs ⊢
  split
  · exact (hb _ hs).riseIf _ _
  · exact ite ((hs.setPort _ _).riseIf _ _) hs

theorem shiftOut (h : BlocksInOnePlace s) (p : Port) (t : Transfer) (b : Byte) : BlocksInOnePlace (s.shiftOut p t b) :=
  h.setPort _ _

theorem replyByte (h : BlocksInOnePlace s) (p : Port) : BlocksInOnePlace (s.replyByte p) := by
  unfold State.replyByte
  split
  · exact h
  · exact ite (h.shiftOut _ _ _) (ite ((h.shiftOut _ _ _).setPort _ _) (h.shiftOut _ _ _))

theorem eventByte (h : BlocksInOnePlace s) (p : Port) (t : Transfer) (left j : Nat) :
    BlocksInOnePlace (s.eventByte p t left j) := by
  unfold State.eventByte
  split
  · exact h.shiftOut _ _ _
  · exact ite ((h.shiftOut _ _ _).setPort _ _) (h.shiftOut _ _ _)

theorem eventsByte (h : BlocksInOnePlace s) (p : Port) : BlocksInOnePlace (s.eventsByte p) := by
  unfold State.eventsByte
  (repeat' split)
  · exact h
  · exact h.shiftOut _ _ _
  · exact h.shiftOut _ _ _
  · exact h.eventByte _ _ _ _
  · exact h.shiftOut _ _ _

theorem latchWindow (h : BlocksInOnePlace s) (p : Port) : BlocksInOnePlace (s.latchWindow p) := by
  unfold State.latchWindow
  split
  · exact h.setWindow _ _
  · exact h

theorem takeSample (h : BlocksInOnePlace s) (p : Port) : BlocksInOnePlace (s.takeSample p) := by
  unfold State.takeSample
  split
  · exact h
  · dsimp only
    split
    · exact (h.setWindow _ _).settleRead p
    · exact ite (h.windowDone _ _) ((h.setWindow _ _).settleRead p)

theorem markShifting (h : BlocksInOnePlace s) (p : Port) : BlocksInOnePlace (s.markShifting p) := by
  unfold State.markShifting
  split
  · exact h.setWindow _ _
  · exact h

theorem sampleByte (h : BlocksInOnePlace s) (p : Port) (t : Transfer) (j : Nat) : BlocksInOnePlace (s.sampleByte p t j) := by
  unfold State.sampleByte
  split
  · exact h.shiftOut _ _ _
  · exact ite ((h.shiftOut _ _ _).takeSample p) ((h.shiftOut _ _ _).markShifting p)

theorem reportFlag (h : BlocksInOnePlace s) (p : Port) (timedOut : Bool) : BlocksInOnePlace (s.reportFlag p timedOut) := by
  unfold State.reportFlag
  split
  · split
    · exact ((h.setWindow _ _).settleRead p).settleWrite p
    · exact h
  · exact h

theorem windowReadByte (h : BlocksInOnePlace s) (p : Port) : BlocksInOnePlace (s.windowReadByte p) := by
  unfold State.windowReadByte
  (repeat' split)
  · exact h
  · exact (h.shiftOut _ _ _).latchWindow p
  · exact (h.shiftOut _ _ _).reportFlag _ _
  · exact h.sampleByte _ _ _
  · exact h.shiftOut _ _ _

theorem sampleIn (h : BlocksInOnePlace s) (p : Port) (x : Sample) (within : Bool) :
    BlocksInOnePlace (s.sampleIn p x within) := by
  unfold State.sampleIn
  split
  · exact h
  · exact ite h (ite ((h.setWindow _ _).settleWrite p) (h.setWindow _ _))

theorem windowWriteByte (h : BlocksInOnePlace s) (p : Port) (b : Byte) : BlocksInOnePlace (s.windowWriteByte p b) := by
  unfold State.windowWriteByte
  (repeat' split)
  · exact h.setPort _ _
  · exact h
  · exact h.shiftOut _ _ _
  · exact h.shiftOut _ _ _
  · exact (h.shiftOut _ _ _).reportFlag _ _
  · exact (h.shiftOut _ _ _).sampleIn _ _ _
  · exact h.shiftOut _ _ _
  · exact h.shiftOut _ _ _

theorem windowWriteBytes (p : Port) (l : List Byte) :
    ∀ {s : State}, BlocksInOnePlace s → BlocksInOnePlace (s.windowWriteBytes p l) := by
  induction l with
  | nil => exact fun h => h
  | cons b l ih => exact fun h => ih (h.windowWriteByte p b)

/-! ### Requests (R187 to R189) -/

/-- A request keeps what its owner keeps; one that STARTING screens reaches its owner outside STARTING only. -/
theorem screen (hs : BlocksInOnePlace s) {always lenOk : Bool} {r : Req} {code : Nat} {owner : Owner}
    (ho : ∀ s, BlocksInOnePlace s → always = true ∨ s.power.part ≠ .starting → BlocksInOnePlace (owner s).1) :
    BlocksInOnePlace (s.screen always lenOk r code owner) := by
  have refused : ∀ st, BlocksInOnePlace (s.refuse r code st) := fun _ => hs.setPort _ _
  unfold State.screen
  split
  · exact refused _
  · split
    · exact refused _
    · next hp =>
      have hpart : always = true ∨ s.power.part ≠ .starting := by
        rcases Bool.eq_false_or_eq_true always with ha | ha
        · exact .inl ha
        · exact .inr (by simpa [ha] using hp)
      have taken : BlocksInOnePlace (s.takeRequest r code owner) := by
        have hk := ho _ (hs.setPort r.port { s.port r.port with reply := .pending r.tag (BitVec.ofNat 8 code) })
          (by rwa [setPort_power])
        unfold State.takeRequest
        split
        · next e => rw [e] at hk; exact hk.setPort _ _
        · next e => rw [e] at hk; exact hk
      exact ite taken (refused _)

theorem request (hs : BlocksInOnePlace s) {r : Req} {code n : Nat} {owner : Owner}
    (ho : ∀ s, BlocksInOnePlace s → s.power.part ≠ .starting → BlocksInOnePlace (owner s).1) :
    BlocksInOnePlace (s.request r code n owner) :=
  KeptByBlocks.whenLive (fun _ h => (h.setPort _ _).screen fun v hv hp => ho v hv (hp.resolve_left (by simp))) hs

/-- A request whose owner needs nothing of the part state. -/
theorem plainRequest (hs : BlocksInOnePlace s) {r : Req} {code n : Nat} {owner : Owner}
    (ho : ∀ s, BlocksInOnePlace s → BlocksInOnePlace (owner s).1) : BlocksInOnePlace (s.request r code n owner) :=
  hs.request fun v hv _ => ho v hv

theorem requestAlways (hs : BlocksInOnePlace s) {r : Req} {code : Nat} {owner : Owner}
    (ho : ∀ s, BlocksInOnePlace s → BlocksInOnePlace (owner s).1) : BlocksInOnePlace (s.requestAlways r code owner) :=
  KeptByBlocks.whenLive (fun _ h => (h.setPort _ _).screen fun v hv _ => ho v hv) hs

theorem ownSetTempo (h : BlocksInOnePlace s) (t b : Nat) : BlocksInOnePlace (ownSetTempo t b s).1 := by
  unfold Machine.ownSetTempo
  (repeat' split)
  · exact h
  · exact h
  · exact h
  · exact (h.withCycle _).startCycle _ _

theorem ownSetLength (h : BlocksInOnePlace s) (n : Nat) : BlocksInOnePlace (ownSetLength n s).1 := by
  unfold Machine.ownSetLength
  (repeat' split)
  · exact h
  · exact h
  · exact h.startCycle _ _

theorem ownTap (h : BlocksInOnePlace s) : BlocksInOnePlace (ownTap s).1 := by
  have ht := h.actTap s.cycle.frameCount
  unfold Machine.ownTap
  split <;> next e => rw [e] at ht; exact ht

theorem handQuantised (h : BlocksInOnePlace s) (p : Port) (a : Action) (t : Option TrackId) (q : Quantum) :
    BlocksInOnePlace (s.handQuantised p a t q).1 := by
  have hq := h.quantised p a t q s.pressNow
  unfold State.handQuantised
  dsimp only [State.answer]
  exact ite hq.settle hq

theorem ownAll (h : BlocksInOnePlace s) (p : Port) (a : Action) (q : Byte) : BlocksInOnePlace (ownAll p a q s).1 := by
  unfold Machine.ownAll
  split
  · exact h.handQuantised _ _ _ _
  · exact h

theorem ownTrack (h : BlocksInOnePlace s) (p : Port) (a : Action) (t q : Byte) :
    BlocksInOnePlace (ownTrack p a t q s).1 := by
  unfold Machine.ownTrack
  split
  · exact h.handQuantised _ _ _ _
  · exact h

theorem ownClearAll (h : BlocksInOnePlace s) (q : Byte) : BlocksInOnePlace (ownClearAll q s).1 := by
  unfold Machine.ownClearAll
  split
  · exact h.actClearAll.settle
  · exact h

theorem ownClearTrack (h : BlocksInOnePlace s) (t q : Byte) : BlocksInOnePlace (ownClearTrack t q s).1 := by
  unfold Machine.ownClearTrack
  split
  · dsimp only [State.answer]
    exact settle (h.actClearTrack _)
  · exact h

theorem ownSetTrack (h : BlocksInOnePlace s) (t : Byte) (fb fr er : Nat) (src : Byte) :
    BlocksInOnePlace (ownSetTrack t fb fr er src s).1 := by
  unfold Machine.ownSetTrack
  split
  · exact h.modTrack _ _
  · exact h

theorem ownSetLayerGain (h : BlocksInOnePlace s) (id g : Nat) : BlocksInOnePlace (ownSetLayerGain id g s).1 := by
  unfold Machine.ownSetLayerGain
  split
  · exact h
  · next hl =>
    split
    · exact h
    · exact h.setLayer hl

theorem ownCancelCue (h : BlocksInOnePlace s) (id : Nat) : BlocksInOnePlace (ownCancelCue id s).1 := by
  unfold Machine.ownCancelCue
  split
  · exact h.dropCue _ _
  · exact h

theorem ownSwitch (h : BlocksInOnePlace s) {report : Port → SwitchCode → State → State × Bool}
    (hr : ∀ p c s, BlocksInOnePlace s → BlocksInOnePlace (report p c s).1) (p : Port) (c : Byte) :
    BlocksInOnePlace (ownSwitch report p c s).1 := by
  unfold Machine.ownSwitch
  split
  · exact (hr _ _ _ h).settle
  · exact h

theorem ownOpenWindow (h : BlocksInOnePlace s) (p : Port) (id o : Nat) (d m : Byte) :
    BlocksInOnePlace (ownOpenWindow p id o d m s).1 := by
  unfold Machine.ownOpenWindow
  (repeat' split)
  · exact h
  · exact h
  · exact h
  · exact h
  · exact (h.setWindow _ _).settle
  · exact h

theorem closeCommit (h : BlocksInOnePlace s) (p : Port) (w : Window) : BlocksInOnePlace (s.closeCommit p w) := by
  have hk := h.setWindow p (some { w with closing := true })
  unfold State.closeCommit
  dsimp only
  split
  · exact hk.requestCommit p
  · exact hk
  · exact hk

theorem ownCloseWindow (h : BlocksInOnePlace s) (p : Port) : BlocksInOnePlace (ownCloseWindow p s).1 := by
  unfold Machine.ownCloseWindow
  (repeat' split)
  · exact h
  · exact h
  · exact (h.shutWindow p).settle
  · exact (h.shutWindow p).settle
  · exact (h.closeCommit p _).settle

/-- An imported layer takes a free id, and no block yet (R156). -/
theorem placeImport (h : BlocksInOnePlace s) (p : Port) {id : Nat} (i : Import) (hid : s.layer? id = none) :
    BlocksInOnePlace (s.placeImport p id i) := by
  have hf := h.freeRedo i.track
  have hn := freeRedo_absent (t := i.track) hid
  unfold State.placeImport
  dsimp only
  generalize s.freeRedo i.track = v at hf hn ⊢
  exact ((hf.addLayer hn rfl).modTrack _ _).setWindow _ _

theorem ownImportLayer (h : BlocksInOnePlace s) (p : Port) (arg : Option Import) :
    BlocksInOnePlace (ownImportLayer p arg s).1 := by
  unfold Machine.ownImportLayer
  (repeat' split)
  · exact h
  · exact h
  · exact h
  · exact h
  · next e =>
    obtain ⟨hv, hid⟩ := h.takeRoom e
    exact (hv.placeImport p _ hid).settle

theorem ownSetWindowTimeout (h : BlocksInOnePlace s) (p : Port) (n : Nat) :
    BlocksInOnePlace (ownSetWindowTimeout p n s).1 := by
  unfold Machine.ownSetWindowTimeout
  split
  · cases p <;> exact h.same rfl
  · exact h

theorem ownRest (h : BlocksInOnePlace s) (hp : s.power.part ≠ .starting) : BlocksInOnePlace (ownRest s).1 := by
  unfold Machine.ownRest
  (repeat' split)
  · exact h
  · exact (h.enterRest hp _ _).settle
  · exact h

theorem ownWake (h : BlocksInOnePlace s) (hp : s.power.part ≠ .starting) : BlocksInOnePlace (ownWake s).1 := by
  unfold Machine.ownWake
  split
  · exact h.wakeUp hp
  · exact h

theorem ownPostNote (h : BlocksInOnePlace s) (p : Port) (note : List Byte) : BlocksInOnePlace (ownPostNote p note s).1 := by
  unfold Machine.ownPostNote
  split
  · exact h
  · exact (h.setPort _ _).setPort _ _

theorem ownTakeNote (h : BlocksInOnePlace s) (p : Port) : BlocksInOnePlace (ownTakeNote p s).1 := by
  unfold Machine.ownTakeNote
  split
  · exact h
  · exact (h.setPort _ _).setPort _ _

/-- The part in reset has tested no block (R207). -/
theorem resetTo (held : Bool) (s : State) : BlocksInOnePlace (s.resetTo held) :=
  ⟨.nil, Nat.zero_le _, .refl _, iff_of_true rfl rfl⟩

/-! ### Every command -/

open KeptByBlocks in
theorem exec (h : BlocksInOnePlace s) (c : Instr) : ∃ t, Machine.exec c s = .next t ∧ BlocksInOnePlace t := by
  cases c with
  | reset => exact ⟨_, rfl, resetTo false s⟩
  | resetnLow => exact ⟨_, rfl, resetTo true s⟩
  | resetPart r => exact ⟨_, rfl, resetPart_keeps (resetTo false) (fun p c _ hu => hu.setPort p c) r h⟩
  | frameSync n bits ord => exact ⟨_, rfl, whenLive (fun _ h => h.frameSync n bits ord) h⟩
  | pwrlowAssert => exact ⟨_, rfl, ite h h.pinAsserted⟩
  | pwrlowRelease => exact ⟨_, rfl, h.same rfl⟩
  | watchdogExpiry => exact ⟨_, rfl, whenLive (fun _ h => h.watchdog) h⟩
  | holdDeadline p code => exact ⟨_, rfl, whenLive (fun _ h => (h.holdDue p code).settle) h⟩
  | windowDeadline p code => exact ⟨_, rfl, whenLive (fun _ h => (h.windowDue p code).settle) h⟩
  | backgroundLockout who => exact ⟨_, rfl, whenLive (fun _ h => h.lockout who) h⟩
  | writeTimeout => exact ⟨_, rfl, whenLive (fun _ h => h.writeDeadline) h⟩
  | windowRequestTimeout p => exact ⟨_, rfl, whenLive (fun _ h => h.windowTimedOut p) h⟩
  | refreshDue => exact ⟨_, rfl, whenLive (fun _ h => h.refreshFallsDue) h⟩
  | arbiterGrant => exact ⟨_, rfl, whenLive (fun _ h => h.arbitrate) h⟩
  | refreshComplete => exact ⟨_, rfl, whenLive (fun _ h => h.completeRefresh) h⟩
  | playbackReadComplete checks => exact ⟨_, rfl, whenLive (fun _ h => h.completePlayback checks) h⟩
  | captureWriteComplete => exact ⟨_, rfl, whenLive (fun _ h => h.completeCapture) h⟩
  | foldBurstComplete checks => exact ⟨_, rfl, whenLive (fun _ h => h.completeFoldBurst checks) h⟩
  | windowReadComplete checks => exact ⟨_, rfl, whenLive (fun _ h => h.completeWindowRead checks) h⟩
  | windowCommitComplete => exact ⟨_, rfl, whenLive (fun _ h => h.completeCommit) h⟩
  | waitingBurstHandover => exact ⟨_, rfl, whenLive (fun _ h => h.settle) h⟩
  | blockTest n ok => exact ⟨_, rfl, whenLive (fun _ h => h.testBlock n ok) h⟩
  | memoryTestDone => exact ⟨_, rfl, whenLive (fun _ h => h.finishTest) h⟩
  | enterSelfRefresh => exact ⟨_, rfl, whenLive (fun _ h => h.selfRefresh) h⟩
  | requestCut p arrived => exact ⟨_, rfl, whenLive (fun _ h => (h.setPort _ _).setPort _ _) h⟩
  | unknownRequest r code =>
    exact ⟨_, rfl, whenLive (fun _ h => ite ((h.setPort _ _).setPort _ _) ((h.setPort _ _).setPort _ _)) h⟩
  | readReply p fall n rise =>
    exact ⟨_, rfl, h.segment fun _ h => KeptByBlocks.repeatStep (fun _ h => h.replyByte p) n h⟩
  | readEvents p fall n rise =>
    exact ⟨_, rfl, h.segment fun _ h => KeptByBlocks.repeatStep (fun _ h => h.eventsByte p) n h⟩
  | windowRead p fall n rise =>
    exact ⟨_, rfl, h.segment fun _ h => (KeptByBlocks.repeatStep (fun _ h => h.windowReadByte p) n h).settle⟩
  | windowWrite p fall bytes rise => exact ⟨_, rfl, h.segment fun _ h => (windowWriteBytes p bytes h).settle⟩
  | status r | identify r => exact ⟨_, rfl, h.requestAlways fun _ h => h⟩
  | readCues r | readFaults r => exact ⟨_, rfl, h.plainRequest fun _ h => h⟩
  | setGrace r n | setPressTiming r hold double | setBus r fr er | setEdge r n | clearLinkCount r =>
    exact ⟨_, rfl, h.plainRequest fun _ h => h.same rfl⟩
  | postNote r note =>
    exact ⟨_, rfl, whenLive (fun _ h => (h.setPort _ _).screen fun _ h _ => h.ownPostNote _ _) h⟩
  | takeNote r => exact ⟨_, rfl, h.plainRequest fun _ h => h.ownTakeNote _⟩
  | setTempo r t b => exact ⟨_, rfl, h.plainRequest fun _ h => h.ownSetTempo _ _⟩
  | setLength r n => exact ⟨_, rfl, h.plainRequest fun _ h => h.ownSetLength _⟩
  | tap r => exact ⟨_, rfl, h.plainRequest fun _ h => h.ownTap⟩
  | playAll r q | stopAll r q => exact ⟨_, rfl, h.plainRequest fun _ h => h.ownAll _ _ _⟩
  | clearAll r q => exact ⟨_, rfl, h.plainRequest fun _ h => h.ownClearAll _⟩
  | record r t q | overdub r t q | replace r t q | close r t q | mute r t q | unmute r t q | undo r t q | redo r t q =>
    exact ⟨_, rfl, h.plainRequest fun _ h => h.ownTrack _ _ _ _⟩
  | clearTrack r t q => exact ⟨_, rfl, h.plainRequest fun _ h => h.ownClearTrack _ _⟩
  | setTrack r t fb fr er src => exact ⟨_, rfl, h.plainRequest fun _ h => h.ownSetTrack _ _ _ _ _⟩
  | setLayerGain r id g => exact ⟨_, rfl, h.plainRequest fun _ h => h.ownSetLayerGain _ _⟩
  | cancelCue r id => exact ⟨_, rfl, h.plainRequest fun _ h => h.ownCancelCue _⟩
  | switchDown r c => exact ⟨_, rfl, h.plainRequest fun _ h => h.ownSwitch (fun p c _ h => h.switchDown p c) _ _⟩
  | switchUp r c => exact ⟨_, rfl, h.plainRequest fun _ h => h.ownSwitch (fun p c _ h => h.switchUp p c) _ _⟩
  | openWindow r id o d m => exact ⟨_, rfl, h.plainRequest fun _ h => h.ownOpenWindow _ _ _ _ _⟩
  | closeWindow r => exact ⟨_, rfl, h.plainRequest fun _ h => h.ownCloseWindow _⟩
  | importLayer r t sp st n cv g => exact ⟨_, rfl, h.plainRequest fun _ h => h.ownImportLayer _ _⟩
  | setWindowTimeout r n => exact ⟨_, rfl, h.plainRequest fun _ h => h.ownSetWindowTimeout _ _⟩
  | rest r => exact ⟨_, rfl, h.request fun _ h hp => h.ownRest hp⟩
  | wake r => exact ⟨_, rfl, h.request fun _ h hp => h.ownWake hp⟩
  | setInterest r kinds =>
    refine ⟨_, rfl, h.plainRequest fun s h => ?_⟩
    unfold ownSetInterest
    split
    · exact h
    · exact h.setPort _ _
  | setMaskLevel r level =>
    refine ⟨_, rfl, h.plainRequest fun s h => ?_⟩
    unfold ownSetMaskLevel
    split
    · exact h.setPort _ _
    · exact h
  | setGrid r b p =>
    refine ⟨_, rfl, h.plainRequest fun s h => ?_⟩
    unfold ownSetGrid
    split
    · exact h
    · exact h.same rfl
  | readTrack r t =>
    refine ⟨_, rfl, h.plainRequest fun s h => ?_⟩
    unfold ownReadTrack
    split <;> exact h
  | readLayer r id =>
    refine ⟨_, rfl, h.plainRequest fun s h => ?_⟩
    unfold ownReadLayer
    split <;> exact h
  | setSwitch r c a b d g q =>
    refine ⟨_, rfl, h.plainRequest fun s h => ?_⟩
    unfold ownSetSwitch
    split
    · exact h.same rfl
    · exact h
  | selectTrack r t =>
    refine ⟨_, rfl, h.plainRequest fun s h => ?_⟩
    unfold ownSelectTrack
    split
    · exact h.setSwitchPort _ _
    · exact h
  | setMonitor r i fr er =>
    refine ⟨_, rfl, h.plainRequest fun s h => ?_⟩
    unfold ownSetMonitor
    split
    · exact h.same rfl
    · exact h
  | setClick r on level =>
    refine ⟨_, rfl, h.plainRequest fun s h => ?_⟩
    unfold ownSetClick
    split
    · exact h.same rfl
    · exact h
  | setOutput r i k n =>
    refine ⟨_, rfl, h.plainRequest fun s h => ?_⟩
    unfold ownSetOutput
    split
    · exact h.same rfl
    · exact h
  | readClips r clear =>
    refine ⟨_, rfl, h.plainRequest fun s h => ?_⟩
    unfold ownReadClips
    split
    · exact h.same rfl
    · exact h
    · exact h
  | setLinkThreshold r n =>
    refine ⟨_, rfl, h.plainRequest fun s h => ?_⟩
    unfold ownSetLinkThreshold
    split
    · exact h
    · exact h.same rfl
  | clearFaults r q =>
    refine ⟨_, rfl, h.plainRequest fun s h => ?_⟩
    unfold ownClearFaults
    (repeat' split)
    · exact h
    · exact h.same rfl
    · exact h

end BlocksInOnePlace

/-- Settles O10: each command moves blocks between the three lists only, and idling moves none. -/
theorem blocksStayInOnePlace : Obligations.BlocksStayInOnePlace := by
  unfold Obligations.BlocksStayInOnePlace
  intro s t h e
  unfold step at e
  split at e
  · obtain rfl := Host.Outcome.next.inj e
    exact h.same rfl
  · next c rest _ =>
    obtain ⟨u, hu, hr⟩ := BlocksInOnePlace.exec (s := { s with pending := rest }) (h.same rfl) c
    obtain rfl := Host.Outcome.next.inj (hu.symm.trans e)
    exact hr

end Sys2Proof.Machine


/-! # O41: OPEN WINDOW by the order of its table (R151) -/

namespace Sys2Proof.Machine

open Sys2Proof

/-! ### What refuses an OPEN WINDOW -/

theorem isFoldResult_iff {s : State} {id : Nat} : s.isFoldResult id = true ↔ ∃ f, s.fold = some f ∧ f.result = id := by
  unfold State.isFoldResult
  split
  · next f hf => simp [hf]
  · next hf => simp [hf]

/-- The second rows of R151's table: a layer that its state, or who created it, keeps from the window. -/
def State.OpenBadState (s : State) (p : Port) (id : Nat) (l : Layer) (m : WinMode) : Prop :=
  if m = .read then l.state = .importing ∨ l.state = .undone ∨ ∃ f, s.fold = some f ∧ f.result = id
  else l.state ≠ .importing ∨ l.creator ≠ some p

/-- The last rows of R151's table: an offset, or a direction, that the layer does not have. -/
def State.OpenBadArg (s : State) (id : Nat) (l : Layer) (o : Nat) (dir : Direction) (m : WinMode) : Prop :=
  if m = .read then s.lengthOf id l ≤ o else dir = .reverse ∨ o ≠ l.committed

section

variable {s : State} {p : Port} {id o : Nat} {l : Layer} {dir : Direction} {m : WinMode}

theorem openRefusal_badState (h : s.OpenBadState p id l m) : s.openRefusal p id l o dir m = some .badState := by
  unfold State.OpenBadState at h
  unfold State.openRefusal
  cases m with
  | read =>
    rw [if_pos rfl, ← isFoldResult_iff] at h
    exact if_pos h
  | write => exact if_pos h

theorem openRefusal_badArg (hs : ¬ s.OpenBadState p id l m) (ha : s.OpenBadArg id l o dir m) :
    s.openRefusal p id l o dir m = some .badArg := by
  unfold State.OpenBadState at hs
  unfold State.OpenBadArg at ha
  unfold State.openRefusal
  cases m with
  | read =>
    rw [if_pos rfl, ← isFoldResult_iff] at hs
    exact (if_neg hs).trans (if_pos ha)
  | write => exact (if_neg hs).trans (if_pos ha)

theorem openRefusal_none (hs : ¬ s.OpenBadState p id l m) (ha : ¬ s.OpenBadArg id l o dir m) :
    s.openRefusal p id l o dir m = none := by
  unfold State.OpenBadState at hs
  unfold State.OpenBadArg at ha
  unfold State.openRefusal
  cases m with
  | read =>
    rw [if_pos rfl, ← isFoldResult_iff] at hs
    exact (if_neg hs).trans (if_neg ha)
  | write => exact (if_neg hs).trans (if_neg ha)

/-! ### OPEN WINDOW as its owner takes it, row by row -/

variable {d mb : Byte}

theorem ownOpenWindow_rest (hp : s.power.part = .rest) : ownOpenWindow p id o d mb s = s.answer .resting [] := if_pos hp

theorem ownOpenWindow_busy (hp : s.power.part ≠ .rest) (hw : (s.window p).isSome = true) :
    ownOpenWindow p id o d mb s = s.answer .busy [] := (if_neg hp).trans (if_pos hw)

/-- Past RESTING and BUSY. -/
theorem ownOpenWindow_closed (hp : s.power.part ≠ .rest) (hw : s.window p = none) :
    ownOpenWindow p id o d mb s =
      match argDirection d, argMode mb with
      | some dir, some m =>
        match s.layer? id with
        | none => s.answer .notFound []
        | some l =>
          match s.openRefusal p id l o dir m with
          | some st => s.answer st []
          | none =>
            (s.setWindow p (some (Window.opened id m dir o))).settle.answer .ok (bytes 4 (s.lengthOf id l) ++ bytes 4 o)
      | _, _ => s.answer .badArg [] := (if_neg hp).trans (if_neg (by simp [hw]))

theorem ownOpenWindow_badArg (hp : s.power.part ≠ .rest) (hw : s.window p = none)
    (ha : argDirection d = none ∨ argMode mb = none) : ownOpenWindow p id o d mb s = s.answer .badArg [] := by
  rw [ownOpenWindow_closed hp hw]
  obtain hd | hm := ha
  · rw [hd]
  · rw [hm]
    split
    · next e => cases e
    · rfl

theorem ownOpenWindow_absent (hp : s.power.part ≠ .rest) (hw : s.window p = none) (hd : argDirection d = some dir)
    (hm : argMode mb = some m) (hl : s.layer? id = none) : ownOpenWindow p id o d mb s = s.answer .notFound [] := by
  rw [ownOpenWindow_closed hp hw, hd, hm, hl]

theorem ownOpenWindow_refused (hp : s.power.part ≠ .rest) (hw : s.window p = none) (hd : argDirection d = some dir)
    (hm : argMode mb = some m) (hl : s.layer? id = some l) {st : Status}
    (hr : s.openRefusal p id l o dir m = some st) : ownOpenWindow p id o d mb s = s.answer st [] := by
  rw [ownOpenWindow_closed hp hw, hd, hm, hl]
  dsimp only
  rw [hr]

theorem ownOpenWindow_opened (hp : s.power.part ≠ .rest) (hw : s.window p = none) (hd : argDirection d = some dir)
    (hm : argMode mb = some m) (hl : s.layer? id = some l) (hr : s.openRefusal p id l o dir m = none) :
    ownOpenWindow p id o d mb s =
      (s.setWindow p (some (Window.opened id m dir o))).settle.answer .ok (bytes 4 (s.lengthOf id l) ++ bytes 4 o) := by
  rw [ownOpenWindow_closed hp hw, hd, hm, hl]
  dsimp only
  rw [hr]

end

theorem lengthOf_handedOn (h : Req) (code id : Nat) (l : Layer) (s : State) :
    (s.handedOn h code).lengthOf id l = s.lengthOf id l := by
  simp [State.lengthOf, State.taken, State.recordOf]

/-- Settles O41, row by row of R151's table. -/
theorem openWindowByItsTable : Obligations.OpenWindowByItsTable := by
  unfold Obligations.OpenWindowByItsTable
  intro h lb off db mb s hs
  have answered : ∀ {u : State} {st : Status} {l : List Byte},
      ownOpenWindow h.port lb.toNat off.toNat db mb (s.handedOn h 80) = u.answer st l →
      exec (.openWindow h lb off db mb) s = .next (u.replied h 80 st l) := fun ho =>
    congrArg _ (request_answered hs (by decide) ho)
  refine ⟨fun hp => ?_, fun hp hw => ?_, fun hp hw ha => ?_, fun hp hw dir m hd hm => ⟨fun hl => ?_,
    fun l hl badState badArg hbs hba => ?_⟩⟩
  · exact answered (ownOpenWindow_rest (by simpa using hp))
  · exact answered (ownOpenWindow_busy (by simpa using hp) (by simpa using hw))
  · exact answered (ownOpenWindow_badArg (by simpa using hp) (by simpa using hw) ha)
  · exact answered (ownOpenWindow_absent (by simpa using hp) (by simpa using hw) hd hm (by simpa using hl))
  · have hp' : (s.handedOn h 80).power.part ≠ .rest := by simpa using hp
    have hw' : (s.handedOn h 80).window h.port = none := by simpa using hw
    have hl' : (s.handedOn h 80).layer? lb.toNat = some l := by simpa using hl
    have hstate : badState = (s.handedOn h 80).OpenBadState h.port lb.toNat l m := by
      rw [hbs, State.OpenBadState, fold_handedOn]
    have harg : badArg = (s.handedOn h 80).OpenBadArg lb.toNat l off.toNat dir m := by
      rw [hba, State.OpenBadArg, lengthOf_handedOn]
    rw [hstate, harg]
    refine ⟨fun hb => ?_, fun hb ha => ?_, fun hb ha => ?_⟩
    · exact answered (ownOpenWindow_refused hp' hw' hd hm hl' (openRefusal_badState hb))
    · exact answered (ownOpenWindow_refused hp' hw' hd hm hl' (openRefusal_badArg hb ha))
    · rw [← lengthOf_handedOn h 80]
      exact answered (ownOpenWindow_opened hp' hw' hd hm hl' (openRefusal_none hb ha))

end Sys2Proof.Machine


/-! # O42: CLOSE WINDOW (R153, R155, R158) -/

namespace Sys2Proof.Machine

open Sys2Proof

/-- A request whose owner answers later: the state is the owner's, its slot still taken (R189). -/
theorem request_unanswered {h : Req} {code n : Nat} {owner : Owner} {s u : State} (hs : s.serves h n) (hn : n ≤ 60)
    (ho : owner (s.handedOn h code) = (u, none)) : s.request h code n owner = u := by
  rw [request_served hs hn, ho]

/-! ### CLOSE WINDOW as its owner takes it, row by row -/

section

variable {s : State} {p : Port} {w : Window}

theorem ownCloseWindow_rest (hp : s.power.part = .rest) : ownCloseWindow p s = s.answer .resting [] := if_pos hp

theorem ownCloseWindow_none (hp : s.power.part ≠ .rest) (hw : s.window p = none) :
    ownCloseWindow p s = s.answer .badState [] := by
  rw [ownCloseWindow, if_neg hp, hw]

theorem ownCloseWindow_read (hp : s.power.part ≠ .rest) (hw : s.window p = some w) (hm : w.mode = .read) :
    ownCloseWindow p s = (s.shutWindow p).settle.answer .ok w.readResults := by
  rw [ownCloseWindow, if_neg hp, hw]
  dsimp only
  rw [hm]

theorem ownCloseWindow_empty (hp : s.power.part ≠ .rest) (hw : s.window p = some w) (hm : w.mode = .write)
    (hb : w.buf = []) : ownCloseWindow p s = (s.shutWindow p).settle.answer .ok w.writeResults := by
  rw [ownCloseWindow, if_neg hp, hw]
  dsimp only
  rw [hm, hb]

theorem ownCloseWindow_held (hp : s.power.part ≠ .rest) (hw : s.window p = some w) (hm : w.mode = .write)
    (hb : w.buf ≠ []) : ownCloseWindow p s = ((s.closeCommit p w).settle, none) := by
  obtain ⟨x, xs, hx⟩ := List.exists_cons_of_ne_nil hb
  rw [ownCloseWindow, if_neg hp, hw]
  dsimp only
  rw [hm, hx]

/-! ### The commit that a close makes or awaits (R153, R155) -/

theorem setWindow_setWindow (p : Port) (v w : Option Window) (s : State) :
    (s.setWindow p v).setWindow p w = s.setWindow p w := by cases p <;> rfl

theorem free_setWindow (p : Port) (w : Option Window) (s : State) : (s.setWindow p w).mem.free = s.mem.free := by
  cases p <;> rfl

theorem windowTimeout_setWindow (p q : Port) (w : Option Window) (s : State) :
    (s.setWindow p w).windowTimeout q = s.windowTimeout q := by cases p <;> cases q <;> rfl

theorem windowTimeout_handedOn (h : Req) (code : Nat) (q : Port) (s : State) :
    (s.handedOn h code).windowTimeout q = s.windowTimeout q := by
  cases q <;> simp [State.windowTimeout]

/-- A block taken between two changes of a window is taken after them as well. -/
theorem setWindow_takes (p : Port) (v w : Option Window) (free : List Nat) (id : Nat) (l : Layer) (s : State) :
    ({ s.setWindow p v with mem := { (s.setWindow p v).mem with free := free } }.setLayer id l).setWindow p w =
      { s.setWindow p w with mem := { (s.setWindow p w).mem with free := free } }.setLayer id l := by cases p <;> rfl

/-- A commit request that stands is awaited. -/
theorem closeCommit_standing (hr : w.req ≠ .absent) :
    s.closeCommit p w = s.setWindow p (some { w with closing := true }) := by
  unfold State.closeCommit
  split
  · next e => exact absurd e hr
  · rfl
  · rfl

theorem closeCommit_absent (hr : w.req = .absent) :
    s.closeCommit p w = (s.setWindow p (some { w with closing := true })).requestCommit p := by
  rw [State.closeCommit, hr]

variable {l : Layer}

/-- A commit request into a range that has its block. -/
theorem requestCommit_placed (hw : s.window p = some w) (hl : s.layer? w.layer = some l)
    (hb : (w.next - w.buf.length) / 4096 < l.extents.length) {n k : Nat} (hn : s.now = n) (hk : s.windowTimeout p = k) :
    s.requestCommit p = s.setWindow p (some { w with req := .waiting n k }) := by
  subst hn hk
  rw [State.requestCommit, hw]
  dsimp only
  rw [hl]
  exact if_neg (by omega)

/-- A commit request that takes the head of the free list for its range (R138). -/
theorem requestCommit_takes (hw : s.window p = some w) (hl : s.layer? w.layer = some l)
    (hb : l.extents.length ≤ (w.next - w.buf.length) / 4096) {blk : Nat} {more : List Nat}
    (hf : s.mem.free = blk :: more) {n k : Nat} (hn : s.now = n) (hk : s.windowTimeout p = k) :
    s.requestCommit p = ({ s with mem := { s.mem with free := more } }.setLayer w.layer
      { l with extents := l.extents ++ [blk] }).setWindow p
        (some { w with req := .waiting n k }) := by
  subst hn hk
  rw [State.requestCommit, hw]
  dsimp only
  rw [hl]
  dsimp only
  rw [if_pos hb, State.allocate, hl, hf]
  cases p <;> rfl

/-- A commit request that finds no block free: the import is discarded (R153). -/
theorem requestCommit_noMemory (hw : s.window p = some w) (hl : s.layer? w.layer = some l)
    (hb : l.extents.length ≤ (w.next - w.buf.length) / 4096) (hf : s.mem.free = []) :
    s.requestCommit p = s.discardImport w.layer .noMemory := by
  rw [State.requestCommit, hw]
  dsimp only
  rw [hl]
  dsimp only
  rw [if_pos hb, State.allocate, hl, hf]

end

/-! ### A window lost while its port closes it (R158, R189) -/

theorem reply_offer (e : Event) (c : PortCtl) : (c.offer e).reply = c.reply := by
  unfold PortCtl.offer PortCtl.enqueue
  (repeat' split) <;> rfl

theorem reply_raise (k : EventKind) (t : Option TrackId) (l : Option Nat) (d : Nat) (p : Port) (s : State) :
    ((s.raise k t l d).port p).reply = (s.port p).reply := by
  cases p <;> exact reply_offer _ _

theorem port_setPort_ne {p q : Port} (h : p ≠ q) (c : PortCtl) (s : State) : (s.setPort q c).port p = s.port p := by
  cases p <;> cases q <;> first | rfl | exact absurd rfl h

theorem reply_completeReply_other {p q : Port} (h : p ≠ q) (st : Status) (l : List Byte) (s : State) :
    ((s.completeReply q st l).port p).reply = (s.port p).reply := by
  unfold State.completeReply
  split
  · rw [State.fillReply, port_setPort_ne h]
  · rfl

/-- The loss of a window leaves the other port's reply slot. -/
theorem reply_loseWindowOn_other {p q : Port} (h : p ≠ q) (id : Nat) (c : LostCause) (s : State) :
    ((s.loseWindowOn id c q).port p).reply = (s.port p).reply := by
  have hraise : ∀ w : Window, ((((s.setWindow q none).setWait (portBackground q) Wait.idle).raise .windowLost none
      (some w.layer) (portCode q + 16 * c.ctorIdx)).port p).reply = (s.port p).reply := fun w => by
    rw [reply_raise, port_setWait, port_setWindow]
  unfold State.loseWindowOn
  split
  · split
    · unfold State.loseWindow
      split
      · rfl
      · dsimp only
        split
        · exact (reply_completeReply_other h _ _ _).trans (hraise _)
        · exact hraise _
    · rfl
  · rfl

/-- The window that a CLOSE WINDOW waits on, lost with no block free, fills the reply NO_MEMORY (R158). -/
theorem reply_loseWindowOn {p : Port} {w : Window} {s : State} {tag code : Byte} (hw : s.window p = some w)
    (hc : w.closing = true) (hr : (s.port p).reply = .pending tag code) :
    ((s.loseWindowOn w.layer .noMemory p).port p).reply =
      .full { status := .noMemory, tag := tag, code := code, results := w.writeResults } := by
  have hu : ((((s.setWindow p none).setWait (portBackground p) Wait.idle).raise .windowLost none (some w.layer)
      (portCode p + 16 * LostCause.noMemory.ctorIdx)).port p).reply = .pending tag code := by
    rw [reply_raise, port_setWait, port_setWindow, hr]
  rw [State.loseWindowOn, hw]
  dsimp only
  rw [if_pos rfl, State.loseWindow, hw]
  dsimp only
  rw [if_pos hc, if_pos rfl, State.completeReply, hu]
  exact congrArg PortCtl.reply (port_setPort _ _ _)

theorem window_loseWindowOn_other {p q : Port} (h : p ≠ q) (id : Nat) (c : LostCause) (s : State) :
    (s.loseWindowOn id c q).window p = s.window p := by
  obtain ⟨m, a, b, -, -, -, -, -, hwin, -⟩ := loseWindowOn_eq id c q s
  rw [hwin, if_neg h]

theorem reply_loseWindowsOn {p : Port} {w : Window} {s : State} {tag code : Byte} (hw : s.window p = some w)
    (hc : w.closing = true) (hr : (s.port p).reply = .pending tag code) :
    ((s.loseWindowsOn w.layer .noMemory).port p).reply =
      .full { status := .noMemory, tag := tag, code := code, results := w.writeResults } := by
  unfold State.loseWindowsOn
  cases p with
  | a => rw [reply_loseWindowOn_other (by decide), reply_loseWindowOn hw hc hr]
  | b =>
    refine reply_loseWindowOn ?_ hc ?_
    · rw [window_loseWindowOn_other (by decide), hw]
    · rw [reply_loseWindowOn_other (by decide), hr]

/-! ### An import discarded (R153) -/

/-- What a change of tracks and an event raised leave: the layer records, the windows, the memory and a port's reply. -/
def State.windowSide (p : Port) (s : State) : List (Nat × Layer) × MemCtl × ReplySlot := (s.layers, s.mem, (s.port p).reply)

theorem windowSide_trackTail (p : Port) (t : TrackId) (f : Track → Track) (old : Track) (s : State) :
    (((s.modTrack t f).settleTrack t).noteTrack t old).windowSide p = s.windowSide p := by
  have hset : ((s.modTrack t f).settleTrack t).windowSide p = s.windowSide p := by
    unfold State.settleTrack
    dsimp only
    split <;> cases p <;> rfl
  unfold State.noteTrack
  split
  · exact hset
  · refine Eq.trans ?_ hset
    cases p <;> exact congrArg (fun r => (_, _, r)) (reply_offer _ _)

/-- The import of a closing WRITE window discarded: window and layer are gone, the layer's blocks are back, and the reply
says NO_MEMORY (R153, R158). -/
theorem discardImport_closing {p : Port} {w : Window} {l : Layer} {s : State} {tag code : Byte}
    (hs : s.layers.Pairwise (fun e f => e.1 < f.1)) (hw : s.window p = some w) (hl : s.layer? w.layer = some l)
    (hc : w.closing = true) (hr : (s.port p).reply = .pending tag code) :
    (s.discardImport w.layer .noMemory).window p = none ∧ (s.discardImport w.layer .noMemory).layer? w.layer = none
      ∧ (s.discardImport w.layer .noMemory).mem.free =
        s.mem.free ++ l.extents.filter (fun b => !l.suspects.contains b)
      ∧ ((s.discardImport w.layer .noMemory).port p).reply =
        .full { status := .noMemory, tag := tag, code := code, results := w.writeResults } := by
  have hside : (s.discardImport w.layer .noMemory).windowSide p = (s.freeLayer .noMemory w.layer).windowSide p := by
    rw [State.discardImport, hl]
    exact windowSide_trackTail _ _ _ _ _
  simp only [State.windowSide, Prod.mk.injEq] at hside
  obtain ⟨hlayers, hmem, hreply⟩ := hside
  have hfreed := freedAs_freeLayer (c := .noMemory) hs hl
  refine ⟨?_, ?_, ?_, ?_⟩
  · have hwin : (s.discardImport w.layer .noMemory).window p = (s.freeLayer .noMemory w.layer).window p := by
      cases p with
      | a => exact congrArg MemCtl.windowA hmem
      | b => exact congrArg MemCtl.windowB hmem
    rw [hwin, hfreed.win, hw]
    exact if_pos List.mem_cons_self
  · rw [State.layer?, hlayers]
    exact (hfreed.layer _).trans (if_pos List.mem_cons_self)
  · rw [hmem, hfreed.free]
    simp [hl]
  · rw [hreply]
    have hport : ((s.freeLayer .noMemory w.layer).port p).reply = ((s.loseWindowsOn w.layer .noMemory).port p).reply := by
      rw [State.freeLayer, hl]
      cases p <;> rfl
    rw [hport, reply_loseWindowsOn hw hc hr]

/-- Settles O42, row by row. -/
theorem closeWindowCloses : Obligations.CloseWindowCloses := by
  unfold Obligations.CloseWindowCloses
  intro h s hs
  have answered : ∀ {u : State} {st : Status} {l : List Byte},
      ownCloseWindow h.port (s.handedOn h 81) = u.answer st l → exec (.closeWindow h) s = .next (u.replied h 81 st l) :=
    fun ho => congrArg _ (request_answered hs (by decide) ho)
  have awaited : ∀ {u : State}, ownCloseWindow h.port (s.handedOn h 81) = (u, none) →
      exec (.closeWindow h) s = .next u := fun ho => congrArg _ (request_unanswered hs (by decide) ho)
  refine ⟨fun hp => ?_, fun hp hw => ?_, fun w hp hw shut hshut => ?_⟩
  · exact answered (ownCloseWindow_rest (by simpa using hp))
  · exact answered (ownCloseWindow_none (by simpa using hp) (by simpa using hw))
  have hp' : (s.handedOn h 81).power.part ≠ .rest := by simpa using hp
  have hw' : (s.handedOn h 81).window h.port = some w := by simpa using hw
  have hshut' : shut = (s.handedOn h 81).shutWindow h.port := by
    rw [hshut, State.shutWindow]
    cases h.port <;> rfl
  refine ⟨fun hm hd => ?_, fun hm hrev hdone => ?_, fun hm hb => ?_, fun hm hb hr => ?_, fun l o v hm hb hr hl ho hv => ?_⟩
  · rw [hshut', answered (ownCloseWindow_read hp' hw' hm), Window.readResults, if_neg hd]
  · rw [hshut', answered (ownCloseWindow_read hp' hw' hm), Window.readResults, if_pos ⟨hrev, hdone⟩]
  · rw [hshut', answered (ownCloseWindow_empty hp' hw' hm hb), Window.writeResults, hb]
    rfl
  · rw [awaited (ownCloseWindow_held hp' hw' hm hb), closeCommit_standing hr]
  · have hcommit := awaited (ownCloseWindow_held hp' hw' hm hb)
    rw [closeCommit_absent hr] at hcommit
    have hwin : ((s.handedOn h 81).setWindow h.port (some { w with closing := true })).window h.port =
        some { w with closing := true } := window_setWindow _ _ _
    have hlay : ((s.handedOn h 81).setWindow h.port (some { w with closing := true })).layer? w.layer = some l := by
      simpa [State.layer?] using hl
    have hnow : ((s.handedOn h 81).setWindow h.port (some { w with closing := true })).now = s.now := by simp
    have hlimit : ((s.handedOn h 81).setWindow h.port (some { w with closing := true })).windowTimeout h.port =
        s.windowTimeout h.port := by rw [windowTimeout_setWindow, windowTimeout_handedOn]
    refine ⟨fun hx => ?_, fun blk more hx hf => ?_, fun hx hf hsort => ?_⟩
    · rw [hcommit, requestCommit_placed hwin hlay (by rwa [← ho]) hnow hlimit, setWindow_setWindow, hv]
    · have hfree : ((s.handedOn h 81).setWindow h.port (some { w with closing := true })).mem.free = blk :: more := by
        rw [free_setWindow, mem_handedOn, hf]
      rw [hcommit, requestCommit_takes hwin hlay (by rwa [← ho]) hfree hnow hlimit, setWindow_takes, hv]
    · have hfree : ((s.handedOn h 81).setWindow h.port (some { w with closing := true })).mem.free = [] := by
        rw [free_setWindow, mem_handedOn, hf]
      rw [requestCommit_noMemory hwin hlay (by rwa [← ho]) hfree] at hcommit
      obtain ⟨hgone, habsent, hback, hreply⟩ := discardImport_closing (tag := h.tag) (code := 81) (by simpa using hsort)
        hwin hlay rfl (by rw [port_setWindow, port_handedOn]; rfl)
      refine ⟨_, hcommit, hgone, habsent, ?_, ?_⟩
      · rw [hback, hfree, List.nil_append]
      · rw [hreply, Window.writeResults, ho]

end Sys2Proof.Machine


/-! # O43: IMPORT LAYER (R26, R28, R30, R156) -/

namespace Sys2Proof.Machine

open Sys2Proof

/-! ### The arguments (R156) -/

theorem argTrack_of_val {b : Byte} {t : TrackId} (h : b.toNat = t.val) : argTrack b = some t := by
  unfold argTrack
  rw [dif_pos (h ▸ t.isLt)]
  exact congrArg some (Fin.ext h)

theorem argTrack_none {b : Byte} (h : 6 ≤ b.toNat) : argTrack b = none := dif_neg (by omega)

theorem argSpan_of_mem {b : Byte} {n : Nat} (h : b.toNat = n) (hn : n ∈ [1, 2, 4, 8]) : argSpan b = some n := by
  subst h
  exact if_pos (by simpa using hn)

theorem argSpan_none {b : Byte} (h : b.toNat ∉ [1, 2, 4, 8]) : argSpan b = none := if_neg (by simpa using h)

theorem argFlag_of_val {b : Byte} {f : Bool} (h : b.toNat = if f = true then 1 else 0) : argFlag b = some f := by
  unfold argFlag
  rw [h]
  cases f <;> rfl

section

variable {tb sb cb : Byte} {start len g : Nat}

theorem argImport_some {t : TrackId} {span : Nat} {cover : Bool} (ht : argTrack tb = some t) (hs : argSpan sb = some span)
    (hc : argFlag cb = some cover) (hn : len ≠ 0) : argImport tb sb start len cb g =
      some { track := t, span := span, start := start, length := len, cover := cover, gain := max 64 g } := by
  rw [argImport, ht, hs, hc]
  exact if_neg hn

theorem argImport_none (h : 6 ≤ tb.toNat ∨ sb.toNat ∉ [1, 2, 4, 8] ∨ len = 0 ∨ 1 < cb.toNat) :
    argImport tb sb start len cb g = none := by
  unfold argImport
  split
  · next ht hs hc =>
    obtain h | h | h | h := h
    · rw [argTrack_none h] at ht
      cases ht
    · rw [argSpan_none h] at hs
      cases hs
    · exact if_pos h
    · rw [argFlag_none h] at hc
      cases hc
  · rfl

end

/-! ### What refuses an import, row by row of R156's table -/

/-- The span that an import's range must fit: the one given on an EMPTY track, and the track's otherwise (R156). -/
def State.importSpan (s : State) (i : Import) : Nat :=
  if (s.track i.track).state = .empty then i.span else (s.track i.track).span.getD i.span

/-- An EMPTY track that holds an import under another held span (R26, R156). -/
def State.OtherSpan (s : State) (i : Import) : Prop :=
  (s.track i.track).state = .empty ∧ s.holdsImport i.track = true ∧ (s.track i.track).heldSpan ≠ some i.span

section

variable {s : State} {p : Port} {i : Import}

theorem importRefusal_cycle (hc : s.cycle.state = .empty ∨ s.cycle.state = .defining) :
    s.importRefusal p i = some .badState := if_pos hc

variable (hc : ¬ (s.cycle.state = .empty ∨ s.cycle.state = .defining))

include hc

theorem importRefusal_track (ht : (s.track i.track).state ≠ .empty ∧ (s.track i.track).state ≠ .playing) :
    s.importRefusal p i = some .badState := (if_neg hc).trans (if_pos ht)

variable (ht : ¬ ((s.track i.track).state ≠ .empty ∧ (s.track i.track).state ≠ .playing))

include ht

theorem importRefusal_busy (hw : (s.window p).isSome = true) : s.importRefusal p i = some .busy :=
  (if_neg hc).trans ((if_neg ht).trans (if_pos hw))

variable (hw : s.window p = none)

include hw

theorem importRefusal_held (ho : s.OtherSpan i) : s.importRefusal p i = some .badArg :=
  (if_neg hc).trans ((if_neg ht).trans ((if_neg (by simp [hw])).trans (if_pos ho)))

variable (ho : ¬ s.OtherSpan i)

include ho

theorem importRefusal_range (hr : s.importSpan i * s.cycle.shownLen < i.start + i.length) :
    s.importRefusal p i = some .badArg :=
  (if_neg hc).trans ((if_neg ht).trans ((if_neg (by simp [hw])).trans ((if_neg ho).trans (if_pos hr))))

theorem importRefusal_none (hr : ¬ s.importSpan i * s.cycle.shownLen < i.start + i.length) :
    s.importRefusal p i = none :=
  (if_neg hc).trans ((if_neg ht).trans ((if_neg (by simp [hw])).trans ((if_neg ho).trans (if_neg hr))))

end

/-! ### IMPORT LAYER as its owner takes it -/

section

variable {s : State} {p : Port} {arg : Option Import} {i : Import} {st : Status}

theorem ownImportLayer_rest (hp : s.power.part = .rest) : ownImportLayer p arg s = s.answer .resting [] := if_pos hp

variable (hp : s.power.part ≠ .rest)

include hp

theorem ownImportLayer_badArg (ha : arg = none) : ownImportLayer p arg s = s.answer .badArg [] := by
  unfold ownImportLayer
  rw [if_neg hp, ha]

theorem ownImportLayer_refused (ha : arg = some i) (hr : s.importRefusal p i = some st) :
    ownImportLayer p arg s = s.answer st [] := by
  unfold ownImportLayer
  rw [if_neg hp, ha]
  dsimp only
  rw [hr]

theorem ownImportLayer_noRoom (ha : arg = some i) (hr : s.importRefusal p i = none)
    (ht : s.takeRoom i.track = .error st) : ownImportLayer p arg s = s.answer st [] := by
  unfold ownImportLayer
  rw [if_neg hp, ha]
  dsimp only
  rw [hr]
  dsimp only
  rw [ht]

theorem ownImportLayer_admitted (ha : arg = some i) (hr : s.importRefusal p i = none) {v : State} {id : Nat}
    (ht : s.takeRoom i.track = .ok (v, id)) :
    ownImportLayer p arg s = (v.placeImport p id i).settle.answer .ok (codeByte id) := by
  unfold ownImportLayer
  rw [if_neg hp, ha]
  dsimp only
  rw [hr]
  dsimp only
  rw [ht]

end

/-! ### What an admission leaves (R30) -/

theorem allocate_sorted {s u : State} {id : Nat} (e : s.allocate id = some u)
    (h : s.layers.Pairwise (fun x y => x.1 < y.1)) : u.layers.Pairwise (fun x y => x.1 < y.1) := by
  unfold State.allocate at e
  split at e
  · obtain rfl := Option.some.inj e
    exact insert_sorted h
  · cases e

/-- A burst of a fold begun with a block to be had keeps the layer records in order. -/
theorem beginFoldBurst_sorted {s : State} {f : Fold} (hf : s.fold = some f) (ha : s.allocate f.result ≠ none)
    (h : s.layers.Pairwise (fun x y => x.1 < y.1)) : s.beginFoldBurst.layers.Pairwise (fun x y => x.1 < y.1) := by
  unfold State.beginFoldBurst
  rw [hf]
  dsimp only
  split
  · next hn =>
    split at hn
    · exact absurd hn ha
    · cases hn
  · next v hv =>
    have hk : v.layers.Pairwise (fun x y => x.1 < y.1) := by
      split at hv
      · exact allocate_sorted hv h
      · exact Option.some.inj hv ▸ h
    split <;> exact hk

/-- A fold started with a block to be had keeps the layer records in order. -/
theorem startFold_sorted {s : State} {t : TrackId} {a b rid : Nat} {rest : List Entry} (hm : s.mem.free ≠ [])
    (h : s.layers.Pairwise (fun x y => x.1 < y.1)) :
    (s.startFold t a b rid rest).layers.Pairwise (fun x y => x.1 < y.1) := by
  unfold State.startFold
  split
  · dsimp only
    refine beginFoldBurst_sorted rfl ?_ (insert_sorted (insert_sorted (insert_sorted h)))
    exact allocate_ne_none (layer?_setLayer_same rid _ _) hm
  · exact h

/-- What an admission leaves of the tracks and of the order of the layer records, with a fold started or without. -/
structure RoomTaken (t : TrackId) (s v : State) : Prop where
  track : v.track t = { s.track t with stack := (v.track t).stack }
  tracks : ∀ t', t' ≠ t → v.track t' = s.track t'
  sorted : s.layers.Pairwise (fun x y => x.1 < y.1) → v.layers.Pairwise (fun x y => x.1 < y.1)

theorem takeRoom_taken {t : TrackId} {id : Nat} {s v : State} (e : s.takeRoom t = .ok (v, id)) : RoomTaken t s v := by
  unfold State.takeRoom at e
  split at e
  · cases e
  · next rid hid =>
    dsimp only at e
    split at e
    · obtain ⟨rfl, -⟩ := Prod.mk.inj (Except.ok.inj e)
      exact ⟨rfl, fun _ _ => rfl, fun h => h⟩
    · split at e
      · split at e
        · next hc =>
          split at e
          · obtain ⟨rfl, -⟩ := Prod.mk.inj (Except.ok.inj e)
            simp only [Bool.and_eq_true, isClosed_iff] at hc
            obtain ⟨⟨⟨⟨-, la, hla, -⟩, lb, hlb, -⟩, hm⟩, -⟩ := hc
            have hm : s.mem.free ≠ [] := by simpa using hm
            obtain ⟨blk, more, hfree⟩ := List.exists_cons_of_ne_nil hm
            have hs := fun rest => startFold_started (t := t) (rest := rest) hla hlb (layer?_freeId hid) hfree
            refine ⟨?_, fun t' ht => ?_, startFold_sorted hm⟩
            · rw [(hs _).track, if_pos rfl]
            · rw [(hs _).track, if_neg (Ne.symm ht)]
          · cases e
        · cases e
      · cases e

/-! ### What the placing of an import leaves (R156) -/

theorem freeAll_gone_of_sorted (c : LostCause) {j : Nat} (ids : List Nat) :
    ∀ {s : State}, s.layers.Pairwise (fun x y => x.1 < y.1) → j ∈ ids → (s.freeAll c ids).layer? j = none := by
  induction ids with
  | nil => exact fun _ h => absurd h List.not_mem_nil
  | cons id ids ih =>
    intro s hs hj
    obtain rfl | hj := List.mem_cons.mp hj
    · exact (Clearing.freeAll c ids (Clearing.refl _)).absent _ (freeLayer_gone c _ hs)
    · refine ih ?_ hj
      cases hl : s.layer? id with
      | none => rwa [freeLayer_none hl]
      | some l => exact (freedAs_freeLayer hs hl).sorted hs

theorem freeRedo_gone {t : TrackId} {j : Nat} {s : State} (hs : s.layers.Pairwise (fun x y => x.1 < y.1))
    (hj : j ∈ (s.track t).redo) : (s.freeRedo t).layer? j = none := by
  unfold State.freeRedo
  dsimp only
  rw [layer?_modTrack]
  exact freeAll_gone_of_sorted _ _ hs (List.mem_reverse.mpr hj)

/-- The layer record of an import as it is made. -/
def Import.layer (p : Port) (i : Import) : Layer :=
  { Layer.fresh i.track .importing .imported (.at i.start) i.cover false with
    length := i.length, gain := i.gain, creator := some p }

/-- The state with an import's layer, its track and its window in place, where `v` was, apart from the redo list freed. -/
structure ImportPlaced (p : Port) (id : Nat) (i : Import) (v u : State) : Prop where
  layer : u.layer? id = some (i.layer p)
  gone : v.layers.Pairwise (fun x y => x.1 < y.1) → ∀ j ∈ (v.track i.track).redo, j ≠ id → u.layer? j = none
  stack : (u.track i.track).stack = (v.track i.track).stack ++ [.single id]
  redo : (u.track i.track).redo = []
  state : (u.track i.track).state = (v.track i.track).state
  span : (u.track i.track).span = (v.track i.track).span
  held : (v.track i.track).state = .empty → (u.track i.track).heldSpan = some i.span
  tracks : ∀ t', t' ≠ i.track → u.track t' = v.track t'
  window : u.window p = some (Window.opened id .write .forward 0)
  cycle : u.cycle = v.cycle
  words : u.mem.words = v.mem.words

theorem track_setWindow (p : Port) (w : Option Window) (t : TrackId) (s : State) : (s.setWindow p w).track t = s.track t := by
  cases p <;> rfl

theorem layer?_setWindow (p : Port) (w : Option Window) (j : Nat) (s : State) : (s.setWindow p w).layer? j = s.layer? j := by
  cases p <;> rfl

theorem placeImport_placed (p : Port) (id : Nat) (i : Import) (v : State) :
    ImportPlaced p id i v (v.placeImport p id i) := by
  have hown : (v.placeImport p id i).track i.track = { (v.freeRedo i.track).track i.track with
      stack := ((v.freeRedo i.track).track i.track).stack ++ [.single id]
      heldSpan := if ((v.freeRedo i.track).track i.track).state = .empty then some i.span
        else ((v.freeRedo i.track).track i.track).heldSpan } := by
    unfold State.placeImport
    dsimp only
    rw [track_setWindow, track_modTrack, if_pos rfl]
    rfl
  rw [freeRedo_track, if_pos rfl] at hown
  have hlayer : ∀ j, (v.placeImport p id i).layer? j =
      if j = id then some (i.layer p) else (v.freeRedo i.track).layer? j := fun j => by
    unfold State.placeImport
    dsimp only
    rw [layer?_setWindow, layer?_modTrack, layer?_setLayer]
    rfl
  constructor
  · rw [hlayer, if_pos rfl]
  · intro hs j hj hne
    rw [hlayer, if_neg hne, freeRedo_gone hs hj]
  · rw [hown]
  · rw [hown]
  · rw [hown]
  · rw [hown]
  · intro he
    rw [hown]
    exact if_pos he
  · intro t' ht
    unfold State.placeImport
    dsimp only
    rw [track_setWindow, track_modTrack, if_neg (Ne.symm ht)]
    exact (freeRedo_track _ _ _).trans (if_neg (Ne.symm ht))
  · exact window_setWindow _ _ _
  · unfold State.placeImport
    dsimp only
    rw [cycle_setWindow, cycle_modTrack, cycle_setLayer]
    exact freeRedo_sameCycle _ _
  · simp [State.placeImport]

/-! ### O43 -/

theorem holdsImport_iff {s : State} {t : TrackId} : s.holdsImport t = true ↔
    ∃ i ∈ stackIds (s.track t).stack, ∃ l, s.layer? i = some l ∧ l.state = .importing := by
  unfold State.holdsImport
  rw [List.any_eq_true]
  refine exists_congr fun i => and_congr_right fun _ => ?_
  unfold State.isImporting
  split
  · next l hl => simp [hl]
  · next hl => simp [hl]

theorem importRefusal_handedOn (h : Req) (code : Nat) (p : Port) (i : Import) (s : State) :
    (s.handedOn h code).importRefusal p i = s.importRefusal p i := by
  simp only [State.importRefusal, track_handedOn, cycle_handedOn, window_handedOn, holdsImport_handedOn]

/-- What an admitted import leaves, seen from the state before the request. -/
structure Imported (h : Req) (i : Import) (id : Nat) (s v u : State) : Prop where
  placed : ImportPlaced h.port id i v u
  room : RoomTaken i.track s v
  cycle : v.cycle = s.cycle
  words : v.mem.words = s.mem.words

/-- An import that nothing refuses is admitted (R156). -/
theorem exec_importLayer_admitted {h : Req} {tb sb cb : Byte} {start length : BitVec 32} {g : BitVec 16} {s v : State}
    {i : Import} {id : Nat} (hs : s.serves h 13) (hp : s.power.part ≠ .rest)
    (ha : argImport tb sb start.toNat length.toNat cb g.toNat = some i) (hr : s.importRefusal h.port i = none)
    (hd : s.cycle.state ≠ .defining) (ht : (s.handedOn h 82).takeRoom i.track = .ok (v, id)) :
    ∃ u : State, exec (.importLayer h tb sb start length cb g) s = .next (u.settle.replied h 82 .ok (bytes 1 id))
      ∧ Imported h i id s v u := by
  refine ⟨v.placeImport h.port id i, congrArg _ (request_answered hs (by decide) ?_), placeImport_placed _ _ _ _, ?_, ?_, ?_⟩
  · exact ownImportLayer_admitted (by simpa using hp) ha ((importRefusal_handedOn _ _ _ _ _).trans hr) ht
  · obtain ⟨htrack, htracks, hsorted⟩ := takeRoom_taken ht
    refine ⟨?_, fun t' hne => ?_, fun hsort => hsorted (by simpa using hsort)⟩
    · rw [htrack, track_handedOn]
    · rw [htracks t' hne, track_handedOn]
  · rw [(((RestKept.refl (s.handedOn h 82)).takeRoom ht).quiet (by simpa using hd)).1, cycle_handedOn]
  · rw [takeRoom_words _ _ _ _ ht, mem_handedOn]

theorem not_emptyOrDefining {c : Cycle} (h : c.state = .running ∨ c.state = .paused) :
    ¬ (c.state = .empty ∨ c.state = .defining) := by
  obtain e | e := h <;> simp [e]

theorem importSpan_eq {i : Import} {S : Nat} {s : State} (h : (s.track i.track).state = .empty ∧ S = i.span
    ∨ (s.track i.track).state = .playing ∧ (s.track i.track).span = some S) : s.importSpan i = S := by
  unfold State.importSpan
  obtain ⟨he, hS⟩ | ⟨hp, hS⟩ := h
  · rw [if_pos he, hS]
  · rw [hp, hS]
    rfl

/-- The rows of R156's table that speak of an EMPTY or PLAYING track do not refuse it for its state. -/
theorem importTrack_stands {i : Import} {S : Nat} {s : State} (h : (s.track i.track).state = .empty ∧ S = i.span
    ∨ (s.track i.track).state = .playing ∧ (s.track i.track).span = some S) :
    ¬ ((s.track i.track).state ≠ .empty ∧ (s.track i.track).state ≠ .playing) := fun hne =>
  h.elim (fun e => hne.1 e.1) fun e => hne.2 e.1

/-- An import that fits an EMPTY or PLAYING track of a RUNNING or PAUSED cycle is not refused before admission (R156). -/
theorem importRefusal_fits {p : Port} {i : Import} {S len : Nat} {s : State}
    (hcyc : s.cycle.state = .running ∨ s.cycle.state = .paused) (hcl : s.cycle.len = some len)
    (htrack : (s.track i.track).state = .empty ∧ S = i.span
      ∨ (s.track i.track).state = .playing ∧ (s.track i.track).span = some S)
    (hw : s.window p = none) (ho : ¬ s.OtherSpan i) (hfit : i.start + i.length ≤ S * len) :
    s.importRefusal p i = none := by
  refine importRefusal_none (not_emptyOrDefining hcyc) (importTrack_stands htrack) hw ho ?_
  rw [importSpan_eq htrack, Cycle.shownLen, hcl]
  exact Nat.not_lt.mpr hfit

/-- Settles O43, row by row of R156's table. -/
theorem importLayerOpensAWriteWindow : Obligations.ImportLayerOpensAWriteWindow := by
  unfold Obligations.ImportLayerOpensAWriteWindow
  intro h tb sb cb start length g t span len id cover s hs
  have answered : ∀ {st : Status}, ownImportLayer h.port (argImport tb sb start.toNat length.toNat cb g.toNat)
      (s.handedOn h 82) = (s.handedOn h 82).answer st [] →
      exec (.importLayer h tb sb start length cb g) s = .next ((s.handedOn h 82).replied h 82 st []) :=
    fun ho => congrArg _ (request_answered hs (by decide) ho)
  obtain ⟨i, hi⟩ : ∃ i : Import, i =
      { track := t, span := span, start := start.toNat, length := length.toNat, cover, gain := max 64 g.toNat } :=
    ⟨_, rfl⟩
  have hit : t = i.track := by rw [hi]
  have his : span = i.span := by rw [hi]
  have hir : start.toNat + length.toNat = i.start + i.length := by rw [hi]
  have hil : some (i.layer h.port) = some { Layer.fresh t .importing .imported (.at start.toNat) cover false with
      length := length.toNat, gain := max 64 g.toNat, creator := some h.port } := by
    rw [hi]
    rfl
  refine ⟨fun hp => ?_, fun hp htb hsb hcb hlen hcyc hcl htr hfit hw hn hredo hid => ?_, fun S refused hp hrefused =>
    ⟨fun hbad => ?_, fun htb hsb hspan hlen hcb => ?_⟩⟩
  · exact answered (ownImportLayer_rest (by simpa using hp))
  · have ha := argImport_some (start := start.toNat) (g := g.toNat) htb hsb hcb hlen
    rw [← hi] at ha
    rw [← hil]
    subst hit
    have htrack := htr.imp_left fun e => And.intro e.1 his
    have hr : s.importRefusal h.port i = none := by
      refine importRefusal_fits hcyc hcl htrack hw ?_ (hir ▸ hfit)
      rintro ⟨he, hh, -⟩
      obtain ⟨-, hf⟩ | ⟨hp, -⟩ := htr
      · exact absurd hh (by simp [hf])
      · exact absurd he (by simp [hp])
    obtain ⟨u, hu, hplaced, -, hcycle, hwords⟩ := exec_importLayer_admitted (v := s.handedOn h 82) (id := id) hs hp
      ha hr (fun e => not_emptyOrDefining hcyc (.inr e))
      (takeRoom_room ((freeId_beside (.handedOn h 82 s)).trans hid) (by simpa using hn))
    obtain ⟨hlayer, -, hstack, -, hstate, -, hheld, htracks, hwindow, hcyc', hwords'⟩ := hplaced
    rw [track_handedOn] at hstack hstate hheld
    refine ⟨u, hu, hlayer, hstack, hstate, his ▸ hheld, fun t' ht' => ?_, hwindow, hcyc'.trans hcycle,
      hwords'.trans hwords⟩
    rw [htracks t' ht', track_handedOn]
  · rw [hrefused]
    exact answered (ownImportLayer_badArg (by simpa using hp) (argImport_none hbad))
  · have ha := argImport_some (start := start.toNat) (g := g.toNat) (argTrack_of_val htb) (argSpan_of_mem hsb hspan)
      (argFlag_of_val hcb) hlen
    rw [← hi] at ha
    rw [← hil]
    subst hit hrefused
    have refusedBy : ∀ {st : Status}, s.importRefusal h.port i = some st →
        exec (.importLayer h tb sb start length cb g) s = .next ((s.handedOn h 82).replied h 82 st []) := fun hr =>
      answered (ownImportLayer_refused (by simpa using hp) ha ((importRefusal_handedOn _ _ _ _ _).trans hr))
    refine ⟨fun hc => refusedBy (importRefusal_cycle hc), fun hcyc => ⟨fun he hpl => ?_, fun htr => ⟨fun hw => ?_,
      fun hw other hother => ?_⟩⟩⟩
    · exact refusedBy (importRefusal_track (not_emptyOrDefining hcyc) ⟨he, hpl⟩)
    · exact refusedBy (importRefusal_busy (not_emptyOrDefining hcyc)
        (fun hne => htr.elim (fun e => hne.1 e.1) fun e => hne.2 e.1) (Option.isSome_iff_ne_none.mpr hw))
    have htrack := htr.imp_left fun e => And.intro e.1 (e.2.trans his)
    have hc := not_emptyOrDefining hcyc
    have hother' : other ↔ s.OtherSpan i := by
      rw [hother, State.OtherSpan, holdsImport_iff, ← his]
      exact and_congr_right fun _ => and_comm
    rw [hother']
    refine ⟨fun ho => ?_, fun ho hcl => ?_⟩
    · exact refusedBy (importRefusal_held hc (importTrack_stands htrack) hw ho)
    rw [hir]
    refine ⟨fun hr => ?_, fun hfit => ?_⟩
    · refine refusedBy (importRefusal_range hc (importTrack_stands htrack) hw ho ?_)
      rwa [importSpan_eq htrack, Cycle.shownLen, hcl]
    have hr := importRefusal_fits hcyc hcl htrack hw ho hfit
    refine ⟨fun st hst => ?_, fun v hv => ?_⟩
    · exact answered (ownImportLayer_noRoom (by simpa using hp) ha ((importRefusal_handedOn _ _ _ _ _).trans hr) hst)
    obtain ⟨u, hu, hplaced, ⟨hown, hothers, hsorted⟩, hcycle, hwords⟩ := exec_importLayer_admitted hs hp ha hr
      (fun e => hc (.inr e)) hv
    have hstate : (v.track i.track).state = (s.track i.track).state := by rw [hown]
    have hspan : (v.track i.track).span = (s.track i.track).span := by rw [hown]
    have hredo : (v.track i.track).redo = (s.track i.track).redo := by rw [hown]
    refine ⟨u, hu, hplaced.layer, hplaced.stack, hplaced.redo, hplaced.state.trans hstate, hplaced.span.trans hspan,
      fun he => ?_, fun hsort j hj hne => ?_, fun t' ht' => ?_, hplaced.window, hplaced.cycle.trans hcycle,
      hplaced.words.trans hwords⟩
    · rw [his]
      exact hplaced.held (hstate.trans he)
    · exact hplaced.gone (hsorted hsort) j (hredo ▸ hj) hne
    · exact (hplaced.tracks t' ht').trans (hothers t' ht')

end Sys2Proof.Machine


/-! # O53: the memory's timers (R141, R142, R144, R145, R154, R155) -/

namespace Sys2Proof.Machine

open Sys2Proof

section

variable {s : State}

/-! ### BACKGROUND LOCKOUT and WRITE TIMEOUT (R141, R144, R145) -/

theorem lockout_waiting {who : Background} {t : Nat} (ht : (s.waitOf who).start = some t)
    (hw : s.backgroundWaiting who = true) : s.lockout who =
      if t + 32000 ≤ s.now then s.setWait who { start := some t, raised := true } else s := by
  rw [State.lockout, ht]
  dsimp only
  rw [hw, Bool.true_and]
  exact if_congr decide_eq_true_iff rfl rfl

theorem writeDeadline_nothing (hq : s.mem.queue = []) : s.writeDeadline = s := by
  rw [State.writeDeadline, hq]

theorem writeDeadline_early {b : Burst} {rest : List Burst} (hq : s.mem.queue = b :: rest)
    (ht : s.now < b.queuedAt + 320000) : s.writeDeadline = s := by
  rw [State.writeDeadline, hq]
  exact if_neg (Nat.not_le.mpr ht)

/-- The head burst times out: its offsets are a hole of its layer and a hard fault is taken (R145). -/
theorem writeDeadline_late {b : Burst} {rest : List Burst} {l : Layer} (hq : s.mem.queue = b :: rest)
    (ht : b.queuedAt + 320000 ≤ s.now) (hl : s.layer? b.layer = some l) : s.writeDeadline =
      ((({ s with mem := { s.mem with queue := rest } }).setLayer b.layer (l.addHole
        { first := b.offset
          len := if l.state = LayerState.opened then b.samples.length else min b.samples.length (l.length - b.offset) })).takeFault
        (.met s.cycle.here .writeTimeout .capture (l.blockOf b.offset) b.layer l.track)).settle := by
  have hl' : ({ s with mem := { s.mem with queue := rest } } : State).layer? b.layer = some l := hl
  rw [State.writeDeadline, hq]
  dsimp only
  rw [if_pos (show b.queuedAt + Config.ms 20 ≤ s.now from ht), hl']

/-! ### WINDOW REQUEST TIMEOUT (R154, R155) -/

variable {p : Port} {w : Window} {t limit : Nat}

theorem windowTimedOut_early (hw : s.window p = some w) (hr : w.req = .waiting t limit)
    (ht : ¬ t + 16000 * limit ≤ s.now) : s.windowTimedOut p = s := by
  rw [State.windowTimedOut, hw]
  dsimp only
  rw [hr]
  exact if_neg (by rwa [Config.ms, Config.ticksPerMs, Nat.mul_comm])

theorem windowTimedOut_late (hw : s.window p = some w) (hr : w.req = .waiting t limit) (ht : t + 16000 * limit ≤ s.now)
    {v : State} (hv : v = s.setWindow p (some { w with req := .absent, timedOut := true, closing := false })) :
    s.windowTimedOut p = (if w.closing then v.completeReply p .timeout [] else v).settle := by
  rw [State.windowTimedOut, hw, hv]
  dsimp only
  rw [hr]
  exact if_pos (by rwa [Config.ms, Config.ticksPerMs, Nat.mul_comm])

/-- A completion is discarded where no slot awaits a reply (R189). -/
theorem completeReply_discarded {st : Status} {l : List Byte} (h : ∀ tag code, (s.port p).reply ≠ .pending tag code) :
    s.completeReply p st l = s := by
  unfold State.completeReply
  split
  · next e => exact absurd e (h _ _)
  · rfl

end

/-- Settles O53, timer by timer. -/
theorem memoryTimersAct : Obligations.MemoryTimersAct := by
  unfold Obligations.MemoryTimersAct
  intro s hreset
  have live : ∀ {c : Instr} {f : State → State} {u : State}, exec c s = .next (s.whenLive f) → f s = u →
      exec c s = .next u := fun hc h => hc.trans (congrArg _ ((whenLive_live hreset).trans h))
  refine ⟨fun who t ht hw => live rfl (lockout_waiting ht hw), fun hq => live rfl (writeDeadline_nothing hq),
    fun b rest hq ht => live rfl (writeDeadline_early hq ht), fun b rest l n hq ht hl _ hn => ?_,
    fun p w t limit hw hr hc => ?_, fun p w t limit hw hr hc => ⟨fun ht => ?_, fun ht v hv => ⟨fun tag code hp => ?_,
      fun hp => ?_⟩⟩, fun hm => live rfl (if_pos hm), fun hg => live rfl ?_⟩
  · rw [hn]
    exact live rfl (writeDeadline_late hq ht hl)
  · refine live rfl ?_
    split
    · next ht => rw [windowTimedOut_late hw hr ht rfl, hc]; rfl
    · next ht => exact windowTimedOut_early hw hr ht
  · exact live rfl (windowTimedOut_early hw hr (Nat.not_le.mpr ht))
  · have hport : v.port p = s.port p := by rw [hv, port_setWindow]
    rw [← hport] at hp ⊢
    refine live rfl ?_
    rw [windowTimedOut_late hw hr ht hv, if_pos hc, completeReply_eq, hp]
  · have hport : v.port p = s.port p := by rw [hv, port_setWindow]
    rw [← hport] at hp
    refine live rfl ?_
    rw [windowTimedOut_late hw hr ht hv, if_pos hc, completeReply_discarded hp]
  · rw [State.completeRefresh, hg]
    rfl

end Sys2Proof.Machine


/-! # O55: the start-up test and self-refresh (R159, R160, R207, R210) -/

namespace Sys2Proof.Machine

open Sys2Proof

/-! ### Corrected words of the test (R172, R174, R175) -/

/-- The recorder after `n` corrected words of the test, with the first of them as `c` (R174, R175). -/
def Faults.corrected (c : Occurrence) (n : Nat) (f : Faults) : Faults :=
  { f with
    seenCorrected := true, correctedCount := min 65535 (f.correctedCount + n)
    record := if f.record = none then some (c, (f.seq + 1) % 65536) else f.record
    seq := if f.record = none then (f.seq + 1) % 65536 else f.seq }

/-- The event that the first corrected word seen raises (R180). -/
def Faults.correctedEvent (f : Faults) : Event :=
  { kind := .fault, urgent := false, track := none, layer := none, cue := none, pass := 0, pos := 0
    detail := BitVec.ofNat 16 (80 + if f.record = none then 0 else 768) }

/-- The state after `n` corrected words of the test, where `n` is not 0. -/
def State.correctedTest (c : Occurrence) (n : Nat) (s : State) : State :=
  { s with
    faults := s.faults.corrected c n
    portA := if s.faults.seenCorrected = true then s.portA else s.portA.offer s.faults.correctedEvent
    portB := if s.faults.seenCorrected = true then s.portB else s.portB.offer s.faults.correctedEvent }

section

variable {s : State} {b : Nat}

/-- One corrected word leaves the recorder counted on, with a record. -/
theorem note_capture_corrected (f : Faults) : (f.note .corrected).capture (testOccurrence .corrected b) =
    f.corrected (testOccurrence .corrected b) 1 := by
  cases hr : f.record with
  | none => simp [Faults.note, Faults.capture, Faults.outcome, Faults.corrected, testOccurrence, satInc, hr]
  | some r => simp [Faults.note, Faults.capture, Faults.outcome, Faults.corrected, testOccurrence, satInc, FaultKind.hard, hr]

theorem faultDetail_corrected (f : Faults) :
    faultDetail (testOccurrence .corrected b) (f.outcome .corrected) = 80 + if f.record = none then 0 else 768 := by
  cases hr : f.record with
  | none => simp [Faults.outcome, hr]; rfl
  | some r => simp [Faults.outcome, FaultKind.hard, hr]; rfl

/-- One corrected word of the test. -/
theorem takeFault_corrected :
    s.takeFault (testOccurrence .corrected b) = s.correctedTest (testOccurrence .corrected b) 1 := by
  have hfaults := note_capture_corrected (b := b) s.faults
  have hdetail := faultDetail_corrected (b := b) s.faults
  unfold State.takeFault State.correctedTest
  cases hs : s.faults.seenCorrected with
  | true =>
    rw [if_pos rfl, if_pos rfl, ← hfaults]
    exact if_neg (by simp [testOccurrence, Faults.seen, FaultKind.hard, hs])
  | false =>
    rw [if_neg Bool.false_ne_true, if_neg Bool.false_ne_true, ← hfaults, Faults.correctedEvent, ← hdetail]
    exact if_pos (by simp [testOccurrence, Faults.seen, hs])

/-- Corrected words one after the other are counted together, and only the first is captured and raised. -/
theorem correctedTest_add (c : Occurrence) (n : Nat) :
    (s.correctedTest c 1).correctedTest c n = s.correctedTest c (n + 1) := by
  have hrec : (s.faults.corrected c 1).record ≠ none := by
    unfold Faults.corrected
    dsimp only
    split
    · exact Option.some_ne_none _
    · assumption
  have hcount : min 65535 (min 65535 (s.faults.correctedCount + 1) + n) =
      min 65535 (s.faults.correctedCount + (n + 1)) := by omega
  have hf : (s.faults.corrected c 1).corrected c n = s.faults.corrected c (n + 1) := by
    rw [Faults.corrected, if_neg hrec, if_neg hrec]
    unfold Faults.corrected
    dsimp only
    rw [hcount]
  unfold State.correctedTest
  dsimp only
  rw [hf]
  rfl

theorem testCorrected_eq {n : Nat} (hn : n ≠ 0) :
    s.testCorrected b n = s.correctedTest (testOccurrence .corrected b) n := by
  induction n generalizing s with
  | zero => exact absurd rfl hn
  | succ n ih =>
    rw [State.testCorrected, takeFault_corrected]
    cases n with
    | zero => rfl
    | succ n => rw [ih (Nat.succ_ne_zero n), correctedTest_add]

/-! ### BLOCK TEST (R159) -/

theorem testBlock_passed {n : Nat} (hm : s.mem.mode = .test) (ht : s.mem.testNext < 4096) : s.testBlock n true =
    { s.testCorrected s.mem.testNext n with mem := { (s.testCorrected s.mem.testNext n).mem with
        testNext := s.mem.testNext + 1
        free := (s.testCorrected s.mem.testNext n).mem.free ++ [s.mem.testNext] } } := if_pos ⟨hm, ht⟩

theorem testBlock_failed {n : Nat} (hm : s.mem.mode = .test) (ht : s.mem.testNext < 4096) : s.testBlock n false =
    { s.testCorrected s.mem.testNext n with mem := { (s.testCorrected s.mem.testNext n).mem with
        testNext := s.mem.testNext + 1
        bad := addBad s.mem.testNext (s.testCorrected s.mem.testNext n).mem.bad } }.takeFault
      (testOccurrence .uncorrectable s.mem.testNext) := if_pos ⟨hm, ht⟩

/-! ### Nothing to settle, nothing to close -/

/-- A part with no layer, no fold, no window, no capture record and no wait. -/
structure Bare (s : State) : Prop where
  layers : s.layers = []
  fold : s.fold = none
  window : ∀ p, s.window p = none
  records : ∀ i : Fin 12, s.capture.records[i] = none
  waits : ∀ who, s.waitOf who = Wait.idle

theorem refillAll_bare (h : ∀ i : Fin 12, s.capture.records[i] = none) : s.refillAll = s := by
  have hrec : s.refillAll.capture.records = s.capture.records := by
    refine Vector.ext fun i hi => ?_
    have hr := refillAll_record s ⟨i, hi⟩
    rw [h ⟨i, hi⟩] at hr
    exact hr.trans (h ⟨i, hi⟩).symm
  calc s.refillAll = { s with capture := { s.capture with records := s.refillAll.capture.records } } := rfl
    _ = s := by rw [hrec]

theorem settleWait_bare (h : Bare s) (who : Background) : s.settleWait who = s := by
  have hw : s.backgroundWaiting who = false := by
    have hwin : ∀ p, s.windowWaiting p = false := fun p => by
      simp [State.windowWaiting, State.windowReady, State.commitWaiting, h.window p]
    cases who with
    | fold => simp [State.backgroundWaiting, State.foldWaiting, h.fold]
    | windowA => exact hwin .a
    | windowB => exact hwin .b
  have hidle := h.waits who
  unfold State.settleWait
  rw [if_neg (by simp [hw]), ← hidle]
  cases who <;> rfl

/-- In a bare part nothing settles. -/
theorem settle_bare (h : Bare s) : s.settle = s := by
  have hcapture : s.settleCapture handOverRounds = s := by
    refine settleCapture_stands (refillAll_bare h.records) (.inr ((nextWaiting_none_iff s).mpr fun i r hr => ?_))
    rw [h.records i] at hr
    cases hr
  have hfold : s.settleFold = s := by rw [State.settleFold, h.fold]
  have hread : ∀ p, s.settleRead p = s := fun p => by rw [State.settleRead, h.window p]
  have hbuffers : s.settleBuffers = s := by
    calc s.settleBuffers = { s with layers := s.settleBuffers.layers } := rfl
      _ = { s with layers := s.layers } := by
        refine congrArg (fun l => { s with layers := l }) ?_
        unfold State.settleBuffers
        dsimp only
        rw [h.layers]
        rfl
  unfold State.settle
  dsimp only
  rw [hcapture, hfold, hread, hread, hbuffers, settleWait_bare h, settleWait_bare h, settleWait_bare h]

theorem closeTracks_none (k : Cut) (stop : Bool) (h : ∀ t, (s.track t).openLayer = none) (l : List TrackId) :
    s.closeTracks k stop l = s := by
  induction l with
  | nil => rfl
  | cons t l ih => rw [State.closeTracks, State.closeAtCut, h t, ih]

theorem loseWindow_none (h : ∀ p, s.window p = none) (p : Port) (c : LostCause) : s.loseWindow p c = s := by
  rw [State.loseWindow, h p]

/-- Without cue and window, the entry to REST changes the part state, the tap sequence and the click burst (R209). -/
theorem enterRest_bare (hw : ∀ p, s.window p = none) (hc : s.cues.entries = []) (c : LostCause) (d : RestDetail) :
    s.enterRest c d = ({ s with
      power := { s.power with part := .rest }
      cycle := { s.cycle with tap := TapSeq.empty }
      mixer := { s.mixer with burst := none } }).raise .restEntered none none d.ctorIdx := by
  obtain ⟨u, hu⟩ : ∃ u : State, u = { s with
      power := { s.power with part := .rest }
      cycle := { s.cycle with tap := TapSeq.empty } } := ⟨_, rfl⟩
  have huc : u.cues.entries = [] := by rw [hu]; exact hc
  have huw : ∀ p, u.window p = none := fun p => by
    rw [hu]
    cases p with
    | a => exact hw .a
    | b => exact hw .b
  have hdrop : u.dropAllCues .rest = u := by rw [State.dropAllCues, huc]; rfl
  unfold State.enterRest
  dsimp only
  rw [← hu, hdrop, loseWindow_none huw, loseWindow_none huw, hu]

/-- A bare part with nothing recording and no cue enters REST with its tap sequence and click burst ended (R210). -/
theorem powerLow_bare (h : Bare s) (ho : ∀ t, (s.track t).openLayer = none) (hc : s.cues.entries = []) :
    s.powerLow = ({ s.raise .powerLow none none 0 with
      power := { s.power with part := .rest }
      cycle := { s.cycle with tap := TapSeq.empty }
      mixer := { s.mixer with burst := none } }).raise .restEntered none none 1 := by
  have hfold : s.abandonRunningFold .powerLow = s := by rw [State.abandonRunningFold, h.fold]
  have himp : s.discardImports .powerLow s.importing = s := by
    rw [State.importing, h.layers]
    rfl
  have hraised : ∀ p, (s.raise .powerLow none none 0).window p = none := fun p => by
    cases p with
    | a => exact h.window .a
    | b => exact h.window .b
  unfold State.powerLow
  dsimp only
  rw [closeTracks_none .next false ho, hfold, himp, loseWindow_none h.window, loseWindow_none h.window,
    enterRest_bare hraised hc]
  refine settle_bare ⟨h.layers, h.fold, fun p => ?_, h.records, fun who => ?_⟩
  · cases p with
    | a => exact h.window .a
    | b => exact h.window .b
  · cases who with
    | fold => exact h.waits .fold
    | windowA => exact h.waits .windowA
    | windowB => exact h.waits .windowB

/-! ### The end of the test, and self-refresh (R159, R160, R207) -/

/-- The state that the end of the test leaves, READY raised (R207). -/
def State.tested (s : State) : State :=
  ({ s with mem := { s.mem with mode := .serving }, power := { s.power with part := .run } }).raiseEvent
    { kind := .ready, urgent := false, track := none, layer := none, cue := none, pass := 0, pos := 0
      detail := BitVec.ofNat 16 s.mem.free.length }

theorem finishTest_running (hm : s.mem.mode = .test) (hn : s.mem.testNext = 4096) (hl : s.power.latch = false) :
    s.finishTest = s.tested := (if_pos ⟨hm, hn⟩).trans (if_neg (by simp [hl]))

theorem finishTest_low (hm : s.mem.mode = .test) (hn : s.mem.testNext = 4096) (hl : s.power.latch = true) :
    s.finishTest = s.tested.powerLow := (if_pos ⟨hm, hn⟩).trans (if_pos hl)

theorem selfRefresh_idle (hp : s.power.part = .rest) (hm : s.mem.mode = .serving)
    (hr : ∀ i : Fin 12, s.capture.records[i] = none) (hq : s.mem.queue = []) (hg : s.mem.grant = none) :
    s.selfRefresh = { s with mem := { s.mem with mode := .selfRefresh } } := by
  refine if_pos ⟨hp, hm, List.all_eq_true.mpr fun r hmem => ?_, hq, ?_⟩
  · obtain ⟨i, hi, rfl⟩ := List.getElem_of_mem hmem
    rw [Vector.length_toList] at hi
    rw [Vector.getElem_toList]
    exact Option.isNone_iff_eq_none.mpr (hr ⟨i, hi⟩)
  · rw [State.burstInProgress, hg]

end

/-- Settles O55. -/
theorem startUpTestAndSelfRefresh : Obligations.StartUpTestAndSelfRefresh := by
  unfold Obligations.StartUpTestAndSelfRefresh
  intro s hreset
  have live : ∀ {c : Instr} {f : State → State} {u : State}, exec c s = .next (s.whenLive f) → f s = u →
      exec c s = .next u := fun hc h => hc.trans (congrArg _ ((whenLive_live hreset).trans h))
  refine ⟨fun hm hn => ⟨live rfl (testBlock_passed hm hn), live rfl (testBlock_failed hm hn)⟩,
    fun n c e y hm hn h0 hc he hy => ?_, fun hm hn hl => live rfl (finishTest_running hm hn hl),
    fun ready low rest hm hn hl hlay hopen hfold hwa hwb hcues hrec hf ha hb hready hlow hrest => ?_,
    fun hp hm hr hq hg => live rfl (selfRefresh_idle hp hm hr hq hg)⟩
  · have hy' : s.testCorrected s.mem.testNext n = y := by
      rw [testCorrected_eq h0, hy, hc, he]
      rfl
    have hmem : y.mem = s.mem := by rw [hy]
    refine ⟨live rfl ((testBlock_passed hm hn).trans ?_), live rfl ((testBlock_failed hm hn).trans ?_)⟩
    · rw [hy', hmem]
    · rw [hy', hmem, hc]
      rfl
  · have hbare : Bare s.tested := by
      refine ⟨hlay, hfold, fun p => ?_, hrec, fun who => ?_⟩
      · cases p with
        | a => exact hwa
        | b => exact hwb
      · cases who with
        | fold => exact hf
        | windowA => exact ha
        | windowB => exact hb
    refine live rfl ((finishTest_low hm hn hl).trans ((powerLow_bare hbare hopen hcues).trans ?_))
    rw [hrest, hlow, hready]
    rfl

end Sys2Proof.Machine
